-- ==== Sys2Proof/Word.lean ====
section
/-! DEFINITION. The word types of the ZN-4800 and their plainest arithmetic (spec 00: R2, R3, R7). -/

namespace Sys2Proof

/-- A byte of scratch, register space, device memory or an in-memory record (R3). -/
abbrev Byte := BitVec 8
/-- An instruction word (R104). -/
abbrev Word32 := BitVec 32
/-- A control register, system register or record word. -/
abbrev Word64 := BitVec 64
/-- A core id: die [7:6], y [5:3], x [2:0] (R13). -/
abbrev CoreId := BitVec 8
/-- A context number, 0-63 (R14). -/
abbrev CtxId := BitVec 6

/-- The field `[hi:lo]` of a number read as bits (R3, R7), as a natural number. -/
def fld (w hi lo : Nat) : Nat := w / 2 ^ lo % 2 ^ (hi + 1 - lo)

/-- The field `[hi:lo]` of a bit vector (R3), as a natural number. -/
def bits {n : Nat} (x : BitVec n) (hi lo : Nat) : Nat := fld x.toNat hi lo

/-- Bit `k` of a bit vector. -/
def bit {n : Nat} (x : BitVec n) (k : Nat) : Bool := x.toNat / 2 ^ k % 2 == 1

/-- A truth value as a bit of weight one. -/
def ofBool (b : Bool) : Nat := if b then 1 else 0

/-- SignExtend of R8: the low `n` bits of a number as a two's complement integer. -/
def sext (n : Nat) (v : Nat) : Int :=
  let u := v % 2 ^ n
  if 2 * u < 2 ^ n then (u : Int) else (u : Int) - 2 ^ n

/-- The bytes of a number, little-endian (R3). -/
def toBytes : Nat → Nat → List Byte
  | 0, _ => []
  | n + 1, v => BitVec.ofNat 8 v :: toBytes n (v / 256)

/-- The number that bytes hold, little-endian (R3). -/
def ofBytes : List Byte → Nat
  | [] => 0
  | b :: bs => b.toNat + 256 * ofBytes bs

/-- Sets the field `[hi:lo]` of a 64-bit word to a value. -/
def setFld (x : Word64) (hi lo v : Nat) : Word64 :=
  let m : Word64 := BitVec.ofNat 64 ((2 ^ (hi + 1 - lo) - 1) * 2 ^ lo)
  (x &&& ~~~m) ||| (BitVec.ofNat 64 (v * 2 ^ lo) &&& m)

/-- A write through access codes (R5): the bits of `rw` take the written value, the others stay. -/
def maskWrite (rw old new : Word64) : Word64 := (old &&& ~~~rw) ||| (new &&& rw)

end Sys2Proof
end

