-- ==== Sys2Proof/Syntax.lean ====
section
/-! DEFINITION. The instructions: one constructor for each row of spec/opcode_table.json, the rows with an instruction
word (05, R104-R118) and the rows without one, which are the part's events (95_what_each_step_holds). Each constructor's
arguments are the row's fields, or for an event what happened and to whom. -/

namespace Sys2Proof

/-- The LIMM words that may follow a CI or CM word (R106). -/
inductive LimmExt where
  /-- No LIMM word follows. -/
  | none
  /-- One LIMM word, with its imm25. -/
  | one (a : BitVec 25)
  /-- Two LIMM words, the first's imm25 and then the second's. -/
  | two (a b : BitVec 25)
deriving DecidableEq, Repr

/-- A CI (n = 15) or CM (n = 12) immediate as encoded: the base field and the LIMM words (R106). -/
structure Imm (n : Nat) where
  base : BitVec n
  ext : LimmExt
deriving DecidableEq, Repr

/-- What an ATS Translation Completion says (R293). -/
inductive AtsResult where
  /-- Success: log2 of the size granted, the host physical address, the permissions, and the U bit. -/
  | granted (lsz : Nat) (hpa : Word64) (r w u : Bool)
  /-- Unsupported Request or Completer Abort. -/
  | refused
deriving DecidableEq, Repr

/-- The code of a PRG Response (R295). -/
inductive PrgCode where
  | success | invalidRequest | responseFailure
deriving DecidableEq, Repr

/-- What a peer command asks of the receiving card, in its own context `far` (R297). -/
inductive PeerOp where
  | read (va : BitVec 57) (len : Nat)
  | write (va : BitVec 57) (data : List Byte)
  /-- An ATOM: operation code, width in bytes, operand, comparand, CREAD selector (R162). -/
  | atom (va : BitVec 57) (aop : Nat) (n : Nat) (v cmp : Nat)
deriving DecidableEq, Repr

/-- The outcome a peer command's response carries (R297, R301). -/
inductive PeerStatus where
  | ok | isolation | translation | permission | pkey | poison | unsupported
deriving DecidableEq, Repr

/-- A command or a response that the payloads of one or more flits of its channel carry: the manual gives no layout for it
(log 7). -/
inductive PeerMsg where
  /-- A command: cseq, low-water mark, sending context, its far context, the operation (R297, R300). -/
  | command (cseq lw : BitVec 32) (n far : CtxId) (op : PeerOp)
  /-- A response to cseq, with its outcome and data (R300). -/
  | response (cseq : BitVec 32) (st : PeerStatus) (data : List Byte)
deriving DecidableEq, Repr

/-- A flit (R298): header fields, payload bytes 8-247, crc. -/
structure PeerFlit where
  fseq : BitVec 12
  aseq : BitVec 12
  ak : BitVec 2
  vc : BitVec 2
  reqCredits : BitVec 12
  rspCredits : BitVec 12
  payload : List Byte
  crc : Word64
deriving DecidableEq, Repr

/-- What the power manager measures at an evaluation (R371): board power in mW over the last window, the hottest
sensor of each die and base camp's in degrees, and the clocks the power manager's grant for the cap would allow in MHz. -/
structure PowerSample where
  mw : BitVec 32
  temp : Vector (BitVec 8) 4
  bc : BitVec 8
  capGrant : Vector (BitVec 16) 4
deriving DecidableEq, Repr

/-- What a patrol-scrub read finds in a unit (R374). -/
inductive ScrubResult where
  | clean | corrected | uncorrected
deriving DecidableEq, Repr

/-- Where a storage error strikes (R372). -/
inductive StorageError where
  | dram (pa : BitVec 39)
  | coreSram (core : CoreId) (block : Nat)
  | coreCache (core : CoreId)
  | campTlb
  | laneTable (lane : BitVec 8)
  | baseCamp
  | nandSlot (slot : BitVec 31)
  | saveImage (addr : Word64)
  | nandFirmware
deriving DecidableEq, Repr

/-- How a bring-up step ended (R361): a memory step says which of its 12 channels trained. -/
structure StepResult where
  ok : Bool
  channels : BitVec 12
deriving DecidableEq, Repr

/-- An SPDM request over DOE (R365). -/
inductive SpdmRequest where
  | getVersion | getCapabilities | negotiateAlgorithms | getDigests
  | getCertificate (slot : Nat)
  | challenge (slot : Nat) (nonce : List Byte)
  | getMeasurements (block : Nat) (nonce : List Byte)
  /-- Any other request, by its code. -/
  | other (code : Byte)
deriving DecidableEq, Repr

/-- How a part of a firmware update went (R378): the image read from the host, or the writing and reading back of the NAND. -/
structure UpdResult where
  image : Option (List Byte)
  nandOk : Bool
deriving DecidableEq, Repr

/-- The instructions and events, one constructor a row of spec/opcode_table.json. -/
inductive Instr where
  /-- ADD (R128). Adds two g registers modulo 2^64, or in 32 bits under .W. -/
  | add (d : BitVec 5) (s : BitVec 5) (t : BitVec 5) (w : Bool)
  /-- SUB (R128). Subtracts two g registers modulo 2^64, or in 32 bits under .W. -/
  | sub (d : BitVec 5) (s : BitVec 5) (t : BitVec 5) (w : Bool)
  /-- AND (R128). Bitwise and of two g registers. -/
  | and (d : BitVec 5) (s : BitVec 5) (t : BitVec 5)
  /-- OR (R128). Bitwise or of two g registers. -/
  | or (d : BitVec 5) (s : BitVec 5) (t : BitVec 5)
  /-- XOR (R128). Bitwise exclusive or of two g registers. -/
  | xor (d : BitVec 5) (s : BitVec 5) (t : BitVec 5)
  /-- SHL (R128). Shifts a g register left by a register amount. -/
  | shl (d : BitVec 5) (s : BitVec 5) (t : BitVec 5) (w : Bool)
  /-- SHR (R128). Shifts a g register right, filling with zeros. -/
  | shr (d : BitVec 5) (s : BitVec 5) (t : BitVec 5) (w : Bool)
  /-- SAR (R128). Shifts a g register right, filling with the sign bit. -/
  | sar (d : BitVec 5) (s : BitVec 5) (t : BitVec 5) (w : Bool)
  /-- MUL (R128). Multiplies two g registers modulo 2^64, or in 32 bits under .W. -/
  | mul (d : BitVec 5) (s : BitVec 5) (t : BitVec 5) (w : Bool)
  /-- MULH (R128). High 64 bits of the signed product. -/
  | mulh (d : BitVec 5) (s : BitVec 5) (t : BitVec 5)
  /-- MULHU (R128). High 64 bits of the unsigned product. -/
  | mulhu (d : BitVec 5) (s : BitVec 5) (t : BitVec 5)
  /-- DIV (R129). Signed division truncating toward zero, with fixed results for zero divisors. -/
  | div (d : BitVec 5) (s : BitVec 5) (t : BitVec 5) (w : Bool)
  /-- DIVU (R129). Unsigned division truncating toward zero. -/
  | divu (d : BitVec 5) (s : BitVec 5) (t : BitVec 5) (w : Bool)
  /-- REM (R129). Signed remainder taking the dividend's sign. -/
  | rem (d : BitVec 5) (s : BitVec 5) (t : BitVec 5) (w : Bool)
  /-- REMU (R129). Unsigned remainder. -/
  | remu (d : BitVec 5) (s : BitVec 5) (t : BitVec 5) (w : Bool)
  /-- SLT (R128). Writes 1 if gs1 is less than gs2 as signed, else 0. -/
  | slt (d : BitVec 5) (s : BitVec 5) (t : BitVec 5)
  /-- SLTU (R128). Writes 1 if gs1 is less than gs2 as unsigned, else 0. -/
  | sltu (d : BitVec 5) (s : BitVec 5) (t : BitVec 5)
  /-- MIN (R128). Signed minimum of two g registers. -/
  | min (d : BitVec 5) (s : BitVec 5) (t : BitVec 5)
  /-- MAX (R128). Signed maximum of two g registers. -/
  | max (d : BitVec 5) (s : BitVec 5) (t : BitVec 5)
  /-- MINU (R128). Unsigned minimum of two g registers. -/
  | minu (d : BitVec 5) (s : BitVec 5) (t : BitVec 5)
  /-- MAXU (R128). Unsigned maximum of two g registers. -/
  | maxu (d : BitVec 5) (s : BitVec 5) (t : BitVec 5)
  /-- ADDI (R130). Adds a sign-extended immediate to a g register. -/
  | addi (d : BitVec 5) (s : BitVec 5) (i : Imm 15)
  /-- ANDI (R130). Bitwise and with a sign-extended immediate. -/
  | andi (d : BitVec 5) (s : BitVec 5) (i : Imm 15)
  /-- ORI (R130). Bitwise or with a sign-extended immediate. -/
  | ori (d : BitVec 5) (s : BitVec 5) (i : Imm 15)
  /-- XORI (R130). Bitwise exclusive or with a sign-extended immediate. -/
  | xori (d : BitVec 5) (s : BitVec 5) (i : Imm 15)
  /-- SLTI (R130). Signed compare with an immediate, writing 1 or 0. -/
  | slti (d : BitVec 5) (s : BitVec 5) (i : Imm 15)
  /-- SLTIU (R130). Unsigned compare with a sign-extended immediate, writing 1 or 0. -/
  | sltiu (d : BitVec 5) (s : BitVec 5) (i : Imm 15)
  /-- SHLI (R131). Shifts left by an immediate amount. -/
  | shli (d : BitVec 5) (s : BitVec 5) (w : Bool) (h : BitVec 6)
  /-- SHRI (R131). Shifts right with zero fill by an immediate amount. -/
  | shri (d : BitVec 5) (s : BitVec 5) (w : Bool) (h : BitVec 6)
  /-- SARI (R131). Shifts right with sign fill by an immediate amount. -/
  | sari (d : BitVec 5) (s : BitVec 5) (w : Bool) (h : BitVec 6)
  /-- BEQ (R132). Branches when two g registers are equal. -/
  | beq (s : BitVec 5) (t : BitVec 5) (i : BitVec 15)
  /-- BNE (R132). Branches when two g registers differ. -/
  | bne (s : BitVec 5) (t : BitVec 5) (i : BitVec 15)
  /-- BLT (R132). Branches when gs1 is less than gs2 as signed. -/
  | blt (s : BitVec 5) (t : BitVec 5) (i : BitVec 15)
  /-- BGE (R132). Branches when gs1 is greater or equal to gs2 as signed. -/
  | bge (s : BitVec 5) (t : BitVec 5) (i : BitVec 15)
  /-- BLTU (R132). Branches when gs1 is less than gs2 as unsigned. -/
  | bltu (s : BitVec 5) (t : BitVec 5) (i : BitVec 15)
  /-- BGEU (R132). Branches when gs1 is greater or equal to gs2 as unsigned. -/
  | bgeu (s : BitVec 5) (t : BitVec 5) (i : BitVec 15)
  /-- JAL (R133). Jumps PC-relative and writes the link address. -/
  | jal (d : BitVec 5) (i : BitVec 20)
  /-- JALR (R133). Jumps to a register plus offset and writes the link address, trapping on misalignment. -/
  | jalr (d : BitVec 5) (s : BitVec 5) (i : Imm 15)
  /-- LD (R135). Loads a zero-extended scratch value of width .B to .D into a g register. -/
  | ld (g : BitVec 5) (s : BitVec 5) (w : BitVec 2) (i : Imm 12)
  /-- LDS (R135). Loads a sign-extended scratch value of width .B to .W into a g register. -/
  | lds (g : BitVec 5) (s : BitVec 5) (w : BitVec 2) (i : Imm 12)
  /-- ST (R135). Stores the low bytes of a g register to scratch or the control page. -/
  | st (g : BitVec 5) (s : BitVec 5) (w : BitVec 2) (i : Imm 12)
  /-- AMO_ADD (R137). Atomic add on a scratch unit, returning the old value. -/
  | amoAdd (d : BitVec 5) (s : BitVec 5) (t : BitVec 5) (r : BitVec 2) (x : Bool)
  /-- AMO_AND (R137). Atomic and on a scratch unit, returning the old value. -/
  | amoAnd (d : BitVec 5) (s : BitVec 5) (t : BitVec 5) (r : BitVec 2) (x : Bool)
  /-- AMO_OR (R137). Atomic or on a scratch unit, returning the old value. -/
  | amoOr (d : BitVec 5) (s : BitVec 5) (t : BitVec 5) (r : BitVec 2) (x : Bool)
  /-- AMO_XOR (R137). Atomic exclusive or on a scratch unit, returning the old value. -/
  | amoXor (d : BitVec 5) (s : BitVec 5) (t : BitVec 5) (r : BitVec 2) (x : Bool)
  /-- AMO_MIN (R137). Atomic signed minimum on a scratch unit. -/
  | amoMin (d : BitVec 5) (s : BitVec 5) (t : BitVec 5) (r : BitVec 2) (x : Bool)
  /-- AMO_MAX (R137). Atomic signed maximum on a scratch unit. -/
  | amoMax (d : BitVec 5) (s : BitVec 5) (t : BitVec 5) (r : BitVec 2) (x : Bool)
  /-- AMO_MINU (R137). Atomic unsigned minimum on a scratch unit. -/
  | amoMinu (d : BitVec 5) (s : BitVec 5) (t : BitVec 5) (r : BitVec 2) (x : Bool)
  /-- AMO_MAXU (R137). Atomic unsigned maximum on a scratch unit. -/
  | amoMaxu (d : BitVec 5) (s : BitVec 5) (t : BitVec 5) (r : BitVec 2) (x : Bool)
  /-- AMO_SWAP (R137). Atomic swap on a scratch unit. -/
  | amoSwap (d : BitVec 5) (s : BitVec 5) (t : BitVec 5) (r : BitVec 2) (x : Bool)
  /-- AMO_CAS (R137). Atomic compare-and-swap on a scratch unit against gd. -/
  | amoCas (d : BitVec 5) (s : BitVec 5) (t : BitVec 5) (r : BitVec 2) (x : Bool)
  /-- FENCE (R87). Orders every path before every later non-HX path at task or core scope. -/
  | fence (s : BitVec 3)
  /-- XFENCE (R86). Waits until earlier accesses of the from paths perform at scope s before later accesses of the to paths. -/
  | xfence (s : BitVec 3) (f : BitVec 6) (t : BitVec 6)
  /-- DRAIN (R88). Waits until every earlier copy, transform and ATOM has completed with accesses performed at scope s. -/
  | drain (s : BitVec 3)
  /-- FENCE_RETURN (R140). A waiting FENCE, XFENCE or DRAIN returns once its condition holds. -/
  | fenceReturn (core : CoreId)
  /-- SRD (R141). Reads a system register into a g register. -/
  | srd (g : BitVec 5) (n : BitVec 12)
  /-- SWR (R141). Writes a g register to a system register through its access codes. -/
  | swr (g : BitVec 5) (n : BitVec 12)
  /-- SSET (R141). Sets the bits of a system register that g holds. -/
  | sset (g : BitVec 5) (n : BitVec 12)
  /-- SCLR (R141). Clears the bits of a system register that g holds. -/
  | sclr (g : BitVec 5) (n : BitVec 12)
  /-- TRAP (R146). Raises the software trap carrying imm16. -/
  | trap (i : BitVec 16)
  /-- YIELD (R147). Offers the core, pre-empting the task if a request or a better-ranked ready record is pending. -/
  | yield
  /-- FSET (R148). Control-stream set of an event flag, a core-scope release of the CP path. -/
  | fset (f : BitVec 4)
  /-- FCLR (R148). Control-stream clear of an event flag. -/
  | fclr (f : BitVec 4)
  /-- FWAIT (R148). Stalls the CP until the event flag reads 1. -/
  | fwait (f : BitVec 4)
  /-- FWAIT_RETURN (R148). A waiting FWAIT returns as an acquire once its flag is 1. -/
  | fwaitReturn (core : CoreId)
  /-- CPY (R154). Issues a contiguous copy between two endpoints, taking a copy tag. -/
  | cpy (a : BitVec 5) (b : BitVec 5) (c : BitVec 5)
  /-- CPYS (R155). Issues a strided copy described by a scratch descriptor. -/
  | cpys (a : BitVec 5) (b : BitVec 5) (c : BitVec 5)
  /-- CPYX (R157). Issues a transform through a transducer lane described by a scratch descriptor. -/
  | cpyx (a : BitVec 5) (b : BitVec 5) (c : BitVec 5)
  /-- LANE_LOAD (R160). Issues a load of a transducer table into a lane's table store. -/
  | laneLoad (a : BitVec 5) (b : BitVec 5) (c : BitVec 5)
  /-- CIM_FILL (R161). Issues a fill of shadow rows from one code per byte. -/
  | cimFill (a : BitVec 5) (b : BitVec 5) (c : BitVec 5)
  /-- ATOM_ADD (R162). Memory-side atomic add at the target's unit. -/
  | atomAdd (a : BitVec 5) (b : BitVec 5) (c : BitVec 5) (s : BitVec 3) (r : BitVec 2) (x : Bool)
  /-- ATOM_AND (R162). Memory-side atomic and. -/
  | atomAnd (a : BitVec 5) (b : BitVec 5) (c : BitVec 5) (s : BitVec 3) (r : BitVec 2) (x : Bool)
  /-- ATOM_OR (R162). Memory-side atomic or. -/
  | atomOr (a : BitVec 5) (b : BitVec 5) (c : BitVec 5) (s : BitVec 3) (r : BitVec 2) (x : Bool)
  /-- ATOM_XOR (R162). Memory-side atomic exclusive or. -/
  | atomXor (a : BitVec 5) (b : BitVec 5) (c : BitVec 5) (s : BitVec 3) (r : BitVec 2) (x : Bool)
  /-- ATOM_MIN (R162). Memory-side atomic signed minimum. -/
  | atomMin (a : BitVec 5) (b : BitVec 5) (c : BitVec 5) (s : BitVec 3) (r : BitVec 2) (x : Bool)
  /-- ATOM_MAX (R162). Memory-side atomic signed maximum. -/
  | atomMax (a : BitVec 5) (b : BitVec 5) (c : BitVec 5) (s : BitVec 3) (r : BitVec 2) (x : Bool)
  /-- ATOM_MINU (R162). Memory-side atomic unsigned minimum. -/
  | atomMinu (a : BitVec 5) (b : BitVec 5) (c : BitVec 5) (s : BitVec 3) (r : BitVec 2) (x : Bool)
  /-- ATOM_MAXU (R162). Memory-side atomic unsigned maximum. -/
  | atomMaxu (a : BitVec 5) (b : BitVec 5) (c : BitVec 5) (s : BitVec 3) (r : BitVec 2) (x : Bool)
  /-- ATOM_SWAP (R162). Memory-side atomic swap. -/
  | atomSwap (a : BitVec 5) (b : BitVec 5) (c : BitVec 5) (s : BitVec 3) (r : BitVec 2) (x : Bool)
  /-- ATOM_CAS (R162). Memory-side compare-and-swap with the comparand read from the result address at issue. -/
  | atomCas (a : BitVec 5) (b : BitVec 5) (c : BitVec 5) (s : BitVec 3) (r : BitVec 2) (x : Bool)
  /-- ATOM_FADD (R67). Order-independent FP32 add into a fixed-point atomic cell. -/
  | atomFadd (a : BitVec 5) (b : BitVec 5) (c : BitVec 5) (s : BitVec 3) (r : BitVec 2)
  /-- ATOM_CREAD (R162). Reads a fixed-point cell raw or rounded to FP32. -/
  | atomCread (a : BitVec 5) (b : BitVec 5) (c : BitVec 5) (s : BitVec 3) (r : BitVec 2)
  /-- LOOP (R163). Checks a body and nest, snapshots views and jet order, and queues a loop command. -/
  | loop (a : BitVec 5) (b : BitVec 5) (c : BitVec 5)
  /-- PPUSH (R164). Appends a g register to the parameter queue. -/
  | ppush (a : BitVec 5)
  /-- CIM_MODE_SCRATCH (R165). Queues a change of a bank to SCRATCH mode. -/
  | cimModeScratch (b : BitVec 5)
  /-- CIM_MODE_COMPUTE (R165). Queues a change of a bank to COMPUTE mode with a weight kind. -/
  | cimModeCompute (b : BitVec 5) (k : BitVec 5)
  /-- QCW_SET (R167). Waits for the queue word to be quiet, checks and writes its two words. -/
  | qcwSet (q : BitVec 3) (a : BitVec 5) (b : BitVec 5)
  /-- QCW_GET (R167). Returns both words of a queue control word as one snapshot. -/
  | qcwGet (q : BitVec 3) (a : BitVec 5) (b : BitVec 5)
  /-- AQ_REMAP (R168). Sets the address-queue remap and base for a data queue. -/
  | aqRemap (q : BitVec 3) (a : BitVec 5) (b : BitVec 5)
  /-- QCW_SET_QUIET (R167). A waiting QCW.SET performs once its queue word is quiet. -/
  | qcwSetQuiet (core : CoreId)
  /-- SETV (R166). Writes a view register from a g register. -/
  | setv (v : BitVec 3) (a : BitVec 5)
  /-- SETJ (R166). Sets the jet order from a g register. -/
  | setj (a : BitVec 5)
  /-- SYNC_ARM (R169). Returns a sync word's generation and arms its target. -/
  | syncArm (a : BitVec 5) (b : BitVec 5) (c : BitVec 5)
  /-- SYNC_WAIT (R169). Waits until a sync word's generation has passed a value. -/
  | syncWait (a : BitVec 5) (b : BitVec 5)
  /-- SYNC_ADD (R169). Adds a byte count to a sync word as an arrival. -/
  | syncAdd (a : BitVec 5) (b : BitVec 5)
  /-- SYNC_WAIT_RETURN (R169). A waiting SYNC.WAIT returns as an acquire once the generation has moved. -/
  | syncWaitReturn (core : CoreId)
  /-- BAR_INIT (R170). Initialises a barrier with a member mask on this core. -/
  | barInit (b : BitVec 6) (a : BitVec 5)
  /-- BAR_ARRIVE (R43). Arrives at a barrier as a die-scope release, sending the arrival to every member. -/
  | barArrive (b : BitVec 6)
  /-- BAR_WAIT (R43). Waits until the barrier's generation differs from that at this core's last arrival. -/
  | barWait (b : BitVec 6)
  /-- BARRIER_ARRIVAL_RECEIVE (R43). An arrival reaches a core and is counted, held or discarded. -/
  | barrierArrivalReceive (k : Nat)
  /-- BAR_WAIT_RETURN (R43). A waiting BAR.WAIT returns as a die-scope acquire. -/
  | barWaitReturn (core : CoreId)
  /-- SPAWN (R174). Builds a child continuation record, raises the cairns' expected counts and hands it to base camp. -/
  | spawn (a : BitVec 5) (b : BitVec 5) (c : BitVec 5)
  /-- SPAWN_ACCEPT (R174). Base camp accepts a spawned record and the stalled SPAWN returns. -/
  | spawnAccept (core : CoreId)
  /-- JOIN (R175). Waits until the task's join count is 0. -/
  | join (a : BitVec 5)
  /-- JOIN_RETURN (R175). JOIN returns the count of failed joined children as a device-scope acquire. -/
  | joinReturn (core : CoreId)
  /-- DONE (R22). Ends the task once its queues are empty and its engine work has finished. -/
  | done
  /-- DONE_PERFORM (R306). DONE's conditions hold: the task ends and its four cairns are counted in one indivisible step. -/
  | donePerform (core : CoreId)
  /-- CANCEL (R175). Cancels the named level holding the task, which itself ends. -/
  | cancel (a : BitVec 5)
  /-- ROPE (R171). Joins the core into a rope of a legal shape and waits for it to form. -/
  | rope (a : BitVec 5)
  /-- UNROPE (R44). The leader asks to release the rope once its command queue empties. -/
  | unrope
  /-- REJOIN (R44). Waits until every rope member has executed REJOIN. -/
  | rejoin
  /-- ROPE_FORM (R44). The rope forms once every member has executed ROPE with an empty command queue. -/
  | ropeForm (core : CoreId)
  /-- UNROPE_RELEASE (R44). The rope is released once the leader's command queue is empty. -/
  | unropeRelease (core : CoreId)
  /-- REJOIN_RETURN (R44). REJOIN returns on every member as a rope-scope acquire. -/
  | rejoinReturn (core : CoreId)
  /-- RTREE_SUM (R172). Contributes planes of FP32 lanes to a reduction-tree sum. -/
  | rtreeSum (a : BitVec 5) (b : BitVec 5) (c : BitVec 5)
  /-- RTREE_MAX (R172). Contributes 64 lanes to a reduction-tree maximum. -/
  | rtreeMax (a : BitVec 5) (b : BitVec 5) (c : BitVec 5)
  /-- RTREE_MAXSUM (R172). Contributes (m, s) lane pairs to the paired maximum-and-sum tree. -/
  | rtreeMaxsum (a : BitVec 5) (b : BitVec 5) (c : BitVec 5)
  /-- RTREE_NODE_COMBINE (R73). A tree node combines its children's values once all have arrived. -/
  | rtreeNodeCombine (ctx : CtxId) (tid : BitVec 16) (node : Nat)
  /-- RTREE_RESULT (R172). The tree result performs in each member's scratch and RTREE returns. -/
  | rtreeResult (core : CoreId)
  /-- COMMAND_QUEUE_ROOM (R24). An entry frees and a CP command stalled on a full command queue proceeds. -/
  | commandQueueRoom (core : CoreId)
  /-- PARAMETER_QUEUE_ROOM (R25). A pop frees room and a stalled PPUSH appends its value. -/
  | parameterQueueRoom (core : CoreId)
  /-- COPY_TAG_FREE (R150). A copy tag frees and a CP command stalled for a tag takes it. -/
  | copyTagFree (core : CoreId)
  /-- COPY_START (R153). The engine starts a copy-family command or ATOM, running its start checks in order. -/
  | copyStart (core : CoreId) (tag : BitVec 7)
  /-- COPY_ARRIVAL (R95). Bytes of a copy perform at their scope and arrive at the completion sync word. -/
  | copyArrival (core : CoreId) (tag : BitVec 7) (off len : Nat)
  /-- COPY_COMPLETE (R153). Every access of a command has performed and its arrivals are done; the tag frees. -/
  | copyComplete (core : CoreId) (tag : BitVec 7)
  /-- CPYX_BLOCK (R158). A lane handles one transform block: checks, decodes, checks the CRC and commits or faults. -/
  | cpyxBlock (lane : BitVec 8)
  /-- LANE_TABLE_CHECK (R160). A lane loads and checks a transducer table, holding it with context and tag or faulting. -/
  | laneTableCheck (lane : BitVec 8)
  /-- ATOM_PERFORM (R162). The target's unit performs an ATOM indivisibly and returns its result. -/
  | atomPerform (core : CoreId) (tag : BitVec 7)
  /-- GATHER_ELEMENT (R230). The engine reads one remapped element and appends it to its data queue. -/
  | gatherElement (core : CoreId) (qw : BitVec 3)
  /-- SCATTER_ELEMENT (R230). The engine writes the oldest untaken queue element to its remapped address. -/
  | scatterElement (core : CoreId) (qw : BitVec 3)
  /-- CIM_MODE_PERFORM (R38). The VS begins a queued CIM.MODE once earlier work on the bank has finished, and starts zeroing. -/
  | cimModePerform (core : CoreId)
  /-- CIM_MODE_ZEROING_END (R37). After 64 arithmetic clock cycles the bank takes its new mode and waiters proceed. -/
  | cimModeZeroingEnd (core : CoreId)
  /-- LOOP_COMMAND_BEGIN (R27). The VS begins the next queued loop command and issues its body over the nest. -/
  | loopCommandBegin (core : CoreId)
  /-- VADD (R182). Element-wise floating-point add over jets. -/
  | vadd (c : Bool) (s : Bool) (d : BitVec 8) (a : BitVec 8) (b : BitVec 8)
  /-- VSUB (R182). Element-wise floating-point subtract. -/
  | vsub (c : Bool) (s : Bool) (d : BitVec 8) (a : BitVec 8) (b : BitVec 8)
  /-- VMUL (R182). Element-wise floating-point multiply with the Cauchy rule. -/
  | vmul (c : Bool) (s : Bool) (d : BitVec 8) (a : BitVec 8) (b : BitVec 8)
  /-- VDIV (R182). Element-wise correctly rounded floating-point divide. -/
  | vdiv (c : Bool) (s : Bool) (d : BitVec 8) (a : BitVec 8) (b : BitVec 8)
  /-- VFMA (R182). Fused multiply-add into vd with one rounding per coefficient. -/
  | vfma (c : Bool) (s : Bool) (d : BitVec 8) (a : BitVec 8) (b : BitVec 8)
  /-- VFNMA (R182). Fused negated multiply-add into vd with one rounding per coefficient. -/
  | vfnma (c : Bool) (s : Bool) (d : BitVec 8) (a : BitVec 8) (b : BitVec 8)
  /-- VMIN (R182). Floating-point minimum chosen on plane 0. -/
  | vmin (c : Bool) (s : Bool) (d : BitVec 8) (a : BitVec 8) (b : BitVec 8)
  /-- VMAX (R182). Floating-point maximum chosen on plane 0. -/
  | vmax (c : Bool) (s : Bool) (d : BitVec 8) (a : BitVec 8) (b : BitVec 8)
  /-- VCSGN (R182). Copies the sign of b's plane 0 onto a's jet. -/
  | vcsgn (c : Bool) (s : Bool) (d : BitVec 8) (a : BitVec 8) (b : BitVec 8)
  /-- VMOV (R183). Copies every byte of every plane. -/
  | vmov (c : Bool) (s : Bool) (d : BitVec 8) (a : BitVec 8)
  /-- VNEG (R183). Inverts the sign bit of every coefficient. -/
  | vneg (c : Bool) (s : Bool) (d : BitVec 8) (a : BitVec 8)
  /-- VABS (R183). Absolute value of a jet. -/
  | vabs (c : Bool) (s : Bool) (d : BitVec 8) (a : BitVec 8)
  /-- VSQRT (R183). Jet square root. -/
  | vsqrt (c : Bool) (s : Bool) (d : BitVec 8) (a : BitVec 8)
  /-- VRSQRT (R183). Jet reciprocal square root. -/
  | vrsqrt (c : Bool) (s : Bool) (d : BitVec 8) (a : BitVec 8)
  /-- VRCP (R183). Jet reciprocal. -/
  | vrcp (c : Bool) (s : Bool) (d : BitVec 8) (a : BitVec 8)
  /-- VEXP (R183). Jet exponential. -/
  | vexp (c : Bool) (s : Bool) (d : BitVec 8) (a : BitVec 8)
  /-- VLOG (R183). Jet natural logarithm. -/
  | vlog (c : Bool) (s : Bool) (d : BitVec 8) (a : BitVec 8)
  /-- VTANH (R183). Jet hyperbolic tangent. -/
  | vtanh (c : Bool) (s : Bool) (d : BitVec 8) (a : BitVec 8)
  /-- VSIGM (R183). Jet sigmoid. -/
  | vsigm (c : Bool) (s : Bool) (d : BitVec 8) (a : BitVec 8)
  /-- VSIN (R183). Jet sine from the coupled sin and cos pair. -/
  | vsin (c : Bool) (s : Bool) (d : BitVec 8) (a : BitVec 8)
  /-- VCOS (R183). Jet cosine from the coupled sin and cos pair. -/
  | vcos (c : Bool) (s : Bool) (d : BitVec 8) (a : BitVec 8)
  /-- VCMPEQ (R184). Floating-point equality compare on plane 0 to a lane mask. -/
  | vcmpeq (c : Bool) (s : Bool) (d : BitVec 8) (a : BitVec 8) (b : BitVec 8)
  /-- VCMPLT (R184). Floating-point less-than compare on plane 0 to a lane mask. -/
  | vcmplt (c : Bool) (s : Bool) (d : BitVec 8) (a : BitVec 8) (b : BitVec 8)
  /-- VCMPLE (R184). Floating-point less-or-equal compare on plane 0 to a lane mask. -/
  | vcmple (c : Bool) (s : Bool) (d : BitVec 8) (a : BitVec 8) (b : BitVec 8)
  /-- VIADD (R186). Integer add modulo the element width. -/
  | viadd (c : Bool) (s : Bool) (d : BitVec 8) (a : BitVec 8) (b : BitVec 8)
  /-- VISUB (R186). Integer subtract modulo the element width. -/
  | visub (c : Bool) (s : Bool) (d : BitVec 8) (a : BitVec 8) (b : BitVec 8)
  /-- VIMUL (R186). Integer multiply keeping the low bits. -/
  | vimul (c : Bool) (s : Bool) (d : BitVec 8) (a : BitVec 8) (b : BitVec 8)
  /-- VIMIN (R186). Signed integer minimum. -/
  | vimin (c : Bool) (s : Bool) (d : BitVec 8) (a : BitVec 8) (b : BitVec 8)
  /-- VIMAX (R186). Signed integer maximum. -/
  | vimax (c : Bool) (s : Bool) (d : BitVec 8) (a : BitVec 8) (b : BitVec 8)
  /-- VAND (R186). Bitwise and of lanes. -/
  | vand (c : Bool) (s : Bool) (d : BitVec 8) (a : BitVec 8) (b : BitVec 8)
  /-- VOR (R186). Bitwise or of lanes. -/
  | vor (c : Bool) (s : Bool) (d : BitVec 8) (a : BitVec 8) (b : BitVec 8)
  /-- VXOR (R186). Bitwise exclusive or of lanes. -/
  | vxor (c : Bool) (s : Bool) (d : BitVec 8) (a : BitVec 8) (b : BitVec 8)
  /-- VSHL (R186). Integer shift left by b modulo the width. -/
  | vshl (c : Bool) (s : Bool) (d : BitVec 8) (a : BitVec 8) (b : BitVec 8)
  /-- VSHR (R186). Integer logical shift right. -/
  | vshr (c : Bool) (s : Bool) (d : BitVec 8) (a : BitVec 8) (b : BitVec 8)
  /-- VSAR (R186). Integer arithmetic shift right. -/
  | vsar (c : Bool) (s : Bool) (d : BitVec 8) (a : BitVec 8) (b : BitVec 8)
  /-- VICMPEQ (R184). Integer equality compare on plane 0 to a lane mask. -/
  | vicmpeq (c : Bool) (s : Bool) (d : BitVec 8) (a : BitVec 8) (b : BitVec 8)
  /-- VICMPLT (R184). Signed integer less-than compare on plane 0 to a lane mask. -/
  | vicmplt (c : Bool) (s : Bool) (d : BitVec 8) (a : BitVec 8) (b : BitVec 8)
  /-- VSEL (R185). Selects va or vb per lane by the mask in vd. -/
  | vsel (c : Bool) (s : Bool) (d : BitVec 8) (a : BitVec 8) (b : BitVec 8)
  /-- CVT_FF (R188). Converts between floating-point formats. -/
  | cvtFf (c : Bool) (s : Bool) (d : BitVec 8) (a : BitVec 8) (t : Bool)
  /-- CVT_FI (R188). Converts floating point to INT32 or a code kind with saturation. -/
  | cvtFi (c : Bool) (s : Bool) (d : BitVec 8) (a : BitVec 8) (t : Bool) (k : BitVec 5)
  /-- CVT_IF (R188). Converts INT32 to floating point. -/
  | cvtIf (c : Bool) (s : Bool) (d : BitVec 8) (a : BitVec 8)
  /-- CVT_CI (R188). Converts code-kind elements to INT32. -/
  | cvtCi (c : Bool) (s : Bool) (d : BitVec 8) (a : BitVec 8) (k : BitVec 5)
  /-- VRSUM (R189). Exact sum of a plane's lanes rounded once, broadcast to every lane. -/
  | vrsum (c : Bool) (s : Bool) (d : BitVec 8) (a : BitVec 8)
  /-- VRMAX (R189). In-vector maximum chosen on plane 0, broadcast. -/
  | vrmax (c : Bool) (s : Bool) (d : BitVec 8) (a : BitVec 8)
  /-- VRMIN (R189). In-vector minimum chosen on plane 0, broadcast. -/
  | vrmin (c : Bool) (s : Bool) (d : BitVec 8) (a : BitVec 8)
  /-- VRISUM (R189). Integer sum of a plane's lanes modulo 2^32, broadcast. -/
  | vrisum (c : Bool) (s : Bool) (d : BitVec 8) (a : BitVec 8)
  /-- VPERM (R190). Permutes lanes by indices from plane 0 of vb. -/
  | vperm (c : Bool) (s : Bool) (d : BitVec 8) (a : BitVec 8) (b : BitVec 8)
  /-- VBCAST (R191). Broadcasts one lane's jet to every lane. -/
  | vbcast (c : Bool) (s : Bool) (d : BitVec 8) (a : BitVec 8) (i : BitVec 8)
  /-- JSEED (R192). Makes plane 0 of va the jet of an independent variable. -/
  | jseed (c : Bool) (s : Bool) (d : BitVec 8) (a : BitVec 8)
  /-- JEXT (R192). Extracts coefficient k into plane 0, scaled by k! under .F. -/
  | jext (c : Bool) (s : Bool) (d : BitVec 8) (a : BitVec 8) (f : Bool) (k : BitVec 3)
  /-- JSET (R192). Writes plane 0 of va into plane k of vd. -/
  | jset (c : Bool) (s : Bool) (d : BitVec 8) (a : BitVec 8) (k : BitVec 3)
  /-- CIM_PASS (R201). Multiplies bank weights by activation codes exactly and lands the sums in accumulators. -/
  | cimPass (c : Bool) (b : BitVec 5) (l : BitVec 3) (a : BitVec 7) (p : BitVec 3) (e : BitVec 4) (o : Bool) (n : Bool) (g : Bool)
  /-- CIM_SWAP (R203). Exchanges a FULL bank's halves, or traps swap-before-full. -/
  | cimSwap (c : Bool) (b : BitVec 5)
  /-- CIM_SWAPW (R203). Exchanges a bank's halves, stalling the vector stream until it is FULL. -/
  | cimSwapw (c : Bool) (b : BitVec 5)
  /-- ACC_CLR (R206). Lands zero in every column of an accumulator's planes. -/
  | accClr (c : Bool) (e : BitVec 4)
  /-- ACC_CVT_F32 (R206). Converts an accumulator to FP32 lanes with one rounding. -/
  | accCvtF32 (c : Bool) (d : BitVec 7) (e : BitVec 4)
  /-- ACC_CVT_I32 (R206). Converts an accumulator to saturated INT32 lanes. -/
  | accCvtI32 (c : Bool) (d : BitVec 7) (e : BitVec 4)
  /-- LUT_BUILD (R207). Builds the codebook product table in the last bank of cluster 1. -/
  | lutBuild (c : Bool) (v : BitVec 7) (i : BitVec 4)
  /-- LUT_ACC (R208). Pops 128 code bytes and adds looked-up products exactly into an accumulator. -/
  | lutAcc (c : Bool) (e : BitVec 4) (q : BitVec 3) (k : BitVec 4)
  /-- OUTL (R209). Pops four outlier triples and adds their exact products into an accumulator. -/
  | outl (c : Bool) (e : BitVec 4) (v : BitVec 7) (q : BitVec 3)
  /-- RSC (R210). Rescales an accumulator to FP32 with one rounding, using scale table and group exponents. -/
  | rsc (c : Bool) (d : BitVec 7) (e : BitVec 4) (t : BitVec 4) (q : BitVec 3)
  /-- QNT (R212). Quantises FP32 lanes into codes by a parameter record. -/
  | qnt (c : Bool) (d : BitVec 7) (v : BitVec 7) (p : BitVec 4)
  /-- QPAR (R213). Computes scales and zero point and writes a parameter record at landing. -/
  | qpar (c : Bool) (v : BitVec 7) (p : BitVec 4) (k : BitVec 5)
  /-- IADD (R216). Index add modulo 2^32. -/
  | iadd (c : Bool) (d : BitVec 4) (a : BitVec 4) (b : BitVec 4)
  /-- ISUB (R216). Index subtract modulo 2^32. -/
  | isub (c : Bool) (d : BitVec 4) (a : BitVec 4) (b : BitVec 4)
  /-- ISHL (R216). Index shift left. -/
  | ishl (c : Bool) (d : BitVec 4) (a : BitVec 4) (b : BitVec 4)
  /-- ISHR (R216). Index logical shift right. -/
  | ishr (c : Bool) (d : BitVec 4) (a : BitVec 4) (b : BitVec 4)
  /-- IAND (R216). Index bitwise and. -/
  | iand (c : Bool) (d : BitVec 4) (a : BitVec 4) (b : BitVec 4)
  /-- IOR (R216). Index bitwise or. -/
  | ior (c : Bool) (d : BitVec 4) (a : BitVec 4) (b : BitVec 4)
  /-- IMUL (R216). Index multiply modulo 2^32. -/
  | imul (c : Bool) (d : BitVec 4) (a : BitVec 4) (b : BitVec 4)
  /-- IPOPC (R217). Counts the 1 bits of an index register. -/
  | ipopc (c : Bool) (d : BitVec 4) (a : BitVec 4)
  /-- ICMPADV (R218). Compares two coordinates and advances a position pair. -/
  | icmpadv (c : Bool) (d : BitVec 4) (a : BitVec 4) (b : BitVec 4)
  /-- IADDI (R216). Index add of a 13-bit immediate. -/
  | iaddi (c : Bool) (d : BitVec 4) (a : BitVec 4) (i : BitVec 13)
  /-- ISUBI (R216). Index subtract of an immediate. -/
  | isubi (c : Bool) (d : BitVec 4) (a : BitVec 4) (i : BitVec 13)
  /-- ISHLI (R216). Index shift left by an immediate. -/
  | ishli (c : Bool) (d : BitVec 4) (a : BitVec 4) (i : BitVec 13)
  /-- ISHRI (R216). Index logical shift right by an immediate. -/
  | ishri (c : Bool) (d : BitVec 4) (a : BitVec 4) (i : BitVec 13)
  /-- IANDI (R216). Index and with an immediate. -/
  | iandi (c : Bool) (d : BitVec 4) (a : BitVec 4) (i : BitVec 13)
  /-- IORI (R216). Index or with an immediate. -/
  | iori (c : Bool) (d : BitVec 4) (a : BitVec 4) (i : BitVec 13)
  /-- IMULI (R216). Index multiply by an immediate. -/
  | imuli (c : Bool) (d : BitVec 4) (a : BitVec 4) (i : BitVec 13)
  /-- ILI (R217). Loads a sign-extended 21-bit immediate into an index register. -/
  | ili (c : Bool) (d : BitVec 4) (i : BitVec 21)
  /-- ZINIT (R224). Opens a level of a tensor descriptor in a stream register. -/
  | zinit (c : Bool) (i : BitVec 4) (z : BitVec 3) (l : BitVec 3)
  /-- ZNEXT (R225). Advances a stream by one position. -/
  | znext (c : Bool) (z : BitVec 3)
  /-- ZSKIP (R225). Advances a stream to the first coordinate at or above a bound. -/
  | zskip (c : Bool) (i : BitVec 4) (z : BitVec 3)
  /-- ZISECT (R226). Takes one intersection step over two streams. -/
  | zisect (c : Bool) (i : BitVec 4) (z : BitVec 3) (y : BitVec 3)
  /-- ZUNION (R226). Takes one union step over two streams. -/
  | zunion (c : Bool) (i : BitVec 4) (z : BitVec 3) (y : BitVec 3)
  /-- ZDOWN (R224). Opens the child fibre of another stream's current position. -/
  | zdown (c : Bool) (z : BitVec 3) (y : BitVec 3)
  /-- ZCRD (R227). Reads a stream's current or last-taken coordinate. -/
  | zcrd (c : Bool) (i : BitVec 4) (z : BitVec 3) (m : Bool)
  /-- ZPOS (R227). Reads a stream's position, taken position, end or origin. -/
  | zpos (c : Bool) (i : BitVec 4) (z : BitVec 3) (m : BitVec 2)
  /-- AQPUSH (R229). Pushes an index for a gather or scatter onto the address queue. -/
  | aqpush (c : Bool) (i : BitVec 4) (q : BitVec 3)
  /-- IGET (R217). Reads a loop index or loop.ofs of the group's iteration. -/
  | iget (c : Bool) (i : BitVec 4) (q : BitVec 3)
  /-- XLD (R233). Loads a register-space operand from scratch. -/
  | xld (c : Bool) (n : BitVec 8) (a : BitVec 4) (i : BitVec 13)
  /-- XST (R233). Stores a register-space operand to scratch. -/
  | xst (c : Bool) (n : BitVec 8) (a : BitVec 4) (i : BitVec 13)
  /-- DQPOP (R234). Pops an operand's worth of bytes from a data queue. -/
  | dqpop (c : Bool) (n : BitVec 8) (q : BitVec 3)
  /-- DQPEEK (R234). Lands an operand's worth of queue bytes without removing them. -/
  | dqpeek (c : Bool) (n : BitVec 8) (q : BitVec 3)
  /-- PPOP (R234). Pops the oldest parameter into an index register. -/
  | ppop (c : Bool) (d : BitVec 4)
  /-- XMV (R235). Moves every byte of one name to another of equal size, across clusters. -/
  | xmv (c : Bool) (d : BitVec 8) (v : BitVec 8)
  /-- X_FSET (R236). Vector-stream set of an event flag, a release of the VS path. -/
  | xFset (c : Bool) (f : BitVec 4)
  /-- X_FCLR (R236). Vector-stream clear of an event flag. -/
  | xFclr (c : Bool) (f : BitVec 4)
  /-- FTST (R236). Lands an event flag's value in an index register, an acquire on 1. -/
  | ftst (c : Bool) (d : BitVec 4) (f : BitVec 4)
  /-- FRD (R236). Lands half of fp.flags in an index register. -/
  | frd (c : Bool) (d : BitVec 4) (h : Bool)
  /-- NOP (R115). Issues a vector group that does nothing. -/
  | nop
  /-- RESULT_LANDING (R240). Results whose landing cycle is reached are written to their destinations. -/
  | resultLanding (core : CoreId)
  /-- STALLED_GROUP_ISSUE (R237). A stalled group's conditions all hold and it issues with all its words. -/
  | stalledGroupIssue (core : CoreId)
  /-- QUEUE_STALL (R237). A stall reaches 2^20 clock cycles and raises the queue-stall trap. -/
  | queueStall (core : CoreId)
  /-- TASK_FAULT_END (R338). After a trap or fault the engines drain, the landing queue is discarded, the record is written and the core released. -/
  | taskFaultEnd (core : CoreId)
  /-- PREEMPTION (R347). A pre-emption request is taken at a pre-emption point and both streams stop. -/
  | preemption (core : CoreId)
  /-- SAVE_IMAGE_WRITE (R351). Once in-flight engine work ends, the save image is written and a resumption record queued. -/
  | saveImageWrite (core : CoreId)
  /-- TASK_POP (R313). An idle core pops the best-ranked continuation record of its die or, for sp launches, another die. -/
  | taskPop (core : CoreId)
  /-- ROPE_GROUP_RESTORE (R350). A rope's resumption group is restored when idle cores form the same shape. -/
  | ropeGroupRestore (core : CoreId)
  /-- TASK_WATCHDOG (R357). A task's running time reaches wd.task.limit and it is stopped with cause 25. -/
  | taskWatchdog (core : CoreId)
  /-- STOP_WATCHDOG (R357). A stop not finished within wd.stop makes the context dead. -/
  | stopWatchdog (core : CoreId)
  /-- CTX_KILL (R358). A write of kill to ctx.stat declares the context dead. -/
  | ctxKill (ctx : CtxId)
  /-- CONTEXT_DRAIN_DONE (R358). Every request of the dead context has drained; drain clears and its resources are released. -/
  | contextDrainDone (ctx : CtxId)
  /-- CTX_CFG_WRITE (R286). A write to ctx.cfg enables, configures or disables a context, or is refused. -/
  | ctxCfgWrite (ctx : CtxId) (v : Word64)
  /-- SQ_TAIL_WRITE (R288). The doorbell write advances the tail, stops the queue, or is ignored. -/
  | sqTailWrite (ctx : CtxId) (v : BitVec 32)
  /-- SQ_STOP_CLEAR (R288). Writing 1 to stop clears it, discards unread records and sets tail to head. -/
  | sqStopClear (ctx : CtxId)
  /-- SUBMISSION_READ (R288). Base camp reads the record at head while head differs from tail. -/
  | submissionRead (ctx : CtxId)
  /-- FINALISE (R253). The finaliser schedules a ZPF container into native code or refuses it. -/
  | finalise (lc : BitVec 12)
  /-- LAUNCH_EXPANSION (R310). A resident launch gets its identifier, raises exp and appends one record per tile coordinate. -/
  | launchExpansion (lc : BitVec 12)
  /-- CAIRN_ARM (R304). A cairn.cfg write with en 1 arms the cairn as open. -/
  | cairnArm (cairn : BitVec 12) (v : Word64)
  /-- CAIRN_FREE (R304). A cairn.cfg write with en 0 frees the cairn where allowed. -/
  | cairnFree (cairn : BitVec 12) (v : Word64)
  /-- CAIRN_CANCEL (R317). A cancel written to a cairn cancels it and the levels below. -/
  | cairnCancel (cairn : BitVec 12)
  /-- LAUNCH_CANCELLED (R317). A cancelled launch's tasks have stopped and its cairn becomes cancelled. -/
  | launchCancelled (cairn : BitVec 12)
  /-- APERTURE_WRITE (R290). A write to an aperture's registers configures it, or is refused for a disabled context. -/
  | apertureWrite (ap : BitVec 3) (reg : BitVec 2) (v : Word64)
  /-- INBOUND_READ (R291). A host or peer read through BAR2 is served through an aperture or aborted. -/
  | inboundRead (off : BitVec 39) (len : Nat)
  /-- INBOUND_WRITE (R291). A host or peer write through BAR2 is performed through an aperture or dropped. -/
  | inboundWrite (off : BitVec 39) (data : List Byte)
  /-- INBOUND_ATOMICOP (R283). An inbound AtomicOp request completes with Unsupported Request. -/
  | inboundAtomicop (off : BitVec 39)
  /-- REGISTER_WRITE (R5). A write to a register with no row of its own takes effect through its access codes, or is refused and logged. -/
  | registerWrite (off : BitVec 24) (size : Nat) (v : Word64)
  /-- VM_INVALIDATE (R330). vm.cmd op 0 removes overlapping TLB entries and waits for users of them. -/
  | vmInvalidate (cmd : Option Word64)
  /-- VM_PAGE_OUT (R333). vm.cmd op 1 moves pages of a range to flash one at a time. -/
  | vmPageOut (cmd : Option Word64)
  /-- VM_PAGE_IN (R335). vm.cmd op 2 brings every flash leaf of a range back into frames. -/
  | vmPageIn (cmd : Option Word64)
  /-- VM_COMMAND_DONE (R327). A running vm command finishes or stops and busy returns to 0 with its status. -/
  | vmCommandDone
  /-- VM_FREE_PUSH (R327). A write to vm.free pushes a frame onto a die's free list, resuming a starved page-in. -/
  | vmFreePush (die : BitVec 2) (v : Word64)
  /-- VM_RET_READ (R327). A read of vm.ret pops a frame from the return list. -/
  | vmRetRead
  /-- ATS_TRANSLATION_COMPLETION (R293). A Translation Completion arrives and the copy proceeds, requests a page or faults. -/
  | atsTranslationCompletion (req : Nat) (res : AtsResult)
  /-- PRG_RESPONSE (R295). A PRG Response arrives and decides the waiting copy's fate. -/
  | prgResponse (idx : BitVec 9) (code : PrgCode)
  /-- ATS_INVALIDATE_REQUEST (R294). An Invalidate Request arrives and overlapping TLB entries are removed. -/
  | atsInvalidateRequest (itag : BitVec 5) (pasid : BitVec 20) (va : Word64) (len : Word64)
  /-- INVALIDATION_COMPLETION (R294). Once users of the old page have finished, the Invalidation Completion is returned in order. -/
  | invalidationCompletion
  /-- HOST_READ_COMPLETION (R292). A read completion from host memory arrives, performing the read or the host writes before it. -/
  | hostReadCompletion (req : Nat) (data : List Byte)
  /-- PEER_FLIT_RECEIVE (R299). A peer flit arrives and is accepted, or discarded with a nak. -/
  | peerFlitReceive (port : BitVec 1) (flit : PeerFlit)
  /-- PEER_REPLAY_TIMEOUT (R299). 4 µs without an ack resends unacknowledged flits, retraining after eight resends. -/
  | peerReplayTimeout (port : BitVec 1)
  /-- PEER_COMMAND_TIMEOUT (R300). 1 ms without a response sends the command again with the same cseq. -/
  | peerCommandTimeout (port : BitVec 1) (cseq : BitVec 32)
  /-- PEER_LINK_UP (R297). A peer link trains and up becomes 1. -/
  | peerLinkUp (port : BitVec 1)
  /-- PEER_PORT_FAILED (R301). A retrain not up within 100 ms declares the port failed and faults waiting commands. -/
  | peerPortFailed (port : BitVec 1)
  /-- PEER_FAILED_CLEAR (R301). Clearing pp.stat.failed starts a new training. -/
  | peerFailedClear (port : BitVec 1)
  /-- POWER_EVALUATION (R371). Once per millisecond the power manager sets each die's granted clock from the cap and temperature. -/
  | powerEvaluation (m : PowerSample)
  /-- SCRUB (R374). The patrol scrubber reads a unit, correcting or poisoning it. -/
  | scrub (pa : BitVec 39) (r : ScrubResult)
  /-- STORAGE_ERROR (R372). A corrected or uncorrected storage error is handled by kind of storage. -/
  | storageError (e : StorageError) (corrected : Bool)
  /-- COLD_RESET (R361). Power-on or cold reset starts bring-up at the boot ROM. -/
  | coldReset
  /-- BRINGUP_STEP (R361). A bring-up step finishes by its normal or alternate method, records its outcome and sets its ready bit. -/
  | bringupStep (step : BitVec 4) (r : StepResult)
  /-- BOOT_STEP_CLEAR (R362). Writing clr to boot.step clears the step's record for the next start. -/
  | bootStepClear (step : BitVec 4)
  /-- RECOVERY_LOAD (R364). rec.ctl go starts loading a recovery image from host memory. -/
  | recoveryLoad (v : Word64)
  /-- RECOVERY_LOAD_DONE (R364). The recovery image has been read and checked, and runs or is refused. -/
  | recoveryLoadDone (image : Option (List Byte))
  /-- SPDM_REQUEST (R365). An SPDM request over DOE is answered by the security engine. -/
  | spdmRequest (r : SpdmRequest)
  /-- SLP_ENTER (R367). slp.ctl op 1 begins bivouac entry and stops popping. -/
  | slpEnter
  /-- BIVOUAC_ENTRY_DRAINED (R367). Every task and engine command has ended; entry clears lanes and TLBs and enters self-refresh. -/
  | bivouacEntryDrained
  /-- BIVOUAC_ENTRY_TIMEOUT (R367). Entry not drained within slp.ctl.to aborts with code 2. -/
  | bivouacEntryTimeout
  /-- SLP_WAKE (R369). slp.ctl op 2, or a tail write in bivouac, starts wake. -/
  | slpWake
  /-- WAKE_DONE (R369). A die is ready and the scheduler pops again; state returns to running and wt is recorded. -/
  | wakeDone
  /-- UPD_WRITE_IMAGE (R378). upd.ctl op 1 starts reading, checking and writing a new firmware image. -/
  | updWriteImage (v : Word64)
  /-- UPD_WRITE_DONE (R378). The image update ends with its status. -/
  | updWriteDone (r : UpdResult)
  /-- UPD_RAISE_MINIMUM (R378). upd.ctl op 2 raises fw.minsvn to the running svn. -/
  | updRaiseMinimum (v : Word64)
  /-- ILLEGAL_INSTRUCTION (R119). The control processor meets a word that no entry assigns, an unjoined LIMM word, or a misplaced pad or chain bit, and raises the illegal-instruction trap. -/
  | illegalInstruction (w : Word32)
  /-- INSTRUCTION_CACHE_FILL (R28). An instruction-cache fill returns after a miss, and the stream stalled on it resumes with its issue counter unfrozen. -/
  | instructionCacheFill (core : CoreId) (vs : Bool)
  /-- REGISTER_WINDOW_READ (R284). A host read of BAR0 is served: a badly sized read completes with Completer Abort and is logged, and a read of cairn.cfg returning state 3 is an acquire at device scope. -/
  | registerWindowRead (off : BitVec 24) (size : Nat)
  /-- POWER_LOSS (R379). Board power fails: all volatile state is lost, only NAND and durably written data survive, and a firmware write under way is left partial. -/
  | powerLoss
deriving DecidableEq, Repr

/-- A turn of the device: which agent moves next (log 2). -/
inductive Turn where
  /-- The control processor of a core. -/
  | cp (core : CoreId)
  /-- The vector sequencer of a core. -/
  | vs (core : CoreId)
  /-- An event, or an instruction of the core that moved last. -/
  | ev (i : Instr)
  /-- A fetch of a core's stream misses its instruction cache (R28). -/
  | miss (core : CoreId) (vs : Bool)
  /-- A number of microseconds passes. -/
  | elapse (us : Nat)
  /-- A peer port's link goes down and retrains, as the far card or the cable has it (R299, R301). -/
  | linkDrop (port : BitVec 1)
  /-- The driver enables page requests again in configuration space (R295). -/
  | priEnable
  /-- Software of a context has broken a duty that the model does not follow, a data race (R97) or a leaf changed under a pinned
  lease (R330): undefined behaviour of the context (R1; log 1). -/
  | undefinedBehaviour (ctx : CtxId)
deriving DecidableEq, Repr

end Sys2Proof
end

