-- ==== Sys2Proof/WellFormed.lean ====
section
/-! DEFINITION. Which instructions an encoding can stand for: the reserved field values of R109-R119, which raise the
illegal-instruction trap, checked on the instruction as syntax. An event is always well-formed. -/

namespace Sys2Proof

/-- An 8-bit operand code of a destination: v0-v127 or a0-a15 (R109). -/
def isDest (x : BitVec 8) : Bool := decide (x.toNat < 144)

/-- An 8-bit operand code of a source: a name or lat (R109). -/
def isSource (x : BitVec 8) : Bool := decide (x.toNat < 145)

/-- A code kind of R110. -/
def isKind (k : BitVec 5) : Bool := decide (k.toNat ≤ 16)

/-- The reserved values of R109-R118 are refused. -/
def Instr.wellFormed (i : Instr) : Bool :=
  match i with
  | .add _ _ _ _ => true
  | .sub _ _ _ _ => true
  | .and _ _ _ => true
  | .or _ _ _ => true
  | .xor _ _ _ => true
  | .shl _ _ _ _ => true
  | .shr _ _ _ _ => true
  | .sar _ _ _ _ => true
  | .mul _ _ _ _ => true
  | .mulh _ _ _ => true
  | .mulhu _ _ _ => true
  | .div _ _ _ _ => true
  | .divu _ _ _ _ => true
  | .rem _ _ _ _ => true
  | .remu _ _ _ _ => true
  | .slt _ _ _ => true
  | .sltu _ _ _ => true
  | .min _ _ _ => true
  | .max _ _ _ => true
  | .minu _ _ _ => true
  | .maxu _ _ _ => true
  | .addi _ _ _ => true
  | .andi _ _ _ => true
  | .ori _ _ _ => true
  | .xori _ _ _ => true
  | .slti _ _ _ => true
  | .sltiu _ _ _ => true
  | .shli _ _ w h => (!w || decide (h.toNat < 32))
  | .shri _ _ w h => (!w || decide (h.toNat < 32))
  | .sari _ _ w h => (!w || decide (h.toNat < 32))
  | .beq _ _ _ => true
  | .bne _ _ _ => true
  | .blt _ _ _ => true
  | .bge _ _ _ => true
  | .bltu _ _ _ => true
  | .bgeu _ _ _ => true
  | .jal _ _ => true
  | .jalr _ _ _ => true
  | .ld _ _ _ _ => true
  | .lds _ _ w _ => decide (w.toNat ≠ 3)
  | .st _ _ _ _ => true
  | .amoAdd _ _ _ _ _ => true
  | .amoAnd _ _ _ _ _ => true
  | .amoOr _ _ _ _ _ => true
  | .amoXor _ _ _ _ _ => true
  | .amoMin _ _ _ _ _ => true
  | .amoMax _ _ _ _ _ => true
  | .amoMinu _ _ _ _ _ => true
  | .amoMaxu _ _ _ _ _ => true
  | .amoSwap _ _ _ _ _ => true
  | .amoCas _ _ _ _ _ => true
  | .fence s => decide (s.toNat ≤ 1)
  | .xfence s f t => decide (s.toNat ≤ 1) && decide (f.toNat ≠ 0) && decide (t.toNat ≠ 0) && decide (t.toNat < 32)
  | .drain s => decide (2 ≤ s.toNat)
  | .fenceReturn _ => true
  | .srd _ _ => true
  | .swr _ _ => true
  | .sset _ _ => true
  | .sclr _ _ => true
  | .trap _ => true
  | .yield => true
  | .fset _ => true
  | .fclr _ => true
  | .fwait _ => true
  | .fwaitReturn _ => true
  | .cpy _ _ _ => true
  | .cpys _ _ _ => true
  | .cpyx _ _ _ => true
  | .laneLoad _ _ _ => true
  | .cimFill _ _ _ => true
  | .atomAdd _ _ _ _ _ _ => true
  | .atomAnd _ _ _ _ _ _ => true
  | .atomOr _ _ _ _ _ _ => true
  | .atomXor _ _ _ _ _ _ => true
  | .atomMin _ _ _ _ _ _ => true
  | .atomMax _ _ _ _ _ _ => true
  | .atomMinu _ _ _ _ _ _ => true
  | .atomMaxu _ _ _ _ _ _ => true
  | .atomSwap _ _ _ _ _ _ => true
  | .atomCas _ _ _ _ _ _ => true
  | .atomFadd _ _ _ _ _ => true
  | .atomCread _ _ _ _ _ => true
  | .loop _ _ _ => true
  | .ppush _ => true
  | .cimModeScratch _ => true
  | .cimModeCompute _ k => isKind k
  | .qcwSet _ _ _ => true
  | .qcwGet _ _ _ => true
  | .aqRemap _ _ _ => true
  | .qcwSetQuiet _ => true
  | .setv _ _ => true
  | .setj _ => true
  | .syncArm _ _ _ => true
  | .syncWait _ _ => true
  | .syncAdd _ _ => true
  | .syncWaitReturn _ => true
  | .barInit _ _ => true
  | .barArrive _ => true
  | .barWait _ => true
  | .barrierArrivalReceive _ => true
  | .barWaitReturn _ => true
  | .spawn _ _ _ => true
  | .spawnAccept _ => true
  | .join _ => true
  | .joinReturn _ => true
  | .done => true
  | .donePerform _ => true
  | .cancel _ => true
  | .rope _ => true
  | .unrope => true
  | .rejoin => true
  | .ropeForm _ => true
  | .unropeRelease _ => true
  | .rejoinReturn _ => true
  | .rtreeSum _ _ _ => true
  | .rtreeMax _ _ _ => true
  | .rtreeMaxsum _ _ _ => true
  | .rtreeNodeCombine _ _ _ => true
  | .rtreeResult _ => true
  | .commandQueueRoom _ => true
  | .parameterQueueRoom _ => true
  | .copyTagFree _ => true
  | .copyStart _ _ => true
  | .copyArrival _ _ _ _ => true
  | .copyComplete _ _ => true
  | .cpyxBlock _ => true
  | .laneTableCheck _ => true
  | .atomPerform _ _ => true
  | .gatherElement _ _ => true
  | .scatterElement _ _ => true
  | .cimModePerform _ => true
  | .cimModeZeroingEnd _ => true
  | .loopCommandBegin _ => true
  | .vadd _ _ d a b => isDest d && isSource a && isSource b
  | .vsub _ _ d a b => isDest d && isSource a && isSource b
  | .vmul _ _ d a b => isDest d && isSource a && isSource b
  | .vdiv _ _ d a b => isDest d && isSource a && isSource b
  | .vfma _ _ d a b => isDest d && isSource a && isSource b
  | .vfnma _ _ d a b => isDest d && isSource a && isSource b
  | .vmin _ _ d a b => isDest d && isSource a && isSource b
  | .vmax _ _ d a b => isDest d && isSource a && isSource b
  | .vcsgn _ _ d a b => isDest d && isSource a && isSource b
  | .vmov _ _ d a => isDest d && isSource a
  | .vneg _ _ d a => isDest d && isSource a
  | .vabs _ _ d a => isDest d && isSource a
  | .vsqrt _ _ d a => isDest d && isSource a
  | .vrsqrt _ _ d a => isDest d && isSource a
  | .vrcp _ _ d a => isDest d && isSource a
  | .vexp _ _ d a => isDest d && isSource a
  | .vlog _ _ d a => isDest d && isSource a
  | .vtanh _ _ d a => isDest d && isSource a
  | .vsigm _ _ d a => isDest d && isSource a
  | .vsin _ _ d a => isDest d && isSource a
  | .vcos _ _ d a => isDest d && isSource a
  | .vcmpeq _ _ d a b => isDest d && isSource a && isSource b
  | .vcmplt _ _ d a b => isDest d && isSource a && isSource b
  | .vcmple _ _ d a b => isDest d && isSource a && isSource b
  | .viadd _ _ d a b => isDest d && isSource a && isSource b
  | .visub _ _ d a b => isDest d && isSource a && isSource b
  | .vimul _ _ d a b => isDest d && isSource a && isSource b
  | .vimin _ _ d a b => isDest d && isSource a && isSource b
  | .vimax _ _ d a b => isDest d && isSource a && isSource b
  | .vand _ _ d a b => isDest d && isSource a && isSource b
  | .vor _ _ d a b => isDest d && isSource a && isSource b
  | .vxor _ _ d a b => isDest d && isSource a && isSource b
  | .vshl _ _ d a b => isDest d && isSource a && isSource b
  | .vshr _ _ d a b => isDest d && isSource a && isSource b
  | .vsar _ _ d a b => isDest d && isSource a && isSource b
  | .vicmpeq _ _ d a b => isDest d && isSource a && isSource b
  | .vicmplt _ _ d a b => isDest d && isSource a && isSource b
  | .vsel _ _ d a b => isDest d && isSource a && isSource b
  | .cvtFf _ _ d a _ => isDest d && isSource a
  | .cvtFi _ _ d a _ k => (isKind k || decide (k.toNat = 31)) && isDest d && isSource a
  | .cvtIf _ _ d a => isDest d && isSource a
  | .cvtCi _ _ d a k => isKind k && isDest d && isSource a
  | .vrsum _ _ d a => isDest d && isSource a
  | .vrmax _ _ d a => isDest d && isSource a
  | .vrmin _ _ d a => isDest d && isSource a
  | .vrisum _ _ d a => isDest d && isSource a
  | .vperm _ _ d a b => isDest d && isSource a && isSource b
  | .vbcast _ _ d a _ => isDest d && isSource a
  | .jseed _ _ d a => isDest d && isSource a
  | .jext _ _ d a _ _ => isDest d && isSource a
  | .jset _ _ d a _ => isDest d && isSource a
  | .cimPass _ b l _ _ _ _ _ _ => decide (l.toNat ≤ 5) && decide (b.toNat % 2 ^ l.toNat = 0)
  | .cimSwap _ _ => true
  | .cimSwapw _ _ => true
  | .accClr _ _ => true
  | .accCvtF32 _ _ _ => true
  | .accCvtI32 _ _ _ => true
  | .lutBuild _ _ _ => true
  | .lutAcc _ _ _ _ => true
  | .outl _ _ _ _ => true
  | .rsc _ _ _ _ _ => true
  | .qnt _ _ _ _ => true
  | .qpar _ _ _ k => isKind k && decide (k.toNat ≠ 0)
  | .iadd _ _ _ _ => true
  | .isub _ _ _ _ => true
  | .ishl _ _ _ _ => true
  | .ishr _ _ _ _ => true
  | .iand _ _ _ _ => true
  | .ior _ _ _ _ => true
  | .imul _ _ _ _ => true
  | .ipopc _ _ _ => true
  | .icmpadv _ _ _ _ => true
  | .iaddi _ _ _ _ => true
  | .isubi _ _ _ _ => true
  | .ishli _ _ _ _ => true
  | .ishri _ _ _ _ => true
  | .iandi _ _ _ _ => true
  | .iori _ _ _ _ => true
  | .imuli _ _ _ _ => true
  | .ili _ _ _ => true
  | .zinit _ _ _ _ => true
  | .znext _ _ => true
  | .zskip _ _ _ => true
  | .zisect _ _ _ _ => true
  | .zunion _ _ _ _ => true
  | .zdown _ _ _ => true
  | .zcrd _ _ _ _ => true
  | .zpos _ _ _ _ => true
  | .aqpush _ _ _ => true
  | .iget _ _ q => decide (q.toNat ≤ 6)
  | .xld _ n _ _ => isDest n
  | .xst _ n _ _ => isDest n
  | .dqpop _ n _ => isDest n
  | .dqpeek _ n _ => isDest n
  | .ppop _ _ => true
  | .xmv _ d v => isDest d && isSource v
  | .xFset _ _ => true
  | .xFclr _ _ => true
  | .ftst _ _ _ => true
  | .frd _ _ _ => true
  | .nop => true
  | .resultLanding _ => true
  | .stalledGroupIssue _ => true
  | .queueStall _ => true
  | .taskFaultEnd _ => true
  | .preemption _ => true
  | .saveImageWrite _ => true
  | .taskPop _ => true
  | .ropeGroupRestore _ => true
  | .taskWatchdog _ => true
  | .stopWatchdog _ => true
  | .ctxKill _ => true
  | .contextDrainDone _ => true
  | .ctxCfgWrite _ _ => true
  | .sqTailWrite _ _ => true
  | .sqStopClear _ => true
  | .submissionRead _ => true
  | .finalise _ => true
  | .launchExpansion _ => true
  | .cairnArm _ _ => true
  | .cairnFree _ _ => true
  | .cairnCancel _ => true
  | .launchCancelled _ => true
  | .apertureWrite _ _ _ => true
  | .inboundRead _ _ => true
  | .inboundWrite _ _ => true
  | .inboundAtomicop _ => true
  | .registerWrite _ _ _ => true
  | .vmInvalidate _ => true
  | .vmPageOut _ => true
  | .vmPageIn _ => true
  | .vmCommandDone => true
  | .vmFreePush _ _ => true
  | .vmRetRead => true
  | .atsTranslationCompletion _ _ => true
  | .prgResponse _ _ => true
  | .atsInvalidateRequest _ _ _ _ => true
  | .invalidationCompletion => true
  | .hostReadCompletion _ _ => true
  | .peerFlitReceive _ _ => true
  | .peerReplayTimeout _ => true
  | .peerCommandTimeout _ _ => true
  | .peerLinkUp _ => true
  | .peerPortFailed _ => true
  | .peerFailedClear _ => true
  | .powerEvaluation _ => true
  | .scrub _ _ => true
  | .storageError _ _ => true
  | .coldReset => true
  | .bringupStep _ _ => true
  | .bootStepClear _ => true
  | .recoveryLoad _ => true
  | .recoveryLoadDone _ => true
  | .spdmRequest _ => true
  | .slpEnter => true
  | .bivouacEntryDrained => true
  | .bivouacEntryTimeout => true
  | .slpWake => true
  | .wakeDone => true
  | .updWriteImage _ => true
  | .updWriteDone _ => true
  | .updRaiseMinimum _ => true
  | .illegalInstruction _ => true
  | .instructionCacheFill _ _ => true
  | .registerWindowRead _ _ => true
  | .powerLoss => true

end Sys2Proof
end

