-- ==== Sys2Proof/Decode.lean ====
section
/-! DEFINITION. The decoder of both streams (05: R104-R119), total on any words, and the encoder after it. -/

namespace Sys2Proof

/-- Why words are no instruction. -/
inductive DecodeError where
  /-- No word is there. -/
  | noWord
  /-- A major opcode that no map assigns (R119). -/
  | unassignedMajor
  /-- A reserved minor code, field value or operand code, or a nonzero zero field (R119). -/
  | reservedEncoding
  /-- Chain bit 1 in a control format other than CI and CM (R106). -/
  | chainRefused
  /-- A chained CI or CM word, or a chained first LIMM word, whose next word is no LIMM word; or a chained second one (R106). -/
  | badLimm
  /-- A LIMM word not joined to a preceding word (R106). -/
  | limmUnjoined
  /-- A pad word (R107). -/
  | pad
  /-- A pad word with its chain bit or low bits set (R107). -/
  | badPad
deriving DecidableEq, Repr

/-- The 32-bit words of bytes, little-endian (R104). -/
def wordsOf : List Byte → List Nat
  | a :: b :: c :: d :: t => (a.toNat + 256 * b.toNat + 65536 * c.toNat + 16777216 * d.toNat) :: wordsOf t
  | _ => []

/-- Control major 0x01: ADD, SUB, AND, OR, XOR, SHL, SHR, SAR, MUL, MULH, MULHU, DIV, DIVU, REM, REMU, SLT, SLTU, MIN, MAX, MINU, MAXU. -/
def decodeControl01 (w : Nat) : Option Instr :=
  if fld w 8 0 = 0 then some (.add (BitVec.ofNat 5 (fld w 24 20)) (BitVec.ofNat 5 (fld w 19 15)) (BitVec.ofNat 5 (fld w 14 10)) (fld w 9 9 == 1)) else
  if fld w 8 0 = 1 then some (.sub (BitVec.ofNat 5 (fld w 24 20)) (BitVec.ofNat 5 (fld w 19 15)) (BitVec.ofNat 5 (fld w 14 10)) (fld w 9 9 == 1)) else
  if fld w 9 0 = 2 then some (.and (BitVec.ofNat 5 (fld w 24 20)) (BitVec.ofNat 5 (fld w 19 15)) (BitVec.ofNat 5 (fld w 14 10))) else
  if fld w 9 0 = 3 then some (.or (BitVec.ofNat 5 (fld w 24 20)) (BitVec.ofNat 5 (fld w 19 15)) (BitVec.ofNat 5 (fld w 14 10))) else
  if fld w 9 0 = 4 then some (.xor (BitVec.ofNat 5 (fld w 24 20)) (BitVec.ofNat 5 (fld w 19 15)) (BitVec.ofNat 5 (fld w 14 10))) else
  if fld w 8 0 = 5 then some (.shl (BitVec.ofNat 5 (fld w 24 20)) (BitVec.ofNat 5 (fld w 19 15)) (BitVec.ofNat 5 (fld w 14 10)) (fld w 9 9 == 1)) else
  if fld w 8 0 = 6 then some (.shr (BitVec.ofNat 5 (fld w 24 20)) (BitVec.ofNat 5 (fld w 19 15)) (BitVec.ofNat 5 (fld w 14 10)) (fld w 9 9 == 1)) else
  if fld w 8 0 = 7 then some (.sar (BitVec.ofNat 5 (fld w 24 20)) (BitVec.ofNat 5 (fld w 19 15)) (BitVec.ofNat 5 (fld w 14 10)) (fld w 9 9 == 1)) else
  if fld w 8 0 = 8 then some (.mul (BitVec.ofNat 5 (fld w 24 20)) (BitVec.ofNat 5 (fld w 19 15)) (BitVec.ofNat 5 (fld w 14 10)) (fld w 9 9 == 1)) else
  if fld w 9 0 = 9 then some (.mulh (BitVec.ofNat 5 (fld w 24 20)) (BitVec.ofNat 5 (fld w 19 15)) (BitVec.ofNat 5 (fld w 14 10))) else
  if fld w 9 0 = 10 then some (.mulhu (BitVec.ofNat 5 (fld w 24 20)) (BitVec.ofNat 5 (fld w 19 15)) (BitVec.ofNat 5 (fld w 14 10))) else
  if fld w 8 0 = 11 then some (.div (BitVec.ofNat 5 (fld w 24 20)) (BitVec.ofNat 5 (fld w 19 15)) (BitVec.ofNat 5 (fld w 14 10)) (fld w 9 9 == 1)) else
  if fld w 8 0 = 12 then some (.divu (BitVec.ofNat 5 (fld w 24 20)) (BitVec.ofNat 5 (fld w 19 15)) (BitVec.ofNat 5 (fld w 14 10)) (fld w 9 9 == 1)) else
  if fld w 8 0 = 13 then some (.rem (BitVec.ofNat 5 (fld w 24 20)) (BitVec.ofNat 5 (fld w 19 15)) (BitVec.ofNat 5 (fld w 14 10)) (fld w 9 9 == 1)) else
  if fld w 8 0 = 14 then some (.remu (BitVec.ofNat 5 (fld w 24 20)) (BitVec.ofNat 5 (fld w 19 15)) (BitVec.ofNat 5 (fld w 14 10)) (fld w 9 9 == 1)) else
  if fld w 9 0 = 15 then some (.slt (BitVec.ofNat 5 (fld w 24 20)) (BitVec.ofNat 5 (fld w 19 15)) (BitVec.ofNat 5 (fld w 14 10))) else
  if fld w 9 0 = 16 then some (.sltu (BitVec.ofNat 5 (fld w 24 20)) (BitVec.ofNat 5 (fld w 19 15)) (BitVec.ofNat 5 (fld w 14 10))) else
  if fld w 9 0 = 17 then some (.min (BitVec.ofNat 5 (fld w 24 20)) (BitVec.ofNat 5 (fld w 19 15)) (BitVec.ofNat 5 (fld w 14 10))) else
  if fld w 9 0 = 18 then some (.max (BitVec.ofNat 5 (fld w 24 20)) (BitVec.ofNat 5 (fld w 19 15)) (BitVec.ofNat 5 (fld w 14 10))) else
  if fld w 9 0 = 19 then some (.minu (BitVec.ofNat 5 (fld w 24 20)) (BitVec.ofNat 5 (fld w 19 15)) (BitVec.ofNat 5 (fld w 14 10))) else
  if fld w 9 0 = 20 then some (.maxu (BitVec.ofNat 5 (fld w 24 20)) (BitVec.ofNat 5 (fld w 19 15)) (BitVec.ofNat 5 (fld w 14 10))) else
  none

/-- Control major 0x02: ADDI. -/
def decodeControl02 (w : Nat) (ext : LimmExt) : Option Instr :=
  some (.addi (BitVec.ofNat 5 (fld w 24 20)) (BitVec.ofNat 5 (fld w 19 15)) ⟨BitVec.ofNat 15 (fld w 14 0), ext⟩)

/-- Control major 0x03: ANDI. -/
def decodeControl03 (w : Nat) (ext : LimmExt) : Option Instr :=
  some (.andi (BitVec.ofNat 5 (fld w 24 20)) (BitVec.ofNat 5 (fld w 19 15)) ⟨BitVec.ofNat 15 (fld w 14 0), ext⟩)

/-- Control major 0x04: ORI. -/
def decodeControl04 (w : Nat) (ext : LimmExt) : Option Instr :=
  some (.ori (BitVec.ofNat 5 (fld w 24 20)) (BitVec.ofNat 5 (fld w 19 15)) ⟨BitVec.ofNat 15 (fld w 14 0), ext⟩)

/-- Control major 0x05: XORI. -/
def decodeControl05 (w : Nat) (ext : LimmExt) : Option Instr :=
  some (.xori (BitVec.ofNat 5 (fld w 24 20)) (BitVec.ofNat 5 (fld w 19 15)) ⟨BitVec.ofNat 15 (fld w 14 0), ext⟩)

/-- Control major 0x06: SLTI. -/
def decodeControl06 (w : Nat) (ext : LimmExt) : Option Instr :=
  some (.slti (BitVec.ofNat 5 (fld w 24 20)) (BitVec.ofNat 5 (fld w 19 15)) ⟨BitVec.ofNat 15 (fld w 14 0), ext⟩)

/-- Control major 0x07: SLTIU. -/
def decodeControl07 (w : Nat) (ext : LimmExt) : Option Instr :=
  some (.sltiu (BitVec.ofNat 5 (fld w 24 20)) (BitVec.ofNat 5 (fld w 19 15)) ⟨BitVec.ofNat 15 (fld w 14 0), ext⟩)

/-- Control major 0x08: SHLI, SHRI, SARI. -/
def decodeControl08 (w : Nat) : Option Instr :=
  if fld w 11 6 = 0 ∧ fld w 14 13 = 0 then some (.shli (BitVec.ofNat 5 (fld w 24 20)) (BitVec.ofNat 5 (fld w 19 15)) (fld w 12 12 == 1) (BitVec.ofNat 6 (fld w 5 0))) else
  if fld w 11 6 = 0 ∧ fld w 14 13 = 1 then some (.shri (BitVec.ofNat 5 (fld w 24 20)) (BitVec.ofNat 5 (fld w 19 15)) (fld w 12 12 == 1) (BitVec.ofNat 6 (fld w 5 0))) else
  if fld w 11 6 = 0 ∧ fld w 14 13 = 2 then some (.sari (BitVec.ofNat 5 (fld w 24 20)) (BitVec.ofNat 5 (fld w 19 15)) (fld w 12 12 == 1) (BitVec.ofNat 6 (fld w 5 0))) else
  none

/-- Control major 0x0A: BEQ. -/
def decodeControl0A (w : Nat) : Option Instr :=
  some (.beq (BitVec.ofNat 5 (fld w 24 20)) (BitVec.ofNat 5 (fld w 19 15)) (BitVec.ofNat 15 (fld w 14 0)))

/-- Control major 0x0B: BNE. -/
def decodeControl0B (w : Nat) : Option Instr :=
  some (.bne (BitVec.ofNat 5 (fld w 24 20)) (BitVec.ofNat 5 (fld w 19 15)) (BitVec.ofNat 15 (fld w 14 0)))

/-- Control major 0x0C: BLT. -/
def decodeControl0C (w : Nat) : Option Instr :=
  some (.blt (BitVec.ofNat 5 (fld w 24 20)) (BitVec.ofNat 5 (fld w 19 15)) (BitVec.ofNat 15 (fld w 14 0)))

/-- Control major 0x0D: BGE. -/
def decodeControl0D (w : Nat) : Option Instr :=
  some (.bge (BitVec.ofNat 5 (fld w 24 20)) (BitVec.ofNat 5 (fld w 19 15)) (BitVec.ofNat 15 (fld w 14 0)))

/-- Control major 0x0E: BLTU. -/
def decodeControl0E (w : Nat) : Option Instr :=
  some (.bltu (BitVec.ofNat 5 (fld w 24 20)) (BitVec.ofNat 5 (fld w 19 15)) (BitVec.ofNat 15 (fld w 14 0)))

/-- Control major 0x0F: BGEU. -/
def decodeControl0F (w : Nat) : Option Instr :=
  some (.bgeu (BitVec.ofNat 5 (fld w 24 20)) (BitVec.ofNat 5 (fld w 19 15)) (BitVec.ofNat 15 (fld w 14 0)))

/-- Control major 0x10: JAL. -/
def decodeControl10 (w : Nat) : Option Instr :=
  some (.jal (BitVec.ofNat 5 (fld w 24 20)) (BitVec.ofNat 20 (fld w 19 0)))

/-- Control major 0x11: JALR. -/
def decodeControl11 (w : Nat) (ext : LimmExt) : Option Instr :=
  some (.jalr (BitVec.ofNat 5 (fld w 24 20)) (BitVec.ofNat 5 (fld w 19 15)) ⟨BitVec.ofNat 15 (fld w 14 0), ext⟩)

/-- Control major 0x12: LD, LDS. -/
def decodeControl12 (w : Nat) (ext : LimmExt) : Option Instr :=
  if fld w 12 12 = 0 then some (.ld (BitVec.ofNat 5 (fld w 24 20)) (BitVec.ofNat 5 (fld w 19 15)) (BitVec.ofNat 2 (fld w 14 13)) ⟨BitVec.ofNat 12 (fld w 11 0), ext⟩) else
  if fld w 12 12 = 1 then some (.lds (BitVec.ofNat 5 (fld w 24 20)) (BitVec.ofNat 5 (fld w 19 15)) (BitVec.ofNat 2 (fld w 14 13)) ⟨BitVec.ofNat 12 (fld w 11 0), ext⟩) else
  none

/-- Control major 0x13: ST. -/
def decodeControl13 (w : Nat) (ext : LimmExt) : Option Instr :=
  if fld w 12 12 = 0 then some (.st (BitVec.ofNat 5 (fld w 24 20)) (BitVec.ofNat 5 (fld w 19 15)) (BitVec.ofNat 2 (fld w 14 13)) ⟨BitVec.ofNat 12 (fld w 11 0), ext⟩) else
  none

/-- Control major 0x14: AMO_ADD, AMO_AND, AMO_OR, AMO_XOR, AMO_MIN, AMO_MAX, AMO_MINU, AMO_MAXU, AMO_SWAP, AMO_CAS. -/
def decodeControl14 (w : Nat) : Option Instr :=
  if fld w 2 0 = 0 ∧ fld w 9 6 = 0 then some (.amoAdd (BitVec.ofNat 5 (fld w 24 20)) (BitVec.ofNat 5 (fld w 19 15)) (BitVec.ofNat 5 (fld w 14 10)) (BitVec.ofNat 2 (fld w 5 4)) (fld w 3 3 == 1)) else
  if fld w 2 0 = 0 ∧ fld w 9 6 = 1 then some (.amoAnd (BitVec.ofNat 5 (fld w 24 20)) (BitVec.ofNat 5 (fld w 19 15)) (BitVec.ofNat 5 (fld w 14 10)) (BitVec.ofNat 2 (fld w 5 4)) (fld w 3 3 == 1)) else
  if fld w 2 0 = 0 ∧ fld w 9 6 = 2 then some (.amoOr (BitVec.ofNat 5 (fld w 24 20)) (BitVec.ofNat 5 (fld w 19 15)) (BitVec.ofNat 5 (fld w 14 10)) (BitVec.ofNat 2 (fld w 5 4)) (fld w 3 3 == 1)) else
  if fld w 2 0 = 0 ∧ fld w 9 6 = 3 then some (.amoXor (BitVec.ofNat 5 (fld w 24 20)) (BitVec.ofNat 5 (fld w 19 15)) (BitVec.ofNat 5 (fld w 14 10)) (BitVec.ofNat 2 (fld w 5 4)) (fld w 3 3 == 1)) else
  if fld w 2 0 = 0 ∧ fld w 9 6 = 4 then some (.amoMin (BitVec.ofNat 5 (fld w 24 20)) (BitVec.ofNat 5 (fld w 19 15)) (BitVec.ofNat 5 (fld w 14 10)) (BitVec.ofNat 2 (fld w 5 4)) (fld w 3 3 == 1)) else
  if fld w 2 0 = 0 ∧ fld w 9 6 = 5 then some (.amoMax (BitVec.ofNat 5 (fld w 24 20)) (BitVec.ofNat 5 (fld w 19 15)) (BitVec.ofNat 5 (fld w 14 10)) (BitVec.ofNat 2 (fld w 5 4)) (fld w 3 3 == 1)) else
  if fld w 2 0 = 0 ∧ fld w 9 6 = 6 then some (.amoMinu (BitVec.ofNat 5 (fld w 24 20)) (BitVec.ofNat 5 (fld w 19 15)) (BitVec.ofNat 5 (fld w 14 10)) (BitVec.ofNat 2 (fld w 5 4)) (fld w 3 3 == 1)) else
  if fld w 2 0 = 0 ∧ fld w 9 6 = 7 then some (.amoMaxu (BitVec.ofNat 5 (fld w 24 20)) (BitVec.ofNat 5 (fld w 19 15)) (BitVec.ofNat 5 (fld w 14 10)) (BitVec.ofNat 2 (fld w 5 4)) (fld w 3 3 == 1)) else
  if fld w 2 0 = 0 ∧ fld w 9 6 = 8 then some (.amoSwap (BitVec.ofNat 5 (fld w 24 20)) (BitVec.ofNat 5 (fld w 19 15)) (BitVec.ofNat 5 (fld w 14 10)) (BitVec.ofNat 2 (fld w 5 4)) (fld w 3 3 == 1)) else
  if fld w 2 0 = 0 ∧ fld w 9 6 = 9 then some (.amoCas (BitVec.ofNat 5 (fld w 24 20)) (BitVec.ofNat 5 (fld w 19 15)) (BitVec.ofNat 5 (fld w 14 10)) (BitVec.ofNat 2 (fld w 5 4)) (fld w 3 3 == 1)) else
  none

/-- Control major 0x15: FENCE, XFENCE, DRAIN. -/
def decodeControl15 (w : Nat) : Option Instr :=
  if fld w 18 0 = 0 ∧ fld w 24 22 = 0 then some (.fence (BitVec.ofNat 3 (fld w 21 19))) else
  if fld w 6 0 = 0 ∧ fld w 24 22 = 1 then some (.xfence (BitVec.ofNat 3 (fld w 21 19)) (BitVec.ofNat 6 (fld w 18 13)) (BitVec.ofNat 6 (fld w 12 7))) else
  if fld w 18 0 = 0 ∧ fld w 24 22 = 2 then some (.drain (BitVec.ofNat 3 (fld w 21 19))) else
  none

/-- Control major 0x16: SRD, SWR, SSET, SCLR. -/
def decodeControl16 (w : Nat) : Option Instr :=
  if fld w 5 0 = 0 ∧ fld w 19 18 = 0 then some (.srd (BitVec.ofNat 5 (fld w 24 20)) (BitVec.ofNat 12 (fld w 17 6))) else
  if fld w 5 0 = 0 ∧ fld w 19 18 = 1 then some (.swr (BitVec.ofNat 5 (fld w 24 20)) (BitVec.ofNat 12 (fld w 17 6))) else
  if fld w 5 0 = 0 ∧ fld w 19 18 = 2 then some (.sset (BitVec.ofNat 5 (fld w 24 20)) (BitVec.ofNat 12 (fld w 17 6))) else
  if fld w 5 0 = 0 ∧ fld w 19 18 = 3 then some (.sclr (BitVec.ofNat 5 (fld w 24 20)) (BitVec.ofNat 12 (fld w 17 6))) else
  none

/-- Control major 0x17: TRAP, YIELD. -/
def decodeControl17 (w : Nat) : Option Instr :=
  if fld w 24 16 = 0 then some (.trap (BitVec.ofNat 16 (fld w 15 0))) else
  if fld w 24 0 = 4194304 then some .yield else
  none

/-- Control major 0x18: FSET, FCLR, FWAIT. -/
def decodeControl18 (w : Nat) : Option Instr :=
  if fld w 18 0 = 0 ∧ fld w 24 23 = 0 then some (.fset (BitVec.ofNat 4 (fld w 22 19))) else
  if fld w 18 0 = 0 ∧ fld w 24 23 = 1 then some (.fclr (BitVec.ofNat 4 (fld w 22 19))) else
  if fld w 18 0 = 0 ∧ fld w 24 23 = 2 then some (.fwait (BitVec.ofNat 4 (fld w 22 19))) else
  none

/-- Control major 0x20: CPY, CPYS, CPYX, LANE_LOAD, CIM_FILL. -/
def decodeControl20 (w : Nat) : Option Instr :=
  if fld w 9 0 = 0 then some (.cpy (BitVec.ofNat 5 (fld w 24 20)) (BitVec.ofNat 5 (fld w 19 15)) (BitVec.ofNat 5 (fld w 14 10))) else
  if fld w 9 0 = 1 then some (.cpys (BitVec.ofNat 5 (fld w 24 20)) (BitVec.ofNat 5 (fld w 19 15)) (BitVec.ofNat 5 (fld w 14 10))) else
  if fld w 9 0 = 2 then some (.cpyx (BitVec.ofNat 5 (fld w 24 20)) (BitVec.ofNat 5 (fld w 19 15)) (BitVec.ofNat 5 (fld w 14 10))) else
  if fld w 9 0 = 3 then some (.laneLoad (BitVec.ofNat 5 (fld w 24 20)) (BitVec.ofNat 5 (fld w 19 15)) (BitVec.ofNat 5 (fld w 14 10))) else
  if fld w 9 0 = 4 then some (.cimFill (BitVec.ofNat 5 (fld w 24 20)) (BitVec.ofNat 5 (fld w 19 15)) (BitVec.ofNat 5 (fld w 14 10))) else
  none

/-- Control major 0x21: ATOM_ADD, ATOM_AND, ATOM_OR, ATOM_XOR, ATOM_MIN, ATOM_MAX, ATOM_MINU, ATOM_MAXU, ATOM_SWAP, ATOM_CAS, ATOM_FADD, ATOM_CREAD. -/
def decodeControl21 (w : Nat) : Option Instr :=
  if fld w 9 6 = 0 then some (.atomAdd (BitVec.ofNat 5 (fld w 24 20)) (BitVec.ofNat 5 (fld w 19 15)) (BitVec.ofNat 5 (fld w 14 10)) (BitVec.ofNat 3 (fld w 5 3)) (BitVec.ofNat 2 (fld w 2 1)) (fld w 0 0 == 1)) else
  if fld w 9 6 = 1 then some (.atomAnd (BitVec.ofNat 5 (fld w 24 20)) (BitVec.ofNat 5 (fld w 19 15)) (BitVec.ofNat 5 (fld w 14 10)) (BitVec.ofNat 3 (fld w 5 3)) (BitVec.ofNat 2 (fld w 2 1)) (fld w 0 0 == 1)) else
  if fld w 9 6 = 2 then some (.atomOr (BitVec.ofNat 5 (fld w 24 20)) (BitVec.ofNat 5 (fld w 19 15)) (BitVec.ofNat 5 (fld w 14 10)) (BitVec.ofNat 3 (fld w 5 3)) (BitVec.ofNat 2 (fld w 2 1)) (fld w 0 0 == 1)) else
  if fld w 9 6 = 3 then some (.atomXor (BitVec.ofNat 5 (fld w 24 20)) (BitVec.ofNat 5 (fld w 19 15)) (BitVec.ofNat 5 (fld w 14 10)) (BitVec.ofNat 3 (fld w 5 3)) (BitVec.ofNat 2 (fld w 2 1)) (fld w 0 0 == 1)) else
  if fld w 9 6 = 4 then some (.atomMin (BitVec.ofNat 5 (fld w 24 20)) (BitVec.ofNat 5 (fld w 19 15)) (BitVec.ofNat 5 (fld w 14 10)) (BitVec.ofNat 3 (fld w 5 3)) (BitVec.ofNat 2 (fld w 2 1)) (fld w 0 0 == 1)) else
  if fld w 9 6 = 5 then some (.atomMax (BitVec.ofNat 5 (fld w 24 20)) (BitVec.ofNat 5 (fld w 19 15)) (BitVec.ofNat 5 (fld w 14 10)) (BitVec.ofNat 3 (fld w 5 3)) (BitVec.ofNat 2 (fld w 2 1)) (fld w 0 0 == 1)) else
  if fld w 9 6 = 6 then some (.atomMinu (BitVec.ofNat 5 (fld w 24 20)) (BitVec.ofNat 5 (fld w 19 15)) (BitVec.ofNat 5 (fld w 14 10)) (BitVec.ofNat 3 (fld w 5 3)) (BitVec.ofNat 2 (fld w 2 1)) (fld w 0 0 == 1)) else
  if fld w 9 6 = 7 then some (.atomMaxu (BitVec.ofNat 5 (fld w 24 20)) (BitVec.ofNat 5 (fld w 19 15)) (BitVec.ofNat 5 (fld w 14 10)) (BitVec.ofNat 3 (fld w 5 3)) (BitVec.ofNat 2 (fld w 2 1)) (fld w 0 0 == 1)) else
  if fld w 9 6 = 8 then some (.atomSwap (BitVec.ofNat 5 (fld w 24 20)) (BitVec.ofNat 5 (fld w 19 15)) (BitVec.ofNat 5 (fld w 14 10)) (BitVec.ofNat 3 (fld w 5 3)) (BitVec.ofNat 2 (fld w 2 1)) (fld w 0 0 == 1)) else
  if fld w 9 6 = 9 then some (.atomCas (BitVec.ofNat 5 (fld w 24 20)) (BitVec.ofNat 5 (fld w 19 15)) (BitVec.ofNat 5 (fld w 14 10)) (BitVec.ofNat 3 (fld w 5 3)) (BitVec.ofNat 2 (fld w 2 1)) (fld w 0 0 == 1)) else
  if fld w 0 0 = 0 ∧ fld w 9 6 = 10 then some (.atomFadd (BitVec.ofNat 5 (fld w 24 20)) (BitVec.ofNat 5 (fld w 19 15)) (BitVec.ofNat 5 (fld w 14 10)) (BitVec.ofNat 3 (fld w 5 3)) (BitVec.ofNat 2 (fld w 2 1))) else
  if fld w 0 0 = 0 ∧ fld w 9 6 = 11 then some (.atomCread (BitVec.ofNat 5 (fld w 24 20)) (BitVec.ofNat 5 (fld w 19 15)) (BitVec.ofNat 5 (fld w 14 10)) (BitVec.ofNat 3 (fld w 5 3)) (BitVec.ofNat 2 (fld w 2 1))) else
  none

/-- Control major 0x22: LOOP. -/
def decodeControl22 (w : Nat) : Option Instr :=
  if fld w 9 0 = 0 then some (.loop (BitVec.ofNat 5 (fld w 24 20)) (BitVec.ofNat 5 (fld w 19 15)) (BitVec.ofNat 5 (fld w 14 10))) else
  none

/-- Control major 0x23: PPUSH. -/
def decodeControl23 (w : Nat) : Option Instr :=
  if fld w 19 0 = 0 then some (.ppush (BitVec.ofNat 5 (fld w 24 20))) else
  none

/-- Control major 0x24: CIM_MODE_SCRATCH, CIM_MODE_COMPUTE. -/
def decodeControl24 (w : Nat) : Option Instr :=
  if fld w 19 0 = 0 then some (.cimModeScratch (BitVec.ofNat 5 (fld w 24 20))) else
  if fld w 13 0 = 0 ∧ fld w 19 19 = 1 then some (.cimModeCompute (BitVec.ofNat 5 (fld w 24 20)) (BitVec.ofNat 5 (fld w 18 14))) else
  none

/-- Control major 0x25: QCW_SET, QCW_GET, AQ_REMAP. -/
def decodeControl25 (w : Nat) : Option Instr :=
  if fld w 11 0 = 0 then some (.qcwSet (BitVec.ofNat 3 (fld w 24 22)) (BitVec.ofNat 5 (fld w 21 17)) (BitVec.ofNat 5 (fld w 16 12))) else
  if fld w 11 0 = 256 then some (.qcwGet (BitVec.ofNat 3 (fld w 24 22)) (BitVec.ofNat 5 (fld w 21 17)) (BitVec.ofNat 5 (fld w 16 12))) else
  if fld w 11 0 = 512 then some (.aqRemap (BitVec.ofNat 3 (fld w 24 22)) (BitVec.ofNat 5 (fld w 21 17)) (BitVec.ofNat 5 (fld w 16 12))) else
  none

/-- Control major 0x26: SETV, SETJ. -/
def decodeControl26 (w : Nat) : Option Instr :=
  if fld w 16 0 = 0 then some (.setv (BitVec.ofNat 3 (fld w 24 22)) (BitVec.ofNat 5 (fld w 21 17))) else
  if fld w 16 0 = 65536 ∧ fld w 24 22 = 0 then some (.setj (BitVec.ofNat 5 (fld w 21 17))) else
  none

/-- Control major 0x27: SYNC_ARM, SYNC_WAIT, SYNC_ADD. -/
def decodeControl27 (w : Nat) : Option Instr :=
  if fld w 9 0 = 0 then some (.syncArm (BitVec.ofNat 5 (fld w 24 20)) (BitVec.ofNat 5 (fld w 19 15)) (BitVec.ofNat 5 (fld w 14 10))) else
  if fld w 14 0 = 1 then some (.syncWait (BitVec.ofNat 5 (fld w 24 20)) (BitVec.ofNat 5 (fld w 19 15))) else
  if fld w 14 0 = 2 then some (.syncAdd (BitVec.ofNat 5 (fld w 24 20)) (BitVec.ofNat 5 (fld w 19 15))) else
  none

/-- Control major 0x28: BAR_INIT, BAR_ARRIVE, BAR_WAIT. -/
def decodeControl28 (w : Nat) : Option Instr :=
  if fld w 11 0 = 0 ∧ fld w 24 23 = 0 then some (.barInit (BitVec.ofNat 6 (fld w 22 17)) (BitVec.ofNat 5 (fld w 16 12))) else
  if fld w 16 0 = 0 ∧ fld w 24 23 = 1 then some (.barArrive (BitVec.ofNat 6 (fld w 22 17))) else
  if fld w 16 0 = 0 ∧ fld w 24 23 = 2 then some (.barWait (BitVec.ofNat 6 (fld w 22 17))) else
  none

/-- Control major 0x29: SPAWN, JOIN, DONE, CANCEL. -/
def decodeControl29 (w : Nat) : Option Instr :=
  if fld w 9 0 = 0 then some (.spawn (BitVec.ofNat 5 (fld w 24 20)) (BitVec.ofNat 5 (fld w 19 15)) (BitVec.ofNat 5 (fld w 14 10))) else
  if fld w 19 0 = 1 then some (.join (BitVec.ofNat 5 (fld w 24 20))) else
  if fld w 24 0 = 2 then some .done else
  if fld w 19 0 = 3 then some (.cancel (BitVec.ofNat 5 (fld w 24 20))) else
  none

/-- Control major 0x2A: ROPE, UNROPE, REJOIN. -/
def decodeControl2A (w : Nat) : Option Instr :=
  if fld w 19 0 = 0 then some (.rope (BitVec.ofNat 5 (fld w 24 20))) else
  if fld w 24 0 = 1 then some .unrope else
  if fld w 24 0 = 2 then some .rejoin else
  none

/-- Control major 0x2B: RTREE_SUM, RTREE_MAX, RTREE_MAXSUM. -/
def decodeControl2B (w : Nat) : Option Instr :=
  if fld w 9 0 = 0 then some (.rtreeSum (BitVec.ofNat 5 (fld w 24 20)) (BitVec.ofNat 5 (fld w 19 15)) (BitVec.ofNat 5 (fld w 14 10))) else
  if fld w 9 0 = 256 then some (.rtreeMax (BitVec.ofNat 5 (fld w 24 20)) (BitVec.ofNat 5 (fld w 19 15)) (BitVec.ofNat 5 (fld w 14 10))) else
  if fld w 9 0 = 512 then some (.rtreeMaxsum (BitVec.ofNat 5 (fld w 24 20)) (BitVec.ofNat 5 (fld w 19 15)) (BitVec.ofNat 5 (fld w 14 10))) else
  none

/-- The instruction a control-stream word stands for, by its major opcode (R112), before the checks of WellFormed. -/
def rawControl (w : Nat) (ext : LimmExt) : Option Instr :=
  match fld w 30 25 with
  | 1 => decodeControl01 w
  | 2 => decodeControl02 w ext
  | 3 => decodeControl03 w ext
  | 4 => decodeControl04 w ext
  | 5 => decodeControl05 w ext
  | 6 => decodeControl06 w ext
  | 7 => decodeControl07 w ext
  | 8 => decodeControl08 w
  | 10 => decodeControl0A w
  | 11 => decodeControl0B w
  | 12 => decodeControl0C w
  | 13 => decodeControl0D w
  | 14 => decodeControl0E w
  | 15 => decodeControl0F w
  | 16 => decodeControl10 w
  | 17 => decodeControl11 w ext
  | 18 => decodeControl12 w ext
  | 19 => decodeControl13 w ext
  | 20 => decodeControl14 w
  | 21 => decodeControl15 w
  | 22 => decodeControl16 w
  | 23 => decodeControl17 w
  | 24 => decodeControl18 w
  | 32 => decodeControl20 w
  | 33 => decodeControl21 w
  | 34 => decodeControl22 w
  | 35 => decodeControl23 w
  | 36 => decodeControl24 w
  | 37 => decodeControl25 w
  | 38 => decodeControl26 w
  | 39 => decodeControl27 w
  | 40 => decodeControl28 w
  | 41 => decodeControl29 w
  | 42 => decodeControl2A w
  | 43 => decodeControl2B w
  | _ => none

/-- Vector major 0x01: VADD. -/
def decodeVector01 (w : Nat) : Option Instr :=
  some (.vadd (fld w 31 31 == 1) (fld w 24 24 == 1) (BitVec.ofNat 8 (fld w 23 16)) (BitVec.ofNat 8 (fld w 15 8)) (BitVec.ofNat 8 (fld w 7 0)))

/-- Vector major 0x02: VSUB. -/
def decodeVector02 (w : Nat) : Option Instr :=
  some (.vsub (fld w 31 31 == 1) (fld w 24 24 == 1) (BitVec.ofNat 8 (fld w 23 16)) (BitVec.ofNat 8 (fld w 15 8)) (BitVec.ofNat 8 (fld w 7 0)))

/-- Vector major 0x03: VMUL. -/
def decodeVector03 (w : Nat) : Option Instr :=
  some (.vmul (fld w 31 31 == 1) (fld w 24 24 == 1) (BitVec.ofNat 8 (fld w 23 16)) (BitVec.ofNat 8 (fld w 15 8)) (BitVec.ofNat 8 (fld w 7 0)))

/-- Vector major 0x04: VDIV. -/
def decodeVector04 (w : Nat) : Option Instr :=
  some (.vdiv (fld w 31 31 == 1) (fld w 24 24 == 1) (BitVec.ofNat 8 (fld w 23 16)) (BitVec.ofNat 8 (fld w 15 8)) (BitVec.ofNat 8 (fld w 7 0)))

/-- Vector major 0x05: VFMA. -/
def decodeVector05 (w : Nat) : Option Instr :=
  some (.vfma (fld w 31 31 == 1) (fld w 24 24 == 1) (BitVec.ofNat 8 (fld w 23 16)) (BitVec.ofNat 8 (fld w 15 8)) (BitVec.ofNat 8 (fld w 7 0)))

/-- Vector major 0x06: VFNMA. -/
def decodeVector06 (w : Nat) : Option Instr :=
  some (.vfnma (fld w 31 31 == 1) (fld w 24 24 == 1) (BitVec.ofNat 8 (fld w 23 16)) (BitVec.ofNat 8 (fld w 15 8)) (BitVec.ofNat 8 (fld w 7 0)))

/-- Vector major 0x07: VMIN. -/
def decodeVector07 (w : Nat) : Option Instr :=
  some (.vmin (fld w 31 31 == 1) (fld w 24 24 == 1) (BitVec.ofNat 8 (fld w 23 16)) (BitVec.ofNat 8 (fld w 15 8)) (BitVec.ofNat 8 (fld w 7 0)))

/-- Vector major 0x08: VMAX. -/
def decodeVector08 (w : Nat) : Option Instr :=
  some (.vmax (fld w 31 31 == 1) (fld w 24 24 == 1) (BitVec.ofNat 8 (fld w 23 16)) (BitVec.ofNat 8 (fld w 15 8)) (BitVec.ofNat 8 (fld w 7 0)))

/-- Vector major 0x09: VCSGN. -/
def decodeVector09 (w : Nat) : Option Instr :=
  some (.vcsgn (fld w 31 31 == 1) (fld w 24 24 == 1) (BitVec.ofNat 8 (fld w 23 16)) (BitVec.ofNat 8 (fld w 15 8)) (BitVec.ofNat 8 (fld w 7 0)))

/-- Vector major 0x0A: VMOV, VNEG, VABS, VSQRT, VRSQRT, VRCP, VEXP, VLOG, VTANH, VSIGM, VSIN, VCOS. -/
def decodeVector0A (w : Nat) : Option Instr :=
  if fld w 7 0 = 0 then some (.vmov (fld w 31 31 == 1) (fld w 24 24 == 1) (BitVec.ofNat 8 (fld w 23 16)) (BitVec.ofNat 8 (fld w 15 8))) else
  if fld w 7 0 = 1 then some (.vneg (fld w 31 31 == 1) (fld w 24 24 == 1) (BitVec.ofNat 8 (fld w 23 16)) (BitVec.ofNat 8 (fld w 15 8))) else
  if fld w 7 0 = 2 then some (.vabs (fld w 31 31 == 1) (fld w 24 24 == 1) (BitVec.ofNat 8 (fld w 23 16)) (BitVec.ofNat 8 (fld w 15 8))) else
  if fld w 7 0 = 3 then some (.vsqrt (fld w 31 31 == 1) (fld w 24 24 == 1) (BitVec.ofNat 8 (fld w 23 16)) (BitVec.ofNat 8 (fld w 15 8))) else
  if fld w 7 0 = 4 then some (.vrsqrt (fld w 31 31 == 1) (fld w 24 24 == 1) (BitVec.ofNat 8 (fld w 23 16)) (BitVec.ofNat 8 (fld w 15 8))) else
  if fld w 7 0 = 5 then some (.vrcp (fld w 31 31 == 1) (fld w 24 24 == 1) (BitVec.ofNat 8 (fld w 23 16)) (BitVec.ofNat 8 (fld w 15 8))) else
  if fld w 7 0 = 6 then some (.vexp (fld w 31 31 == 1) (fld w 24 24 == 1) (BitVec.ofNat 8 (fld w 23 16)) (BitVec.ofNat 8 (fld w 15 8))) else
  if fld w 7 0 = 7 then some (.vlog (fld w 31 31 == 1) (fld w 24 24 == 1) (BitVec.ofNat 8 (fld w 23 16)) (BitVec.ofNat 8 (fld w 15 8))) else
  if fld w 7 0 = 8 then some (.vtanh (fld w 31 31 == 1) (fld w 24 24 == 1) (BitVec.ofNat 8 (fld w 23 16)) (BitVec.ofNat 8 (fld w 15 8))) else
  if fld w 7 0 = 9 then some (.vsigm (fld w 31 31 == 1) (fld w 24 24 == 1) (BitVec.ofNat 8 (fld w 23 16)) (BitVec.ofNat 8 (fld w 15 8))) else
  if fld w 7 0 = 10 then some (.vsin (fld w 31 31 == 1) (fld w 24 24 == 1) (BitVec.ofNat 8 (fld w 23 16)) (BitVec.ofNat 8 (fld w 15 8))) else
  if fld w 7 0 = 11 then some (.vcos (fld w 31 31 == 1) (fld w 24 24 == 1) (BitVec.ofNat 8 (fld w 23 16)) (BitVec.ofNat 8 (fld w 15 8))) else
  none

/-- Vector major 0x0B: VCMPEQ. -/
def decodeVector0B (w : Nat) : Option Instr :=
  some (.vcmpeq (fld w 31 31 == 1) (fld w 24 24 == 1) (BitVec.ofNat 8 (fld w 23 16)) (BitVec.ofNat 8 (fld w 15 8)) (BitVec.ofNat 8 (fld w 7 0)))

/-- Vector major 0x0C: VCMPLT. -/
def decodeVector0C (w : Nat) : Option Instr :=
  some (.vcmplt (fld w 31 31 == 1) (fld w 24 24 == 1) (BitVec.ofNat 8 (fld w 23 16)) (BitVec.ofNat 8 (fld w 15 8)) (BitVec.ofNat 8 (fld w 7 0)))

/-- Vector major 0x0D: VCMPLE. -/
def decodeVector0D (w : Nat) : Option Instr :=
  some (.vcmple (fld w 31 31 == 1) (fld w 24 24 == 1) (BitVec.ofNat 8 (fld w 23 16)) (BitVec.ofNat 8 (fld w 15 8)) (BitVec.ofNat 8 (fld w 7 0)))

/-- Vector major 0x0E: VIADD. -/
def decodeVector0E (w : Nat) : Option Instr :=
  some (.viadd (fld w 31 31 == 1) (fld w 24 24 == 1) (BitVec.ofNat 8 (fld w 23 16)) (BitVec.ofNat 8 (fld w 15 8)) (BitVec.ofNat 8 (fld w 7 0)))

/-- Vector major 0x0F: VISUB. -/
def decodeVector0F (w : Nat) : Option Instr :=
  some (.visub (fld w 31 31 == 1) (fld w 24 24 == 1) (BitVec.ofNat 8 (fld w 23 16)) (BitVec.ofNat 8 (fld w 15 8)) (BitVec.ofNat 8 (fld w 7 0)))

/-- Vector major 0x10: VIMUL. -/
def decodeVector10 (w : Nat) : Option Instr :=
  some (.vimul (fld w 31 31 == 1) (fld w 24 24 == 1) (BitVec.ofNat 8 (fld w 23 16)) (BitVec.ofNat 8 (fld w 15 8)) (BitVec.ofNat 8 (fld w 7 0)))

/-- Vector major 0x11: VIMIN. -/
def decodeVector11 (w : Nat) : Option Instr :=
  some (.vimin (fld w 31 31 == 1) (fld w 24 24 == 1) (BitVec.ofNat 8 (fld w 23 16)) (BitVec.ofNat 8 (fld w 15 8)) (BitVec.ofNat 8 (fld w 7 0)))

/-- Vector major 0x12: VIMAX. -/
def decodeVector12 (w : Nat) : Option Instr :=
  some (.vimax (fld w 31 31 == 1) (fld w 24 24 == 1) (BitVec.ofNat 8 (fld w 23 16)) (BitVec.ofNat 8 (fld w 15 8)) (BitVec.ofNat 8 (fld w 7 0)))

/-- Vector major 0x13: VAND. -/
def decodeVector13 (w : Nat) : Option Instr :=
  some (.vand (fld w 31 31 == 1) (fld w 24 24 == 1) (BitVec.ofNat 8 (fld w 23 16)) (BitVec.ofNat 8 (fld w 15 8)) (BitVec.ofNat 8 (fld w 7 0)))

/-- Vector major 0x14: VOR. -/
def decodeVector14 (w : Nat) : Option Instr :=
  some (.vor (fld w 31 31 == 1) (fld w 24 24 == 1) (BitVec.ofNat 8 (fld w 23 16)) (BitVec.ofNat 8 (fld w 15 8)) (BitVec.ofNat 8 (fld w 7 0)))

/-- Vector major 0x15: VXOR. -/
def decodeVector15 (w : Nat) : Option Instr :=
  some (.vxor (fld w 31 31 == 1) (fld w 24 24 == 1) (BitVec.ofNat 8 (fld w 23 16)) (BitVec.ofNat 8 (fld w 15 8)) (BitVec.ofNat 8 (fld w 7 0)))

/-- Vector major 0x16: VSHL. -/
def decodeVector16 (w : Nat) : Option Instr :=
  some (.vshl (fld w 31 31 == 1) (fld w 24 24 == 1) (BitVec.ofNat 8 (fld w 23 16)) (BitVec.ofNat 8 (fld w 15 8)) (BitVec.ofNat 8 (fld w 7 0)))

/-- Vector major 0x17: VSHR. -/
def decodeVector17 (w : Nat) : Option Instr :=
  some (.vshr (fld w 31 31 == 1) (fld w 24 24 == 1) (BitVec.ofNat 8 (fld w 23 16)) (BitVec.ofNat 8 (fld w 15 8)) (BitVec.ofNat 8 (fld w 7 0)))

/-- Vector major 0x18: VSAR. -/
def decodeVector18 (w : Nat) : Option Instr :=
  some (.vsar (fld w 31 31 == 1) (fld w 24 24 == 1) (BitVec.ofNat 8 (fld w 23 16)) (BitVec.ofNat 8 (fld w 15 8)) (BitVec.ofNat 8 (fld w 7 0)))

/-- Vector major 0x19: VICMPEQ. -/
def decodeVector19 (w : Nat) : Option Instr :=
  some (.vicmpeq (fld w 31 31 == 1) (fld w 24 24 == 1) (BitVec.ofNat 8 (fld w 23 16)) (BitVec.ofNat 8 (fld w 15 8)) (BitVec.ofNat 8 (fld w 7 0)))

/-- Vector major 0x1A: VICMPLT. -/
def decodeVector1A (w : Nat) : Option Instr :=
  some (.vicmplt (fld w 31 31 == 1) (fld w 24 24 == 1) (BitVec.ofNat 8 (fld w 23 16)) (BitVec.ofNat 8 (fld w 15 8)) (BitVec.ofNat 8 (fld w 7 0)))

/-- Vector major 0x1B: VSEL. -/
def decodeVector1B (w : Nat) : Option Instr :=
  some (.vsel (fld w 31 31 == 1) (fld w 24 24 == 1) (BitVec.ofNat 8 (fld w 23 16)) (BitVec.ofNat 8 (fld w 15 8)) (BitVec.ofNat 8 (fld w 7 0)))

/-- Vector major 0x1C: CVT_FF, CVT_FI, CVT_IF, CVT_CI. -/
def decodeVector1C (w : Nat) : Option Instr :=
  if fld w 4 0 = 0 ∧ fld w 7 6 = 0 then some (.cvtFf (fld w 31 31 == 1) (fld w 24 24 == 1) (BitVec.ofNat 8 (fld w 23 16)) (BitVec.ofNat 8 (fld w 15 8)) (fld w 5 5 == 1)) else
  if fld w 7 6 = 1 then some (.cvtFi (fld w 31 31 == 1) (fld w 24 24 == 1) (BitVec.ofNat 8 (fld w 23 16)) (BitVec.ofNat 8 (fld w 15 8)) (fld w 5 5 == 1) (BitVec.ofNat 5 (fld w 4 0))) else
  if fld w 7 0 = 128 then some (.cvtIf (fld w 31 31 == 1) (fld w 24 24 == 1) (BitVec.ofNat 8 (fld w 23 16)) (BitVec.ofNat 8 (fld w 15 8))) else
  if fld w 7 5 = 6 then some (.cvtCi (fld w 31 31 == 1) (fld w 24 24 == 1) (BitVec.ofNat 8 (fld w 23 16)) (BitVec.ofNat 8 (fld w 15 8)) (BitVec.ofNat 5 (fld w 4 0))) else
  none

/-- Vector major 0x1D: VRSUM, VRMAX, VRMIN, VRISUM. -/
def decodeVector1D (w : Nat) : Option Instr :=
  if fld w 7 0 = 0 then some (.vrsum (fld w 31 31 == 1) (fld w 24 24 == 1) (BitVec.ofNat 8 (fld w 23 16)) (BitVec.ofNat 8 (fld w 15 8))) else
  if fld w 7 0 = 1 then some (.vrmax (fld w 31 31 == 1) (fld w 24 24 == 1) (BitVec.ofNat 8 (fld w 23 16)) (BitVec.ofNat 8 (fld w 15 8))) else
  if fld w 7 0 = 2 then some (.vrmin (fld w 31 31 == 1) (fld w 24 24 == 1) (BitVec.ofNat 8 (fld w 23 16)) (BitVec.ofNat 8 (fld w 15 8))) else
  if fld w 7 0 = 3 then some (.vrisum (fld w 31 31 == 1) (fld w 24 24 == 1) (BitVec.ofNat 8 (fld w 23 16)) (BitVec.ofNat 8 (fld w 15 8))) else
  none

/-- Vector major 0x1E: VPERM. -/
def decodeVector1E (w : Nat) : Option Instr :=
  some (.vperm (fld w 31 31 == 1) (fld w 24 24 == 1) (BitVec.ofNat 8 (fld w 23 16)) (BitVec.ofNat 8 (fld w 15 8)) (BitVec.ofNat 8 (fld w 7 0)))

/-- Vector major 0x1F: VBCAST. -/
def decodeVector1F (w : Nat) : Option Instr :=
  some (.vbcast (fld w 31 31 == 1) (fld w 24 24 == 1) (BitVec.ofNat 8 (fld w 23 16)) (BitVec.ofNat 8 (fld w 15 8)) (BitVec.ofNat 8 (fld w 7 0)))

/-- Vector major 0x20: JSEED, JEXT, JSET. -/
def decodeVector20 (w : Nat) : Option Instr :=
  if fld w 7 0 = 0 then some (.jseed (fld w 31 31 == 1) (fld w 24 24 == 1) (BitVec.ofNat 8 (fld w 23 16)) (BitVec.ofNat 8 (fld w 15 8))) else
  if fld w 4 3 = 0 ∧ fld w 7 6 = 1 then some (.jext (fld w 31 31 == 1) (fld w 24 24 == 1) (BitVec.ofNat 8 (fld w 23 16)) (BitVec.ofNat 8 (fld w 15 8)) (fld w 5 5 == 1) (BitVec.ofNat 3 (fld w 2 0))) else
  if fld w 7 3 = 16 then some (.jset (fld w 31 31 == 1) (fld w 24 24 == 1) (BitVec.ofNat 8 (fld w 23 16)) (BitVec.ofNat 8 (fld w 15 8)) (BitVec.ofNat 3 (fld w 2 0))) else
  none

/-- Vector major 0x21: CIM_PASS. -/
def decodeVector21 (w : Nat) : Option Instr :=
  some (.cimPass (fld w 31 31 == 1) (BitVec.ofNat 5 (fld w 24 20)) (BitVec.ofNat 3 (fld w 19 17)) (BitVec.ofNat 7 (fld w 16 10)) (BitVec.ofNat 3 (fld w 9 7)) (BitVec.ofNat 4 (fld w 6 3)) (fld w 2 2 == 1) (fld w 1 1 == 1) (fld w 0 0 == 1))

/-- Vector major 0x22: CIM_SWAP, CIM_SWAPW, ACC_CLR, ACC_CVT_F32, ACC_CVT_I32, LUT_BUILD, LUT_ACC, OUTL, RSC, QNT, QPAR. -/
def decodeVector22 (w : Nat) : Option Instr :=
  if fld w 15 0 = 0 ∧ fld w 24 21 = 0 then some (.cimSwap (fld w 31 31 == 1) (BitVec.ofNat 5 (fld w 20 16))) else
  if fld w 15 0 = 0 ∧ fld w 24 21 = 1 then some (.cimSwapw (fld w 31 31 == 1) (BitVec.ofNat 5 (fld w 20 16))) else
  if fld w 16 0 = 0 ∧ fld w 24 21 = 2 then some (.accClr (fld w 31 31 == 1) (BitVec.ofNat 4 (fld w 20 17))) else
  if fld w 9 0 = 0 ∧ fld w 24 21 = 3 then some (.accCvtF32 (fld w 31 31 == 1) (BitVec.ofNat 7 (fld w 20 14)) (BitVec.ofNat 4 (fld w 13 10))) else
  if fld w 9 0 = 512 ∧ fld w 24 21 = 3 then some (.accCvtI32 (fld w 31 31 == 1) (BitVec.ofNat 7 (fld w 20 14)) (BitVec.ofNat 4 (fld w 13 10))) else
  if fld w 5 0 = 0 ∧ fld w 13 10 = 0 ∧ fld w 24 21 = 4 then some (.lutBuild (fld w 31 31 == 1) (BitVec.ofNat 7 (fld w 20 14)) (BitVec.ofNat 4 (fld w 9 6))) else
  if fld w 9 0 = 0 ∧ fld w 24 21 = 5 then some (.lutAcc (fld w 31 31 == 1) (BitVec.ofNat 4 (fld w 20 17)) (BitVec.ofNat 3 (fld w 16 14)) (BitVec.ofNat 4 (fld w 13 10))) else
  if fld w 6 0 = 0 ∧ fld w 24 21 = 6 then some (.outl (fld w 31 31 == 1) (BitVec.ofNat 4 (fld w 20 17)) (BitVec.ofNat 7 (fld w 16 10)) (BitVec.ofNat 3 (fld w 9 7))) else
  if fld w 2 0 = 0 ∧ fld w 24 21 = 7 then some (.rsc (fld w 31 31 == 1) (BitVec.ofNat 7 (fld w 20 14)) (BitVec.ofNat 4 (fld w 13 10)) (BitVec.ofNat 4 (fld w 9 6)) (BitVec.ofNat 3 (fld w 5 3))) else
  if fld w 2 0 = 0 ∧ fld w 24 21 = 8 then some (.qnt (fld w 31 31 == 1) (BitVec.ofNat 7 (fld w 20 14)) (BitVec.ofNat 7 (fld w 13 7)) (BitVec.ofNat 4 (fld w 6 3))) else
  if fld w 4 0 = 0 ∧ fld w 24 21 = 9 then some (.qpar (fld w 31 31 == 1) (BitVec.ofNat 7 (fld w 20 14)) (BitVec.ofNat 4 (fld w 13 10)) (BitVec.ofNat 5 (fld w 9 5))) else
  none

/-- Vector major 0x28: IADD, ISUB, ISHL, ISHR, IAND, IOR, IMUL, IPOPC, ICMPADV. -/
def decodeVector28 (w : Nat) : Option Instr :=
  if fld w 8 0 = 0 ∧ fld w 24 21 = 0 then some (.iadd (fld w 31 31 == 1) (BitVec.ofNat 4 (fld w 20 17)) (BitVec.ofNat 4 (fld w 16 13)) (BitVec.ofNat 4 (fld w 12 9))) else
  if fld w 8 0 = 0 ∧ fld w 24 21 = 1 then some (.isub (fld w 31 31 == 1) (BitVec.ofNat 4 (fld w 20 17)) (BitVec.ofNat 4 (fld w 16 13)) (BitVec.ofNat 4 (fld w 12 9))) else
  if fld w 8 0 = 0 ∧ fld w 24 21 = 2 then some (.ishl (fld w 31 31 == 1) (BitVec.ofNat 4 (fld w 20 17)) (BitVec.ofNat 4 (fld w 16 13)) (BitVec.ofNat 4 (fld w 12 9))) else
  if fld w 8 0 = 0 ∧ fld w 24 21 = 3 then some (.ishr (fld w 31 31 == 1) (BitVec.ofNat 4 (fld w 20 17)) (BitVec.ofNat 4 (fld w 16 13)) (BitVec.ofNat 4 (fld w 12 9))) else
  if fld w 8 0 = 0 ∧ fld w 24 21 = 4 then some (.iand (fld w 31 31 == 1) (BitVec.ofNat 4 (fld w 20 17)) (BitVec.ofNat 4 (fld w 16 13)) (BitVec.ofNat 4 (fld w 12 9))) else
  if fld w 8 0 = 0 ∧ fld w 24 21 = 5 then some (.ior (fld w 31 31 == 1) (BitVec.ofNat 4 (fld w 20 17)) (BitVec.ofNat 4 (fld w 16 13)) (BitVec.ofNat 4 (fld w 12 9))) else
  if fld w 8 0 = 0 ∧ fld w 24 21 = 6 then some (.imul (fld w 31 31 == 1) (BitVec.ofNat 4 (fld w 20 17)) (BitVec.ofNat 4 (fld w 16 13)) (BitVec.ofNat 4 (fld w 12 9))) else
  if fld w 12 0 = 0 ∧ fld w 24 21 = 7 then some (.ipopc (fld w 31 31 == 1) (BitVec.ofNat 4 (fld w 20 17)) (BitVec.ofNat 4 (fld w 16 13))) else
  if fld w 8 0 = 0 ∧ fld w 24 21 = 8 then some (.icmpadv (fld w 31 31 == 1) (BitVec.ofNat 4 (fld w 20 17)) (BitVec.ofNat 4 (fld w 16 13)) (BitVec.ofNat 4 (fld w 12 9))) else
  none

/-- Vector major 0x29: IADDI, ISUBI, ISHLI, ISHRI, IANDI, IORI, IMULI. -/
def decodeVector29 (w : Nat) : Option Instr :=
  if fld w 24 21 = 0 then some (.iaddi (fld w 31 31 == 1) (BitVec.ofNat 4 (fld w 20 17)) (BitVec.ofNat 4 (fld w 16 13)) (BitVec.ofNat 13 (fld w 12 0))) else
  if fld w 24 21 = 1 then some (.isubi (fld w 31 31 == 1) (BitVec.ofNat 4 (fld w 20 17)) (BitVec.ofNat 4 (fld w 16 13)) (BitVec.ofNat 13 (fld w 12 0))) else
  if fld w 24 21 = 2 then some (.ishli (fld w 31 31 == 1) (BitVec.ofNat 4 (fld w 20 17)) (BitVec.ofNat 4 (fld w 16 13)) (BitVec.ofNat 13 (fld w 12 0))) else
  if fld w 24 21 = 3 then some (.ishri (fld w 31 31 == 1) (BitVec.ofNat 4 (fld w 20 17)) (BitVec.ofNat 4 (fld w 16 13)) (BitVec.ofNat 13 (fld w 12 0))) else
  if fld w 24 21 = 4 then some (.iandi (fld w 31 31 == 1) (BitVec.ofNat 4 (fld w 20 17)) (BitVec.ofNat 4 (fld w 16 13)) (BitVec.ofNat 13 (fld w 12 0))) else
  if fld w 24 21 = 5 then some (.iori (fld w 31 31 == 1) (BitVec.ofNat 4 (fld w 20 17)) (BitVec.ofNat 4 (fld w 16 13)) (BitVec.ofNat 13 (fld w 12 0))) else
  if fld w 24 21 = 6 then some (.imuli (fld w 31 31 == 1) (BitVec.ofNat 4 (fld w 20 17)) (BitVec.ofNat 4 (fld w 16 13)) (BitVec.ofNat 13 (fld w 12 0))) else
  none

/-- Vector major 0x2A: ILI. -/
def decodeVector2A (w : Nat) : Option Instr :=
  some (.ili (fld w 31 31 == 1) (BitVec.ofNat 4 (fld w 24 21)) (BitVec.ofNat 21 (fld w 20 0)))

/-- Vector major 0x2B: ZINIT, ZNEXT, ZSKIP, ZISECT, ZUNION, ZDOWN, ZCRD, ZPOS. -/
def decodeVector2B (w : Nat) : Option Instr :=
  if fld w 7 0 = 0 ∧ fld w 13 11 = 0 ∧ fld w 24 21 = 0 then some (.zinit (fld w 31 31 == 1) (BitVec.ofNat 4 (fld w 20 17)) (BitVec.ofNat 3 (fld w 16 14)) (BitVec.ofNat 3 (fld w 10 8))) else
  if fld w 13 0 = 0 ∧ fld w 24 17 = 16 then some (.znext (fld w 31 31 == 1) (BitVec.ofNat 3 (fld w 16 14))) else
  if fld w 13 0 = 0 ∧ fld w 24 21 = 2 then some (.zskip (fld w 31 31 == 1) (BitVec.ofNat 4 (fld w 20 17)) (BitVec.ofNat 3 (fld w 16 14))) else
  if fld w 10 0 = 0 ∧ fld w 24 21 = 3 then some (.zisect (fld w 31 31 == 1) (BitVec.ofNat 4 (fld w 20 17)) (BitVec.ofNat 3 (fld w 16 14)) (BitVec.ofNat 3 (fld w 13 11))) else
  if fld w 10 0 = 0 ∧ fld w 24 21 = 4 then some (.zunion (fld w 31 31 == 1) (BitVec.ofNat 4 (fld w 20 17)) (BitVec.ofNat 3 (fld w 16 14)) (BitVec.ofNat 3 (fld w 13 11))) else
  if fld w 10 0 = 0 ∧ fld w 24 17 = 80 then some (.zdown (fld w 31 31 == 1) (BitVec.ofNat 3 (fld w 16 14)) (BitVec.ofNat 3 (fld w 13 11))) else
  if fld w 7 0 = 0 ∧ fld w 13 9 = 0 ∧ fld w 24 21 = 6 then some (.zcrd (fld w 31 31 == 1) (BitVec.ofNat 4 (fld w 20 17)) (BitVec.ofNat 3 (fld w 16 14)) (fld w 8 8 == 1)) else
  if fld w 7 0 = 0 ∧ fld w 13 10 = 0 ∧ fld w 24 21 = 7 then some (.zpos (fld w 31 31 == 1) (BitVec.ofNat 4 (fld w 20 17)) (BitVec.ofNat 3 (fld w 16 14)) (BitVec.ofNat 2 (fld w 9 8))) else
  none

/-- Vector major 0x2C: AQPUSH, IGET. -/
def decodeVector2C (w : Nat) : Option Instr :=
  if fld w 13 0 = 0 ∧ fld w 24 21 = 0 then some (.aqpush (fld w 31 31 == 1) (BitVec.ofNat 4 (fld w 20 17)) (BitVec.ofNat 3 (fld w 16 14))) else
  if fld w 13 0 = 0 ∧ fld w 24 21 = 1 then some (.iget (fld w 31 31 == 1) (BitVec.ofNat 4 (fld w 20 17)) (BitVec.ofNat 3 (fld w 16 14))) else
  none

/-- Vector major 0x30: XLD. -/
def decodeVector30 (w : Nat) : Option Instr :=
  some (.xld (fld w 31 31 == 1) (BitVec.ofNat 8 (fld w 24 17)) (BitVec.ofNat 4 (fld w 16 13)) (BitVec.ofNat 13 (fld w 12 0)))

/-- Vector major 0x31: XST. -/
def decodeVector31 (w : Nat) : Option Instr :=
  some (.xst (fld w 31 31 == 1) (BitVec.ofNat 8 (fld w 24 17)) (BitVec.ofNat 4 (fld w 16 13)) (BitVec.ofNat 13 (fld w 12 0)))

/-- Vector major 0x32: DQPOP, DQPEEK, PPOP. -/
def decodeVector32 (w : Nat) : Option Instr :=
  if fld w 9 0 = 0 ∧ fld w 24 21 = 0 then some (.dqpop (fld w 31 31 == 1) (BitVec.ofNat 8 (fld w 20 13)) (BitVec.ofNat 3 (fld w 12 10))) else
  if fld w 9 0 = 0 ∧ fld w 24 21 = 1 then some (.dqpeek (fld w 31 31 == 1) (BitVec.ofNat 8 (fld w 20 13)) (BitVec.ofNat 3 (fld w 12 10))) else
  if fld w 5 0 = 0 ∧ fld w 24 10 = 4096 then some (.ppop (fld w 31 31 == 1) (BitVec.ofNat 4 (fld w 9 6))) else
  none

/-- Vector major 0x33: XMV. -/
def decodeVector33 (w : Nat) : Option Instr :=
  if fld w 8 0 = 0 then some (.xmv (fld w 31 31 == 1) (BitVec.ofNat 8 (fld w 24 17)) (BitVec.ofNat 8 (fld w 16 9))) else
  none

/-- Vector major 0x34: X_FSET, X_FCLR, FTST, FRD. -/
def decodeVector34 (w : Nat) : Option Instr :=
  if fld w 12 0 = 0 ∧ fld w 24 17 = 0 then some (.xFset (fld w 31 31 == 1) (BitVec.ofNat 4 (fld w 16 13))) else
  if fld w 12 0 = 0 ∧ fld w 24 17 = 16 then some (.xFclr (fld w 31 31 == 1) (BitVec.ofNat 4 (fld w 16 13))) else
  if fld w 12 0 = 0 ∧ fld w 24 21 = 2 then some (.ftst (fld w 31 31 == 1) (BitVec.ofNat 4 (fld w 20 17)) (BitVec.ofNat 4 (fld w 16 13))) else
  if fld w 11 0 = 0 ∧ fld w 16 13 = 0 ∧ fld w 24 21 = 3 then some (.frd (fld w 31 31 == 1) (BitVec.ofNat 4 (fld w 20 17)) (fld w 12 12 == 1)) else
  none

/-- Vector major 0x3E: NOP. -/
def decodeVector3E (w : Nat) : Option Instr :=
  if fld w 24 0 = 0 then some .nop else
  none

/-- The instruction a vector-stream word stands for, by its major opcode (R115), before the checks of WellFormed. -/
def rawVector (w : Nat) : Option Instr :=
  match fld w 30 25 with
  | 1 => decodeVector01 w
  | 2 => decodeVector02 w
  | 3 => decodeVector03 w
  | 4 => decodeVector04 w
  | 5 => decodeVector05 w
  | 6 => decodeVector06 w
  | 7 => decodeVector07 w
  | 8 => decodeVector08 w
  | 9 => decodeVector09 w
  | 10 => decodeVector0A w
  | 11 => decodeVector0B w
  | 12 => decodeVector0C w
  | 13 => decodeVector0D w
  | 14 => decodeVector0E w
  | 15 => decodeVector0F w
  | 16 => decodeVector10 w
  | 17 => decodeVector11 w
  | 18 => decodeVector12 w
  | 19 => decodeVector13 w
  | 20 => decodeVector14 w
  | 21 => decodeVector15 w
  | 22 => decodeVector16 w
  | 23 => decodeVector17 w
  | 24 => decodeVector18 w
  | 25 => decodeVector19 w
  | 26 => decodeVector1A w
  | 27 => decodeVector1B w
  | 28 => decodeVector1C w
  | 29 => decodeVector1D w
  | 30 => decodeVector1E w
  | 31 => decodeVector1F w
  | 32 => decodeVector20 w
  | 33 => decodeVector21 w
  | 34 => decodeVector22 w
  | 40 => decodeVector28 w
  | 41 => decodeVector29 w
  | 42 => decodeVector2A w
  | 43 => decodeVector2B w
  | 44 => decodeVector2C w
  | 48 => decodeVector30 w
  | 49 => decodeVector31 w
  | 50 => decodeVector32 w
  | 51 => decodeVector33 w
  | 52 => decodeVector34 w
  | 62 => decodeVector3E w
  | _ => none

/-- The majors of formats CI and CM, which may chain (R106). -/
def isImmMajor (m : Nat) : Bool :=
  (decide (2 ≤ m) && decide (m ≤ 7)) || decide (m = 0x11) || decide (m = 0x12) || decide (m = 0x13)

/-- Keeps an instruction that WellFormed accepts. -/
def keep (o : Option Instr) : Except DecodeError Instr :=
  match o with
  | some i => if i.wellFormed then .ok i else .error .reservedEncoding
  | none => .error .reservedEncoding

/-- Whether a word is a LIMM word (R106). -/
def isLimm (w : Nat) : Bool := decide (fld w 30 25 = 0x3E)

/-- Decodes the control instruction at the head of a list of words (R104, R106, R107, R112): the instruction and the rest. -/
def decodeControl (ws : List Nat) : Except DecodeError (Instr × List Nat) :=
  match ws with
  | [] => .error .noWord
  | w :: rest =>
    let m := fld w 30 25
    if m = 0x3E then .error .limmUnjoined
    else if m = 0x3D then .error (if fld w 31 31 = 0 ∧ fld w 24 0 = 0 then .pad else .badPad)
    else if fld w 31 31 = 0 then (keep (rawControl w .none)).map fun i => (i, rest)
    else if isImmMajor m then
      match rest with
      | [] => .error .badLimm
      | l :: rest1 =>
        if isLimm l then
          if fld l 31 31 = 0 then
            (keep (rawControl w (.one (BitVec.ofNat 25 (fld l 24 0))))).map fun i => (i, rest1)
          else
            match rest1 with
            | [] => .error .badLimm
            | k :: rest2 =>
              if isLimm k ∧ fld k 31 31 = 0 then
                (keep (rawControl w (.two (BitVec.ofNat 25 (fld l 24 0)) (BitVec.ofNat 25 (fld k 24 0))))).map
                  fun i => (i, rest2)
              else .error .badLimm
        else .error .badLimm
    else .error .chainRefused

/-- Decodes a vector-stream word (R107, R114-R118). -/
def decodeVector (w : Nat) : Except DecodeError Instr :=
  let m := fld w 30 25
  if m = 0x3D then .error (if fld w 31 31 = 0 ∧ fld w 24 0 = 0 then .pad else .badPad)
  else if m = 0x3E then
    -- NOP (R115): its chain bit is a matter of the group (R122, check 10)
    (if fld w 24 0 = 0 then .ok .nop else .error .reservedEncoding)
  else keep (rawVector w)

/-- Decodes the control instruction at the head of a list of bytes. -/
def decodeBytes (bs : List Byte) : Except DecodeError (Instr × List Nat) := decodeControl (wordsOf bs)

/-- The instruction the decoder reads from a word of the opcode table. The two streams share one opcode space (R104), and
the table does not say which stream a word is of: the control stream's reading, or else the vector stream's (log 11). -/
def decodeTableWord (nbits w : Nat) : Option Instr :=
  let v := w % 2 ^ (min nbits 32)
  match decodeControl [v, 0, 0] with
  | .ok (i, _) => some i
  | .error _ => match decodeVector v with | .ok i => some i | .error _ => none

/-! ## The encoder -/

/-- A word from its fixed bits and its fields, each a value and its lowest bit. -/
def pack (base : Nat) : List (Nat × Nat) → Nat
  | [] => base
  | (v, lo) :: t => v * 2 ^ lo + pack base t

/-- A CI or CM word and its LIMM words (R106). -/
def encodeImm (w : Nat) (e : LimmExt) : List Nat :=
  match e with
  | .none => [w]
  | .one a => [w + 2 ^ 31, 0x7C000000 + a.toNat]
  | .two a b => [w + 2 ^ 31, 0xFC000000 + a.toNat, 0x7C000000 + b.toNat]

/-- The words of an M-, I- or X-slot instruction or NOP (R114, R115, R117, R118); an event has none. -/
def encodeMix (i : Instr) : List Nat :=
  match i with
  | .cimPass c b l a p e o n g => [pack 0x42000000 [(ofBool c, 31), (b.toNat, 20), (l.toNat, 17), (a.toNat, 10), (p.toNat, 7), (e.toNat, 3), (ofBool o, 2), (ofBool n, 1), (ofBool g, 0)]]
  | .cimSwap c b => [pack 0x44000000 [(ofBool c, 31), (b.toNat, 16)]]
  | .cimSwapw c b => [pack 0x44200000 [(ofBool c, 31), (b.toNat, 16)]]
  | .accClr c e => [pack 0x44400000 [(ofBool c, 31), (e.toNat, 17)]]
  | .accCvtF32 c d e => [pack 0x44600000 [(ofBool c, 31), (d.toNat, 14), (e.toNat, 10)]]
  | .accCvtI32 c d e => [pack 0x44600200 [(ofBool c, 31), (d.toNat, 14), (e.toNat, 10)]]
  | .lutBuild c v i => [pack 0x44800000 [(ofBool c, 31), (v.toNat, 14), (i.toNat, 6)]]
  | .lutAcc c e q k => [pack 0x44A00000 [(ofBool c, 31), (e.toNat, 17), (q.toNat, 14), (k.toNat, 10)]]
  | .outl c e v q => [pack 0x44C00000 [(ofBool c, 31), (e.toNat, 17), (v.toNat, 10), (q.toNat, 7)]]
  | .rsc c d e t q => [pack 0x44E00000 [(ofBool c, 31), (d.toNat, 14), (e.toNat, 10), (t.toNat, 6), (q.toNat, 3)]]
  | .qnt c d v p => [pack 0x45000000 [(ofBool c, 31), (d.toNat, 14), (v.toNat, 7), (p.toNat, 3)]]
  | .qpar c v p k => [pack 0x45200000 [(ofBool c, 31), (v.toNat, 14), (p.toNat, 10), (k.toNat, 5)]]
  | .iadd c d a b => [pack 0x50000000 [(ofBool c, 31), (d.toNat, 17), (a.toNat, 13), (b.toNat, 9)]]
  | .isub c d a b => [pack 0x50200000 [(ofBool c, 31), (d.toNat, 17), (a.toNat, 13), (b.toNat, 9)]]
  | .ishl c d a b => [pack 0x50400000 [(ofBool c, 31), (d.toNat, 17), (a.toNat, 13), (b.toNat, 9)]]
  | .ishr c d a b => [pack 0x50600000 [(ofBool c, 31), (d.toNat, 17), (a.toNat, 13), (b.toNat, 9)]]
  | .iand c d a b => [pack 0x50800000 [(ofBool c, 31), (d.toNat, 17), (a.toNat, 13), (b.toNat, 9)]]
  | .ior c d a b => [pack 0x50A00000 [(ofBool c, 31), (d.toNat, 17), (a.toNat, 13), (b.toNat, 9)]]
  | .imul c d a b => [pack 0x50C00000 [(ofBool c, 31), (d.toNat, 17), (a.toNat, 13), (b.toNat, 9)]]
  | .ipopc c d a => [pack 0x50E00000 [(ofBool c, 31), (d.toNat, 17), (a.toNat, 13)]]
  | .icmpadv c d a b => [pack 0x51000000 [(ofBool c, 31), (d.toNat, 17), (a.toNat, 13), (b.toNat, 9)]]
  | .iaddi c d a i => [pack 0x52000000 [(ofBool c, 31), (d.toNat, 17), (a.toNat, 13), (i.toNat, 0)]]
  | .isubi c d a i => [pack 0x52200000 [(ofBool c, 31), (d.toNat, 17), (a.toNat, 13), (i.toNat, 0)]]
  | .ishli c d a i => [pack 0x52400000 [(ofBool c, 31), (d.toNat, 17), (a.toNat, 13), (i.toNat, 0)]]
  | .ishri c d a i => [pack 0x52600000 [(ofBool c, 31), (d.toNat, 17), (a.toNat, 13), (i.toNat, 0)]]
  | .iandi c d a i => [pack 0x52800000 [(ofBool c, 31), (d.toNat, 17), (a.toNat, 13), (i.toNat, 0)]]
  | .iori c d a i => [pack 0x52A00000 [(ofBool c, 31), (d.toNat, 17), (a.toNat, 13), (i.toNat, 0)]]
  | .imuli c d a i => [pack 0x52C00000 [(ofBool c, 31), (d.toNat, 17), (a.toNat, 13), (i.toNat, 0)]]
  | .ili c d i => [pack 0x54000000 [(ofBool c, 31), (d.toNat, 21), (i.toNat, 0)]]
  | .zinit c i z l => [pack 0x56000000 [(ofBool c, 31), (i.toNat, 17), (z.toNat, 14), (l.toNat, 8)]]
  | .znext c z => [pack 0x56200000 [(ofBool c, 31), (z.toNat, 14)]]
  | .zskip c i z => [pack 0x56400000 [(ofBool c, 31), (i.toNat, 17), (z.toNat, 14)]]
  | .zisect c i z y => [pack 0x56600000 [(ofBool c, 31), (i.toNat, 17), (z.toNat, 14), (y.toNat, 11)]]
  | .zunion c i z y => [pack 0x56800000 [(ofBool c, 31), (i.toNat, 17), (z.toNat, 14), (y.toNat, 11)]]
  | .zdown c z y => [pack 0x56A00000 [(ofBool c, 31), (z.toNat, 14), (y.toNat, 11)]]
  | .zcrd c i z m => [pack 0x56C00000 [(ofBool c, 31), (i.toNat, 17), (z.toNat, 14), (ofBool m, 8)]]
  | .zpos c i z m => [pack 0x56E00000 [(ofBool c, 31), (i.toNat, 17), (z.toNat, 14), (m.toNat, 8)]]
  | .aqpush c i q => [pack 0x58000000 [(ofBool c, 31), (i.toNat, 17), (q.toNat, 14)]]
  | .iget c i q => [pack 0x58200000 [(ofBool c, 31), (i.toNat, 17), (q.toNat, 14)]]
  | .xld c n a i => [pack 0x60000000 [(ofBool c, 31), (n.toNat, 17), (a.toNat, 13), (i.toNat, 0)]]
  | .xst c n a i => [pack 0x62000000 [(ofBool c, 31), (n.toNat, 17), (a.toNat, 13), (i.toNat, 0)]]
  | .dqpop c n q => [pack 0x64000000 [(ofBool c, 31), (n.toNat, 13), (q.toNat, 10)]]
  | .dqpeek c n q => [pack 0x64200000 [(ofBool c, 31), (n.toNat, 13), (q.toNat, 10)]]
  | .ppop c d => [pack 0x64400000 [(ofBool c, 31), (d.toNat, 6)]]
  | .xmv c d v => [pack 0x66000000 [(ofBool c, 31), (d.toNat, 17), (v.toNat, 9)]]
  | .xFset c f => [pack 0x68000000 [(ofBool c, 31), (f.toNat, 13)]]
  | .xFclr c f => [pack 0x68200000 [(ofBool c, 31), (f.toNat, 13)]]
  | .ftst c d f => [pack 0x68400000 [(ofBool c, 31), (d.toNat, 17), (f.toNat, 13)]]
  | .frd c d h => [pack 0x68600000 [(ofBool c, 31), (d.toNat, 17), (ofBool h, 12)]]
  | .nop => [0x7C000000]
  | _ => []

/-- The words of a vector-stream instruction (R114-R118). -/
def encodeVector (i : Instr) : List Nat :=
  match i with
  | .vadd c s d a b => [pack 0x02000000 [(ofBool c, 31), (ofBool s, 24), (d.toNat, 16), (a.toNat, 8), (b.toNat, 0)]]
  | .vsub c s d a b => [pack 0x04000000 [(ofBool c, 31), (ofBool s, 24), (d.toNat, 16), (a.toNat, 8), (b.toNat, 0)]]
  | .vmul c s d a b => [pack 0x06000000 [(ofBool c, 31), (ofBool s, 24), (d.toNat, 16), (a.toNat, 8), (b.toNat, 0)]]
  | .vdiv c s d a b => [pack 0x08000000 [(ofBool c, 31), (ofBool s, 24), (d.toNat, 16), (a.toNat, 8), (b.toNat, 0)]]
  | .vfma c s d a b => [pack 0x0A000000 [(ofBool c, 31), (ofBool s, 24), (d.toNat, 16), (a.toNat, 8), (b.toNat, 0)]]
  | .vfnma c s d a b => [pack 0x0C000000 [(ofBool c, 31), (ofBool s, 24), (d.toNat, 16), (a.toNat, 8), (b.toNat, 0)]]
  | .vmin c s d a b => [pack 0x0E000000 [(ofBool c, 31), (ofBool s, 24), (d.toNat, 16), (a.toNat, 8), (b.toNat, 0)]]
  | .vmax c s d a b => [pack 0x10000000 [(ofBool c, 31), (ofBool s, 24), (d.toNat, 16), (a.toNat, 8), (b.toNat, 0)]]
  | .vcsgn c s d a b => [pack 0x12000000 [(ofBool c, 31), (ofBool s, 24), (d.toNat, 16), (a.toNat, 8), (b.toNat, 0)]]
  | .vmov c s d a => [pack 0x14000000 [(ofBool c, 31), (ofBool s, 24), (d.toNat, 16), (a.toNat, 8)]]
  | .vneg c s d a => [pack 0x14000001 [(ofBool c, 31), (ofBool s, 24), (d.toNat, 16), (a.toNat, 8)]]
  | .vabs c s d a => [pack 0x14000002 [(ofBool c, 31), (ofBool s, 24), (d.toNat, 16), (a.toNat, 8)]]
  | .vsqrt c s d a => [pack 0x14000003 [(ofBool c, 31), (ofBool s, 24), (d.toNat, 16), (a.toNat, 8)]]
  | .vrsqrt c s d a => [pack 0x14000004 [(ofBool c, 31), (ofBool s, 24), (d.toNat, 16), (a.toNat, 8)]]
  | .vrcp c s d a => [pack 0x14000005 [(ofBool c, 31), (ofBool s, 24), (d.toNat, 16), (a.toNat, 8)]]
  | .vexp c s d a => [pack 0x14000006 [(ofBool c, 31), (ofBool s, 24), (d.toNat, 16), (a.toNat, 8)]]
  | .vlog c s d a => [pack 0x14000007 [(ofBool c, 31), (ofBool s, 24), (d.toNat, 16), (a.toNat, 8)]]
  | .vtanh c s d a => [pack 0x14000008 [(ofBool c, 31), (ofBool s, 24), (d.toNat, 16), (a.toNat, 8)]]
  | .vsigm c s d a => [pack 0x14000009 [(ofBool c, 31), (ofBool s, 24), (d.toNat, 16), (a.toNat, 8)]]
  | .vsin c s d a => [pack 0x1400000A [(ofBool c, 31), (ofBool s, 24), (d.toNat, 16), (a.toNat, 8)]]
  | .vcos c s d a => [pack 0x1400000B [(ofBool c, 31), (ofBool s, 24), (d.toNat, 16), (a.toNat, 8)]]
  | .vcmpeq c s d a b => [pack 0x16000000 [(ofBool c, 31), (ofBool s, 24), (d.toNat, 16), (a.toNat, 8), (b.toNat, 0)]]
  | .vcmplt c s d a b => [pack 0x18000000 [(ofBool c, 31), (ofBool s, 24), (d.toNat, 16), (a.toNat, 8), (b.toNat, 0)]]
  | .vcmple c s d a b => [pack 0x1A000000 [(ofBool c, 31), (ofBool s, 24), (d.toNat, 16), (a.toNat, 8), (b.toNat, 0)]]
  | .viadd c s d a b => [pack 0x1C000000 [(ofBool c, 31), (ofBool s, 24), (d.toNat, 16), (a.toNat, 8), (b.toNat, 0)]]
  | .visub c s d a b => [pack 0x1E000000 [(ofBool c, 31), (ofBool s, 24), (d.toNat, 16), (a.toNat, 8), (b.toNat, 0)]]
  | .vimul c s d a b => [pack 0x20000000 [(ofBool c, 31), (ofBool s, 24), (d.toNat, 16), (a.toNat, 8), (b.toNat, 0)]]
  | .vimin c s d a b => [pack 0x22000000 [(ofBool c, 31), (ofBool s, 24), (d.toNat, 16), (a.toNat, 8), (b.toNat, 0)]]
  | .vimax c s d a b => [pack 0x24000000 [(ofBool c, 31), (ofBool s, 24), (d.toNat, 16), (a.toNat, 8), (b.toNat, 0)]]
  | .vand c s d a b => [pack 0x26000000 [(ofBool c, 31), (ofBool s, 24), (d.toNat, 16), (a.toNat, 8), (b.toNat, 0)]]
  | .vor c s d a b => [pack 0x28000000 [(ofBool c, 31), (ofBool s, 24), (d.toNat, 16), (a.toNat, 8), (b.toNat, 0)]]
  | .vxor c s d a b => [pack 0x2A000000 [(ofBool c, 31), (ofBool s, 24), (d.toNat, 16), (a.toNat, 8), (b.toNat, 0)]]
  | .vshl c s d a b => [pack 0x2C000000 [(ofBool c, 31), (ofBool s, 24), (d.toNat, 16), (a.toNat, 8), (b.toNat, 0)]]
  | .vshr c s d a b => [pack 0x2E000000 [(ofBool c, 31), (ofBool s, 24), (d.toNat, 16), (a.toNat, 8), (b.toNat, 0)]]
  | .vsar c s d a b => [pack 0x30000000 [(ofBool c, 31), (ofBool s, 24), (d.toNat, 16), (a.toNat, 8), (b.toNat, 0)]]
  | .vicmpeq c s d a b => [pack 0x32000000 [(ofBool c, 31), (ofBool s, 24), (d.toNat, 16), (a.toNat, 8), (b.toNat, 0)]]
  | .vicmplt c s d a b => [pack 0x34000000 [(ofBool c, 31), (ofBool s, 24), (d.toNat, 16), (a.toNat, 8), (b.toNat, 0)]]
  | .vsel c s d a b => [pack 0x36000000 [(ofBool c, 31), (ofBool s, 24), (d.toNat, 16), (a.toNat, 8), (b.toNat, 0)]]
  | .cvtFf c s d a t => [pack 0x38000000 [(ofBool c, 31), (ofBool s, 24), (d.toNat, 16), (a.toNat, 8), (ofBool t, 5)]]
  | .cvtFi c s d a t k => [pack 0x38000040 [(ofBool c, 31), (ofBool s, 24), (d.toNat, 16), (a.toNat, 8), (ofBool t, 5), (k.toNat, 0)]]
  | .cvtIf c s d a => [pack 0x38000080 [(ofBool c, 31), (ofBool s, 24), (d.toNat, 16), (a.toNat, 8)]]
  | .cvtCi c s d a k => [pack 0x380000C0 [(ofBool c, 31), (ofBool s, 24), (d.toNat, 16), (a.toNat, 8), (k.toNat, 0)]]
  | .vrsum c s d a => [pack 0x3A000000 [(ofBool c, 31), (ofBool s, 24), (d.toNat, 16), (a.toNat, 8)]]
  | .vrmax c s d a => [pack 0x3A000001 [(ofBool c, 31), (ofBool s, 24), (d.toNat, 16), (a.toNat, 8)]]
  | .vrmin c s d a => [pack 0x3A000002 [(ofBool c, 31), (ofBool s, 24), (d.toNat, 16), (a.toNat, 8)]]
  | .vrisum c s d a => [pack 0x3A000003 [(ofBool c, 31), (ofBool s, 24), (d.toNat, 16), (a.toNat, 8)]]
  | .vperm c s d a b => [pack 0x3C000000 [(ofBool c, 31), (ofBool s, 24), (d.toNat, 16), (a.toNat, 8), (b.toNat, 0)]]
  | .vbcast c s d a i => [pack 0x3E000000 [(ofBool c, 31), (ofBool s, 24), (d.toNat, 16), (a.toNat, 8), (i.toNat, 0)]]
  | .jseed c s d a => [pack 0x40000000 [(ofBool c, 31), (ofBool s, 24), (d.toNat, 16), (a.toNat, 8)]]
  | .jext c s d a f k => [pack 0x40000040 [(ofBool c, 31), (ofBool s, 24), (d.toNat, 16), (a.toNat, 8), (ofBool f, 5), (k.toNat, 0)]]
  | .jset c s d a k => [pack 0x40000080 [(ofBool c, 31), (ofBool s, 24), (d.toNat, 16), (a.toNat, 8), (k.toNat, 0)]]
  | i => encodeMix i

/-- The words of a well-formed instruction (05: R104-R118); an event has none. -/
def encode (i : Instr) : List Nat :=
  match i with
  | .add d s t w => [pack 0x02000000 [(d.toNat, 20), (s.toNat, 15), (t.toNat, 10), (ofBool w, 9)]]
  | .sub d s t w => [pack 0x02000001 [(d.toNat, 20), (s.toNat, 15), (t.toNat, 10), (ofBool w, 9)]]
  | .and d s t => [pack 0x02000002 [(d.toNat, 20), (s.toNat, 15), (t.toNat, 10)]]
  | .or d s t => [pack 0x02000003 [(d.toNat, 20), (s.toNat, 15), (t.toNat, 10)]]
  | .xor d s t => [pack 0x02000004 [(d.toNat, 20), (s.toNat, 15), (t.toNat, 10)]]
  | .shl d s t w => [pack 0x02000005 [(d.toNat, 20), (s.toNat, 15), (t.toNat, 10), (ofBool w, 9)]]
  | .shr d s t w => [pack 0x02000006 [(d.toNat, 20), (s.toNat, 15), (t.toNat, 10), (ofBool w, 9)]]
  | .sar d s t w => [pack 0x02000007 [(d.toNat, 20), (s.toNat, 15), (t.toNat, 10), (ofBool w, 9)]]
  | .mul d s t w => [pack 0x02000008 [(d.toNat, 20), (s.toNat, 15), (t.toNat, 10), (ofBool w, 9)]]
  | .mulh d s t => [pack 0x02000009 [(d.toNat, 20), (s.toNat, 15), (t.toNat, 10)]]
  | .mulhu d s t => [pack 0x0200000A [(d.toNat, 20), (s.toNat, 15), (t.toNat, 10)]]
  | .div d s t w => [pack 0x0200000B [(d.toNat, 20), (s.toNat, 15), (t.toNat, 10), (ofBool w, 9)]]
  | .divu d s t w => [pack 0x0200000C [(d.toNat, 20), (s.toNat, 15), (t.toNat, 10), (ofBool w, 9)]]
  | .rem d s t w => [pack 0x0200000D [(d.toNat, 20), (s.toNat, 15), (t.toNat, 10), (ofBool w, 9)]]
  | .remu d s t w => [pack 0x0200000E [(d.toNat, 20), (s.toNat, 15), (t.toNat, 10), (ofBool w, 9)]]
  | .slt d s t => [pack 0x0200000F [(d.toNat, 20), (s.toNat, 15), (t.toNat, 10)]]
  | .sltu d s t => [pack 0x02000010 [(d.toNat, 20), (s.toNat, 15), (t.toNat, 10)]]
  | .min d s t => [pack 0x02000011 [(d.toNat, 20), (s.toNat, 15), (t.toNat, 10)]]
  | .max d s t => [pack 0x02000012 [(d.toNat, 20), (s.toNat, 15), (t.toNat, 10)]]
  | .minu d s t => [pack 0x02000013 [(d.toNat, 20), (s.toNat, 15), (t.toNat, 10)]]
  | .maxu d s t => [pack 0x02000014 [(d.toNat, 20), (s.toNat, 15), (t.toNat, 10)]]
  | .addi d s i => encodeImm (pack 0x04000000 [(d.toNat, 20), (s.toNat, 15), (i.base.toNat, 0)]) i.ext
  | .andi d s i => encodeImm (pack 0x06000000 [(d.toNat, 20), (s.toNat, 15), (i.base.toNat, 0)]) i.ext
  | .ori d s i => encodeImm (pack 0x08000000 [(d.toNat, 20), (s.toNat, 15), (i.base.toNat, 0)]) i.ext
  | .xori d s i => encodeImm (pack 0x0A000000 [(d.toNat, 20), (s.toNat, 15), (i.base.toNat, 0)]) i.ext
  | .slti d s i => encodeImm (pack 0x0C000000 [(d.toNat, 20), (s.toNat, 15), (i.base.toNat, 0)]) i.ext
  | .sltiu d s i => encodeImm (pack 0x0E000000 [(d.toNat, 20), (s.toNat, 15), (i.base.toNat, 0)]) i.ext
  | .shli d s w h => [pack 0x10000000 [(d.toNat, 20), (s.toNat, 15), (ofBool w, 12), (h.toNat, 0)]]
  | .shri d s w h => [pack 0x10002000 [(d.toNat, 20), (s.toNat, 15), (ofBool w, 12), (h.toNat, 0)]]
  | .sari d s w h => [pack 0x10004000 [(d.toNat, 20), (s.toNat, 15), (ofBool w, 12), (h.toNat, 0)]]
  | .beq s t i => [pack 0x14000000 [(s.toNat, 20), (t.toNat, 15), (i.toNat, 0)]]
  | .bne s t i => [pack 0x16000000 [(s.toNat, 20), (t.toNat, 15), (i.toNat, 0)]]
  | .blt s t i => [pack 0x18000000 [(s.toNat, 20), (t.toNat, 15), (i.toNat, 0)]]
  | .bge s t i => [pack 0x1A000000 [(s.toNat, 20), (t.toNat, 15), (i.toNat, 0)]]
  | .bltu s t i => [pack 0x1C000000 [(s.toNat, 20), (t.toNat, 15), (i.toNat, 0)]]
  | .bgeu s t i => [pack 0x1E000000 [(s.toNat, 20), (t.toNat, 15), (i.toNat, 0)]]
  | .jal d i => [pack 0x20000000 [(d.toNat, 20), (i.toNat, 0)]]
  | .jalr d s i => encodeImm (pack 0x22000000 [(d.toNat, 20), (s.toNat, 15), (i.base.toNat, 0)]) i.ext
  | .ld g s w i => encodeImm (pack 0x24000000 [(g.toNat, 20), (s.toNat, 15), (w.toNat, 13), (i.base.toNat, 0)]) i.ext
  | .lds g s w i => encodeImm (pack 0x24001000 [(g.toNat, 20), (s.toNat, 15), (w.toNat, 13), (i.base.toNat, 0)]) i.ext
  | .st g s w i => encodeImm (pack 0x26000000 [(g.toNat, 20), (s.toNat, 15), (w.toNat, 13), (i.base.toNat, 0)]) i.ext
  | .amoAdd d s t r x => [pack 0x28000000 [(d.toNat, 20), (s.toNat, 15), (t.toNat, 10), (r.toNat, 4), (ofBool x, 3)]]
  | .amoAnd d s t r x => [pack 0x28000040 [(d.toNat, 20), (s.toNat, 15), (t.toNat, 10), (r.toNat, 4), (ofBool x, 3)]]
  | .amoOr d s t r x => [pack 0x28000080 [(d.toNat, 20), (s.toNat, 15), (t.toNat, 10), (r.toNat, 4), (ofBool x, 3)]]
  | .amoXor d s t r x => [pack 0x280000C0 [(d.toNat, 20), (s.toNat, 15), (t.toNat, 10), (r.toNat, 4), (ofBool x, 3)]]
  | .amoMin d s t r x => [pack 0x28000100 [(d.toNat, 20), (s.toNat, 15), (t.toNat, 10), (r.toNat, 4), (ofBool x, 3)]]
  | .amoMax d s t r x => [pack 0x28000140 [(d.toNat, 20), (s.toNat, 15), (t.toNat, 10), (r.toNat, 4), (ofBool x, 3)]]
  | .amoMinu d s t r x => [pack 0x28000180 [(d.toNat, 20), (s.toNat, 15), (t.toNat, 10), (r.toNat, 4), (ofBool x, 3)]]
  | .amoMaxu d s t r x => [pack 0x280001C0 [(d.toNat, 20), (s.toNat, 15), (t.toNat, 10), (r.toNat, 4), (ofBool x, 3)]]
  | .amoSwap d s t r x => [pack 0x28000200 [(d.toNat, 20), (s.toNat, 15), (t.toNat, 10), (r.toNat, 4), (ofBool x, 3)]]
  | .amoCas d s t r x => [pack 0x28000240 [(d.toNat, 20), (s.toNat, 15), (t.toNat, 10), (r.toNat, 4), (ofBool x, 3)]]
  | .fence s => [pack 0x2A000000 [(s.toNat, 19)]]
  | .xfence s f t => [pack 0x2A400000 [(s.toNat, 19), (f.toNat, 13), (t.toNat, 7)]]
  | .drain s => [pack 0x2A800000 [(s.toNat, 19)]]
  | .srd g n => [pack 0x2C000000 [(g.toNat, 20), (n.toNat, 6)]]
  | .swr g n => [pack 0x2C040000 [(g.toNat, 20), (n.toNat, 6)]]
  | .sset g n => [pack 0x2C080000 [(g.toNat, 20), (n.toNat, 6)]]
  | .sclr g n => [pack 0x2C0C0000 [(g.toNat, 20), (n.toNat, 6)]]
  | .trap i => [pack 0x2E000000 [(i.toNat, 0)]]
  | .yield => [0x2E400000]
  | .fset f => [pack 0x30000000 [(f.toNat, 19)]]
  | .fclr f => [pack 0x30800000 [(f.toNat, 19)]]
  | .fwait f => [pack 0x31000000 [(f.toNat, 19)]]
  | .cpy a b c => [pack 0x40000000 [(a.toNat, 20), (b.toNat, 15), (c.toNat, 10)]]
  | .cpys a b c => [pack 0x40000001 [(a.toNat, 20), (b.toNat, 15), (c.toNat, 10)]]
  | .cpyx a b c => [pack 0x40000002 [(a.toNat, 20), (b.toNat, 15), (c.toNat, 10)]]
  | .laneLoad a b c => [pack 0x40000003 [(a.toNat, 20), (b.toNat, 15), (c.toNat, 10)]]
  | .cimFill a b c => [pack 0x40000004 [(a.toNat, 20), (b.toNat, 15), (c.toNat, 10)]]
  | .atomAdd a b c s r x => [pack 0x42000000 [(a.toNat, 20), (b.toNat, 15), (c.toNat, 10), (s.toNat, 3), (r.toNat, 1), (ofBool x, 0)]]
  | .atomAnd a b c s r x => [pack 0x42000040 [(a.toNat, 20), (b.toNat, 15), (c.toNat, 10), (s.toNat, 3), (r.toNat, 1), (ofBool x, 0)]]
  | .atomOr a b c s r x => [pack 0x42000080 [(a.toNat, 20), (b.toNat, 15), (c.toNat, 10), (s.toNat, 3), (r.toNat, 1), (ofBool x, 0)]]
  | .atomXor a b c s r x => [pack 0x420000C0 [(a.toNat, 20), (b.toNat, 15), (c.toNat, 10), (s.toNat, 3), (r.toNat, 1), (ofBool x, 0)]]
  | .atomMin a b c s r x => [pack 0x42000100 [(a.toNat, 20), (b.toNat, 15), (c.toNat, 10), (s.toNat, 3), (r.toNat, 1), (ofBool x, 0)]]
  | .atomMax a b c s r x => [pack 0x42000140 [(a.toNat, 20), (b.toNat, 15), (c.toNat, 10), (s.toNat, 3), (r.toNat, 1), (ofBool x, 0)]]
  | .atomMinu a b c s r x => [pack 0x42000180 [(a.toNat, 20), (b.toNat, 15), (c.toNat, 10), (s.toNat, 3), (r.toNat, 1), (ofBool x, 0)]]
  | .atomMaxu a b c s r x => [pack 0x420001C0 [(a.toNat, 20), (b.toNat, 15), (c.toNat, 10), (s.toNat, 3), (r.toNat, 1), (ofBool x, 0)]]
  | .atomSwap a b c s r x => [pack 0x42000200 [(a.toNat, 20), (b.toNat, 15), (c.toNat, 10), (s.toNat, 3), (r.toNat, 1), (ofBool x, 0)]]
  | .atomCas a b c s r x => [pack 0x42000240 [(a.toNat, 20), (b.toNat, 15), (c.toNat, 10), (s.toNat, 3), (r.toNat, 1), (ofBool x, 0)]]
  | .atomFadd a b c s r => [pack 0x42000280 [(a.toNat, 20), (b.toNat, 15), (c.toNat, 10), (s.toNat, 3), (r.toNat, 1)]]
  | .atomCread a b c s r => [pack 0x420002C0 [(a.toNat, 20), (b.toNat, 15), (c.toNat, 10), (s.toNat, 3), (r.toNat, 1)]]
  | .loop a b c => [pack 0x44000000 [(a.toNat, 20), (b.toNat, 15), (c.toNat, 10)]]
  | .ppush a => [pack 0x46000000 [(a.toNat, 20)]]
  | .cimModeScratch b => [pack 0x48000000 [(b.toNat, 20)]]
  | .cimModeCompute b k => [pack 0x48080000 [(b.toNat, 20), (k.toNat, 14)]]
  | .qcwSet q a b => [pack 0x4A000000 [(q.toNat, 22), (a.toNat, 17), (b.toNat, 12)]]
  | .qcwGet q a b => [pack 0x4A000100 [(q.toNat, 22), (a.toNat, 17), (b.toNat, 12)]]
  | .aqRemap q a b => [pack 0x4A000200 [(q.toNat, 22), (a.toNat, 17), (b.toNat, 12)]]
  | .setv v a => [pack 0x4C000000 [(v.toNat, 22), (a.toNat, 17)]]
  | .setj a => [pack 0x4C010000 [(a.toNat, 17)]]
  | .syncArm a b c => [pack 0x4E000000 [(a.toNat, 20), (b.toNat, 15), (c.toNat, 10)]]
  | .syncWait a b => [pack 0x4E000001 [(a.toNat, 20), (b.toNat, 15)]]
  | .syncAdd a b => [pack 0x4E000002 [(a.toNat, 20), (b.toNat, 15)]]
  | .barInit b a => [pack 0x50000000 [(b.toNat, 17), (a.toNat, 12)]]
  | .barArrive b => [pack 0x50800000 [(b.toNat, 17)]]
  | .barWait b => [pack 0x51000000 [(b.toNat, 17)]]
  | .spawn a b c => [pack 0x52000000 [(a.toNat, 20), (b.toNat, 15), (c.toNat, 10)]]
  | .join a => [pack 0x52000001 [(a.toNat, 20)]]
  | .done => [0x52000002]
  | .cancel a => [pack 0x52000003 [(a.toNat, 20)]]
  | .rope a => [pack 0x54000000 [(a.toNat, 20)]]
  | .unrope => [0x54000001]
  | .rejoin => [0x54000002]
  | .rtreeSum a b c => [pack 0x56000000 [(a.toNat, 20), (b.toNat, 15), (c.toNat, 10)]]
  | .rtreeMax a b c => [pack 0x56000100 [(a.toNat, 20), (b.toNat, 15), (c.toNat, 10)]]
  | .rtreeMaxsum a b c => [pack 0x56000200 [(a.toNat, 20), (b.toNat, 15), (c.toNat, 10)]]
  | i => encodeVector i

/-- The chain bit of a vector word (R104). -/
def chainOf (w : Nat) : Bool := fld w 31 31 == 1

end Sys2Proof
end

