-- ==== Sys2Proof/Config.lean ====
section
/-! DEFINITION. What the manual leaves open (log 4): free values, opaque constants that nothing can evaluate. A free
value is applied to the counter State.seq (or to the operands it depends on), so that each use may differ. -/

namespace Sys2Proof

/-- A byte whose value the manual leaves undefined: counter, then position (R154, R254). -/
opaque Config.freeByte : Nat → Nat → Byte

/-- A 64-bit value the manual leaves open (log 4): counter, then which. -/
opaque Config.freeWord : Nat → Nat → Word64

/-- A number the manual leaves open (log 4): counter, then which. -/
opaque Config.freeNat : Nat → Nat → Nat

/-- -mn / s of R64 where the scale s rounds to zero, by the largest and smallest value's bits: the manual states no
value there (log 9). -/
opaque Config.zeroScale : Nat → Nat → Int

/-- The silicon stepping of dev.id, which differs from part to part (R359). -/
opaque Config.stepping : Byte

/-- The SHA-384 hash of the firmware signing key fused in base camp (R363). -/
opaque Config.fusedKeyHash : List Byte

/-- The security engine's ECDSA signature with the private identity key over a byte string (R365). -/
opaque Config.identitySign : List Byte → List Byte

/-- The identity's certificate chain held in the firmware region (R365). -/
opaque Config.certificates : List Byte

/-- The boot ROM's digest, measurement block 1 (R365). -/
opaque Config.bootRomDigest : List Byte

/-- Where the finaliser places the native code of a container, by the digest of its bytes and the firmware's version
(R255): the base of its control code. The manual gives no address. -/
opaque Config.zpfBase : List Byte → Word64 → Word64

/-- The native start address of a body of a container (R251, R255). -/
opaque Config.zpfBody : List Byte → Word64 → Nat → Word64

/-- The native length in packets of a body of a container, 1-4,096 (R251, R255). -/
opaque Config.zpfBodyLen : List Byte → Word64 → Nat → Nat

/-- The credits of a channel that a peer port has when its link comes up, less one (R302): the manual gives no number. -/
opaque Config.peerCredits : Nat

/-- The host's Outstanding Page Request Allocation (R295): the host sets it. -/
opaque Config.pageRequestAllocation : Nat

end Sys2Proof
end

