-- ==== Sys2Proof/Machine/State.lean ====
section
/-! DEFINITION. The state of the card: its 256 cores, base camp, and the storage they reach, as plain data; why a step
stops; and the state after a cold reset. -/

namespace Sys2Proof.Machine

/-! ## Tables -/

/-- A sparse table: number and entry, in rising order of the number. -/
abbrev Tab (α : Type) := List (Nat × α)

/-- A memory: address and byte, addresses strictly rising, no entry equal to what an unlisted address reads as (0: log 5). -/
abbrev Mem := List Host.Cell

/-! ## The vector sequencer -/

/-- The state of a fibre walk: a stream register z0-z7 (R222). Positions and coordinates are 32-bit; null is 2^32 - 1. -/
structure Stream where
  isOpen : Bool
  done : Bool
  m : Bool
  w : Bool
  kind : BitVec 2
  lvl : BitVec 3
  src : Bool
  qw : BitVec 3
  desc : BitVec 20
  abase : BitVec 20
  crd : BitVec 32
  pos : BitVec 32
  endPos : BitVec 32
  size : BitVec 32
  mcrd : BitVec 32
  mpos : BitVec 32
  org : BitVec 32
deriving DecidableEq, Repr

/-- A closed stream has every field 0 (R222). -/
def Stream.closed : Stream := ⟨false, false, false, false, 0, 0, false, 0, 0, 0, 0, 0, 0, 0, 0, 0, 0⟩

/-- The fields of a bank status word (R36). -/
structure Bank where
  busy : Bool
  compute : Bool
  fill : BitVec 2
  active : Bool
  ternary : Bool
  signed : Bool
  wbits : BitVec 3
  count : BitVec 13
deriving DecidableEq, Repr

/-- SCRATCH mode, EMPTY, count 0, H0 active, not busy (R21, R36). -/
def Bank.reset : Bank := ⟨false, false, 0, false, false, false, 0, 0⟩

/-- A queue control word: its two 64-bit words (R42). -/
structure Qcw where
  w0 : Word64
  w1 : Word64
deriving DecidableEq, Repr

/-- What AQ.REMAP set for a data queue (R168): the remap word and the base endpoint. -/
structure Remap where
  word : Word64
  base : Word64
deriving DecidableEq, Repr

/-- A loop command (R27, R163) with its snapshot (R29). -/
structure LoopCmd where
  /-- Body start address. -/
  start : Word64
  /-- Body length in packets, 1-4,096. -/
  len : Nat
  counts : Vector Nat 6
  strides : Vector (BitVec 32) 6
  views : Vector Word64 8
  order : BitVec 3
  /-- Its command index (R149). -/
  cmd : BitVec 32
  /-- The ctx.pkey value at its issue (R325). -/
  pkey : Word64
  /-- The iteration to begin at: 0 but for a resumed command (R352). -/
  first : Nat
  /-- The model's own: its place in the order of issue over the cores (R38, R90). -/
  stamp : Nat
deriving DecidableEq, Repr

/-- An entry of the command queue (R24). -/
inductive Cmd where
  | loop (c : LoopCmd)
  /-- CIM.MODE: bank, COMPUTE, kind, command index (R165), and its place in the order of issue over the cores (R38). -/
  | mode (bank : BitVec 5) (compute : Bool) (kind : BitVec 5) (cmd : BitVec 32) (stamp : Nat)
deriving DecidableEq, Repr

/-- The loop command in progress: the iteration and the offset in words of the next group within the body. -/
structure LoopRun where
  c : LoopCmd
  iter : Nat
  off : Nat
  /-- The loop buffer: the words of a body of at most 64 packets (R28). -/
  buf : Option (List Word32)
  /-- A finalised body (R251): the offset of its portable code in section 2, which `buf` then holds. -/
  zpf : Option Nat
deriving DecidableEq, Repr

/-- Which group a result in flight comes from, for a trap record (R57, R341). -/
structure Origin where
  grp : Word64
  cmd : BitVec 32
  iter : Nat
  c : LoopCmd
  /-- The slot, coded as eng of R339. -/
  slot : BitVec 4
  /-- Its address is a portable offset (R254, R339). -/
  zpf : Bool
deriving DecidableEq, Repr

/-- What a result in flight writes (R247, R353). -/
inductive LandVal where
  /-- Register-space bytes from an offset. -/
  | bytes (off : Nat) (v : List Byte)
  /-- Exact sums into an accumulator: name, register-space offset, W / 8, overwrite instead of add, sums plane-major. -/
  | sums (acc : BitVec 4) (off wq : Nat) (ovw : Bool) (v : List Int)
  | index (r : BitVec 4) (v : BitVec 32)
  | stream (r : BitVec 3) (v : Stream)
  /-- QPAR's record. -/
  | scratch (addr : Nat) (v : List Byte)
deriving DecidableEq, Repr

/-- What lat carries in a result's landing cycle (R34, R177). -/
inductive LatClass where
  | no | fp32 | int32
deriving DecidableEq, Repr

/-- A result in flight: issue cycles to its landing, what it writes, its eligibility for lat, the flags it sets,
the group it came from (none after a restore, whose image does not hold it), and for a pass its
first bank and the number of its banks (R38, R57). -/
structure Landing where
  d : Nat
  v : LandVal
  lat : LatClass
  flags : Word64
  src : Option Origin
  pass : Option (Nat × Nat)
deriving DecidableEq, Repr

/-- An entry of the address queue (R229, R325). -/
structure AqEntry where
  index : BitVec 32
  qw : BitVec 3
  grp : Word64
  pkey : Word64
  /-- The model's own: where the loop command that pushed it stands in the order of issue (R90). -/
  stamp : Nat
  /-- The engine has begun to serve it: its translation has been asked for (R338, R347). -/
  begun : Bool
deriving DecidableEq, Repr

/-- The remaining issue cycles for which each slot is held (R243). -/
structure Occ where
  i : Nat
  a : Nat
  b : Nat
  m : Nat
  x : Nat
deriving DecidableEq, Repr

/-- A CIM.MODE that is zeroing its bank (R37): what it sets, and the arithmetic clock cycles left. -/
structure Zeroing where
  bank : BitVec 5
  compute : Bool
  kind : BitVec 5
  cycles : Nat
  stamp : Nat
deriving DecidableEq, Repr

/-! ## Translation -/

/-- A page-table leaf as a TLB entry holds it (R321, R329): the level-0 page, and where its bytes lie. -/
inductive Leaf where
  /-- LPDDR-6 frame number. -/
  | device (frame : Nat)
  | peer (port : Bool)
  /-- Host page: translated address (none: untranslated requests with PASID, R293). -/
  | host (hpa : Option Nat)
deriving DecidableEq, Repr

/-- A translation of 4 KiB pages with the leaf's permissions and key. -/
structure Trans where
  ctx : CtxId
  /-- Virtual page number of the first, and the number of pages: an ATS entry is held at the size granted (R293). -/
  vpn : Nat
  pages : Nat
  leaf : Leaf
  r : Bool
  w : Bool
  key : BitVec 5
  /-- Host leaf: what ATS granted. -/
  hr : Bool
  hw : Bool
deriving DecidableEq, Repr

/-! ## The copy engine -/

/-- A dimension of a CPYS descriptor (R155). -/
structure Dim where
  sstride : Int
  dstride : Int
  count : Nat
deriving DecidableEq, Repr

/-- What a command of the copy engine is to do, beyond its two ends (R154-R162). -/
inductive CopyOp where
  | cpy (len : Nat)
  | cpys (esz : Nat) (dims : List Dim)
  | cpyx (slen rho tag lane cap : Nat)
  | laneLoad (lane tag len : Nat)
  | cimFill (len : Nat)
  /-- Operation code, width, scope, order, operand, comparand, result address. -/
  | atom (aop n scope ord : Nat) (v cmp : Nat) (res : Option Nat)
deriving DecidableEq, Repr

/-- Where a command of the copy engine stands. -/
inductive CopyPhase where
  /-- Issued, not started. -/
  | issued
  /-- Its bytes are moving. -/
  | moving
  /-- In its lane's order (R158). -/
  | inLane
  /-- All moved; the zero-length host read that ends it is awaited (R292). -/
  | flushing (req : Nat)
  /-- Every access has performed and every byte has arrived. -/
  | finished
deriving DecidableEq, Repr

/-- A piece of a command that has been sent to the host or a peer and awaits its answer: the request's number, the
piece's byte offset and length. -/
structure Sent where
  req : Nat
  off : Nat
  len : Nat
  write : Bool
deriving DecidableEq, Repr

/-- A copy tag: the fields of R342 and R343, and the command's progress. -/
structure Tag where
  pc : Word64
  op : BitVec 4
  cmd : BitVec 32
  dest : Word64
  src : Word64
  t : Bool
  target : BitVec 20
  /-- The faulting address (R342). -/
  va : Option Word64
  status : Word64
  pkey : Word64
  what : CopyOp
  phase : CopyPhase
  /-- Pieces not moved yet: offset and length. -/
  todo : List (Nat × Nat)
  sent : List Sent
  /-- Pieces read from the host or a peer, or decoded by a lane, and not written yet: offset and bytes. -/
  got : List (Nat × List Byte)
  /-- Source bytes read ahead with the aligned unit they lie in (R79): offset and byte. -/
  held : List (Nat × Byte)
  /-- Bytes moved. -/
  moved : Nat
  /-- Bytes written to host memory that have not arrived yet (R292). -/
  owed : Nat
  /-- Translations of its source and of its destination, held to its end (R293); a transform's are pins (R157). -/
  trans : List Trans
  /-- CPYX: the source offset of the next block, its output offset and its index (R158). -/
  blkSrc : Nat
  blkOut : Nat
  blkIdx : Nat
  /-- CPYX: the output length of the block whose commit is under way. -/
  blkLen : Option Nat
  /-- CPYX: the source offset of the header of the block at hand (R342). -/
  blkHead : Nat
  /-- The notice of its block faults has been handed to base camp, which writes it before the tag frees (R344). -/
  noticed : Bool
  /-- The model's own: its place in the order of issue over the cores (R38, R90, R156, R158). -/
  order : Nat
deriving DecidableEq, Repr

/-- An element of a gather or scatter that awaits a host or peer answer (R230). -/
structure ElemWait where
  entry : AqEntry
  write : Bool
  sent : List Sent
  /-- A gather's pieces that have been read. -/
  got : List (Nat × List Byte)
deriving DecidableEq, Repr

/-! ## Tasks, barriers, ropes -/

/-- A barrier of a core (R43, R352). -/
structure Barrier where
  init : Bool
  mask : Word64
  count : Nat
  gen : BitVec 16
  arrived : Bool
  /-- The generation at this core's last arrival. -/
  genAt : BitVec 16
  /-- An arrival since BAR.INIT (R170). -/
  since : Bool
  /-- Members whose arrival is counted in this generation. -/
  who : Word64
deriving DecidableEq, Repr

def Barrier.reset : Barrier := ⟨false, 0, 0, 0, false, 0, false, 0⟩

/-- An arrival at a barrier, under way or held (R43): barrier, sending context and core. -/
structure Arrival where
  bar : BitVec 6
  mask : Word64
  ctx : CtxId
  src : CoreId
  dst : CoreId
deriving DecidableEq, Repr

/-- A formed rope (R44): its member mask over the die, and the members that have executed REJOIN. -/
structure Rope where
  mask : Word64
  rejoined : Bool
deriving DecidableEq, Repr

/-- A resource a group waits on (R237, R340). -/
inductive Wanted where
  | dataQ (q : BitVec 3) | addrQ | refill (q : BitVec 3) | bank (b : BitVec 5) | paramQ
deriving DecidableEq, Repr

/-- A trap record (R339), but for the fields base camp adds from the task. -/
structure TrapRec where
  cause : BitVec 8
  src : BitVec 3
  eng : BitVec 4
  zpf : Bool
  cmd : BitVec 32
  pc : Word64
  grp : Word64
  j : List Nat
  ofs : BitVec 32
  status : Word64
  d0 : Word64
  d1 : Word64
  tag : List Word64
deriving DecidableEq, Repr

/-- A fault of the decode or of an operand check of a group, before it becomes a record: cause, eng, d0, d1. -/
structure Trap where
  cause : Nat
  eng : Nat
  d0 : Nat
  d1 : Nat
deriving DecidableEq, Repr

/-- What the CP waits for; the instruction is executed again after a pre-emption (R127, R150). -/
inductive CpWait where
  | no
  /-- A fence: the path mask it waits for, whether it is a DRAIN, and its scope. -/
  | fence (mask : BitVec 6) (drain : Bool) (scope : BitVec 3)
  | flag (f : BitVec 4)
  | quiet (q : BitVec 3) (a b : BitVec 5)
  | sync (a b : BitVec 5)
  | bar (b : BitVec 6)
  | spawn (r : Nat)
  | join (a : BitVec 5)
  | done
  | rope (mask : Word64)
  | unrope
  | rejoin
  | rtree (tid : BitVec 16) (res : Nat) (len : Nat)
  /-- A YIELD that has to be pre-empted waits for the other members of its rope (R147, R350). -/
  | yield
  /-- A command that found its queue full or no tag free, or a load or store on a busy bank: executed again. -/
  | again (i : Instr)
deriving DecidableEq, Repr

/-- Whether a core runs a task, and how a task on it is ending (R337, R347, R317). -/
inductive RunState where
  | idle
  | running
  /-- A task that is ending faulted, with its record (R338). -/
  | stopping (r : TrapRec)
  /-- Its record has been handed to base camp, which writes it before the core is released (R338). -/
  | recorded
  /-- Pre-empted: streams stopped or stopping, copies draining (R347). -/
  | preempting
  /-- Cancelled: stopping with nothing saved and nothing recorded (R317). -/
  | cancelling
  /-- DONE has performed or the core is being released. -/
  | dead
deriving DecidableEq, Repr

/-- The task of a core (R21, R142, R312). -/
structure Task where
  ctx : CtxId
  launch : BitVec 32
  tile : BitVec 48
  prio : BitVec 5
  /-- The parent joins this task, at that join slot. -/
  joined : Bool
  parent : BitVec 16
  /-- This task's own join slot. -/
  slot : BitVec 16
deriving DecidableEq, Repr

def Task.reset : Task := ⟨0, 0, 0, 0, false, 0, 0⟩

/-- A core (R13, R21, R348). -/
structure Core where
  run : RunState
  task : Task
  /-- g1-g31 (g0's place stays 0, R126). -/
  g : Vector Word64 32
  pc : Word64
  /-- The instruction that produced pc (R134). -/
  pcFrom : Word64
  wait : CpWait
  cmdIdx : BitVec 32
  jetOrder : BitVec 3
  fpFlags : Word64
  fpTrapen : Word64
  paramOvf : Word64
  ctxPkey : Word64
  views : Vector Word64 8
  idx : Vector (BitVec 32) 16
  streams : Vector Stream 8
  flags : BitVec 16
  accOvf : Vector Word64 16
  banks : Vector Bank 32
  /-- Plain scratch and bank windows by core-local address (R75): half H0 of a bank, then H1. -/
  scratch : Mem
  /-- Register space (R30). -/
  regs : Mem
  qcw : Vector Qcw 8
  remap : Vector (Option Remap) 8
  cmdq : List Cmd
  loopRun : Option LoopRun
  zeroing : Option Zeroing
  paramq : List Word64
  aq : List AqEntry
  elems : List ElemWait
  landing : List Landing
  occ : Occ
  /-- The clock cycles for which the group held back has been stalled (R237). -/
  stall : Nat
  /-- Host-memory writes of scatters that no zero-length read covers yet, and the page of the newest: its translation and
  its address (R292). -/
  hostWrites : Nat
  hostPage : Option Nat × Nat
  /-- The gather and scatter faults found, oldest first, awaiting the next group boundary (R231): the trap, the faulting
  address, the status. -/
  gatherFaults : List (Trap × Word64 × Word64)
  tags : Tab (Option Tag)
  bars : Tab Barrier
  held : List Arrival
  rope : Option Rope
  tlb : List Trans
  dirty : BitVec 672
  prevCtx : Option CtxId
  ivl : BitVec 32
  /-- Scopes of the last 16 releases, newest first, kept at base camp (R98). -/
  relScopes : List (BitVec 3)
  missCp : Bool
  missVs : Bool
  /-- The task's running time and its stop's age in microseconds (R357). -/
  us : Nat
  stopUs : Nat
  /-- wd.task.limit as it stood when the task started (R345). -/
  wdLimit : BitVec 32
  /-- A pre-emption request awaits a pre-emption point (R315). -/
  preemptReq : Bool
deriving DecidableEq, Repr

/-- A core at reset (R21; log 3 for what the manual leaves open before the first task). -/
def Core.reset : Core where
  run := .idle
  task := Task.reset
  g := Vector.replicate 32 0
  pc := 0
  pcFrom := 0
  wait := .no
  cmdIdx := 0
  jetOrder := 0
  fpFlags := 0
  fpTrapen := 0
  paramOvf := 0
  ctxPkey := 0
  views := Vector.replicate 8 0
  idx := Vector.replicate 16 0
  streams := Vector.replicate 8 Stream.closed
  flags := 0
  accOvf := Vector.replicate 16 0
  banks := Vector.replicate 32 Bank.reset
  scratch := []
  regs := []
  qcw := Vector.replicate 8 ⟨0, 0⟩
  remap := Vector.replicate 8 none
  cmdq := []
  loopRun := none
  zeroing := none
  paramq := []
  aq := []
  elems := []
  landing := []
  occ := ⟨0, 0, 0, 0, 0⟩
  stall := 0
  hostWrites := 0
  hostPage := (none, 0)
  gatherFaults := []
  tags := []
  bars := []
  held := []
  rope := none
  tlb := []
  dirty := 0
  prevCtx := none
  ivl := 0
  relScopes := []
  missCp := false
  missVs := false
  us := 0
  stopUs := 0
  wdLimit := 0
  preemptReq := false

/-! ## Base camp: contexts, launches, queues -/

/-- The per-context registers of base camp (R286, R287, R345, R326, R315) and the race detector's (R98, R99). -/
structure Ctx where
  cfg : Word64
  sqBase : Word64
  sqCfg : Word64
  sqTail : BitVec 32
  sqHead : BitVec 32
  sqStop : Bool
  sqCode : BitVec 8
  fltBase : Word64
  fltCfg : Word64
  fltHead : BitVec 32
  fltTail : BitVec 32
  fltLost : BitVec 32
  dead : Bool
  drain : Bool
  why : BitVec 8
  wdTask : BitVec 32
  vmRoot : Word64
  vmPkey : Word64
  pcap : BitVec 5
  raceBase : Vector Word64 4
  raceCtl : Vector Word64 4
  raceLog : Word64
  /-- Released launches, modulo 2^26 (R310). -/
  released : BitVec 26
deriving DecidableEq, Repr

def Ctx.reset : Ctx where
  cfg := 0
  sqBase := 0
  sqCfg := 0
  sqTail := 0
  sqHead := 0
  sqStop := false
  sqCode := 0
  fltBase := 0
  fltCfg := 0
  fltHead := 0
  fltTail := 0
  fltLost := 0
  dead := false
  drain := false
  why := 0
  wdTask := 0
  vmRoot := 0
  vmPkey := 0
  pcap := 0
  raceBase := Vector.replicate 4 0
  raceCtl := Vector.replicate 4 0
  raceLog := 0
  released := 0

/-- The state of a cairn (R303). -/
inductive CairnState where
  | free | opened | closed | complete | cancelled
deriving DecidableEq, Repr

/-- A cairn (R303, R305), with whether a cancel has been made for it and which records have been read. -/
structure Cairn where
  irq : Bool
  level : BitVec 2
  ctx : CtxId
  state : CairnState
  flt : Bool
  cnl : Bool
  cause : BitVec 8
  exp : BitVec 48
  done : BitVec 48
  cancel : Bool
  closing : Bool
  /-- A record that names it has been read since it was armed (R304). -/
  named : Bool
deriving DecidableEq, Repr

def Cairn.reset : Cairn := ⟨false, 0, 0, .free, false, false, 0, 0, 0, false, false, false⟩

/-- A lease entry (R309). -/
structure Lease where
  rd : Bool
  wr : Bool
  host : Bool
  base : Nat
  len : Nat
deriving DecidableEq, Repr

/-- How far a launch has come (R310). -/
inductive LaunchPhase where
  /-- Its join counter is not 0 yet. -/
  | waiting
  /-- Released; its leases are being made resident: the lease entry at hand, the pages of it that are done, and whether
  its ZPF container is finalised. -/
  | residency (entry page : Nat) (finalised : Bool)
  /-- Expanded (R310); the tiles whose records have been appended. -/
  | expanding (next : Nat)
  | expanded | skipped | failed | cancelled
deriving DecidableEq, Repr

/-- A finalised container (R250-R255): its bytes, the base of its control code, and its patched control code. -/
structure Zpf where
  image : List Byte
  version : Word64
  ctl : List Byte
deriving DecidableEq, Repr

/-- A launch that base camp has read (R307). -/
structure Launch where
  ctx : CtxId
  cbase : Nat
  clen : Nat
  vbase : Nat
  vlen : Nat
  entry : Nat
  frame : Word64
  extent : BitVec 48
  cond : Bool
  cg : Bool
  cp : Bool
  cj : Bool
  sp : Bool
  isZpf : Bool
  prio : BitVec 5
  node : Nat
  deps : List Nat
  lc : BitVec 12
  gc : BitVec 12
  pc : BitVec 12
  jc : BitVec 12
  pred : Nat
  leases : List Lease
  join : Nat
  phase : LaunchPhase
  /-- The launch identifier, its count taken as the launch is released (R310). -/
  lid : BitVec 32
  die : Nat
  /-- Pages its PINNED leases hold pinned. -/
  pins : List Nat
  zpf : Option Zpf
  /-- Released while a phase of its job was being migrated (R318). -/
  held : Bool
  /-- It has been expanded: its identifier stands (R310). -/
  started : Bool
  /-- Its launch cairn is complete (true: with flt = 0 and cnl = 0) or cancelled. -/
  ended : Option Bool
  /-- The graph, phase and job cairns of it that have been armed again since its record was read (R304): they count it no more. -/
  past : List (BitVec 12)
deriving DecidableEq, Repr

/-- A continuation record (R312). -/
structure ContRec where
  prio : BitVec 5
  j : Bool
  rs : Bool
  code : Word64
  frame : Word64
  tile : BitVec 48
  launch : BitVec 32
  parent : BitVec 16
  ctx : CtxId
  /-- Saved with a resumption record: the task's own join slot, its running time and its watchdog's limit. -/
  slot : BitVec 16
  us : Nat
  limit : BitVec 32
deriving DecidableEq, Repr

/-- One of the 128 queues (R313): its records, its effective level and its aging count. -/
structure Queue where
  recs : List ContRec
  eff : Nat
  age : Nat
deriving DecidableEq, Repr

/-- A join slot: a task's join count and the joined children that faulted or were cancelled (R175). -/
structure JoinSlot where
  count : BitVec 16
  failed : BitVec 16
deriving DecidableEq, Repr

/-- A SPAWN handed to base camp and not accepted yet. -/
structure SpawnReq where
  id : Nat
  r : ContRec
deriving DecidableEq, Repr

/-- A save image in firmware memory (R351). -/
structure Image where
  addr : Word64
  die : Nat
  ctx : CtxId
  bytes : List Byte
  /-- The model's own: the remaps in force, by which the saved address-queue entries are served (log 14). -/
  remap : Vector (Option Remap) 8
  /-- The model's own: the barriers with what R352 does not hold of them (log 14). -/
  bars : Tab Barrier
  /-- The model's own: the command indices and ctx.pkey values of the command entries (log 14). -/
  cmds : List (BitVec 32 × Word64)
  /-- The model's own: of the landing entries, whether a sum overwrites, what lat carries, and a pass's banks (log 14). -/
  land : List (Bool × LatClass × Option (Nat × Nat))
  /-- The model's own: the instruction that produced the PC (R134; log 14). -/
  pcFrom : Word64
  /-- The model's own: the scattered writes to host memory that no zero-length read covers yet, the newest one's page
  (R292; log 14). -/
  hostWrites : Nat
  hostPage : Option Nat × Nat
deriving DecidableEq, Repr

/-- An interior or leaf value of a reduction tree (R172, R173): a leaf is a member's contribution. -/
structure RNode where
  kids : List Nat
  leaf : Option CoreId
  atBase : Bool
  value : Option (List Byte)
  flags : BitVec 5
deriving DecidableEq, Repr

/-- A reduction tree in progress (R172). -/
structure RTree where
  ctx : CtxId
  tid : BitVec 16
  op : BitVec 2
  desc : List Word64
  planes : Nat
  nodes : List RNode
  /-- Members that have received the result. -/
  taken : List CoreId
deriving DecidableEq, Repr

/-! ## Base camp: host port, peers, lanes, memory -/

/-- An aperture (R290). -/
structure Aperture where
  cfg : Word64
  win : Word64
  len : Word64
  va : Word64
deriving DecidableEq, Repr

/-- How a request for host memory names its bytes: by the address that ATS gave, or by a PASID and the untranslated address
(R286, R292, R293). -/
inductive HostAddr where
  | translated (hpa : Nat)
  | untranslated (pasid : BitVec 20) (va : Nat)
deriving DecidableEq, Repr

/-- A message the card sends: PCIe requests and completions, MSI-X, ATS and PRI, flits, SPDM answers. -/
inductive OutMsg where
  /-- An MSI-X message (R283, R296): its vector, and the address and data of the vector's table entry. -/
  | msix (vec addr data : Nat)
  /-- Completion of an inbound read: data, or Completer Abort, or Unsupported Request, or poisoned. -/
  | readDone (data : List Byte) (poisoned : Bool)
  | completerAbort
  | unsupportedRequest
  | hostRead (req : Nat) (addr : HostAddr) (len : Nat)
  | hostWrite (addr : HostAddr) (data : List Byte)
  | transRequest (req : Nat) (pasid : BitVec 20) (vpn : Nat) (r w : Bool)
  | pageRequest (idx : BitVec 9) (pasid : BitVec 20) (vpn : Nat) (r w : Bool)
  | invalidateDone (itag : BitVec 5)
  | flit (port : Bool) (f : PeerFlit)
  | firmwareRead (addr len : Nat)
  | spdm (code : Byte) (body : List Byte)
  | spdmError (code : Byte)
deriving DecidableEq, Repr

/-- Who waits for an answer from the host or a peer: a copy tag, a gather's queue, a launch's residency, a DRAIN, or a context's
fault ring; or nobody any more. -/
inductive Waiter where
  | tag (core : CoreId) (tag : BitVec 7)
  | elem (core : CoreId) (qw : BitVec 3)
  | launch (lc : BitVec 12)
  | drain (core : CoreId) (covers : Nat)
  | ring (ctx : CtxId)
  | nobody
deriving DecidableEq, Repr

/-- An outstanding read of host memory (R292). -/
structure HostRead where
  req : Nat
  ctx : CtxId
  who : Waiter
deriving DecidableEq, Repr

/-- An outstanding translation request (R293). -/
structure AtsReq where
  req : Nat
  ctx : CtxId
  vpn : Nat
  r : Bool
  w : Bool
  who : Waiter
  /-- The ranges of the Invalidate Requests that have arrived since: a completion that overlaps one is discarded (R294). -/
  since : List (Nat × Nat)
deriving DecidableEq, Repr

/-- A page request, outstanding or waiting to be sent (R295). -/
structure PageReq where
  idx : Option (BitVec 9)
  ctx : CtxId
  vpn : Nat
  r : Bool
  w : Bool
  who : Waiter
deriving DecidableEq, Repr

/-- A command that translated through an entry an invalidate removed (R294, R330): a copy by its tag and order, or a gather
or scatter element. -/
inductive TransUser where
  | tag (core : CoreId) (n : Nat) (order : Nat)
  | elem (core : CoreId) (e : AqEntry)
deriving DecidableEq, Repr

/-- An ATS invalidate in progress (R294). -/
structure AtsInv where
  itag : BitVec 5
  ctx : Option CtxId
  lo : Nat
  hi : Nat
  users : List TransUser
  /-- Pages whose translation was discarded for it: they are asked for again after step 3. -/
  late : List Nat
deriving DecidableEq, Repr

/-- A peer command of this card that awaits its response (R300). -/
structure PeerCmd where
  cseq : BitVec 32
  /-- Microseconds since it was sent. -/
  us : Nat
  req : Nat
  ctx : CtxId
  far : CtxId
  op : PeerOp
  who : Waiter
deriving DecidableEq, Repr

/-- A response kept for a far card's command (R300). -/
structure PeerKept where
  cseq : BitVec 32
  msg : PeerMsg
deriving DecidableEq, Repr

/-- A peer port (R297-R301). -/
structure Peer where
  up : Bool
  failed : Bool
  trains : BitVec 16
  bind : Tab Word64
  fseq : BitVec 12
  expect : BitVec 12
  nakSent : Bool
  replay : List PeerFlit
  resends : Nat
  cseq : BitVec 32
  waiting : List PeerCmd
  kept : List PeerKept
  sinceAck : Nat
  downUs : Nat
  /-- Credits to spend on requests and responses, and those to return for flits taken (R298, R302). -/
  reqCredits : Nat
  rspCredits : Nat
  owedReq : Nat
  owedRsp : Nat
  /-- Flit payloads that wait for credits or for room in the replay buffer, by channel (R299, R302). -/
  reqOut : List (List Byte)
  rspOut : List (List Byte)
  /-- The payloads taken of a message that is not complete yet, by channel. -/
  rxReq : List Byte
  rxRsp : List Byte
  /-- An acknowledgement to send: 1 ack, 2 nak (R298, R299). -/
  ackDue : BitVec 2
deriving DecidableEq, Repr

def Peer.reset : Peer where
  up := false
  failed := false
  trains := 0
  bind := []
  fseq := 0
  expect := 0
  nakSent := false
  replay := []
  resends := 0
  cseq := 0
  waiting := []
  kept := []
  sinceAck := 0
  downUs := 0
  reqCredits := 0
  rspCredits := 0
  owedReq := 0
  owedRsp := 0
  reqOut := []
  rspOut := []
  rxReq := []
  rxRsp := []
  ackDue := 0

/-- A lane's table (R160): its bytes, the context and the tag it was loaded for. -/
structure LaneTable where
  bytes : List Byte
  ctx : CtxId
  tag : Nat
deriving DecidableEq, Repr

/-- A transducer lane: its table, and the commands that have reached it in order, each a core and a tag (R158). -/
structure Lane where
  table : Option LaneTable
  order : List (CoreId × BitVec 7)
  /-- The command at the head has passed the lane's check (R160). -/
  served : Bool
deriving DecidableEq, Repr

def Lane.reset : Lane := ⟨none, [], false⟩

/-- A flash paging slot that is held: its page's bytes, who paged it out, its poisoned units, and whether the NAND has lost
it (R334, R335, R372, R373). -/
structure Slot where
  bad : Bool
  ctx : CtxId
  vpn : Nat
  bytes : Mem
  poison : List Nat
deriving DecidableEq, Repr

/-- A vm.cmd command in progress (R327): operation, context, and the translations an invalidate waits for. -/
structure VmRun where
  op : BitVec 2
  ctx : CtxId
  /-- The range an invalidate covers, in pages. -/
  lo : Nat
  hi : Nat
  /-- Who must finish before the invalidate ends. -/
  users : List TransUser
  /-- The page command has stopped with this st. -/
  st : Option (BitVec 3)
  /-- The frame a page-out holds until its invalidate ends. -/
  frame : Option Nat
  /-- A page-out that has copied the page at hand: the slot it has taken, the address of the leaf, and the value it read (R333). -/
  taken : Option (Nat × Nat × Nat)
deriving DecidableEq, Repr

/-- The translation unit's registers and lists (R326, R327). -/
structure Vm where
  op : BitVec 2
  ctx : CtxId
  st : BitVec 3
  base : Word64
  npg : BitVec 32
  busy : Option VmRun
  free : Tab (List Nat)
  ret : List Nat
  pwin : Word64
  tlb : List Trans
  /-- Frames a migration or a page-out holds back while the return list is full. -/
  heldFrames : List Nat
deriving DecidableEq, Repr

def Vm.reset : Vm := ⟨0, 0, 0, 0, 0, none, [], [], 0, [], []⟩

/-- A region being migrated (R318, R336): context, first page, pages moved, target die, the job cairns of the phase; and, once the
page at hand has been copied, the new frame, the address of the leaf, and the value read. -/
structure Migration where
  ctx : CtxId
  vpn : Nat
  next : Nat
  die : Nat
  jobs : List (BitVec 12)
  copied : Option (Nat × Nat × Nat)
deriving DecidableEq, Repr

/-- Bytes moved by a die to and from a 2 MiB region under a phase's leases (R318). -/
structure MigCount where
  pc : BitVec 12
  ctx : CtxId
  region : Nat
  die : Nat
  bytes : Nat
deriving DecidableEq, Repr

/-- An entry of the device error log (R375). -/
structure LogEntry where
  w0 : Word64
  w1 : Word64
  d0 : Word64
  d1 : Word64
deriving DecidableEq, Repr

/-- A step's entry in the boot record and its use at this start (R362). -/
structure BootStep where
  fl : Bool
  alt : Bool
  skip : Bool
  /-- It has failed at this start. -/
  bad : Bool
  fails : BitVec 8
  /-- It has ended at this start. -/
  ended : Bool
deriving DecidableEq, Repr

def BootStep.reset : BootStep := ⟨false, false, false, false, 0, false⟩

/-- Firmware, identity and recovery (R359-R364, R377). -/
structure Firmware where
  ready : BitVec 16
  memOk : BitVec 48
  state : BitVec 8
  why : BitVec 8
  svn : BitVec 32
  ver : Word64
  /-- The running image. -/
  image : List Byte
  minsvn : BitVec 32
  recBase : Word64
  recLen : BitVec 26
  recSt : BitVec 6
  recBusy : Bool
  updBase : Word64
  updLen : BitVec 26
  updSt : BitVec 5
  updBusy : Bool
  /-- Op 1's step 3 (R378): the image that is being written; the region has been erased. -/
  updWrite : Option (List Byte)
  /-- NAND firmware region: the image (none: unreadable or erased), the boot record, the kept fatal entries. -/
  nand : Option (List Byte)
  boot : Vector BootStep 16
  fatal : List LogEntry
deriving DecidableEq, Repr

def Firmware.reset : Firmware where
  ready := 0
  memOk := 0
  state := 0
  why := 0
  svn := 0
  ver := 0
  image := []
  minsvn := 0
  recBase := 0
  recLen := 0
  recSt := 0
  recBusy := false
  updBase := 0
  updLen := 0
  updSt := 0
  updBusy := false
  updWrite := none
  nand := none
  boot := Vector.replicate 16 BootStep.reset
  fatal := []

/-- Telemetry, power, sleep, scrubbing and the error log (R366-R376). -/
structure Fleet where
  slpState : BitVec 3
  slpCode : BitVec 5
  slpTo : BitVec 16
  slpWt : BitVec 32
  /-- Microseconds since entry began. -/
  slpUs : Nat
  /-- Microseconds since the last wake request, until the scheduler's first pop (R366). -/
  slpWakeUs : Nat
  /-- Step 2 of bivouac entry has ended (R367). -/
  slpDrained : Bool
  /-- The wake's time still runs: it is measured to the scheduler's first pop (R366). -/
  slpWaking : Bool
  clk : Vector (BitVec 16) 4
  thermal : Vector (BitVec 16) 4
  /-- The grant of the cap in the window at hand (R370, R371). -/
  capClk : Vector (BitVec 16) 4
  /-- A die's sensor has reached 100 degrees and has not fallen below 95 since (R371). -/
  hot : Vector Bool 4
  mw : BitVec 32
  bc : Byte
  temps : Vector Byte 4
  cnt : Vector Word64 8
  cap : BitVec 16
  scr : BitVec 16
  log : Vector LogEntry 256
  logHead : BitVec 32
  logTail : BitVec 32
  logSev : BitVec 2
  logLost : BitVec 32
  hlthWhy : BitVec 8
  /-- Corrected errors of the last hour: their times. -/
  corrected : List Nat
  /-- Time in microseconds since the cold reset (R375). -/
  us : Nat
  /-- When the power manager last evaluated: once a millisecond (R16, R371). -/
  evalUs : Nat
  /-- Evaluations since pwr.cap was last written (R371). -/
  capEvals : Nat
deriving DecidableEq, Repr

def Fleet.reset : Fleet where
  slpState := 0
  slpCode := 0
  slpTo := 1000
  slpWt := 0
  slpUs := 0
  slpWakeUs := 0
  slpDrained := false
  slpWaking := false
  clk := Vector.replicate 4 0
  thermal := Vector.replicate 4 1900
  capClk := Vector.replicate 4 1900
  hot := Vector.replicate 4 false
  mw := 0
  bc := 0
  temps := Vector.replicate 4 0
  cnt := Vector.replicate 8 0
  cap := 600
  scr := 24
  log := Vector.replicate 256 ⟨0, 0, 0, 0⟩
  logHead := 0
  logTail := 0
  logSev := 2
  logLost := 0
  hlthWhy := 0
  corrected := []
  us := 0
  evalUs := 0
  capEvals := 0

/-- A trap record on its way to a fault-ring slot (R345): its context and bytes, flt.base and flt.cfg as they stood when it came, and
the request that awaits an answer. -/
structure RingWrite where
  ctx : CtxId
  bytes : List Byte
  base : Word64
  cfg : Word64
  sent : Option Nat
deriving DecidableEq, Repr

/-- Base camp's scheduler (R303-R318, R357). -/
structure Sched where
  cairns : Tab Cairn
  launches : List Launch
  queues : Tab Queue
  joins : Tab JoinSlot
  nextSlot : BitVec 16
  spawns : List SpawnReq
  nextSpawn : Nat
  images : List Image
  nextImage : Nat
  age : BitVec 16
  pe : Bool
  pgap : BitVec 5
  wdStop : BitVec 32
  trees : List RTree
  arrivals : List Arrival
  migCounts : List MigCount
  migs : List Migration
  /-- The finaliser's cache, by the container's digest and the firmware's version (R255). -/
  zpfCache : List (List Byte × Word64)
  /-- Trap records on their way to slots that a host or peer leaf maps, oldest first (R345). -/
  ringOut : List RingWrite
deriving DecidableEq, Repr

def Sched.reset : Sched where
  cairns := []
  launches := []
  queues := []
  joins := []
  nextSlot := 0
  spawns := []
  nextSpawn := 0
  images := []
  nextImage := 0
  age := 255
  pe := false
  pgap := 4
  wdStop := 100000
  trees := []
  arrivals := []
  migCounts := []
  migs := []
  zpfCache := []
  ringOut := []

/-- The host port (R283-R296) and the peer ports (R297-R301). -/
structure Ports where
  apertures : Vector Aperture 8
  /-- MSI-X table and pending bits: the bytes of BAR0 0x1000-0x1FFF (R283, R285; log 6). -/
  msix : Mem
  reads : List HostRead
  ats : List AtsReq
  prgs : List PageReq
  priOn : Bool
  invs : List AtsInv
  nextReq : Nat
  peers : Vector Peer 2
  out : List OutMsg
deriving DecidableEq, Repr

/-- The MSI-X vectors (R283). -/
def msixVectors : Nat := 72

/-- The table after reset: every vector masked, as the PCIe base specification has it (log 6, PRESUMED). -/
def msixReset : Mem := (List.range msixVectors).map fun n => (16 * n + 12, 1)

def Ports.reset : Ports where
  apertures := Vector.replicate 8 ⟨0, 0, 0, 0⟩
  msix := msixReset
  reads := []
  ats := []
  prgs := []
  priOn := true
  invs := []
  nextReq := 0
  peers := Vector.replicate 2 Peer.reset
  out := []

/-! ## The card -/

/-- Who made a write to device memory that may still stand in a memory-side buffer (R80): the task of a core, by a command at a
place in the order of issue; a pre-empted task, by its save image; or another agent, base camp among them. -/
inductive Writer where
  | task (k : CoreId) (stamp : Nat)
  | saved (image : Word64) (stamp : Nat)
  | other
deriving DecidableEq, Repr

/-- A write of a byte of device memory that has not performed at durable scope (R81, R102): its physical address, and what the
LPDDR-6 array holds if the write is lost, with whether the unit stood poisoned there (R373). -/
structure Unsaved where
  addr : Nat
  old : Byte
  poison : Bool
  who : Writer
deriving DecidableEq, Repr

/-- The state of the card. -/
structure State where
  cores : Tab Core
  ctxs : Tab Ctx
  sched : Sched
  ports : Ports
  vm : Vm
  fw : Firmware
  fleet : Fleet
  lanes : Tab Lane
  /-- LPDDR-6 by physical address (R320). -/
  dram : Mem
  /-- Poisoned 64-byte units by number (R373). -/
  poison : List Nat
  /-- The writes to device memory that have not performed at durable scope, newest first (R80, R102). -/
  unsaved : List Unsaved
  /-- Flash paging slots (R334). -/
  slots : Tab (Option Slot)
  /-- The model's own: the loop, CIM.MODE and copy-engine commands issued so far, over all cores (R38, R90). -/
  issued : Nat
  /-- The model's own: the core whose instruction exec runs. -/
  cur : CoreId
  /-- The model's own: the turns to come (log 2). -/
  agenda : List Turn
  /-- The model's own: where the default order stands (log 2). -/
  rr : Nat
  /-- The model's own: the counter the free values are applied to (log 4). -/
  seq : Nat
deriving DecidableEq, Repr

/-- Why the card stops: nothing does. What the manual calls undefined behaviour (R1) is a next state with free values, and
every other event has an effect; so this type has no constructor. -/
inductive Fault : Type
deriving DecidableEq, Repr

/-- Why a step has no meaning. -/
inductive Refusal where
  /-- An instruction with no meaning in the model yet, by its mnemonic: raised by its arm of exec. Safe. -/
  | notModelled (mnemonic : String)
deriving DecidableEq, Repr

/-- The card right after a cold reset (R5, R361): every field at the value the manual states, or the value a log entry names. -/
def State.reset : State where
  cores := []
  ctxs := []
  sched := Sched.reset
  ports := Ports.reset
  vm := Vm.reset
  fw := Firmware.reset
  fleet := Fleet.reset
  lanes := []
  dram := []
  poison := []
  unsaved := []
  slots := []
  issued := 0
  cur := 0
  agenda := []
  rr := 0
  seq := 0

end Sys2Proof.Machine
end

