-- ==== Sys2Proof/Machine/Ops.lean ====
section
/-! DEFINITION. The named operations over tables, memory and registers, the core-local map (R75, R76), the device error log
(R375), taking a trap (R337-R341), and the landing of results (R240, R61). -/

namespace Sys2Proof.Machine

/-! ## Tables and memories -/

/-- Drops the leading entries whose number is at most `k`. -/
def tabDrop {α : Type} : Tab α → Nat → Tab α
  | [], _ => []
  | (j, v) :: t, k => if k < j then (j, v) :: t else tabDrop t k

/-- The entry of number `k`, or the default where none is listed. -/
def tabGet {α : Type} (d : α) : Tab α → Nat → α
  | [], _ => d
  | (j, v) :: t, k => if k < j then d else if j = k then v else tabGet d t k

/-- Writes entry `k`, keeping the numbers rising and listing no default. -/
def tabSet {α : Type} [DecidableEq α] (d : α) : Tab α → Nat → α → Tab α
  | [], k, x => if x = d then [] else [(k, x)]
  | (j, v) :: t, k, x =>
    if k < j then (if x = d then (j, v) :: t else (k, x) :: (j, v) :: t)
    else if j = k then (if x = d then tabDrop t k else (k, x) :: t)
    else (j, v) :: tabSet d t k x

/-- The canonical form of a table: numbers strictly rising, no default listed. -/
def tabWf {α : Type} [DecidableEq α] (d : α) : Tab α → Bool
  | [] => true
  | (j, v) :: t => decide (v ≠ d) && (match t with | [] => true | (k, _) :: _ => decide (j < k)) && tabWf d t

/-- One byte of a memory; an unlisted address reads as 0 (R21; log 5). -/
def memGet (m : Mem) (a : Nat) : Byte := tabGet 0 m a

/-- Writes one byte of a memory. -/
def memSet (m : Mem) (a : Nat) (v : Byte) : Mem := tabSet 0 m a v

/-- The canonical form of a memory. -/
def Memory.wf (m : Mem) : Bool := tabWf (0 : Byte) m

/-- The `n` bytes from an address. -/
def memRead (m : Mem) : Nat → Nat → List Byte
  | _, 0 => []
  | a, n + 1 => memGet m a :: memRead m (a + 1) n

/-- Writes bytes from an address. -/
def memWrite (m : Mem) : Nat → List Byte → Mem
  | _, [] => m
  | a, b :: bs => memWrite (memSet m a b) (a + 1) bs

/-- Sets `n` bytes from an address to zero. -/
def memZero (m : Mem) (a n : Nat) : Mem := m.filter fun c => !(decide (a ≤ c.1) && decide (c.1 < a + n))

/-- The number of the `n` bytes from an address, little-endian (R3). -/
def memNat (m : Mem) (a n : Nat) : Nat := ofBytes (memRead m a n)

/-! ## Cores and contexts -/

/-- The outcome of a step. -/
abbrev Out := Host.Outcome State Fault Refusal

/-- A field of a word, placed at its lowest bit. -/
def at' (lo v : Nat) : Nat := v * 2 ^ lo

/-- The core of an id. -/
def State.core (s : State) (c : CoreId) : Core := tabGet Core.reset s.cores c.toNat

/-- Replaces a core. -/
def State.setCore (s : State) (c : CoreId) (x : Core) : State :=
  { s with cores := tabSet Core.reset s.cores c.toNat x }

/-- The core whose instruction runs. -/
def State.me (s : State) : Core := s.core s.cur

/-- Replaces the core whose instruction runs. -/
def State.setMe (s : State) (x : Core) : State := s.setCore s.cur x

/-- Changes a core. -/
def State.modCore (s : State) (c : CoreId) (f : Core → Core) : State := s.setCore c (f (s.core c))

/-- The registers of a context. -/
def State.ctx (s : State) (n : CtxId) : Ctx := tabGet Ctx.reset s.ctxs n.toNat

/-- Replaces the registers of a context. -/
def State.setCtx (s : State) (n : CtxId) (x : Ctx) : State :=
  { s with ctxs := tabSet Ctx.reset s.ctxs n.toNat x }

/-- ctx.cfg.en (R286). -/
def Ctx.en (x : Ctx) : Bool := bit x.cfg 63
/-- ctx.cfg.dbg (R286). -/
def Ctx.dbg (x : Ctx) : Bool := bit x.cfg 62
/-- ctx.cfg.pv (R286). -/
def Ctx.pv (x : Ctx) : Bool := bit x.cfg 61

/-- The value of a control register; g0 reads as zero (R126). -/
def Core.gr (c : Core) (r : BitVec 5) : Word64 := if r = 0 then 0 else c.g[r.toNat]

/-- Writes a control register; a write to g0 is discarded (R126). -/
def Core.setG (c : Core) (r : BitVec 5) (v : Word64) : Core :=
  if r = 0 then c else { c with g := c.g.set r.toNat v }

/-- The next instruction follows one of `n` words (R106). -/
def Core.adv (c : Core) (n : Nat) : Core := { c with pc := c.pc + BitVec.ofNat 64 (4 * n), pcFrom := c.pc }

/-- The next PC (R132, R133). -/
def Core.goto (c : Core) (a : Word64) : Core := { c with pc := a, pcFrom := c.pc }

/-- The copy tag of a number. -/
def Core.tag (c : Core) (n : Nat) : Option Tag := tabGet none c.tags n

/-- Replaces a copy tag. -/
def Core.setTag (c : Core) (n : Nat) (t : Option Tag) : Core := { c with tags := tabSet none c.tags n t }

/-- The tags in use. -/
def Core.liveTags (c : Core) : List (Nat × Tag) :=
  c.tags.filterMap fun e => e.2.map fun t => (e.1, t)

/-- A barrier of the core. -/
def Core.bar (c : Core) (b : BitVec 6) : Barrier := tabGet Barrier.reset c.bars b.toNat

/-- Replaces a barrier of the core. -/
def Core.setBar (c : Core) (b : BitVec 6) (x : Barrier) : Core :=
  { c with bars := tabSet Barrier.reset c.bars b.toNat x }

/-- The die of a core id (R13). -/
def dieOf (c : CoreId) : Nat := bits c 7 6

/-- The core of a die at bit `j` of a member mask (R43): y = j div 8, x = j mod 8. -/
def coreAt (die j : Nat) : CoreId := BitVec.ofNat 8 (64 * die + j)

/-- The bit of a member mask that stands for a core (R43). -/
def maskBit (c : CoreId) : Nat := c.toNat % 64

/-- The cores a member mask names on a die, ascending. -/
def maskCores (die : Nat) (m : Word64) : List CoreId :=
  (List.range 64).filterMap fun j => if bit m j then some (coreAt die j) else none

/-! ## Banks, queues and views by field -/

/-- Fill states (R36). -/
def fillEmpty : BitVec 2 := 0
def fillFilling : BitVec 2 := 1
def fillFull : BitVec 2 := 2
def fillStale : BitVec 2 := 3

/-- The bank status word (R36). -/
def Bank.status (b : Bank) : Nat :=
  ofBool b.busy * 2 ^ 31 + ofBool b.compute * 2 ^ 30 + b.fill.toNat * 2 ^ 28 + ofBool b.active * 2 ^ 27 +
  ofBool b.ternary * 2 ^ 26 + ofBool b.signed * 2 ^ 25 + b.wbits.toNat * 2 ^ 22 + b.count.toNat

/-- A bank in COMPUTE mode with a weight kind of R110, EMPTY, H0 active, count 0 (R37). -/
def Bank.ofKind (k : BitVec 5) : Bank :=
  if k.toNat = 16 then ⟨false, true, fillEmpty, false, true, false, 1, 0⟩
  else ⟨false, true, fillEmpty, false, false, decide (k.toNat < 8), BitVec.ofNat 3 (k.toNat % 8), 0⟩

/-- The weight kind of a bank, coded as R110. -/
def Bank.kind (b : Bank) : BitVec 5 :=
  if b.ternary then 16 else if b.signed then b.wbits.zeroExtend 5 else BitVec.ofNat 5 (8 + b.wbits.toNat)

/-- Storage bits per weight (R198). -/
def Bank.ps (b : Bank) : Nat := b.wbits.toNat + 1

/-- Queue control word fields (R42). -/
def Qcw.en (q : Qcw) : Bool := bit q.w0 63
def Qcw.esz (q : Qcw) : Nat := 2 ^ bits q.w0 62 60
def Qcw.use (q : Qcw) : Nat := bits q.w0 59 56
def Qcw.base (q : Qcw) : Nat := bits q.w0 34 15
def Qcw.depth (q : Qcw) : Nat := bits q.w0 14 0 + 1
def Qcw.occ (q : Qcw) : Nat := bits q.w1 47 32
def Qcw.tail (q : Qcw) : Nat := bits q.w1 31 16
def Qcw.head (q : Qcw) : Nat := bits q.w1 15 0

/-- Word 1 with new occ, tail and head. -/
def Qcw.put (q : Qcw) (occ tail head : Nat) : Qcw :=
  { q with w1 := BitVec.ofNat 64 (occ * 2 ^ 32 + tail * 2 ^ 16 + head) }

/-- The queue word of a number. -/
def Core.q (c : Core) (n : BitVec 3) : Qcw := c.qcw[n.toNat]

def Core.setQ (c : Core) (n : BitVec 3) (q : Qcw) : Core := { c with qcw := c.qcw.set n.toNat q }

/-- The bank of a number. -/
def Core.bank (c : Core) (n : BitVec 5) : Bank := c.banks[n.toNat]

def Core.setBank (c : Core) (n : BitVec 5) (b : Bank) : Core := { c with banks := c.banks.set n.toNat b }

/-! ## Bank status words and stream registers as words (R36, R222) -/

/-- A bank from its status word (R36). -/
def bankOf (w : Nat) : Bank where
  busy := fld w 31 31 == 1
  compute := fld w 30 30 == 1
  fill := BitVec.ofNat 2 (fld w 29 28)
  active := fld w 27 27 == 1
  ternary := fld w 26 26 == 1
  signed := fld w 25 25 == 1
  wbits := BitVec.ofNat 3 (fld w 24 22)
  count := BitVec.ofNat 13 (fld w 12 0)

/-- A stream register from its words. -/
def streamOf (w : Nat → Nat) : Stream where
  isOpen := fld (w 0) 63 63 == 1
  done := fld (w 0) 62 62 == 1
  m := fld (w 0) 61 61 == 1
  w := fld (w 0) 60 60 == 1
  kind := BitVec.ofNat 2 (fld (w 0) 59 58)
  lvl := BitVec.ofNat 3 (fld (w 0) 57 55)
  src := fld (w 0) 54 54 == 1
  qw := BitVec.ofNat 3 (fld (w 0) 53 51)
  desc := BitVec.ofNat 20 (fld (w 0) 50 31)
  abase := BitVec.ofNat 20 (fld (w 0) 19 0)
  crd := BitVec.ofNat 32 (fld (w 1) 63 32)
  pos := BitVec.ofNat 32 (fld (w 1) 31 0)
  endPos := BitVec.ofNat 32 (fld (w 2) 63 32)
  size := BitVec.ofNat 32 (fld (w 2) 31 0)
  mcrd := BitVec.ofNat 32 (fld (w 3) 63 32)
  mpos := BitVec.ofNat 32 (fld (w 3) 31 0)
  org := BitVec.ofNat 32 (fld (w 4) 31 0)

/-! ## The core-local space (R75, R76) -/

/-- Regions of the core-local map (R75). -/
inductive Region where
  | plain | window (b : BitVec 5) | control | unmapped
deriving DecidableEq, Repr

/-- The row of R75 an address lies in; each bank window is a row of its own (log 8). -/
def region (a : Nat) : Region :=
  if a < 0x40000 then .plain
  else if a < 0xA0000 then .window (BitVec.ofNat 5 ((a - 0x40000) / 0x3000))
  else if 0xF0000 ≤ a ∧ a < 0xF1000 then .control
  else .unmapped

/-- The window base of a bank (R75). -/
def windowBase (b : BitVec 5) : Nat := 0x40000 + b.toNat * 0x3000

/-- Marks the 1 KiB blocks from byte `a` to byte `a + n - 1` of the tracked storage dirty (R354): register space at 0,
plain scratch and bank windows from 32 KiB. -/
def markDirty (d : BitVec 672) (a n : Nat) : BitVec 672 :=
  if n = 0 then d
  else (List.range ((a + n - 1) / 1024 - a / 1024 + 1)).foldl
    (fun d i => d ||| BitVec.ofNat 672 (2 ^ (a / 1024 + i))) d

/-- Bytes of scratch (R8, R75). -/
def Core.readScratch (c : Core) (a n : Nat) : List Byte := memRead c.scratch a n

/-- Writes bytes of scratch, and the dirty map (R354). -/
def Core.writeScratch (c : Core) (a : Nat) (v : List Byte) : Core :=
  { c with scratch := memWrite c.scratch a v, dirty := markDirty c.dirty (32768 + a) v.length }

/-- Writes bytes of the register space, and the dirty map (R354). -/
def Core.writeRegs (c : Core) (a : Nat) (v : List Byte) : Core :=
  { c with regs := memWrite c.regs a v, dirty := markDirty c.dirty a v.length }

/-- A scratch number, little-endian. -/
def Core.scratchNat (c : Core) (a n : Nat) : Nat := memNat c.scratch a n

/-- What refuses an extent of scratch. -/
inductive ExtentFault where
  | range | bankMode (b : BitVec 5)
deriving DecidableEq, Repr

/-- Checks an extent as R76 and R39 give for the agents that do not reach the control page: it lies in one row, mapped, and
not in the window of a COMPUTE bank. -/
def Core.extent (c : Core) (a n : Nat) : Option ExtentFault :=
  match region a with
  | .plain => if a + n ≤ 0x40000 then none else some .range
  | .window b =>
    if a + n ≤ windowBase b + 0x3000 then (if (c.bank b).compute then some (.bankMode b) else none) else some .range
  | _ => some .range

/-! ## Sync words (R94, R95) -/

/-- How many generations a count passes at once: count div target, for R95's loop (the remainder stays). -/
def syncStep (arm : Bool) (target gen count : Nat) : Nat × Nat :=
  if arm && decide (target ≠ 0) then ((gen + count / target) % 2 ^ 16, count % target) else (gen, count)

/-- Fields of a sync word's word 0 (R94). -/
def syncWord0 (arm : Bool) (gen target : Nat) : Nat := ofBool arm * 2 ^ 63 + gen * 2 ^ 40 + target

/-- Arrive (R95) on the word at `a`. -/
def Core.arrive (c : Core) (a b : Nat) : Core :=
  let w0 := c.scratchNat a 8
  let w1 := c.scratchNat (a + 8) 8
  let arm := fld w0 63 63 == 1
  let t := fld w0 39 0
  let r := syncStep arm t (fld w0 55 40) ((fld w1 39 0 + b) % 2 ^ 40)
  let w0' := fld w0 62 56 * 2 ^ 56 + syncWord0 arm r.1 t
  c.writeScratch a (toBytes 8 w0' ++ toBytes 8 (fld w1 63 40 * 2 ^ 40 + r.2))

/-! ## Releases (R90, R98) -/

/-- A release of the core at a scope: its interval number and base camp's record of its last 16 releases (R98). -/
def Core.release (c : Core) (scope : BitVec 3) : Core :=
  { c with ivl := c.ivl + 1, relScopes := (scope :: c.relScopes).take 16 }

/-! ## Messages and the device error log -/

def State.send (s : State) (m : OutMsg) : State := { s with ports := { s.ports with out := s.ports.out ++ [m] } }

/-- The pending bits of the MSI-X vectors lie at this offset from the table (R283). -/
def msixPending : Nat := 0x800

/-- Whether an MSI-X vector's table entry masks it (R283). -/
def State.msixMasked (s : State) (n : Nat) : Bool := memNat s.ports.msix (16 * n + 12) 4 % 2 == 1

/-- Sets or clears the pending bit of an MSI-X vector. -/
def State.msixPend (s : State) (n : Nat) (on : Bool) : State :=
  let a := msixPending + n / 8
  let old := memGet s.ports.msix a
  let m : Byte := BitVec.ofNat 8 (2 ^ (n % 8))
  { s with ports := { s.ports with msix := memSet s.ports.msix a (if on then old ||| m else old &&& ~~~m) } }

/-- Raises MSI-X vector `n` (R283, R296): the message its table entry gives, or its pending bit while the entry masks it. -/
def State.msix (s : State) (n : Nat) : State :=
  if s.msixMasked n then s.msixPend n true
  else s.send (.msix n (memNat s.ports.msix (16 * n) 8) (memNat s.ports.msix (16 * n + 8) 4))

/-- Blocks of the error log (R375). -/
def blkHost : Nat := 0
def blkSched : Nat := 1
def blkTrans : Nat := 2
def blkMem : Nat := 3
def blkSram : Nat := 4
def blkFlash : Nat := 5
def blkPeer : Nat := 6
def blkPower : Nat := 7
def blkFw : Nat := 8

/-- Sets bits of hlth.why (R376): bit 8 of the register is bit 0 here. -/
def State.health (s : State) (b : Nat) : State :=
  { s with fleet := { s.fleet with hlthWhy := s.fleet.hlthWhy ||| BitVec.ofNat 8 (2 ^ b) } }

/-- Writes an entry to the device error log (R375); the manual gives no event codes: a free value (log 4). -/
def State.logEntry (s : State) (sev blk : Nat) (ctx : Option CtxId) (d0 d1 : Nat) : State :=
  let f := s.fleet
  let code := (Config.freeByte s.seq 0).toNat
  let w0 := sev % 4 * 2 ^ 62 + blk * 2 ^ 56 + code * 2 ^ 48 +
    (match ctx with | some n => 2 ^ 47 + n.toNat * 2 ^ 40 | none => 0)
  let e : LogEntry := ⟨BitVec.ofNat 64 w0, BitVec.ofNat 64 f.us, BitVec.ofNat 64 d0, BitVec.ofNat 64 d1⟩
  let full := f.logHead - f.logTail == 256
  let lost := if full && f.logLost != BitVec.allOnes 32 then f.logLost + 1 else f.logLost
  let f := { f with
    log := f.log.set (f.logHead.toNat % 256) e (Nat.mod_lt _ (by decide)), logHead := f.logHead + 1, logLost := lost
    logTail := if full then f.logTail + 1 else f.logTail }
  let s := { s with fleet := f, seq := s.seq + 1 }
  let s := if sev = 3 then
      { s.health 5 with fw := { s.fw with fatal := (s.fw.fatal ++ [e]).drop (s.fw.fatal.length + 1 - 16) } }
    else s
  if f.logSev.toNat ≤ sev then s.msix 66 else s

/-- An entry whose severity the manual does not give: a free value (log 4). -/
def State.logFree (s : State) (blk : Nat) (ctx : Option CtxId) (d0 d1 : Nat) : State :=
  s.logEntry (Config.freeNat s.seq 1 % 4) blk ctx d0 d1

/-- Whether some compute die is on, by its cd bit (R359): while none is, the counters do not count (R370, 23). -/
def State.diesOn (s : State) : Bool := bits s.fw.ready 10 7 != 0

/-- Counter `i` of telemetry counts one (R370). -/
def State.count (s : State) (i : Fin 8) : State :=
  if s.diesOn then { s with fleet := { s.fleet with cnt := s.fleet.cnt.set i (s.fleet.cnt[i] + 1) } } else s

/-- Whether base camp keeps its state and waits: in bivouac and while the card wakes (R368, R369). -/
def State.asleep (s : State) : Bool := decide (2 ≤ s.fleet.slpState.toNat)

/-! ## Loop indices (R27) -/

/-- The loop indices of an iteration. -/
def loopIdx (counts : Vector Nat 6) (t : Nat) : List Nat :=
  (counts.toList.foldl (fun p n => (p.1 ++ [p.2 % (max n 1)], p.2 / (max n 1))) (([] : List Nat), t)).1

/-- loop.ofs of an iteration. -/
def loopOfs (c : LoopCmd) (t : Nat) : BitVec 32 :=
  ((loopIdx c.counts t).zip c.strides.toList).foldl (fun a p => a + BitVec.ofNat 32 p.1 * p.2) 0

/-- The iterations of a nest (R27). -/
def LoopCmd.total (c : LoopCmd) : Nat := c.counts.toList.foldl (· * ·) 1

/-! ## Taking a trap (R337-R341): the one shared operation -/

/-- The status word of a record that carries no engine status (R339, word 7). -/
def Core.queueStatus (c : Core) : Word64 :=
  BitVec.ofNat 64 (c.cmdq.length + (min c.paramq.length 16) * 2 ^ 8 + c.aq.length * 2 ^ 16 + c.liveTags.length * 2 ^ 32)

/-- Stops a core's task for a trap or fault with a record (R337, R338 steps 1 and 2): both streams issue nothing further, the
command queue and the address-queue entries that the engine has not begun to serve are discarded. The first class to stop a stream
decides the record; a pre-emption yields, and so does a cancel, whose stop goes on (R357). -/
def takeTrap (s : State) (c : CoreId) (r : TrapRec) : State :=
  let k := s.core c
  let stop (us : Nat) : State :=
    s.setCore c { k with
      run := .stopping r, wait := .no, cmdq := [], aq := k.aq.filter (·.begun), stopUs := us, preemptReq := false }
  match k.run with
  | .running | .preempting => stop 0
  | .cancelling => stop k.stopUs
  | _ => s

/-- The record of a trap of the control stream (R339, R341). -/
def Core.cpRecord (c : Core) (t : Trap) : TrapRec where
  cause := BitVec.ofNat 8 t.cause
  src := 0
  eng := BitVec.ofNat 4 t.eng
  zpf := false
  cmd := c.cmdIdx
  pc := c.pc
  grp := 0
  j := []
  ofs := 0
  status := c.queueStatus
  d0 := BitVec.ofNat 64 t.d0
  d1 := BitVec.ofNat 64 t.d1
  tag := []

/-- A control trap of the current core: the instruction has no effect and the task begins to end (R9, R337). -/
def cpTrap (s : State) (t : Trap) : State := takeTrap s s.cur (s.me.cpRecord t)

/-- Cause codes of R340. -/
def causeIllegal : Nat := 1
def causeGroup : Nat := 2
def causeFetch : Nat := 3
def causeRange : Nat := 4
def causeAlign : Nat := 5
def causeBankMode : Nat := 6
def causeSwap : Nat := 7
def causeStall : Nat := 8
def causeQueueRange : Nat := 9
def causeQueueBank : Nat := 10
def causeView : Nat := 11
def causeOperand : Nat := 12
def causeSync : Nat := 13
def causeOverrun : Nat := 14
def causeRopeMember : Nat := 15
def causeRopeStop : Nat := 16
def causeStream : Nat := 17
def causeCoord : Nat := 18
def causeGather : Nat := 19
def causeArith : Nat := 20
def causePrivilege : Nat := 21
def causeSoftware : Nat := 22
def causeCopy : Nat := 23
def causeBlock : Nat := 24
def causeWatchdog : Nat := 25
def causeDeath : Nat := 26

/-- Ends a control instruction that either traps or gives a next state. -/
def cpEnd (s : State) : Except Trap State → Out
  | .ok s' => .next s'
  | .error t => .next (cpTrap s t)

/-- Signals a trap in a check. -/
def trapIf (b : Bool) (t : Trap) : Except Trap Unit := if b then .error t else .ok ()

/-! ## Landing (R61, R240) -/

/-- One accumulator column's landing (R61): the new value and whether it saturated. -/
def accLand (w : Nat) (old s : Int) : Int × Bool :=
  let t := old + s
  if t > 2 ^ (w - 1) - 1 then (2 ^ (w - 1) - 1, true)
  else if t < -(2 ^ (w - 1)) then (-(2 ^ (w - 1)), true)
  else (t, false)

/-- A two's complement number of `n` bytes. -/
def intBytes (n : Nat) (v : Int) : List Byte := toBytes n (v % (2 : Int) ^ (8 * n)).toNat

/-- The values that sums give their columns, plane-major: column values and saturations. -/
def sumsLand (regs : Mem) (off wq : Nat) (ovw : Bool) : Nat → List Int → List (Int × Bool)
  | _, [] => []
  | k, v :: vs =>
    let old := if ovw then 0 else sext (8 * wq) (memNat regs (off + k * wq) wq)
    accLand (8 * wq) old v :: sumsLand regs off wq ovw (k + 1) vs

/-- The columns that saturate, as a mask over 64 columns. -/
def satMask : Nat → List (Int × Bool) → Word64
  | _, [] => 0
  | k, (_, b) :: t => (if b then BitVec.ofNat 64 (2 ^ (k % 64)) else 0) ||| satMask (k + 1) t

/-- fp.flags.aov (R56). -/
def aovBit : Word64 := BitVec.ofNat 64 (2 ^ 42)

/-- The flags a result sets as it lands, the saturation found at landing among them (R58, R61). -/
def Landing.allFlags (l : Landing) (c : Core) : Word64 :=
  match l.v with
  | .sums _ off wq ovw v =>
    if (sumsLand c.regs off wq ovw 0 v).any (·.2) then l.flags ||| aovBit else l.flags
  | _ => l.flags

/-- Writes a result to its destination, but for its flags (R240). -/
def Core.land (c : Core) (v : LandVal) : Core :=
  match v with
  | .bytes off b => c.writeRegs off b
  | .sums acc off wq ovw sums =>
    let r := sumsLand c.regs off wq ovw 0 sums
    let c := c.writeRegs off (r.flatMap fun p => intBytes wq p.1)
    { c with accOvf := c.accOvf.set acc.toNat (c.accOvf[acc.toNat] ||| satMask 0 r) }
  | .index r x => { c with idx := c.idx.set r.toNat x }
  | .stream r x => { c with streams := c.streams.set r.toNat x }
  | .scratch a b => c.writeScratch a b

/-- Whether a result lands in the register space, at the start of its landing cycle (R240). -/
def LandVal.early : LandVal → Bool
  | .bytes _ _ | .sums _ _ _ _ _ => true
  | _ => false

/-- Lands results: their values and their flags (R58). -/
def Core.landAll (c : Core) (ls : List Landing) : Core :=
  ls.foldl (fun c l =>
    let f := l.allFlags c
    let c := c.land l.v
    { c with fpFlags := c.fpFlags ||| f }) c

end Sys2Proof.Machine
end

