-- ==== Sys2Proof/Machine/Flags.lean ====
section
/-! DEFINITION. Number formats, exact sums, the one rounding, and the flags they set (03: R47-R60, R63-R68). -/

namespace Sys2Proof.Machine

/-! ## Formats (R51) -/

/-- The floating-point formats. -/
inductive Fmt where
  | fp32 | fp16 | bf16
deriving DecidableEq, Repr

def Fmt.frac : Fmt → Nat | .fp32 => 23 | .fp16 => 10 | .bf16 => 7
def Fmt.ebits : Fmt → Nat | .fp32 => 8 | .fp16 => 5 | .bf16 => 8
def Fmt.width : Fmt → Nat | .fp32 => 32 | .fp16 => 16 | .bf16 => 16
def Fmt.bias (f : Fmt) : Int := 2 ^ (f.ebits - 1) - 1
def Fmt.bytes (f : Fmt) : Nat := f.width / 8
/-- The magnitude bits of infinity. -/
def Fmt.inf (f : Fmt) : Nat := (2 ^ f.ebits - 1) * 2 ^ f.frac
/-- The default NaN (R53). -/
def Fmt.nan (f : Fmt) : Nat := f.inf + 2 ^ (f.frac - 1)
/-- The sign bit. -/
def Fmt.sign (f : Fmt) : Nat := 2 ^ (f.width - 1)
/-- +1.0. -/
def Fmt.one (f : Fmt) : Nat := (2 ^ (f.ebits - 1) - 1) * 2 ^ f.frac

/-- The value of a bit pattern: a NaN, an infinity, or a sign, a magnitude and a power of two. -/
inductive Fp where
  | nan (signalling : Bool)
  | inf (neg : Bool)
  | fin (neg : Bool) (m : Nat) (e : Int)
deriving DecidableEq, Repr

/-- Reads a bit pattern (R51, R52: subnormals at their exact value). -/
def Fmt.decode (f : Fmt) (x : Nat) : Fp :=
  let neg := x / f.sign % 2 == 1
  let ex := x / 2 ^ f.frac % 2 ^ f.ebits
  let fr := x % 2 ^ f.frac
  if ex = 2 ^ f.ebits - 1 then
    if fr = 0 then .inf neg else .nan (fr / 2 ^ (f.frac - 1) % 2 == 0)
  else if ex = 0 then .fin neg fr (1 - f.bias - f.frac)
  else .fin neg (fr + 2 ^ f.frac) ((ex : Int) - f.bias - f.frac)

/-- An exact integer or half as a value. -/
def Fp.int (v : Int) : Fp := .fin (decide (v < 0)) v.natAbs 0

def Fp.isNan : Fp → Bool | .nan _ => true | _ => false
def Fp.isSnan : Fp → Bool | .nan s => s | _ => false
def Fp.isInf : Fp → Bool | .inf _ => true | _ => false
def Fp.isZero : Fp → Bool | .fin _ m _ => m == 0 | _ => false
def Fp.neg : Fp → Bool | .fin n _ _ => n | .inf n => n | .nan _ => false
/-- The value negated. -/
def Fp.flip : Fp → Fp | .fin n m e => .fin (!n) m e | .inf n => .inf (!n) | .nan s => .nan s

/-- Flags within a coefficient row (R56). -/
def fNv : Nat := 16
def fDz : Nat := 8
def fOf : Nat := 4
def fUf : Nat := 2
def fNx : Nat := 1
/-- Single flags above the rows (R56), as bits of fp.flags. -/
def fSat : Nat := 2 ^ 40
def fRngz : Nat := 2 ^ 41

/-- A row's flags as bits of fp.flags. -/
def rowFlags (k : Nat) (f : Nat) : Nat := f * 2 ^ (5 * k)

/-- A rounded result: its bit pattern and the row flags it sets. -/
structure Rnd where
  bits : Nat
  flags : Nat
deriving DecidableEq, Repr

/-! ## Rounding (R54, R52) -/

/-- `q` div 2^sh rounded to nearest even, or toward zero; a sticky part lies below `q`. Gives the result and whether it is inexact. -/
def roundShift (tz : Bool) (q sh : Nat) (sticky : Bool) : Nat × Bool :=
  let m := q / 2 ^ sh
  let r := q % 2 ^ sh
  let inexact := sticky || decide (r ≠ 0)
  if tz || sh = 0 then (m, inexact)
  else
    let half := 2 ^ (sh - 1)
    let up := decide (half < r) || (decide (r = half) && (sticky || m % 2 == 1))
    (if up then m + 1 else m, inexact)

/-- Rounds the value (q + δ) × 2^e, 0 ≤ δ < 1 and δ > 0 when sticky, to a format (R54), with the BF16 flush of R52. -/
def roundAbs (f : Fmt) (tz neg : Bool) (q : Nat) (e : Int) (sticky : Bool) : Rnd :=
  let s := if neg then f.sign else 0
  if q = 0 then ⟨s, if sticky then fUf + fNx else 0⟩
  else
    let len : Int := Nat.log2 q + 1
    let ex : Int := len - 1 + e
    let emin : Int := 1 - f.bias
    let qe : Int := max (ex - f.frac) (emin - f.frac)
    let at' (qe : Int) : Nat × Bool :=
      if qe ≤ e then (q * 2 ^ (e - qe).toNat, sticky) else roundShift tz q (qe - e).toNat sticky
    let r := at' qe
    let mag := (qe - (emin - f.frac)).toNat * 2 ^ f.frac + r.1
    if f.inf ≤ mag then ⟨s + (if tz then f.inf - 1 else f.inf), fOf + fNx⟩
    else
      let tiny := decide (ex < emin) && decide ((at' (ex - f.frac)).1 < 2 ^ (f.frac + 1) ∨ ex < emin - 1)
      if f = .bf16 ∧ 0 < r.1 ∧ mag < 2 ^ f.frac then ⟨s, fUf + fNx⟩
      else ⟨s + mag, (if r.2 then fNx else 0) + (if tiny && r.2 then fUf else 0)⟩

/-- The bits by which a quotient is extended so that it can be rounded once. -/
def divExtra (num den : Nat) : Nat := 64 + Nat.log2 den - min (Nat.log2 den) (Nat.log2 num)

/-- Rounds num / den × 2^e once. -/
def roundRat (f : Fmt) (tz neg : Bool) (num den : Nat) (e : Int) : Rnd :=
  let k := divExtra num den
  let n := num * 2 ^ k
  roundAbs f tz neg (n / den) (e - k) (decide (n % den ≠ 0))

/-! ## Exact sums (R55) -/

/-- A product term of ExactSum. -/
inductive Term where
  | nan (signalling : Bool)
  | bad
  | inf (neg : Bool)
  | val (neg : Bool) (m : Nat) (e : Int)
deriving DecidableEq, Repr

/-- The product of factors, exact (R55): a NaN factor, 0 × ∞, an infinity, or a value whose sign is the exclusive or. -/
def prod (xs : List Fp) : Term :=
  if xs.any Fp.isNan then .nan (xs.any Fp.isSnan)
  else
    let neg := xs.foldl (fun b x => b ^^ x.neg) false
    if xs.any Fp.isInf then (if xs.any Fp.isZero then .bad else .inf neg)
    else
      let r := xs.foldl (fun (p : Nat × Int) x => match x with | .fin _ m e => (p.1 * m, p.2 + e) | _ => p) (1, 0)
      .val neg r.1 r.2

/-- The exact result of ExactSum: a NaN and whether nv is set, an infinity, or a value num × 2^e with the sign of a zero. -/
inductive Exact where
  | nan (nv : Bool)
  | inf (neg : Bool)
  | val (zeroNeg : Bool) (num : Int) (e : Int)
deriving DecidableEq, Repr

/-- ExactSum of R55. -/
def exactSum (ts : List Term) : Exact :=
  let isNan := fun t => match t with | .nan _ => true | _ => false
  let isSnan := fun t => match t with | .nan b => b | _ => false
  let isBad := fun t => match t with | Term.bad => true | _ => false
  let isInf := fun (b : Bool) t => match t with | Term.inf n => n == b | _ => false
  if ts.any isNan then .nan (ts.any isSnan)
  else if ts.any isBad then .nan true
  else if ts.any (isInf true) && ts.any (isInf false) then .nan true
  else if ts.any (isInf true) then .inf true
  else if ts.any (isInf false) then .inf false
  else
    let emin := ts.foldl (fun (a : Option Int) t => match t, a with
      | .val _ _ e, none => some e
      | .val _ _ e, some x => some (min x e)
      | _, a => a) none
    let e := emin.getD 0
    let num := ts.foldl (fun (a : Int) t => match t with
      | .val n m x => a + (if n then -1 else 1) * ((m * 2 ^ (x - e).toNat : Nat) : Int)
      | _ => a) 0
    .val (ts.all fun t => match t with | .val n m _ => n && m == 0 | _ => false) num e

/-- RoundNE or RoundTZ of an exact result (R8, R54). -/
def roundExact (f : Fmt) (tz : Bool) (x : Exact) (den : Nat) : Rnd :=
  match x with
  | .nan nv => ⟨f.nan, if nv then fNv else 0⟩
  | .inf neg => ⟨(if neg then f.sign else 0) + f.inf, 0⟩
  | .val z num e =>
    if num = 0 then ⟨if z then f.sign else 0, 0⟩
    else if den = 1 then roundAbs f tz (decide (num < 0)) num.natAbs e false
    else roundRat f tz (decide (num < 0)) num.natAbs den e

/-- RoundNE(ExactSum(terms), fmt). -/
def rsum (f : Fmt) (ts : List Term) : Rnd := roundExact f false (exactSum ts) 1

/-- RoundNE(ExactSum(terms) / k, fmt), k a positive integer. -/
def rsumDiv (f : Fmt) (ts : List Term) (k : Nat) : Rnd := roundExact f false (exactSum ts) k

/-- A value as a term. -/
def Fp.term (x : Fp) : Term := prod [x]

/-- RoundNE of the exact quotient (R55). -/
def fpDiv (f : Fmt) (a b : Fp) : Rnd :=
  let neg := a.neg ^^ b.neg
  let s := if neg then f.sign else 0
  match a, b with
  | .nan x, y => ⟨f.nan, if x || y.isSnan then fNv else 0⟩
  | _, .nan y => ⟨f.nan, if y then fNv else 0⟩
  | .inf _, .inf _ => ⟨f.nan, fNv⟩
  | .inf _, .fin _ _ _ => ⟨s + f.inf, 0⟩
  | .fin _ _ _, .inf _ => ⟨s, 0⟩
  | .fin _ m e, .fin _ n x =>
    if n = 0 then (if m = 0 then ⟨f.nan, fNv⟩ else ⟨s + f.inf, fDz⟩)
    else if m = 0 then ⟨s, 0⟩
    else roundRat f false neg m n (e - x)

/-! ## Square roots -/

/-- Integer square root by bits: `b` more bits of the root of `n`, above `r` found so far. -/
def sqrtBits (n : Nat) : Nat → Nat → Nat
  | 0, r => r
  | b + 1, r => let t := r + 2 ^ b; sqrtBits n b (if t * t ≤ n then t else r)

/-- The integer square root. -/
def isqrt (n : Nat) : Nat := sqrtBits n (Nat.log2 n / 2 + 1) 0

/-- A magnitude and an even exponent with at least 160 bits, equal to m × 2^e. -/
def evenScale (m : Nat) (e : Int) : Nat × Int :=
  let k : Nat := 160 + (if (e - 160) % 2 = 0 then 0 else 1)
  (m * 2 ^ k, e - k)

/-- RoundNE(sqrt(a)) (R55). -/
def fpSqrt (f : Fmt) (a : Fp) : Rnd :=
  match a with
  | .nan s => ⟨f.nan, if s then fNv else 0⟩
  | .inf neg => if neg then ⟨f.nan, fNv⟩ else ⟨f.inf, 0⟩
  | .fin neg m e =>
    if m = 0 then ⟨if neg then f.sign else 0, 0⟩
    else if neg then ⟨f.nan, fNv⟩
    else
      let p := evenScale m e
      let r := isqrt p.1
      roundAbs f false false r (p.2 / 2) (decide (r * r ≠ p.1))

/-- RoundNE(1 / sqrt(a)) (R55): the root of the exact reciprocal. -/
def fpRsqrt (f : Fmt) (a : Fp) : Rnd :=
  match a with
  | .nan s => ⟨f.nan, if s then fNv else 0⟩
  | .inf neg => if neg then ⟨f.nan, fNv⟩ else ⟨0, 0⟩
  | .fin neg m e =>
    if m = 0 then ⟨(if neg then f.sign else 0) + f.inf, fDz⟩
    else if neg then ⟨f.nan, fNv⟩
    else
      -- 1/sqrt(m 2^e) = sqrt(2^(2k) / m') 2^(-(k) - e'/2), with e' even
      let odd := e % 2 ≠ 0
      let m' := if odd then 2 * m else m
      let e' := if odd then e - 1 else e
      let k := 100 + Nat.log2 m'
      let q := 2 ^ (2 * k) / m'
      let r := isqrt q
      roundAbs f false false r (-(k : Int) - e' / 2) (decide (r * r * m' ≠ 2 ^ (2 * k)))

/-! ## Comparisons -/

/-- A number that orders bit patterns of one format as their values; +0 above -0 when asked (R70, R72). -/
def fpKey (f : Fmt) (zeros : Bool) (x : Nat) : Int :=
  let mag := x % f.sign
  if x / f.sign % 2 == 1 then -(mag : Int) - (if zeros then 1 else 0) else mag

/-- Whether a bit pattern is a NaN, and whether it is a signalling one. -/
def Fmt.isNan (f : Fmt) (x : Nat) : Bool := (f.decode x).isNan
def Fmt.isSnan (f : Fmt) (x : Nat) : Bool := (f.decode x).isSnan

/-! ## Integers and codes (R47, R60, R8) -/

/-- A code kind (R110), or INT32. -/
inductive Kind where
  | sint (n : Nat) | uint (n : Nat) | ternary | int32
deriving DecidableEq, Repr

/-- The kind of a 5-bit code (R110). -/
def Kind.ofCode (k : Nat) : Option Kind :=
  if k < 8 then some (.sint (k + 1)) else if k < 16 then some (.uint (k - 7)) else if k = 16 then some .ternary else none

/-- The code range of a kind (R47). -/
def Kind.lo : Kind → Int | .sint n => -(2 ^ (n - 1)) | .uint _ => 0 | .ternary => -1 | .int32 => -(2 ^ 31)
def Kind.hi : Kind → Int | .sint n => 2 ^ (n - 1) - 1 | .uint n => 2 ^ n - 1 | .ternary => 1 | .int32 => 2 ^ 31 - 1

/-- qmax (R47). -/
def Kind.qmax (k : Kind) : Nat := k.hi.toNat

/-- SatToCode (R8): the clamped integer and sat. -/
def satToCode (k : Kind) (x : Int) : Int × Nat :=
  if k.hi < x then (k.hi, fSat) else if x < k.lo then (k.lo, fSat) else (x, 0)

/-- Rounds num / den × 2^e to an integer, to nearest even or toward zero: the integer and whether it is inexact. -/
def roundInt (tz neg : Bool) (num den : Nat) (e : Int) : Int × Bool :=
  let n := if 0 ≤ e then num * 2 ^ e.toNat else num
  let d := if 0 ≤ e then den else den * 2 ^ (-e).toNat
  let m := n / d
  let r := n % d
  let up := !tz && (decide (d < 2 * r) || (decide (2 * r = d) && m % 2 == 1))
  let v : Int := if up then m + 1 else m
  (if neg then -v else v, decide (r ≠ 0))

/-- Floating to an INT kind (R60): the integer, and flags as bits of fp.flags with row `k`. -/
def fpToInt (tz : Bool) (kind : Kind) (k : Nat) (x : Fp) : Int × Nat :=
  match x with
  | .nan _ => (0, rowFlags k fNv)
  | .inf neg => (if neg then kind.lo else kind.hi, fSat)
  | .fin neg m e =>
    let r := roundInt tz neg m 1 e
    let c := satToCode kind r.1
    (c.1, (if r.2 then rowFlags k fNx else 0) + c.2)

/-- An integer to a format, RoundNE (R60). -/
def intToFp (f : Fmt) (v : Int) : Rnd := roundAbs f false (decide (v < 0)) v.natAbs 0 false

/-- Between floating-point formats (R60): a NaN gives the default NaN, a signalling one sets nv. -/
def fpToFp (tz : Bool) (f : Fmt) (x : Fp) : Rnd := roundExact f tz (exactSum [x.term]) 1

/-- Two's complement of `w` bits. -/
def wrapInt (w : Nat) (v : Int) : Nat := (v % (2 : Int) ^ w).toNat

/-- The code an element of a kind stands for (R188, CVT.CI; R47): the element's low bits. -/
def codeValue (kind : Kind) (x : Nat) : Int :=
  match kind with
  | .sint n => sext n x
  | .uint n => x % 2 ^ n
  | .ternary => let v := sext 8 x; if v = 1 ∨ v = -1 then v else 0
  | .int32 => sext 32 x

/-! ## Quantise (R63, R64) -/

/-- QuantCode (R63): the code, and flags as bits of fp.flags. -/
def quantCode (x s : Fp) (z : Int) (kind : Kind) (k : Nat) : Int × Nat :=
  match x, s with
  | .nan _, _ => (0, rowFlags k fNv)
  | _, .nan _ => (0, rowFlags k fNv)
  | _, .inf _ => (0, rowFlags k fNv)
  | x, .fin sneg sm se =>
    if sneg ∨ sm = 0 then (0, rowFlags k fNv)
    else match x with
    | .inf neg => satToCode kind (if neg then -(2 ^ 31) else 2 ^ 31)
    | .fin neg m e =>
      -- t = ±m 2^e / (sm 2^se) + z over the denominator sm (times a power of two)
      let d := e - se
      let num := if 0 ≤ d then m * 2 ^ d.toNat else m
      let den := if 0 ≤ d then sm else sm * 2 ^ (-d).toNat
      let t : Int := (if neg then -(num : Int) else num) + z * den
      let r := roundInt false (decide (t < 0)) t.natAbs den 0
      let c := satToCode kind r.1
      (c.1, (if r.2 then rowFlags k fNx else 0) + c.2)
    | .nan _ => (0, rowFlags k fNv)

/-- QuantParams (R64): the scale's bits, the zero point, and flags as bits of fp.flags. -/
def quantParams (mx mn : Nat) (kind : Kind) (k : Nat) : Nat × Int × Nat :=
  let f := Fmt.fp32
  let symmetric := match kind with | .uint _ => false | _ => true
  match f.decode mx, f.decode mn with
  | .fin an am ae, .fin bn bm be =>
    if fpKey f false mx = fpKey f false mn then
      if am = 0 then (f.one, 0, fRngz)
      else
        let r := roundRat f false false am kind.qmax ae
        (r.bits, 0, fRngz + rowFlags k r.flags)
    else if symmetric then
      let big := if fpKey f false (mx % f.sign) < fpKey f false (mn % f.sign) then (bm, be) else (am, ae)
      let r := roundRat f false false big.1 kind.qmax big.2
      (r.bits, 0, rowFlags k r.flags)
    else
      let x := exactSum [.val an am ae, .val (!bn) bm be]
      let r := roundExact f false x kind.qmax
      match f.decode r.bits, x with
      | .fin _ sm se, .val _ _ _ =>
        if sm = 0 then
          -- the scale rounds to zero: -mn / s has no stated value, a free one (log 9)
          let z := satToCode kind (Config.zeroScale mx mn)
          (r.bits, z.1, rowFlags k r.flags + z.2)
        else
          let d := be - se
          let num := if 0 ≤ d then bm * 2 ^ d.toNat else bm
          let den := if 0 ≤ d then sm else sm * 2 ^ (-d).toNat
          let z := satToCode kind (roundInt false (!bn) num den 0).1
          (r.bits, z.1, rowFlags k r.flags + z.2)
      | _, _ =>
        -- the scale overflows: mn / ∞ is 0
        (r.bits, 0, rowFlags k r.flags)
  | _, _ => (f.one, 0, rowFlags k fNv)

/-! ## Rescale and cells (R65, R67, R68) -/

/-- Rescale (R65): bits and row flags. -/
def rescale (acc : Int) (sch sact : Nat) (e : Nat) : Rnd :=
  if e = 255 then ⟨Fmt.fp32.nan, fNv⟩
  else rsum .fp32 [prod [Fmt.fp32.decode sch, Fmt.fp32.decode sact, .fin false 1 (e - 127), .int acc]]

/-- CellAdd (R67): the new cell and the status (0 ok, 1 clamped, 2 invalid). -/
def cellAdd (v : Nat) (x : Nat) : Nat × Nat :=
  match Fmt.fp32.decode x with
  | .nan _ => (v, 2)
  | .inf neg => ((wrapInt 128 (v + (if neg then -1 else 1) * 2 ^ 96)), 1)
  | .fin neg m e =>
    let big := decide (2 ^ 48 < m * 2 ^ e.toNat) && decide (0 ≤ e)
    if big then (wrapInt 128 (v + (if neg then -1 else 1) * 2 ^ 96), 1)
    else (wrapInt 128 (v + (roundInt false neg m 1 (e + 48)).1), 0)

/-- A cell read as FP32 (R68). -/
def cellFp32 (v : Nat) : Nat :=
  let x := sext 128 v
  (roundAbs .fp32 false (decide (x < 0)) x.natAbs (-48) false).bits

end Sys2Proof.Machine
end

