-- ==== Sys2Proof/Machine/Transcend.lean ====
section
/-! DEFINITION. The correctly rounded elementary functions of R55 and R183: exp, log, tanh, sigmoid, sin and cos. Each is
enclosed between two integers at a working precision, which rises until the enclosure decides the rounding: none of these
values is a binary fraction except at the exact results R183 lists, so the enclosure at last decides (log 10). -/

namespace Sys2Proof.Machine

/-- An enclosure: lo × 2^e ≤ value ≤ hi × 2^e. -/
structure Enc where
  lo : Nat
  hi : Nat
  e : Int
deriving DecidableEq, Repr

/-- Terms of the exponential series at scale 2^p of x = num / 2^sh, truncated: the sum, by the term number and the last term. -/
def expTerms (p num sh : Nat) : Nat → Nat → Nat → Nat → Nat
  | 0, _, _, acc => acc
  | fuel + 1, i, t, acc =>
    let t' := t * num / 2 ^ sh / i
    if t' = 0 then acc else expTerms p num sh fuel (i + 1) t' (acc + t')

/-- Squares an enclosure at scale 2^p `n` times. -/
def encSquare (p : Nat) : Nat → Nat × Nat → Nat × Nat
  | 0, r => r
  | n + 1, r => encSquare p n (r.1 * r.1 / 2 ^ p, r.2 * r.2 / 2 ^ p + 1)

/-- An enclosure at scale 2^p of exp(x) for x = m × 2^e, 0 ≤ x < 2^9. -/
def encExp (p m : Nat) (e : Int) : Nat × Nat :=
  -- r = x / 2^16 < 2^-7, so that each term is below 2^-7 of the one before
  let num := if 0 ≤ e then m * 2 ^ e.toNat else m
  let sh := (if 0 ≤ e then 0 else (-e).toNat) + 16
  let s := expTerms p num sh (p + 4) 1 (2 ^ p) (2 ^ p)
  encSquare p 16 (s, s + p + 8)

/-- The atanh series of num / den at scale 2^p, truncated. -/
def atanhTerms (num den : Nat) : Nat → Nat → Nat → Nat → Nat
  | 0, _, _, acc => acc
  | fuel + 1, i, t, acc =>
    if t = 0 then acc else atanhTerms num den fuel (i + 2) (t * num * num / (den * den)) (acc + t / i)

/-- The atan series of 1 / n at scale 2^p, truncated. -/
def atanTerms (n : Nat) : Nat → Nat → Nat → Bool → Int → Int
  | 0, _, _, _, acc => acc
  | fuel + 1, i, t, sub, acc =>
    if t = 0 then acc
    else atanTerms n fuel (i + 2) (t / (n * n)) (!sub) (acc + (if sub then -1 else 1) * ((t / i : Nat) : Int))

/-- ln 2 at scale 2^p, within p + 8. -/
def ln2At (p : Nat) : Nat := 2 * atanhTerms 1 3 (p + 4) 1 (2 ^ p / 3) 0

/-- π at scale 2^p, within 40 (p + 8). -/
def piAt (p : Nat) : Nat :=
  (16 * atanTerms 5 (p + 4) 1 (2 ^ p / 5) false 0 - 4 * atanTerms 239 (p + 4) 1 (2 ^ p / 239) false 0).toNat

/-- The sine and cosine series at scale 2^p of an angle a / 2^p, truncated. -/
def trigTerms (p a : Nat) : Nat → Nat → Nat → Bool → Int → Int
  | 0, _, _, _, acc => acc
  | fuel + 1, i, t, sub, acc =>
    if t = 0 then acc
    else trigTerms p a fuel (i + 2) (t * a / 2 ^ p * a / 2 ^ p / (i * (i + 1))) (!sub) (acc + (if sub then -1 else 1) * (t : Int))

/-- Decides a rounding from an enclosure: the top 64 bits, when both ends agree on them. -/
def Enc.decided (x : Enc) : Option (Nat × Int) :=
  if x.lo = 0 then none
  else
    let t := Nat.log2 x.lo + 1 - 64
    if Nat.log2 x.lo < 64 then none
    else if x.lo / 2 ^ t = x.hi / 2 ^ t then some (x.lo / 2 ^ t, x.e + t) else none

/-- Raises the precision until the enclosure decides. -/
def ziv (f : Nat → Enc) : List Nat → Option (Nat × Int)
  | [] => none
  | p :: ps => match (f p).decided with | some r => some r | none => ziv f ps

/-- The working precisions. -/
def precisions : List Nat := [128, 256, 512, 1024, 2048]

/-- Rounds an irrational magnitude given by its enclosures. -/
def roundEnc (f : Fmt) (neg : Bool) (g : Nat → Enc) : Rnd :=
  match ziv g precisions with
  | some (q, e) => roundAbs f false neg q e true
  | none => roundAbs f false neg (g 2048).lo (g 2048).e true

/-- The position of a value's top bit: |x| lies in [2^k, 2^(k+1)). -/
def topBit (m : Nat) (e : Int) : Int := (Nat.log2 m : Int) + e

/-- exp(-|x|) from an enclosure of exp(|x|) at scale 2^p. -/
def encRecip (p : Nat) (r : Nat × Nat) : Enc := ⟨2 ^ (2 * p + 256) / r.2, 2 ^ (2 * p + 256) / r.1 + 1, -(p : Int) - 256⟩

/-- RoundNE(exp(x)) (R55, R183). -/
def fpExp (f : Fmt) (x : Fp) : Rnd :=
  match x with
  | .nan s => ⟨f.nan, if s then fNv else 0⟩
  | .inf neg => ⟨if neg then 0 else f.inf, 0⟩
  | .fin neg m e =>
    if m = 0 then ⟨f.one, 0⟩
    else if 8 ≤ topBit m e then roundAbs f false false 1 (if neg then -1000 else 1000) true
    else roundEnc f false fun p =>
      let r := encExp p m e
      if neg then encRecip p r else ⟨r.1, r.2, -(p : Int)⟩

/-- RoundNE(log(x)) (R55, R183). -/
def fpLog (f : Fmt) (x : Fp) : Rnd :=
  match x with
  | .nan s => ⟨f.nan, if s then fNv else 0⟩
  | .inf neg => if neg then ⟨f.nan, fNv⟩ else ⟨f.inf, 0⟩
  | .fin neg m e =>
    if m = 0 then ⟨f.sign + f.inf, fDz⟩
    else if neg then ⟨f.nan, fNv⟩
    else
      -- x = y 2^k with y = m / 2^l in [1, 2), or in [1/2, 1) when the top two bits are 1
      let l0 := Nat.log2 m
      let l := if 3 * 2 ^ l0 ≤ 2 * m then l0 + 1 else l0
      let k : Int := e + l
      let den := 2 ^ l
      if m = den ∧ k = 0 then ⟨0, 0⟩
      else
        let g := fun p =>
          let pos := decide (den ≤ m)
          let num := if pos then m - den else den - m
          let z := m + den
          let a : Int := 2 * (atanhTerms num z (p + 8) 1 (2 ^ p * num / z) 0 : Nat)
          let v : Int := (if pos then a else -a) + k * ln2At p
          let err : Nat := (k.natAbs + 2) * (4 * p + 64)
          (v, err)
        roundEnc f (decide ((g 128).1 < 0)) fun p =>
          let r := g p
          ⟨r.1.natAbs - r.2, r.1.natAbs + r.2, -(p : Int)⟩

/-- RoundNE(tanh(x)) (R55, R183). -/
def fpTanh (f : Fmt) (x : Fp) : Rnd :=
  match x with
  | .nan s => ⟨f.nan, if s then fNv else 0⟩
  | .inf neg => ⟨(if neg then f.sign else 0) + f.one, 0⟩
  | .fin neg m e =>
    if m = 0 then ⟨if neg then f.sign else 0, 0⟩
    else if 6 ≤ topBit m e then roundAbs f false neg (2 ^ 64 - 1) (-64) true
    else roundEnc f neg fun p =>
      let r := encExp p m (e + 1)
      let one := 2 ^ p
      ⟨(r.1 - one) * 2 ^ p / (r.1 + one), (r.2 - one) * 2 ^ p / (r.2 + one) + 1, -(p : Int)⟩

/-- RoundNE(sigmoid(x)) (R55, R183). -/
def fpSigm (f : Fmt) (x : Fp) : Rnd :=
  match x with
  | .nan s => ⟨f.nan, if s then fNv else 0⟩
  | .inf neg => ⟨if neg then 0 else f.one, 0⟩
  | .fin neg m e =>
    if m = 0 then ⟨f.one - 2 ^ f.frac, 0⟩
    else if 8 ≤ topBit m e then
      (if neg then roundAbs f false false 1 (-1000) true else roundAbs f false false (2 ^ 64 - 1) (-64) true)
    else roundEnc f false fun p =>
      let r := encExp p m e
      let one := 2 ^ p
      let s := 2 ^ (p + 256)
      if neg then ⟨one * s / (r.2 + one), one * s / (r.1 + one) + 1, -(p : Int) - 256⟩
      else ⟨r.1 * s / (r.1 + one), r.2 * s / (r.2 + one) + 1, -(p : Int) - 256⟩

/-- sin and cos of m × 2^e at scale 2^p: for the one asked, its signed approximation and error. -/
def trigAt (p m : Nat) (e : Int) (cosine : Bool) : Int × Nat :=
  -- the angle at scale 2^w, and the quadrant nearest it
  let w := p + 160
  let x := if 0 ≤ e + w then m * 2 ^ (e + w).toNat else m / 2 ^ (-(e + w)).toNat
  let wide := piAt (w + 160)
  let k := (2 ^ 162 * x / wide + 1) / 2
  let r : Int := (x : Int) - ((k * wide / 2 ^ 161 : Nat) : Int)
  -- the reduced angle at scale 2^p
  let a := r.natAbs / 2 ^ 160
  let s := trigTerms p a (p + 8) 2 a false 0
  let c := trigTerms p a (p + 8) 1 (2 ^ p) false 0
  let s := if r < 0 then -s else s
  let q := (if cosine then k + 1 else k) % 4
  ((if q = 0 then s else if q = 1 then c else if q = 2 then -s else -c), 8 * p + 64)

/-- RoundNE(sin(x)) or RoundNE(cos(x)) (R55, R183). -/
def fpTrig (f : Fmt) (cosine : Bool) (x : Fp) : Rnd :=
  match x with
  | .nan s => ⟨f.nan, if s then fNv else 0⟩
  | .inf _ => ⟨f.nan, fNv⟩
  | .fin neg m e =>
    if m = 0 then ⟨if cosine then f.one else if neg then f.sign else 0, 0⟩
    else
      let sign := decide ((trigAt 512 m e cosine).1 < 0)
      roundEnc f (if cosine then sign else sign ^^ neg) fun p =>
        let r := trigAt p m e cosine
        ⟨r.1.natAbs - r.2, r.1.natAbs + r.2, -(p : Int)⟩

end Sys2Proof.Machine
end

