-- ==== Sys2Proof/Machine/Jets.lean ====
section
/-! DEFINITION. Taylor jets (R69-R71), element-wise functions of lanes, and in-vector reductions (R72). A jet is the list of
its coefficients' bit patterns, c_0 first; flags are bits of fp.flags. -/

namespace Sys2Proof.Machine

/-- A jet's result: coefficients, and flags as bits of fp.flags. -/
abbrev JetR := List Nat × Nat

/-- Forms coefficients `k`, `k + 1`, … in order, each from those before it (R69). -/
def jetGo (step : Nat → List Nat → Rnd) : Nat → Nat → List Nat → Nat → JetR
  | 0, _, c, fl => (c, fl)
  | n + 1, k, c, fl =>
    let r := step k c
    jetGo step n (k + 1) (c ++ [r.bits]) (fl ||| rowFlags k r.flags)

/-- The jet of order `n` whose coefficients `step` forms. -/
def jet (n : Nat) (step : Nat → List Nat → Rnd) : JetR := jetGo step (n + 1) 0 [] 0

/-- Coefficient `k` of a jet as a value. -/
def co (f : Fmt) (x : List Nat) (k : Nat) : Fp := f.decode (x.getD k 0)

/-- An integer multiple of a value, exact. -/
def Fp.times (x : Fp) (k : Nat) : Fp := match x with | .fin n m e => .fin n (k * m) e | x => x

/-- The terms of Σ over i from `lo` to `hi` of `t i`. -/
def sumTerms (lo hi : Nat) (t : Nat → Term) : List Term := (List.range (hi + 1 - lo)).map fun i => t (lo + i)

/-- A division step: R(R(…) / d). -/
def divStep (f : Fmt) (x : Rnd) (d : Fp) : Rnd :=
  let r := fpDiv f (f.decode x.bits) d
  ⟨r.bits, x.flags ||| r.flags⟩

/-- a + b, a − b (R70). -/
def jetAdd (f : Fmt) (n : Nat) (sub : Bool) (a b : List Nat) : JetR :=
  jet n fun k _ => rsum f [prod [co f a k], prod [if sub then (co f b k).flip else co f b k]]

/-- a × b (R70). -/
def jetMul (f : Fmt) (n : Nat) (a b : List Nat) : JetR :=
  jet n fun k _ => rsum f (sumTerms 0 k fun i => prod [co f a i, co f b (k - i)])

/-- a × b + d, or −a × b + d (R70, R182). -/
def jetFma (f : Fmt) (n : Nat) (neg : Bool) (a b d : List Nat) : JetR :=
  jet n fun k _ => rsum f (prod [co f d k] ::
    sumTerms 0 k fun i => prod [if neg then (co f a i).flip else co f a i, co f b (k - i)])

/-- a / b (R70). -/
def jetDiv (f : Fmt) (n : Nat) (a b : List Nat) : JetR :=
  jet n fun k c =>
    if k = 0 then fpDiv f (co f a 0) (co f b 0)
    else divStep f (rsum f (prod [co f a k] :: sumTerms 1 k fun i => prod [(co f b i).flip, co f c (k - i)])) (co f b 0)

/-- 1 / b (R70). -/
def jetRcp (f : Fmt) (n : Nat) (b : List Nat) : JetR :=
  jet n fun k c =>
    if k = 0 then fpDiv f (.int 1) (co f b 0)
    else divStep f (rsum f (sumTerms 1 k fun i => prod [(co f b i).flip, co f c (k - i)])) (co f b 0)

/-- sqrt(a) (R70). -/
def jetSqrt (f : Fmt) (n : Nat) (a : List Nat) : JetR :=
  jet n fun k c =>
    if k = 0 then fpSqrt f (co f a 0)
    else divStep f (rsum f (prod [co f a k] :: sumTerms 1 (k - 1) fun i => prod [(co f c i).flip, co f c (k - i)]))
      ((co f c 0).times 2)

/-- 1 / sqrt(a) (R70): the factor i/2 − k is −(2k − i)/2. -/
def jetRsqrt (f : Fmt) (n : Nat) (a : List Nat) : JetR :=
  jet n fun k c =>
    if k = 0 then fpRsqrt f (co f a 0)
    else divStep f (rsum f (sumTerms 1 k fun i => prod [.fin true (2 * k - i) (-1), co f a i, co f c (k - i)]))
      ((co f a 0).times k)

/-- exp(a) (R70). -/
def jetExp (f : Fmt) (n : Nat) (a : List Nat) : JetR :=
  jet n fun k c =>
    if k = 0 then fpExp f (co f a 0)
    else rsumDiv f (sumTerms 1 k fun i => prod [.int i, co f a i, co f c (k - i)]) k

/-- log(a) (R70). -/
def jetLog (f : Fmt) (n : Nat) (a : List Nat) : JetR :=
  jet n fun k c =>
    if k = 0 then fpLog f (co f a 0)
    else divStep f (rsumDiv f (prod [.int k, co f a k] ::
      sumTerms 1 (k - 1) fun i => prod [.int (-(i : Int)), co f c i, co f a (k - i)]) k) (co f a 0)

/-- The jet of c and an auxiliary jet: `base` forms c_0, `aux m c` the auxiliary's coefficient m, c_k is
R((Σ i a_i aux_{k−i}) / k); the auxiliary is formed only below order `n` (R70). -/
def auxGo (f : Fmt) (n : Nat) (base : Rnd) (aux : Nat → List Nat → Rnd) (a : List Nat) :
    Nat → Nat → List Nat → List Nat → Nat → JetR
  | 0, _, c, _, fl => (c, fl)
  | fuel + 1, k, c, u, fl =>
    let r := if k = 0 then base else rsumDiv f (sumTerms 1 k fun i => prod [.int i, co f a i, co f u (k - i)]) k
    let c := c ++ [r.bits]
    let fl := fl ||| rowFlags k r.flags
    if k < n then
      let x := aux k c
      auxGo f n base aux a fuel (k + 1) c (u ++ [x.bits]) (fl ||| rowFlags k x.flags)
    else (c, fl)

/-- tanh(a) with its u jet (R70). -/
def jetTanh (f : Fmt) (n : Nat) (a : List Nat) : JetR :=
  auxGo f n (fpTanh f (co f a 0))
    (fun m c =>
      let sq := sumTerms 0 m fun j => prod [(co f c j).flip, co f c (m - j)]
      rsum f (if m = 0 then prod [.int 1] :: sq else sq)) a (n + 1) 0 [] [] 0

/-- sigmoid(a) with its w jet (R70). -/
def jetSigm (f : Fmt) (n : Nat) (a : List Nat) : JetR :=
  auxGo f n (fpSigm f (co f a 0))
    (fun m c => rsum f (prod [co f c m] :: sumTerms 0 m fun j => prod [(co f c j).flip, co f c (m - j)]))
    a (n + 1) 0 [] [] 0

/-- The coupled sine and cosine jets (R70): `named` is the one asked; the partner is formed only below order `n`. -/
def trigGo (f : Fmt) (n : Nat) (cosine : Bool) (a : List Nat) : Nat → Nat → List Nat → List Nat → Nat → JetR
  | 0, _, x, _, fl => (x, fl)
  | fuel + 1, k, x, y, fl =>
    -- a coefficient of the sine jet comes from the cosine jet, and with a minus sign the other way round
    let next := fun (isCos : Bool) (other : List Nat) =>
      if k = 0 then fpTrig f isCos (co f a 0)
      else rsumDiv f (sumTerms 1 k fun i => prod [.int (if isCos then -(i : Int) else i), co f a i, co f other (k - i)]) k
    let r := next cosine y
    let fl := fl ||| rowFlags k r.flags
    if k < n then
      let q := next (!cosine) x
      trigGo f n cosine a fuel (k + 1) (x ++ [r.bits]) (y ++ [q.bits]) (fl ||| rowFlags k q.flags)
    else (x ++ [r.bits], fl)

/-- sin(a), cos(a) (R70). -/
def jetTrig (f : Fmt) (n : Nat) (cosine : Bool) (a : List Nat) : JetR := trigGo f n cosine a (n + 1) 0 [] [] 0

/-- Inverts the sign bit. -/
def flipSign (f : Fmt) (x : Nat) : Nat := if x / f.sign % 2 = 1 then x - f.sign else x + f.sign

/-- Whether a sign bit is 1. -/
def signOf (f : Fmt) (x : Nat) : Bool := x / f.sign % 2 == 1

/-- −a (R70). -/
def jetNeg (f : Fmt) (a : List Nat) : JetR := (a.map (flipSign f), 0)

/-- abs(a): all coefficients negated when the sign bit of a_0 is 1 (R70). -/
def jetAbs (f : Fmt) (a : List Nat) : JetR := if signOf f (a.headD 0) then jetNeg f a else (a, 0)

/-- VCSGN (R182). -/
def jetCsgn (f : Fmt) (a b : List Nat) : JetR :=
  if signOf f (a.headD 0) ≠ signOf f (b.headD 0) then jetNeg f a else (a, 0)

/-- min, max: chosen by plane 0 (R70). A NaN in a higher coefficient of the chosen jet passes its bits, as R70 gives the whole jet,
although R53 makes NaN results default; and one signalling NaN of plane 0 beside a number sets no nv, since R70 names nv for two
NaNs alone, although R53 speaks of every signalling operand (log 66, DEDUCED). -/
def jetMinMax (f : Fmt) (n : Nat) (isMax : Bool) (a b : List Nat) : JetR :=
  let x := a.headD 0
  let y := b.headD 0
  match f.isNan x, f.isNan y with
  | true, true => (List.replicate (n + 1) f.nan, if f.isSnan x || f.isSnan y then rowFlags 0 fNv else 0)
  | true, false => (b, 0)
  | false, true => (a, 0)
  | false, false =>
    if isMax then (if fpKey f true x < fpKey f true y then (b, 0) else (a, 0))
    else (if fpKey f true y < fpKey f true x then (b, 0) else (a, 0))

/-- The factorial. -/
def fact : Nat → Nat | 0 => 1 | n + 1 => (n + 1) * fact n

/-- R(k! × c) (R71), which makes a quiet NaN the default NaN and flushes a BF16 subnormal (R52, R53), for k = 0 and 1 as for any k:
of R192's prose and its RoundNE the model follows RoundNE (log 80, DEDUCED). -/
def factCoeff (f : Fmt) (k : Nat) (x : Nat) : Rnd := rsum f [prod [.int (fact k), f.decode x]]

/-! ## Lanes -/

/-- Turns planes of elements into lanes of coefficients (or back); `l` is the length of the planes. -/
def lanesOf (l : Nat) (ps : List (List Nat)) : List (List Nat) :=
  ps.foldr (fun p acc => List.zipWith List.cons p acc) (List.replicate l [])

/-- Joins lane results: the lanes' coefficients and the or of their flags. -/
def joinLanes (rs : List JetR) : List (List Nat) × Nat := (rs.map (·.1), rs.foldl (fun a r => a ||| r.2) 0)

/-- The lane of the greatest or least plane-0 value that is no NaN, the lowest-numbered first (R72). -/
def pickLane (f : Fmt) (isMax : Bool) : List (List Nat) → Option (List Nat) → Option (List Nat)
  | [], best => best
  | x :: xs, best =>
    let v := x.headD 0
    if f.isNan v then pickLane f isMax xs best
    else match best with
    | none => pickLane f isMax xs (some x)
    | some b =>
      let better := if isMax then decide (fpKey f true (b.headD 0) < fpKey f true v)
        else decide (fpKey f true v < fpKey f true (b.headD 0))
      pickLane f isMax xs (some (if better then x else b))

/-- In-vector maximum or minimum over lanes (R72): the chosen jet and flags. -/
def reduceMax (f : Fmt) (n : Nat) (isMax : Bool) (lanes : List (List Nat)) : JetR :=
  match pickLane f isMax lanes none with
  | some x => (x, 0)
  | none =>
    (List.replicate (n + 1) f.nan, if lanes.any (fun x => f.isSnan (x.headD 0)) then rowFlags 0 fNv else 0)

/-- In-vector sum of one plane (R72). -/
def reduceSum (f : Fmt) (xs : List Nat) : Rnd := rsum f (xs.map fun x => prod [f.decode x])

/-! ## The reduction tree (R73) -/

/-- A node's combination of its children's planes of 64 FP32 lanes (R73): op 0 sum, 1 maximum, 2 paired maximum and sum
over [m lanes, s lanes]. The result's planes and the row-0 flags. -/
def treeCombine (op : Nat) (kids : List (List (List Nat))) : List (List Nat) × Nat :=
  let f := Fmt.fp32
  let planes := (kids.headD []).length
  let lane := fun (p e : Nat) => kids.map fun k => (k.getD p []).getD e 0
  match op with
  | 0 =>
    let r := (List.range planes).map fun p => (List.range 64).map fun e => reduceSum f (lane p e)
    (r.map (·.map (·.bits)), r.foldl (fun a p => p.foldl (fun a x => a ||| x.flags) a) 0)
  | 1 =>
    let r := (List.range 64).map fun e => reduceMax f 0 true ((lane 0 e).map ([·]))
    ([r.map (·.1.headD 0)], r.foldl (fun a x => a ||| x.2) 0)
  | _ =>
    let r := (List.range 64).map fun e =>
      let m := reduceMax f 0 true ((lane 0 e).map ([·]))
      let mx := m.1.headD 0
      let ds := (lane 0 e).map fun c => rsum f [prod [f.decode c], prod [(f.decode mx).flip]]
      let es := ds.map fun d => fpExp f (f.decode d.bits)
      let s := rsum f (List.zipWith (fun x y => prod [f.decode x, f.decode y.bits]) (lane 1 e) es)
      let fl := m.2 ||| s.flags ||| ds.foldl (fun a x => a ||| x.flags) 0 ||| es.foldl (fun a x => a ||| x.flags) 0
      (mx, s.bits, fl)
    ([r.map (·.1), r.map (·.2.1)], r.foldl (fun a x => a ||| x.2.2) 0)

end Sys2Proof.Machine
end

