-- ==== Sys2Proof/Machine/Operands.lean ====
section
/-! DEFINITION. Operand forms: the immediates of the control stream (R106), the views that name register-space bytes
(R30-R33), and elements in and out of bytes (R31). -/

namespace Sys2Proof.Machine

/-! ## Immediates (R106) -/

/-- A 64-bit two's complement word of an integer. -/
def word (v : Int) : Word64 := BitVec.ofInt 64 v

/-- The words of a LIMM extension. -/
def limmWords : LimmExt → Nat | .none => 0 | .one _ => 1 | .two _ _ => 2

/-- The words of a CI or CM instruction. -/
def immWords {n : Nat} (i : Imm n) : Nat := 1 + limmWords i.ext

/-- The immediate of a CI word (R106): base 15 bits, with two LIMM words the low 64 of the 65 bits. -/
def imm15 (i : Imm 15) : Word64 :=
  match i.ext with
  | .none => i.base.signExtend 64
  | .one a => (a ++ i.base).signExtend 64
  | .two a b => (b ++ a ++ i.base).truncate 64

/-- The immediate of a CM word (R106): base 12 bits. -/
def imm12 (i : Imm 12) : Word64 :=
  match i.ext with
  | .none => i.base.signExtend 64
  | .one a => (a ++ i.base).signExtend 64
  | .two a b => (b ++ a ++ i.base).signExtend 64

/-! ## Views (R30-R33) -/

/-- Fields of a view register (R30). -/
structure View where
  kind : Nat
  fmt : Nat
  first : Nat
  count : Nat
  wq : Nat
  base : Nat
deriving DecidableEq, Repr

def viewOf (w : Word64) : View := ⟨bits w 63 61, bits w 60 58, bits w 57 51, bits w 50 43, bits w 42 38, bits w 14 0⟩

/-- The bytes a name covers at a jet order (R31). -/
def View.size (v : View) (n : Nat) : Nat := if v.kind = 3 then 64 * v.wq * (n + 1) else 256 * (n + 1)

/-- Whether two enabled views are of one class and claim a common name (R32); a reserved kind is of neither class, and a count
of 0 claims no name. -/
def View.clash (a b : View) : Bool :=
  decide (a.kind ≠ 0) && decide (b.kind ≠ 0) && decide (a.count ≠ 0) && decide (b.count ≠ 0) && decide (a.kind ≤ 3) && decide (b.kind ≤ 3) && ((a.kind == 3) == (b.kind == 3)) &&
  decide (a.first < b.first + b.count) && decide (b.first < a.first + a.count)

/-- Whether an enabled view is valid by itself at a jet order (R32). -/
def View.valid (v : View) (n : Nat) : Bool :=
  decide (v.kind ≤ 3) &&
  (if v.kind = 2 then decide (v.fmt ≤ 3) else v.fmt == 0) &&
  (if v.kind = 3 then decide (2 ≤ v.wq) && decide (v.wq ≤ 16) else v.wq == 0) &&
  decide (1 ≤ v.count) &&
  decide (v.first + v.count ≤ if v.kind = 3 then 16 else 128) &&
  (if v.kind = 3 then v.base % 64 == 0 else v.base % 256 == 0) &&
  decide (v.base + v.count * v.size n ≤ if v.base < 0x4000 then 0x4000 else 0x8000)

/-- The lowest view register of a snapshot that fails R32, when one does (R29). -/
def viewFault (views : Vector Word64 8) (n : Nat) : Option Nat :=
  let vs := views.toList.map viewOf
  (List.range 8).find? fun i =>
    let v := vs.getD i (viewOf 0)
    decide (v.kind ≠ 0) &&
      (!(v.valid n) || (List.range 8).any fun j => decide (j ≠ i) && (vs.getD j (viewOf 0)).clash v)

/-- The element class of a named operand (R177). -/
inductive Cls where
  /-- A 32-bit name of a vector view: FP32 or INT32. -/
  | vec
  /-- An accumulator name with its W / 8. -/
  | acc (wq : Nat)
  | bf16 | fp16 | int8 | int4
  /-- lat, FP32 or INT32. -/
  | lat (fp : Bool)
deriving DecidableEq, Repr

/-- An operand: its first byte, the bytes of a plane, the planes, and its class. -/
structure Opnd where
  off : Nat
  plane : Nat
  planes : Nat
  cls : Cls
deriving DecidableEq, Repr

def Opnd.size (o : Opnd) : Nat := o.plane * o.planes

/-- The element width in bits and the elements of a plane (R31, R177). -/
def Cls.width : Cls → Nat | .vec => 32 | .acc wq => 8 * wq | .bf16 => 16 | .fp16 => 16 | .int8 => 8 | .int4 => 4 | .lat _ => 32
def Cls.lanes : Cls → Nat | .vec => 64 | .acc _ => 64 | .bf16 => 128 | .fp16 => 128 | .int8 => 256 | .int4 => 512 | .lat _ => 64

/-- Finds a vector or packed name among the enabled views (R31). -/
def vecName (views : Vector Word64 8) (n name : Nat) : Option Opnd :=
  (views.toList.map viewOf).findSome? fun v =>
    if (v.kind = 1 ∨ v.kind = 2) ∧ v.first ≤ name ∧ name < v.first + v.count then
      some ⟨v.base + (name - v.first) * v.size n, 256, n + 1,
        if v.kind = 1 then .vec else if v.fmt = 0 then .int8 else if v.fmt = 1 then .int4 else if v.fmt = 2 then .bf16 else .fp16⟩
    else none

/-- Finds an accumulator name among the enabled views (R31). -/
def accName (views : Vector Word64 8) (n name : Nat) : Option Opnd :=
  (views.toList.map viewOf).findSome? fun v =>
    if v.kind = 3 ∧ v.first ≤ name ∧ name < v.first + v.count then
      some ⟨v.base + (name - v.first) * v.size n, 64 * v.wq, n + 1, .acc v.wq⟩
    else none

/-- Finds the operand of an 8-bit operand code other than lat (R109). -/
def codeName (views : Vector Word64 8) (n : Nat) (code : BitVec 8) : Option Opnd :=
  if code.toNat < 128 then vecName views n code.toNat
  else if code.toNat < 144 then accName views n (code.toNat - 128)
  else none

/-! ## Elements in bytes (R31) -/

/-- The elements of a plane's bytes, as unsigned numbers. -/
def elemsOf (w : Nat) (b : List Byte) : List Nat :=
  if w = 4 then b.flatMap fun x => [x.toNat % 16, x.toNat / 16]
  else
    let n := w / 8
    (List.range (b.length / n)).map fun i => ofBytes ((b.drop (n * i)).take n)

/-- Packs nibbles into bytes, even elements low. -/
def packNibbles : List Nat → List Byte
  | [] => []
  | [x] => [BitVec.ofNat 8 x]
  | x :: y :: t => BitVec.ofNat 8 (x + 16 * y) :: packNibbles t

/-- The bytes of a plane's elements. -/
def bytesOf (w : Nat) (xs : List Nat) : List Byte :=
  if w = 4 then packNibbles xs else xs.flatMap fun x => toBytes (w / 8) x

/-- Reads every plane of an operand from the register space. -/
def Core.readPlanes (c : Core) (o : Opnd) : List (List Nat) :=
  (List.range o.planes).map fun k => elemsOf o.cls.width (memRead c.regs (o.off + k * o.plane) o.plane)

/-- Reads one plane of an operand. -/
def Core.readPlane (c : Core) (o : Opnd) (k : Nat) : List Nat :=
  elemsOf o.cls.width (memRead c.regs (o.off + k * o.plane) o.plane)

/-- The bytes of an operand's planes. -/
def planeBytes (w : Nat) (ps : List (List Nat)) : List Byte := ps.flatMap (bytesOf w)

/-- The floating-point format of a class (R178). -/
def Cls.fmt : Cls → Option Fmt
  | .vec => some .fp32 | .lat true => some .fp32 | .bf16 => some .bf16 | .fp16 => some .fp16 | _ => none

/-- The integer width of a class (R178): a W = 32 accumulator name is INT32. -/
def Cls.intWidth : Cls → Option Nat
  | .vec => some 32 | .lat false => some 32 | .acc 4 => some 32 | .int8 => some 8 | .int4 => some 4 | _ => none

/-- The bitwise element width of a class (R178). -/
def Cls.bitWidth : Cls → Option Nat
  | .vec => some 32 | .lat _ => some 32 | .acc 4 => some 32 | .bf16 => some 16 | .fp16 => some 16
  | .int8 => some 8 | .int4 => some 4 | _ => none

/-- The register-space bytes that a name of the views claims, for R254. -/
def viewClaims (views : Vector Word64 8) (n a : Nat) : Bool :=
  views.toList.any fun w =>
    let v := viewOf w
    decide (v.kind ≠ 0) && decide (v.base ≤ a) && decide (a < v.base + v.count * v.size n)

end Sys2Proof.Machine
end

