-- ==== Sys2Proof/Machine/VectorAB.lean ====
section
/-! DEFINITION. What the vector stream's words share, and the A and B slots (08): operands and classes (R177-R179, R33,
R34), and the result each instruction lands (R180-R192). -/

namespace Sys2Proof.Machine

/-! ## Words of the vector stream -/

/-- Why a word of a group does not perform: a trap, or a resource it waits for (R237). -/
inductive VErr where
  | trap (t : Trap)
  | lack (w : Wanted)
deriving DecidableEq, Repr

/-- The effect of a word on its core. -/
abbrev VRes := Except VErr Core

/-- Slots, coded as eng of R339. -/
def slotI : Nat := 1
def slotA : Nat := 2
def slotB : Nat := 3
def slotM : Nat := 4
def slotX : Nat := 5

/-- The view snapshot and the jet order that govern a group: the loop command's, or else the registers' own (R29). -/
def Core.snapViews (c : Core) : Vector Word64 8 := match c.loopRun with | some r => r.c.views | none => c.views
def Core.snapOrder (c : Core) : Nat := match c.loopRun with | some r => r.c.order.toNat | none => c.jetOrder.toNat

/-- The address of the group at hand (R27). -/
def Core.groupAddr (c : Core) : Word64 :=
  match c.loopRun with | some r => r.c.start + BitVec.ofNat 64 (4 * r.off) | none => 0

/-- The address a record names for a group: for a portable body its offset in section 2 (R254). -/
def LoopRun.recordAddr (r : LoopRun) (g : Word64) : Word64 :=
  match r.zpf with
  | some o => BitVec.ofNat 64 (o + 4 * r.off)
  | none => g

/-- Where a result comes from (R57, R254). -/
def Core.origin (c : Core) (slot : Nat) : Option Origin :=
  c.loopRun.map fun r => ⟨r.recordAddr c.groupAddr, r.c.cmd, r.iter, r.c, BitVec.ofNat 4 slot, r.zpf.isSome⟩

/-- Land of R8: a result that lands `lat` issue cycles after its word issues; `pass` are the banks of a pass. -/
def Core.emitFrom (c : Core) (pass : Option (Nat × Nat)) (slot lat : Nat) (v : LandVal) (cls : LatClass) (flags : Nat) : Core :=
  { c with landing := c.landing ++ [⟨lat, v, cls, BitVec.ofNat 64 flags, c.origin slot, pass⟩] }

/-- Land of R8 for a word that is no pass. -/
def Core.emit (c : Core) (slot lat : Nat) (v : LandVal) (cls : LatClass) (flags : Nat) : Core :=
  c.emitFrom none slot lat v cls flags

/-- Holds a slot for an occupancy (R243): the count falls by one at the end of each issue cycle. -/
def Core.hold (c : Core) (slot n : Nat) : Core :=
  { c with occ :=
    if slot = 1 then { c.occ with i := n } else if slot = 2 then { c.occ with a := n }
    else if slot = 3 then { c.occ with b := n } else if slot = 4 then { c.occ with m := n } else { c.occ with x := n } }

/-- An illegal-group trap with a check number (R340); the address is that of the group. -/
def groupTrap (c : Core) (check : Nat) : VErr := .trap ⟨causeGroup, 6, check, c.groupAddr.toNat⟩

/-- The eligible results that land in this issue cycle (R34). -/
def Core.latNow (c : Core) : List Landing := c.landing.filter fun l => decide (l.d = 0) && decide (l.lat ≠ .no)

/-- The operand that lat stands for, when exactly one eligible result lands in this cycle (R34). R179 speaks of one jet order n:
where the reader's command has another order than the one that issued the result, the reader's order + 1 planes are read
(log 65, DESIGN CHOICE). -/
def Core.latOpnd (c : Core) : Option Opnd :=
  match c.latNow with
  | [l] =>
    let off := match l.v with | .bytes off _ => off | .sums _ off _ _ _ => off | _ => 0
    some ⟨off, 256, c.snapOrder + 1, .lat (l.lat == .fp32)⟩
  | _ => none

/-! ## A and B words -/

/-- The operations of the A and B slots (R115, R116). -/
inductive AbOp where
  | add | sub | mul | div | fma | fnma | min | max | csgn
  | mov | neg | abs | sqrt | rsqrt | rcp | exp | log | tanh | sigm | sin | cos
  | cmpeq | cmplt | cmple
  | iadd | isub | imul | imin | imax | and | or | xor | shl | shr | sar | icmpeq | icmplt
  | sel
  | cvtFf (tz : Bool) | cvtFi (tz : Bool) (k : Nat) | cvtIf | cvtCi (k : Nat)
  | rsum | rmax | rmin | risum
  | perm | bcast (i : Nat)
  | jseed | jext (f : Bool) (k : Nat) | jset (k : Nat)
deriving DecidableEq, Repr

/-- An A or B word: operation, slot bit, destination and source codes. -/
structure AbWord where
  op : AbOp
  s : Bool
  d : BitVec 8
  a : BitVec 8
  b : Option (BitVec 8)
deriving DecidableEq, Repr

/-- The A or B word of an instruction. -/
def abWord (i : Instr) : Option AbWord :=
  match i with
  | .vadd _ s d a b => some ⟨.add, s, d, a, some b⟩
  | .vsub _ s d a b => some ⟨.sub, s, d, a, some b⟩
  | .vmul _ s d a b => some ⟨.mul, s, d, a, some b⟩
  | .vdiv _ s d a b => some ⟨.div, s, d, a, some b⟩
  | .vfma _ s d a b => some ⟨.fma, s, d, a, some b⟩
  | .vfnma _ s d a b => some ⟨.fnma, s, d, a, some b⟩
  | .vmin _ s d a b => some ⟨.min, s, d, a, some b⟩
  | .vmax _ s d a b => some ⟨.max, s, d, a, some b⟩
  | .vcsgn _ s d a b => some ⟨.csgn, s, d, a, some b⟩
  | .vmov _ s d a => some ⟨.mov, s, d, a, none⟩
  | .vneg _ s d a => some ⟨.neg, s, d, a, none⟩
  | .vabs _ s d a => some ⟨.abs, s, d, a, none⟩
  | .vsqrt _ s d a => some ⟨.sqrt, s, d, a, none⟩
  | .vrsqrt _ s d a => some ⟨.rsqrt, s, d, a, none⟩
  | .vrcp _ s d a => some ⟨.rcp, s, d, a, none⟩
  | .vexp _ s d a => some ⟨.exp, s, d, a, none⟩
  | .vlog _ s d a => some ⟨.log, s, d, a, none⟩
  | .vtanh _ s d a => some ⟨.tanh, s, d, a, none⟩
  | .vsigm _ s d a => some ⟨.sigm, s, d, a, none⟩
  | .vsin _ s d a => some ⟨.sin, s, d, a, none⟩
  | .vcos _ s d a => some ⟨.cos, s, d, a, none⟩
  | .vcmpeq _ s d a b => some ⟨.cmpeq, s, d, a, some b⟩
  | .vcmplt _ s d a b => some ⟨.cmplt, s, d, a, some b⟩
  | .vcmple _ s d a b => some ⟨.cmple, s, d, a, some b⟩
  | .viadd _ s d a b => some ⟨.iadd, s, d, a, some b⟩
  | .visub _ s d a b => some ⟨.isub, s, d, a, some b⟩
  | .vimul _ s d a b => some ⟨.imul, s, d, a, some b⟩
  | .vimin _ s d a b => some ⟨.imin, s, d, a, some b⟩
  | .vimax _ s d a b => some ⟨.imax, s, d, a, some b⟩
  | .vand _ s d a b => some ⟨.and, s, d, a, some b⟩
  | .vor _ s d a b => some ⟨.or, s, d, a, some b⟩
  | .vxor _ s d a b => some ⟨.xor, s, d, a, some b⟩
  | .vshl _ s d a b => some ⟨.shl, s, d, a, some b⟩
  | .vshr _ s d a b => some ⟨.shr, s, d, a, some b⟩
  | .vsar _ s d a b => some ⟨.sar, s, d, a, some b⟩
  | .vicmpeq _ s d a b => some ⟨.icmpeq, s, d, a, some b⟩
  | .vicmplt _ s d a b => some ⟨.icmplt, s, d, a, some b⟩
  | .vsel _ s d a b => some ⟨.sel, s, d, a, some b⟩
  | .cvtFf _ s d a t => some ⟨.cvtFf t, s, d, a, none⟩
  | .cvtFi _ s d a t k => some ⟨.cvtFi t k.toNat, s, d, a, none⟩
  | .cvtIf _ s d a => some ⟨.cvtIf, s, d, a, none⟩
  | .cvtCi _ s d a k => some ⟨.cvtCi k.toNat, s, d, a, none⟩
  | .vrsum _ s d a => some ⟨.rsum, s, d, a, none⟩
  | .vrmax _ s d a => some ⟨.rmax, s, d, a, none⟩
  | .vrmin _ s d a => some ⟨.rmin, s, d, a, none⟩
  | .vrisum _ s d a => some ⟨.risum, s, d, a, none⟩
  | .vperm _ s d a b => some ⟨.perm, s, d, a, some b⟩
  | .vbcast _ s d a i => some ⟨.bcast i.toNat, s, d, a, none⟩
  | .jseed _ s d a => some ⟨.jseed, s, d, a, none⟩
  | .jext _ s d a f k => some ⟨.jext f k.toNat, s, d, a, none⟩
  | .jset _ s d a k => some ⟨.jset k.toNat, s, d, a, none⟩
  | _ => none

/-- The slot of an A or B word (R114). -/
def AbWord.slot (w : AbWord) : Nat := if w.s then slotB else slotA

/-- The latency (R193). -/
def AbOp.latency (op : AbOp) (n : Nat) : Nat :=
  match op with
  | .mov | .neg | .abs | .csgn | .and | .or | .xor | .sel | .bcast _ | .jseed | .jset _ => 1 + n
  | .jext f _ => if f then 4 + n else 1 + n
  | .iadd | .isub | .imin | .imax | .shl | .shr | .sar | .icmpeq | .icmplt | .cmpeq | .cmplt | .cmple | .min | .max
  | .perm => 2 + n
  | .add | .sub | .mul | .fma | .fnma | .imul | .cvtFf _ | .cvtFi _ _ | .cvtIf | .cvtCi _ => 4 + n
  | .rsum | .rmax | .rmin | .risum => 6 + n
  | .div | .sqrt => 14 + 14 * n
  | .rcp | .rsqrt => 10 + 14 * n
  | .log => 18 + 14 * n
  | .exp | .tanh | .sigm | .sin | .cos => 18 + 6 * n

/-- Whether the destination is also read (R121, R185). -/
def AbOp.readsDest (op : AbOp) : Bool := op == .fma || op == .fnma || op == .sel

/-- The operands of an A or B word: destination, first and second source; none where a name is claimed by no view, or
lat carries nothing. -/
structure AbOps where
  d : Opnd
  a : Opnd
  b : Opnd
deriving DecidableEq, Repr

/-- A source operand: a name, or lat (R109, R34). -/
def Core.source (c : Core) (code : BitVec 8) : Option Opnd :=
  if code.toNat = 144 then c.latOpnd else codeName c.snapViews c.snapOrder code

/-- Whether two classes are one floating-point class (R178). -/
def sameFmt (x y : Cls) : Bool := x.fmt.isSome && x.fmt == y.fmt
def sameInt (x y : Cls) : Bool := x.intWidth.isSome && x.intWidth == y.intWidth
def sameBits (x y : Cls) : Bool := x.bitWidth.isSome && x.bitWidth == y.bitWidth

/-- Whether a code kind fits an INT4 element: INTn with n ≤ 4 (R187). -/
def kindFits4 (k : Nat) : Bool := decide (k < 4) || (decide (8 ≤ k) && decide (k < 12))

/-- The class rules of R178, R187, R190 and R191 (an index past the lanes is check 11, by R191). -/
def AbOp.classOk (op : AbOp) (o : AbOps) : Bool :=
  let d := o.d.cls
  let a := o.a.cls
  let b := o.b.cls
  match op with
  | .add | .sub | .mul | .div | .fma | .fnma | .min | .max | .csgn | .cmpeq | .cmplt | .cmple =>
    sameFmt d a && sameFmt a b
  | .neg | .abs | .sqrt | .rsqrt | .rcp | .exp | .log | .tanh | .sigm | .sin | .cos | .rsum | .rmax | .rmin
  | .jseed | .jext _ _ | .jset _ => sameFmt d a
  | .iadd | .isub | .imul | .imin | .imax | .shl | .shr | .sar | .icmpeq | .icmplt => sameInt d a && sameInt a b
  | .risum => d.intWidth == some 32 && a.intWidth == some 32
  | .mov | .bcast _ => sameBits d a
  | .and | .or | .xor | .sel => sameBits d a && sameBits a b
  | .perm => sameBits d a && sameBits a b && d.bitWidth != some 4
  | .cvtFf _ => d.fmt.isSome && a.fmt.isSome
  | .cvtFi _ k =>
    a.fmt.isSome && (if k = 31 then d.intWidth == some 32 else d == .int8 || (d == .int4 && kindFits4 k))
  | .cvtIf => a.intWidth == some 32 && d.fmt.isSome
  | .cvtCi k => d.intWidth == some 32 && (a == .int8 || (a == .int4 && kindFits4 k))

/-- The entry's own checks (check 11): an index past the lanes (R191), a coefficient above the order (R192). -/
def AbOp.ownOk (op : AbOp) (n : Nat) (o : AbOps) : Bool :=
  match op with
  | .bcast i => decide (i < o.a.cls.lanes)
  | .jext _ k | .jset k => decide (k ≤ n)
  | _ => true

/-- Lane-wise results of two integer elements of width `w` (R186). -/
def intOp (op : AbOp) (w x y : Nat) : Nat :=
  let sx := sext w x
  let sy := sext w y
  match op with
  | .iadd => (x + y) % 2 ^ w
  | .isub => (x + 2 ^ w - y) % 2 ^ w
  | .imul => x * y % 2 ^ w
  | .imin => if sy < sx then y else x
  | .imax => if sx < sy then y else x
  | .and => Nat.land x y
  | .or => Nat.lor x y
  | .xor => Nat.xor x y
  | .shl => x * 2 ^ (y % w) % 2 ^ w
  | .shr => x / 2 ^ (y % w)
  | .sar => wrapInt w (sx / 2 ^ (y % w))
  | _ => 0

/-- A lane compare (R184): the truth and the nv flag. -/
def cmpOp (op : AbOp) (f : Fmt) (w x y : Nat) : Bool × Nat :=
  match op with
  | .cmpeq =>
    let nan := f.isNan x || f.isNan y
    (!nan && fpKey f false x == fpKey f false y, if f.isSnan x || f.isSnan y then rowFlags 0 fNv else 0)
  | .cmplt =>
    if f.isNan x || f.isNan y then (false, rowFlags 0 fNv) else (decide (fpKey f false x < fpKey f false y), 0)
  | .cmple =>
    if f.isNan x || f.isNan y then (false, rowFlags 0 fNv) else (decide (fpKey f false x ≤ fpKey f false y), 0)
  | .icmpeq => (x == y, 0)
  | _ => (decide (sext w x < sext w y), 0)

/-- Pads a plane with zeros to `l` elements. -/
def padTo (l : Nat) (xs : List Nat) : List Nat := (xs.take l) ++ List.replicate (l - xs.length) 0

/-- A conversion of one element of plane `k` (R188): the element and flags. One format into itself rounds nothing, so the
flush of R52 does not act; only a signalling NaN becomes the default NaN (R53; log 21, DEDUCED). -/
def cvtElem (op : AbOp) (src dst : Cls) (k x : Nat) : Nat × Nat :=
  match op with
  | .cvtFf tz =>
    let r := fpToFp tz (dst.fmt.getD .fp32) ((src.fmt.getD .fp32).decode x)
    if dst.fmt == src.fmt && !(src.fmt.getD .fp32).isSnan x then (x, 0) else (r.bits, rowFlags k r.flags)
  | .cvtFi tz kind =>
    let r := fpToInt tz (if kind = 31 then .int32 else (Kind.ofCode kind).getD .ternary) k ((src.fmt.getD .fp32).decode x)
    (wrapInt dst.width r.1, r.2)
  | .cvtIf =>
    let r := intToFp (dst.fmt.getD .fp32) (sext 32 x)
    (r.bits, rowFlags k r.flags)
  | .cvtCi kind => (wrapInt 32 (codeValue ((Kind.ofCode kind).getD .ternary) x), 0)
  | _ => (x, 0)

/-- The result of an A or B word on operand planes: the planes of the destination and the flags (R182-R192). -/
def abResult (op : AbOp) (n : Nat) (o : AbOps) (d a b : List (List Nat)) : List (List Nat) × Nat :=
  let f := (o.a.cls.fmt).getD .fp32
  let w := o.d.cls.width
  let l := o.a.cls.lanes
  let jets1 := fun (g : List Nat → JetR) =>
    let r := joinLanes ((lanesOf l a).map g)
    (lanesOf (n + 1) r.1, r.2)
  let jets2 := fun (g : List Nat → List Nat → JetR) =>
    let r := joinLanes (List.zipWith g (lanesOf l a) (lanesOf l b))
    (lanesOf (n + 1) r.1, r.2)
  let jets3 := fun (neg : Bool) =>
    let r := joinLanes (List.zipWith (fun (p : List Nat × List Nat) z => jetFma f n neg p.1 p.2 z)
      (List.zip (lanesOf l a) (lanesOf l b)) (lanesOf l d))
    (lanesOf (n + 1) r.1, r.2)
  let zeros := List.replicate n (List.replicate o.d.cls.lanes 0)
  match op with
  | .add => jets2 (jetAdd f n false)
  | .sub => jets2 (jetAdd f n true)
  | .mul => jets2 (jetMul f n)
  | .div => jets2 (jetDiv f n)
  | .fma => jets3 false
  | .fnma => jets3 true
  | .min => jets2 (jetMinMax f n false)
  | .max => jets2 (jetMinMax f n true)
  | .csgn => jets2 (jetCsgn f)
  | .mov => (a, 0)
  | .neg => jets1 (jetNeg f)
  | .abs => jets1 (jetAbs f)
  | .sqrt => jets1 (jetSqrt f n)
  | .rsqrt => jets1 (jetRsqrt f n)
  | .rcp => jets1 (jetRcp f n)
  | .exp => jets1 (jetExp f n)
  | .log => jets1 (jetLog f n)
  | .tanh => jets1 (jetTanh f n)
  | .sigm => jets1 (jetSigm f n)
  | .sin => jets1 (jetTrig f n false)
  | .cos => jets1 (jetTrig f n true)
  | .cmpeq | .cmplt | .cmple | .icmpeq | .icmplt =>
    let r := List.zipWith (cmpOp op f w) (a.headD []) (b.headD [])
    (r.map (fun p => if p.1 then 2 ^ w - 1 else 0) :: zeros, r.foldl (fun x p => x ||| p.2) 0)
  | .iadd | .isub | .imul | .imin | .imax | .and | .or | .xor | .shl | .shr | .sar =>
    (List.zipWith (fun x y => List.zipWith (intOp op w) x y) a b, 0)
  | .sel =>
    let pick := List.zipWith (fun (m : Nat) (p : List Nat × List Nat) => if m ≠ 0 then p.1 else p.2)
      (d.headD []) (List.zip (lanesOf l a) (lanesOf l b))
    (lanesOf (n + 1) pick, 0)
  | .cvtFf _ | .cvtFi _ _ | .cvtIf | .cvtCi _ =>
    let m := Nat.min l o.d.cls.lanes
    let r := (a.zipIdx).map fun (p : List Nat × Nat) => (p.1.take m).map (cvtElem op o.a.cls o.d.cls p.2)
    (r.map (fun p => padTo o.d.cls.lanes (p.map (·.1))), r.foldl (fun x p => p.foldl (fun y e => y ||| e.2) x) 0)
  | .rsum =>
    let r := a.map (reduceSum f)
    (r.map (fun x => List.replicate l x.bits), (r.zipIdx).foldl (fun x p => x ||| rowFlags p.2 p.1.flags) 0)
  | .risum => (a.map (fun p => List.replicate l (p.foldl (· + ·) 0 % 2 ^ 32)), 0)
  | .rmax | .rmin =>
    let r := reduceMax f n (op == .rmax) (lanesOf l a)
    (r.1.map (List.replicate l), r.2)
  | .perm =>
    let lanes := lanesOf l a
    (lanesOf (n + 1) ((b.headD []).map fun j => lanes.getD (j % l) []), 0)
  | .bcast i => (a.map (fun p => List.replicate l (p.getD i 0)), 0)
  | .jseed =>
    ((a.headD [] :: (if n = 0 then [] else List.replicate l f.one :: List.replicate (n - 1) (List.replicate l 0))), 0)
  | .jext fact k =>
    let p := a.getD k []
    if fact then
      let r := p.map (factCoeff f k)
      (r.map (·.bits) :: zeros, r.foldl (fun x e => x ||| rowFlags 0 e.flags) 0)
    else (p :: zeros, 0)
  | .jset k => ((d.set k (a.headD [])), 0)

/-- The register-space bytes a word lands in: all of its destination, or plane `k` for JSET (R192). -/
def AbOp.writeRange (op : AbOp) (d : Opnd) : Nat × Nat :=
  match op with
  | .jset k => (d.off + k * d.plane, d.plane)
  | _ => (d.off, d.size)

/-- Lands the result of an A or B word whose operands are legal. -/
def Core.abLand (c : Core) (w : AbWord) (o : AbOps) : Core :=
  let n := c.snapOrder
  let r := abResult w.op n o (c.readPlanes o.d) (c.readPlanes o.a) (c.readPlanes o.b)
  let bytes := planeBytes o.d.cls.width r.1
  let v := match w.op with
    | .jset k => (bytes.drop (k * o.d.plane)).take o.d.plane
    | _ => bytes
  (c.emit w.slot (w.op.latency n) (.bytes (w.op.writeRange o.d).1 v) .no r.2).hold w.slot (n + 1)

/-- The cluster of an operand is that of its slot (R179); lat lies in either. -/
def clusterOk (s : Bool) (o : Opnd) : Bool :=
  match o.cls with
  | .lat _ => true
  | _ => if s then decide (0x4000 ≤ o.off) else decide (o.off + o.size ≤ 0x4000)

/-- What the decode of a group knows of one of its words (R120, R121): slot, issue occupancy, latency of its landing,
the register-space bytes it reads (operand, offset, length) and writes, and the registers and queues it reads (rr) and
writes, pushes or pops (rw), as numbers: index registers 0-15, stream registers 16-23, data queues 24-31, the parameter
queue 32, the address queue 33. -/
structure WInfo where
  slot : Nat
  occ : Nat
  lat : Option Nat
  reads : List (Nat × Nat × Nat)
  writes : List (Nat × Nat)
  rr : List Nat
  rw : List Nat
deriving DecidableEq, Repr

/-- The classes lat may have where it carries nothing, so that the class check of R122 comes before check 9. -/
def latGuesses (o : Option Opnd) (code : BitVec 8) : List Opnd :=
  match o with
  | some x => [x]
  | none => if code.toNat = 144 then [⟨0, 256, 1, .lat true⟩, ⟨0, 256, 1, .lat false⟩] else []

/-- The checks of an A or B word in the order of R122, step 4: cluster (2), view, name and class (3), lat (9), own (11);
or its operands. -/
def Core.abCheck (c : Core) (w : AbWord) : Except Nat AbOps :=
  let b := w.b.getD w.a
  let d := codeName c.snapViews c.snapOrder w.d
  let x := c.source w.a
  let y := c.source b
  if !((d.all (clusterOk w.s)) && (x.all (clusterOk w.s)) && (y.all (clusterOk w.s))) then .error 2
  else
    let fits := (latGuesses d w.d).any fun d => (latGuesses x w.a).any fun x => (latGuesses y b).any fun y =>
      w.op.classOk ⟨d, x, y⟩
    if !fits then .error 3
    else match d, x, y with
      | some d, some x, some y => if w.op.ownOk c.snapOrder ⟨d, x, y⟩ then .ok ⟨d, x, y⟩ else .error 11
      | _, _, _ => .error 9

/-- The bytes of a source an operation reads (R120): compares read plane 0 of both, VPERM plane 0 of vb, JSEED and JSET
plane 0 and JEXT plane k of va. VBCAST's va and the va of a conversion to fewer lanes count whole, since R120 does not name them
(log 65, DEDUCED). -/
def AbOp.readRange (op : AbOp) (second : Bool) (o : Opnd) : Nat × Nat :=
  match op with
  | .cmpeq | .cmplt | .cmple | .icmpeq | .icmplt | .jseed | .jset _ => (o.off, o.plane)
  | .perm => if second then (o.off, o.plane) else (o.off, o.size)
  | .jext _ k => (o.off + k * o.plane, o.plane)
  | _ => (o.off, o.size)

/-- What the decode of a group knows of an A or B word; a read of lat counts none (R121). VSEL's mask and VCSGN's vb count in all
their planes, since R120's list of exceptions does not name them (log 65, DEDUCED). -/
def Core.abInfo (c : Core) (w : AbWord) : Except Nat WInfo := do
  let o ← c.abCheck w
  let n := c.snapOrder
  let src (code : BitVec 8) (second : Bool) (x : Opnd) : List (Nat × Nat × Nat) :=
    if code.toNat = 144 then [] else [(code.toNat, w.op.readRange second x)]
  let dst := if w.op.readsDest then
      [(w.d.toNat, o.d.off, o.d.size)] else []
  return { slot := w.slot, occ := n + 1, lat := some (w.op.latency n)
           reads := dst ++ src w.a false o.a ++ (match w.b with | some b => src b true o.b | none => [])
           writes := [w.op.writeRange o.d], rr := [], rw := [] }

/-- The effect of an A or B word (R182-R192). -/
def abKernel (w : AbWord) (c : Core) : VRes :=
  match c.abCheck w with
  | .ok o => .ok (c.abLand w o)
  | .error n => .error (groupTrap c n)

end Sys2Proof.Machine
end

