-- ==== Sys2Proof/Machine/Matrix.lean ====
section
/-! DEFINITION. The M slot (09): the operand checks of R194-R200, compute-in-memory passes and swaps, the codebook path,
rescale and quantise. -/

namespace Sys2Proof.Machine

/-! ## Operand checks -/

/-- A vector name of a class the operand table of R195 allows. -/
def Core.nameOf (c : Core) (name : Nat) (ok : Cls → Bool) : Except Nat Opnd :=
  match vecName c.snapViews c.snapOrder name with
  | some o => if ok o.cls then .ok o else .error 3
  | none => .error 3

/-- An accumulator name (R195). -/
def Core.accOf (c : Core) (acc : Nat) : Except Nat Opnd :=
  match accName c.snapViews c.snapOrder acc with
  | some o => .ok o
  | none => .error 3

/-- Whether one enabled view of a kind claims `k` names from a name (R200). -/
def oneView (views : Vector Word64 8) (kind name k : Nat) : Bool :=
  views.toList.any fun w =>
    let v := viewOf w
    v.kind == kind && decide (v.first ≤ name) && decide (name + k ≤ v.first + v.count)

/-- The W / 8 of an accumulator operand. -/
def Cls.wq : Cls → Nat | .acc wq => wq | _ => 4

/-- What lat carries in a landing into an accumulator name (R34). -/
def accLat (o : Opnd) : LatClass := if o.cls.wq = 4 then .int32 else .no

/-! ## Weights (R198) -/

/-- Weights per column: K of R198. -/
def Bank.depthK (b : Bank) : Nat := 768 / b.ps

/-- The address of a bank's active half (R36, R75). -/
def Core.activeBase (c : Core) (b : BitVec 5) : Nat :=
  windowBase b + (if (c.bank b).active then 0x1800 else 0)

/-- The address of a bank's shadow half. -/
def Core.shadowBase (c : Core) (b : BitVec 5) : Nat :=
  windowBase b + (if (c.bank b).active then 0 else 0x1800)

/-- The bits of weight `i` of a column, of which bit `b` is row b × K + i. -/
def weightBits (col k i : Nat) : Nat → Nat
  | 0 => 0
  | p + 1 => weightBits col k i p + 2 ^ p * (col / 2 ^ (p * k + i) % 2)

/-- The value of a weight's bits under a bank's kind (R198, R48). -/
def Bank.weight (b : Bank) (v : Nat) : Int :=
  if b.ternary then (if v = 1 then 1 else if v = 3 then -1 else 0)
  else if b.signed then sext b.ps v else v

/-- The weights of column `j` of a bank's active half. -/
def Core.column (c : Core) (b : BitVec 5) (j : Nat) : List Int :=
  let x := c.bank b
  let col := memNat c.scratch (c.activeBase b + 96 * j) 96
  (List.range x.depthK).map fun i => x.weight (weightBits col x.depthK i x.ps)

/-- Whether a TERNARY bank's active half holds a cell 0b10 in a column. -/
def Core.badTernary (c : Core) (b : BitVec 5) : Bool :=
  (c.bank b).ternary && (List.range 64).any fun j =>
    let col := memNat c.scratch (c.activeBase b + 96 * j) 96
    (List.range 384).any fun i => weightBits col 384 i 2 == 2

/-! ## CIM.PASS (R199-R202) -/

/-- The operands of a pass: bank, lc, act, pa, acc, OVW, N, S. -/
structure PassWord where
  bank : BitVec 5
  lc : BitVec 3
  act : BitVec 7
  pa : BitVec 3
  acc : BitVec 4
  ovw : Bool
  ns : Bool
  sg : Bool
deriving DecidableEq, Repr

def PassWord.c (p : PassWord) : Nat := 2 ^ p.lc.toNat
/-- G column groups and D activation slices (R199). -/
def PassWord.g (p : PassWord) : Nat := if p.ns then min p.c 16 else 1
def PassWord.d (p : PassWord) : Nat := p.c / p.g
/-- Bank B + d × G + g. -/
def PassWord.at (p : PassWord) (d g : Nat) : BitVec 5 := BitVec.ofNat 5 (p.bank.toNat + d * p.g + g)
/-- The activation names a pass reads. -/
def PassWord.names (p : PassWord) (k e : Nat) : Nat := (p.d * k + e - 1) / e
/-- The bits of an activation code. -/
def PassWord.bits (p : PassWord) : Nat := p.pa.toNat + 1
def PassWord.occ (p : PassWord) (n : Nat) : Nat := (n + 1) * p.bits

/-- Step 3 of R122: the first bank of the set that is in SCRATCH mode or of another kind than the first. That the record names the
lowest of several is the model's choice (log 75). -/
def Core.passBank (c : Core) (p : PassWord) : Option (BitVec 5) :=
  let first := c.bank p.bank
  ((List.range p.c).map fun i => BitVec.ofNat 5 (p.bank.toNat + i)).find? fun b =>
    !(c.bank b).compute || (c.bank b).kind != first.kind

/-- The elements of a packed name's plane and the bytes that hold a number of them. -/
def packLen (int4 : Bool) (els : Nat) : Nat := if int4 then (els + 1) / 2 else els

/-- What the decode of a group knows of a pass (R200). -/
def Core.passInfo (c : Core) (p : PassWord) : Except Nat WInfo := do
  let n := c.snapOrder
  let act ← c.nameOf p.act.toNat (fun k => k == .int8 || k == .int4)
  let acc ← c.accOf p.acc.toNat
  let int4 := act.cls == .int4
  let e := if int4 then 512 else 256
  let els := p.d * (c.bank p.bank).depthK
  let k := p.names (c.bank p.bank).depthK e
  -- names past a15 are no names of any view: R199 gives that case the entry's own check
  if !(oneView c.snapViews 2 p.act.toNat k && oneView c.snapViews 3 p.acc.toNat (min p.g (16 - p.acc.toNat))) then .error 3
  if !p.ns && decide (4 < p.c) then .error 11
  if 16 < p.acc.toNat + p.g then .error 11
  if int4 && decide (4 < p.bits) then .error 11
  let reads := (List.range k).flatMap fun j => (List.range (n + 1)).map fun pl =>
    (p.act.toNat, act.off + j * act.size + pl * 256, packLen int4 (min e (els - j * e)))
  return { slot := slotM, occ := p.occ n, lat := some (p.occ n + 6), reads := reads
           writes := [(acc.off, p.g * acc.size)], rr := [], rw := [] }

/-- Activation elements of plane `k`, x from 0 (R200). -/
def Core.activations (c : Core) (p : PassWord) (act : Opnd) (names k : Nat) : List Int :=
  ((List.range names).flatMap fun j =>
    elemsOf act.cls.width (memRead c.regs (act.off + j * act.size + k * 256) 256)).map fun x =>
      let v := x % 2 ^ p.bits
      if p.sg then sext p.bits v else (v : Int)

/-- The exact sum of products of two lists. -/
def dot : List Int → List Int → Int
  | w :: ws, a :: as => w * a + dot ws as
  | _, _ => 0

/-- Sum[g, j, k] of R201 for one plane and column group: columns 0-63. -/
def Core.passSums (c : Core) (p : PassWord) (acts : List Int) (g : Nat) : List Int :=
  (List.range 64).map fun j =>
    ((List.range p.d).map fun d =>
      let b := p.at d g
      dot (c.column b j) (acts.drop (d * (c.bank b).depthK))).sum

/-- The effect of a pass (R201): every column, plane and name lands in one cycle. -/
def Core.passLand (c : Core) (p : PassWord) (act acc : Opnd) : Core :=
  let n := c.snapOrder
  let e := if act.cls = .int4 then 512 else 256
  let names := p.names (c.bank p.bank).depthK e
  let acts := (List.range (n + 1)).map (c.activations p act names)
  let bad := (List.range p.c).any fun i => c.badTernary (BitVec.ofNat 5 (p.bank.toNat + i))
  let lat := p.occ n + 6
  let c' := (List.range p.g).foldl (fun (x : Core) g =>
    x.emitFrom (some (p.bank.toNat, p.c)) slotM lat (.sums (BitVec.ofNat 4 (p.acc.toNat + g)) (acc.off + g * acc.size) acc.cls.wq p.ovw
      (acts.flatMap fun a => c.passSums p a g))
      (if p.g = 1 then accLat acc else .no) (if bad && g == 0 then rowFlags 0 fNv else 0)) c
  c'.hold slotM (p.occ n)

/-- The trap of R202 and R39 for a bank in the wrong mode. -/
def Core.bankTrap (c : Core) (b : BitVec 5) (eng : Nat) : Trap :=
  ⟨causeBankMode, eng, b.toNat, (c.bank b).status⟩

/-- CIM.PASS. -/
def passKernel (p : PassWord) (c : Core) : VRes :=
  match c.passBank p with
  | some b => .error (.trap (c.bankTrap b 6))
  | none =>
    match c.passInfo p, c.nameOf p.act.toNat (fun _ => true), c.accOf p.acc.toNat with
    | .ok _, .ok act, .ok acc => .ok (c.passLand p act acc)
    | .error n, _, _ => .error (groupTrap c n)
    | _, _, _ => .error (groupTrap c 3)

/-! ## CIM.SWAP and CIM.SWAPW (R203, R37) -/

/-- Exchanges a bank's halves. -/
def Bank.swapped (b : Bank) : Bank := { b with active := !b.active, fill := fillStale, count := 0 }

/-- CIM.SWAP, and with `wait` CIM.SWAPW. -/
def swapKernel (wait : Bool) (b : BitVec 5) (c : Core) : VRes :=
  let x := c.bank b
  if !x.compute then .error (.trap (c.bankTrap b slotM))
  else if x.fill = fillFull then .ok ((c.setBank b x.swapped).hold slotM 2)
  else if wait then .error (.lack (.bank b))
  else .error (.trap ⟨causeSwap, slotM, b.toNat, x.status⟩)

/-! ## Scratch operands and queue pops (R196, R197) -/

/-- The checks of a scratch operand of the M slot and of a stream instruction (R196), as a trap of a slot. -/
def Core.operandAt (c : Core) (slot a n align : Nat) : Option Trap :=
  if a % align ≠ 0 then some ⟨causeAlign, slot, a, n⟩
  else match c.extent a n with
    | none => none
    | some .range => some ⟨causeRange, slot, a, n⟩
    | some (.bankMode b) => some (c.bankTrap b slot)

/-- The bytes of a queue from an element index, wrapping at the end of the storage (R42). -/
def Core.queueBytes (c : Core) (q : Qcw) (head : Nat) : Nat → List Byte
  | 0 => []
  | n + 1 => c.readScratch (q.base + head % q.depth * q.esz) q.esz ++ c.queueBytes q (head + 1) n

/-- The oldest `size` bytes of a data queue and the core without them; or the trap or the wait (R197, R234). -/
def Core.popBytes (c : Core) (slot : Nat) (n : BitVec 3) (size : Nat) : Except VErr (List Byte × Core) :=
  let q := c.q n
  if !q.en || q.use ≠ 0 || decide (size < q.esz) then .error (.trap ⟨causeQueueRange, slot, n.toNat, 0⟩)
  else if q.occ * q.esz < size then .error (.lack (.dataQ n))
  else
    let k := size / q.esz
    .ok (c.queueBytes q q.head k, c.setQ n (q.put (q.occ - k) q.tail ((q.head + k) % q.depth)))

/-- The address bits of an index register. -/
def Core.addrOf (c : Core) (i : BitVec 4) : Nat := bits c.idx[i.toNat] 19 0

/-- An index register. -/
def Core.ix (c : Core) (i : BitVec 4) : BitVec 32 := c.idx[i.toNat]

/-! ## ACC.CLR and ACC.CVT (R206) -/

def Core.clrInfo (c : Core) (a : BitVec 4) : Except Nat WInfo := do
  let o ← c.accOf a.toNat
  return { slot := slotM, occ := 1, lat := some 1, reads := [], writes := [(o.off, o.size)], rr := [], rw := [] }

/-- ACC.CLR. -/
def clrKernel (a : BitVec 4) (c : Core) : VRes :=
  match c.accOf a.toNat with
  | .error n => .error (groupTrap c n)
  | .ok o => .ok ((c.emit slotM 1 (.sums a o.off o.cls.wq true (List.replicate (64 * o.planes) 0)) (accLat o) 0).hold slotM 1)

def Core.cvtInfo (c : Core) (d : BitVec 7) (a : BitVec 4) : Except Nat WInfo := do
  let v ← c.nameOf d.toNat (· == .vec)
  let o ← c.accOf a.toNat
  let n := c.snapOrder
  return { slot := slotM, occ := n + 1, lat := some (4 + n), reads := [(128 + a.toNat, o.off, o.size)]
           writes := [(v.off, v.size)], rr := [], rw := [] }

/-- Column values of an accumulator's plane. -/
def Core.accPlane (c : Core) (o : Opnd) (k : Nat) : List Int := (c.readPlane o k).map (sext o.cls.width)

/-- A column's conversion: lane bits and flags (R60). -/
def cvtColumn (int : Bool) (k : Nat) (v : Int) : Nat × Nat :=
  if int then
    let r := satToCode .int32 v
    (wrapInt 32 r.1, r.2)
  else
    let r := intToFp .fp32 v
    (r.bits, rowFlags k r.flags)

/-- Lands planes of lane results with flags. -/
def Core.landLanes (c : Core) (lat occ : Nat) (v : Opnd) (cls : LatClass) (ps : List (List (Nat × Nat))) : Core :=
  (c.emit slotM lat (.bytes v.off (planeBytes 32 (ps.map fun p => p.map (·.1)))) cls
    (ps.foldl (fun f p => p.foldl (fun f x => f ||| x.2) f) 0)).hold slotM occ

/-- ACC.CVT. -/
def cvtKernel (int : Bool) (d : BitVec 7) (a : BitVec 4) (c : Core) : VRes :=
  match c.nameOf d.toNat (· == .vec), c.accOf a.toNat with
  | .ok v, .ok o =>
    let n := c.snapOrder
    .ok (c.landLanes (4 + n) (n + 1) v (if int then .int32 else .fp32)
      ((List.range (n + 1)).map fun k => (c.accPlane o k).map (cvtColumn int k)))
  | _, _ => .error (groupTrap c 3)

/-! ## The codebook path (R207-R209) -/

/-- The product table's place in the register space (R35). -/
def tableBase : Nat := 0x7800

def Core.lutInfo (c : Core) (v : BitVec 7) (i : BitVec 4) : Except Nat WInfo := do
  let o ← c.nameOf v.toNat (· == .int8)
  return { slot := slotM, occ := 4, lat := some 6, reads := [(v.toNat, o.off, 256)], writes := [(tableBase, 2048)]
           rr := [i.toNat], rw := [] }

/-- LUT.BUILD. -/
def lutKernel (v : BitVec 7) (i : BitVec 4) (c : Core) : VRes :=
  match c.nameOf v.toNat (· == .int8) with
  | .error n => .error (groupTrap c n)
  | .ok o =>
    let a := c.addrOf i
    match c.operandAt slotM a 16 16 with
    | some t => .error (.trap t)
    | none =>
      let cb := (c.readScratch a 16).map fun b => sext 8 b.toNat
      let q := bits (c.ix i) 21 20
      let acts := ((c.readPlane o 0).drop (64 * q)).take 64
      let table := acts.flatMap fun x => cb.flatMap fun w => toBytes 2 (wrapInt 16 (w * sext 8 x))
      .ok ((c.emit slotM 6 (.bytes tableBase table) .no 0).hold slotM 4)

/-- The reader number of the table under R121. -/
def tableReader : Nat := 256

/-- What the decode of a group knows of LUT.ACC: its read of the table counts whole for R120 and R121 (log 65, DEDUCED). -/
def Core.lutAccInfo (c : Core) (a : BitVec 4) (q : BitVec 3) (k : BitVec 4) : Except Nat WInfo := do
  let o ← c.accOf a.toNat
  return { slot := slotM, occ := 1, lat := some 3, reads := [(tableReader, tableBase, 2048)], writes := [(o.off, o.plane)]
           rr := [k.toNat], rw := [24 + q.toNat] }

/-- LUT.ACC. -/
def lutAccKernel (a : BitVec 4) (q : BitVec 3) (k : BitVec 4) (c : Core) : VRes :=
  match c.accOf a.toNat with
  | .error n => .error (groupTrap c n)
  | .ok o =>
    match c.popBytes slotM q 128 with
    | .error e => .error e
    | .ok (codes, c') =>
      let g := bits (c.ix k) 3 0
      let nib := elemsOf 4 codes
      let sums := (List.range 64).map fun j => ((List.range 4).map fun t =>
        sext 16 (memNat c.regs (tableBase + 32 * (4 * g + t) + 2 * nib.getD (4 * j + t) 0) 2)).sum
      .ok ((c'.emit slotM 3 (.sums a o.off o.cls.wq false sums) (accLat o) 0).hold slotM 1)

def Core.outlInfo (c : Core) (a : BitVec 4) (v : BitVec 7) (q : BitVec 3) : Except Nat WInfo := do
  let o ← c.accOf a.toNat
  let s ← c.nameOf v.toNat (· == .int8)
  return { slot := slotM, occ := 1, lat := some 3, reads := [(v.toNat, s.off, 256)], writes := [(o.off, o.plane)]
           rr := [], rw := [24 + q.toNat] }

/-- OUTL. -/
def outlKernel (a : BitVec 4) (v : BitVec 7) (q : BitVec 3) (c : Core) : VRes :=
  match c.accOf a.toNat, c.nameOf v.toNat (· == .int8) with
  | .ok o, .ok s =>
    match c.popBytes slotM q 16 with
    | .error e => .error e
    | .ok (b, c') =>
      let triples := elemsOf 32 b
      let acts := c.readPlane s 0
      let sums := (List.range 64).map fun j => (triples.map fun t =>
        if fld t 29 24 = j then sext 16 (fld t 15 0) * sext 8 (acts.getD (fld t 23 16) 0) else 0).sum
      .ok ((c'.emit slotM 3 (.sums a o.off o.cls.wq false sums) (accLat o) 0).hold slotM 1)
  | _, _ => .error (groupTrap c 3)

/-! ## RSC, QNT, QPAR (R210-R213) -/

def Core.rscInfo (c : Core) (d : BitVec 7) (a : BitVec 4) (t : BitVec 4) (q : BitVec 3) : Except Nat WInfo := do
  let v ← c.nameOf d.toNat (· == .vec)
  let o ← c.accOf a.toNat
  let n := c.snapOrder
  return { slot := slotM, occ := n + 1, lat := some (5 + n), reads := [(128 + a.toNat, o.off, o.size)]
           writes := [(v.off, v.size)], rr := [t.toNat]
           rw := if bit (c.ix t) 20 then [] else [24 + q.toNat] }

/-- RSC on operands that pass their checks: `e` holds the group-scale exponents of the columns. -/
def Core.rscLand (c : Core) (v o : Opnd) (a : Nat) (e : List Nat) : Core :=
  let n := c.snapOrder
  let sact := c.scratchNat (a + 256) 4
  c.landLanes (5 + n) (n + 1) v .fp32
    ((List.range (n + 1)).map fun k => ((c.accPlane o k).zipIdx).map fun p =>
      let r := rescale p.1 (c.scratchNat (a + 4 * p.2) 4) sact (e.getD p.2 127)
      (r.bits, rowFlags k r.flags))

/-- RSC. -/
def rscKernel (d : BitVec 7) (a : BitVec 4) (t : BitVec 4) (q : BitVec 3) (c : Core) : VRes :=
  match c.nameOf d.toNat (· == .vec), c.accOf a.toNat with
  | .ok v, .ok o =>
    let x := c.addrOf t
    match c.operandAt slotM x 260 16 with
    | some tr => .error (.trap tr)
    | none =>
      if bit (c.ix t) 20 then .ok (c.rscLand v o x (List.replicate 64 127))
      else match c.popBytes slotM q 64 with
        | .error e => .error e
        | .ok (b, c') => .ok (c'.rscLand v o x (b.map (·.toNat)))
  | _, _ => .error (groupTrap c 3)

/-- The quarter of QNT: byte offset within a plane and length of elements 64q to 64q + 63 (R212). -/
def quarter (i : BitVec 32) (int4 : Bool) : Nat × Nat :=
  if int4 then (32 * (bits i 22 20 % 8), 32) else (64 * (bits i 22 20 % 4), 64)

def Core.qntInfo (c : Core) (d v : BitVec 7) (i : BitVec 4) : Except Nat WInfo := do
  let s ← c.nameOf v.toNat (· == .vec)
  let o ← c.nameOf d.toNat (fun k => k == .int8 || k == .int4)
  let n := c.snapOrder
  let q := quarter (c.ix i) (o.cls == .int4)
  return { slot := slotM, occ := n + 1, lat := some (4 + n), reads := [(v.toNat, s.off, s.size)]
           writes := (List.range (n + 1)).map fun k => (o.off + 256 * k + q.1, q.2), rr := [i.toNat], rw := [] }

/-- QNT. -/
def qntKernel (d v : BitVec 7) (i : BitVec 4) (c : Core) : VRes :=
  match c.nameOf d.toNat (fun k => k == .int8 || k == .int4), c.nameOf v.toNat (· == .vec) with
  | .ok o, .ok s =>
    let n := c.snapOrder
    let a := c.addrOf i
    match c.operandAt slotM a 48 16 with
    | some t => .error (.trap t)
    | none =>
      let q := quarter (c.ix i) (o.cls == .int4)
      let kc := c.scratchNat (a + 34) 1 % 32
      let kind := if o.cls = .int4 && !kindFits4 kc then none else Kind.ofCode kc
      let plane (k : Nat) : List (Nat × Nat) :=
        match kind with
        | none => List.replicate 64 (0, 0)
        | some kd =>
          let z := if k = 0 then sext 16 (c.scratchNat (a + 32) 2) else 0
          let sk := Fmt.fp32.decode (c.scratchNat (a + 4 * k) 4)
          (c.readPlane s k).map fun x =>
            let r := quantCode (Fmt.fp32.decode x) sk z kd k
            (wrapInt o.cls.width r.1, r.2)
      let ps := (List.range (n + 1)).map plane
      let flags := ps.foldl (fun f p => p.foldl (fun f x => f ||| x.2) f) (if kind.isNone then rowFlags 0 fNv else 0)
      .ok (((ps.zipIdx).foldl (fun (x : Core) p =>
        x.emit slotM (4 + n) (.bytes (o.off + 256 * p.2 + q.1) (bytesOf o.cls.width (p.1.map (·.1)))) .no
          (if p.2 = 0 then flags else 0)) c).hold slotM (n + 1))
  | _, _ => .error (groupTrap c 3)

def Core.qparInfo (c : Core) (v : BitVec 7) (i : BitVec 4) : Except Nat WInfo := do
  let s ← c.nameOf v.toNat (· == .vec)
  let n := c.snapOrder
  return { slot := slotM, occ := n + 1, lat := some (8 + n), reads := [(v.toNat, s.off, s.size)], writes := []
           rr := [i.toNat], rw := [] }

/-- The largest and smallest lanes of a plane, or a NaN lane (R213). -/
def planeExtremes (xs : List Nat) : Nat × Nat :=
  match xs.find? Fmt.fp32.isNan with
  | some x => (x, x)
  | none =>
    let k := fpKey .fp32 false
    (xs.foldl (fun a x => if k a < k x then x else a) (xs.headD 0),
     xs.foldl (fun a x => if k x < k a then x else a) (xs.headD 0))

/-- The scale of a plane above 0 (R213): bits and flags. -/
def planeScale (kind : Kind) (k : Nat) (mx mn : Nat) : Nat × Nat :=
  let f := Fmt.fp32
  match f.decode mx, f.decode mn with
  | .fin _ am ae, .fin _ bm be =>
    let big := if fpKey f false (mx % f.sign) < fpKey f false (mn % f.sign) then (bm, be) else (am, ae)
    if big.1 = 0 then (f.one, 0)
    else
      let r := roundRat f false false big.1 kind.qmax big.2
      (r.bits, rowFlags k r.flags)
  | _, _ => (f.one, rowFlags k fNv)

/-- The parameter record QPAR forms and its flags (R211, R213). -/
def Core.qparRecord (c : Core) (s : Opnd) (kc : Nat) : List Byte × Nat :=
  let kind := (Kind.ofCode kc).getD .ternary
  let e0 := planeExtremes (c.readPlane s 0)
  let p0 := quantParams e0.1 e0.2 kind 0
  let rest := (List.range c.snapOrder).map fun j =>
    let e := planeExtremes (c.readPlane s (j + 1))
    planeScale kind (j + 1) e.1 e.2
  let scales := p0.1 :: rest.map (·.1)
  let scales := scales ++ List.replicate (8 - scales.length) Fmt.fp32.one
  (scales.flatMap (toBytes 4) ++ toBytes 2 (wrapInt 16 p0.2.1) ++ toBytes 1 kc ++ List.replicate 13 0,
   rest.foldl (fun f x => f ||| x.2) p0.2.2)

/-- QPAR. -/
def qparKernel (v : BitVec 7) (i : BitVec 4) (k : BitVec 5) (c : Core) : VRes :=
  match c.nameOf v.toNat (· == .vec) with
  | .error n => .error (groupTrap c n)
  | .ok s =>
    let n := c.snapOrder
    let a := c.addrOf i
    match c.operandAt slotM a 48 16 with
    | some t => .error (.trap t)
    | none =>
      let r := c.qparRecord s k.toNat
      .ok ((c.emit slotM (8 + n) (.scratch a r.1) .no r.2).hold slotM (n + 1))

end Sys2Proof.Machine
end

