-- ==== Sys2Proof/Machine/Index.lean ====
section
/-! DEFINITION. The I slot (10): index arithmetic (R215-R218), tensor descriptors and fibre walks (R219-R228), and the
address queue's pushes (R229). -/

namespace Sys2Proof.Machine

/-! ## Index arithmetic -/

/-- The operations of R216. -/
inductive IxOp where
  | add | sub | shl | shr | and | or | mul
deriving DecidableEq, Repr

/-- The result of R216. -/
def ixResult (op : IxOp) (x y : BitVec 32) : BitVec 32 :=
  match op with
  | .add => x + y
  | .sub => x - y
  | .shl => x <<< (y.toNat % 32)
  | .shr => x >>> (y.toNat % 32)
  | .and => x &&& y
  | .or => x ||| y
  | .mul => x * y

/-- The latency of R239. -/
def IxOp.latency (op : IxOp) : Nat := match op with | .mul => 2 | _ => 1

/-- Lands a value in an index register. -/
def Core.emitIx (c : Core) (slot lat : Nat) (d : BitVec 4) (v : BitVec 32) : Core :=
  c.emit slot lat (.index d v) .no 0

/-- What the decode of a group knows of an I word: registers read and written. -/
def ixInfo (lat : Option Nat) (rr rw : List Nat) : WInfo := ⟨slotI, 1, lat, [], [], rr, rw⟩

/-- An index operation on two registers. -/
def ixKernel (op : IxOp) (d a b : BitVec 4) (c : Core) : VRes :=
  .ok ((c.emitIx slotI op.latency d (ixResult op (c.ix a) (c.ix b))).hold slotI 1)

/-- An index operation with an immediate. -/
def ixImmKernel (op : IxOp) (d a : BitVec 4) (i : BitVec 13) (c : Core) : VRes :=
  .ok ((c.emitIx slotI op.latency d (ixResult op (c.ix a) (i.signExtend 32))).hold slotI 1)

/-- The 1 bits of a word of `n` bits. -/
def popCount (n v : Nat) : Nat := ((List.range n).filter fun b => v / 2 ^ b % 2 == 1).length

/-- IPOPC (R217). -/
def popcKernel (d a : BitVec 4) (c : Core) : VRes :=
  .ok ((c.emitIx slotI 1 d (BitVec.ofNat 32 (popCount 32 (c.ix a).toNat))).hold slotI 1)

/-- ILI (R217). -/
def iliKernel (d : BitVec 4) (i : BitVec 21) (c : Core) : VRes :=
  .ok ((c.emitIx slotI 1 d (i.signExtend 32)).hold slotI 1)

/-- The loop index or loop.ofs of the iteration at hand (R217, R27). -/
def Core.loopValue (c : Core) (q : BitVec 3) : BitVec 32 :=
  match c.loopRun with
  | none => 0
  | some r => if q.toNat = 6 then loopOfs r.c r.iter else BitVec.ofNat 32 ((loopIdx r.c.counts r.iter).getD q.toNat 0)

/-- IGET (R217). -/
def igetKernel (d : BitVec 4) (q : BitVec 3) (c : Core) : VRes :=
  .ok ((c.emitIx slotI 1 d (c.loopValue q)).hold slotI 1)

/-- Null of R222. -/
def nullIx : BitVec 32 := BitVec.allOnes 32

/-- ICMPADV (R218). -/
def cmpAdv (p a b : BitVec 32) : BitVec 32 :=
  let pa := bits p 14 0
  let pb := bits p 29 15
  let both := a == nullIx && b == nullIx
  let pa' := if !both && decide (a.toNat ≤ b.toNat) then (pa + 1) % 2 ^ 15 else pa
  let pb' := if !both && decide (b.toNat ≤ a.toNat) then (pb + 1) % 2 ^ 15 else pb
  BitVec.ofNat 32 (pa' + pb' * 2 ^ 15 + (if !both && a == b then 2 ^ 31 else 0))

/-- ICMPADV. -/
def cmpAdvKernel (d a b : BitVec 4) (c : Core) : VRes :=
  .ok ((c.emitIx slotI 1 d (cmpAdv (c.ix d) (c.ix a) (c.ix b))).hold slotI 1)

/-! ## Fibre walks (R219-R228) -/

/-- A stream register. -/
def Core.stream (c : Core) (z : BitVec 3) : Stream := c.streams[z.toNat]

def Core.setStream (c : Core) (z : BitVec 3) (x : Stream) : Core := { c with streams := c.streams.set z.toNat x }

/-- Why a stream instruction does not perform: a trap, or a refill queue that lacks elements, with the core that the
partial effects of R228 leave. -/
inductive ZErr where
  | trap (t : Trap)
  | short (q z : BitVec 3) (c : Core)
deriving DecidableEq, Repr

/-- A walk under way: the core with the pops made, and the core as the partial effects of R228 would leave it. -/
structure Walk where
  c : Core
  mark : Core
deriving DecidableEq, Repr

/-- The malformed-coordinate trap (R221, R340). -/
def malformed (z : BitVec 3) (lvl cause pos : Nat) : ZErr :=
  .trap ⟨causeCoord, slotI, z.toNat + lvl * 2 ^ 8 + cause * 2 ^ 16, pos⟩

/-- The stream-state trap (R223). -/
def streamState (z : BitVec 3) : ZErr := .trap ⟨causeStream, slotI, z.toNat, 0⟩

/-- Reads `n` bytes of scratch for a stream instruction (R223). -/
def Core.zread (c : Core) (a n align : Nat) : Except ZErr Nat :=
  match c.operandAt slotI a n align with
  | some t => .error (.trap t)
  | none => .ok (c.scratchNat a n)

/-- The words of a fibre's bitmap. -/
def Core.bitmapWords (c : Core) (a : Nat) : Nat → Except ZErr (List Nat)
  | 0 => .ok []
  | n + 1 => do
    let w ← c.zread a 8 8
    let ws ← c.bitmapWords (a + 8) n
    return w :: ws

/-- The set bits among bits 0 to n - 1 of a bitmap, ascending. -/
def setBits (ws : List Nat) (n : Nat) : List Nat :=
  ((ws.zipIdx).flatMap fun p => (List.range 64).filterMap fun b =>
    if p.1 / 2 ^ b % 2 = 1 then some (64 * p.2 + b) else none).filter (· < n)

/-- Words of the bitmap of a fibre of size N (R220). -/
def bitmapLen (n : Nat) : Nat := (n + 63) / 64

/-- Pops the next coordinate of a refill queue (R228). -/
def Walk.pop (w : Walk) (z q : BitVec 3) : Except ZErr (Nat × Walk) :=
  let k := w.c.q q
  if k.occ = 0 then .error (.short q z w.mark)
  else .ok (memNat w.c.scratch (k.base + k.head * k.esz) 4,
    { w with c := w.c.setQ q (k.put (k.occ - 1) k.tail ((k.head + 1) % k.depth)) })

/-- Records the partial effects so far: the pops made and a stream's position (R228). -/
def Walk.checkpoint (w : Walk) (z : BitVec 3) (x : Stream) : Walk := { w with mark := w.c.setStream z x }

/-- Coord of R220: the coordinate of position `q` of a fibre, with causes 1 and 3 (R221). -/
def Walk.coord (w : Walk) (z : BitVec 3) (x : Stream) (q : Nat) : Except ZErr (Nat × Walk) := do
  let n := x.size.toNat
  let lvl := x.lvl.toNat
  if x.kind = 0 then return (q - x.org.toNat, w)
  else if x.kind = 2 then
    let ws ← w.c.bitmapWords x.abase.toNat (bitmapLen n)
    if n % 64 ≠ 0 ∧ ws.getLastD 0 / 2 ^ (n % 64) ≠ 0 then .error (malformed z lvl 3 q)
    match (setBits ws n)[q - x.org.toNat]? with
    | some v => return (v, w)
    | none => .error (malformed z lvl 2 q)
  else
    let r ← (if x.src then w.pop z x.qw
      else do return (← w.c.zread (x.abase.toNat + 4 * q) 4 4, w))
    if n ≤ r.1 then .error (malformed z lvl 1 q)
    return r

/-- The end of a fibre: done, with a null coordinate. -/
def Stream.atEnd (x : Stream) : Stream := { x with pos := x.endPos, done := true, crd := nullIx }

/-- Step of R225. -/
def Walk.step (w : Walk) (z : BitVec 3) (x : Stream) : Except ZErr (Stream × Walk) := do
  let q := x.pos.toNat + 1
  if q = x.endPos.toNat then return (x.atEnd, w)
  let r ← w.coord z x q
  if x.kind = 1 ∧ r.1 ≤ x.crd.toNat then .error (malformed z x.lvl.toNat 0 q)
  return ({ x with pos := BitVec.ofNat 32 q, crd := BitVec.ofNat 32 r.1 }, r.2)

/-- ZSKIP's loop (R225), at most `fuel` steps; a stall keeps the steps made (R228). -/
def Walk.skipLoop (z : BitVec 3) (bound : Nat) : Nat → Walk → Stream → Except ZErr (Stream × Walk)
  | 0, w, x => .ok (x, w)
  | fuel + 1, w, x =>
    if x.done || decide (bound ≤ x.crd.toNat) then .ok (x, w)
    else do
      let r ← w.step z x
      Walk.skipLoop z bound fuel (r.2.checkpoint z r.1) r.1

/-- A coordinate the gallop reads, checked for cause 1 and against the nearest lower one it read (R225). -/
def Walk.probe (w : Walk) (z : BitVec 3) (x : Stream) (q prev : Nat) : Except ZErr Nat := do
  let r ← w.coord z x q
  if r.1 ≤ prev then .error (malformed z x.lvl.toNat 0 q)
  return r.1

/-- The gallop of ZSKIP (R225): C at pos + 1, + 2, + 4 ...; gives the last position below the bound with its coordinate,
and the first one known to reach it (end when none). -/
def Walk.gallop (w : Walk) (z : BitVec 3) (x : Stream) (bound : Nat) : Nat → Nat → Nat × Nat → Except ZErr ((Nat × Nat) × Nat)
  | 0, _, lo => .ok (lo, x.endPos.toNat)
  | fuel + 1, step, lo =>
    let q := x.pos.toNat + step
    if x.endPos.toNat ≤ q then .ok (lo, x.endPos.toNat)
    else do
      let v ← w.probe z x q lo.2
      if bound ≤ v then return (lo, q)
      else w.gallop z x bound fuel (2 * step) (q, v)

/-- The halving of ZSKIP's last interval (R225): the first position at or above the bound. -/
def Walk.halve (w : Walk) (z : BitVec 3) (x : Stream) (bound : Nat) : Nat → Nat × Nat → Nat → Except ZErr Nat
  | 0, _, hi => .ok hi
  | fuel + 1, lo, hi =>
    if hi ≤ lo.1 + 1 then .ok hi
    else do
      let mid := (lo.1 + hi) / 2
      let v ← w.probe z x mid lo.2
      if bound ≤ v then w.halve z x bound fuel lo mid else w.halve z x bound fuel (mid, v) hi

/-- ZSKIP (R225). -/
def Walk.skip (w : Walk) (z : BitVec 3) (x : Stream) (bound : Nat) : Except ZErr (Stream × Walk) :=
  if x.done || decide (bound ≤ x.crd.toNat) then .ok (x, w)
  else if x.kind = 0 then
    let q := x.org.toNat + min bound x.size.toNat
    .ok (if q = x.endPos.toNat then x.atEnd
      else { x with pos := BitVec.ofNat 32 q, crd := BitVec.ofNat 32 (q - x.org.toNat) }, w)
  else if x.kind = 1 && !x.src then do
    let g ← w.gallop z x bound 33 1 (x.pos.toNat, x.crd.toNat)
    let q ← w.halve z x bound 33 g.1 g.2
    if q = x.endPos.toNat then return (x.atEnd, w)
    let r ← w.coord z x q
    return ({ x with pos := BitVec.ofNat 32 q, crd := BitVec.ofNat 32 r.1 }, w)
  else Walk.skipLoop z bound (x.endPos.toNat - x.pos.toNat) w x

/-- DrainRest of R228: pops the coordinates of positions pos + 1 to end - 1, at most `fuel` of them; `keep` records the
partial effects. -/
def Walk.drain (z : BitVec 3) (keep : Bool) : Nat → Walk → Stream → Except ZErr (Stream × Walk)
  | 0, w, x => .ok (x, w)
  | fuel + 1, w, x =>
    if x.endPos.toNat ≤ x.pos.toNat + 1 then .ok (x, w)
    else do
      let r ← w.pop z x.qw
      let x := { x with pos := x.pos + 1 }
      Walk.drain z keep fuel (if keep then r.2.checkpoint z x else r.2) x

/-- The descriptor fields of a level that R219 gives, read and checked (R221, cause 5): word 0, pbase, abase. -/
def Core.level (c : Core) (z : BitVec 3) (d l p : Nat) : Except ZErr (Nat × Nat × Nat) := do
  let h ← c.zread d 16 16
  if h % 16 = 0 ∨ 8 < h % 16 ∨ h / 16 ≠ 0 ∨ h % 16 ≤ l then .error (malformed z l 5 p)
  let r ← c.zread (d + 16 + 32 * l) 32 16
  let w0 := r % 2 ^ 64
  let w1 := r / 2 ^ 64 % 2 ^ 64
  let w2 := r / 2 ^ 128 % 2 ^ 64
  let kind := w0 / 2 ^ 62
  let src := fld w0 61 61 = 1
  let pb := w1 % 2 ^ 20
  let ab := w2 % 2 ^ 20
  let pOk := if kind = 1 ∨ kind = 2 then pb % 4 = 0 else pb = 0
  let aOk := if kind = 2 then ab % 8 = 0 else if kind = 3 ∨ (kind = 1 ∧ ¬src) then ab % 4 = 0 else ab = 0
  if fld w0 57 32 ≠ 0 ∨ w0 % 2 ^ 32 = 0 ∨ w1 ≠ pb ∨ w2 ≠ ab ∨ r / 2 ^ 192 ≠ 0 ∨ (src ∧ kind ≠ 1) ∨
      (¬src ∧ fld w0 60 58 ≠ 0) ∨ ¬pOk ∨ ¬aOk then .error (malformed z l 5 p)
  return (w0, pb, ab)

/-- Whether a refill queue feeds an open stream other than `z` (R228). -/
def Core.feedsOther (c : Core) (z q : BitVec 3) : Bool :=
  (List.range 8).any fun i => decide (i ≠ z.toNat) &&
    (let y := c.stream (BitVec.ofNat 3 i); y.isOpen && y.src && y.qw == q)

/-- Open of R224: level `l` of descriptor `d` under parent position `p`; `keep` as for the drain. Causes 2, 4 and 5 are found before
any position of the fibre is read, and their record names the parent position: the model's choice (log 76). -/
def Walk.openAt (w : Walk) (z : BitVec 3) (keep : Bool) (d l p : Nat) : Except ZErr (Stream × Walk) := do
  let old := w.c.stream z
  let dr ← (if old.isOpen && old.src && !old.done then
    Walk.drain z keep (old.endPos.toNat - old.pos.toNat) w old else .ok (old, w))
  let w := dr.2
  let f ← w.c.level z d l p
  let w0 := f.1
  let kind := w0 / 2 ^ 62
  let src := fld w0 61 61 = 1
  let n := w0 % 2 ^ 32
  let q := BitVec.ofNat 3 (fld w0 60 58)
  let k := w.c.q q
  if src ∧ (¬k.en ∨ k.use ≠ 2 ∨ k.esz ≠ 4 ∨ w.c.feedsOther z q) then .error (.trap ⟨causeQueueRange, slotI, q.toNat, 0⟩)
  let ab := if kind = 2 then f.2.2 + 8 * (p * bitmapLen n) else f.2.2
  let oe ← (if kind = 0 then .ok (p * n, p * n + n)
    else if kind = 3 then .ok (p, p + 1)
    else do
      let a ← w.c.zread (f.2.1 + 4 * p) 4 4
      let b ← w.c.zread (f.2.1 + 4 * (p + 1)) 4 4
      return (a, b))
  if oe.2 < oe.1 then .error (malformed z l 2 p)
  if kind = 2 then
    let ws ← w.c.bitmapWords ab (bitmapLen n)
    if (setBits ws n).length ≠ oe.2 - oe.1 then .error (malformed z l 2 p)
  if 2 ^ 32 - 1 ≤ oe.2 then .error (malformed z l 4 p)
  let x : Stream := {
    isOpen := true, done := false, m := false, w := false, kind := BitVec.ofNat 2 kind, lvl := BitVec.ofNat 3 l
    src := decide src, qw := q, desc := BitVec.ofNat 20 d, abase := BitVec.ofNat 20 ab, crd := nullIx
    pos := BitVec.ofNat 32 oe.1, endPos := BitVec.ofNat 32 oe.2, size := BitVec.ofNat 32 n, mcrd := nullIx
    mpos := nullIx, org := BitVec.ofNat 32 oe.1 }
  if oe.1 = oe.2 then return ({ x with done := true }, w)
  let r ← w.coord z x oe.1
  return ({ x with crd := BitVec.ofNat 32 r.1 }, r.2)

/-! ## Stream instructions -/

/-- The stream instructions (R222). -/
inductive ZWord where
  | init (i : BitVec 4) (z l : BitVec 3)
  | nxt (z : BitVec 3)
  | skip (i : BitVec 4) (z : BitVec 3)
  | isect (i : BitVec 4) (z y : BitVec 3)
  | union (i : BitVec 4) (z y : BitVec 3)
  | down (z y : BitVec 3)
  | crd (i : BitVec 4) (z : BitVec 3) (m : Bool)
  | pos (i : BitVec 4) (z : BitVec 3) (m : BitVec 2)
deriving DecidableEq, Repr

/-- The latency of R239. -/
def ZWord.latency : ZWord → Nat
  | .init _ _ _ | .down _ _ | .skip _ _ => 3
  | _ => 1

/-- What a stream instruction lands: streams and index registers. -/
structure ZOut where
  streams : List (BitVec 3 × Stream)
  idx : List (BitVec 4 × BitVec 32)
  w : Walk
deriving DecidableEq, Repr

/-- The register after an even one: i[iE + 1]. -/
def oddOf (i : BitVec 4) : BitVec 4 := i ||| 1

/-- One step of ZISECT (R226). -/
def Walk.isect (w : Walk) (i : BitVec 4) (z y : BitVec 3) (a b : Stream) : Except ZErr ZOut := do
  if a.done || b.done then return ⟨[], [(i, nullIx), (oddOf i, nullIx)], w⟩
  if a.crd = b.crd then
    let ra ← w.step z { a with m := true, mpos := a.pos, mcrd := a.crd }
    let rb ← ra.2.step y { b with m := true, mpos := b.pos, mcrd := a.crd }
    return ⟨[(z, ra.1), (y, rb.1)], [(i, a.pos), (oddOf i, b.pos)], rb.2⟩
  let a' := { a with m := false, mpos := nullIx, mcrd := nullIx }
  let b' := { b with m := false, mpos := nullIx, mcrd := nullIx }
  if a.crd.toNat < b.crd.toNat then
    let ra ← w.step z a'
    return ⟨[(z, ra.1), (y, b')], [(i, nullIx), (oddOf i, nullIx)], ra.2⟩
  let rb ← w.step y b'
  return ⟨[(z, a'), (y, rb.1)], [(i, nullIx), (oddOf i, nullIx)], rb.2⟩

/-- A stream as a union step at coordinate `c` leaves its marks (R226). -/
def Stream.marked (x : Stream) (c : BitVec 32) : Stream :=
  { x with m := x.crd == c, mpos := if x.crd = c then x.pos else nullIx, mcrd := c }

/-- One step of ZUNION (R226). -/
def Walk.union (w : Walk) (i : BitVec 4) (z y : BitVec 3) (a b : Stream) : Except ZErr ZOut := do
  let c := if a.crd.toNat ≤ b.crd.toNat then a.crd else b.crd
  if c = nullIx then return ⟨[], [(i, nullIx), (oddOf i, nullIx)], w⟩
  let a' := a.marked c
  let b' := b.marked c
  let ra ← (if a'.m then w.step z a' else .ok (a', w))
  let rb ← (if b'.m then ra.2.step y b' else .ok (b', ra.2))
  return ⟨[(z, ra.1), (y, rb.1)], [(i, a'.mpos), (oddOf i, b'.mpos)], rb.2⟩

/-- The effect of a stream instruction (R223-R227) on working copies. A ZDOWN on its own parent (zN = zP) whose drain lacks an element
pops nothing until all are there, so a drain of more than the queue holds ends in the queue-stall trap: the model's choice (log 26). -/
def Core.zrun (c : Core) (op : ZWord) : Except ZErr ZOut := do
  let w : Walk := ⟨c, c⟩
  match op with
  | .init i z l =>
    let r ← w.openAt z true (c.addrOf i) l.toNat 0
    return ⟨[(z, r.1)], [], r.2⟩
  | .down z y =>
    let p := c.stream y
    if !p.isOpen || p.done then .error (streamState y)
    let h ← c.zread p.desc.toNat 16 16
    if h % 16 ≤ p.lvl.toNat + 1 then .error (streamState y)
    let r ← w.openAt z (z != y) p.desc.toNat (p.lvl.toNat + 1) p.pos.toNat
    return ⟨[(z, r.1)], [], r.2⟩
  | .nxt z =>
    let x := c.stream z
    if !x.isOpen then .error (streamState z)
    if x.done then return ⟨[], [], w⟩
    let r ← w.step z x
    return ⟨[(z, r.1)], [], r.2⟩
  | .skip i z =>
    let x := c.stream z
    if !x.isOpen then .error (streamState z)
    if x.done || decide ((c.ix i).toNat ≤ x.crd.toNat) then return ⟨[], [], w⟩
    let r ← w.skip z x (c.ix i).toNat
    return ⟨[(z, r.1)], [], r.2⟩
  | .isect i z y =>
    if z = y || !(c.stream z).isOpen then .error (streamState z)
    if !(c.stream y).isOpen then .error (streamState y)
    w.isect i z y (c.stream z) (c.stream y)
  | .union i z y =>
    if z = y || !(c.stream z).isOpen then .error (streamState z)
    if !(c.stream y).isOpen then .error (streamState y)
    w.union i z y (c.stream z) (c.stream y)
  | .crd i z m =>
    let x := c.stream z
    if !x.isOpen then .error (streamState z)
    return ⟨[], [(i, if m then x.mcrd else x.crd)], w⟩
  | .pos i z m =>
    let x := c.stream z
    if !x.isOpen then .error (streamState z)
    return ⟨[], [(i, if m = 0 then x.pos else if m = 1 then x.mpos else if m = 2 then x.endPos else x.org)], w⟩

/-- Lands what a stream instruction lands; its stream waits no more (R228). -/
def Core.zland (c : Core) (op : ZWord) (o : ZOut) : Core :=
  let c := { c with qcw := o.w.c.qcw }
  let c := o.streams.foldl (fun (c : Core) p =>
    (c.setStream p.1 { c.stream p.1 with w := false }).emit slotI op.latency (.stream p.1 { p.2 with w := false }) .no 0) c
  (o.idx.foldl (fun (c : Core) p => c.emitIx slotI op.latency p.1 p.2) c).hold slotI 1

/-- A stream instruction. -/
def zKernel (op : ZWord) (c : Core) : VRes :=
  match c.zrun op with
  | .ok o => .ok (c.zland op o)
  | .error (.trap t) => .error (.trap t)
  | .error (.short q _ _) => .error (.lack (.refill q))

/-- Whether the next step of a stream takes a coordinate from its refill queue (R228). -/
def Stream.pops (x : Stream) : Bool := x.isOpen && x.src && !x.done && x.pos + 1 != x.endPos

/-- The streams that a stream instruction steps at least once (R225, R226). -/
def Core.zsteps (c : Core) (op : ZWord) : List (BitVec 3) :=
  match op with
  | .nxt z => [z]
  | .skip i z => if (c.ix i).toNat ≤ (c.stream z).crd.toNat then [] else [z]
  | .isect _ z y =>
    if (c.stream z).done || (c.stream y).done then []
    else if (c.stream z).crd = (c.stream y).crd then [z, y]
    else if (c.stream z).crd.toNat < (c.stream y).crd.toNat then [z] else [y]
  | .union _ z y =>
    if (c.stream z).crd = (c.stream y).crd then [z, y]
    else if (c.stream z).crd.toNat < (c.stream y).crd.toNat then [z] else [y]
  | _ => []

/-- The streams whose next step takes a coordinate that their refill queue lacks (R228). -/
def Core.zlacks (c : Core) (op : ZWord) : List (BitVec 3) :=
  (c.zsteps op).filter fun z => (c.stream z).pops && (c.q (c.stream z).qw).occ == 0

/-- What a stalled stream instruction leaves: its partial effects, and w set in every stream that waits (R228). -/
def Core.zstalled (c : Core) (op : ZWord) : Core :=
  match c.zrun op with
  | .error (.short _ z k) =>
    (z :: c.zlacks op).foldl (fun (x : Core) y => x.setStream y { x.stream y with w := true }) k
  | _ => c

/-- The refill queues that a stream instruction pops, but for an opening's (R120, R228). -/
def Core.zpops (c : Core) (op : ZWord) : List Nat :=
  ((c.zsteps op).filter fun z => (c.stream z).pops).map fun z => 24 + (c.stream z).qw.toNat

/-- What the decode of a group knows of a stream instruction; an odd iE is check 11 (R223). -/
def Core.zInfo (c : Core) (op : ZWord) : Except Nat WInfo :=
  let z3 (z : BitVec 3) : Nat := 16 + z.toNat
  let pops := c.zpops op
  match op with
  | .init i z _ => .ok (ixInfo (some 3) [i.toNat] [z3 z])
  | .nxt z => .ok (ixInfo (some 1) [z3 z] (z3 z :: pops))
  | .skip i z => .ok (ixInfo (some 3) [i.toNat, z3 z] (z3 z :: pops))
  | .isect i z y | .union i z y =>
    if i.toNat % 2 = 1 then .error 11
    else .ok (ixInfo (some 1) [z3 z, z3 y] ([i.toNat, i.toNat + 1, z3 z, z3 y] ++ pops))
  | .down z y => .ok (ixInfo (some 3) [z3 y] [z3 z])
  | .crd i z _ => .ok (ixInfo (some 1) [z3 z] [i.toNat])
  | .pos i z _ => .ok (ixInfo (some 1) [z3 z] [i.toNat])

/-! ## AQPUSH (R229) -/

/-- AQPUSH. -/
def aqpushKernel (i : BitVec 4) (q : BitVec 3) (c : Core) : VRes :=
  let k := c.q q
  if !k.en || k.use ≠ 0 || c.remap[q.toNat].isNone then .error (.trap ⟨causeQueueRange, slotI, q.toNat, 0⟩)
  else if c.ix i = nullIx then .ok (c.hold slotI 1)
  else if 64 ≤ c.aq.length then .error (.lack .addrQ)
  else
    let pk := match c.loopRun with | some r => r.c.pkey | none => c.ctxPkey
    let stamp := match c.loopRun with | some r => r.c.stamp | none => 0
    let grp := match c.loopRun with | some r => r.recordAddr c.groupAddr | none => 0
    .ok ({ c with aq := c.aq ++ [(⟨c.ix i, q, grp, pk, stamp, false⟩ : AqEntry)] }.hold slotI 1)

end Sys2Proof.Machine
end

