-- ==== Sys2Proof/Machine/Move.lean ====
section
/-! DEFINITION. The X slot (10, R232-R236): loads, stores, queue pops, moves between names, and the flags. -/

namespace Sys2Proof.Machine

/-- b of R239: an operand's size in 256 bytes, rounded up. -/
def Opnd.rows (o : Opnd) : Nat := (o.size + 255) / 256

/-- An X-slot name (R233). -/
def Core.xName (c : Core) (code : BitVec 8) : Except Nat Opnd :=
  match codeName c.snapViews c.snapOrder code with
  | some o => .ok o
  | none => .error 3

/-- What the decode of a group knows of an X word. -/
def xInfo (occ : Nat) (lat : Option Nat) (reads : List (Nat × Nat × Nat)) (writes : List (Nat × Nat)) (rr rw : List Nat) :
    WInfo := ⟨slotX, occ, lat, reads, writes, rr, rw⟩

/-- The scratch address of XLD and XST, with its checks (R232). -/
def Core.xAddr (c : Core) (a : BitVec 4) (i : BitVec 13) (n : Nat) : Except VErr Nat :=
  let x : Int := (c.ix a).toNat + i.toInt * 16
  if x < 0 ∨ 2 ^ 20 ≤ x then .error (.trap ⟨causeRange, slotX, (word x).toNat, n⟩)
  else match c.operandAt slotX x.toNat n 16 with
    | some t => .error (.trap t)
    | none => .ok x.toNat

/-- XLD (R233). -/
def xldKernel (n : BitVec 8) (a : BitVec 4) (i : BitVec 13) (c : Core) : VRes :=
  match c.xName n with
  | .error k => .error (groupTrap c k)
  | .ok o => match c.xAddr a i o.size with
    | .error e => .error e
    | .ok x => .ok ((c.emit slotX (2 + o.rows) (.bytes o.off (c.readScratch x o.size)) .no 0).hold slotX o.rows)

/-- XST (R233). -/
def xstKernel (n : BitVec 8) (a : BitVec 4) (i : BitVec 13) (c : Core) : VRes :=
  match c.xName n with
  | .error k => .error (groupTrap c k)
  | .ok o => match c.xAddr a i o.size with
    | .error e => .error e
    | .ok x => .ok ((c.writeScratch x (memRead c.regs o.off o.size)).hold slotX o.rows)

/-- Whether a queue feeds an open stream (R234). -/
def Core.feeds (c : Core) (q : BitVec 3) : Bool :=
  c.streams.toList.any fun y => y.isOpen && y.src && y.qw == q

/-- DQPOP, and with `peek` DQPEEK (R234). -/
def dqKernel (peek : Bool) (n : BitVec 8) (q : BitVec 3) (c : Core) : VRes :=
  match c.xName n with
  | .error k => .error (groupTrap c k)
  | .ok o =>
    if c.feeds q then .error (.trap ⟨causeQueueRange, slotX, q.toNat, 0⟩)
    else match c.popBytes slotX q o.size with
      | .error e => .error e
      | .ok (b, c') => .ok (((if peek then c else c').emit slotX (2 + o.rows) (.bytes o.off b) .no 0).hold slotX o.rows)

/-- param.ovf (R143): the overflow queue, when enabled. -/
def Core.overflow (c : Core) : Option (BitVec 3) :=
  if bit c.paramOvf 3 then some (BitVec.ofNat 3 (bits c.paramOvf 2 0)) else none

/-- The elements in the overflow queue (R25). -/
def Core.overflowLen (c : Core) : Nat := match c.overflow with | some q => (c.q q).occ | none => 0

/-- Takes the oldest parameter (R25): hardware entries first, then the overflow. -/
def Core.popParam (c : Core) : Option (Word64 × Core) :=
  match c.paramq with
  | v :: t => some (v, { c with paramq := t })
  | [] =>
    match c.overflow with
    | none => none
    | some q =>
      let k := c.q q
      if k.occ = 0 then none
      else some (BitVec.ofNat 64 (memNat c.scratch (k.base + k.head * k.esz) (min k.esz 8)),
        c.setQ q (k.put (k.occ - 1) k.tail ((k.head + 1) % k.depth)))

/-- PPOP (R234). -/
def ppopKernel (d : BitVec 4) (c : Core) : VRes :=
  match c.popParam with
  | none => .error (.lack .paramQ)
  | some (v, c') => .ok ((c'.emitIx slotX 1 d (v.truncate 32)).hold slotX 1)

/-- XMV's operands: lat is check 9, another size is check 11 (R235, R34). -/
def Core.xmvCheck (c : Core) (d v : BitVec 8) : Except Nat (Opnd × Opnd) := do
  let o ← c.xName d
  if v.toNat = 144 then .error 9
  let s ← c.xName v
  if o.size ≠ s.size then .error 11
  return (o, s)

/-- XMV (R235). -/
def xmvKernel (d v : BitVec 8) (c : Core) : VRes :=
  match c.xmvCheck d v with
  | .error k => .error (groupTrap c k)
  | .ok (o, s) =>
    .ok ((c.emit slotX (1 + o.rows) (.bytes o.off (memRead c.regs s.off s.size)) .no 0).hold slotX o.rows)

/-- Event flag `f` as a mask. -/
def flagBit (f : BitVec 4) : BitVec 16 := BitVec.ofNat 16 (2 ^ f.toNat)

/-- Whether event flag `f` is set. -/
def Core.flag (c : Core) (f : BitVec 4) : Bool := bit c.flags f.toNat

/-- FSET in the vector stream (R236): a release of the VS path at core scope. -/
def fsetKernel (f : BitVec 4) (c : Core) : VRes :=
  .ok (({ c with flags := c.flags ||| flagBit f }.release 1).hold slotX 1)

/-- FCLR in the vector stream (R236). -/
def fclrKernel (f : BitVec 4) (c : Core) : VRes :=
  .ok ({ c with flags := c.flags &&& ~~~(flagBit f) }.hold slotX 1)

/-- FTST (R236). -/
def ftstKernel (d f : BitVec 4) (c : Core) : VRes :=
  .ok ((c.emitIx slotX 1 d (BitVec.ofNat 32 (ofBool (c.flag f)))).hold slotX 1)

/-- FRD (R236). -/
def frdKernel (d : BitVec 4) (h : Bool) (c : Core) : VRes :=
  .ok ((c.emitIx slotX 1 d (BitVec.ofNat 32 (if h then bits c.fpFlags 63 32 else bits c.fpFlags 31 0))).hold slotX 1)

end Sys2Proof.Machine
end

