-- ==== Sys2Proof/Machine/Memory.lean ====
section
/-! DEFINITION. Device memory: page tables and walks (R319-R324), the reads and writes base camp makes in a context's
space, and instruction fetch (R104, R134). -/

namespace Sys2Proof.Machine

/-! ## Addresses (R319, R320) -/

/-- Whether an extent lies within one canonical half (R319). -/
def canonical (a : Int) (n : Nat) : Bool :=
  decide (0 ≤ a) && (decide (a + n ≤ 2 ^ 56) || (decide (2 ^ 56 ≤ a) && decide (a + n ≤ 2 ^ 57)))

/-- A frame that R320 refuses: past the last channel, or in a channel's last 256 MiB. -/
def badFrame (pa : Nat) : Bool := decide (48 * 2 ^ 33 ≤ pa) || decide (2 ^ 33 - 2 ^ 28 ≤ pa % 2 ^ 33)

/-- The compute die a frame is homed on (R320). -/
def homeDie (pa : Nat) : Nat := pa / 2 ^ 33 / 12

/-- Whether the memory of a die is ready, by dev.ready (R359). -/
def memReady (rdy : BitVec 16) (die : Nat) : Bool := bit rdy (3 + die)

/-- Whether a frame is refused: by R320, or while its die's memory is not ready (R360). -/
def frameRefused (rdy : BitVec 16) (pa : Nat) : Bool := badFrame pa || !memReady rdy (homeDie pa)

/-! ## Page-table entries (R321, R322) -/

def pteType (e : Nat) : Nat := e / 2 ^ 61 % 8
def pteR (e : Nat) : Bool := e / 2 ^ 60 % 2 == 1
def pteW (e : Nat) : Bool := e / 2 ^ 59 % 2 == 1
def pteKey (e : Nat) : Nat := fld e 58 54
def ptePort (e : Nat) : Bool := e / 2 ^ 53 % 2 == 1
def pteAddr (e : Nat) : Nat := fld e 50 12 * 2 ^ 12
/-- A flash leaf's home die and slot. -/
def pteDie (e : Nat) : Nat := fld e 44 43
def pteSlot (e : Nat) : Nat := fld e 42 12

/-- The bytes that a leaf at a level maps. -/
def blockSize (l : Nat) : Nat := 2 ^ (12 + 9 * l)

/-- Whether an entry stands legally at its level (R322); types 2 to 5 are leaves. -/
def pteOk (rdy : BitVec 16) (e l : Nat) : Bool :=
  e % 2 ^ 12 == 0 &&
  (match pteType e with
   | 1 => decide (1 ≤ l) && fld e 60 51 == 0 && !frameRefused rdy (pteAddr e)
   | 2 => decide (l ≤ 2) && fld e 53 53 == 0 && pteAddr e % blockSize l == 0 && !frameRefused rdy (pteAddr e) &&
       !frameRefused rdy (pteAddr e + blockSize l - 4096)
   | 3 => l == 0 && fld e 53 45 == 0 && decide (pteSlot e < 2 ^ 31 - 2 ^ 20)
   | 4 => decide (l ≤ 2) && fld e 52 12 == 0
   | 5 => fld e 53 12 == 0
   | _ => false)

/-- A leaf a walk found: the address of its entry, the entry, and its level. -/
structure Found where
  ea : Nat
  e : Nat
  lvl : Nat
deriving DecidableEq, Repr

/-- A walk from a table of a level (R321): the leaf of the address, or none where it is not mapped. -/
def walkFrom (rdy : BitVec 16) (m : Mem) : Nat → Nat → Nat → Option Found
  | l, table, va =>
    let ea := table + 8 * (va / blockSize l % 512)
    let e := memNat m ea 8
    if !pteOk rdy e l then none
    else if pteType e = 1 then (match l with | 0 => none | l + 1 => walkFrom rdy m l (pteAddr e) va)
    else some ⟨ea, e, l⟩

/-- The frame of a context's level-4 table (R326). -/
def Ctx.rootPa (x : Ctx) : Nat := bits x.vmRoot 38 12 * 2 ^ 12

/-- The leaf of an address in a context's space; a root on a refused frame maps nothing (R320, R360), and a host leaf is not
mapped while ctx.cfg.pv is 0 (R322). -/
def State.walk (s : State) (n : CtxId) (va : Nat) : Option Found :=
  if frameRefused s.fw.ready (s.ctx n).rootPa then none
  else match walkFrom s.fw.ready s.dram 4 (s.ctx n).rootPa va with
    | some f => if pteType f.e = 5 && !(s.ctx n).pv then none else some f
    | none => none

/-- The physical address an address has under a device leaf. -/
def Found.pa (f : Found) (va : Nat) : Nat := pteAddr f.e + va % blockSize f.lvl

/-! ## Durable scope (R80, R81, R88, R90, R102) -/

/-- The code of durable scope (R80). -/
def scopeDurable : Nat := 7

/-- Whether the 64-byte unit of an address is poisoned (R373). -/
def poisonAt (l : List Nat) (a : Nat) : Bool := l.contains (a / 64)

/-- The entries of a write of some bytes that has yet to perform at durable scope. -/
def unsavedOf (m : Mem) (poison : List Nat) (pa n : Nat) (who : Writer) : List Unsaved :=
  ((memRead m pa n).zipIdx).map fun p => ⟨pa + p.2, p.1, poisonAt poison (pa + p.2), who⟩

/-- Whether a write is one of a core's task, made by a command at a place in the order of issue before the one given, if one is
(R88, R90). -/
def Unsaved.by (k : CoreId) (before : Option Nat) (u : Unsaved) : Bool :=
  match u.who, before with
  | .task j _, none => j == k
  | .task j n, some b => j == k && decide (n < b)
  | _, _ => false

/-- Drops the writes that have performed at durable scope, and with each the older writes of its byte (R84). -/
def dropDurable (f : Unsaved → Bool) : List Nat → List Unsaved → List Unsaved
  | _, [] => []
  | seen, u :: t =>
    if f u then dropDurable f (u.addr :: seen) t
    else if seen.contains u.addr then dropDurable f seen t
    else u :: dropDurable f seen t

/-- Some writes perform at durable scope; once bivouac entry has begun it is too late (R102, R367). -/
def State.makeDurable (s : State) (f : Unsaved → Bool) : State :=
  if s.fleet.slpState = 1 then s else { s with unsaved := dropDurable f [] s.unsaved }

/-- Some bytes stand in the array: nothing of them is in a buffer any more. -/
def State.standing (s : State) (pa n : Nat) : State :=
  { s with unsaved := s.unsaved.filter fun u => decide (u.addr < pa) || decide (pa + n ≤ u.addr) }

/-- Some bytes a far card has written stand in the array (R300); once bivouac entry has begun it is too late (R102). -/
def State.stored (s : State) (pa n : Nat) : State := if s.fleet.slpState = 1 then s else s.standing pa n

/-- Passes the writes of one task from one writer to another, command by command. -/
def State.rename (s : State) (f : Writer → Writer) : State :=
  { s with unsaved := s.unsaved.map fun u => { u with who := f u.who } }

/-- Marks a unit poisoned (R373). -/
def addPoison (l : List Nat) (u : Nat) : List Nat := if l.contains u then l else l ++ [u]

/-- Newest first, each write that is not durable survives or is lost, a free choice; a lost one leaves what stood before it, its
poison too, and one that survives keeps the older writes of its byte (R84, R102, R373). -/
def loseFrom (seq : Nat) : List Unsaved → Nat → List Nat → Mem × List Nat → List Unsaved → (Mem × List Nat) × List Unsaved
  | [], _, _, m, left => (m, left)
  | u :: t, i, kept, m, left =>
    if kept.contains u.addr then loseFrom seq t (i + 1) kept m (left ++ [u])
    else if Config.freeNat seq (16 + i) % 2 = 0 then loseFrom seq t (i + 1) (u.addr :: kept) m (left ++ [u])
    else loseFrom seq t (i + 1) kept (memSet m.1 u.addr u.old, if u.poison then addPoison m.2 (u.addr / 64) else m.2) left

/-- The writes that were not durable when bivouac entry began are lost or survive (R102, R367). -/
def State.loseWrites (s : State) : State :=
  let r := loseFrom s.seq s.unsaved 0 [] (s.dram, s.poison) []
  { s with dram := r.1.1, poison := r.1.2, unsaved := r.2, seq := s.seq + 1 }

/-- Poisoned units are cleared by a write that covers them (R373). -/
def clearPoison (l : List Nat) (pa n : Nat) : List Nat :=
  l.filter fun u => !(decide (pa ≤ 64 * u) && decide (64 * u + 64 ≤ pa + n))

/-- Writes physical bytes on someone's behalf. -/
def State.writePhysBy (s : State) (who : Writer) (pa : Nat) (v : List Byte) : State :=
  { s with
    dram := memWrite s.dram pa v, poison := clearPoison s.poison pa v.length
    unsaved := unsavedOf s.dram s.poison pa v.length who ++ s.unsaved }

/-- Writes physical bytes for an agent other than a core's task. -/
def State.writePhys (s : State) (pa : Nat) (v : List Byte) : State := s.writePhysBy .other pa v

/-- Sets a, and d for a write, in the device leaf a walk used (R323): a write that is not durable yet (R102). -/
def State.touch (s : State) (f : Found) (write : Bool) : State :=
  let e := Nat.lor f.e (2 ^ 52 + (if write then 2 ^ 51 else 0))
  if pteType f.e = 2 && e != f.e then s.writePhys f.ea (toBytes 8 e) else s

/-! ## TLBs (R329, R330) -/

/-- The entries of a TLB (R329). -/
def coreTlbSize : Nat := 1024
def vmTlbSize : Nat := 4096

/-- The entry that holds a device or peer leaf a walk found: all the pages it maps (R329). -/
def Found.entry (f : Found) (n : CtxId) (va : Nat) : Option Trans :=
  let pages := blockSize f.lvl / 4096
  let hold (l : Leaf) : Trans :=
    ⟨n, va / blockSize f.lvl * pages, pages, l, pteR f.e, pteW f.e, BitVec.ofNat 5 (pteKey f.e), false, false⟩
  match pteType f.e with
  | 2 => some (hold (.device (pteAddr f.e / 4096)))
  | 4 => some (hold (.peer (ptePort f.e)))
  | _ => none

/-- Where the entry of a leaf that comes from a TLB is said to lie: past device memory, since no walk has read it. -/
def heldAt : Nat := 2 ^ 39

/-- The leaf that a TLB entry gives for an address. -/
def Trans.found (x : Trans) (va : Nat) : Option Found :=
  let e (ty a : Nat) : Nat :=
    ty * 2 ^ 61 + (if x.r then 2 ^ 60 else 0) + (if x.w then 2 ^ 59 else 0) + x.key.toNat * 2 ^ 54 + a
  match x.leaf with
  | .device fr => some ⟨heldAt, e 2 ((fr + (va / 4096 - x.vpn)) * 4096), 0⟩
  | .peer port => some ⟨heldAt, e 4 (if port then 2 ^ 53 else 0), 0⟩
  | .host _ => none

/-- Whether a TLB entry holds a host translation. -/
def Trans.isHost (x : Trans) : Bool := match x.leaf with | .host _ => true | _ => false

/-- The device or peer leaf that a TLB holds for an address. -/
def heldLeaf (ts : List Trans) (n : CtxId) (va : Nat) : Option Trans :=
  ts.find? fun x => !x.isHost && x.ctx == n && decide (x.vpn ≤ va / 4096) && decide (va / 4096 < x.vpn + x.pages)

/-- The leaf by which an agent with a TLB translates an address: what a walk finds, or an entry its TLB holds from before the
leaf was changed, a free choice (R330, log 4). -/
def State.leafBy (s : State) (tlb : List Trans) (n : CtxId) (va : Nat) : Option Found :=
  let new := s.walk n va
  match heldLeaf tlb n va with
  | none => new
  | some x =>
    if new.bind (fun f => f.entry n va) == some x then new
    else if Config.freeNat s.seq (16 + va / 4096) % 2 = 0 then new else x.found va

/-- A TLB with a leaf that a walk found, in place of what it held for the leaf's pages (R329). -/
def tlbPut (tlb : List Trans) (size : Nat) (x : Trans) : List Trans :=
  if tlb.contains x then tlb
  else
    let l := tlb.filter fun y => y.isHost || y.ctx != x.ctx || decide (y.vpn + y.pages ≤ x.vpn) || decide (x.vpn + x.pages ≤ y.vpn)
    (l ++ [x]).drop (l.length + 1 - size)

/-- Sets a and d of a leaf that a walk has read (R323). -/
def State.walked (s : State) (f : Found) (write : Bool) : State := if f.ea = heldAt then s else s.touch f write

/-- The leaf by which base camp translates an address for HX, submission queues, predicates, residency and its own records
(R329). -/
def State.campLeaf (s : State) (n : CtxId) (va : Nat) : Option Found := s.leafBy s.vm.tlb n va

/-- Base camp's translation unit has used a leaf: a and d are set, and its TLB holds the leaf (R323, R329). -/
def State.campUse (s : State) (n : CtxId) (va : Nat) (f : Found) (write : Bool) : State :=
  let s := s.walked f write
  match f.entry n va with
  | none => s
  | some x =>
    if f.ea = heldAt then { s with seq := s.seq + 1 }
    else { s with vm := { s.vm with tlb := tlbPut s.vm.tlb vmTlbSize x } }

/-! ## Base camp's own accesses -/

/-- The pieces of an extent by page: address and length. -/
def pagePieces : Nat → Nat → Nat → List (Nat × Nat)
  | 0, _, _ => []
  | _, _, 0 => []
  | fuel + 1, a, n =>
    let k := min n (4096 - a % 4096)
    (a, k) :: pagePieces fuel (a + k) (n - k)

/-- The pages of an extent. -/
def pagesOf (a n : Nat) : List (Nat × Nat) := pagePieces (n / 4096 + 2) a n

/-- The walks of some pages in turn, as far as they are mapped: they set a, and d for a write, whatever the access then meets
(R323). -/
def State.walkPages (s : State) (n : CtxId) (vas : List Nat) (write : Bool) : State :=
  (vas.foldl (fun (p : State × Bool) va =>
    if p.2 then p else match p.1.walk n va with
      | some f => (p.1.touch f write, pteType f.e == 3)
      | none => (p.1, true)) (s, false)).1

/-- The translations that base camp has made of an extent whose access is refused. -/
def State.walkMarks (s : State) (n : CtxId) (a len : Nat) (write : Bool) : State :=
  if canonical a len then
    ((pagesOf a len).foldl (fun (p : State × Bool) x =>
      if p.2 then p else match s.campLeaf n x.1 with
        | some f => (p.1.campUse n x.1 f write, pteType f.e == 3)
        | none => (p.1, true)) (s, false)).1
  else s

/-- The physical pieces of an extent that lies under device leaves that grant the access; none where some page does not. -/
def State.devPieces (s : State) (n : CtxId) (a len : Nat) (write : Bool) : Option (List (Found × Nat × Nat)) :=
  if !canonical a len then none
  else (pagesOf a len).mapM fun p =>
    match s.campLeaf n p.1 with
    | some f => if pteType f.e = 2 && (if write then pteW f.e else pteR f.e) then some (f, p.1, p.2) else none
    | none => none

/-- Pieces that stand in the array (R300). -/
def State.storedPieces (s : State) (ps : List (Found × Nat × Nat)) : State :=
  ps.foldl (fun s x => s.stored (x.1.pa x.2.1) x.2.2) s

/-- Writes bytes in a context's space through device leaves, ignoring ctx.pkey (R324); none where a page refuses. -/
def State.ctxWrite (s : State) (n : CtxId) (a : Nat) (v : List Byte) : Option State :=
  match s.devPieces n a v.length true with
  | none => none
  | some ps => some ((ps.foldl (fun (p : State × List Byte) x =>
      ((p.1.campUse n x.2.1 x.1 true).writePhys (x.1.pa x.2.1) (p.2.take x.2.2), p.2.drop x.2.2)) (s, v)).1)

/-- Reads bytes in a context's space through device leaves, ignoring ctx.pkey; none where a page refuses. -/
def State.ctxRead (s : State) (n : CtxId) (a len : Nat) : Option (List Byte × State) :=
  match s.devPieces n a len false with
  | none => none
  | some ps => some (ps.foldl (fun (p : List Byte × State) x =>
      (p.1 ++ memRead p.2.dram (x.1.pa x.2.1) x.2.2, p.2.campUse n x.2.1 x.1 false)) ([], s))

/-- Whether an extent meets a poisoned unit (R373). -/
def State.poisoned (s : State) (pa n : Nat) : Bool :=
  s.poison.any fun u => decide (64 * u < pa + n) && decide (pa < 64 * u + 64)

/-! ## Launches and their code (R104, R134) -/

/-- The launch of a core's task, by its identifier (R312). -/
def State.launchOf (s : State) (c : CoreId) : Option Launch :=
  s.sched.launches.find? fun l => l.started && l.lid == (s.core c).task.launch && l.ctx == (s.core c).task.ctx

/-- Whether a cairn of a launch still counts it: it has not been armed again since (R304, R305). -/
def Launch.now (l : Launch) (c : BitVec 12) : Bool := !l.past.contains c

/-- Whether an address is a packet boundary of a region. -/
def packetOf (base len a : Nat) : Bool := decide (base ≤ a) && decide (a + 12 ≤ base + len) && (a - base) % 12 == 0

/-- Whether an instruction word lies in the control-stream code of a launch (R134). -/
def Launch.inCtl (l : Launch) (a : Nat) : Bool := decide (l.cbase ≤ a) && decide (a + 4 ≤ l.cbase + l.clen)

/-- A word of a context's memory as an instruction fetch reads it: a device leaf, whatever its permissions. -/
def State.codeWord (s : State) (n : CtxId) (a : Nat) : Option Word32 :=
  match s.walk n a with
  | some f => if pteType f.e = 2 then some (BitVec.ofNat 32 (memNat s.dram (f.pa a) 4)) else none
  | none => none

/-- The control-stream word at an address: the finalised code of a ZPF launch (R251), or else memory. -/
def State.ctlWord (s : State) (c : CoreId) (a : Nat) : Option Word32 :=
  match s.launchOf c with
  | none => none
  | some l =>
    if !l.inCtl a then none
    else match l.zpf with
      | some z => some (BitVec.ofNat 32 (ofBytes ((z.ctl.drop (a - l.cbase)).take 4)))
      | none => s.codeWord l.ctx a

end Sys2Proof.Machine
end

