-- ==== Sys2Proof/Machine/Crypto.lean ====
section
/-! DEFINITION. Checksums and signatures: CRC-32C (R158), the flits' CRC-64 (R298), SHA-384 and ECDSA P-384 (R255,
R356, R363). -/

namespace Sys2Proof.Machine

/-! ## Cyclic redundancy checks -/

/-- One bit of a reflected CRC. -/
def crcBit (poly : Nat) (c : Nat) : Nat := if c % 2 = 1 then Nat.xor (c / 2) poly else c / 2

/-- One byte of a reflected CRC. -/
def crcByte (poly : Nat) (c : Nat) (b : Byte) : Nat := (List.range 8).foldl (fun c _ => crcBit poly c) (Nat.xor c b.toNat)

/-- CRC-32C: Castagnoli polynomial, reflected, initial value and final exclusive or all ones (R158). -/
def crc32c (bs : List Byte) : Nat := Nat.xor (bs.foldl (crcByte 0x82F63B78) 0xFFFFFFFF) 0xFFFFFFFF

/-! ## SHA-384 -/

/-- Rotation of a 64-bit word to the right. -/
def rotr (x : Word64) (n : Nat) : Word64 := (x >>> n) ||| (x <<< (64 - n))

/-- The first `n` primes above `k`, by trial division. -/
def primesFrom (fuel k n : Nat) : List Nat :=
  match fuel, n with
  | 0, _ => []
  | _, 0 => []
  | fuel + 1, n + 1 =>
    if (List.range k).all fun d => decide (d < 2) || k % d != 0 then k :: primesFrom fuel (k + 1) n
    else primesFrom fuel (k + 1) (n + 1)

/-- The integer cube root by bits. -/
def cbrtBits (n : Nat) : Nat → Nat → Nat
  | 0, r => r
  | b + 1, r => let t := r + 2 ^ b; cbrtBits n b (if t * t * t ≤ n then t else r)

/-- The round constants: the first 64 fraction bits of the cube roots of the first 80 primes. -/
def shaK : List Word64 := (primesFrom 500 2 80).map fun p => BitVec.ofNat 64 (cbrtBits (p * 2 ^ 192) 68 0)

/-- The initial state of SHA-384: the first 64 fraction bits of the square roots of the ninth to sixteenth primes. -/
def shaInit : List Word64 := ((primesFrom 100 2 16).drop 8).map fun p => BitVec.ofNat 64 (sqrtBits (p * 2 ^ 128) 68 0)

/-- The number of bytes, big-endian. -/
def beNat (bs : List Byte) : Nat := bs.foldl (fun a b => 256 * a + b.toNat) 0

/-- The bytes of a number, big-endian. -/
def beBytes (n v : Nat) : List Byte := (toBytes n v).reverse

/-- The message schedule, newest word first. -/
def shaSched : Nat → List Word64 → List Word64
  | 0, w => w
  | n + 1, w =>
    let x := w.getD 14 0
    let y := w.getD 1 0
    let s0 := rotr x 1 ^^^ rotr x 8 ^^^ (x >>> 7)
    let s1 := rotr y 19 ^^^ rotr y 61 ^^^ (y >>> 6)
    shaSched n ((w.getD 15 0 + s0 + w.getD 6 0 + s1) :: w)

/-- One round on the state a to h. -/
def shaRound (v : List Word64) (p : Word64 × Word64) : List Word64 :=
  let a := v.getD 0 0
  let b := v.getD 1 0
  let c := v.getD 2 0
  let d := v.getD 3 0
  let e := v.getD 4 0
  let f := v.getD 5 0
  let g := v.getD 6 0
  let t1 := v.getD 7 0 + (rotr e 14 ^^^ rotr e 18 ^^^ rotr e 41) + ((e &&& f) ^^^ (~~~e &&& g)) + p.1 + p.2
  let t2 := (rotr a 28 ^^^ rotr a 34 ^^^ rotr a 39) + ((a &&& b) ^^^ (a &&& c) ^^^ (b &&& c))
  [t1 + t2, a, b, c, d + t1, e, f, g]

/-- One 128-byte block. -/
def shaBlock (h : List Word64) (b : List Byte) : List Word64 :=
  let m := (List.range 16).map fun i => BitVec.ofNat 64 (beNat ((b.drop (8 * i)).take 8))
  let w := (shaSched 64 m.reverse).reverse
  List.zipWith (· + ·) h ((shaK.zip w).foldl shaRound h)

/-- SHA-384 of a byte string. -/
def sha384 (m : List Byte) : List Byte :=
  let pad := (239 - m.length % 128) % 128
  let x := m ++ [0x80] ++ List.replicate pad 0 ++ beBytes 16 (8 * m.length)
  let h := (List.range (x.length / 128)).foldl (fun h i => shaBlock h ((x.drop (128 * i)).take 128)) shaInit
  (h.take 6).flatMap fun w => beBytes 8 w.toNat

/-! ## ECDSA P-384 -/

def p384P : Nat := 2 ^ 384 - 2 ^ 128 - 2 ^ 96 + 2 ^ 32 - 1
def p384N : Nat := 0xffffffffffffffffffffffffffffffffffffffffffffffffc7634d81f4372ddf581a0db248b0a77aecec196accc52973
def p384B : Nat := 0xb3312fa7e23ee7e4988e056be3f82d19181d9c6efe8141120314088f5013875ac656398d8a2ed19d2a85c8edd3ec2aef
def p384G : Nat × Nat :=
  (0xaa87ca22be8b05378eb1c71ef320ad746e1d3b628ba79b9859f741e082542a385502f25dbf55296c3a545e3872760ab7,
   0x3617de4a96262c6f5d9e98bf9292dc29f8f41dbd289a147ce9da3113b5f0b8c00a60b1ce1d7e819d7a431d7c90ea0e5f)

/-- x^e modulo m, over the bits of e from bit b - 1 down. -/
def powMod (m x e : Nat) : Nat → Nat → Nat
  | 0, r => r
  | b + 1, r =>
    let r2 := r * r % m
    powMod m x e b (if e / 2 ^ b % 2 = 1 then r2 * x % m else r2)

/-- The inverse modulo a prime. -/
def invMod (m x : Nat) : Nat := powMod m (x % m) (m - 2) 384 1

/-- Sum of two points of the curve (none is the point at infinity). -/
def ecAdd (a b : Option (Nat × Nat)) : Option (Nat × Nat) :=
  match a, b with
  | none, b => b
  | a, none => a
  | some (x1, y1), some (x2, y2) =>
    let p := p384P
    if x1 = x2 ∧ (y1 + y2) % p = 0 then none
    else
      let l := if x1 = x2 then (3 * x1 * x1 + (p - 3)) * invMod p (2 * y1) % p
        else (y2 + p - y1) * invMod p (x2 + p - x1) % p
      let x3 := (l * l + 2 * p - x1 - x2) % p
      some (x3, (l * (x1 + p - x3) + p - y1) % p)

/-- A multiple of a point, over the bits of k from bit b - 1 down. -/
def ecMul (k : Nat) (g : Option (Nat × Nat)) : Nat → Option (Nat × Nat) → Option (Nat × Nat)
  | 0, r => r
  | b + 1, r =>
    let r2 := ecAdd r r
    ecMul k g b (if k / 2 ^ b % 2 = 1 then ecAdd r2 g else r2)

/-- Whether an ECDSA signature (r, s) of a digest verifies under a public key. -/
def ecdsaOk (key : Nat × Nat) (digest r s : Nat) : Bool :=
  let n := p384N
  let p := p384P
  let onCurve := decide (key.1 < p) && decide (key.2 < p) &&
    (key.2 * key.2 % p == (key.1 * key.1 * key.1 + (p - 3) * key.1 + p384B) % p)
  if !onCurve || r = 0 || n ≤ r || s = 0 || n ≤ s then false
  else
    let w := invMod n s
    match ecAdd (ecMul (digest * w % n) (some p384G) 384 none) (ecMul (r * w % n) (some key) 384 none) with
    | none => false
    | some (x, _) => x % n == r

end Sys2Proof.Machine
end

