-- ==== Sys2Proof/Machine/Zpf.lean ====
section
/-! DEFINITION. The Zenric portable form (R250-R255): the container, its checks, and the control code the finaliser patches.
Where and how long the native bodies are is the finaliser's: free values of Config. -/

namespace Sys2Proof.Machine

/-- A body of the body table (R250). -/
structure ZBody where
  off : Nat
  len : Nat
  views : Vector Word64 8
  order : Nat
deriving DecidableEq, Repr

/-- A little-endian number in a byte list. -/
def natAt (b : List Byte) (off n : Nat) : Nat := ofBytes ((b.drop off).take n)

/-- The sections of a container: type, offset, length. -/
def zpfSections (b : List Byte) : List (Nat × Nat × Nat) :=
  (List.range (natAt b 6 2)).map fun i => (natAt b (16 + 16 * i) 4, natAt b (24 + 16 * i) 4, natAt b (28 + 16 * i) 4)

/-- The bytes of the section of a type; empty where it is absent. -/
def zpfSection (b : List Byte) (t : Nat) : List Byte :=
  match (zpfSections b).find? fun x => x.1 == t with
  | some (_, off, len) => (b.drop off).take len
  | none => []

/-- Body `i` of the body table. -/
def zpfBodyAt (b : List Byte) (i : Nat) : ZBody :=
  let t := (zpfSection b 3).drop (80 * i)
  ⟨natAt t 0 4, natAt t 4 4, Vector.ofFn fun k => BitVec.ofNat 64 (natAt t (8 + 8 * k.val) 8), natAt t 72 1 % 8⟩

/-- The bodies of a container. -/
def zpfBodies (b : List Byte) : List ZBody := (List.range ((zpfSection b 3).length / 80)).map (zpfBodyAt b)

/-- Header and section table (R250). -/
def zpfFormOk (b : List Byte) : Bool :=
  let ss := zpfSections b
  decide (16 ≤ b.length) && natAt b 0 4 == 0x0046505A && natAt b 4 2 == 1 &&
  (natAt b 6 2 == 3 || natAt b 6 2 == 4) && natAt b 8 8 == 0 && decide (16 + 16 * natAt b 6 2 ≤ b.length) &&
  ((List.range (natAt b 6 2)).all fun i => natAt b (20 + 16 * i) 4 == 0) &&
  (ss.all fun s => decide (1 ≤ s.1) && decide (s.1 ≤ 4) && s.2.1 % 64 == 0 && decide (s.2.1 + s.2.2 ≤ b.length)) &&
  ([1, 2, 3].all fun t => (ss.filter fun s => s.1 == t).length == 1) &&
  decide ((ss.filter fun s => s.1 == 4).length ≤ 1)

/-- The body table (R250). -/
def zpfTableOk (b : List Byte) : Bool :=
  let t := zpfSection b 3
  let n := (zpfSection b 2).length
  t.length % 80 == 0 && n % 4 == 0 && (zpfSection b 1).length % 4 == 0 &&
  (List.range (t.length / 80)).all fun i =>
    let x := zpfBodyAt b i
    x.off % 4 == 0 && decide (1 ≤ x.len) && decide (x.len ≤ 12288) && decide (x.off + 4 * x.len ≤ n) &&
    decide (natAt t (80 * i + 72) 8 < 8)

/-- A relocation entry: the offset of the ADDI, what, body (R251). -/
def zpfRelocs (b : List Byte) : List (Nat × Nat × Nat) :=
  let r := zpfSection b 4
  (List.range (r.length / 8)).map fun i =>
    let w := natAt r (8 * i) 8
    (fld w 31 0, fld w 32 32, fld w 63 48)

/-- The relocations (R251): each names an ADDI gd, g0 with two LIMM words, and a body. -/
def zpfRelocsOk (b : List Byte) : Bool :=
  let c := zpfSection b 1
  let r := zpfSection b 4
  r.length % 8 == 0 &&
  ((List.range (r.length / 8)).all fun i => fld (natAt r (8 * i) 8) 47 33 == 0) &&
  (zpfRelocs b).all fun x =>
    let w := natAt c x.1 4
    x.1 % 4 == 0 && decide (x.1 + 12 ≤ c.length) && decide (x.2.2 < (zpfBodies b).length) &&
    fld w 31 25 == 64 + 2 && fld w 19 15 == 0 &&
    fld (natAt c (x.1 + 4) 4) 31 25 == 64 + 0x3E && fld (natAt c (x.1 + 8) 4) 31 25 == 0x3E

/-- The operand codes of a vector word, whether or not it decodes (R109, R114, R115). -/
def operandCodes (w : Nat) : List Nat :=
  let m := fld w 30 25
  if 0x01 ≤ m ∧ m ≤ 0x20 then
    [fld w 23 16, fld w 15 8] ++ (if [0x0A, 0x1C, 0x1D, 0x1F, 0x20].contains m then [] else [fld w 7 0])
  else if m = 0x30 ∨ m = 0x31 then [fld w 24 17]
  else if m = 0x32 ∧ fld w 24 21 < 2 then [fld w 20 13]
  else if m = 0x33 then [fld w 24 17, fld w 16 9]
  else []

/-- A vector word that the finaliser refuses: chain bit 1, or operand code 144 (R253). -/
def zpfWordBad (w : Nat) : Bool := fld w 31 31 == 1 || (operandCodes w).contains 144

/-- The native length in packets of a body (R251). -/
def zpfNativeLen (b : List Byte) (ver : Word64) (i : Nat) : Nat := Config.zpfBodyLen b ver i

/-- Whether the finaliser takes a container (R253). -/
def zpfOk (b : List Byte) (ver : Word64) : Bool :=
  zpfFormOk b && zpfTableOk b && zpfRelocsOk b &&
  !((elemsOf 32 (zpfSection b 2)).any zpfWordBad) &&
  (List.range (zpfBodies b).length).all fun i =>
    decide (1 ≤ zpfNativeLen b ver i) && decide (zpfNativeLen b ver i ≤ 4096)

/-- Overwrites bytes of a list from an offset. -/
def patch (b : List Byte) (off : Nat) (v : List Byte) : List Byte := b.take off ++ v ++ b.drop (off + v.length)

/-- Writes an immediate into an ADDI and its two LIMM words (R106). -/
def patchImm (c : List Byte) (off v : Nat) : List Byte :=
  let w k := natAt c (off + 4 * k) 4
  patch c off (toBytes 4 (w 0 / 2 ^ 15 * 2 ^ 15 + v % 2 ^ 15) ++
    toBytes 4 (w 1 / 2 ^ 25 * 2 ^ 25 + v / 2 ^ 15 % 2 ^ 25) ++ toBytes 4 (w 2 / 2 ^ 25 * 2 ^ 25 + v / 2 ^ 40 % 2 ^ 25))

/-- Where the finaliser places the first bodies of a container: each one's first byte and length. The places are free values; no two
bodies overlap (R251, R255; log 73). -/
def zpfPlaces (b : List Byte) (ver : Word64) : Nat → List (Nat × Nat)
  | 0 => []
  | i + 1 =>
    let ps := zpfPlaces b ver i
    let a := (Config.zpfBody b ver i).toNat % 2 ^ 56
    let n := 12 * zpfNativeLen b ver i
    let clash := ps.any fun p => decide (a < p.1 + p.2) && decide (p.1 < a + n)
    ps ++ [(if clash then ps.foldl (fun m p => max m (p.1 + p.2)) 0 else a, n)]

/-- The native start address of a body (R251). -/
def zpfStart (b : List Byte) (ver : Word64) (i : Nat) : Word64 :=
  BitVec.ofNat 64 (((zpfPlaces b ver (i + 1)).getLast?.map (·.1)).getD 0)

/-- The control code with its relocated immediates (R251). -/
def zpfControl (b : List Byte) (ver : Word64) : List Byte :=
  (zpfRelocs b).foldl (fun c x =>
    patchImm c x.1 (if x.2.1 = 0 then (zpfStart b ver x.2.2).toNat else zpfNativeLen b ver x.2.2 - 1)) (zpfSection b 1)

/-- What the finaliser makes of a container (R253, R255). -/
def finaliseZpf (b : List Byte) (ver : Word64) : Option Zpf :=
  if zpfOk b ver then some ⟨b, ver, zpfControl b ver⟩ else none

/-- The body a LOOP names in a finalised kernel (R251): its native start and length, with the views and jet order it
declares; none where the LOOP breaks R251. -/
def Zpf.bodyOf (z : Zpf) (start : Word64) (len : Nat) (views : Vector Word64 8) (order : Nat) : Option ZBody :=
  ((zpfBodies z.image).zipIdx.find? fun p =>
    zpfStart z.image z.version p.2 == start && zpfNativeLen z.image z.version p.2 == len &&
    p.1.views == views && p.1.order == order).map (·.1)

/-- The portable words of a body. -/
def Zpf.words (z : Zpf) (b : ZBody) : List Word32 :=
  ((elemsOf 32 (((zpfSection z.image 2).drop b.off).take (4 * b.len)))).map (BitVec.ofNat 32)

end Sys2Proof.Machine
end

