-- ==== Sys2Proof/Machine/Vseq.lean ====
section
/-! DEFINITION. The vector sequencer: the words of each slot, the decode checks of a group (R118-R122), the issue cycle
(R240-R246), stalls (R237), loop commands (R27), CIM.MODE (R37, R38), ropes (R44), and portable bodies (R252). -/

namespace Sys2Proof.Machine

/-! ## Words -/

/-- The stream instruction of a word. -/
def zWord (i : Instr) : Option ZWord :=
  match i with
  | .zinit _ i z l => some (.init i z l)
  | .znext _ z => some (.nxt z)
  | .zskip _ i z => some (.skip i z)
  | .zisect _ i z y => some (.isect i z y)
  | .zunion _ i z y => some (.union i z y)
  | .zdown _ z y => some (.down z y)
  | .zcrd _ i z m => some (.crd i z m)
  | .zpos _ i z m => some (.pos i z m)
  | _ => none

/-- The pass of a word. -/
def passWord (i : Instr) : Option PassWord :=
  match i with
  | .cimPass _ b l a p e o n g => some ⟨b, l, a, p, e, o, n, g⟩
  | _ => none

/-- What the decode of a group knows of a word, or the check that refuses it (R122, step 4). -/
def Core.wordInfo (c : Core) (i : Instr) : Except Nat WInfo :=
  let n4 (x : BitVec 4) : Nat := x.toNat
  match i with
  | .cimPass _ b l a p e o n g => c.passInfo ⟨b, l, a, p, e, o, n, g⟩
  | .cimSwap _ _ | .cimSwapw _ _ => .ok ⟨slotM, 2, none, [], [], [], []⟩
  | .accClr _ e => c.clrInfo e
  | .accCvtF32 _ d e => c.cvtInfo d e
  | .accCvtI32 _ d e => c.cvtInfo d e
  | .lutBuild _ v i => c.lutInfo v i
  | .lutAcc _ e q k => c.lutAccInfo e q k
  | .outl _ e v q => c.outlInfo e v q
  | .rsc _ d e t q => c.rscInfo d e t q
  | .qnt _ d v p => c.qntInfo d v p
  | .qpar _ v p _ => c.qparInfo v p
  | .imul _ d a b => .ok (ixInfo (some 2) [n4 a, n4 b] [n4 d])
  | .iadd _ d a b | .isub _ d a b | .ishl _ d a b | .ishr _ d a b | .iand _ d a b | .ior _ d a b =>
    .ok (ixInfo (some 1) [n4 a, n4 b] [n4 d])
  | .icmpadv _ d a b => .ok (ixInfo (some 1) [n4 d, n4 a, n4 b] [n4 d])
  | .imuli _ d a _ => .ok (ixInfo (some 2) [n4 a] [n4 d])
  | .iaddi _ d a _ | .isubi _ d a _ | .ishli _ d a _ | .ishri _ d a _ | .iandi _ d a _ | .iori _ d a _ =>
    .ok (ixInfo (some 1) [n4 a] [n4 d])
  | .ipopc _ d a => .ok (ixInfo (some 1) [n4 a] [n4 d])
  | .ili _ d _ => .ok (ixInfo (some 1) [] [n4 d])
  | .iget _ d _ => .ok (ixInfo (some 1) [] [n4 d])
  | .aqpush _ i _ => .ok (ixInfo none [n4 i] [33])
  | .xld _ n a _ => do
    let o ← c.xName n
    return xInfo o.rows (some (2 + o.rows)) [] [(o.off, o.size)] [n4 a] []
  | .xst _ n a _ => do
    let o ← c.xName n
    return xInfo o.rows none [(n.toNat, o.off, o.size)] [] [n4 a] []
  | .dqpop _ n q => do
    let o ← c.xName n
    return xInfo o.rows (some (2 + o.rows)) [] [(o.off, o.size)] [] [24 + q.toNat]
  | .dqpeek _ n q => do
    let o ← c.xName n
    return xInfo o.rows (some (2 + o.rows)) [] [(o.off, o.size)] [24 + q.toNat] []
  | .ppop _ d => .ok (xInfo 1 (some 1) [] [] [] [n4 d, 32])
  | .xmv _ d v => do
    let p ← c.xmvCheck d v
    return xInfo p.1.rows (some (1 + p.1.rows)) [(v.toNat, p.2.off, p.2.size)] [(p.1.off, p.1.size)] [] []
  | .xFset _ _ | .xFclr _ _ => .ok (xInfo 1 none [] [] [] [])
  | .ftst _ d _ => .ok (xInfo 1 (some 1) [] [] [] [n4 d])
  | .frd _ d _ => .ok (xInfo 1 (some 1) [] [] [] [n4 d])
  | i => match zWord i, abWord i with
    | some z, _ => c.zInfo z
    | none, some w => c.abInfo w
    | none, none => .error 10

/-- The effect of a vector word on its core (R182-R236). -/
def vword (i : Instr) (c : Core) : VRes :=
  match i with
  | .cimPass _ b l a p e o n g => passKernel ⟨b, l, a, p, e, o, n, g⟩ c
  | .cimSwap _ b => swapKernel false b c
  | .cimSwapw _ b => swapKernel true b c
  | .accClr _ e => clrKernel e c
  | .accCvtF32 _ d e => cvtKernel false d e c
  | .accCvtI32 _ d e => cvtKernel true d e c
  | .lutBuild _ v i => lutKernel v i c
  | .lutAcc _ e q k => lutAccKernel e q k c
  | .outl _ e v q => outlKernel e v q c
  | .rsc _ d e t q => rscKernel d e t q c
  | .qnt _ d v p => qntKernel d v p c
  | .qpar _ v p k => qparKernel v p k c
  | .iadd _ d a b => ixKernel .add d a b c
  | .isub _ d a b => ixKernel .sub d a b c
  | .ishl _ d a b => ixKernel .shl d a b c
  | .ishr _ d a b => ixKernel .shr d a b c
  | .iand _ d a b => ixKernel .and d a b c
  | .ior _ d a b => ixKernel .or d a b c
  | .imul _ d a b => ixKernel .mul d a b c
  | .ipopc _ d a => popcKernel d a c
  | .icmpadv _ d a b => cmpAdvKernel d a b c
  | .iaddi _ d a i => ixImmKernel .add d a i c
  | .isubi _ d a i => ixImmKernel .sub d a i c
  | .ishli _ d a i => ixImmKernel .shl d a i c
  | .ishri _ d a i => ixImmKernel .shr d a i c
  | .iandi _ d a i => ixImmKernel .and d a i c
  | .iori _ d a i => ixImmKernel .or d a i c
  | .imuli _ d a i => ixImmKernel .mul d a i c
  | .ili _ d i => iliKernel d i c
  | .iget _ d q => igetKernel d q c
  | .aqpush _ i q => aqpushKernel i q c
  | .xld _ n a i => xldKernel n a i c
  | .xst _ n a i => xstKernel n a i c
  | .dqpop _ n q => dqKernel false n q c
  | .dqpeek _ n q => dqKernel true n q c
  | .ppop _ d => ppopKernel d c
  | .xmv _ d v => xmvKernel d v c
  | .xFset _ f => fsetKernel f c
  | .xFclr _ f => fclrKernel f c
  | .ftst _ d f => ftstKernel d f c
  | .frd _ d h => frdKernel d h c
  | i => match zWord i, abWord i with
    | some z, _ => zKernel z c
    | none, some w => abKernel w c
    | none, none => .ok c

/-- The partial effects of a stalled word (R228). -/
def Core.wordStalled (c : Core) (i : Instr) : Core := match zWord i with | some z => c.zstalled z | none => c

/-! ## Groups (R105, R107) -/

/-- A group of a body: its words with their offsets in words, a failure of step 2 of R122, and where the next one begins. -/
structure Grp where
  items : List (Nat × Word32)
  bad : Option (Nat × Nat)
  missing : Option Nat
  next : Nat
deriving DecidableEq, Repr

/-- The pad word (R107). -/
def padWord : Word32 := 0x7A000000

/-- Reads the group from an offset: pad words before it are discarded, one inside it stays for its placement check. -/
def parseGroup (get : Nat → Option Word32) (total : Nat) : Nat → Nat → Nat → Nat → List (Nat × Word32) → Grp
  | 0, k, _, _, items => ⟨items, none, none, k⟩
  | fuel + 1, k, n, last, items =>
    if total ≤ k then ⟨items, if items.isEmpty then none else some (12, last), none, k⟩
    else match get k with
      | none => ⟨items, none, some k, k⟩
      | some w =>
        if w = padWord then parseGroup get total fuel (k + 1) n last (if items.isEmpty then items else items ++ [(k, w)])
        else if n = 5 then ⟨items ++ [(k, w)], some (1, k), none, k + 1⟩
        else if bit w 31 then parseGroup get total fuel (k + 1) (n + 1) k (items ++ [(k, w)])
        else ⟨items ++ [(k, w)], none, none, k + 1⟩

/-- An illegal-group trap (R340): check and address. -/
def grpTrap (check addr : Nat) : Trap := ⟨causeGroup, 6, check, addr⟩

/-- Step 1 of R122: the words decode. A pad word in the group is left to step 4. -/
def decodeItems (start : Nat) : List (Nat × Word32) → Except Trap (List (Nat × Option Instr))
  | [] => .ok []
  | (k, w) :: t =>
    match decodeVector w.toNat with
    | .ok i => do return (start + 4 * k, some i) :: (← decodeItems start t)
    | .error .pad => do return (start + 4 * k, none) :: (← decodeItems start t)
    | .error _ => .error ⟨causeIllegal, 6, w.toNat, start + 4 * k⟩

/-- Step 3 of R122: the bank sets of the passes. -/
def Core.checkBanks (c : Core) (items : List (Nat × Option Instr)) : Except Trap Unit :=
  match items.findSome? fun p => (p.2.bind passWord).bind c.passBank with
  | some b => .error (c.bankTrap b 6)
  | none => .ok ()

/-- The cycles for which a slot is still held (R243). -/
def Occ.of (o : Occ) (slot : Nat) : Nat :=
  if slot = 1 then o.i else if slot = 2 then o.a else if slot = 3 then o.b else if slot = 4 then o.m else o.x

/-- The slot of a word (R115). -/
def slotOf (i : Instr) : Nat :=
  match zWord i, abWord i, i with
  | some _, _, _ => slotI
  | _, some w, _ => w.slot
  | _, _, .cimPass _ _ _ _ _ _ _ _ _ | _, _, .cimSwap _ _ | _, _, .cimSwapw _ _ | _, _, .accClr _ _
  | _, _, .accCvtF32 _ _ _ | _, _, .accCvtI32 _ _ _ | _, _, .lutBuild _ _ _ | _, _, .lutAcc _ _ _ _
  | _, _, .outl _ _ _ _ | _, _, .rsc _ _ _ _ _ | _, _, .qnt _ _ _ _ | _, _, .qpar _ _ _ _ => slotM
  | _, _, .xld _ _ _ _ | _, _, .xst _ _ _ _ | _, _, .dqpop _ _ _ | _, _, .dqpeek _ _ _ | _, _, .ppop _ _
  | _, _, .xmv _ _ _ | _, _, .xFset _ _ | _, _, .xFclr _ _ | _, _, .ftst _ _ _ | _, _, .frd _ _ _ => slotX
  | _, _, .nop => 0
  | _, _, _ => slotI

/-- A decoded word of a group with its address and what decode knows of it. -/
structure GWord where
  addr : Nat
  i : Instr
  info : WInfo
deriving DecidableEq, Repr

/-- Step 4 of R122, word by word; `used` are the slots taken. -/
def Core.checkWords (c : Core) : List Nat → List (Nat × Option Instr) → Except Trap (List GWord)
  | _, [] => .ok []
  | used, (a, oi) :: t =>
    match oi with
    | none => .error (grpTrap 10 a)
    | some .nop => .error (grpTrap 10 a)
    | some i =>
      let sl := slotOf i
      if used.contains sl then .error (grpTrap 1 a)
      else if 0 < c.occ.of sl then .error (grpTrap 8 a)
      else match c.wordInfo i with
        | .error n => .error (grpTrap n a)
        | .ok x => do return ⟨a, i, x⟩ :: (← c.checkWords (sl :: used) t)

/-- Whether two extents share a byte. -/
def overlaps (a b : Nat × Nat) : Bool := decide (a.1 < b.1 + b.2) && decide (b.1 < a.1 + a.2)

/-- The 2 KiB banks of the register space an extent touches (R30). -/
def regBanks (a : Nat × Nat) : List Nat :=
  if a.2 = 0 then [] else (List.range ((a.1 + a.2 - 1) / 2048 - a.1 / 2048 + 1)).map (a.1 / 2048 + ·)

/-- Whether word `x` reads what word `y` writes, pushes or pops (R120). -/
def WInfo.readsFrom (x y : WInfo) : Bool :=
  (x.reads.any fun r => y.writes.any (overlaps r.2)) || x.rr.any y.rw.contains

/-- Whether two words write one byte or register, or take one queue (R120). -/
def WInfo.writesWith (x y : WInfo) : Bool :=
  (x.writes.any fun r => y.writes.any (overlaps r)) || x.rw.any y.rw.contains

/-- What a landing writes, as banks of the register space (0-15) and index and stream registers (16-39), for R121 and R215. -/
def LandVal.places : LandVal → List Nat
  | .bytes off v => regBanks (off, v.length)
  | .sums _ off wq _ v => regBanks (off, wq * v.length)
  | .index r _ => [16 + r.toNat]
  | .stream r _ => [32 + r.toNat]
  | .scratch _ _ => []

/-- What the landing of a word writes, as above. -/
def WInfo.places (x : WInfo) : List Nat :=
  match x.lat with
  | none => []
  | some _ => x.writes.flatMap regBanks ++ (x.rw.filter (· < 24)).map (16 + ·)

/-- Step 5 of R122: dependence (4), double write (5), read ports (6), landing collisions (7). -/
def Core.checkWhole (c : Core) (ws : List GWord) : Except Trap Unit :=
  let n := ws.zipIdx
  match n.find? fun x => n.any fun y => x.2 != y.2 && x.1.info.readsFrom y.1.info with
  | some x => .error (grpTrap 4 x.1.addr)
  | none =>
  match n.find? fun x => n.any fun y => decide (y.2 < x.2) && x.1.info.writesWith y.1.info with
  | some x => .error (grpTrap 5 x.1.addr)
  | none =>
  let ports := fun b => ((ws.flatMap fun w => w.info.reads.filterMap fun r =>
    if (regBanks r.2).contains b then some r.1 else none).dedup).length
  if (List.range 16).any fun b => decide (2 < ports b) then .error (grpTrap 6 (ws.head?.map (·.addr) |>.getD 0))
  else
  match n.find? fun x =>
      (c.landing.any fun l => some l.d == x.1.info.lat && x.1.info.places.any l.v.places.contains) ||
      (n.any fun y => decide (y.2 < x.2) && x.1.info.lat.isSome && x.1.info.lat == y.1.info.lat &&
        x.1.info.places.any y.1.info.places.contains) with
  | some x => .error (grpTrap 7 x.1.addr)
  | none => .ok ()

/-- What a group meets at its operand-state checks (R122, step 6): the first trap in address order, or the first resource
that is lacking, with the slot of the word that lacks it. -/
def Core.operandState (c : Core) (ws : List GWord) : Except Trap (Option (Wanted × Nat)) :=
  match ws.findSome? fun w => match vword w.i c with | .error (.trap t) => some t | _ => none with
  | some t => .error t
  | none => .ok (ws.findSome? fun w => match vword w.i c with | .error (.lack x) => some (x, slotOf w.i) | _ => none)

/-- All checks of a group (R122): its words in order, or NOP's empty group. -/
def Core.checkGroup (c : Core) (start : Nat) (g : Grp) : Except Trap (List GWord) := do
  let items ← decodeItems start g.items
  match g.bad with
  | some (n, k) => .error (grpTrap n (start + 4 * k))
  | none => pure ()
  match g.missing with
  | some k => .error ⟨causeFetch, 6, start + 4 * k, start⟩
  | none => pure ()
  c.checkBanks items
  match items with
  | [(_, some .nop)] => return []
  | _ =>
    let ws ← c.checkWords [] items
    c.checkWhole ws
    return ws

/-! ## The issue cycle (R240, R57, R58) -/

/-- The results due in this issue cycle. -/
def Core.due (c : Core) : List Landing := c.landing.filter (·.d == 0)

/-- The flags of some results. -/
def Core.flagsOf (c : Core) (ls : List Landing) : Word64 := ls.foldl (fun f l => f ||| l.allFlags c) 0

/-- The flags of the instruction that a result due belongs to (R57): a pass lands in several names at once, and no two passes
land in one cycle. -/
def Core.instrFlags (c : Core) (l : Landing) : Word64 :=
  if l.pass.isSome then c.flagsOf (c.due.filter (·.pass.isSome)) else l.allFlags c

/-- The results due of the instructions whose flags are enabled to trap (R57). -/
def Core.firing (c : Core) : List Landing := c.due.filter fun l => c.instrFlags l &&& c.fpTrapen != 0

/-- The flags of the results due. -/
def Core.dueFlags (c : Core) : Word64 := c.flagsOf c.due

/-- The start of a landing cycle: results land in the register space; the entries stay for lat. -/
def Core.landEarly (c : Core) : Core := (c.due.filter (·.v.early)).foldl (fun c l => c.land l.v) c

/-- The end of a landing cycle: index and stream registers, scratch and fp.flags; then the counts advance. -/
def Core.landLate (c : Core) (flags : Word64) : Core :=
  let c := (c.due.filter fun l => !l.v.early).foldl (fun c l => c.land l.v) c
  { c with
    fpFlags := c.fpFlags ||| flags
    landing := (c.landing.filter fun l => decide (l.d ≠ 0)).map fun l => { l with d := l.d - 1 }
    occ := ⟨c.occ.i - 1, c.occ.a - 1, c.occ.b - 1, c.occ.m - 1, c.occ.x - 1⟩ }

/-- An issue cycle in which no group issues (R244). -/
def Core.idleCycle (c : Core) : Core := (c.landEarly).landLate c.dueFlags

/-- Issues the words of a checked group: the X word last, so that every load reads before a store (R82). -/
def Core.issueWords (c : Core) (ws : List GWord) : Core :=
  ((ws.filter fun w => slotOf w.i != slotX) ++ (ws.filter fun w => slotOf w.i == slotX)).foldl (fun c w =>
    match vword w.i c with
    | .ok c' => c'
    | .error _ => c) c

/-- What a group does in its issue cycle: it traps, it waits for a resource, which a word of a slot lacks, or it issues. -/
inductive GEval where
  | trap (t : Trap)
  | lack (w : Wanted) (slot : Nat) (c : Core)
  | issued (c : Core)
deriving DecidableEq, Repr

/-- A group's decode and issue on a core with nothing firing (R122, R237, R240). -/
def Core.evalGroup (c : Core) (start : Nat) (g : Grp) : GEval :=
  let c1 := c.landEarly
  match c1.checkGroup start g with
  | .error t => .trap t
  | .ok ws =>
    match c1.operandState ws with
    | .error t => .trap t
    | .ok (some (w, slot)) => .lack w slot (ws.foldl (fun c x => c.wordStalled x.i) c)
    | .ok none => .issued ((c1.issueWords ws).landLate c.dueFlags)

/-! ## Traps of the vector stream (R339, R341) -/

/-- A record of the vector stream for a group (R339). -/
def vsRecord (c : Core) (t : Trap) (grp : Word64) (cmd : BitVec 32) (l : Option (LoopCmd × Nat)) (zpf : Bool) : TrapRec where
  cause := BitVec.ofNat 8 t.cause
  src := 1
  eng := BitVec.ofNat 4 t.eng
  zpf := zpf
  cmd := cmd
  pc := c.pc
  grp := grp
  j := match l with | some p => loopIdx p.1.counts p.2 | none => []
  ofs := match l with | some p => loopOfs p.1 p.2 | none => 0
  status := c.queueStatus
  d0 := BitVec.ofNat 64 t.d0
  d1 := BitVec.ofNat 64 t.d1
  tag := []

/-- A trap at the group at hand. -/
def Core.groupRecord (c : Core) (t : Trap) : TrapRec :=
  match c.loopRun with
  | some r => vsRecord c t (r.recordAddr c.groupAddr) r.c.cmd (some (r.c, r.iter)) r.zpf.isSome
  | none => vsRecord c t 0 c.cmdIdx none false

/-- The record of a trap fired by a result restored from a save image, which does not hold its group (R353): the group, the
command, the loop indices, loop.ofs and zpf are free values (log 4). -/
def freeRecord (c : Core) (t : Trap) (seq : Nat) : TrapRec :=
  { vsRecord c t (Config.freeWord seq 1) (BitVec.ofNat 32 (Config.freeNat seq 2)) none (Config.freeNat seq 3 % 2 == 1) with
    j := (List.range 6).map fun d => Config.freeNat seq (4 + d) % 65536
    ofs := BitVec.ofNat 32 (Config.freeNat seq 10) }

/-- The arithmetic-exception trap (R57): flags and masks of the firing instructions are set, nothing lands, and the record
names the earliest-issued group among them. -/
def fireTrap (s : State) (k : CoreId) : State :=
  let c := s.core k
  let fs := c.firing
  let fired := c.flagsOf fs &&& c.fpTrapen
  let c1 := fs.foldl (fun x l =>
    match l.v with
    | .sums a off wq ovw v => { x with accOvf := x.accOvf.set a.toNat (x.accOvf[a.toNat] ||| satMask 0 (sumsLand c.regs off wq ovw 0 v)) }
    | _ => x) { c with fpFlags := c.fpFlags ||| c.flagsOf fs }
  let s1 := s.setCore k c1
  let o := (fs.head?.bind (·.src))
  let slot := match o with | some o => o.slot.toNat | none => Config.freeNat s.seq 0 % 5
  let t : Trap := ⟨causeArith, slot, fired.toNat, slot⟩
  let r := match o with
    | some o => vsRecord c t o.grp o.cmd (some (o.c, o.iter)) o.zpf
    | none => freeRecord c t s.seq
  takeTrap (if o.isSome then s1 else { s1 with seq := s1.seq + 1 }) k r

/-! ## Ropes (R44) -/

/-- The cores that a core's vector stream moves in lock-step: the members of its rope, or itself. -/
def State.crew (s : State) (k : CoreId) : List CoreId :=
  match (s.core k).rope with
  | some r => maskCores (dieOf k) r.mask
  | none => [k]

/-- The leader of a core's rope: the member with the lowest id (R44). -/
def State.leader (s : State) (k : CoreId) : CoreId := (s.crew k).headD k

/-- Whether a core's vector stream has stopped for good: its task is ending (R337). -/
def Core.isEnding (c : Core) : Bool := match c.run with | .running | .preempting => false | _ => true

/-- Whether two members of a rope run the same loop command at the same place, or the same CIM.MODE. -/
def Core.inStep (a b : Core) : Bool := a.loopRun == b.loopRun && a.zeroing == b.zeroing

/-- The cores that move in lock-step with a core: its crew once all of it is in step. A rope forms while loop commands of its
members' own may still run; each member ends its own by itself (R44; log 16). -/
def State.band (s : State) (k : CoreId) : List CoreId :=
  if (s.crew k).all fun m => (s.core m).isEnding || (s.core m).inStep (s.core k) then s.crew k else [k]

/-- Traps a crew: each trapping member writes its own record, the others a rope stop at the same group (R44, R340). Of several
trapping members a rope stop names the lowest core id: the model's choice (log 75). -/
def crewTrap (s : State) (crew : List CoreId) (traps : List (CoreId × TrapRec)) : State :=
  crew.foldl (fun s m =>
    match traps.find? (·.1 == m), traps.head? with
    | some p, _ => takeTrap s m p.2
    | none, some p => takeTrap s m ((s.core m).groupRecord ⟨causeRopeStop, 6, p.1.toNat, p.2.cause.toNat⟩)
    | none, none => s) s

/-! ## Loop commands (R27-R29, R44) -/

/-- Word `k` of a body: from the loop buffer, or from memory (R28). -/
def State.bodyWord (s : State) (c : Core) (r : LoopRun) (k : Nat) : Option Word32 :=
  match r.buf with
  | some b => b[k]?
  | none => s.codeWord c.task.ctx (r.c.start.toNat + 4 * k)

/-- Words of a body. -/
def LoopRun.words (r : LoopRun) : Nat := if r.zpf.isSome then (r.buf.getD []).length else 3 * r.c.len

/-- Whether only pad words stand from an offset to the end of a body. -/
def padsOnly (get : Nat → Option Word32) (total : Nat) : Nat → Nat → Bool
  | 0, _ => true
  | fuel + 1, k => if total ≤ k then true else match get k with
    | some w => if w = padWord then padsOnly get total fuel (k + 1) else false
    | none => false

/-- The loop in progress as the VS begins a command (R27): a body of at most 64 packets enters the loop buffer (R28), a
finalised body runs its portable code (R254). -/
def State.loopStart (s : State) (k : CoreId) (l : LoopCmd) : LoopRun :=
  let n := (s.core k).task.ctx
  match (s.launchOf k).bind (·.zpf) with
  | some z =>
    match z.bodyOf l.start l.len l.views l.order.toNat with
    | some b => ⟨l, l.first, 0, some (z.words b), some b.off⟩
    | none => ⟨l, l.first, 0, none, none⟩
  | none =>
    let buf := if l.len ≤ 64 then (List.range (3 * l.len)).mapM fun i => s.codeWord n (l.start.toNat + 4 * i) else none
    ⟨l, l.first, 0, buf, none⟩

/-- Whether a core has nothing in flight: no result, and no slot still held (R244). -/
def Core.calm (c : Core) : Bool := c.landing.isEmpty && c.occ == ⟨0, 0, 0, 0, 0⟩

/-- Whether every member of a core's crew has ended its last loop command and its CIM.MODE (R44). -/
def State.crewFree (s : State) (k : CoreId) : Bool :=
  (s.crew k).all fun m => (s.core m).loopRun.isNone && (s.core m).zeroing.isNone

/-- Begins a loop command on a crew; a body of pad words only traps naming its start (R27). -/
def beginLoop (s : State) (k : CoreId) (l : LoopCmd) : State :=
  let r := s.loopStart k l
  let crew := s.crew k
  let s := crew.foldl (fun s m => s.modCore m fun c => { c with loopRun := some r }) s
  let s := s.modCore k fun c => { c with cmdq := c.cmdq.drop 1 }
  if r.zpf.isNone && padsOnly (s.bodyWord (s.core k) r) r.words (r.words + 1) 0 then
    crewTrap s crew (crew.map fun m => (m, (s.core m).groupRecord (grpTrap 12 l.start.toNat)))
  else s

/-- Moves past a group: to the next one, the next iteration, or the end of the command, after which a loop command
already queued begins with no issue cycle lost (R27, R244). -/
def advance (s : State) (k : CoreId) (r : LoopRun) (next : Nat) : State :=
  let get := s.bodyWord (s.core k) r
  let r' : Option LoopRun :=
    if !padsOnly get r.words (r.words + 1) next then some { r with off := next }
    else if r.iter + 1 < r.c.total then some { r with iter := r.iter + 1, off := 0 }
    else none
  let s := (s.band k).foldl (fun s m => s.modCore m fun c => { c with loopRun := r', stall := 0 }) s
  match r', (s.core k).cmdq with
  | none, .loop l :: _ => if s.crewFree k then beginLoop s k l else s
  | _, _ => s

/-! ## Sync words that plain writes may not touch (R95) -/

/-- The core in whose scratch a command's sync word lies (R94, R152). -/
def Tag.targetCore (t : Tag) (k : CoreId) : CoreId :=
  if bits t.dest 63 61 = 2 && t.op.toNat != 3 && t.op.toNat != 5 then BitVec.ofNat 8 (bits t.dest 27 20) else k

/-- The sync words of a core that the commands in flight may still arrive at; they lie in plain scratch (R94, R152). -/
def State.awaitedWords (s : State) (c : CoreId) : List Nat :=
  ((s.cores.flatMap fun p => p.2.liveTags.filterMap fun t =>
    if t.2.t && t.2.phase != .finished && t.2.targetCore (BitVec.ofNat 8 p.1) == c then some t.2.target.toNat else none).filter
      fun w => decide (w + 16 ≤ 0x40000)).dedup

/-- A plain store or copy to a core's scratch: a sync word that it touches while an arrival may reach the word takes an undefined
value, free bytes (R95). -/
def State.spoil (s : State) (c : CoreId) (a n : Nat) : State :=
  match (s.awaitedWords c).filter fun w => overlaps (w, 16) (a, n) with
  | [] => s
  | ws => { ws.foldl (fun t w => t.modCore c fun x =>
      x.writeScratch w ((List.range 16).map fun i => Config.freeByte s.seq (w + i))) s with seq := s.seq + 1 }

/-- Several stores of one core. -/
def State.spoilAll (s : State) (c : CoreId) (xs : List (Nat × Nat)) : State := xs.foldl (fun t x => t.spoil c x.1 x.2) s

/-! ## CIM.MODE (R37, R38) -/

/-- The lowest offset of a command's destination bytes from its endpoint: negative strides go below it (R155). -/
def CopyOp.lowest (o : CopyOp) : Int :=
  match o with
  | .cpys _ dims => dims.foldl (fun a d => a + min 0 ((d.count - 1 : Int) * d.dstride)) 0
  | _ => 0

/-- The bank in which a copy's destination lies, with its core (R38): shadow rows, a bank window of its own core or another, or a
queue held in a bank. -/
def Core.destBank (c : Core) (k : CoreId) (t : Tag) : Option (CoreId × BitVec 5) :=
  let kind := bits t.dest 63 61
  let win (m : CoreId) (a : Nat) : Option (CoreId × BitVec 5) := match region a with | .window b => some (m, b) | _ => none
  match t.what with
  | .atom _ _ _ _ _ _ _ => none
  | .laneLoad _ _ _ => none
  | _ =>
    if kind = 3 then some (k, BitVec.ofNat 5 (bits t.dest 24 20))
    else if kind = 1 then win k (bits t.dest 19 0 + t.what.lowest).toNat
    else if kind = 2 then win (BitVec.ofNat 8 (bits t.dest 27 20)) (bits t.dest 19 0 + t.what.lowest).toNat
    else if kind = 4 then win k (c.q (BitVec.ofNat 3 (bits t.dest 2 0))).base
    else none

/-- Whether a pass in flight uses a bank (R38). -/
def Landing.passOn (l : Landing) (b : BitVec 5) : Bool :=
  match l.pass with
  | some (first, n) => decide (first ≤ b.toNat) && decide (b.toNat < first + n)
  | none => false

/-- Whether a copy of the same context, issued before a place in the order of issue, has yet to complete into a core's bank
(R38). -/
def State.copiesInto (s : State) (m : CoreId) (b : BitVec 5) (stamp : Nat) : Bool :=
  s.cores.any fun p =>
    p.2.task.ctx == (s.core m).task.ctx && p.2.liveTags.any fun t =>
      decide (t.2.order < stamp) && p.2.destBank (BitVec.ofNat 8 p.1) t.2 == some (m, b) && t.2.phase != .finished

/-- Whether the VS may perform a CIM.MODE on a member's bank (R38): every pass on the bank has landed, and every copy issued
before it with a destination in the bank has completed or faulted. -/
def State.modeReady (s : State) (m : CoreId) (b : BitVec 5) (stamp : Nat) : Bool :=
  ((s.core m).landing.all fun l => !l.passOn b) && !s.copiesInto m b stamp

/-- Begins a CIM.MODE: the bank is busy for 64 arithmetic clock cycles (R37). -/
def Core.modeBegin (c : Core) (b : BitVec 5) (compute : Bool) (kind : BitVec 5) (stamp : Nat) : Core :=
  { c.setBank b { c.bank b with busy := true } with zeroing := some ⟨b, compute, kind, 64, stamp⟩ }

/-- Ends a CIM.MODE: both halves are zero and the bank takes its mode (R37). -/
def Core.modeEnd (c : Core) (z : Zeroing) : Core :=
  let c := c.setBank z.bank (if z.compute then Bank.ofKind z.kind else Bank.reset)
  { c with
    scratch := memZero c.scratch (windowBase z.bank) 0x3000
    dirty := markDirty c.dirty (32768 + windowBase z.bank) 0x3000
    zeroing := none }

/-- Performs the CIM.MODE at the head of a leader's command queue on its crew, when it may. -/
def modePerform (s : State) (k : CoreId) : State :=
  match (s.core k).cmdq with
  | .mode b compute kind _ stamp :: _ =>
    let crew := s.crew k
    if s.crewFree k && crew.all fun m => s.modeReady m b stamp then
      let s := crew.foldl (fun s m => s.modCore m fun c => c.modeBegin b compute kind stamp) s
      s.modCore k fun c => { c with cmdq := c.cmdq.drop 1 }
    else s
  | _ => s

/-! ## Turns of the vector sequencer -/

/-- The order qualifier of an atomic (R162): 1 .ACQ, 2 .REL, 3 .AR. -/
def CopyOp.ord (o : CopyOp) : Nat := match o with | .atom _ _ _ ord _ _ _ => ord | _ => 0

/-- Whether a loop command issued before a place in the order of issue has groups or results outstanding (R90); a stopped stream
issues and lands nothing more (R338). -/
def Core.loopsBefore (c : Core) (stamp : Nat) : Bool :=
  (match c.run with | .running | .preempting => true | _ => false) &&
  ((match c.loopRun with | some r => decide (r.c.stamp < stamp) | none => !c.landing.isEmpty) ||
  c.cmdq.any fun x => match x with | .loop l => decide (l.stamp < stamp) | .mode _ _ _ _ _ => false)

/-- Whether an ATOM.REL still waits for groups of the vector stream (R90). -/
def Core.relWaits (c : Core) : Bool :=
  c.liveTags.any fun p => p.2.phase == .issued && decide (2 ≤ p.2.what.ord) && c.loopsBefore p.2.order

/-- Whether a core's vector stream is stopped for a pre-emption (R347): idle, or at the first group of an iteration that
is not stalled; an ATOM.REL in flight lets the groups it waits for go on (log 15). -/
def Core.vsStopped (c : Core) : Bool :=
  c.zeroing.isNone && !c.relWaits && (match c.loopRun with | none => true | some r => r.off == 0 && c.stall == 0)

/-- Whether a core's vector stream may issue or land; a CIM.MODE that is zeroing goes on through a stop (R347). -/
def Core.vsRuns (c : Core) : Bool :=
  !c.missVs && (match c.run with
    | .running => true
    | .preempting => !c.vsStopped
    | .stopping _ | .cancelling => c.zeroing.isSome
    | _ => false)

/-- Whether a core leads the cores in step with it and they may move; a member whose task has ended moves no more, nor does its rope
(R44). Cores that are pre-empted together go on while the vector stream of one of them has not stopped (R350). -/
def State.crewMoves (s : State) (k : CoreId) : Bool :=
  (s.band k).headD k == k && ((s.band k).any fun m => (s.core m).vsRuns) && (s.band k).all fun m =>
    let c := s.core m
    !c.missVs && !c.isEnding && c.rope.map (fun r => r.mask) == (s.core k).rope.map (fun r => r.mask) &&
      c.task.ctx == (s.core k).task.ctx

/-- An arithmetic clock cycle of a bank's zeroing (R37). -/
def Core.zeroCycle (c : Core) : Core := { c with zeroing := c.zeroing.map fun z => { z with cycles := z.cycles - 1 } }

/-- The cycle count at which a stall becomes the queue-stall trap (R45). -/
def stallLimit : Nat := 2 ^ 20

/-- d0 of the queue-stall trap (R340). -/
def Core.stallDetail (c : Core) (w : Wanted) : Nat :=
  match w with
  | .dataQ q => q.toNat
  | .addrQ => 8
  | .refill q => 16 + q.toNat
  | .bank b => 24 + 256 * b.toNat
  | .paramQ => 32 + (match c.overflow with | some q => q.toNat | none => 0)

/-- A clock cycle in which a crew's group waits (R237): partial effects, the count, and the queue-stall trap. -/
def stallCycle (s : State) (crew : List CoreId) (evs : List (CoreId × GEval)) : State :=
  let s := evs.foldl (fun s p => match p.2 with | .lack _ _ c => s.setCore p.1 c | _ => s) s
  let s := crew.foldl (fun s m => s.modCore m fun c => { c with stall := c.stall + 1 }) s
  if crew.any fun m => decide (stallLimit ≤ (s.core m).stall) then
    crewTrap s crew (evs.filterMap fun p => match p.2 with
      | .lack w slot _ => some (p.1, (s.core p.1).groupRecord ⟨causeStall, slot, (s.core p.1).stallDetail w, 0⟩)
      | _ => none)
  else s

/-- A gather or scatter fault found, which stops the vector stream before its next group (R231). -/
def gatherStop (s : State) (crew : List CoreId) : Option State :=
  let found := crew.filterMap fun m => (s.core m).gatherFaults.head?.map fun f =>
    (m, { (s.core m).groupRecord f.1 with status := f.2.2, tag := [f.2.1] })
  if found.isEmpty then none else some (crewTrap s crew found)

/-- The arithmetic-exception trap of a crew: each firing member writes its record, the others a rope stop (R44, R57). -/
def crewFire (s : State) (crew : List CoreId) (f : CoreId) : State :=
  crew.foldl (fun s m => if (s.core m).firing = [] then
    takeTrap s m ((s.core m).groupRecord ⟨causeRopeStop, 6, f.toNat, causeArith⟩) else fireTrap s m) s

/-- The scratch extent that a vector word stores to (R232). -/
def Core.xstExtent (c : Core) (i : Instr) : Option (Nat × Nat) :=
  match i with
  | .xst _ n a o =>
    match c.xName n with
    | .ok x => (c.xAddr a o x.size).toOption.map fun p => (p, x.size)
    | .error _ => none
  | _ => none

/-- The scratch that the results due are written to: QPAR's records (R196). -/
def Core.dueStores (c : Core) : List (Nat × Nat) :=
  c.due.filterMap fun l => match l.v with | .scratch a v => some (a, v.length) | _ => none

/-- The scratch that the vector stream writes in this cycle: a group's stores and the records that land (R196, R233). -/
def Core.vsStores (c : Core) (g : Grp) : List (Nat × Nat) :=
  c.dueStores ++ g.items.filterMap fun p => match decodeVector p.2.toNat with | .ok i => c.xstExtent i | .error _ => none

/-- An issue cycle of cores in step in which no group issues, and a cycle of a bank's zeroing (R37, R244). -/
def State.idleCycles (s : State) (crew : List CoreId) : State :=
  crew.foldl (fun t m => (t.modCore m fun c => c.idleCycle.zeroCycle).spoilAll m (t.core m).dueStores) s

/-- The next group of a body (R105), from the offset at hand on. -/
def State.nextGroup (s : State) (k : CoreId) (r : LoopRun) : Grp :=
  parseGroup (s.bodyWord (s.core k) r) r.words (r.words + 1) r.off 0 0 []

/-- A loop in progress at the first word of its next group, past the pad words before it. -/
def State.atGroup (s : State) (k : CoreId) (r : LoopRun) : LoopRun :=
  if r.zpf.isSome then { r with off := r.off + (((r.buf.getD []).drop r.off).takeWhile (· == padWord)).length }
  else { r with off := match (s.nextGroup k r).items with | (a, _) :: _ => a | [] => r.off }

/-- The gather or scatter fault that cores have found when their vector stream stops (R231): the record names the group that would
issue next, the first one of a loop command that is queued. -/
def gatherRaise (s : State) (crew : List CoreId) (k : CoreId) : Option State :=
  if crew.all fun m => (s.core m).gatherFaults.isEmpty then none
  else
    let s := match (s.core k).loopRun, (s.core k).cmdq with
      | none, .loop l :: _ => beginLoop s k l
      | _, _ => s
    match (s.core k).loopRun with
    | some r => gatherStop (crew.foldl (fun t m => t.modCore m fun c => { c with loopRun := some (s.atGroup k r) }) s) crew
    | none => gatherStop s crew

/-- The group of a loop in progress, on the cores in step: it traps, waits or issues on every member at once (R44). -/
def groupCycle (s : State) (k : CoreId) (r : LoopRun) : State :=
  let crew := s.band k
  let start := r.c.start.toNat
  let g := s.nextGroup k r
  let r := s.atGroup k r
  let s := crew.foldl (fun s m => s.modCore m fun c => { c with loopRun := some r }) s
  match gatherStop s crew, crew.find? fun m => (s.core m).firing ≠ [] with
  | some s', _ => s'
  | none, some f => crewFire s crew f
  | none, none =>
    let evs := crew.map fun m => (m, (s.core m).evalGroup start g)
    let traps := evs.filterMap fun p => match p.2 with
      | .trap t => some (p.1, (s.core p.1).groupRecord t)
      | _ => none
    if !traps.isEmpty then crewTrap s crew traps
    else if evs.any fun p => match p.2 with | .lack _ _ _ => true | _ => false then stallCycle s crew evs
    else
      let s := evs.foldl (fun t p => match p.2 with
        | .issued c => (t.setCore p.1 c).spoilAll p.1 ((s.core p.1).vsStores g)
        | _ => t) s
      advance s k r g.next

/-- Lands at once everything a portable instruction produced (R252). -/
def Core.settle (c : Core) : Core := { c.landAll c.landing with landing := [], occ := ⟨0, 0, 0, 0, 0⟩ }

/-- The register-space bytes that no declared view claims hold unspecified values after a loop command (R254). -/
def Core.unclaimed (c : Core) (r : LoopRun) (seq : Nat) : Core :=
  c.writeRegs 0 ((List.range 32768).map fun a =>
    if viewClaims r.c.views r.c.order.toNat a then memGet c.regs a else Config.freeByte seq a)

/-- The trap of a word's own decode checks (R122, steps 3 and 4): a pass on a bank in SCRATCH mode, or an illegal operand. -/
def Core.wordTrap (c : Core) (i : Instr) : Option Trap :=
  match (passWord i).bind c.passBank with
  | some b => some (c.bankTrap b 6)
  | none => match c.wordInfo i with
    | .error n => some (grpTrap n c.groupAddr.toNat)
    | .ok _ => none

/-- One portable instruction of a finalised body (R252, R254): it reads after every earlier result is in place. Its checks
are its entry's own; timing, ports and occupancy do not apply. -/
def portableStep (s : State) (k : CoreId) (r : LoopRun) : State :=
  let crew := s.band k
  let finish (s : State) : State :=
    let r' : Option LoopRun := if r.off + 1 < r.words then some { r with off := r.off + 1 }
      else if r.iter + 1 < r.c.total then some { r with iter := r.iter + 1, off := 0 } else none
    let s := crew.foldl (fun s m => s.modCore m fun c =>
      let c := { c with loopRun := r', stall := 0 }
      if r'.isNone then c.unclaimed r s.seq else c) s
    let s := if r'.isNone then { s with seq := s.seq + 1 } else s
    match r', (s.core k).cmdq with
    | none, .loop l :: _ => if s.crewFree k then beginLoop s k l else s
    | _, _ => s
  match ((r.buf.getD [])[r.off]?).map fun w => (w, decodeVector w.toNat), gatherStop s crew with
  | none, _ => finish s
  | some (_, .error .pad), _ => finish s
  | some (_, .ok .nop), _ => finish s
  | some _, some s' => s'
  | some (w, .error _), none =>
    crewTrap s crew (crew.map fun m => (m, (s.core m).groupRecord ⟨causeIllegal, 6, w.toNat, 4 * r.off⟩))
  | some (_, .ok i), none =>
    let evs : List (CoreId × GEval) := crew.map fun m =>
      let c := s.core m
      (m, match c.wordTrap i with
        | some t => .trap t
        | none => match vword i c with
          | .error (.trap t) => .trap t
          | .error (.lack x) => .lack x (slotOf i) (c.wordStalled i)
          | .ok c' => .issued c')
    let traps := evs.filterMap fun p => match p.2 with
      | .trap t => some (p.1, (s.core p.1).groupRecord t)
      | _ => none
    if !traps.isEmpty then crewTrap s crew traps
    else if evs.any fun p => match p.2 with | .lack _ _ _ => true | _ => false then stallCycle s crew evs
    else
      let stored (m : CoreId) := ((s.core m).xstExtent i).toList
      let s := evs.foldl (fun t p => match p.2 with
        | .issued c => (t.setCore p.1 c).spoilAll p.1 (stored p.1)
        | _ => t) s
      let due (c : Core) : Core := { c with landing := c.landing.map fun l => { l with d := 0 } }
      let s := crew.foldl (fun s m => s.modCore m due) s
      match crew.find? fun m => (s.core m).firing ≠ [] with
      | some f => crewFire s crew f
      | none => finish (crew.foldl (fun t m => (t.modCore m Core.settle).spoilAll m (t.core m).dueStores) s)

/-- A clock cycle of the vector sequencer of a core (R27, R38, R44, R244). -/
def vsCycle (s : State) (k : CoreId) : State :=
  let c := s.core k
  let crew := s.band k
  if c.isEnding then s.setCore k c.zeroCycle
  else if !s.crewMoves k then s
  else match c.loopRun with
    | some r => if r.zpf.isSome then portableStep s k r else groupCycle s k r
    | none =>
      match crew.find? fun m => decide ((s.core m).firing ≠ []) with
      | some f => crewFire s crew f
      | none =>
        let idle := s.idleCycles crew
        match c.zeroing, c.cmdq with
        | some _, _ => idle
        | none, .loop l :: _ =>
          if s.crewFree k && (s.crew k).all fun m => (s.core m).calm then beginLoop s k l else idle
        | none, .mode b _ _ _ stamp :: _ =>
          if s.crewFree k && (s.crew k).all fun m => s.modeReady m b stamp then modePerform s k else idle
        | none, [] => if c.wait == .done then (gatherStop s crew).getD idle else idle

/-! ## Single words -/

/-- A vector word by itself, as the group of the current core: its decode trap, its effect with what its store does to a sync word
(R95), its trap, or its wait. -/
def vrun (i : Instr) (s : State) : Out :=
  match s.me.wordTrap i with
  | some t => .next (takeTrap s s.cur (s.me.groupRecord t))
  | none => match vword i s.me with
    | .ok c => .next ((s.setMe c).spoilAll s.cur (s.me.xstExtent i).toList)
    | .error (.trap t) => .next (takeTrap s s.cur (s.me.groupRecord t))
    | .error (.lack _) => .next (s.setMe { s.me.wordStalled i with stall := s.me.stall + 1 })

end Sys2Proof.Machine
end

