-- ==== Sys2Proof/Machine/Control.lean ====
section
/-! DEFINITION. The control stream's core set (06): integer operations, branches, scratch loads, stores and atomics,
fences, system registers, the software trap, event flags; and instruction fetch (R104, R106, R107, R134). -/

namespace Sys2Proof.Machine

/-! ## Fetch (R104-R107, R134) -/

/-- What a fetch gives: an instruction at an address, a word that raises the illegal-instruction trap, or a PC that
raises the fetch trap. -/
inductive Fetched where
  | insn (pc : Word64) (i : Instr)
  | illegal (pc : Word64) (w : Word32)
  | outside (pc : Word64)
deriving DecidableEq, Repr

/-- The words from an address, at most `n`, while they lie in the control-stream code. -/
def State.ctlWords (s : State) (k : CoreId) (a : Nat) : Nat → List Nat
  | 0 => []
  | n + 1 => match s.ctlWord k a with
    | some w => w.toNat :: s.ctlWords k (a + 4) n
    | none => []

/-- Fetches at an address, discarding pad words (R107); `fuel` bounds them by the length of the code. A CI, CM or first LIMM word
that chains to a word outside the code region, or on a page that no device leaf maps, has no LIMM word after it and raises the
illegal-instruction trap, although a fetch there by itself raises the fetch trap (R106, R134; log 23, DESIGN CHOICE). -/
def fetchAt (s : State) (k : CoreId) : Nat → Word64 → Fetched
  | 0, pc => .outside pc
  | fuel + 1, pc =>
    match s.ctlWords k pc.toNat 3 with
    | [] => .outside pc
    | w :: ws =>
      match decodeControl (w :: ws) with
      | .ok (i, _) => .insn pc i
      | .error .pad => fetchAt s k fuel (pc + 4)
      | .error _ => .illegal pc (BitVec.ofNat 32 w)

/-- The fetch of a core's control processor. -/
def State.fetch (s : State) (k : CoreId) : Fetched :=
  fetchAt s k (match s.launchOf k with | some l => l.clen / 4 + 1 | none => 1) (s.core k).pc

/-- The illegal-instruction trap of the control stream (R119, R106): d0 the first word, d1 its address. -/
def execIllegalInstruction (w : Word32) (st : State) : Out :=
  .next (cpTrap st ⟨causeIllegal, 0, w.toNat, st.me.pc.toNat⟩)

/-! ## Integer operations (R126-R131) -/

/-- Writes a result and moves past an instruction of `n` words. -/
def cpWrite (st : State) (d : BitVec 5) (v : Word64) (n : Nat) : Out := .next (st.setMe ((st.me.setG d v).adv n))

/-- An operation of 64 bits, or under .W of 32 with a sign-extended result (R128). -/
def wide (w : Bool) (f : (n : Nat) → BitVec n → BitVec n → BitVec n) (x y : Word64) : Word64 :=
  if w then (f 32 (x.truncate 32) (y.truncate 32)).signExtend 64 else f 64 x y

def opShl (n : Nat) (x y : BitVec n) : BitVec n := x <<< (y.toNat % n)
def opShr (n : Nat) (x y : BitVec n) : BitVec n := x >>> (y.toNat % n)
def opSar (n : Nat) (x y : BitVec n) : BitVec n := x.sshiftRight (y.toNat % n)
/-- Division (R129): all ones for a zero divisor. -/
def opDiv (n : Nat) (x y : BitVec n) : BitVec n := if y = 0#n then BitVec.allOnes n else x.sdiv y
def opDivu (n : Nat) (x y : BitVec n) : BitVec n := if y = 0#n then BitVec.allOnes n else x.udiv y
def opRem (n : Nat) (x y : BitVec n) : BitVec n := if y = 0#n then x else x.srem y
def opRemu (n : Nat) (x y : BitVec n) : BitVec n := if y = 0#n then x else x.umod y
def opSlt (x y : Word64) : Word64 := if x.toInt < y.toInt then 1 else 0
def opSltu (x y : Word64) : Word64 := if x.toNat < y.toNat then 1 else 0

/-- The values of two source registers. -/
def State.two (st : State) (f : Word64 → Word64 → Word64) (s t : BitVec 5) : Word64 := f (st.me.gr s) (st.me.gr t)

/-- ADD (R128). -/
def execAdd (d s t : BitVec 5) (w : Bool) (st : State) : Out := cpWrite st d (st.two (wide w fun _ => (· + ·)) s t) 1
/-- SUB (R128). -/
def execSub (d s t : BitVec 5) (w : Bool) (st : State) : Out := cpWrite st d (st.two (wide w fun _ => (· - ·)) s t) 1
/-- AND (R128). -/
def execAnd (d s t : BitVec 5) (st : State) : Out := cpWrite st d (st.two (· &&& ·) s t) 1
/-- OR (R128). -/
def execOr (d s t : BitVec 5) (st : State) : Out := cpWrite st d (st.two (· ||| ·) s t) 1
/-- XOR (R128). -/
def execXor (d s t : BitVec 5) (st : State) : Out := cpWrite st d (st.two (· ^^^ ·) s t) 1
/-- SHL (R128). -/
def execShl (d s t : BitVec 5) (w : Bool) (st : State) : Out := cpWrite st d (st.two (wide w opShl) s t) 1
/-- SHR (R128). -/
def execShr (d s t : BitVec 5) (w : Bool) (st : State) : Out := cpWrite st d (st.two (wide w opShr) s t) 1
/-- SAR (R128). -/
def execSar (d s t : BitVec 5) (w : Bool) (st : State) : Out := cpWrite st d (st.two (wide w opSar) s t) 1
/-- MUL (R128). -/
def execMul (d s t : BitVec 5) (w : Bool) (st : State) : Out := cpWrite st d (st.two (wide w fun _ => (· * ·)) s t) 1
/-- MULH (R128): bits [127:64] of the exact signed product. -/
def execMulh (d s t : BitVec 5) (st : State) : Out :=
  cpWrite st d (st.two (fun x y => BitVec.ofInt 64 (x.toInt * y.toInt / 2 ^ 64)) s t) 1
/-- MULHU (R128). -/
def execMulhu (d s t : BitVec 5) (st : State) : Out :=
  cpWrite st d (st.two (fun x y => BitVec.ofNat 64 (x.toNat * y.toNat / 2 ^ 64)) s t) 1
/-- DIV (R129). -/
def execDiv (d s t : BitVec 5) (w : Bool) (st : State) : Out := cpWrite st d (st.two (wide w opDiv) s t) 1
/-- DIVU (R129). -/
def execDivu (d s t : BitVec 5) (w : Bool) (st : State) : Out := cpWrite st d (st.two (wide w opDivu) s t) 1
/-- REM (R129). -/
def execRem (d s t : BitVec 5) (w : Bool) (st : State) : Out := cpWrite st d (st.two (wide w opRem) s t) 1
/-- REMU (R129). -/
def execRemu (d s t : BitVec 5) (w : Bool) (st : State) : Out := cpWrite st d (st.two (wide w opRemu) s t) 1
/-- SLT (R128). -/
def execSlt (d s t : BitVec 5) (st : State) : Out := cpWrite st d (st.two opSlt s t) 1
/-- SLTU (R128). -/
def execSltu (d s t : BitVec 5) (st : State) : Out := cpWrite st d (st.two opSltu s t) 1
/-- MIN (R128). -/
def execMin (d s t : BitVec 5) (st : State) : Out :=
  cpWrite st d (st.two (fun x y => if y.toInt < x.toInt then y else x) s t) 1
/-- MAX (R128). -/
def execMax (d s t : BitVec 5) (st : State) : Out :=
  cpWrite st d (st.two (fun x y => if x.toInt < y.toInt then y else x) s t) 1
/-- MINU (R128). -/
def execMinu (d s t : BitVec 5) (st : State) : Out :=
  cpWrite st d (st.two (fun x y => if y.toNat < x.toNat then y else x) s t) 1
/-- MAXU (R128). -/
def execMaxu (d s t : BitVec 5) (st : State) : Out :=
  cpWrite st d (st.two (fun x y => if x.toNat < y.toNat then y else x) s t) 1

/-- ADDI (R130). -/
def execAddi (d s : BitVec 5) (i : Imm 15) (st : State) : Out := cpWrite st d (st.me.gr s + imm15 i) (immWords i)
/-- ANDI (R130). -/
def execAndi (d s : BitVec 5) (i : Imm 15) (st : State) : Out := cpWrite st d (st.me.gr s &&& imm15 i) (immWords i)
/-- ORI (R130). -/
def execOri (d s : BitVec 5) (i : Imm 15) (st : State) : Out := cpWrite st d (st.me.gr s ||| imm15 i) (immWords i)
/-- XORI (R130). -/
def execXori (d s : BitVec 5) (i : Imm 15) (st : State) : Out := cpWrite st d (st.me.gr s ^^^ imm15 i) (immWords i)
/-- SLTI (R130). -/
def execSlti (d s : BitVec 5) (i : Imm 15) (st : State) : Out := cpWrite st d (opSlt (st.me.gr s) (imm15 i)) (immWords i)
/-- SLTIU (R130). -/
def execSltiu (d s : BitVec 5) (i : Imm 15) (st : State) : Out := cpWrite st d (opSltu (st.me.gr s) (imm15 i)) (immWords i)
/-- SHLI (R131). -/
def execShli (d s : BitVec 5) (w : Bool) (h : BitVec 6) (st : State) : Out :=
  cpWrite st d (wide w opShl (st.me.gr s) (h.zeroExtend 64)) 1
/-- SHRI (R131). -/
def execShri (d s : BitVec 5) (w : Bool) (h : BitVec 6) (st : State) : Out :=
  cpWrite st d (wide w opShr (st.me.gr s) (h.zeroExtend 64)) 1
/-- SARI (R131). -/
def execSari (d s : BitVec 5) (w : Bool) (h : BitVec 6) (st : State) : Out :=
  cpWrite st d (wide w opSar (st.me.gr s) (h.zeroExtend 64)) 1

/-! ## Branches and jumps (R132-R134) -/

/-- A conditional branch: to PC + SignExtend(i) × 4, or past itself. -/
def branch (st : State) (taken : Bool) (i : BitVec 15) : Out :=
  let c := st.me
  .next (st.setMe (if taken then c.goto (c.pc + i.signExtend 64 * 4) else c.adv 1))

/-- BEQ (R132). -/
def execBeq (s t : BitVec 5) (i : BitVec 15) (st : State) : Out := branch st (st.me.gr s == st.me.gr t) i
/-- BNE (R132). -/
def execBne (s t : BitVec 5) (i : BitVec 15) (st : State) : Out := branch st (st.me.gr s != st.me.gr t) i
/-- BLT (R132). -/
def execBlt (s t : BitVec 5) (i : BitVec 15) (st : State) : Out :=
  branch st (decide ((st.me.gr s).toInt < (st.me.gr t).toInt)) i
/-- BGE (R132). -/
def execBge (s t : BitVec 5) (i : BitVec 15) (st : State) : Out :=
  branch st (decide ((st.me.gr t).toInt ≤ (st.me.gr s).toInt)) i
/-- BLTU (R132). -/
def execBltu (s t : BitVec 5) (i : BitVec 15) (st : State) : Out :=
  branch st (decide ((st.me.gr s).toNat < (st.me.gr t).toNat)) i
/-- BGEU (R132). -/
def execBgeu (s t : BitVec 5) (i : BitVec 15) (st : State) : Out :=
  branch st (decide ((st.me.gr t).toNat ≤ (st.me.gr s).toNat)) i

/-- JAL (R133). -/
def execJal (d : BitVec 5) (i : BitVec 20) (st : State) : Out :=
  let c := st.me
  .next (st.setMe ((c.setG d (c.pc + 4)).goto (c.pc + i.signExtend 64 * 4)))

/-- JALR (R133): a misaligned next PC traps at the JALR. -/
def execJalr (d s : BitVec 5) (i : Imm 15) (st : State) : Out :=
  let c := st.me
  let next := c.gr s + imm15 i
  if next.toNat % 4 ≠ 0 then .next (cpTrap st ⟨causeFetch, 0, next.toNat, c.pc.toNat⟩)
  else .next (st.setMe ((c.setG d (c.pc + BitVec.ofNat 64 (4 * immWords i))).goto next))

/-! ## Scratch loads and stores (R135, R136) -/

/-- Where an access of the control stream goes: it traps, waits for a bank's zeroing, or reaches an address. -/
inductive LsAt where
  | trap (t : Trap)
  | wait
  | at (a : Nat)
deriving DecidableEq, Repr

/-- Whether a CIM.MODE on a bank has been issued and has not finished zeroing (R38). Of a rope's follower the core's own queue and
bank count, and not what its leader has queued: the model's reading (log 77, DEDUCED). -/
def Core.modePending (c : Core) (b : BitVec 5) : Bool :=
  (c.bank b).busy || c.zeroing.any (·.bank == b) ||
  c.cmdq.any fun x => match x with | .mode b' _ _ _ _ => b' == b | .loop _ => false

/-- The checks of R135; an atomic may not touch the control page (R137). -/
def Core.lsAddr (c : Core) (ea : Int) (n : Nat) (amo : Bool) : LsAt :=
  if ea < 0 ∨ 2 ^ 20 < ea + n then .trap ⟨causeRange, 0, (word ea).toNat, n⟩
  else
    let a := ea.toNat
    if a % n ≠ 0 then .trap ⟨causeAlign, 0, a, n⟩
    else match region a with
      | .unmapped => .trap ⟨causeRange, 0, a, n⟩
      | .control => if amo || decide (n < 4) then .trap ⟨causeRange, 0, a, n⟩ else .at a
      | .window b =>
        if c.modePending b then .wait
        else if (c.bank b).compute then .trap (c.bankTrap b 0)
        else .at a
      | .plain => .at a

/-- A 4-byte word of the control page (R76). -/
def Core.pageWord (c : Core) (id : CoreId) (o : Nat) : Nat :=
  if o = 0 then id.toNat
  else if 0x100 ≤ o ∧ o < 0x180 then (c.bank (BitVec.ofNat 5 ((o - 0x100) / 4))).status
  else if 0x200 ≤ o ∧ o < 0x280 then
    let m := c.accOvf[(o - 0x200) / 8 % 16]'(Nat.mod_lt _ (by decide))
    if (o - 0x200) / 4 % 2 = 1 then bits m 63 32 else bits m 31 0
  else 0

/-- What a load reads (R135, R136). -/
def Core.lsRead (c : Core) (id : CoreId) (a n : Nat) : Nat :=
  match region a with
  | .control =>
    let o := a - 0xF0000
    c.pageWord id o + (if n = 8 then c.pageWord id (o + 4) * 2 ^ 32 else 0)
  | _ => c.scratchNat a n

/-- A store to the control page (R136): accumulator overflow masks clear by W1C, everything else is ignored. -/
def Core.pageStore (c : Core) (o n v : Nat) : Core :=
  if 0x200 ≤ o ∧ o < 0x280 then
    let k := (o - 0x200) / 8 % 16
    let m := if n = 8 then v else if (o - 0x200) / 4 % 2 = 1 then v % 2 ^ 32 * 2 ^ 32 else v % 2 ^ 32
    { c with accOvf := c.accOvf.set k (c.accOvf[k]'(Nat.mod_lt _ (by decide)) &&& ~~~(BitVec.ofNat 64 m)) (Nat.mod_lt _ (by decide)) }
  else c

/-- What a store writes (R135, R136). -/
def Core.lsWrite (c : Core) (a n v : Nat) : Core :=
  match region a with
  | .control => c.pageStore (a - 0xF0000) n v
  | _ => c.writeScratch a (toBytes n v)

/-- The effective address of a load or store: g[gs1], signed, plus the immediate (R135). -/
def Core.ea (c : Core) (s : BitVec 5) (i : Imm 12) : Int := (c.gr s).toInt + (imm12 i).toInt

/-- A load or store that waits on a busy bank is executed again (R127). -/
def cpAgain (st : State) (i : Instr) : Out := .next (st.setMe { st.me with wait := .again i })

/-- The current core with no wait, before an instruction completes. -/
def Core.awake (c : Core) : Core := { c with wait := .no }

/-- A load; `sx` sign-extends. -/
def load (st : State) (sx : Bool) (g s : BitVec 5) (w : BitVec 2) (i : Imm 12) (again : Instr) : Out :=
  let c := st.me
  let n := 2 ^ w.toNat
  match c.lsAddr (c.ea s i) n false with
  | .trap t => .next (cpTrap st t)
  | .wait => cpAgain st again
  | .at a =>
    let v := c.lsRead st.cur a n
    let x : Word64 := if sx then BitVec.ofInt 64 (sext (8 * n) v) else BitVec.ofNat 64 v
    .next (st.setMe ((c.awake.setG g x).adv (immWords i)))

/-- LD (R135). -/
def execLd (g s : BitVec 5) (w : BitVec 2) (i : Imm 12) (st : State) : Out := load st false g s w i (.ld g s w i)
/-- LDS (R135). -/
def execLds (g s : BitVec 5) (w : BitVec 2) (i : Imm 12) (st : State) : Out := load st true g s w i (.lds g s w i)

/-- ST (R135, R136), with what a plain store does to a sync word that arrivals may reach (R95). -/
def execSt (g s : BitVec 5) (w : BitVec 2) (i : Imm 12) (st : State) : Out :=
  let c := st.me
  let n := 2 ^ w.toNat
  match c.lsAddr (c.ea s i) n false with
  | .trap t => .next (cpTrap st t)
  | .wait => cpAgain st (.st g s w i)
  | .at a => .next ((st.setMe ((c.awake.lsWrite a n (c.gr g).toNat).adv (immWords i))).spoil st.cur a n)

/-! ## Scratch atomics (R137, R138) -/

/-- The atomic operations of AMO and ATOM codes 0 to 9 (R137). -/
inductive AtomOp where
  | add | and | or | xor | min | max | minu | maxu | swap | cas
deriving DecidableEq, Repr

/-- The new value of a unit of `n` bits; none where a compare-and-swap fails (R137). -/
def AtomOp.result (op : AtomOp) (n old v cmp : Nat) : Option Nat :=
  match op with
  | .add => some ((old + v) % 2 ^ n)
  | .and => some (Nat.land old v)
  | .or => some (Nat.lor old v)
  | .xor => some (Nat.xor old v)
  | .min => some (if sext n v < sext n old then v else old)
  | .max => some (if sext n old < sext n v then v else old)
  | .minu => some (if v < old then v else old)
  | .maxu => some (if old < v then v else old)
  | .swap => some v
  | .cas => if old = cmp then some v else none

/-- A scratch atomic (R137); .REL and .AR are a release of the core scope (R138, R98). -/
def amo (op : AtomOp) (st : State) (d s t : BitVec 5) (r : BitVec 2) (x : Bool) (again : Instr) : Out :=
  let c := st.me
  let n := if x then 8 else 4
  match c.lsAddr (c.gr s).toInt n true with
  | .trap tr => .next (cpTrap st tr)
  | .wait => cpAgain st again
  | .at a =>
    let old := c.scratchNat a n
    let c1 := match op.result (8 * n) old ((c.gr t).toNat % 2 ^ (8 * n)) ((c.gr d).toNat % 2 ^ (8 * n)) with
      | some v => c.awake.writeScratch a (toBytes n v)
      | none => c.awake
    let c2 := if r.toNat / 2 = 1 then c1.release 1 else c1
    .next (st.setMe ((c2.setG d (BitVec.ofNat 64 old)).adv 1))

/-- AMO.ADD. -/
def execAmoAdd (d s t : BitVec 5) (r : BitVec 2) (x : Bool) (st : State) : Out := amo .add st d s t r x (.amoAdd d s t r x)
/-- AMO.AND. -/
def execAmoAnd (d s t : BitVec 5) (r : BitVec 2) (x : Bool) (st : State) : Out := amo .and st d s t r x (.amoAnd d s t r x)
/-- AMO.OR. -/
def execAmoOr (d s t : BitVec 5) (r : BitVec 2) (x : Bool) (st : State) : Out := amo .or st d s t r x (.amoOr d s t r x)
/-- AMO.XOR. -/
def execAmoXor (d s t : BitVec 5) (r : BitVec 2) (x : Bool) (st : State) : Out := amo .xor st d s t r x (.amoXor d s t r x)
/-- AMO.MIN. -/
def execAmoMin (d s t : BitVec 5) (r : BitVec 2) (x : Bool) (st : State) : Out := amo .min st d s t r x (.amoMin d s t r x)
/-- AMO.MAX. -/
def execAmoMax (d s t : BitVec 5) (r : BitVec 2) (x : Bool) (st : State) : Out := amo .max st d s t r x (.amoMax d s t r x)
/-- AMO.MINU. -/
def execAmoMinu (d s t : BitVec 5) (r : BitVec 2) (x : Bool) (st : State) : Out := amo .minu st d s t r x (.amoMinu d s t r x)
/-- AMO.MAXU. -/
def execAmoMaxu (d s t : BitVec 5) (r : BitVec 2) (x : Bool) (st : State) : Out := amo .maxu st d s t r x (.amoMaxu d s t r x)
/-- AMO.SWAP. -/
def execAmoSwap (d s t : BitVec 5) (r : BitVec 2) (x : Bool) (st : State) : Out := amo .swap st d s t r x (.amoSwap d s t r x)
/-- AMO.CAS: the comparand is gd. -/
def execAmoCas (d s t : BitVec 5) (r : BitVec 2) (x : Bool) (st : State) : Out := amo .cas st d s t r x (.amoCas d s t r x)

/-! ## Fences (R86-R88, R139, R140) -/

/-- Whether a command of the copy engine is still under way for a fence (R140). -/
def Tag.pending (t : Tag) : Bool := t.phase != .finished

/-- The access paths of a command's accesses, as a mask of R78: CE 4, TL 8, CW 16 (log 12). -/
def Tag.paths (t : Tag) : Nat :=
  let shadow := bits t.dest 63 61 = 3
  match t.what with
  | .cpyx _ _ _ _ _ => if shadow then 24 else 8
  | .laneLoad _ _ _ => 12
  | .cimFill _ => 20
  | .atom _ _ _ _ _ _ _ => 4
  | _ => if shadow then 20 else 4

/-- Every loop command issued has issued its last group and landed its results (R140). On a member of a rope the leader's loop
command that runs on it counts too, although R86 counts the commands of its own CP (log 16, DEDUCED). -/
def Core.vsQuiet (c : Core) : Bool :=
  c.loopRun.isNone && c.landing.isEmpty && c.cmdq.all fun x => match x with | .loop _ => false | .mode _ _ _ _ _ => true

/-- Whether a fence over a path mask has nothing to wait for; a DRAIN waits for gathers and scatters too (R140). -/
def Core.fenceMet (c : Core) (mask : Nat) (drain : Bool) : Bool :=
  (mask / 2 % 2 == 0 || c.vsQuiet) &&
  (c.liveTags.all fun p => !p.2.pending || Nat.land p.2.paths mask == 0) &&
  (!drain || (c.aq.isEmpty && c.elems.isEmpty))

/-- A fence: it returns at once, or the CP waits (R140). -/
def fence (st : State) (mask : Nat) (drain : Bool) (scope : BitVec 3) : Out :=
  let c := st.me
  if c.fenceMet mask drain then .next (st.setMe (c.awake.adv 1))
  else .next (st.setMe { c with wait := .fence (BitVec.ofNat 6 mask) drain scope })

/-- FENCE (R87): every path is in from. -/
def execFence (s : BitVec 3) (st : State) : Out := fence st 63 false s
/-- XFENCE (R86). -/
def execXfence (s : BitVec 3) (f _t : BitVec 6) (st : State) : Out := fence st f.toNat false s
/-- Whether a core runs a task whose control stream may go on. -/
def Core.cpRuns (c : Core) : Bool := c.run == .running && !c.missCp

/-! ## System registers (R141-R145) -/

/-- A system register: its value, and the bits a write may change (0 for RO). -/
structure SysReg where
  v : Word64
  rw : Word64
deriving DecidableEq, Repr

/-- A mask of the bits [hi:lo]. -/
def fieldMask (hi lo : Nat) : Word64 := BitVec.ofNat 64 ((2 ^ (hi + 1 - lo) - 1) * 2 ^ lo)

/-- Whether a number names a race register (R98, R99). -/
def isRace (n : Nat) : Bool := decide (0x040 ≤ n) && decide (n ≤ 0x048)

/-- The tile extent of a core's launch (R142). -/
def State.extentOf (s : State) (k : CoreId) : Word64 :=
  match s.launchOf k with | some l => l.extent.zeroExtend 64 | none => 0

/-- The system register of a number, as the current core sees it (R113). -/
def State.sysReg (s : State) (n : Nat) : Option SysReg :=
  let c := s.me
  let x := s.ctx c.task.ctx
  if n = 0x000 then some ⟨c.task.tile.zeroExtend 64, 0⟩
  else if n = 0x001 then some ⟨s.extentOf s.cur, 0⟩
  else if n = 0x002 then some ⟨c.task.launch.zeroExtend 64, 0⟩
  else if n = 0x003 then some ⟨c.task.ctx.zeroExtend 64, 0⟩
  else if n = 0x010 then some ⟨c.jetOrder.zeroExtend 64, 0⟩
  else if n = 0x011 then some ⟨c.fpFlags, fieldMask 42 0⟩
  else if n = 0x012 then some ⟨c.fpTrapen, fieldMask 42 0⟩
  else if n = 0x013 then some ⟨c.paramOvf, fieldMask 3 0⟩
  else if 0x018 ≤ n ∧ n ≤ 0x01F then some ⟨c.views[n % 8]'(Nat.mod_lt _ (by decide)), 0⟩
  else if n = 0x020 then some ⟨c.ctxPkey, fieldMask 63 0⟩
  else if 0x040 ≤ n ∧ n ≤ 0x043 then some ⟨x.raceBase[n % 4]'(Nat.mod_lt _ (by decide)), fieldMask 56 0⟩
  else if 0x044 ≤ n ∧ n ≤ 0x047 then
    some ⟨x.raceCtl[n % 4]'(Nat.mod_lt _ (by decide)), fieldMask 63 62 ||| fieldMask 56 0⟩
  else if n = 0x048 then some ⟨x.raceLog, fieldMask 56 12 ||| fieldMask 7 0⟩
  else none

/-- Writes the value a system register takes. -/
def State.setSysReg (s : State) (n : Nat) (v : Word64) : State :=
  let c := s.me
  let x := s.ctx c.task.ctx
  if n = 0x011 then s.setMe { c with fpFlags := v }
  else if n = 0x012 then s.setMe { c with fpTrapen := v }
  else if n = 0x013 then s.setMe { c with paramOvf := v }
  else if n = 0x020 then s.setMe { c with ctxPkey := v }
  else if n ≤ 0x043 then s.setCtx c.task.ctx { x with raceBase := x.raceBase.set (n % 4) v (Nat.mod_lt _ (by decide)) }
  else if n ≤ 0x047 then s.setCtx c.task.ctx { x with raceCtl := x.raceCtl.set (n % 4) v (Nat.mod_lt _ (by decide)) }
  else s.setCtx c.task.ctx { x with raceLog := v }

/-- The word of a system-register instruction, for the illegal-instruction trap's record (R340). -/
def sysWord (op : Nat) (g : BitVec 5) (n : BitVec 12) : Nat :=
  0x16 * 2 ^ 25 + g.toNat * 2 ^ 20 + op * 2 ^ 18 + n.toNat * 2 ^ 6

/-- Whether a write to param.ovf is refused (R143): the queue word it would name, and one whose elements would be lost. -/
def Core.ovfRefused (c : Core) (v : Word64) : Option (BitVec 3) :=
  let q := BitVec.ofNat 3 (bits v 2 0)
  let k := c.q q
  if bit v 3 && (!k.en || k.use ≠ 1) then some q
  else if c.overflowLen ≠ 0 && (bits v 2 0 ≠ bits c.paramOvf 2 0 || !bit v 3) then some (BitVec.ofNat 3 (bits c.paramOvf 2 0))
  else none

/-- SRD (R141). -/
def execSrd (g : BitVec 5) (n : BitVec 12) (st : State) : Out :=
  match st.sysReg n.toNat with
  | none => .next (cpTrap st ⟨causeIllegal, 0, sysWord 0 g n, st.me.pc.toNat⟩)
  | some r =>
    if isRace n.toNat && !(st.ctx st.me.task.ctx).dbg then .next (cpTrap st ⟨causePrivilege, 0, n.toNat, 0⟩)
    else cpWrite st g r.v 1

/-- SWR, SSET and SCLR: the new value goes through the register's access codes (R141). -/
def sysWrite (st : State) (op : Nat) (g : BitVec 5) (n : BitVec 12) (f : Word64 → Word64 → Word64) : Out :=
  match st.sysReg n.toNat with
  | none => .next (cpTrap st ⟨causeIllegal, 0, sysWord op g n, st.me.pc.toNat⟩)
  | some r =>
    if r.rw = 0 then .next (cpTrap st ⟨causeIllegal, 0, sysWord op g n, st.me.pc.toNat⟩)
    else if isRace n.toNat && !(st.ctx st.me.task.ctx).dbg then .next (cpTrap st ⟨causePrivilege, 0, n.toNat, 0⟩)
    else
      let v := maskWrite r.rw r.v (f r.v (st.me.gr g))
      match (if n.toNat = 0x013 then st.me.ovfRefused v else none) with
      | some q => .next (cpTrap st ⟨causeQueueRange, 0, q.toNat, 0⟩)
      | none =>
        let st' := st.setSysReg n.toNat v
        .next (st'.setMe (st'.me.adv 1))

/-- SWR (R141). -/
def execSwr (g : BitVec 5) (n : BitVec 12) (st : State) : Out := sysWrite st 1 g n fun _ y => y
/-- SSET (R141). -/
def execSset (g : BitVec 5) (n : BitVec 12) (st : State) : Out := sysWrite st 2 g n fun x y => x ||| y
/-- SCLR (R141). -/
def execSclr (g : BitVec 5) (n : BitVec 12) (st : State) : Out := sysWrite st 3 g n fun x y => x &&& ~~~y

/-! ## Trap and event flags (R146, R148) -/

/-- TRAP (R146). -/
def execTrap (i : BitVec 16) (st : State) : Out := .next (cpTrap st ⟨causeSoftware, 0, i.toNat, 0⟩)

/-- FSET (R148): a release of the CP path at core scope. -/
def execFset (f : BitVec 4) (st : State) : Out :=
  .next (st.setMe (({ st.me with flags := st.me.flags ||| flagBit f }.release 1).adv 1))

/-- FCLR (R148). -/
def execFclr (f : BitVec 4) (st : State) : Out :=
  .next (st.setMe ({ st.me with flags := st.me.flags &&& ~~~(flagBit f) }.adv 1))

/-- FWAIT (R148). -/
def execFwait (f : BitVec 4) (st : State) : Out :=
  let c := st.me
  if c.flag f then .next (st.setMe (c.awake.adv 1)) else .next (st.setMe { c with wait := .flag f })

/-- A waiting FWAIT returns once its flag is 1 (R148). -/
def execFwaitReturn (core : CoreId) (st : State) : Out :=
  let c := st.core core
  match c.wait with
  | .flag f => if c.cpRuns && c.flag f then .next (st.setCore core (c.awake.adv 1)) else .next st
  | _ => .next st

end Sys2Proof.Machine
end

