-- ==== Sys2Proof/Machine/Race.lean ====
section
/-! DEFINITION. The race detector of the debug privilege (R98, R99). -/

namespace Sys2Proof.Machine

/-- Who makes an access: a core on a path, or a host or peer agent. -/
inductive Agent where
  | core (c : CoreId) (path : Nat)
  /-- HX; `peer` for a card joined by a peer port. -/
  | hx (peer : Bool)
deriving DecidableEq, Repr

/-- The core id and path of an agent, as an entry and a log record hold them. -/
def Agent.id : Agent → Nat | .core c _ => c.toNat | .hx _ => 255
def Agent.path : Agent → Nat | .core _ p => p | .hx _ => 5

/-- The region that watches an address, lowest number first; a size outside 6 to 40 watches nothing. A region keeps watching on en
alone: one that was set stays watched after the context's debug privilege is taken away (R98 is silent; log 67, DESIGN CHOICE). -/
def Ctx.watch (x : Ctx) (va : Nat) : Option Nat :=
  (List.range 4).find? fun i =>
    let ctl := x.raceCtl[i % 4]'(Nat.mod_lt _ (by decide))
    let base := (x.raceBase[i % 4]'(Nat.mod_lt _ (by decide))).toNat
    let sz := bits ctl 5 0
    bit ctl 63 && decide (6 ≤ sz) && decide (sz ≤ 40) && decide (base ≤ va) && decide (va < base + 2 ^ sz)

/-- The address of a sector's shadow entry. -/
def Ctx.entryAt (x : Ctx) (i va : Nat) : Nat :=
  bits (x.raceCtl[i % 4]'(Nat.mod_lt _ (by decide))) 56 6 * 64 +
    8 * ((va - (x.raceBase[i % 4]'(Nat.mod_lt _ (by decide))).toNat) / 64)

/-- The least scope that contains a core and an agent (R80). -/
def State.leastScope (s : State) (a : CoreId) (b : Agent) : Nat :=
  match b with
  | .hx peer => if peer then 5 else 6
  | .core c _ =>
    if (match (s.core a).rope with | some r => dieOf a == dieOf c && bit r.mask (maskBit c) | none => false) then 2
    else if dieOf a = dieOf c then 3 else 4

/-- Whether an access conflicts with a sector's last write (R98). An entry of HX holds no interval and is not checked. -/
def State.conflicts (s : State) (e : Nat) (b : Agent) : Bool :=
  let a : CoreId := BitVec.ofNat 8 (fld e 59 52)
  let same := match b with | .core c _ => c == a | .hx _ => false
  if fld e 63 63 = 0 || fld e 62 60 = 5 || same then false
  else
    let c := s.core a
    let need := s.leastScope a b
    let age := (c.ivl - BitVec.ofNat 32 (fld e 31 0)).toNat
    if age = 0 then decide (fld e 51 49 < need)
    else match c.relScopes[age - 1]? with
      | some sc => decide (sc.toNat < need)
      | none => false

/-- Writes a record of a conflict (R98, R99); the index advances even where the ring is not writable. -/
def raceRecord (s : State) (n : CtxId) (va e : Nat) (b : Agent) (wr : Bool) : State :=
  let x := s.ctx n
  let idx := bits x.raceLog 7 0
  let w1 := at' 56 b.id + at' 53 b.path + at' 52 (ofBool wr) + at' 44 (fld e 59 52) + at' 41 (fld e 62 60)
  let rec32 := toBytes 8 va ++ toBytes 8 w1 ++ toBytes 8 (fld e 31 0) ++ toBytes 8 0
  let s := match s.ctxWrite n (bits x.raceLog 56 12 * 4096 + 32 * (idx % 128)) rec32 with
    | some s' => s'
    | none => s
  let x := s.ctx n
  s.setCtx n { x with raceLog := setFld x.raceLog 7 0 ((idx + 1) % 256) }

/-- A sector's new entry after a write (R98); `rsc` is the write's scope as a release, or 0. -/
def State.raceEntry (s : State) (b : Agent) (rsc : Nat) : Nat :=
  let ivl := match b with | .core c _ => (s.core c).ivl.toNat | .hx _ => 0
  at' 63 1 + at' 60 b.path + at' 52 b.id + at' 49 rsc + ivl

/-- One sector of an access: the state after the detector, and whether the access faults. -/
def raceSector (s : State) (n : CtxId) (b : Agent) (va : Nat) (wr : Bool) (rsc : Nat) (faults : Bool) : State × Bool :=
  let x := s.ctx n
  match x.watch va with
  | none => (s, false)
  | some i =>
    match s.ctxRead n (x.entryAt i va) 8 with
    | none => (s, false)
    | some (bs, s) =>
      let e := ofBytes bs
      let hit := s.conflicts e b
      if hit && faults && bit (x.raceCtl[i % 4]'(Nat.mod_lt _ (by decide))) 62 then (s, true)
      else
        let s := if hit then raceRecord s n va e b wr else s
        let s := if wr then (match s.ctxWrite n (x.entryAt i va) (toBytes 8 (s.raceEntry b rsc)) with
          | some s' => s'
          | none => s) else s
        (s, false)

/-- The 64-byte sectors of an extent. -/
def sectors (va len : Nat) : List Nat :=
  if len = 0 then [] else (List.range ((va + len - 1) / 64 - va / 64 + 1)).map fun i => max va (64 * (va / 64 + i))

/-- An access of `len` bytes at an address: the state after the detector, or the address at which it faults (act = 1). -/
def raceAccess (s : State) (n : CtxId) (b : Agent) (va len : Nat) (wr : Bool) (rsc : Nat) (faults : Bool) :
    State × Option Nat :=
  (sectors va len).foldl (fun p a => match p.2 with
    | some _ => p
    | none =>
      let r := raceSector p.1 n b a wr rsc faults
      (r.1, if r.2 then some a else none)) (s, none)

end Sys2Proof.Machine
end

