-- ==== Sys2Proof/Machine/Links.lean ====
section
/-! DEFINITION. What the card sends over its links: reads and writes of host memory (R292), Translation Requests (R293), page
requests (R295), and flits and commands of the peer ports (R297-R300). -/

namespace Sys2Proof.Machine

/-! ## The host port -/

/-- Takes a request number. -/
def State.newReq (s : State) : State := { s with ports := { s.ports with nextReq := s.ports.nextReq + 1 } }

/-- The next request number. -/
def State.req (s : State) : Nat := s.ports.nextReq

/-- The PASID that a context's requests carry (R286). -/
def State.pasid (s : State) (n : CtxId) : BitVec 20 := (s.ctx n).cfg.truncate 20

/-- How a request of a context names bytes of host memory: by the translated address where ATS gave one, else by the virtual
address with the PASID (R286, R292, R293). -/
def State.hostAddr (s : State) (n : CtxId) (hpa : Option Nat) (va : Nat) : HostAddr :=
  match hpa with
  | some h => .translated h
  | none => .untranslated (s.pasid n) va

/-- Sends a Memory Read (R292); a length of 0 is the read that flushes writes. -/
def hostRead (s : State) (n : CtxId) (hpa : Option Nat) (va len : Nat) (who : Waiter) : State :=
  let s' := { s with ports := { s.ports with reads := s.ports.reads ++ ([⟨s.req, n, who⟩] : List HostRead) } }
  (s'.send (.hostRead s.req (s.hostAddr n hpa va) len)).newReq

/-- Sends a Memory Write (R292). -/
def hostWrite (s : State) (n : CtxId) (hpa : Option Nat) (va : Nat) (data : List Byte) : State :=
  s.send (.hostWrite (s.hostAddr n hpa va) data)

/-- Sends a Translation Request for a page (R293). -/
def askTranslation (s : State) (n : CtxId) (vpn : Nat) (r w : Bool) (who : Waiter) : State :=
  let s' := { s with ports := { s.ports with ats := s.ports.ats ++ ([⟨s.req, n, vpn, r, w, who, []⟩] : List AtsReq) } }
  (s'.send (.transRequest s.req (s.pasid n) vpn r w)).newReq

/-- A translation of a page that serves an access. -/
def findTrans (ts : List Trans) (n : CtxId) (vpn : Nat) (r w : Bool) : Option Trans :=
  ts.find? fun x => x.ctx == n && decide (x.vpn ≤ vpn) && decide (vpn < x.vpn + x.pages) && (match x.leaf with | .host _ => (!r || x.hr) && (!w || x.hw) | _ => true)

/-- The translation of one page of an entry. -/
def Trans.page (x : Trans) (vpn : Nat) : Trans :=
  { x with
    vpn := vpn, pages := 1
    leaf := match x.leaf with | .host (some h) => .host (some (h + (vpn - x.vpn) * 4096)) | l => l }

/-- Whether a waiter has a translation or page request under way for a page. -/
def State.asked (s : State) (n : CtxId) (vpn : Nat) (who : Waiter) : Bool :=
  (s.ports.ats.any fun x => x.ctx == n && x.vpn == vpn && x.who == who) ||
  (s.ports.prgs.any fun x => x.ctx == n && x.vpn == vpn && x.who == who)

/-- Whether an invalidation that concerns a page is under way: the page is translated again afterwards (R294). -/
def State.invalidating (s : State) (n : CtxId) (vpn : Nat) : Bool :=
  s.ports.invs.any fun x => x.ctx == some n && (x.late.contains vpn || (decide (x.lo ≤ vpn) && decide (vpn ≤ x.hi)))

/-- The page-request groups outstanding. -/
def State.prgOut (s : State) : Nat := (s.ports.prgs.filter (·.idx.isSome)).length

/-- One of a list, which the manual leaves open: a free value (log 4). -/
def pick (seq which : Nat) (l : List Nat) : Option Nat := l[Config.freeNat seq which % l.length]?

/-- A PRG index with no group outstanding. -/
def State.prgFree (s : State) : Option Nat :=
  pick s.seq 6 ((List.range 512).filter fun i => !(s.ports.prgs.any fun p => p.idx == some (BitVec.ofNat 9 i)))

/-- Sends the page requests that wait, while groups are free (R295). -/
def sendPages (s : State) : State :=
  (List.range s.ports.prgs.length).foldl (fun s i =>
    match s.ports.prgs[i]?, s.prgFree with
    | some p, some x =>
      if p.idx.isNone && decide (s.prgOut < min 512 Config.pageRequestAllocation) then
        let s' := { s with ports := { s.ports with prgs := s.ports.prgs.set i { p with idx := some (BitVec.ofNat 9 x) } } }
        { (s'.send (.pageRequest (BitVec.ofNat 9 x) (s.pasid p.ctx) p.vpn p.r p.w)).count 7 with seq := s.seq + 1 }
      else s
    | _, _ => s) s

/-- Makes a page request (R295); none while PRI is disabled. -/
def askPage (s : State) (n : CtxId) (vpn : Nat) (r w : Bool) (who : Waiter) : Option State :=
  if s.ports.priOn then
    some (sendPages { s with ports := { s.ports with prgs := s.ports.prgs ++ ([⟨none, n, vpn, r, w, who⟩] : List PageReq) } })
  else none

/-! ## The peer ports (R297-R300) -/

/-- A byte of the CRC-64 of R298: polynomial 0x42F0E1EBA9EA3693, not reflected. -/
def crc64Byte (c : Nat) (b : Byte) : Nat :=
  (List.range 8).foldl (fun c _ =>
    if 2 ^ 63 ≤ c then Nat.xor (c * 2 % 2 ^ 64) 0x42F0E1EBA9EA3693 else c * 2) (Nat.xor c (b.toNat * 2 ^ 56))

/-- The CRC-64 of R298. -/
def crc64 (bs : List Byte) : Nat := Nat.xor (bs.foldl crc64Byte (2 ^ 64 - 1)) (2 ^ 64 - 1)

/-- The header of a flit (R298). -/
def flitHeader (f : PeerFlit) : Nat :=
  at' 52 f.fseq.toNat + at' 40 f.aseq.toNat + at' 38 f.ak.toNat + at' 36 f.vc.toNat + at' 24 f.reqCredits.toNat +
  at' 12 f.rspCredits.toNat

/-- Whether a flit's crc is correct (R298). -/
def flitOk (f : PeerFlit) : Bool := f.payload.length == 240 && crc64 (toBytes 8 (flitHeader f) ++ f.payload) == f.crc.toNat

/-- The port of a leaf's bit. -/
def portNo (port : Bool) : Fin 2 := if port then 1 else 0

def State.peer (s : State) (port : Bool) : Peer := s.ports.peers[(portNo port)]

def State.setPeer (s : State) (port : Bool) (p : Peer) : State :=
  { s with ports := { s.ports with peers := s.ports.peers.set (portNo port) p } }

/-! ## Messages as payload bytes (R298; their layout is the model's: log 7) -/

/-- The payload bytes of a flit. -/
def flitBytes : Nat := 240

/-- The largest command: a page's bytes. -/
def peerLen : Nat := 4096

/-- The code of an outcome. -/
def statusCode : PeerStatus → Nat
  | .ok => 0 | .isolation => 1 | .translation => 2 | .permission => 3 | .pkey => 4 | .poison => 5 | .unsupported => 6

/-- The outcome of a code. -/
def statusOf (k : Nat) : PeerStatus :=
  match k with
  | 0 => .ok | 1 => .isolation | 2 => .translation | 3 => .permission | 4 => .pkey | 5 => .poison | _ => .unsupported

/-- The bytes of a message's header. -/
def msgHead : Nat := 48

/-- A message's header, of 48 bytes. -/
def msgHeader (kind code size n far cseq lw va len v cmp : Nat) : List Byte :=
  toBytes 1 kind ++ toBytes 1 code ++ toBytes 1 size ++ toBytes 1 n ++ toBytes 4 far ++ toBytes 4 cseq ++ toBytes 4 lw ++
  toBytes 8 va ++ toBytes 8 len ++ toBytes 8 v ++ toBytes 8 cmp

/-- The bytes of a message. -/
def msgBytes (m : PeerMsg) : List Byte :=
  match m with
  | .command cseq lw n far op =>
    (match op with
     | .read va len => msgHeader 0 0 0 n.toNat far.toNat cseq.toNat lw.toNat va.toNat len 0 0
     | .write va d => msgHeader 1 0 0 n.toNat far.toNat cseq.toNat lw.toNat va.toNat d.length 0 0 ++ d
     | .atom va aop k v cmp => msgHeader 2 aop k n.toNat far.toNat cseq.toNat lw.toNat va.toNat 0 v cmp)
  | .response cseq st d => msgHeader 3 (statusCode st) 0 0 0 cseq.toNat 0 0 d.length 0 0 ++ d

/-- The little-endian field of a message at an offset. -/
def msgField (b : List Byte) (off n : Nat) : Nat := ofBytes ((b.drop off).take n)

/-- The data bytes that follow a message's header: at most a page. -/
def msgData (b : List Byte) : Nat :=
  let k := msgField b 0 1
  if k = 1 ∨ k = 3 then min (msgField b 24 8) peerLen else 0

/-- The message that bytes hold. -/
def msgOf (b : List Byte) : PeerMsg :=
  let d := (b.drop msgHead).take (msgData b)
  let cseq : BitVec 32 := BitVec.ofNat 32 (msgField b 8 4)
  let va : BitVec 57 := BitVec.ofNat 57 (msgField b 16 8)
  let command := PeerMsg.command cseq (BitVec.ofNat 32 (msgField b 12 4)) (BitVec.ofNat 6 (msgField b 3 1))
    (BitVec.ofNat 6 (msgField b 4 4))
  match msgField b 0 1 with
  | 0 => command (.read va (min (msgField b 24 8) peerLen))
  | 1 => command (.write va d)
  | 2 => command (.atom va (msgField b 1 1) (msgField b 2 1) (msgField b 32 8) (msgField b 40 8))
  | _ => .response cseq (statusOf (msgField b 1 1)) d

/-- Cuts bytes into flit payloads, the last one filled with zeros. -/
def payloads : Nat → List Byte → List (List Byte)
  | 0, _ => []
  | fuel + 1, b =>
    if b = [] then []
    else (b.take flitBytes ++ List.replicate (flitBytes - b.length) 0) :: payloads fuel (b.drop flitBytes)

/-- The payloads of a message. -/
def msgPayloads (m : PeerMsg) : List (List Byte) := payloads (msgBytes m).length (msgBytes m)

/-- The payloads taken on a channel after one more: a message once it is complete, or what is held. -/
def gatherMsg (held payload : List Byte) : Option PeerMsg × List Byte :=
  let b := held ++ payload
  if b.length < msgHead + msgData b then (none, b) else (some (msgOf b), [])

/-! ## Sending flits (R298, R299, R302) -/

/-- The flits that a replay buffer holds at most (R299). -/
def replayMax : Nat := 512

/-- A flit of a port: it acknowledges what the port has taken, and returns the credits it owes (R298). -/
def Peer.flit (p : Peer) (vc : Nat) (payload : List Byte) : PeerFlit :=
  let f : PeerFlit :=
    { fseq := p.fseq, aseq := p.expect - 1, ak := p.ackDue, vc := BitVec.ofNat 2 vc
      reqCredits := BitVec.ofNat 12 p.owedReq, rspCredits := BitVec.ofNat 12 p.owedRsp, payload := payload, crc := 0 }
  { f with crc := BitVec.ofNat 64 (crc64 (toBytes 8 (flitHeader f) ++ f.payload)) }

/-- The next flit that a port may send, by its channel: a response before a request, each with a credit of its own channel; a
control flit, which needs none and for which the replay buffer keeps a place, where an acknowledgement is due (R302). -/
def Peer.nextOut (p : Peer) : Option (Nat × List Byte) :=
  let room := decide (p.replay.length + 1 < replayMax)
  let rsp := if room && decide (0 < p.rspCredits) then p.rspOut.head? else none
  let req := if room && decide (0 < p.reqCredits) then p.reqOut.head? else none
  match rsp, req with
  | some x, _ => some (1, x)
  | none, some x => some (0, x)
  | none, none => if p.ackDue = 0 then none else some (2, List.replicate flitBytes 0)

/-- A port after a flit of a channel has gone: it stays in the replay buffer until an ack covers it (R299). -/
def Peer.sent (p : Peer) (f : PeerFlit) (vc : Nat) : Peer :=
  { p with
    fseq := p.fseq + 1, replay := p.replay ++ [f], sinceAck := if p.replay.isEmpty then 0 else p.sinceAck, ackDue := 0
    owedReq := p.owedReq - f.reqCredits.toNat, owedRsp := p.owedRsp - f.rspCredits.toNat
    reqOut := if vc = 0 then p.reqOut.drop 1 else p.reqOut, reqCredits := if vc = 0 then p.reqCredits - 1 else p.reqCredits
    rspOut := if vc = 1 then p.rspOut.drop 1 else p.rspOut, rspCredits := if vc = 1 then p.rspCredits - 1 else p.rspCredits }

/-- Sends the flits that a port may send, while its replay buffer has room (R299). -/
def pumpRun : Nat → State → Bool → State
  | 0, s, _ => s
  | fuel + 1, s, port =>
    let p := s.peer port
    if !p.up || decide (replayMax ≤ p.replay.length) then s
    else match p.nextOut with
      | none => s
      | some (vc, x) =>
        let f := p.flit vc x
        pumpRun fuel ((s.setPeer port (p.sent f vc)).send (.flit port f)) port

/-- Sends what a port may send. -/
def pump (s : State) (port : Bool) : State :=
  pumpRun ((s.peer port).reqOut.length + (s.peer port).rspOut.length + 1) s port

/-- Sends a message on its channel (R298, R302). -/
def sendMsg (s : State) (port : Bool) (m : PeerMsg) : State :=
  let p := s.peer port
  pump (s.setPeer port (match m with
    | .command _ _ _ _ _ => { p with reqOut := p.reqOut ++ msgPayloads m }
    | .response _ _ _ => { p with rspOut := p.rspOut ++ msgPayloads m })) port

/-! ## Commands (R297, R300) -/

/-- The oldest cseq that awaits its response (R300). -/
def Peer.lowWater (p : Peer) : BitVec 32 := (p.waiting.head?.map (·.cseq)).getD p.cseq

/-- The binding of a context on a port (R297): the far context, when en is 1. -/
def Peer.far (p : Peer) (n : CtxId) : Option CtxId :=
  let w := tabGet 0 p.bind n.toNat
  if bit w 63 then some (BitVec.ofNat 6 (bits w 5 0)) else none

/-- The response slots of a port (R300, R302). -/
def peerSlots : Nat := 256

/-- Whether a port can take so many commands, each with its response slot (R300, R302). -/
def Peer.room (p : Peer) (k : Nat) : Bool := p.up && decide (p.waiting.length + k ≤ peerSlots)

/-- Sends a command for a context bound on a port (R297, R300). -/
def peerCommand (s : State) (port : Bool) (n far : CtxId) (op : PeerOp) (who : Waiter) : State :=
  let p := s.peer port
  let c : PeerCmd := ⟨p.cseq, 0, s.req, n, far, op, who⟩
  let p' := { p with waiting := p.waiting ++ [c], cseq := p.cseq + 1 }
  (sendMsg (s.setPeer port p') port (.command p.cseq p'.lowWater n far op)).newReq

end Sys2Proof.Machine
end

