-- ==== Sys2Proof/Machine/Ring.lean ====
section
/-! DEFINITION. Trap records (R339), the fault ring (R345), and copy tags as records hold them (R342, R343). -/

namespace Sys2Proof.Machine

/-! ## Records (R339) -/

/-- The sixteen words of a trap record or notice, with what base camp adds from the task (R339). -/
def TrapRec.words (r : TrapRec) (k : CoreId) (t : Task) : List Nat :=
  let j (i : Nat) := r.j.getD i 0
  [ at' 56 r.cause.toNat + at' 53 r.src.toNat + at' 49 r.eng.toNat + at' 48 (ofBool r.zpf) + at' 40 k.toNat +
      at' 32 t.ctx.toNat + r.cmd.toNat,
    r.pc.toNat % 2 ^ 57,
    r.grp.toNat % 2 ^ 57,
    t.tile.toNat,
    at' 32 t.launch.toNat,
    at' 48 (j 3) + at' 32 (j 2) + at' 16 (j 1) + j 0,
    at' 32 r.ofs.toNat + at' 16 (j 5) + j 4,
    r.status.toNat,
    r.d0.toNat,
    r.d1.toNat ] ++ (List.range 6).map fun i => (r.tag.getD i 0).toNat

/-- The 128 bytes of a record. -/
def TrapRec.bytes (r : TrapRec) (k : CoreId) (t : Task) : List Byte := (r.words k t).flatMap (toBytes 8)

/-! ## The fault ring (R345) -/

/-- flt.lost counts a dropped record, saturating. -/
def Ctx.lose (x : Ctx) : Ctx := if x.fltLost = BitVec.allOnes 32 then x else { x with fltLost := x.fltLost + 1 }

/-- The slots of the fault ring that a record came for. -/
def RingWrite.slots (w : RingWrite) : Nat := 2 ^ bits w.cfg 3 0

/-- The address of the slot that a record goes to when its context's next slot is `head`. -/
def RingWrite.slot (w : RingWrite) (head : BitVec 32) : Nat := bits w.base 56 7 * 128 + 128 * (head.toNat % w.slots)

/-- A record is dropped (R345). -/
def ringLose (s : State) (n : CtxId) : State := s.setCtx n (s.ctx n).lose

/-- A record has performed in its slot: head advances, and the vector is raised (R345). -/
def ringDone (s : State) (w : RingWrite) : State :=
  let x := s.ctx w.ctx
  let s := s.setCtx w.ctx { x with fltHead := x.fltHead + 1 }
  if bit w.cfg 62 then s.msix w.ctx.toNat else s

/-- What the start of a record's write comes to. -/
inductive RingTry where
  /-- The record has performed, or has been dropped. -/
  | over (s : State)
  /-- It is on its way to the host or a peer; or it waits for a translation or for room on a port. -/
  | under (s : State) (sent : Option Nat)

/-- Starts to write a record to a context's fault ring, or drops it (R345): the ring is full where head - tail = 2^lsz exactly. A
slot lies in one page, under a device, peer or host leaf that grants w. flt.base and flt.cfg are those that stood when the record
came. -/
def ringTry (s : State) (rec : RingWrite) : RingTry :=
  let n := rec.ctx
  let b := rec.bytes
  let x := s.ctx n
  let a := rec.slot x.fltHead
  let lost := RingTry.over (ringLose s n)
  if !bit rec.cfg 63 || (x.fltHead - x.fltTail).toNat == rec.slots || !canonical a b.length then lost
  else match s.campLeaf n a with
    | none => lost
    | some f =>
      if !pteW f.e then lost
      else
        match pteType f.e with
        | 2 => (match s.ctxWrite n a b with
          | some s => .over (ringDone s rec)
          | none => lost)
        | 4 =>
          let p := s.peer (ptePort f.e)
          (match p.failed, p.far n with
           | false, some far =>
             if p.room 1 then
               .under (peerCommand (s.campUse n a f true) (ptePort f.e) n far (.write (BitVec.ofNat 57 a) b) (.ring n)) (some s.req)
             else .under s none
           | _, _ => lost)
        | 5 => (match findTrans (s.vm.tlb.filter (·.isHost)) n (a / 4096) false true with
          | some t =>
            (match (t.page (a / 4096)).leaf with
             | .host hpa =>
               let s := hostWrite s n (hpa.map (· + a % 4096)) a b
               .under (hostRead s n (hpa.map (· + a % 4096)) a 0 (.ring n)) (some s.req)
             | _ => lost)
          | none =>
            if s.asked n (a / 4096) (.ring n) || s.invalidating n (a / 4096) then .under s none
            else .under (askTranslation s n (a / 4096) false true (.ring n)) none)
        | _ => lost

/-- Goes on with the records of a context that wait, oldest first, but for a card that sleeps or wakes (R368, R369); `fuel` bounds
them. -/
def ringGo : Nat → State → CtxId → State
  | 0, s, _ => s
  | fuel + 1, s, n =>
    match s.sched.ringOut.find? (·.ctx == n) with
    | none => s
    | some w =>
      if w.sent.isSome || s.asleep then s
      else
        let put (s : State) (f : List RingWrite → List RingWrite) : State :=
          { s with sched := { s.sched with ringOut := f s.sched.ringOut } }
        match ringTry s w with
        | .over s => ringGo fuel (put s (·.erase w)) n
        | .under s sent => put s fun l => (l.erase w).insertIdx (l.findIdx (· == w)) { w with sent := sent }

/-- Goes on with the records that wait. -/
def State.rings (s : State) : State :=
  (s.sched.ringOut.map (·.ctx)).dedup.foldl (fun s n => ringGo (s.sched.ringOut.length + 1) s n) s

/-- The record that is under way to a context's ring has performed, or is lost; the next one goes on. -/
def ringEnd (s : State) (n : CtxId) (ok : Bool) : State :=
  match s.sched.ringOut.find? (·.ctx == n) with
  | none => s
  | some w =>
    let s := { s with sched := { s.sched with ringOut := s.sched.ringOut.erase w } }
    ringGo (s.sched.ringOut.length + 1) (if ok then ringDone s w else ringLose s n) n

/-- Whether a record about a core's task is under way: byte 5 of a record names its core (R339). -/
def State.ringBusy (s : State) (k : CoreId) : Bool :=
  s.sched.ringOut.any fun w => w.ctx == (s.core k).task.ctx && natAt w.bytes 5 1 == k.toNat

/-- Whether the notice of a core's copy tag is under way (R344): word 0 of a record holds its cause and core, word 8 the tag (R339). -/
def State.noticeBusy (s : State) (k : CoreId) (n : Nat) : Bool :=
  s.sched.ringOut.any fun w => w.ctx == (s.core k).task.ctx && natAt w.bytes 5 1 == k.toNat && natAt w.bytes 7 1 == 24 &&
    natAt w.bytes 64 8 == n

/-- Writes a record to a context's fault ring (R345), after those that are under way. -/
def ringWrite (s : State) (n : CtxId) (b : List Byte) : State :=
  let s := { s with sched := { s.sched with ringOut := s.sched.ringOut ++ [⟨n, b, (s.ctx n).fltBase, (s.ctx n).fltCfg, none⟩] } }
  ringGo (s.sched.ringOut.length + 1) s n

/-- Writes a record about the task of a core. -/
def writeRecord (s : State) (k : CoreId) (r : TrapRec) : State :=
  ringWrite s (s.core k).task.ctx (r.bytes k (s.core k).task)

/-! ## Copy tags (R342, R343) -/

/-- A fault of the copy engine (R153, R343): fault, sub, faulting address. -/
structure CFault where
  code : Nat
  sub : Nat
  va : Option Nat
deriving DecidableEq, Repr

def fRange : CFault := ⟨1, 0, none⟩
def fBankMode : CFault := ⟨2, 0, none⟩
def fQueue : CFault := ⟨3, 0, none⟩
def fIsolation (sub : Nat) (va : Option Nat) : CFault := ⟨4, sub, va⟩
def fTrans (sub va : Nat) : CFault := ⟨5, sub, some va⟩
def fLease (va : Nat) : CFault := ⟨6, 0, some va⟩
def fPkey (va : Nat) : CFault := ⟨7, 0, some va⟩
def fOverrun : CFault := ⟨8, 0, none⟩
def fLane : CFault := ⟨9, 0, none⟩
def fFormat (va : Option Nat) : CFault := ⟨10, 0, va⟩
def fChecksum (va : Option Nat) : CFault := ⟨11, 0, va⟩
def fRatio (va : Option Nat) : CFault := ⟨12, 0, va⟩
def fUnsupported (va : Nat) : CFault := ⟨13, 0, some va⟩
def fRace (va : Nat) : CFault := ⟨14, 0, some va⟩
def fPoison (va : Option Nat) : CFault := ⟨15, 0, va⟩

/-- The engine status word (R343). -/
def engineStatus (code sub nblk pos : Nat) : Word64 :=
  BitVec.ofNat 64 (at' 56 code + at' 48 sub + at' 32 (min nblk 65535) + min pos (2 ^ 32 - 1))

/-- The six words of a copy tag (R342). -/
def Tag.words (t : Tag) (n : Nat) : List Word64 :=
  [ t.pc &&& BitVec.ofNat 64 (2 ^ 57 - 1),
    BitVec.ofNat 64 (at' 48 n + at' 40 t.op.toNat + t.cmd.toNat),
    t.dest,
    BitVec.ofNat 64 (at' 63 (ofBool t.t) + t.target.toNat),
    (match t.va with | some a => BitVec.ofNat 64 (2 ^ 63 + a.toNat % 2 ^ 57) | none => 0),
    t.status ]

/-- Whether a command is a transform. -/
def Tag.isCpyx (t : Tag) : Bool := match t.what with | .cpyx _ _ _ _ _ => true | _ => false

/-- nblk and pos of a transform's status so far. -/
def Tag.nblk (t : Tag) : Nat := bits t.status 47 32
def Tag.pos (t : Tag) : Nat := bits t.status 31 0

/-- The index of the block that a transform is at (R158, R343): while its output is being committed, blkIdx names the next one. -/
def Tag.blkAt (t : Tag) : Nat := if t.blkLen.isSome || t.sent.any (·.write) then t.blkIdx - 1 else t.blkIdx

/-- A block fault (R158, R343): the first one is kept, all are counted; one that ends the transform replaces fault, sub
and va. -/
def Tag.blockFault (t : Tag) (f : CFault) (ends : Bool) : Tag :=
  let first := t.nblk == 0
  let keep := !first && !ends
  let status := engineStatus (if keep then bits t.status 63 56 else f.code) (if keep then bits t.status 55 48 else f.sub)
    (t.nblk + 1) (if first then t.blkAt else t.pos)
  { t with status := status, va := if keep then t.va else f.va.map (BitVec.ofNat 64) }

/-- A fault that ends a command: its status (R343), for a transform with the blocks that faulted before. -/
def Tag.endFault (t : Tag) (f : CFault) : Tag :=
  { t with
    status := if t.isCpyx then engineStatus f.code f.sub t.nblk t.pos else engineStatus f.code f.sub 0 t.moved
    va := f.va.map (BitVec.ofNat 64) }

/-- The engine of a command, coded as eng of R339. -/
def Tag.eng (t : Tag) : Nat :=
  if t.isCpyx then 8 else if bits t.dest 63 61 = 3 && t.op.toNat ≠ 3 then 9 else 7

/-- The record of a copy fault, or with `cause` 24 a notice (R339, R341, R344). -/
def Core.tagRecord (c : Core) (cause n : Nat) (t : Tag) : TrapRec where
  cause := BitVec.ofNat 8 cause
  src := 2
  eng := BitVec.ofNat 4 t.eng
  zpf := false
  cmd := t.cmd
  pc := c.pc
  grp := 0
  j := []
  ofs := 0
  status := t.status
  d0 := BitVec.ofNat 64 n
  d1 := 0
  tag := t.words n

/-- Removes a command from the order of every lane; the next at a head is unchecked yet (R158). -/
def leaveLanes (s : State) (k : CoreId) (n : Nat) : State :=
  let me := (k, BitVec.ofNat 7 n)
  { s with lanes := s.lanes.foldl (fun (ls : Tab Lane) p =>
      let l := p.2
      tabSet Lane.reset ls p.1
        (if l.order.head? == some me then { l with order := l.order.drop 1, served := false }
         else { l with order := l.order.filter (· != me) })) s.lanes }

/-- A copy fault (R153, R337, R338): the task ends with the tag in its record; a further fault of a task that is ending faulted
is a notice of cause 24, and one of a task that is being cancelled is not recorded. The tag frees. -/
def copyFault (s : State) (k : CoreId) (n : Nat) (t : Tag) (f : CFault) : State :=
  let t := t.endFault f
  let c := s.core k
  let s := match c.run with
    | .stopping _ => writeRecord s k (c.tagRecord causeBlock n t)
    | .running | .preempting => takeTrap s k (c.tagRecord causeCopy n t)
    | _ => s
  leaveLanes (s.modCore k fun c => c.setTag n none) k n

/-- A fault of a block that ends the transform and its task (R158, R344). -/
def blockEnds (s : State) (k : CoreId) (n : Nat) (t : Tag) (f : CFault) : State :=
  copyFault s k n (t.blockFault f true) f

/-- A fault in the answer to a piece of a command; of a transform, the block at hand has faulted (R158). -/
def answerFault (s : State) (k : CoreId) (n : Nat) (t : Tag) (f : CFault) : State :=
  if t.isCpyx then blockEnds s k n t f else copyFault s k n t f

/-! ## Undefined behaviour (R1) -/

/-- A free stream register (R222). -/
def wildStream (seq i : Nat) : Stream := streamOf fun j => (Config.freeWord seq (8 * i + j)).toNat

/-- A free change of one register or byte of a core. -/
def wildEdit (seq i : Nat) (c : Core) : Core :=
  let at_ := Config.freeNat seq (8 * i + 1)
  let v := Config.freeWord seq (8 * i)
  match Config.freeNat seq (8 * i) % 20 with
  | 0 => c.setG (BitVec.ofNat 5 at_) v
  | 1 => c.writeScratch (at_ % 0xA0000) [v.truncate 8]
  | 2 => c.writeRegs (at_ % 32768) [v.truncate 8]
  | 3 => { c with idx := c.idx.set (at_ % 16) (v.truncate 32) (Nat.mod_lt _ (by decide)) }
  | 4 => { c with flags := v.truncate 16 }
  | 5 => { c with fpFlags := v &&& fieldMask 42 0 }
  | 6 => { c with fpTrapen := v &&& fieldMask 42 0 }
  | 7 => { c with paramOvf := v &&& fieldMask 3 0 }
  | 8 => { c with ctxPkey := v }
  | 9 => { c with views := c.views.set (at_ % 8) v (Nat.mod_lt _ (by decide)) }
  | 10 => { c with jetOrder := v.truncate 3 }
  | 11 => { c with accOvf := c.accOvf.set (at_ % 16) v (Nat.mod_lt _ (by decide)) }
  | 12 => c.setBar (BitVec.ofNat 6 at_)
      ⟨bit v 23, Config.freeWord seq (8 * i + 1), bits v 22 16, v.truncate 16, bit v 24, BitVec.ofNat 16 (bits v 47 32), bit v 25,
        Config.freeWord seq (8 * i + 2)⟩
  | 13 => { c with qcw := c.qcw.set (at_ % 8) ⟨v, Config.freeWord seq (8 * i + 1)⟩ (Nat.mod_lt _ (by decide)) }
  | 14 => { c with paramq := (c.paramq ++ [v]).take 16 }
  | 15 => { c with streams := c.streams.set (at_ % 8) (wildStream seq i) (Nat.mod_lt _ (by decide)) }
  | 16 => { c with banks := c.banks.set (at_ % 32) (bankOf v.toNat) (Nat.mod_lt _ (by decide)) }
  | 17 => { c with
      remap := c.remap.set (at_ % 8) (if bit v 0 then some ⟨Config.freeWord seq (8 * i + 1), Config.freeWord seq (8 * i + 2)⟩ else none)
        (Nat.mod_lt _ (by decide)) }
  | 18 => { c with cmdIdx := v.truncate 32 }
  | _ => { c with pc := v }

/-- A free record of a trap that a task may take: any cause from illegal-instruction to copy fault (R340). -/
def wildTrap (seq : Nat) : TrapRec where
  cause := BitVec.ofNat 8 (1 + Config.freeNat seq 0 % causeCopy)
  src := BitVec.ofNat 3 (Config.freeNat seq 1 % 3)
  eng := BitVec.ofNat 4 (Config.freeNat seq 2 % 10)
  zpf := Config.freeNat seq 3 % 2 == 1
  cmd := BitVec.ofNat 32 (Config.freeNat seq 4)
  pc := Config.freeWord seq 5
  grp := Config.freeWord seq 6
  j := (List.range 6).map fun d => Config.freeNat seq (7 + d) % 65536
  ofs := BitVec.ofNat 32 (Config.freeNat seq 13)
  status := Config.freeWord seq 14
  d0 := Config.freeWord seq 15
  d1 := Config.freeWord seq 16
  tag := (List.range 6).map fun i => Config.freeWord seq (17 + i)

/-- A core whose context has undefined behaviour: free values in its registers and scratch, as many as may be, and it may trap. -/
def wildCore (s : State) (k : CoreId) : State :=
  let c := (List.range (Config.freeNat s.seq 0)).foldl (fun c i => wildEdit s.seq (i + 1) c) (s.core k)
  let t := { s.setCore k c with seq := s.seq + 2 }
  if Config.freeNat s.seq 1 % 2 = 1 then takeTrap t k (wildTrap (s.seq + 1)) else t

/-- A free byte in a context's memory, where a page of it may be written. -/
def wildByte (s : State) (n : CtxId) : State :=
  let s' := (s.ctxWrite n (Config.freeNat s.seq 0 % 2 ^ 57) [Config.freeByte s.seq 0]).getD s
  { s' with seq := s.seq + 1 }

/-- Free values in a context's race registers (R98, R99). -/
def wildRace (s : State) (n : CtxId) : State :=
  let v := Config.freeWord s.seq
  let i := Config.freeNat s.seq 1 % 4
  let x := s.ctx n
  let x := match Config.freeNat s.seq 0 % 4 with
    | 0 => { x with raceBase := x.raceBase.set i (v 0 &&& fieldMask 56 0) (Nat.mod_lt _ (by decide)) }
    | 1 => { x with raceCtl := x.raceCtl.set i (v 0 &&& (fieldMask 63 62 ||| fieldMask 56 0)) (Nat.mod_lt _ (by decide)) }
    | 2 => { x with raceLog := v 0 &&& (fieldMask 56 12 ||| fieldMask 7 0) }
    | _ => x
  { s.setCtx n x with seq := s.seq + 1 }

/-- Undefined behaviour of a context (R1): any values in the registers, scratch and memory of the context, or any trap open to it;
no other context is touched. -/
def wild (s : State) (n : CtxId) : State :=
  let s := (s.cores.map (·.1)).foldl (fun s k =>
    let c := s.core (BitVec.ofNat 8 k)
    if c.run != .idle && c.task.ctx == n then wildCore s (BitVec.ofNat 8 k) else s) s
  (List.range (Config.freeNat s.seq 0)).foldl (fun s _ => wildRace (wildByte s n) n) { s with seq := s.seq + 1 }

end Sys2Proof.Machine
end

