-- ==== Sys2Proof/Machine/Fences.lean ====
section
/-! DEFINITION. DRAIN with the read that flushes scattered host writes (R88, R292), and the return of fences (R140). -/

namespace Sys2Proof.Machine

/-- The scope code from which host memory is reached (R80). -/
def scopeHost : Nat := 6

/-- The writes of a core's task that a DRAIN.DURABLE has made durable when it returns (R88). -/
def drainDurable (s : State) (k : CoreId) (drain : Bool) (scope : BitVec 3) : State :=
  if drain && scope.toNat == scopeDurable then s.makeDurable (Unsaved.by k none) else s

/-- Whether a fence must see a core's scattered host writes performed: a DRAIN.HOST or DRAIN.DURABLE (R88, R292). -/
def Core.flushDue (c : Core) (drain : Bool) (scope : BitVec 3) : Bool :=
  drain && decide (scopeHost ≤ scope.toNat) && decide (0 < c.hostWrites)

/-- Sends the zero-length read of a drain, one at a time, to the page of the newest write (R292, R293). -/
def flushRead (s : State) (k : CoreId) : State :=
  let c := s.core k
  if s.ports.reads.any fun r => match r.who with | .drain k' _ => k' == k | _ => false then s
  else hostRead s c.task.ctx c.hostPage.1 c.hostPage.2 0 (.drain k c.hostWrites)

/-- A core in a fence: it returns once nothing is left to wait for (R140), after the read that flushes host writes. -/
def fenceTry (s : State) (k : CoreId) (mask : BitVec 6) (drain : Bool) (scope : BitVec 3) : State :=
  let c := s.core k
  let waiting := s.setCore k { c with wait := .fence mask drain scope }
  if !c.fenceMet mask.toNat drain then waiting
  else if c.flushDue drain scope then flushRead waiting k
  else (drainDurable s k drain scope).setCore k (c.awake.adv 1)

/-- DRAIN (R88, R140). -/
def execDrain (s : BitVec 3) (st : State) : Out := .next (fenceTry st st.cur 63 true s)

/-- A waiting FENCE, XFENCE or DRAIN returns once its condition holds (R140). -/
def execFenceReturn (core : CoreId) (st : State) : Out :=
  let c := st.core core
  match c.wait with
  | .fence mask drain scope => if c.cpRuns then .next (fenceTry st core mask drain scope) else .next st
  | _ => .next st

end Sys2Proof.Machine
end

