-- ==== Sys2Proof/Machine/Engine.lean ====
section
/-! DEFINITION. The copy engine's ends (R151), its start checks (R153, R331), its translations (R293, R321-R324), and the
movement of bytes between ends (R83, R95, R154-R156, R161). -/

namespace Sys2Proof.Machine

/-! ## Ends (R151) -/

/-- An end of a command. -/
inductive End where
  | dev (va : Nat)
  | scratch (c : CoreId) (a : Nat)
  | shadow (b : BitVec 5) (off : Nat)
  | queue (q : BitVec 3)
deriving DecidableEq, Repr

/-- Whether an endpoint word is of an allowed kind with its other bits zero (R151). -/
def endOk (w : Word64) (kinds : List Nat) : Bool :=
  let k := bits w 63 61
  kinds.contains k && bits w 60 57 == 0 &&
  (if k = 1 then bits w 56 20 == 0 else if k = 2 then bits w 56 28 == 0
   else if k = 3 then bits w 56 25 == 0 && bits w 19 13 == 0 else if k = 4 then bits w 56 3 == 0 else true)

/-- The end an endpoint word of core `k` names. -/
def endOf (k : CoreId) (w : Word64) : End :=
  match bits w 63 61 with
  | 0 => .dev (bits w 56 0)
  | 1 => .scratch k (bits w 19 0)
  | 2 => .scratch (BitVec.ofNat 8 (bits w 27 20)) (bits w 19 0)
  | 3 => .shadow (BitVec.ofNat 5 (bits w 24 20)) (bits w 12 0)
  | _ => .queue (BitVec.ofNat 3 (bits w 2 0))

/-! ## Extents (R152, R155) -/

/-- A run of contiguous bytes: flat offset in the command, offset from the endpoint, length. -/
structure Run where
  off : Nat
  d : Int
  len : Nat
deriving DecidableEq, Repr

/-- The lane a command goes through (R157, R160). -/
def CopyOp.lane (o : CopyOp) : Option Nat :=
  match o with
  | .cpyx _ _ _ lane _ => some lane
  | .laneLoad lane _ _ => some lane
  | _ => none

/-- The bytes a command moves. -/
def CopyOp.total (o : CopyOp) : Nat :=
  match o with
  | .cpy len | .cimFill len => len
  | .cpys esz dims => dims.foldl (fun n d => n * d.count) (2 ^ esz)
  | .cpyx slen _ _ _ _ => slen
  | .laneLoad _ _ len => len
  | .atom _ n _ _ _ _ _ => n

/-- The offset of element `i` of a strided copy (R155); dimension 0 is fastest. -/
def strideAt (src : Bool) : List Dim → Nat → Int
  | [], _ => 0
  | d :: ds, i => (i % d.count : Nat) * (if src then d.sstride else d.dstride) + strideAt src ds (i / d.count)

/-- The runs of the flat extent [off, off + len) on one side: the elements of a strided copy, or the part of one. -/
def CopyOp.runs (o : CopyOp) (src : Bool) (off len : Nat) : List Run :=
  match o with
  | .cpys esz dims =>
    let e := 2 ^ esz
    (List.range ((off + len + e - 1) / e - off / e)).map fun i =>
      let el := off / e + i
      let lo := max off (el * e)
      ⟨lo, strideAt src dims el + (lo - el * e : Nat), min (off + len) ((el + 1) * e) - lo⟩
  | _ => [⟨off, off, len⟩]

/-- The run of contiguous source bytes that a flat offset lies in: the offset of its first byte, and its end. -/
def CopyOp.runOf (o : CopyOp) (x : Nat) : Nat × Nat :=
  match o with
  | .cpys esz _ => (x / 2 ^ esz * 2 ^ esz, (x / 2 ^ esz + 1) * 2 ^ esz)
  | o => (0, o.total)

/-- The lowest offset and the end of runs. -/
def hull (rs : List Run) : Int × Int :=
  rs.foldl (fun p r => (min p.1 r.d, max p.2 (r.d + r.len))) (match rs with | r :: _ => (r.d, r.d + r.len) | [] => (0, 0))

/-- A piece of an extent within one page: flat offset, device virtual address, length. -/
structure Piece where
  off : Nat
  va : Nat
  len : Nat
deriving DecidableEq, Repr

/-- The pieces by page of runs from a device virtual address. -/
def devRuns (va : Nat) (rs : List Run) : List Piece :=
  rs.flatMap fun r =>
    let a := ((va : Int) + r.d).toNat
    (pagesOf a r.len).map fun p => ⟨r.off + (p.1 - a), p.1, p.2⟩

/-! ## Start checks (R153, R331) -/

/-- Whether a core runs a task of a context (R151). -/
def Core.runsFor (c : Core) (n : CtxId) : Bool := c.run != .idle && c.run != .dead && c.task.ctx == n

/-- The lease entries of the launch of a core's task (R331). -/
def State.leasesOf (s : State) (k : CoreId) : List Lease := match s.launchOf k with | some l => l.leases | none => []

/-- The end of a lease entry's range, when it holds an address and grants the access (R309, R331; log 13). -/
def Lease.covers (l : Lease) (a : Nat) (r w : Bool) : Option Nat :=
  if decide (l.base ≤ a) && decide (a < l.base + l.len) && (!r || l.rd) && (!w || l.wr) then some (l.base + l.len) else none

/-- The first byte of an extent that no lease entry covers. -/
def uncovered (ls : List Lease) (r w : Bool) : Nat → Nat → Nat → Option Nat
  | 0, a, e => if a < e then some a else none
  | fuel + 1, a, e =>
    if e ≤ a then none
    else match ls.findSome? fun l => l.covers a r w with
      | some hi => uncovered ls r w fuel hi e
      | none => some a

/-- Whether a value of ctx.pkey refuses an access to a key (R324, R144). -/
def pkeyRefuses (pk : Word64) (key : Nat) (r w : Bool) : Bool := (r && bit pk (2 * key)) || (w && bit pk (2 * key + 1))

/-! ## The TLB of a core (R329, R330) -/

/-- The leaf by which a core's engine translates an address; a flash leaf is not mapped (R334), but for a transform, which waits
for its page (R157): `flash`. -/
def State.leafAt (s : State) (k : CoreId) (n : CtxId) (va : Nat) (flash : Bool) : Option Found :=
  (s.leafBy (s.core k).tlb n va).filter fun f => flash || pteType f.e != 3

/-- Puts a leaf that a walk found into a core's TLB (R329). -/
def State.holdLeaf (s : State) (k : CoreId) (n : CtxId) (va : Nat) (f : Found) : State :=
  match f.entry n va with
  | none => s
  | some x =>
    if f.ea = heldAt then { s with seq := s.seq + 1 }
    else s.modCore k fun c => { c with tlb := tlbPut c.tlb coreTlbSize x }

/-- The first run of an extent that is not canonical: it passes the end of a half, or lies in another half than the first run does,
so that the extent crosses 2^56 (R319); which address its fault names is the model's choice (log 74). -/
def noncanonical (va : Nat) (rs : List Run) : Option Run :=
  let upper (x : Run) : Bool := decide ((2 : Int) ^ 56 ≤ (va : Int) + x.d)
  rs.find? fun x => !canonical ((va : Int) + x.d) x.len || (rs.head?.any fun y => upper x != upper y)

/-- The checks of a device-virtual extent in the order of R331: canonical form, leases, translation, permissions (with the
protection key where `pk` is given). -/
def devCheck (s : State) (k : CoreId) (n : CtxId) (va : Nat) (rs : List Run) (r w : Bool) (pk : Option Word64) (flash : Bool) :
    Except CFault (List (Piece × Found)) :=
  match noncanonical va rs with
  | some x => .error (fTrans 1 (((va : Int) + x.d) % (2 : Int) ^ 57).toNat)
  | none =>
  let ps := devRuns va rs
  let ls := s.leasesOf k
  match ps.findSome? fun p => uncovered ls r w (ls.length + 1) p.va (p.va + p.len) with
  | some a => .error (fLease a)
  | none =>
  match ps.find? fun p => (s.leafAt k n p.va flash).isNone with
  | some p => .error (fTrans 0 p.va)
  | none =>
  let fs := ps.filterMap fun p => (s.leafAt k n p.va flash).map fun f => (p, f)
  match fs.find? fun x => (r && !pteR x.2.e) || (w && !pteW x.2.e) with
  | some x => .error (fTrans 2 x.1.va)
  | none =>
  match fs.find? fun x => pk.any fun v => pkeyRefuses v (pteKey x.2.e) r w with
  | some x => .error (fPkey x.1.va)
  | none => .ok fs

/-- The checks of a scratch extent (R76, R39), then isolation (R151). -/
def scratchCheck (s : State) (k c : CoreId) (a : Nat) (rs : List Run) : Option CFault :=
  let h := hull rs
  let lo := (a : Int) + h.1
  if lo < 0 then some fRange
  else match (s.core c).extent lo.toNat (h.2 - h.1).toNat with
    | some .range => some fRange
    | some (.bankMode _) => some fBankMode
    | none => if c ≠ k && !(s.core c).runsFor (s.core k).task.ctx then some (fIsolation 0 none) else none

/-- The bytes of a shadow (R39). -/
def shadowSize : Nat := 6144

/-- The check of a shadow extent (R39). -/
def shadowCheck (c : Core) (b : BitVec 5) (off : Nat) (rs : List Run) : Option CFault :=
  let h := hull rs
  if (off : Int) + h.1 < 0 ∨ (shadowSize : Int) < off + h.2 then some fRange
  else if (c.bank b).compute then none else some fBankMode

/-- Whether a queue takes a copy's elements (R96). -/
def Qcw.takes (q : Qcw) : Bool := q.en && (q.use == 0 || (q.use == 2 && q.esz == 4))

/-- The check of one end, before any byte moves (R153): the pages of a device end. -/
def sideCheck (s : State) (k : CoreId) (t : Tag) (e : End) (rs : List Run) (r w : Bool) :
    Except CFault (List (Piece × Found)) :=
  let c := s.core k
  let opt (x : Option CFault) : Except CFault (List (Piece × Found)) := match x with | some f => .error f | none => .ok []
  match e with
  | .dev va => devCheck s k c.task.ctx va rs r w none t.isCpyx
  | .scratch c' a => opt (scratchCheck s k c' a rs)
  | .shadow b off => opt (shadowCheck c b off rs)
  | .queue q =>
    let x := c.q q
    if x.takes && (t.isCpyx || t.what.total % x.esz == 0) then .ok [] else .error fQueue

/-- The shadow extent of a CIM.FILL, once the bank's kind is known (R161). -/
def fillCheck (c : Core) (b : BitVec 5) (off len : Nat) : Option CFault :=
  let x := c.bank b
  if !x.compute then some fBankMode
  else if off % 96 ≠ 0 ∨ len % x.depthK ≠ 0 ∨ shadowSize < off + len / x.depthK * 96 then some fRange
  else none

/-- The size of an atomic's result in scratch (R162). -/
def resultSize (aop v : Nat) : Nat := if aop = 11 ∧ v = 0 then 16 else 8

/-- The keys of a transform's, a load's or a fill's pages, after the checks of both ends (R153): source, then destination. -/
def keyCheck (pk : Word64) (a b : List (Piece × Found)) : Except CFault (List (Piece × Found) × List (Piece × Found)) :=
  let refused (r w : Bool) (l : List (Piece × Found)) := l.find? fun x => pkeyRefuses pk (pteKey x.2.e) r w
  match (refused true false a).or (refused false true b) with
  | some x => .error (fPkey x.1.va)
  | none => .ok (a, b)

/-- A command's start checks in order (R153): the pages of its source, then of its destination. -/
def startChecks (s : State) (k : CoreId) (t : Tag) : Except CFault (List (Piece × Found) × List (Piece × Found)) :=
  let c := s.core k
  let src (n : Nat) := sideCheck s k t (endOf k t.src) (t.what.runs true 0 n) true false
  match t.what with
  | .atom aop n _ _ v _ res => do
    match res.bind fun a => c.extent a (resultSize aop v) with
    | some .range => .error fRange
    | some (.bankMode _) => .error fBankMode
    | none => pure ()
    let e := endOf k t.dest
    let fs ← match e with
      | .dev va => do
        -- leases must grant RW to an atomic; a read of a cell needs r alone of the leaf and its key (R331, R324)
        match devCheck s k c.task.ctx va [⟨0, 0, n⟩] true true (some t.pkey) false with
        | .ok fs => pure fs
        | .error f =>
          if aop = 11 && f.code ≠ 6 && f.code ≠ 1 then
            match devCheck s k c.task.ctx va [⟨0, 0, n⟩] true false (some t.pkey) false with
            | .ok fs => pure fs
            | .error f => .error f
          else .error f
      | e => sideCheck s k t e [⟨0, 0, n⟩] true (aop ≠ 11)
    match fs.find? fun x => pteType x.2.e == 5 with
    | some x => .error (fUnsupported x.1.va)
    | none => return ([], fs)
  | .laneLoad _ _ len => do keyCheck t.pkey (← src len) []
  | .cimFill len => do
    let a ← src len
    match endOf k t.dest with
    | .shadow b off => match fillCheck c b off len with
      | some f => .error f
      | none => keyCheck t.pkey a []
    | _ => return (a, [])
  | .cpyx slen _ _ _ cap => do
    let a ← src slen
    let b ← sideCheck s k t (endOf k t.dest) [⟨0, 0, cap⟩] false true
    keyCheck t.pkey a b
  | o => do
    let a ← src o.total
    let b ← sideCheck s k t (endOf k t.dest) (o.runs false 0 o.total) false true
    return (a, b)

/-- The walks that the checks of one device end have made where they fail past its leases (R323, R331). -/
def endMarks (s : State) (k : CoreId) (e : End) (rs : List Run) (r w write : Bool) : State :=
  match e with
  | .dev va =>
    let ps := devRuns va rs
    let ls := s.leasesOf k
    if (noncanonical va rs).isNone &&
        ps.all fun p => (uncovered ls r w (ls.length + 1) p.va (p.va + p.len)).isNone then
      s.walkPages (s.core k).task.ctx (ps.map (·.va)) write
    else s
  | _ => s

/-- The walks that a command's start checks have made where they fail (R153, R323, R331). -/
def startMarks (s : State) (k : CoreId) (t : Tag) : State :=
  let src (n : Nat) := endMarks s k (endOf k t.src) (t.what.runs true 0 n) true false false
  let both (n : Nat) (rs : List Run) : State :=
    match sideCheck s k t (endOf k t.src) (t.what.runs true 0 n) true false with
    | .ok _ => endMarks (src n) k (endOf k t.dest) rs false true true
    | .error _ => src n
  match t.what with
  | .atom aop n _ _ v _ res =>
    if (res.bind fun a => (s.core k).extent a (resultSize aop v)).isSome then s
    else endMarks s k (endOf k t.dest) [⟨0, 0, n⟩] true true (aop ≠ 11)
  | .laneLoad _ _ len => src len
  | .cimFill len => src len
  | .cpyx slen _ _ _ cap => both slen [⟨0, 0, cap⟩]
  | o => both o.total (o.runs false 0 o.total)

/-- Whether base camp has copied a page and not replaced its leaf yet, to page it out (R333) or to migrate it (R336): the page is not
pinned meanwhile. -/
def State.moving (s : State) (n : CtxId) (vpn : Nat) : Bool :=
  (s.vm.busy.any fun r => r.ctx == n && r.lo == vpn && r.taken.isSome) ||
  s.sched.migs.any fun m => m.ctx == n && m.vpn + m.next == vpn && m.copied.isSome

/-! ## Translations (R293, R321-R323) -/

/-- What a command's translation of its pages has come to. -/
structure Acq where
  s : State
  trans : List Trans
  wait : Bool
  fault : Option CFault
deriving DecidableEq, Repr

/-- Translates one page of a command (R293, R297, R323). -/
def acquirePage (k : CoreId) (n : CtxId) (who : Waiter) (r w : Bool) (q : Acq) (x : Piece × Found) : Acq :=
  let vpn := x.1.va / 4096
  let e := x.2.e
  if q.fault.isSome || (findTrans q.trans n vpn r w).isSome then q
  else match pteType e with
    | 2 =>
      { q with
        s := (q.s.walked x.2 w).holdLeaf k n x.1.va x.2
        trans := q.trans ++ [⟨n, vpn, 1, .device (x.2.pa (vpn * 4096) / 4096), pteR e, pteW e, BitVec.ofNat 5 (pteKey e), false, false⟩] }
    | 4 =>
      let p := q.s.peer (ptePort e)
      if p.failed then { q with fault := some (fIsolation 2 (some x.1.va)) }
      else if (p.far n).isNone then { q with fault := some (fIsolation 1 (some x.1.va)) }
      else { q with
        s := q.s.holdLeaf k n x.1.va x.2
        trans := q.trans ++ [⟨n, vpn, 1, .peer (ptePort e), pteR e, pteW e, BitVec.ofNat 5 (pteKey e), false, false⟩] }
    | _ =>
      match findTrans ((q.s.core k).tlb.filter (·.isHost)) n vpn r w with
      | some y => { q with trans := q.trans ++ [{ y.page vpn with r := pteR e, w := pteW e, key := BitVec.ofNat 5 (pteKey e) }] }
      | none =>
        if q.s.asked n vpn who || q.s.invalidating n vpn then { q with wait := true }
        else { q with s := askTranslation q.s n vpn r w who, wait := true }

/-- Translates the pages of a command. -/
def acquire (s : State) (k : CoreId) (n : CtxId) (who : Waiter) (ts : List Trans) (a b : List (Piece × Found))
    (ra wa rb wb : Bool) : Acq :=
  let q := a.foldl (acquirePage k n who ra wa) ⟨s, ts, false, none⟩
  b.foldl (acquirePage k n who rb wb) q

/-! ## Moving bytes -/

/-- Bytes arrive at a command's sync word (R94, R95). -/
def arriveAt (s : State) (k : CoreId) (t : Tag) (b : Nat) : State :=
  if !t.t then s else s.modCore (t.targetCore k) fun x => x.arrive t.target.toNat b

/-- Whether a command writes the device pages of its destination: a read of a cell does not (R162, R324). -/
def CopyOp.writes (o : CopyOp) : Bool := match o with | .atom aop _ _ _ _ _ _ => aop ≠ 11 | _ => true

/-- The access path of a command outside its shadow commits (R78). -/
def Tag.path (t : Tag) : Nat := if t.isCpyx then 3 else 2

/-- Whether the detector may fault a command (R153). -/
def Tag.raceFaults (t : Tag) : Bool := match t.what with | .cpy _ | .cpys _ _ => true | _ => false

/-- The die whose engines or lanes move a command's bytes: a lane sits beside a channel, twelve of which a die has (R13, R157). -/
def Tag.moverDie (t : Tag) (k : CoreId) : Nat :=
  match t.what with
  | .cpyx _ _ _ lane _ => lane / 4 / 12
  | .laneLoad lane _ _ => lane / 4 / 12
  | _ => dieOf k

/-- The bytes that a die's engines or lanes move under a phase's PINNED leases (R318). -/
def countMove (s : State) (k : CoreId) (die va len : Nat) : State :=
  match s.launchOf k with
  | none => s
  | some l =>
    if bit (s.ctx l.ctx).vmRoot 63 && l.now l.pc && l.leases.any fun e => !e.host && (e.covers va false false).isSome then
      let key := fun (m : MigCount) => m.pc == l.pc && m.ctx == l.ctx && m.region == va / 2 ^ 21 && m.die == die
      let ms := s.sched.migCounts
      let ms' := if ms.any key then ms.map fun m => if key m then { m with bytes := m.bytes + len } else m
        else ms ++ [⟨l.pc, l.ctx, va / 2 ^ 21, die, len⟩]
      { s with sched := { s.sched with migCounts := ms' } }
    else s

/-- A movement under way: the state, the tag, the bytes so far (none while some await an answer), and a fault. -/
structure Mv where
  s : State
  t : Tag
  data : Option (List Byte)
  fault : Option CFault
deriving DecidableEq, Repr

/-- The leaf by which a piece is reached. -/
def leafOf (ts : List Trans) (n : CtxId) (p : Piece) (r w : Bool) : Option Leaf :=
  (findTrans ts n (p.va / 4096) r w).map fun x => x.leaf

/-- The checks of a piece of a source before it is read (R153): its translation, its key, its port; where it comes over a link and
has not come yet, it is asked for. -/
def askPiece (k : CoreId) (n : Nat) (m : Mv) (p : Piece) : Mv :=
  let ctx := (m.s.core k).task.ctx
  let who : Waiter := .tag k (BitVec.ofNat 7 n)
  let has := m.t.got.any fun g => g.1 == p.off && g.2.length == p.len
  let under := m.t.sent.any fun y => !y.write && y.off == p.off
  let ask (s : State) : Mv :=
    { m with s := s, t := { m.t with sent := m.t.sent ++ [⟨m.s.req, p.off, p.len, false⟩] }, data := none }
  if m.fault.isSome then m
  else match findTrans m.t.trans ctx (p.va / 4096) true false with
    | none => { m with fault := some (fTrans 0 p.va) }
    | some x =>
      if m.t.raceFaults && pkeyRefuses m.t.pkey x.key.toNat true false then { m with fault := some (fPkey p.va) }
      else match x.leaf with
        | .device _ => m
        | .host hpa =>
          if has then m else if under then { m with data := none }
          else ask (hostRead m.s ctx (hpa.map (· + p.va % 4096)) p.va p.len who)
        | .peer port =>
          let pr := m.s.peer port
          if has then m
          else if pr.failed then { m with fault := some (fIsolation 2 (some p.va)) }
          else match pr.far ctx with
            | none => { m with fault := some (fIsolation 1 (some p.va)) }
            | some far =>
              if under || !pr.room 1 then { m with data := none }
              else ask (peerCommand m.s port ctx far (.read (BitVec.ofNat 57 p.va) p.len) who)

/-- Reads one piece of a source whose bytes are at hand: of device memory (R98, R373), or what has come over a link. -/
def readPiece (k : CoreId) (m : Mv) (p : Piece) : Mv :=
  let ctx := (m.s.core k).task.ctx
  let add (m : Mv) (bs : List Byte) : Mv := { m with data := m.data.map (· ++ bs) }
  if m.fault.isSome then m
  else match leafOf m.t.trans ctx p true false with
    | some (.device fr) =>
      let pa := fr * 4096 + p.va % 4096
      if m.s.poisoned pa p.len then { m with fault := some (fPoison (some p.va)) }
      else match raceAccess m.s ctx (.core k m.t.path) p.va p.len false 0 m.t.raceFaults with
        | (s, some a) => { m with s := s, fault := some (fRace a) }
        | (s, none) => add { m with s := countMove s k (m.t.moverDie k) p.va p.len } (memRead s.dram pa p.len)
    | _ => add m (((m.t.got.find? fun g => g.1 == p.off && g.2.length == p.len).map (·.2)).getD [])

/-- The aligned 8-byte unit of the source that a flat offset lies in, within its run: its first offset, and its end (R79). -/
def Tag.unitOf (t : Tag) (x : Nat) : Nat × Nat :=
  let r := t.what.runOf x
  let u := (((bits t.src 56 0 : Nat) : Int) + (match t.what.runs true x 1 with | y :: _ => y.d | [] => 0)) % 8
  (max r.1 (x - u.toNat), min r.2 (x + (8 - u.toNat)))

/-- The flat extent that must be read for [off, off + len): whole units of the source, but for those of which bytes are held;
nothing where all of it is held. -/
def Tag.readSpan (t : Tag) (off len : Nat) : Nat × Nat :=
  let last := off + len - 1
  let has (x : Nat) : Bool := t.held.any (·.1 == x)
  if (List.range len).all fun i => has (off + i) then (off, off)
  else (if has off then (t.unitOf off).2 else (t.unitOf off).1, if has last then (t.unitOf last).1 else (t.unitOf last).2)

/-- Reads whole units of a command's source, the flat extent [lo, hi). -/
def readUnits (s : State) (k : CoreId) (n : Nat) (t : Tag) (lo hi : Nat) : Mv :=
  let rs := if lo < hi then t.what.runs true lo (hi - lo) else []
  match endOf k t.src with
  | .dev va =>
    let ps := devRuns va rs
    let m := ps.foldl (askPiece k n) ⟨s, t, some [], none⟩
    if m.fault.isSome || m.data.isNone then m else ps.foldl (readPiece k) m
  | .scratch c a =>
    match scratchCheck s k c a (if rs.isEmpty then t.what.runs true lo 1 else rs) with
    | some f => ⟨s, t, some [], some f⟩
    | none => ⟨s, t, some (rs.flatMap fun r => (s.core c).readScratch ((a : Int) + r.d).toNat r.len), none⟩
  | _ => ⟨s, t, some [], none⟩

/-- Reads the flat extent [off, off + len) of a command's source: each aligned 8-byte unit once and whole; the bytes of a unit that
lie outside the extent are held for the piece that moves them (R79, R83). -/
def readSrc (s : State) (k : CoreId) (n : Nat) (t : Tag) (off len : Nat) : Mv :=
  let sp := t.readSpan off len
  let m : Mv := if len = 0 then ⟨s, t, some [], none⟩ else readUnits s k n t sp.1 sp.2
  match m.fault, m.data with
  | none, some d =>
    let all := t.held ++ d.zipIdx.map fun p => (sp.1 + p.2, p.1)
    let mine (x : Nat) : Bool := decide (off ≤ x) && decide (x < off + len)
    { m with
      data := some ((List.range len).map fun i => ((all.find? (·.1 == off + i)).map (·.2)).getD 0)
      t := { m.t with
        held := all.filter fun p => !mine p.1
        got := m.t.got.filter fun g => !(decide (sp.1 ≤ g.1) && decide (g.1 < sp.2)) } }
  | _, _ => m

/-- A command that holds bytes it has read until the rest that it needs with them has come: they are not read again (R79). -/
def Tag.keep (t : Tag) (off : Nat) (d : List Byte) : Tag := { t with held := t.held ++ d.zipIdx.map fun p => (off + p.2, p.1) }

/-- Commits bytes into a bank's shadow (R37). -/
def Core.commit (c : Core) (b : BitVec 5) (off : Nat) (v : List Byte) : Except CFault Core :=
  let x := c.bank b
  if !x.compute then .error fBankMode
  else if shadowSize < x.count.toNat + v.length then .error fOverrun
  else
    let n := x.count.toNat + v.length
    .ok ((c.writeScratch (c.shadowBase b + off) v).setBank b
      { x with count := BitVec.ofNat 13 n, fill := if n = shadowSize then fillFull else fillFilling })

/-- The elements a queue has room for. -/
def Qcw.room (q : Qcw) : Nat := q.depth - q.occ

/-- Appends elements at a queue's tail (R96, R156). -/
def Core.append (c : Core) (n : BitVec 3) : Nat → List Byte → Core
  | 0, _ => c
  | fuel + 1, v =>
    let q := c.q n
    if v = [] then c
    else
      let c := c.writeScratch (q.base + q.tail * q.esz) (v.take q.esz)
      (c.setQ n (q.put (q.occ + 1) ((q.tail + 1) % q.depth) q.head)).append n fuel (v.drop q.esz)

/-- What a delivery of bytes did: the state and tag, the bytes performed at once, or a fault. -/
structure Put where
  s : State
  t : Tag
  now : Nat
  fault : Option CFault
deriving DecidableEq, Repr

/-- The bytes of some chunks, each a flat offset and bytes, from an offset on. -/
def chunkBytes (cs : List (Nat × List Byte)) (off len : Nat) : List Byte :=
  match cs.find? fun c => decide (c.1 ≤ off) && decide (off + len ≤ c.1 + c.2.length) with
  | some c => (c.2.drop (off - c.1)).take len
  | none => []

/-- Writes one piece of a device end; its checks have passed. -/
def writePiece (k : CoreId) (n : Nat) (cs : List (Nat × List Byte)) (m : Put) (p : Piece) : Put :=
  let ctx := (m.s.core k).task.ctx
  let v := chunkBytes cs p.off p.len
  match findTrans m.t.trans ctx (p.va / 4096) false true with
  | none => m
  | some x => match x.leaf with
    | .device fr =>
      let s := m.s.writePhysBy (.task k m.t.order) (fr * 4096 + p.va % 4096) v
      { m with s := countMove s k (m.t.moverDie k) p.va p.len, now := m.now + p.len }
    | .host hpa =>
      { m with s := hostWrite m.s ctx (hpa.map (· + p.va % 4096)) p.va v, t := { m.t with owed := m.t.owed + p.len } }
    | .peer port => match (m.s.peer port).far ctx with
      | none => m
      | some far =>
        { m with s := peerCommand m.s port ctx far (.write (BitVec.ofNat 57 p.va) v) (.tag k (BitVec.ofNat 7 n))
                 t := { m.t with sent := m.t.sent ++ [⟨m.s.req, p.off, p.len, true⟩] } }

/-- The checks of a write's pieces: the key of each page as it is reached, the peer port, the detector (R153). -/
def writeChecks (k : CoreId) (ctx : CtxId) (m : Put) (p : Piece) : Put :=
  if m.fault.isSome then m
  else match findTrans m.t.trans ctx (p.va / 4096) false true with
    | none => { m with fault := some (fTrans 0 p.va) }
    | some x =>
      if m.t.raceFaults && pkeyRefuses m.t.pkey x.key.toNat false true then { m with fault := some (fPkey p.va) }
      else match x.leaf with
        | .peer port =>
          let pr := m.s.peer port
          if pr.failed then { m with fault := some (fIsolation 2 (some p.va)) }
          else if (pr.far ctx).isNone then { m with fault := some (fIsolation 1 (some p.va)) }
          else m
        | .device _ => match raceAccess m.s ctx (.core k m.t.path) p.va p.len true 0 m.t.raceFaults with
          | (s, some a) => { m with s := s, fault := some (fRace a) }
          | (s, none) => { m with s := s }
        | .host _ => m

/-- Whether each peer port has the response slots that some pieces need (R300, R302). A port that is down or unbound is left to the
checks. -/
def peersReady (s : State) (n : CtxId) (ts : List Trans) (ps : List Piece) : Bool :=
  [false, true].all fun port =>
    let k := (ps.filter fun p => leafOf ts n p false false == some (.peer port)).length
    k == 0 || (s.peer port).failed || ((s.peer port).far n).isNone || (s.peer port).room k

/-- Whether a command's destination has room for chunks of bytes: its queue, or the peer ports it goes through (R156, R300). -/
def roomFor (s : State) (k : CoreId) (t : Tag) (cs : List (Nat × List Byte)) : Bool :=
  match endOf k t.dest with
  | .dev va => peersReady s (s.core k).task.ctx t.trans (devRuns va (cs.flatMap fun x => t.what.runs false x.1 x.2.length))
  | .queue q => let x := (s.core k).q q; !x.takes || decide ((cs.map (·.2.length)).sum ≤ x.room * x.esz)
  | _ => true

/-- Writes chunks of bytes of a command's destination, for which there is room. -/
def putDst (s : State) (k : CoreId) (n : Nat) (t : Tag) (cs : List (Nat × List Byte)) : Put :=
  let rs := cs.flatMap fun x => t.what.runs false x.1 x.2.length
  let len := (cs.map (·.2.length)).sum
  let c := s.core k
  match endOf k t.dest with
  | .dev va =>
    let ps := devRuns va rs
    let m := ps.foldl (writeChecks k c.task.ctx) ⟨s, t, 0, none⟩
    if m.fault.isSome then { m with s := s, t := t } else ps.foldl (writePiece k n cs) m
  | .scratch c' a =>
    match (if rs.isEmpty then none else scratchCheck s k c' a rs) with
    | some f => ⟨s, t, 0, some f⟩
    | none =>
      let s' := rs.foldl (fun s r =>
        let x := ((a : Int) + r.d).toNat
        (s.modCore c' fun y => y.writeScratch x (chunkBytes cs r.off r.len)).spoil c' x r.len) s
      ⟨s', t, len, none⟩
  | .shadow b o =>
    let r := rs.foldl (fun (x : Except CFault Core) r => match x with
      | .ok c => c.commit b ((o : Int) + r.d).toNat (chunkBytes cs r.off r.len)
      | e => e) (.ok c)
    (match r with
     | .ok c' => ⟨s.setCore k c', t, len, none⟩
     | .error f => ⟨s, t, 0, some f⟩)
  | .queue q =>
    if !(c.q q).takes then ⟨s, t, 0, some fQueue⟩
    else ⟨s.setCore k (c.append q len (cs.flatMap (·.2))), t, len, none⟩

/-- The flat extent of a copy's destination that its source overlaps (R154). -/
def Tag.overlap (t : Tag) (k : CoreId) : Option (Nat × Nat) :=
  let both : Option (Nat × Nat) := match endOf k t.src, endOf k t.dest with
    | .dev a, .dev b => some (a, b)
    | .scratch c a, .scratch d b => if c = d then some (a, b) else none
    | _, _ => none
  match t.what, both with
  | .cpy len, some (a, b) => if a < b + len ∧ b < a + len then some (a - b, min len (a + len - b)) else none
  | _, _ => none

/-- The chunks that a piece of a copy writes: what lies outside the overlap with the source; the destination's bytes in the overlap
are undefined and nothing else is affected, so free values go there with the last piece, when nothing is left to read (R154). -/
def Tag.chunks (t : Tag) (k : CoreId) (seq off : Nat) (data : List Byte) (last : Bool) : List (Nat × List Byte) :=
  match t.overlap k with
  | none => [(off, data)]
  | some (lo, hi) =>
    let before := (off, data.take (lo - off))
    let after := (max off hi, data.drop (max off hi - off))
    ([before, after].filter fun c => !c.2.isEmpty) ++
    (if last then [(lo, (List.range (hi - lo)).map fun i => Config.freeByte seq (lo + i))] else [])

/-- The interval list without [off, off + len), which lies in one of its intervals. -/
def cut (off len : Nat) : List (Nat × Nat) → List (Nat × Nat)
  | [] => []
  | (a, n) :: l =>
    if decide (a ≤ off) && decide (off + len ≤ a + n) then
      (if a < off then [(a, off - a)] else []) ++ (if off + len < a + n then [(off + len, a + n - (off + len))] else []) ++ l
    else (a, n) :: cut off len l

/-- A command with nothing left to move and nothing awaited is finished, after a read that flushes its host writes
(R153, R292). -/
def settleTag (s : State) (k : CoreId) (n : Nat) (t : Tag) : State :=
  if t.todo = [] && t.sent = [] && t.phase == .moving then
    if 0 < t.owed then
      let page := t.trans.find? fun x => match x.leaf with | .host _ => x.hw | _ => false
      let hpa := page.bind fun x => match x.leaf with | .host h => h | _ => none
      let s' := hostRead s (s.core k).task.ctx hpa ((page.map (·.vpn * 4096)).getD 0) 0 (.tag k (BitVec.ofNat 7 n))
      s'.modCore k fun c => c.setTag n (some { t with phase := .flushing s.req })
    else s.modCore k fun c => c.setTag n (some { t with phase := .finished })
  else s.modCore k fun c => c.setTag n (some t)

end Sys2Proof.Machine
end

