-- ==== Sys2Proof/Machine/Copies.lean ====
section
/-! DEFINITION. The events of the copy engine and the lanes: start, arrival and completion of copies (R153-R156), transforms
and lane tables (R157-R160), fills (R161), atomics (R162, R92), gathers and scatters (R230, R231). -/

namespace Sys2Proof.Machine

/-! ## Start (R153) -/

/-- Whether a CIM.MODE issued before a command still holds its destination's bank, of its own core or another (R38). -/
def State.modeBefore (s : State) (k : CoreId) (t : Tag) : Bool :=
  match (s.core k).destBank k t with
  | none => false
  | some (m, b) =>
    (s.core m).zeroing.any (fun z => z.bank == b && decide (z.stamp < t.order)) ||
    (s.core (s.leader m)).cmdq.any fun x => match x with
      | .mode b' _ _ _ stamp => b' == b && decide (stamp < t.order)
      | .loop _ => false

/-- Whether an atomic is an acquire (R90, R162). -/
def CopyOp.acquires (o : CopyOp) : Bool := o.ord == 1 || o.ord == 3

/-- Whether an atomic is a release (R90, R162). -/
def CopyOp.releases (o : CopyOp) : Bool := decide (2 ≤ o.ord)

/-- Whether a command may start: R38's hold, R156's order into a queue, R90's orders of atomics, R158's order into a lane. -/
def State.mayStart (s : State) (k : CoreId) (t : Tag) : Bool :=
  let c := s.core k
  !s.modeBefore k t &&
  (c.liveTags.all fun p =>
    let u := p.2
    !(decide (u.order < t.order) && u.pending) ||
    (!t.what.releases && !u.what.acquires && !(bits t.dest 63 61 == 4 && u.dest == t.dest && u.op.toNat ≠ 5) &&
     !(u.phase == .issued && u.what.lane.isSome && u.what.lane == t.what.lane))) &&
  (!t.what.releases || (!c.loopsBefore t.order && (c.aq.all fun e => decide (t.order < e.stamp)) &&
    c.elems.all fun w => decide (t.order < w.entry.stamp)))

/-- Whether an ATOM.REL at host scope or beyond must first see scattered host writes performed (R90, R292). -/
def Core.atomFlush (c : Core) (t : Tag) : Bool :=
  match t.what with
  | .atom _ _ scope ord _ _ _ => decide (2 ≤ ord) && decide (scopeHost ≤ scope) && decide (0 < c.hostWrites)
  | _ => false

/-- Begins a command whose pages are translated: its bytes move, or it reaches its lane (R158). -/
def beginCommand (s : State) (k : CoreId) (n : Nat) (t : Tag) : State :=
  match t.what.lane with
  | some l =>
    let x := tabGet Lane.reset s.lanes l
    let s := { s with lanes := tabSet Lane.reset s.lanes l { x with order := x.order ++ [(k, BitVec.ofNat 7 n)] } }
    s.modCore k fun c => c.setTag n (some { t with phase := .inLane })
  | none => s.modCore k fun c => c.setTag n (some { t with phase := .moving, todo := [(0, t.what.total)] })

/-- COPY_START (R153, R331): a command's start checks and translations; it waits for host pages, and a transform for flash-resident
ones too (R157); it faults, or begins. -/
def execCopyStart (core : CoreId) (tag : BitVec 7) (s : State) : Out :=
  let c := s.core core
  let n := tag.toNat
  match c.tag n with
  | none => .next s
  | some t =>
    if t.phase ≠ .issued ∨ !s.mayStart core t then .next s
    else if c.atomFlush t then .next (flushRead s core)
    else match startChecks s core t with
      | .error f => .next (copyFault (startMarks s core t) core n t f)
      | .ok (a, b) =>
        if (a ++ b).any fun x => pteType x.2.e == 3 || (t.isCpyx && s.moving c.task.ctx (x.1.va / 4096)) then
          .next (startMarks s core t)
        else
        let atom := t.op.toNat == 5
        let q := acquire s core c.task.ctx (.tag core tag) t.trans a b true false atom t.what.writes
        let t := { t with trans := q.trans }
        match q.fault with
        | some f => .next (copyFault q.s core n t f)
        | none =>
          if q.wait then .next (q.s.modCore core fun c => c.setTag n (some t))
          else .next (beginCommand q.s core n t)

/-! ## Movement (R83, R95) -/

/-- Whether an interval lies in what is still to move, on the boundaries of R79's 8-byte units of the destination or of whole
elements; into a queue, in order (R156). -/
def Tag.pieceOk (t : Tag) (k : CoreId) (c : Core) (off len : Nat) : Bool :=
  let edge (a x e : Nat) : Bool := x == 0 || x == e || (a + x) % 8 == 0
  decide (0 < len) &&
  (t.todo.any fun p => decide (p.1 ≤ off) && decide (off + len ≤ p.1 + p.2)) &&
  (match endOf k t.dest, t.what with
   | .queue q, _ => off == t.moved && len % (c.q q).esz == 0
   | _, .cpys esz _ => off % 2 ^ esz == 0 && len % 2 ^ esz == 0
   | .shadow b _, .cimFill _ => off % (c.bank b).depthK == 0 && len % (c.bank b).depthK == 0
   | .dev a, .cpy n | .scratch _ a, .cpy n | .shadow _ a, .cpy n => edge a off n && edge a (off + len) n
   | _, _ => false)

/-- The interval that the default order moves next (log 2): all of the first run left, or what a queue has room for (R156); where a
peer is involved, no more than a page or an element. -/
def Core.nextPiece (c : Core) (k : CoreId) (t : Tag) : Nat × Nat :=
  let x := t.todo.headD (0, 0)
  let peer := t.trans.any fun y => match y.leaf with | .peer _ => true | _ => false
  match endOf k t.dest, t.what with
  | .queue q, _ => let r := (c.q q).room * (c.q q).esz; if 0 < r ∧ r < x.2 then (x.1, r) else x
  | _, .cpys esz _ => if peer then (x.1, min x.2 (2 ^ esz)) else x
  | _, .cpy _ => if peer then (x.1, min x.2 (4096 - (bits t.dest 19 0 + x.1) % 4096)) else x
  | _, _ => x

/-- The stored code of a source byte of a CIM.FILL (R161). -/
def fillCode (b : Bank) (x : Byte) : Nat :=
  if b.ternary then (if x = 0 then 0 else if x = 1 then 1 else if x = 0xFF then 3 else 2) else x.toNat % 2 ^ b.ps

/-- A column of 96 bytes from its codes (R161, R198): bit `p` of code `i` at bit p × K + i. -/
def fillColumn (b : Bank) (codes : List Byte) : List Byte :=
  toBytes 96 (codes.zipIdx.foldl (fun a x =>
    (List.range b.ps).foldl (fun a p => a + fillCode b x.1 / 2 ^ p % 2 * 2 ^ (p * b.depthK + x.2)) a) 0)

/-- The columns of a run of codes, K codes a column. -/
def fillColumns (b : Bank) : Nat → List Byte → List Byte
  | 0, _ => []
  | fuel + 1, v => if v = [] then [] else fillColumn b (v.take b.depthK) ++ fillColumns b fuel (v.drop b.depthK)

/-- COPY_ARRIVAL (R83, R95, R154-R156, R161): the bytes of an interval move, perform at their scope and arrive. -/
def execCopyArrival (core : CoreId) (tag : BitVec 7) (off len : Nat) (s : State) : Out :=
  let c := s.core core
  let n := tag.toNat
  match c.tag n with
  | none => .next s
  | some t =>
    let rest := cut off len t.todo
    if t.phase ≠ .moving ∨ !t.pieceOk core c off len ∨
        !roomFor s core t (t.chunks core s.seq off (List.replicate len 0) rest.isEmpty) then .next s
    else
      let m := readSrc s core n t off len
      match m.fault, m.data with
      | some f, _ => .next (copyFault m.s core n m.t f)
      | none, none => .next (m.s.modCore core fun c => c.setTag n (some m.t))
      | none, some data =>
        let p : Put := match t.what, endOf core t.dest with
          | .cimFill _, .shadow b o =>
            let x := c.bank b
            let v := fillColumns x data.length data
            (match c.commit b (o + off / x.depthK * 96) v with
             | .ok c' => ⟨m.s.setCore core c', m.t, v.length, none⟩
             | .error f => ⟨m.s, m.t, 0, some f⟩)
          | _, _ => putDst m.s core n m.t (m.t.chunks core s.seq off data rest.isEmpty)
        match p.fault with
        | some f => .next (copyFault p.s core n p.t f)
        | none =>
          let t := { p.t with todo := rest, moved := p.t.moved + len }
          .next (settleTag { arriveAt p.s core t p.now with seq := p.s.seq + 1 } core n t)

/-- COPY_COMPLETE (R153, R344): the tag of a finished command frees, once the notice of a transform's block faults stands. -/
def execCopyComplete (core : CoreId) (tag : BitVec 7) (s : State) : Out :=
  let c := s.core core
  let n := tag.toNat
  match c.tag n with
  | none => .next s
  | some t =>
    if t.phase ≠ .finished then .next s
    else
      let s := if decide (0 < t.nblk) && !t.noticed then writeRecord s core (c.tagRecord causeBlock n t) else s
      .next (s.modCore core fun c => c.setTag n (if s.noticeBusy core n then some { t with noticed := true } else none))

/-! ## Lanes (R158-R160) -/

/-- A table's header: states, start, entries (R160). -/
def tableHead (b : List Byte) : Nat × Nat × Nat :=
  let h := natAt b 0 8
  (if fld h 11 0 = 0 then 4096 else fld h 11 0, fld h 27 16, fld h 47 32)

/-- The byte at which a table's entries begin. -/
def tableEntries (ns : Nat) : Nat := (8 + 4 * ns + 7) / 8 * 8

/-- Whether a lane takes a table (R160). -/
def tableOk (b : List Byte) : Bool :=
  let (ns, start, ne) := tableHead b
  let base := tableEntries ns
  let entry (i : Nat) := natAt b (base + 8 * i) 8
  decide (8 ≤ b.length) && fld (natAt b 0 8) 15 12 == 0 && fld (natAt b 0 8) 31 28 == 0 && fld (natAt b 0 8) 63 48 == 0 &&
  decide (base + 8 * ne ≤ b.length) && decide (start < ns) &&
  ((List.range ns).all fun i =>
    let w := natAt b (8 + 4 * i) 4
    let k := fld w 31 28
    fld w 27 16 == 0 && decide (1 ≤ k) && decide (k ≤ 8) && decide (fld w 15 0 + 2 ^ k ≤ ne) &&
    (List.range (2 ^ k)).all fun j => decide (fld (entry (fld w 15 0 + j)) 51 48 ≤ k)) &&
  (List.range ne).all fun i =>
    let w := entry i
    decide (fld w 63 52 < ns) && decide (fld w 51 48 ≤ 8) && fld w 45 40 == 0 && fld w 15 0 == 0

/-- Decode of R159 from state `st`, payload bit `p`, with `out` the output so far, newest byte first. -/
def laneDecode (b : List Byte) (payload bitsIn outLen : Nat) : Nat → Nat → Nat → List Byte → Option (List Byte)
  | 0, _, _, out => if outLen ≤ out.length then some out.reverse else none
  | fuel + 1, st, p, out =>
    if outLen ≤ out.length then some out.reverse
    else
      let w := natAt b (8 + 4 * st) 4
      let v := payload / 2 ^ p % 2 ^ fld w 31 28
      let e := natAt b (tableEntries (tableHead b).1 + 8 * (fld w 15 0 + v)) 8
      let bs := ((List.range (fld e 47 46)).map fun j => BitVec.ofNat 8 (fld e 39 16 / 2 ^ (8 * j))).take (outLen - out.length)
      let p' := p + fld e 51 48
      if bitsIn < p' then none else laneDecode b payload bitsIn outLen fuel (fld e 63 52) p' (bs.reverse ++ out)

/-- The output of a block, before its checksum (R158, R159): none for fail. -/
def blockOut (table : List Byte) (method outLen : Nat) (payload : List Byte) : Option (List Byte) :=
  if method = 0 then (if payload.length = outLen then some payload else none)
  else laneDecode table (ofBytes payload) (8 * payload.length) outLen (8 * payload.length + outLen + 64) (tableHead table).2.1 0 []

/-- A transform that has handled its last block leaves its lane (R158). -/
def endTransform (s : State) (k : CoreId) (n : Nat) (t : Tag) : State :=
  leaveLanes (settleTag s k n { t with phase := .moving, todo := [], got := [] }) k n

/-- Moves a transform to its next block. -/
def Tag.nextBlock (t : Tag) (inLen outLen : Nat) : Tag :=
  let next := (t.blkSrc + 16 + inLen + 15) / 16 * 16
  { t with
    blkHead := t.blkSrc, blkSrc := next, blkOut := t.blkOut + outLen, blkIdx := t.blkIdx + 1, got := []
    held := t.held.filter fun p => decide (next ≤ p.1) }

/-- The address of the header of a transform's block at a source offset (R342). -/
def Tag.headVa (t : Tag) (k : CoreId) (off : Nat) : Option Nat := match endOf k t.src with | .dev a => some (a + off) | _ => none

/-- Commits a block's output, or the part of it that a queue has room for, and its arrival (R158, R95). -/
def commitBlock (s : State) (k : CoreId) (n : Nat) (t : Tag) (off : Nat) (data : List Byte) : State :=
  let take := match endOf k t.dest with
    | .queue q => min data.length (((s.core k).q q).room * ((s.core k).q q).esz)
    | _ => data.length
  let cs := [(off, data.take take)]
  let left (s : State) (t : Tag) (take : Nat) : State := s.modCore k fun c => c.setTag n (some { t with
    todo := [(off + take, data.length - take)], got := [(off + take, data.drop take)] })
  if !roomFor s k t cs then left s t 0
  else
    let p := putDst s k n t cs
    match p.fault with
    | some f => blockEnds p.s k n p.t { f with va := f.va.or (t.headVa k t.blkHead) }
    | none =>
      if take < data.length then left p.s p.t take
      else
        let len := t.blkLen.getD 0
        let t' := { p.t with todo := [], got := [], moved := p.t.moved + len }
        if t.owed < t'.owed then
          p.s.modCore k fun c => c.setTag n (some { t' with owed := t.owed + len, blkLen := none })
        else if !t'.sent.isEmpty then p.s.modCore k fun c => c.setTag n (some t')
        else (arriveAt p.s k t' len).modCore k fun c => c.setTag n (some { t' with blkLen := none })

/-- Handles the next block of a transform that its lane serves (R158). -/
def nextBlock (s : State) (k : CoreId) (n : Nat) (t : Tag) (table : List Byte) : State :=
  match t.what with
  | .cpyx slen rho _ _ cap =>
    let va := t.headVa k t.blkSrc
    if slen ≤ t.blkSrc then endTransform s k n t
    else if slen < t.blkSrc + 16 then endTransform s k n (t.blockFault (fFormat va) true)
    else
      let h := readSrc s k n t t.blkSrc 16
      match h.fault, h.data with
      | some f, _ => blockEnds h.s k n h.t f
      | none, none => h.s.modCore k fun c => c.setTag n (some h.t)
      | none, some hd =>
        let inLen := natAt hd 0 4
        let outLen := natAt hd 4 4
        let method := natAt hd 12 1
        if slen < t.blkSrc + 16 + inLen || decide (1 < method) || natAt hd 13 3 ≠ 0 || decide (65536 < outLen) then
          endTransform h.s k n (h.t.blockFault (fFormat va) true)
        else
          let skip (s : State) (t : Tag) (f : CFault) := s.modCore k fun c => c.setTag n (some ((t.blockFault f false).nextBlock inLen outLen))
          if rho * inLen < outLen then skip h.s h.t (fRatio va)
          else if cap < t.blkOut + outLen then blockEnds h.s k n h.t { fRange with va := va }
          else
            let m := readSrc h.s k n h.t (t.blkSrc + 16) inLen
            match m.fault, m.data with
            | some f, _ => blockEnds m.s k n m.t f
            | none, none => m.s.modCore k fun c => c.setTag n (some (m.t.keep t.blkSrc hd))
            | none, some payload =>
              match blockOut table method outLen payload with
              | none => skip m.s m.t (fChecksum va)
              | some out =>
                if crc32c out ≠ natAt hd 8 4 then skip m.s m.t (fChecksum va)
                else
                  let odd : Bool := match endOf k t.dest with | .queue q => outLen % ((s.core k).q q).esz != 0 | _ => false
                  if odd then blockEnds m.s k n m.t { fQueue with va := va }
                  else
                    let t' := { m.t.nextBlock inLen outLen with blkLen := some outLen }
                    if outLen = 0 then
                      (arriveAt m.s k t' 0).modCore k fun c => c.setTag n (some { t' with blkLen := none })
                    else commitBlock m.s k n t' t.blkOut out
  | _ => s

/-- CPYX_BLOCK (R158, R160): the lane checks the transform at its head as it begins to serve it, then handles a block. -/
def execCpyxBlock (lane : BitVec 8) (s : State) : Out :=
  let l := tabGet Lane.reset s.lanes lane.toNat
  match l.order with
  | [] => .next s
  | (k, tag) :: _ =>
    let n := tag.toNat
    match (s.core k).tag n with
    | none => .next s
    | some t =>
      match t.what with
      | .cpyx _ _ want _ _ =>
        if !l.served then
          if l.table.any fun x => x.ctx == (s.core k).task.ctx && x.tag == want then
            .next { s with lanes := tabSet Lane.reset s.lanes lane.toNat { l with served := true } }
          else .next (copyFault s k n t fLane)
        else if t.sent.any (·.write) then .next s
        else match t.todo, t.got with
          | (off, _) :: _, (_, data) :: _ => .next (commitBlock s k n t off data)
          | _, _ => .next (nextBlock s k n t ((l.table.map (·.bytes)).getD []))
      | _ => .next s

/-- LANE_TABLE_CHECK (R160): the lane loads and checks the table of the LANE.LOAD at its head; a table that fails the check has moved
no bytes (R153). -/
def execLaneTableCheck (lane : BitVec 8) (s : State) : Out :=
  let l := tabGet Lane.reset s.lanes lane.toNat
  match l.order with
  | [] => .next s
  | (k, tag) :: _ =>
    let n := tag.toNat
    match (s.core k).tag n with
    | none => .next s
    | some t =>
      match t.what with
      | .laneLoad _ tg len =>
        let m := readSrc s k n t 0 len
        (match m.fault, m.data with
         | some f, _ => .next (copyFault m.s k n m.t f)
         | none, none => .next (m.s.modCore k fun c => c.setTag n (some m.t))
         | none, some b =>
           let put (s : State) (x : Option LaneTable) : State :=
             { s with lanes := tabSet Lane.reset s.lanes lane.toNat { l with table := x } }
           if tableOk b then
             let t := { m.t with moved := len }
             .next (endTransform (arriveAt (put m.s (some ⟨b, (s.core k).task.ctx, tg⟩)) k t len) k n t)
           else .next (copyFault (put m.s none) k n m.t fLane))
      | _ => .next s

/-! ## Atomics (R162, R92) -/

/-- The atomic operation of a code of R162 below 10. -/
def atomOp (aop : Nat) : AtomOp :=
  match aop with
  | 0 => .add | 1 => .and | 2 => .or | 3 => .xor | 4 => .min | 5 => .max | 6 => .minu | 7 => .maxu | 8 => .swap | _ => .cas

/-- The new value of an atomic's unit, if it writes one, and its result (R162). -/
def atomStep (aop n v cmp old : Nat) : Option Nat × Nat :=
  if aop = 10 then (let r := cellAdd old (v % 2 ^ 32); (some r.1, r.2))
  else if aop = 11 then (none, if v = 0 then old else cellFp32 old)
  else ((atomOp aop).result (8 * n) old (v % 2 ^ (8 * n)) cmp, old)

/-- The release of an ATOM.REL at durable scope: its own write and every write of the task's earlier commands, scatters of earlier
loop commands among them, perform at durable scope (R78, R90). -/
def atomDurable (s : State) (k : CoreId) (t : Tag) (scope ord : Nat) : State :=
  if 2 ≤ ord ∧ scope = scopeDurable then s.makeDurable (Unsaved.by k (some (t.order + 1))) else s

/-- Ends an atomic: its result in scratch, its release (R90, R98), its arrival, and its tag finished. -/
def atomEnd (s : State) (k : CoreId) (n : Nat) (t : Tag) (result : Nat) : State :=
  match t.what with
  | .atom aop _ scope ord v _ res =>
    let size := resultSize aop v
    let s := (atomDurable s k t scope ord).modCore k fun c =>
      let c := match res with | some a => c.writeScratch a (toBytes size result) | none => c
      if 2 ≤ ord then c.release (BitVec.ofNat 3 scope) else c
    let t := { t with moved := t.what.total }
    (arriveAt s k { t with dest := 0 } size).modCore k fun c =>
      c.setTag n (some { t with phase := .finished, todo := [] })
  | _ => s

/-- ATOM_PERFORM (R92, R162): the unit that holds the target runs the atomic, indivisibly. -/
def execAtomPerform (core : CoreId) (tag : BitVec 7) (s : State) : Out :=
  let c := s.core core
  let n := tag.toNat
  match c.tag n with
  | none => .next s
  | some t =>
    match t.phase, t.what with
    | .moving, .atom aop sz scope ord v cmp _ =>
      if t.sent ≠ [] then .next s
      else match endOf core t.dest with
      | .dev va =>
        (match findTrans t.trans c.task.ctx (va / 4096) false false with
         | some x =>
           (match x.leaf with
            | .device fr =>
              let pa := fr * 4096 + va % 4096
              if s.poisoned pa sz then .next (copyFault s core n t (fPoison (some va)))
              else
                let r := atomStep aop sz v cmp (memNat s.dram pa sz)
                let rsc := if 2 ≤ ord then scope else 0
                let s1 := (raceAccess s c.task.ctx (.core core 2) va sz r.1.isSome rsc false).1
                let s2 := match r.1 with | some w => s1.writePhysBy (.task core t.order) pa (toBytes sz w) | none => s1
                .next (atomEnd (countMove s2 core (dieOf core) va sz) core n t r.2)
            | .peer port =>
              let pr := s.peer port
              if pr.failed then .next (copyFault s core n t (fIsolation 2 (some va)))
              else (match pr.far c.task.ctx with
                | none => .next (copyFault s core n t (fIsolation 1 (some va)))
                | some far =>
                  if !pr.room 1 then .next s
                  else
                    let s' := peerCommand s port c.task.ctx far (.atom (BitVec.ofNat 57 va) aop sz v cmp) (.tag core tag)
                    .next (s'.modCore core fun c => c.setTag n (some { t with sent := [⟨s.req, 0, sz, false⟩] })))
            | .host _ => .next (copyFault s core n t (fUnsupported va)))
         | none => .next (copyFault s core n t (fTrans 0 va)))
      | .scratch c' a =>
        (match scratchCheck s core c' a [⟨0, 0, sz⟩] with
         | some f => .next (copyFault s core n t f)
         | none =>
           let r := atomStep aop sz v cmp ((s.core c').scratchNat a sz)
           let s1 := match r.1 with
             | some w => s.modCore c' fun x => x.writeScratch a (toBytes sz w)
             | none => s
           .next (atomEnd s1 core n t r.2))
      | _ => .next s
    | _, _ => .next s

/-! ## Gathers and scatters (R229-R231) -/

/-- Remap(x) of R168, or none where it faults with range: so does a page number past the table, and a table word that lies outside
the rows of scratch that a copy may read, in the control page or in a COMPUTE bank's window (the model's choice, log 78). -/
def Core.remapOf (c : Core) (w : Word64) (x : Nat) : Option Nat :=
  let m := bits w 31 0
  match bits w 63 62 with
  | 0 => some x
  | 1 => some (x % m)
  | 2 => some (x * 0x9E3779B1 % 2 ^ 32 / 2 ^ (31 - bits w 60 56))
  | _ =>
    let sh := bits w 60 56
    let p := x / 2 ^ sh
    if m ≤ p then none
    else match c.extent (bits w 51 32 + 4 * p) 4 with
      | some _ => none
      | none => some (c.scratchNat (bits w 51 32 + 4 * p) 4 * 2 ^ sh + x % 2 ^ sh)

/-- The gather-fault trap found for an element (R231, R340), after those found before; the vector stream stops before its next
group. One of a task that is ending already is not recorded (R338). -/
def gatherFail (s : State) (k : CoreId) (e : AqEntry) (addr : Nat) (f : CFault) : State :=
  s.modCore k fun c =>
    if c.isEnding then c
    else
    let trap : Trap := ⟨causeGather, 7, e.qw.toNat * 2 ^ 32 + e.index.toNat, e.grp.toNat⟩
    { c with gatherFaults := c.gatherFaults ++ [(trap, BitVec.ofNat 64 (f.va.getD addr), engineStatus f.code f.sub 0 0)] }

/-- Whether the engine may begin to serve an element (R90, R338, R347): the task runs; or it is being pre-empted and its vector stream
has not stopped yet, or an ATOM.REL waits for the element (log 15); and no ATOM.ACQ issued before the element's loop command is still under way. -/
def Core.mayServe (c : Core) (e : AqEntry) : Bool :=
  (e.begun || c.run == .running ||
    (c.run == .preempting && !c.vsStopped) || (c.run == .preempting && c.liveTags.any fun p => p.2.phase == .issued && p.2.what.releases && decide (e.stamp < p.2.order))) &&
  c.liveTags.all fun p => !(p.2.pending && p.2.what.acquires && decide (p.2.order < e.stamp))

/-- The first entry of a data queue that awaits service, when none of its queue is in service, it may be served and its remap has a
direction (R230); a queue with a fault is served no further (R231). -/
def Core.nextElem (c : Core) (q : BitVec 3) (scatter : Bool) : Option (AqEntry × Remap) :=
  if c.elems.any (·.entry.qw == q) || c.gatherFaults.any (fun f => f.1.d0 / 2 ^ 32 == q.toNat) then none
  else match c.aq.find? (·.qw == q), c.remap[q.toNat] with
    | some e, some r => if bit r.word 61 == scatter && c.mayServe e then some (e, r) else none
    | _, _ => none

/-- Marks an entry of the address queue as one that the engine has begun to serve. -/
def Core.beginElem (c : Core) (e : AqEntry) : Core :=
  { c with aq := c.aq.map fun x => if x == e then { x with begun := true } else x }

/-- Removes the first entry of a data queue. -/
def Core.dropElem (c : Core) (q : BitVec 3) : Core :=
  match c.aq.find? (·.qw == q) with
  | some e => { c with aq := c.aq.erase e }
  | none => c

/-- The end an element's access has, as one command's end: checks as R331's with the pushing command's key (R325). -/
def elemCheck (s : State) (k : CoreId) (e : End) (n : Nat) (w : Bool) (pk : Word64) : Except CFault (List (Piece × Found)) :=
  match e with
  | .dev va => devCheck s k (s.core k).task.ctx va [⟨0, 0, n⟩] (!w) w (some pk) false
  | .scratch c a => match scratchCheck s k c a [⟨0, 0, n⟩] with | some f => .error f | none => .ok []
  | _ => .ok []

/-- Whether an element's remap gives an address that no access may have (R319). -/
def elemEnd (k : CoreId) (r : Remap) (x n : Nat) : Except CFault End :=
  match endOf k r.base with
  | .dev va => if canonical ((va + x * n : Nat) : Int) n then .ok (.dev (va + x * n)) else .error (fTrans 1 ((va + x * n) % 2 ^ 57))
  | .scratch c a => .ok (.scratch c (a + x * n))
  | e => .ok e

/-- An element's address, for its record. -/
def End.addr : End → Nat | .dev a => a | .scratch _ a => a | _ => 0

/-- Serves one element: `go` reads or writes it once its pages are translated. -/
def serveElem (s : State) (k : CoreId) (q : BitVec 3) (scatter : Bool)
    (go : State → AqEntry → End → List Piece → List Trans → Nat → State) : State :=
  let c := s.core k
  match c.nextElem q scatter with
  | none => s
  | some (e, r) =>
    let n := (c.q q).esz
    let failAt (s : State) (addr : Nat) (f : CFault) : State := gatherFail (s.modCore k (·.dropElem q)) k e addr f
    let fail := failAt s
    match c.remapOf r.word e.index.toNat with
    | none => fail (bits r.base 56 0) fRange
    | some x =>
      match elemEnd k r x n with
      | .error f => fail 0 f
      | .ok en =>
        match elemCheck s k en n scatter e.pkey with
        | .error f => failAt (endMarks s k en [⟨0, 0, n⟩] (!scatter) scatter scatter) en.addr f
        | .ok ps =>
          let a := acquire s k c.task.ctx (.elem k q) [] ps [] (!scatter) scatter false false
          match a.fault with
          | some f => failAt a.s en.addr f
          | none => if a.wait then a.s.modCore k (·.beginElem e) else go a.s e en (ps.map (·.1)) a.trans n

/-- Whether the peer ports that an element's pieces go through can take a command each. -/
def elemReady (s : State) (n : CtxId) (ts : List Trans) (ps : List Piece) : Bool :=
  peersReady s n ts ps && ps.all fun p => match leafOf ts n p false false with
    | some (.peer port) => !(s.peer port).failed && ((s.peer port).far n).isSome
    | _ => true

/-- The bytes of an element's pieces, in order. -/
def joinPieces (g : List (Nat × List Byte)) : List Byte := (g.mergeSort fun a b => decide (a.1 ≤ b.1)).flatMap (·.2)

/-- Reads one piece of a gathered element. -/
def gatherPiece (k : CoreId) (q : BitVec 3) (ts : List Trans) (m : State × ElemWait) (p : Piece) : State × ElemWait :=
  let n := (m.1.core k).task.ctx
  match leafOf ts n p true false with
  | some (.device fr) =>
    let s := countMove (raceAccess m.1 n (.core k 2) p.va p.len false 0 false).1 k (dieOf k) p.va p.len
    (s, { m.2 with got := m.2.got ++ [(p.off, memRead s.dram (fr * 4096 + p.va % 4096) p.len)] })
  | some (.host hpa) =>
    (hostRead m.1 n (hpa.map fun h => h + p.va % 4096) p.va p.len (.elem k q),
      { m.2 with sent := m.2.sent ++ [⟨m.1.req, p.off, p.len, false⟩] })
  | some (.peer port) => match (m.1.peer port).far n with
    | some far => (peerCommand m.1 port n far (.read (BitVec.ofNat 57 p.va) p.len) (.elem k q),
        { m.2 with sent := m.2.sent ++ [⟨m.1.req, p.off, p.len, false⟩] })
    | none => m
  | none => m

/-- Writes one piece of a scattered element. -/
def scatterPiece (k : CoreId) (q : BitVec 3) (ts : List Trans) (v : List Byte) (m : State × ElemWait) (p : Piece) :
    State × ElemWait :=
  let n := (m.1.core k).task.ctx
  let d := (v.drop p.off).take p.len
  match leafOf ts n p false true with
  | some (.device fr) =>
    let s := (raceAccess m.1 n (.core k 2) p.va p.len true 0 false).1
    (countMove (s.writePhysBy (.task k m.2.entry.stamp) (fr * 4096 + p.va % 4096) d) k (dieOf k) p.va p.len, m.2)
  | some (.host hpa) =>
    let at_ := hpa.map (· + p.va % 4096)
    ((hostWrite m.1 n at_ p.va d).modCore k fun c => { c with hostWrites := c.hostWrites + 1, hostPage := (at_, p.va) }, m.2)
  | some (.peer port) => match (m.1.peer port).far n with
    | some far => (peerCommand m.1 port n far (.write (BitVec.ofNat 57 p.va) d) (.elem k q),
        { m.2 with sent := m.2.sent ++ [⟨m.1.req, p.off, p.len, true⟩] })
    | none => m
  | none => m

/-- The poisoned piece of a gathered element, if one is (R373). -/
def poisonedPiece (s : State) (n : CtxId) (ts : List Trans) (ps : List Piece) : Option Piece :=
  ps.find? fun p => match leafOf ts n p true false with
    | some (.device fr) => s.poisoned (fr * 4096 + p.va % 4096) p.len
    | _ => false

/-- An element all of whose answers have come: a gather is appended where there is room (R230, R96). -/
def settleElem (s : State) (k : CoreId) (q : BitVec 3) (w : ElemWait) : State :=
  s.modCore k fun c =>
    let others := c.elems.filter (·.entry.qw != q)
    if !w.sent.isEmpty then { c with elems := others ++ [w] }
    else if w.write then { c with elems := others }
    else if (c.q q).room = 0 then { c with elems := others ++ [w] }
    else { c with elems := others }.append q 1 (joinPieces w.got)

/-- GATHER_ELEMENT (R230): the engine reads an element and appends it to its data queue. -/
def execGatherElement (core : CoreId) (qw : BitVec 3) (s : State) : Out :=
  let c := s.core core
  if (c.q qw).room = 0 then .next s
  else match c.elems.find? fun w => w.entry.qw == qw && !w.write && w.sent.isEmpty with
  | some w => .next (settleElem s core qw w)
  | none =>
    .next (serveElem s core qw false fun s e en ps ts n =>
      let ctx := (s.core core).task.ctx
      let dropped := s.modCore core (·.dropElem qw)
      match en with
      | .scratch c a => settleElem dropped core qw ⟨e, false, [], [(0, (s.core c).readScratch a n)]⟩
      | _ =>
        if !elemReady s ctx ts ps then s
        else match poisonedPiece s ctx ts ps with
          | some p => gatherFail dropped core e p.va (fPoison (some p.va))
          | none =>
            let m := ps.foldl (gatherPiece core qw ts) (dropped, ⟨e, false, [], []⟩)
            settleElem m.1 core qw m.2)

/-- SCATTER_ELEMENT (R230): the engine takes the oldest element of a data queue and writes it. -/
def execScatterElement (core : CoreId) (qw : BitVec 3) (s : State) : Out :=
  let q := (s.core core).q qw
  if q.occ = 0 then .next s
  else .next (serveElem s core qw true fun s e en ps ts n =>
    let ctx := (s.core core).task.ctx
    let v := (s.core core).readScratch (q.base + q.head * n) n
    let taken := s.modCore core fun c =>
      (c.dropElem qw).setQ qw (q.put (q.occ - 1) q.tail ((q.head + 1) % q.depth))
    match en with
    | .scratch c a => (taken.modCore c fun x => x.writeScratch a v).spoil c a n
    | _ =>
      if !elemReady s ctx ts ps then s
      else
        let m := ps.foldl (scatterPiece core qw ts v) (taken, ⟨e, true, [], []⟩)
        settleElem m.1 core qw m.2)

end Sys2Proof.Machine
end

