-- ==== Sys2Proof/Machine/Commands.lean ====
section
/-! DEFINITION. The engine, task and synchronisation commands of the control stream (07, R149-R173): issue checks, copy tags,
loop commands, queue words, sync words, barriers, ropes; and the returns of their waits. -/

namespace Sys2Proof.Machine

/-! ## Issue (R149) -/

/-- The command-operand trap for the g field whose lowest bit is `p` (R340). -/
def fieldTrap (p : Nat) : Trap := ⟨causeOperand, 0, p, 0⟩
/-- The command-operand trap for the descriptor field at a byte offset. -/
def descTrap (o : Nat) : Trap := ⟨causeOperand, 0, 2 ^ 63 + o, 0⟩
/-- The command-operand trap that concerns no field. -/
def stateTrap : Trap := ⟨causeOperand, 0, 3 * 2 ^ 62, 0⟩
/-- The rope-member trap (R44, R171). -/
def ropeTrap : Trap := ⟨causeRopeMember, 0, 0, 0⟩

/-- What an issue check finds: a trap, a wait, or a value. -/
inductive Chk (α : Type) where
  | trap (t : Trap)
  | wait
  | ok (a : α)

/-- Chains issue checks. -/
def Chk.and {α β : Type} (x : Chk α) (f : α → Chk β) : Chk β :=
  match x with
  | .trap t => .trap t
  | .wait => .wait
  | .ok a => f a

/-- A check that holds, or traps. -/
def need (b : Bool) (t : Trap) : Chk Unit := if b then .ok () else .trap t

/-- A command that has passed its checks and completes: the command index rises and the next instruction follows (R149). -/
def Core.passed (c : Core) : Core := { c.awake with cmdIdx := c.cmdIdx + 1 }.adv 1

/-- A command that has passed its checks and waits: the command index rises now (R149). -/
def Core.waits (c : Core) (w : CpWait) : Core := { c with wait := w, cmdIdx := c.cmdIdx + 1 }

/-- Whether a wait is that of a command whose index has been counted; one that is executed again is counted then. -/
def CpWait.counted (w : CpWait) : Bool :=
  match w with
  | .sync _ _ | .bar _ | .spawn _ | .join _ | .done | .rope _ | .unrope | .rejoin | .rtree _ _ _ => true
  | _ => false

/-- A command that waited returns. -/
def Core.returned (c : Core) : Core := c.awake.adv 1

/-- Ends a command: it traps, is executed again later, or gives a state. -/
def cmdEnd (st : State) (again : Instr) (r : Chk State) : Out :=
  match r with
  | .trap t => .next (cpTrap st t)
  | .wait => cpAgain st again
  | .ok s => .next s

/-- Reads a descriptor in scratch on the CP path (R149, R135). -/
def Core.desc (c : Core) (a : Word64) (n align : Nat) : Chk (List Byte) :=
  let x := a.toNat
  if 2 ^ 20 < x + n then .trap ⟨causeRange, 0, x, n⟩
  else if x % align ≠ 0 then .trap ⟨causeAlign, 0, x, n⟩
  else match region x with
    | .window b =>
      if windowBase b + 0x3000 < x + n then .trap ⟨causeRange, 0, x, n⟩
      else if c.modePending b then .wait
      else if (c.bank b).compute then .trap (c.bankTrap b 0)
      else .ok (c.readScratch x n)
    | .plain => if 0x40000 < x + n then .trap ⟨causeRange, 0, x, n⟩ else .ok (c.readScratch x n)
    | _ => .trap ⟨causeRange, 0, x, n⟩

/-- Word `i` of a descriptor. -/
def dword (b : List Byte) (i : Nat) : Nat := natAt b (8 * i) 8

/-- Whether t and target of a control word or descriptor are legal (R152). -/
def targetOk (w : Nat) : Bool := if fld w 63 63 = 1 then fld w 59 58 == 0 else fld w 59 44 == 0

/-- The control word of CPY, LANE.LOAD and CIM.FILL (R152). -/
def ctlOk (w : Word64) : Bool :=
  bits w 62 60 == 0 && bits w 43 40 == 0 && targetOk w.toNat && bits w 39 0 != 0

/-- The control word of an ATOM (R152, R162). -/
def atomCtlOk (w : Word64) (cas : Bool) : Bool :=
  bits w 61 60 == 0 && bits w 43 40 == 0 && targetOk w.toNat && bits w 39 20 == 0 && bits w 3 0 == 0 && (!cas || bit w 62)

/-- What a command of the copy engine is issued with. -/
structure CopyReq where
  op : Nat
  dest : Word64
  src : Word64
  t : Bool
  target : Nat
  what : CopyOp
deriving DecidableEq, Repr

/-- The completion target of a control word: t, and the sync word's address (R152). -/
def targetOf (w : Nat) : Bool × Nat := (fld w 63 63 == 1, fld w 59 44 * 16)

/-- One more command has been issued on the card (R38, R90, R156). -/
def State.bump (s : State) : State := { s with issued := s.issued + 1 }

/-- Issues a command of the copy engine on one of the core's 96 tags, which of them is open (R150; log 4). The commands that use it
check ga, then gb, then gc and what it names (an ATOM ga, gc, gb): the order is the model's choice (log 81). -/
def copyIssue (st : State) (again : Instr) (r : Chk CopyReq) : Out :=
  match r with
  | .trap t => .next (cpTrap st t)
  | .wait => cpAgain st again
  | .ok q =>
    let c := st.me
    match pick st.seq 5 ((List.range 96).filter fun n => (c.tag n).isNone) with
    | none => cpAgain st again
    | some n =>
      let t : Tag := {
        pc := c.pc, op := BitVec.ofNat 4 q.op, cmd := c.cmdIdx, dest := q.dest, src := q.src, t := q.t
        target := BitVec.ofNat 20 q.target, va := none, status := 0, pkey := c.ctxPkey, what := q.what
        phase := .issued, todo := [], sent := [], got := [], held := [], moved := 0, owed := 0, trans := [], blkSrc := 0
        blkOut := 0, blkIdx := 0, blkLen := none, blkHead := 0, noticed := false, order := st.issued }
      .next { (st.setMe (c.setTag n (some t)).passed).bump with seq := st.seq + 1 }

/-! ## Copies and transforms (R154-R162) -/

/-- CPY (R154). -/
def execCpy (a b c : BitVec 5) (st : State) : Out :=
  let k := st.me
  copyIssue st (.cpy a b c) (
    (need (endOk (k.gr a) [0, 1, 2, 3, 4]) (fieldTrap 20)).and fun _ =>
    (need (endOk (k.gr b) [0, 1, 2]) (fieldTrap 15)).and fun _ =>
    (need (ctlOk (k.gr c)) (fieldTrap 10)).and fun _ =>
    let g := targetOf (k.gr c).toNat
    .ok ⟨0, k.gr a, k.gr b, g.1, g.2, .cpy (bits (k.gr c) 39 0)⟩)

/-- Dimension `d` of a CPYS descriptor (R155). -/
def dimAt (b : List Byte) (d : Nat) : Dim :=
  ⟨sext 64 (dword b (2 + 2 * d)), sext 48 (dword b (3 + 2 * d)), fld (dword b (3 + 2 * d)) 63 48 + 1⟩

/-- The byte offset of the first illegal field of a CPYS descriptor (R155). -/
def cpysFault (b : List Byte) : Option Nat :=
  let w := dword b 0
  let dims := fld w 10 8
  if fld w 62 60 ≠ 0 ∨ fld w 43 11 ≠ 0 ∨ fld w 7 3 ≠ 0 ∨ !targetOk w ∨ dims = 0 ∨ 6 < dims ∨ fld w 2 0 = 7 then some 0
  else if dword b 1 ≠ 0 then some 8
  else ((List.range 12).find? fun i => decide (dims ≤ i / 2) && dword b (2 + i) ≠ 0).map fun i => 16 + 8 * i

/-- CPYS (R155). -/
def execCpys (a b c : BitVec 5) (st : State) : Out :=
  let k := st.me
  copyIssue st (.cpys a b c) (
    (need (endOk (k.gr a) [0, 1, 2, 3, 4]) (fieldTrap 20)).and fun _ =>
    (need (endOk (k.gr b) [0, 1, 2]) (fieldTrap 15)).and fun _ =>
    (k.desc (k.gr c) 112 16).and fun d =>
    match cpysFault d with
    | some o => .trap (descTrap o)
    | none =>
      let g := targetOf (dword d 0)
      .ok ⟨1, k.gr a, k.gr b, g.1, g.2, .cpys (fld (dword d 0) 2 0) ((List.range (fld (dword d 0) 10 8)).map (dimAt d))⟩)

/-- The byte offset of the first illegal field of a CPYX descriptor (R157). -/
def cpyxFault (b : List Byte) : Option Nat :=
  let w (i : Nat) := dword b i
  if fld (w 0) 62 60 ≠ 0 ∨ fld (w 0) 43 40 ≠ 0 ∨ !targetOk (w 0) ∨ fld (w 0) 39 0 < 16 then some 0
  else if fld (w 1) 63 56 = 0 ∨ fld (w 1) 55 32 ≠ 0 ∨ fld (w 1) 15 8 ≠ 0 ∨ 191 < fld (w 1) 7 0 then some 8
  else if fld (w 2) 63 40 ≠ 0 ∨ fld (w 2) 39 0 = 0 then some 16
  else if w 3 ≠ 0 then some 24
  else none

/-- CPYX (R157). -/
def execCpyx (a b c : BitVec 5) (st : State) : Out :=
  let k := st.me
  copyIssue st (.cpyx a b c) (
    (need (endOk (k.gr a) [0, 1, 2, 3, 4]) (fieldTrap 20)).and fun _ =>
    (need (endOk (k.gr b) [0, 1, 2]) (fieldTrap 15)).and fun _ =>
    (k.desc (k.gr c) 32 16).and fun d =>
    match cpyxFault d with
    | some o => .trap (descTrap o)
    | none =>
      let g := targetOf (dword d 0)
      let w := dword d 1
      .ok ⟨2, k.gr a, k.gr b, g.1, g.2, .cpyx (fld (dword d 0) 39 0) (fld w 63 56) (fld w 31 16) (fld w 7 0) (fld (dword d 2) 39 0)⟩)

/-- LANE.LOAD (R160). -/
def execLaneLoad (a b c : BitVec 5) (st : State) : Out :=
  let k := st.me
  let gl := k.gr a
  copyIssue st (.laneLoad a b c) (
    (need (bits gl 63 32 == 0 && bits gl 15 8 == 0 && decide (bits gl 7 0 ≤ 191)) (fieldTrap 20)).and fun _ =>
    (need (endOk (k.gr b) [0, 1]) (fieldTrap 15)).and fun _ =>
    (need (ctlOk (k.gr c) && bits (k.gr c) 39 0 % 8 == 0 && decide (bits (k.gr c) 39 0 ≤ 32768)) (fieldTrap 10)).and fun _ =>
    let g := targetOf (k.gr c).toNat
    .ok ⟨3, gl, k.gr b, g.1, g.2, .laneLoad (bits gl 7 0) (bits gl 31 16) (bits (k.gr c) 39 0)⟩)

/-- CIM.FILL (R161). -/
def execCimFill (a b c : BitVec 5) (st : State) : Out :=
  let k := st.me
  copyIssue st (.cimFill a b c) (
    (need (endOk (k.gr a) [3]) (fieldTrap 20)).and fun _ =>
    (need (endOk (k.gr b) [0, 1, 2]) (fieldTrap 15)).and fun _ =>
    (need (ctlOk (k.gr c)) (fieldTrap 10)).and fun _ =>
    let g := targetOf (k.gr c).toNat
    .ok ⟨4, k.gr a, k.gr b, g.1, g.2, .cimFill (bits (k.gr c) 39 0)⟩)

/-- An ATOM of an operation code (R162). -/
def atomIssue (aop : Nat) (a b c : BitVec 5) (s : BitVec 3) (r : BitVec 2) (x : Bool) (again : Instr) (st : State) : Out :=
  let k := st.me
  let n := if 10 ≤ aop then 16 else if x then 8 else 4
  let w := k.gr c
  copyIssue st again (
    (need (endOk (k.gr a) [0, 2] && bits (k.gr a) 56 0 % n == 0) (fieldTrap 20)).and fun _ =>
    (need (atomCtlOk w (aop == 9)) (fieldTrap 10)).and fun _ =>
    (need (aop != 11 || decide ((k.gr b).toNat ≤ 1)) (fieldTrap 15)).and fun _ =>
    let g := targetOf w.toNat
    let res := if bit w 62 then some (bits w 19 0) else none
    let cmp := if aop = 9 then k.scratchNat (bits w 19 0) n else 0
    .ok ⟨5, k.gr a, 0, g.1, g.2, .atom aop n s.toNat r.toNat (k.gr b).toNat cmp res⟩)

/-- ATOM.ADD (R162). -/
def execAtomAdd (a b c : BitVec 5) (s : BitVec 3) (r : BitVec 2) (x : Bool) (st : State) : Out :=
  atomIssue 0 a b c s r x (.atomAdd a b c s r x) st
/-- ATOM.AND. -/
def execAtomAnd (a b c : BitVec 5) (s : BitVec 3) (r : BitVec 2) (x : Bool) (st : State) : Out :=
  atomIssue 1 a b c s r x (.atomAnd a b c s r x) st
/-- ATOM.OR. -/
def execAtomOr (a b c : BitVec 5) (s : BitVec 3) (r : BitVec 2) (x : Bool) (st : State) : Out :=
  atomIssue 2 a b c s r x (.atomOr a b c s r x) st
/-- ATOM.XOR. -/
def execAtomXor (a b c : BitVec 5) (s : BitVec 3) (r : BitVec 2) (x : Bool) (st : State) : Out :=
  atomIssue 3 a b c s r x (.atomXor a b c s r x) st
/-- ATOM.MIN. -/
def execAtomMin (a b c : BitVec 5) (s : BitVec 3) (r : BitVec 2) (x : Bool) (st : State) : Out :=
  atomIssue 4 a b c s r x (.atomMin a b c s r x) st
/-- ATOM.MAX. -/
def execAtomMax (a b c : BitVec 5) (s : BitVec 3) (r : BitVec 2) (x : Bool) (st : State) : Out :=
  atomIssue 5 a b c s r x (.atomMax a b c s r x) st
/-- ATOM.MINU. -/
def execAtomMinu (a b c : BitVec 5) (s : BitVec 3) (r : BitVec 2) (x : Bool) (st : State) : Out :=
  atomIssue 6 a b c s r x (.atomMinu a b c s r x) st
/-- ATOM.MAXU. -/
def execAtomMaxu (a b c : BitVec 5) (s : BitVec 3) (r : BitVec 2) (x : Bool) (st : State) : Out :=
  atomIssue 7 a b c s r x (.atomMaxu a b c s r x) st
/-- ATOM.SWAP. -/
def execAtomSwap (a b c : BitVec 5) (s : BitVec 3) (r : BitVec 2) (x : Bool) (st : State) : Out :=
  atomIssue 8 a b c s r x (.atomSwap a b c s r x) st
/-- ATOM.CAS: the comparand lies at the result address (R162). -/
def execAtomCas (a b c : BitVec 5) (s : BitVec 3) (r : BitVec 2) (x : Bool) (st : State) : Out :=
  atomIssue 9 a b c s r x (.atomCas a b c s r x) st
/-- ATOM.FADD (R67). -/
def execAtomFadd (a b c : BitVec 5) (s : BitVec 3) (r : BitVec 2) (st : State) : Out :=
  atomIssue 10 a b c s r false (.atomFadd a b c s r) st
/-- ATOM.CREAD (R68). -/
def execAtomCread (a b c : BitVec 5) (s : BitVec 3) (r : BitVec 2) (st : State) : Out :=
  atomIssue 11 a b c s r false (.atomCread a b c s r) st

/-! ## Commands to the vector sequencer (R163-R168) -/

/-- Whether a core is a roped member that does not lead (R44). -/
def State.follows (s : State) (k : CoreId) : Bool := (s.core k).rope.isSome && s.leader k != k

/-- Enters a command in the command queue, which holds 16 (R24). -/
def Core.enqueue (c : Core) (x : Cmd) : Chk Core := if c.cmdq.length < 16 then .ok { c with cmdq := c.cmdq ++ [x] } else .wait

/-- The nest of a LOOP (R163): counts and strides, or the byte offset of a bad level. -/
def nestOf (b : List Byte) : Except Nat (Vector Nat 6 × Vector (BitVec 32) 6) :=
  match (List.range 6).find? fun d => fld (dword b d) 31 17 ≠ 0 || fld (dword b d) 16 0 = 0 || decide (65536 < fld (dword b d) 16 0) with
  | some d => .error (8 * d)
  | none => .ok (Vector.ofFn fun d => fld (dword b d.val) 16 0, Vector.ofFn fun d => BitVec.ofNat 32 (fld (dword b d.val) 63 32))

/-- Whether a body lies in the vector-stream code region of a launch (R163). -/
def Launch.inVec (l : Launch) (a len : Nat) : Bool :=
  decide (l.vbase ≠ 0) && decide (l.vbase ≤ a) && (a - l.vbase) % 12 == 0 && decide (a + 12 * len ≤ l.vbase + l.vlen)

/-- The body checks of a LOOP (R163, R134); a finalised kernel's bodies are checked by R251. -/
def State.bodyOk (s : State) (a len : Nat) : Bool :=
  match s.launchOf s.cur with
  | some l => l.isZpf || l.inVec a len
  | none => false

/-- Whether a LOOP of a finalised kernel names no relocated body, or runs with other views or another jet order (R251). -/
def State.zpfUndeclared (s : State) (a : Word64) (len : Nat) : Bool :=
  match (s.launchOf s.cur).bind (·.zpf) with
  | some z => (z.bodyOf a len s.me.views s.me.jetOrder.toNat).isNone
  | none => false

/-- LOOP (R163, R29, R24). A finalised kernel's LOOP that R251 leaves undefined completes, with undefined behaviour of its context
(R1). One that waits for room has not counted toward the command index, and reads its nest descriptor again when room comes: the
model's choice (log 79). -/
def execLoop (a b c : BitVec 5) (st : State) : Out :=
  let k := st.me
  let w := k.gr b
  let len := bits w 11 0 + 1
  let unit : Vector Nat 6 × Vector (BitVec 32) 6 := (Vector.replicate 6 1, Vector.replicate 6 0)
  let r : Chk (Vector Nat 6 × Vector (BitVec 32) 6) :=
    (need (!st.follows st.cur) ropeTrap).and fun _ =>
    (need (st.bodyOk (k.gr a).toNat len) ⟨causeFetch, 0, (k.gr a).toNat, k.pc.toNat⟩).and fun _ =>
    (need (bits w 63 13 == 0) (fieldTrap 15)).and fun _ =>
    (if bit w 12 then (k.desc (k.gr c) 48 8).and fun d =>
      (match nestOf d with | .error o => .trap (descTrap o) | .ok n => .ok n) else .ok unit).and fun n =>
    match viewFault k.views k.jetOrder.toNat with
    | some v => .trap ⟨causeView, 0, v, (k.views[v % 8]'(Nat.mod_lt _ (by decide))).toNat⟩
    | none => .ok n
  match r with
  | .ok n =>
    if st.zpfUndeclared (k.gr a) len then .next (wild (st.setMe k.passed) k.task.ctx)
    else cmdEnd st (.loop a b c) ((k.enqueue (.loop
      ⟨k.gr a, len, n.1, n.2, k.views, k.jetOrder, k.cmdIdx, k.ctxPkey, 0, st.issued⟩)).and fun k' =>
        .ok (st.setMe k'.passed).bump)
  | .trap t => .next (cpTrap st t)
  | .wait => cpAgain st (.loop a b c)

/-- Moves the oldest overflow elements into hardware entries that pops have freed (R25). The manual does not say when they move, which
QCW.GET and R143's refusal can show: the model moves them at the next push (log 68, DESIGN CHOICE). -/
def Core.refillParams : Nat → Core → Core
  | 0, c => c
  | fuel + 1, c =>
    if 16 ≤ c.paramq.length then c
    else match c.overflow with
      | none => c
      | some q =>
        let k := c.q q
        if k.occ = 0 then c
        else
          let v : Word64 := BitVec.ofNat 64 (memNat c.scratch (k.base + k.head * k.esz) (min k.esz 8))
          Core.refillParams fuel ({ c with paramq := c.paramq ++ [v] }.setQ q (k.put (k.occ - 1) k.tail ((k.head + 1) % k.depth)))

/-- Appends a parameter (R25): to the hardware entries, beyond the 16th to the overflow; a wait where both are full. -/
def Core.pushParam (c : Core) (v : Word64) : Chk Core :=
  let c := Core.refillParams 16 c
  if c.paramq.length < 16 then .ok { c with paramq := c.paramq ++ [v] }
  else match c.overflow with
    | none => .wait
    | some q =>
      let k := c.q q
      if k.room = 0 then .wait else .ok (c.append q 1 (toBytes k.esz v.toNat))

/-- PPUSH (R164); one that waits for room takes its command index when room comes (log 79). -/
def execPpush (a : BitVec 5) (st : State) : Out :=
  cmdEnd st (.ppush a) ((st.me.pushParam (st.me.gr a)).and fun c => .ok (st.setMe c.passed))

/-- Whether an enabled queue word holds part of its storage in a bank (R38). -/
def Qcw.inBank (q : Qcw) (b : BitVec 5) : Bool :=
  q.en && decide (q.base < windowBase b + 0x3000) && decide (windowBase b < q.base + q.depth * q.esz)

/-- CIM.MODE (R165, R37, R38). Where several enabled queue words have storage in the bank the trap names the lowest, and a CIM.MODE
that waits for room takes its command index when room comes: both are the model's choice (log 75, log 79). -/
def cimMode (b : BitVec 5) (compute : Bool) (kind : BitVec 5) (again : Instr) (st : State) : Out :=
  let k := st.me
  cmdEnd st again (
    (need (!st.follows st.cur) ropeTrap).and fun _ =>
    (match (if compute then (List.range 8).find? fun n => (k.q (BitVec.ofNat 3 n)).inBank b else none) with
      | some n => .trap ⟨causeQueueBank, 0, n, b.toNat⟩
      | none => .ok () : Chk Unit).and fun _ =>
    (k.enqueue (.mode b compute kind k.cmdIdx st.issued)).and fun k' => .ok (st.setMe k'.passed).bump)

/-- CIM.MODE to SCRATCH. -/
def execCimModeScratch (b : BitVec 5) (st : State) : Out := cimMode b false 0 (.cimModeScratch b) st
/-- CIM.MODE to COMPUTE with a weight kind of R110. -/
def execCimModeCompute (b k : BitVec 5) (st : State) : Out := cimMode b true k (.cimModeCompute b k) st

/-- SETV (R166). -/
def execSetv (v : BitVec 3) (a : BitVec 5) (st : State) : Out :=
  let c := st.me
  if bits (c.gr a) 37 15 ≠ 0 then .next (cpTrap st (fieldTrap 17))
  else .next (st.setMe { c with views := c.views.set v.toNat (c.gr a) }.passed)

/-- SETJ (R166). -/
def execSetj (a : BitVec 5) (st : State) : Out :=
  let c := st.me
  if 7 < (c.gr a).toNat then .next (cpTrap st (fieldTrap 17))
  else .next (st.setMe { c with jetOrder := (c.gr a).truncate 3 }.passed)

/-- Whether a queue word is quiet (R167). A CIM.MODE issued before has performed too, so that the check of the storage's bank
sees the mode it gives (R38; log 22, DEDUCED). -/
def Core.quiet (c : Core) (q : BitVec 3) : Bool :=
  c.vsQuiet && c.cmdq.isEmpty && c.zeroing.isNone && (c.liveTags.all fun p => !(p.2.pending && bits p.2.dest 63 61 == 4 && bits p.2.dest 2 0 == q.toNat && p.2.op.toNat != 5 && p.2.op.toNat != 3)) &&
  (c.aq.all (·.qw != q)) && (c.elems.all (·.entry.qw != q))

/-- The check of a queue control word to be written (R167, R42, R143): queue-range, then the bank of queue-bank. -/
def Core.qcwFault (c : Core) (n : BitVec 3) (q : Qcw) : Option Trap :=
  let range : Trap := ⟨causeQueueRange, 0, n.toNat, 0⟩
  let fields := bits q.w0 55 35 == 0 && bits q.w1 63 48 == 0
  let ovf := !(bit c.paramOvf 3 && bits c.paramOvf 2 0 == n.toNat) || (q.en && q.use == 1)
  if !fields || !ovf then some range
  else if !q.en then none
  else
    let ok := bits q.w0 62 60 != 7 && decide (q.use ≤ 3) && q.base % q.esz == 0 &&
      decide (q.head < q.depth) && decide (q.tail < q.depth) && decide (q.occ ≤ q.depth) && q.tail == (q.head + q.occ) % q.depth
    if !ok then some range
    else match region q.base with
      | .plain => if q.base + q.depth * q.esz ≤ 0x40000 then none else some range
      | .window b =>
        if windowBase b + 0x3000 < q.base + q.depth * q.esz then some range
        else if (c.bank b).compute then some ⟨causeQueueBank, 0, n.toNat, b.toNat⟩ else none
      | _ => some range

/-- QCW.SET (R167): it waits until the word is quiet, then checks and writes; the queue's remap is to be set again (R229). -/
def execQcwSet (q : BitVec 3) (a b : BitVec 5) (st : State) : Out :=
  let c := st.me
  if !c.quiet q then .next (st.setMe { c with wait := .quiet q a b })
  else
    let w : Qcw := ⟨c.gr a, c.gr b⟩
    match c.qcwFault q w with
    | some t => .next (cpTrap st t)
    | none => .next (st.setMe { c.setQ q w with remap := c.remap.set q.toNat none }.passed)

/-- The return of a QCW.SET whose word has become quiet (R167). -/
def execQcwSetQuiet (core : CoreId) (st : State) : Out :=
  let c := st.core core
  match c.wait with
  | .quiet q a b => if c.cpRuns && c.quiet q then execQcwSet q a b { st with cur := core } else .next st
  | _ => .next st

/-- QCW.GET (R167). -/
def execQcwGet (q : BitVec 3) (a b : BitVec 5) (st : State) : Out :=
  let c := st.me
  .next (st.setMe (((c.setG a (c.q q).w0).setG b (c.q q).w1).passed))

/-- Whether a remap word is legal (R168). -/
def remapOk (w : Word64) : Bool :=
  let sh := bits w 60 56
  let tb := bits w 51 32
  let m := bits w 31 0
  bits w 55 52 == 0 &&
  (match bits w 63 62 with
   | 0 => sh == 0 && tb == 0 && m == 0
   | 1 => sh == 0 && tb == 0 && m != 0
   | 2 => tb == 0 && m == 0
   | _ => decide (sh ≤ 20) && tb % 4 == 0 && m != 0)

/-- AQ.REMAP (R168): the queue word, then ga, then gb; the order of these checks is the model's choice (log 81). -/
def execAqRemap (q : BitVec 3) (a b : BitVec 5) (st : State) : Out :=
  let c := st.me
  let k := c.q q
  if !(k.en && k.use == 0) then .next (cpTrap st ⟨causeQueueRange, 0, q.toNat, 0⟩)
  else if !remapOk (c.gr a) then .next (cpTrap st (fieldTrap 17))
  else if !endOk (c.gr b) [0, 2] then .next (cpTrap st (fieldTrap 12))
  else .next (st.setMe { c with remap := c.remap.set q.toNat (some ⟨c.gr a, c.gr b⟩) }.passed)

/-! ## Sync words (R169, R94, R95) -/

/-- The address of a sync word and its word 0, with the checks of R169: its reserved bits are zero, those of word 1 too (R4, R94;
log 56). -/
def Core.syncWord (c : Core) (a : BitVec 5) : Chk (Nat × Nat) :=
  let x := (c.gr a).toNat
  if 2 ^ 20 < x + 16 then .trap ⟨causeRange, 0, x, 16⟩
  else if x % 16 ≠ 0 then .trap ⟨causeAlign, 0, x, 16⟩
  else if 0x40000 < x + 16 then .trap ⟨causeRange, 0, x, 16⟩
  else
    let w := c.scratchNat x 8
    if fld w 62 56 ≠ 0 ∨ fld (c.scratchNat (x + 8) 8) 63 40 ≠ 0 then .trap ⟨causeSync, 0, x, w⟩ else .ok (x, w)

/-- SYNC.ARM (R169, R95): gc takes the generation before arming. -/
def execSyncArm (a b c : BitVec 5) (st : State) : Out :=
  let k := st.me
  let t := (k.gr b).toNat
  cmdEnd st (.syncArm a b c) (
    (need (decide (t < 2 ^ 40)) (fieldTrap 15)).and fun _ =>
    (k.syncWord a).and fun p =>
    let gen := fld p.2 55 40
    let k1 := k.writeScratch p.1 (toBytes 8 (syncWord0 (decide (0 < t)) gen t))
    .ok (st.setMe (((k1.arrive p.1 0).setG c (BitVec.ofNat 64 gen)).passed)))

/-- SYNC.ADD (R169): arrives g[gb] bytes; a release of the CP path at core scope. -/
def execSyncAdd (a b : BitVec 5) (st : State) : Out :=
  let k := st.me
  let t := (k.gr b).toNat
  cmdEnd st (.syncAdd a b) (
    (need (decide (t < 2 ^ 40)) (fieldTrap 15)).and fun _ =>
    (k.syncWord a).and fun p => .ok (st.setMe (((k.arrive p.1 t).release 1).passed)))

/-- Whether a generation has passed a value (R169). -/
def genPassed (gen : Nat) (v : Word64) : Bool :=
  let d := (gen + 2 ^ 16 - bits v 15 0) % 2 ^ 16
  decide (1 ≤ d) && decide (d ≤ 32767)

/-- SYNC.WAIT (R169). -/
def execSyncWait (a b : BitVec 5) (st : State) : Out :=
  let k := st.me
  match k.syncWord a with
  | .trap t => .next (cpTrap st t)
  | .wait => cpAgain st (.syncWait a b)
  | .ok p =>
    if genPassed (fld p.2 55 40) (k.gr b) then .next (st.setMe k.passed)
    else .next (st.setMe (k.waits (.sync a b)))

/-- A waiting SYNC.WAIT returns once the generation has passed (R169). -/
def execSyncWaitReturn (core : CoreId) (st : State) : Out :=
  let c := st.core core
  match c.wait with
  | .sync a b =>
    let gen := fld (c.scratchNat (c.gr a).toNat 8) 55 40
    .next (if c.cpRuns && genPassed gen (c.gr b) then st.setCore core c.returned else st)
  | _ => .next st

/-! ## Barriers (R43, R170) -/

/-- The members of a mask. -/
def members (m : Word64) : Nat := popCount 64 m.toNat

/-- Counts an arrival of the core at bit `j`, and releases the barrier when all have arrived (R43). -/
def Barrier.arrive (x : Barrier) (j : Nat) : Barrier :=
  let n := x.count + 1
  if members x.mask ≤ n then { x with count := 0, gen := x.gen + 1, arrived := false, who := 0 }
  else { x with count := n, who := x.who ||| BitVec.ofNat 64 (2 ^ j) }

/-- Counts the arrivals held at a core for a barrier it has initialised (R43); a member's second one waits. -/
def countHeld (s : State) (k : CoreId) (b : BitVec 6) : State :=
  let n := (s.core k).task.ctx
  (s.core k).held.foldl (fun s a =>
    if a.bar == b && a.ctx == n then
      let s := s.modCore k fun c => { c with held := c.held.erase a }
      let x := (s.core k).bar b
      if bit x.who (maskBit a.src) then { s with sched := { s.sched with arrivals := s.sched.arrivals ++ [a] } }
      else s.modCore k fun c => c.setBar b (x.arrive (maskBit a.src))
    else s) s

/-- BAR.INIT (R170, R43). A barrier that was initialised before keeps its generation, and its count starts at 0: what members have
arrived since is dropped, which the manual leaves open (log 16, DESIGN CHOICE). An arrival held from a member with another mask is
undefined behaviour of the context (R43, R1). -/
def execBarInit (b : BitVec 6) (a : BitVec 5) (st : State) : Out :=
  let c := st.me
  let m := c.gr a
  let x := c.bar b
  if !bit m (maskBit st.cur) then .next (cpTrap st (fieldTrap 12))
  else if x.arrived then .next (cpTrap st stateTrap)
  else
    let differ := c.held.any fun h => h.bar == b && h.ctx == c.task.ctx && h.mask != m
    let s := st.setMe (c.setBar b { x with init := true, mask := m, count := 0, since := false, who := 0 }).passed
    let s := countHeld s st.cur b
    .next (if differ then wild s c.task.ctx else s)

/-- BAR.ARRIVE (R170, R43): a release at die scope; the arrival is counted here and sent to the other members. -/
def execBarArrive (b : BitVec 6) (st : State) : Out :=
  let c := st.me
  let x := c.bar b
  if !x.init then .next (cpTrap st stateTrap)
  else if x.arrived then .next (cpTrap st ⟨causeOverrun, 0, b.toNat, 0⟩)
  else
    let x' := ({ x with arrived := true, genAt := x.gen, since := true } : Barrier).arrive (maskBit st.cur)
    let out : List Arrival := ((maskCores (dieOf st.cur) x.mask).filter (· != st.cur)).map fun d => ⟨b, x.mask, c.task.ctx, st.cur, d⟩
    let s := st.setMe ((c.setBar b x').release 3).passed
    .next { s with sched := { s.sched with arrivals := s.sched.arrivals ++ out } }

/-- BAR.WAIT (R170, R43). -/
def execBarWait (b : BitVec 6) (st : State) : Out :=
  let c := st.me
  let x := c.bar b
  if !x.init || !x.since then .next (cpTrap st stateTrap)
  else if x.gen != x.genAt then .next (st.setMe c.passed)
  else .next (st.setMe (c.waits (.bar b)))

/-- A waiting BAR.WAIT returns once the generation has moved (R43). -/
def execBarWaitReturn (core : CoreId) (st : State) : Out :=
  let c := st.core core
  match c.wait with
  | .bar b =>
    let x := c.bar b
    .next (if c.cpRuns && x.gen != x.genAt then st.setCore core c.returned else st)
  | _ => .next st

/-- Whether a core's barriers are those of a context's task: it runs one, or is idle and the last one was (R43, R338). -/
def Core.barsOf (c : Core) (n : CtxId) : Bool := if c.run == .idle then c.prevCtx == some n else c.task.ctx == n

/-- Arrival `i` of those under way reaches its core (R43): it is counted where the core has initialised the barrier, a task that has
ended included, and else held, or discarded and logged. One from a member with another
mask is undefined behaviour of the context: it is counted or not, a free choice, and the rest is as R1 says. -/
def execBarrierArrivalReceive (i : Nat) (st : State) : Out :=
  match st.sched.arrivals[i]? with
  | none => .next st
  | some a =>
    let s := { st with sched := { st.sched with arrivals := st.sched.arrivals.eraseIdx i } }
    let c := s.core a.dst
    let x := c.bar a.bar
    if c.run != .idle && c.task.ctx != a.ctx then .next (s.logFree blkSched (some a.ctx) a.bar.toNat a.dst.toNat)
    else if !c.barsOf a.ctx || !x.init then .next (s.setCore a.dst { c with held := c.held ++ [a] })
    else if x.mask != a.mask then
      let counted := s.setCore a.dst (c.setBar a.bar (x.arrive (maskBit a.src)))
      .next (wild { (if Config.freeNat s.seq 0 % 2 = 0 then counted else s) with seq := s.seq + 1 } a.ctx)
    else if bit x.who (maskBit a.src) then .next st
    else .next (s.setCore a.dst (c.setBar a.bar (x.arrive (maskBit a.src))))

/-! ## Ropes (R44, R171) -/

/-- Whether a mask names two mesh-adjacent cores or a 2 × 2 square (R44). -/
def ropeShape (m : Word64) : Bool :=
  let js := (List.range 64).filter fun j => bit m j
  match js with
  | [a, b] => (b == a + 1 && a % 8 != 7) || b == a + 8
  | [a, b, c, d] => b == a + 1 && a % 8 != 7 && c == a + 8 && d == a + 9
  | _ => false

/-- ROPE (R171): it waits until the rope forms. -/
def execRope (a : BitVec 5) (st : State) : Out :=
  let c := st.me
  let m := c.gr a
  if c.rope.isSome then .next (cpTrap st ropeTrap)
  else if !(bit m (maskBit st.cur) && ropeShape m) then .next (cpTrap st (fieldTrap 20))
  else .next (st.setMe (c.waits (.rope m)))

/-- Whether a core waits in ROPE with a mask and an empty command queue (R44); its last loop command may still run (log 16). -/
def Core.ropeReady (c : Core) (m : Word64) (n : CtxId) : Bool :=
  c.cpRuns && c.wait == .rope m && c.task.ctx == n && c.cmdq.isEmpty

/-- The rope of a waiting core forms once every member is ready (R44). -/
def execRopeForm (core : CoreId) (st : State) : Out :=
  let c := st.core core
  match c.wait with
  | .rope m =>
    let ms := maskCores (dieOf core) m
    if ms.all fun k => (st.core k).ropeReady m c.task.ctx then
      .next (ms.foldl (fun s k => s.modCore k fun c => { c with rope := some ⟨m, false⟩ }.returned) st)
    else .next st
  | _ => .next st

/-- UNROPE (R171): the leader waits until its command queue is empty; without a rope it has no effect (log 16). -/
def execUnrope (st : State) : Out :=
  let c := st.me
  match c.rope with
  | none => .next (st.setMe c.passed)
  | some _ =>
    if st.follows st.cur then .next (cpTrap st ropeTrap) else .next (st.setMe (c.waits .unrope))

/-- The rope of a leader that waits in UNROPE is released once its command queue is empty (R44): what still runs goes on, each member by
itself. -/
def execUnropeRelease (core : CoreId) (st : State) : Out :=
  let c := st.core core
  if c.wait == .unrope && c.cpRuns && c.cmdq.isEmpty then
    let s := (st.crew core).foldl (fun s k => s.modCore k fun x => if x.rope.map (fun r => r.mask) == c.rope.map (fun r => r.mask) then { x with rope := none } else x) st
    .next (s.modCore core Core.returned)
  else .next st

/-- REJOIN (R171, R44): a release at rope scope; without a rope it returns at once. -/
def execRejoin (st : State) : Out :=
  let c := (st.me).release 2
  match c.rope with
  | none => .next (st.setMe c.passed)
  | some r => .next (st.setMe ({ c with rope := some { r with rejoined := true } }.waits .rejoin))

/-- REJOIN returns on every member once all have executed it (R44). -/
def execRejoinReturn (core : CoreId) (st : State) : Out :=
  let c := st.core core
  if c.wait == .rejoin && c.cpRuns then
    match c.rope with
    | none => .next (st.setCore core c.returned)
    | some _ =>
      let crew := st.crew core
      if crew.all fun k => (st.core k).rope.any fun r => r.rejoined && c.rope.any (fun q => q.mask == r.mask) then
        .next (crew.foldl (fun s k => s.modCore k fun c =>
          Core.returned { c with rope := c.rope.map fun (r : Rope) => { r with rejoined := false } }) st)
      else .next st
  else .next st

/-! ## The reduction tree (R172, R173) -/

/-- Splits a list into runs of at most `n`. -/
def runsOf (n : Nat) : Nat → List Nat → List (List Nat)
  | 0, _ => []
  | fuel + 1, l => if l = [] then [] else l.take n :: runsOf n fuel (l.drop n)

/-- One level of a die's tree: runs of two or more become nodes, a run of one passes up (R173). -/
def treeLevel (fan : Nat) (nodes : List RNode) (level : List Nat) : List RNode × List Nat :=
  (runsOf fan level.length level).foldl (fun p r =>
    match r with
    | [x] => (p.1, p.2 ++ [x])
    | _ => (p.1 ++ [⟨r, none, false, none, 0⟩], p.2 ++ [p.1.length])) (nodes, [])

/-- Builds a die's tree up to its root. -/
def treeUp (fan : Nat) : Nat → List RNode → List Nat → List RNode × List Nat
  | 0, nodes, level => (nodes, level)
  | fuel + 1, nodes, level =>
    match level with
    | [] | [_] => (nodes, level)
    | _ => let p := treeLevel fan nodes level
           treeUp fan fuel p.1 p.2

/-- The members of a tree's mask on a die, ascending. -/
def treeMembers (desc : List Word64) (die : Nat) : List CoreId := maskCores die (desc.getD die 0)

/-- The nodes of a tree (R173): its root stands last. -/
def treeNodes (desc : List Word64) (fan : Nat) : List RNode :=
  let p := (List.range 4).foldl (fun (p : List RNode × List Nat) die =>
    let ms := treeMembers desc die
    let leaves := ms.map fun m => (⟨[], some m, false, none, 0⟩ : RNode)
    let r := treeUp fan 64 (p.1 ++ leaves) ((List.range ms.length).map (p.1.length + ·))
    (r.1, p.2 ++ r.2)) ([], [])
  match p.2 with
  | [] | [_] => p.1
  | roots => p.1 ++ [⟨roots, none, true, none, 0⟩]

/-- The tree of an identifier. -/
def State.tree (s : State) (n : CtxId) (tid : BitVec 16) : Option RTree :=
  s.sched.trees.find? fun t => t.ctx == n && t.tid == tid

/-- Replaces a tree. -/
def State.setTree (s : State) (t : RTree) : State :=
  { s with sched := { s.sched with trees := s.sched.trees.map fun x => if x.ctx == t.ctx && x.tid == t.tid then t else x } }

/-- The byte offset of the first illegal field of a tree descriptor (R172). -/
def treeFault (w : List Nat) (k : CoreId) : Option Nat :=
  let d := w.getD 4 0
  if fld d 63 24 ≠ 0 ∨ fld d 7 4 ≠ 0 ∨ fld d 3 0 = 0 then some 32
  else match [5, 6, 7].find? fun i => w.getD i 0 ≠ 0 with
    | some i => some (8 * i)
    | none =>
      let n := ((w.take 4).map (popCount 64)).sum
      if w.getD (dieOf k) 0 / 2 ^ maskBit k % 2 = 0 ∨ n < 2 then some 0 else none

/-- RTREE (R172): contributes the lanes at g[ga] and waits for the result. A descriptor or operation unlike those of the tree it joins,
or a second contribution of a member, is undefined behaviour of the context (R172, R1): whether it contributes and waits, or completes
without the tree, is a free choice. The order of the checks, ga, gb, gc and then the descriptor's fields, is the model's (log 81). -/
def rtree (op : Nat) (a b c : BitVec 5) (again : Instr) (st : State) : Out :=
  let k := st.me
  let size := if op = 0 then 256 * (k.jetOrder.toNat + 1) else if op = 1 then 256 else 512
  let r : Chk (List Byte × List Nat) :=
    (k.desc (k.gr a) size 256).and fun v =>
    (k.desc (k.gr b) 64 64).and fun d =>
    (k.desc (k.gr c) size 256).and fun _ =>
    let w := (List.range 8).map (dword d)
    match treeFault w st.cur with
    | some o => .trap (descTrap o)
    | none => .ok (v, w)
  match r with
  | .trap t => .next (cpTrap st t)
  | .wait => cpAgain st again
  | .ok (v, w) =>
    let n := k.task.ctx
    let tid : BitVec 16 := BitVec.ofNat 16 (fld (w.getD 4 0) 23 8)
    let desc := w.map (BitVec.ofNat 64)
    let fresh : RTree := ⟨n, tid, BitVec.ofNat 2 op, desc, size / 256, treeNodes desc (fld (w.getD 4 0) 3 0 + 1), []⟩
    let t := (st.tree n tid).getD fresh
    let mine := fun (x : RNode) => x.leaf == some st.cur
    let differ := t.desc != desc || t.op.toNat != op || t.nodes.any fun x => mine x && x.value.isSome
    let t' := { t with nodes := t.nodes.map fun x => if mine x then { x with value := some v } else x }
    let s := if (st.tree n tid).isSome then st.setTree t'
      else { st with sched := { st.sched with trees := st.sched.trees ++ [t'] } }
    let one := (w.take 4).filter (· ≠ 0) |>.length
    let joined := s.setMe ((k.release (if one = 1 then 3 else 4)).waits (.rtree tid (k.gr c).toNat size))
    .next (if !differ then joined
      else wild { (if Config.freeNat st.seq 0 % 2 = 0 then joined else st.setMe k.passed) with seq := st.seq + 1 } n)

/-- RTREE.SUM. -/
def execRtreeSum (a b c : BitVec 5) (st : State) : Out := rtree 0 a b c (.rtreeSum a b c) st
/-- RTREE.MAX. -/
def execRtreeMax (a b c : BitVec 5) (st : State) : Out := rtree 1 a b c (.rtreeMax a b c) st
/-- RTREE.MAXSUM. -/
def execRtreeMaxsum (a b c : BitVec 5) (st : State) : Out := rtree 2 a b c (.rtreeMaxsum a b c) st

/-- A value's planes of 64 FP32 lanes. -/
def planesOf (v : List Byte) : List (List Nat) :=
  (List.range (v.length / 256)).map fun p => elemsOf 32 ((v.drop (256 * p)).take 256)

/-- A tree node combines its children's values once all have come (R73); contributions of unlike sizes give no stated
value: free bytes (log 4). -/
def execRtreeNodeCombine (ctx : CtxId) (tid : BitVec 16) (node : Nat) (st : State) : Out :=
  match st.tree ctx tid with
  | none => .next st
  | some t =>
    match t.nodes[node]? with
    | none => .next st
    | some x =>
      let kids := x.kids.filterMap fun i => (t.nodes[i]?).bind (·.value)
      if x.value.isSome || x.kids.isEmpty || kids.length ≠ x.kids.length then .next st
      else
        let even := kids.all fun v => v.length == (kids.headD []).length
        let r := treeCombine t.op.toNat (kids.map planesOf)
        let v := if even then r.1.flatMap fun p => p.flatMap (toBytes 4)
          else (List.range ((kids.map List.length).foldl Nat.max 0)).map (Config.freeByte st.seq)
        let x' := { x with value := some v, flags := BitVec.ofNat 5 (if even then r.2 else Config.freeNat st.seq 0) }
        let s := st.setTree { t with nodes := t.nodes.set node x' }
        .next (if even then s else { s with seq := s.seq + 1 })

/-- Whether a control processor waits in RTREE. -/
def Core.inTree (c : Core) : Bool := match c.wait with | .rtree _ _ _ => true | _ => false

/-- A member receives the tree's result (R172): it performs in scratch, and the nodes' flags join row 0 of fp.flags. -/
def execRtreeResult (core : CoreId) (st : State) : Out :=
  let c := st.core core
  match c.wait with
  | .rtree tid res len =>
    (match st.tree c.task.ctx tid with
     | none => .next st
     | some t =>
       match t.nodes.getLast?.bind (·.value) with
       | none => .next st
       | some v =>
         let fl := t.nodes.foldl (fun f x => f ||| x.flags) 0
         let c' := { c.writeScratch res (v.take len) with fpFlags := c.fpFlags ||| fl.zeroExtend 64 }
         let taken := t.taken ++ [core]
         let all := (List.range 4).flatMap (treeMembers t.desc)
         let s := st.setTree { t with taken := taken }
         let s := if all.all taken.contains then
             { s with sched := { s.sched with trees := s.sched.trees.filter fun x => !(x.ctx == t.ctx && x.tid == t.tid) } }
           else s
         if c.cpRuns || c.run == .cancelling then .next (s.setCore core c'.returned) else .next st)
  | _ => .next st

/-! ## Waits for room (R24, R25, R150) -/

/-- A CP that waits on a full command queue executes its command again (R24). -/
def execCommandQueueRoom (core : CoreId) (st : State) : Out :=
  let c := st.core core
  let s := { st with cur := core }
  if !c.cpRuns then .next st
  else match c.wait with
    | .again (.loop a b d) => execLoop a b d s
    | .again (.cimModeScratch b) => execCimModeScratch b s
    | .again (.cimModeCompute b k) => execCimModeCompute b k s
    | _ => .next st

/-- A CP that waits on a full parameter queue executes its push again (R25). -/
def execParameterQueueRoom (core : CoreId) (st : State) : Out :=
  let c := st.core core
  if !c.cpRuns then .next st
  else match c.wait with
    | .again (.ppush a) => execPpush a { st with cur := core }
    | _ => .next st

/-- A CP that waits for a copy tag executes its command again (R150). -/
def execCopyTagFree (core : CoreId) (st : State) : Out :=
  let c := st.core core
  let s := { st with cur := core }
  if !c.cpRuns then .next st
  else match c.wait with
    | .again i => match i with
      | .cpy x y z => execCpy x y z s
      | .cpys x y z => execCpys x y z s
      | .cpyx x y z => execCpyx x y z s
      | .laneLoad x y z => execLaneLoad x y z s
      | .cimFill x y z => execCimFill x y z s
      | .atomAdd x y z q r w => execAtomAdd x y z q r w s
      | .atomAnd x y z q r w => execAtomAnd x y z q r w s
      | .atomOr x y z q r w => execAtomOr x y z q r w s
      | .atomXor x y z q r w => execAtomXor x y z q r w s
      | .atomMin x y z q r w => execAtomMin x y z q r w s
      | .atomMax x y z q r w => execAtomMax x y z q r w s
      | .atomMinu x y z q r w => execAtomMinu x y z q r w s
      | .atomMaxu x y z q r w => execAtomMaxu x y z q r w s
      | .atomSwap x y z q r w => execAtomSwap x y z q r w s
      | .atomCas x y z q r w => execAtomCas x y z q r w s
      | .atomFadd x y z q r => execAtomFadd x y z q r s
      | .atomCread x y z q r => execAtomCread x y z q r s
      | _ => .next st
    | _ => .next st

end Sys2Proof.Machine
end

