-- ==== Sys2Proof/Machine/VsEvents.lean ====
section
/-! DEFINITION. The events of the vector sequencer: landing, stalls, the beginning of a loop command, and CIM.MODE (R27, R38,
R237, R240, R244), and instruction-cache fills (R28). -/

namespace Sys2Proof.Machine

/-- RESULT_LANDING (R240, R244): an issue cycle of an idle vector stream, in which the results due land. -/
def execResultLanding (core : CoreId) (st : State) : Out :=
  let c := st.core core
  let crew := st.band core
  if st.crewMoves core && c.loopRun.isNone && c.zeroing.isNone then
    match crew.find? fun m => (st.core m).firing ≠ [] with
    | some f => .next (crewFire st crew f)
    | none => .next (st.idleCycles crew)
  else .next st

/-- STALLED_GROUP_ISSUE (R237): the group held back issues with all its words once every condition holds. -/
def execStalledGroupIssue (core : CoreId) (st : State) : Out :=
  let c := st.core core
  if c.loopRun.isSome && decide (0 < c.stall) then .next (vsCycle st core) else .next st

/-- QUEUE_STALL (R237, R45): a stall that reaches 2^20 clock cycles raises the queue-stall trap in the cycle that reaches it. -/
def execQueueStall (core : CoreId) (st : State) : Out :=
  let c := st.core core
  if c.loopRun.isSome && decide (stallLimit ≤ c.stall + 1) then .next (vsCycle st core) else .next st

/-- LOOP_COMMAND_BEGIN (R27, R244): an idle vector stream with nothing in flight begins the loop command at its queue's head. -/
def execLoopCommandBegin (core : CoreId) (st : State) : Out :=
  let c := st.core core
  match c.cmdq with
  | .loop l :: _ =>
    if st.crewMoves core && st.crewFree core && (st.crew core).all fun m => (st.core m).calm then
      .next (beginLoop st core l)
    else .next st
  | _ => .next st

/-- CIM_MODE_PERFORM (R38): the vector stream begins the CIM.MODE at its queue's head. -/
def execCimModePerform (core : CoreId) (st : State) : Out :=
  let c := st.core core
  if st.crewMoves core && c.loopRun.isNone && c.zeroing.isNone then .next (modePerform st core) else .next st

/-- CIM_MODE_ZEROING_END (R37): after 64 arithmetic clock cycles the bank is zero and takes its mode. -/
def execCimModeZeroingEnd (core : CoreId) (st : State) : Out :=
  let c := st.core core
  match c.zeroing with
  | some z =>
    if z.cycles ≠ 0 then .next st
    else if c.isEnding then .next (st.setCore core (c.modeEnd z))
    else if st.crewMoves core then .next ((st.band core).foldl (fun s m => s.modCore m fun c => c.modeEnd z) st)
    else .next st
  | none => .next st

/-- INSTRUCTION_CACHE_FILL (R28): the stream that missed goes on. -/
def execInstructionCacheFill (core : CoreId) (vs : Bool) (st : State) : Out :=
  .next (st.modCore core fun c => if vs then { c with missVs := false } else { c with missCp := false })

end Sys2Proof.Machine
end

