-- ==== Sys2Proof/Machine/Paging.lean ====
section
/-! DEFINITION. Frames, flash slots and invalidation (R327-R335): free and return lists, page-in and page-out of a page, the
users an invalidate waits for; and migration of regions (R318, R336). -/

namespace Sys2Proof.Machine

/-- A ready bit of dev.ready (R359). -/
def State.ready (s : State) (k : Nat) : Bool := bit s.fw.ready k

def readyFw : Nat := 1
def readySec : Nat := 2
def readyFlash : Nat := 11
def readySch : Nat := 14
def readyFin : Nat := 15

/-- Whether a compute die takes part in placement and its cores take records (R360): its cd and mem bits. -/
def State.dieReady (s : State) (die : Nat) : Bool := s.ready (7 + die) && s.ready (3 + die)

/-- Changes every listed core. -/
def State.mapCores (s : State) (f : Core → Core) : State :=
  (s.cores.map (·.1)).foldl (fun s k => s.modCore (BitVec.ofNat 8 k) f) s

/-- The listed cores. -/
def State.coreIds (s : State) : List CoreId := s.cores.map fun p => BitVec.ofNat 8 p.1

/-! ## Frames (R327) -/

/-- The free list of a die. -/
def State.freeList (s : State) (die : Nat) : List Nat := tabGet [] s.vm.free die

/-- Pops a frame from a die's free list, which of them is open (log 4). -/
def popFrame (s : State) (die : Nat) : Option (Nat × State) :=
  let l := s.freeList die
  match pick s.seq 7 l with
  | none => none
  | some fr => some (fr, { s with vm := { s.vm with free := tabSet [] s.vm.free die (l.erase fr) }, seq := s.seq + 1 })

/-- Frames a list of the translation unit holds (R327). -/
def frameListMax : Nat := 65535

/-- Pushes a frame onto the return list; it is held back while the list is full (R327). -/
def returnFrame (s : State) (fr : Nat) : State :=
  if s.vm.ret.length < frameListMax then { s with vm := { s.vm with ret := s.vm.ret ++ [fr] } }
  else { s with vm := { s.vm with heldFrames := s.vm.heldFrames ++ [fr] } }

/-- The frame held back enters the return list once there is room. -/
def unholdFrame (s : State) : State :=
  match s.vm.heldFrames with
  | fr :: rest => if s.vm.ret.length < frameListMax then
      { s with vm := { s.vm with ret := s.vm.ret ++ [fr], heldFrames := rest } } else s
  | [] => s

/-- Replaces a page-table leaf: it stands in the array at once (R335; log 64). -/
def State.setPte (s : State) (ea e : Nat) : State := (s.writePhys ea (toBytes 8 e)).standing ea 8

/-- The poisoned units of a frame, by their number in it. -/
def State.framePoison (s : State) (fr : Nat) : List Nat :=
  s.poison.filterMap fun u => if u / 64 = fr then some (u % 64) else none

/-- Fills a frame: its bytes by offset, which stand in the array at once (R335; log 64), and its poisoned units. -/
def fillFrame (s : State) (fr : Nat) (bytes : Mem) (poison : List Nat) : State :=
  let s := (s.writePhys (fr * 4096) (memRead bytes 0 4096)).standing (fr * 4096) 4096
  { s with poison := s.poison ++ poison.map (fr * 64 + ·) }

/-- A frame's bytes by offset. -/
def State.frameBytes (s : State) (fr : Nat) : Mem :=
  s.dram.filterMap fun c => if c.1 / 4096 = fr then some (c.1 % 4096, c.2) else none

/-! ## Flash slots (R334, R335) -/

/-- The flash offers slots below this number (R334). -/
def slotCount : Nat := 2 ^ 31 - 2 ^ 20

def State.slot (s : State) (n : Nat) : Option Slot := tabGet none s.slots n

def State.setSlot (s : State) (n : Nat) (x : Option Slot) : State := { s with slots := tabSet none s.slots n x }

/-- The first free slot from a number on, among as many as `fuel` says. -/
def freeSlotFrom (s : State) : Nat → Nat → Option Nat
  | 0, _ => none
  | fuel + 1, k =>
    if (s.slot (k % slotCount)).isNone then some (k % slotCount) else freeSlotFrom s fuel (k + 1)

/-- A free slot, which of them is open (log 4). -/
def State.freeSlot (s : State) : Option Nat :=
  freeSlotFrom s (min slotCount (s.slots.length + 1)) (Config.freeNat s.seq 8)

/-- A leaf of the kept r, w and pkey of an entry. -/
def leafWith (type addr e : Nat) : Nat := at' 61 type + at' 54 (fld e 60 54) + at' 12 addr

/-- What a page-in comes to. -/
inductive PagedIn where
  /-- It waits for a frame, or for the flash controller. -/
  | wait
  /-- The NAND has lost the slot (R372). -/
  | lost
  | done (s : State)

/-- Pages in the page of a flash leaf (R335): zeros, logged, where its slot is free or held for another page. A die whose memory is
not ready gives no frame (R360). -/
def pageIn (s : State) (n : CtxId) (vpn : Nat) (f : Found) : PagedIn :=
  let held := match s.slot (pteSlot f.e) with
    | some x => if x.ctx == n && x.vpn == vpn then some x else none
    | none => none
  if !s.ready readyFlash || !memReady s.fw.ready (pteDie f.e) then .wait
  else if held.any (·.bad) then .lost
  else match popFrame s (pteDie f.e) with
    | none => .wait
    | some (fr, s) =>
      let s := match held with
        | some x => (fillFrame s fr x.bytes x.poison).setSlot (pteSlot f.e) none
        | none => (fillFrame s fr [] []).logEntry 0 blkFlash (some n) (vpn * 4096) f.e
      .done (s.setPte f.ea (leafWith 2 fr f.e))

/-! ## Who uses a translation (R294, R330) -/

/-- Whether a translation is of a page in a range. -/
def Trans.within (x : Trans) (n : CtxId) (lo hi : Nat) : Bool :=
  x.ctx == n && decide (lo < x.vpn + x.pages) && decide (x.vpn ≤ hi)

/-- The commands that hold a translation of a page in a range. -/
def State.usersOf (s : State) (n : CtxId) (lo hi : Nat) : List TransUser :=
  s.coreIds.flatMap fun k =>
    let c := s.core k
    (c.liveTags.filterMap fun p =>
      if p.2.phase != .finished && p.2.trans.any fun x => x.within n lo hi then
        some (TransUser.tag k p.1 p.2.order) else none) ++
    (c.elems.filterMap fun w => if c.task.ctx == n && !w.sent.isEmpty then some (TransUser.elem k w.entry) else none)

/-- Whether a command is still at its accesses. -/
def State.stillUses (s : State) (u : TransUser) : Bool :=
  match u with
  | .tag k n order => ((s.core k).tag n).any fun t => t.order == order && t.phase != .finished
  | .elem k e => (s.core k).elems.any fun w => w.entry == e

/-- Removes the entries of a range from every core's TLB. -/
def dropCoreTlbs (s : State) (n : CtxId) (lo hi : Nat) : State :=
  s.mapCores fun c => { c with tlb := c.tlb.filter fun x => !x.within n lo hi }

/-- Removes the entries of a range from every TLB, base camp's too (R330, step 1). -/
def dropTlbs (s : State) (n : CtxId) (lo hi : Nat) : State :=
  let s := dropCoreTlbs s n lo hi
  { s with vm := { s.vm with tlb := s.vm.tlb.filter fun x => !x.within n lo hi } }

/-- Whether a page is pinned: by a launch's PINNED leases (R332), or by a transform (R157). -/
def State.pinned (s : State) (n : CtxId) (vpn : Nat) : Bool :=
  (s.sched.launches.any fun l => l.ctx == n && l.pins.contains vpn) ||
  s.coreIds.any fun k => (s.core k).liveTags.any fun p =>
    p.2.isCpyx && p.2.phase != .finished && p.2.trans.any fun x => x.within n vpn vpn

/-! ## Migration (R318, R336) -/

/-- The level-0 device leaf of a page, if it has one. -/
def State.devLeaf (s : State) (n : CtxId) (vpn : Nat) : Option Found :=
  match s.walk n (vpn * 4096) with
  | some f => if pteType f.e = 2 && f.lvl = 0 then some f else none
  | none => none

/-- The bytes a die moved in a region under a phase. -/
def State.moved (s : State) (p : BitVec 12) (n : CtxId) (region die : Nat) : Nat :=
  ((s.sched.migCounts.filter fun m => m.pc == p && m.ctx == n && m.region == region && m.die == die).map (·.bytes)).sum

/-- The position of the first largest of four numbers. -/
def argmax4 (f : Nat → Nat) : Nat := [1, 2, 3].foldl (fun b d => if f b < f d then d else b) 0

/-- The die that homes the most pages of a region, the lowest of equals (log 17). -/
def State.regionHome (s : State) (n : CtxId) (region : Nat) : Nat :=
  let homes := (List.range 512).filterMap fun i => (s.devLeaf n (512 * region + i)).map fun f => homeDie (pteAddr f.e)
  argmax4 fun d => homes.count d

/-- Whether a region may move (R336): level-0 device leaves map every page, and none is pinned or being paged. -/
def State.regionMoves (s : State) (n : CtxId) (vpn : Nat) : Bool :=
  (List.range 512).all (fun i => (s.devLeaf n (vpn + i)).isSome && !s.pinned n (vpn + i)) &&
  !s.vm.busy.any fun r => r.op == 1 && r.ctx == n && (r.taken.isSome || r.frame.isSome) && decide (vpn ≤ r.lo) && decide (r.lo < vpn + 512)

/-- The regions that a phase's completion moves (R318, R336). -/
def State.regionsToMove (s : State) (p : BitVec 12) (n : CtxId) (jobs : List (BitVec 12)) : List Migration :=
  let regions := (s.sched.migCounts.filterMap fun m => if m.pc == p && m.ctx == n then some m.region else none).dedup
  regions.filterMap fun r =>
    let best := argmax4 (s.moved p n r)
    let home := s.regionHome n r
    if best ≠ home && decide (2 * s.moved p n r home ≤ s.moved p n r best) && s.regionMoves n (512 * r) then
      some ⟨n, 512 * r, 0, best, jobs, none⟩
    else none

/-- What a migration step comes to. -/
inductive Migrated where
  | wait
  | stop (s : State)
  /-- The page at hand has been copied: the new frame, the address of its leaf, and the value read. -/
  | copied (s : State) (c : Nat × Nat × Nat)
  | done (s : State)

/-- A copied frame's writes that are not durable lie in the new frame too: a move changes no byte that can be read, and makes none
durable (R318, R102). -/
def State.moveUnsaved (s : State) (old fr : Nat) : State :=
  { s with unsaved := s.unsaved.flatMap fun u =>
      if u.addr / 4096 = old then [{ u with addr := fr * 4096 + u.addr % 4096 }, u] else [u] }

/-- Copies the page at hand into a frame of the target die (R336, steps 1 and 2): it waits for its users and for room in the return
list; the region stops without a frame, at a page that is pinned meanwhile (R332), once vm.root.mig is 0, and at a target die whose
memory is not ready (R360); and before its first page, if it may not move any more. -/
def migrateCopy (s : State) (m : Migration) : Migrated :=
  let vpn := m.vpn + m.next
  if (m.next == 0 && !s.regionMoves m.ctx m.vpn) || s.pinned m.ctx vpn || !bit (s.ctx m.ctx).vmRoot 63 ||
      !memReady s.fw.ready m.die then .stop s
  else if !s.vm.heldFrames.isEmpty || !(s.usersOf m.ctx vpn vpn).isEmpty then .wait
  else match s.devLeaf m.ctx vpn with
    | none => .stop s
    | some f => match popFrame s m.die with
      | none => .stop s
      | some (fr, s) =>
        let old := pteAddr f.e / 4096
        .copied ((fillFrame s fr (s.frameBytes old) (s.framePoison old)).moveUnsaved old fr) (fr, f.ea, f.e)

/-- Replaces the leaf of a page that has been copied (R336, steps 3 to 5), if it still has the value that was read: else the region
stops, and the new frame is free again (log 72). -/
def migrateReplace (s : State) (m : Migration) (fr ea e : Nat) : Migrated :=
  let vpn := m.vpn + m.next
  if memNat s.dram ea 8 ≠ e then
    .stop { s with vm := { s.vm with free := tabSet [] s.vm.free m.die (s.freeList m.die ++ [fr]) } }
  else
    let s := s.setPte ea (e - at' 12 (fld e 50 12) + at' 12 fr)
    .done (returnFrame (dropTlbs s m.ctx vpn vpn) (pteAddr e / 4096))

/-- Moves one page, in two steps (R336). -/
def migratePage (s : State) (m : Migration) : Migrated :=
  match m.copied with
  | none => migrateCopy s m
  | some (fr, ea, e) => migrateReplace s m fr ea e

/-- Goes on with the migrations until one waits, or has copied a page. -/
def migrateRun : Nat → State → State
  | 0, s => s
  | fuel + 1, s =>
    match s.sched.migs with
    | [] => s
    | m :: rest =>
      let put (s : State) (ms : List Migration) : State := { s with sched := { s.sched with migs := ms } }
      if 512 ≤ m.next then migrateRun fuel (put s rest)
      else match migratePage s m with
        | .wait => s
        | .stop s => migrateRun fuel (put s rest)
        | .copied s c => put s ({ m with copied := some c } :: rest)
        | .done s => migrateRun fuel (put s ({ m with next := m.next + 1, copied := none } :: rest))

/-- Goes on with the migrations. -/
def State.migrate (s : State) : State := if s.asleep then s else migrateRun (513 * s.sched.migs.length) s

/-- A phase cairn completes (R318): the regions to move, whose counts then restart. -/
def startMigration (s : State) (p : BitVec 12) (n : CtxId) : State :=
  let jobs := (s.sched.launches.filterMap fun l => if l.pc == p && l.ctx == n && l.now p then some l.jc else none).dedup
  let ms := if bit (s.ctx n).vmRoot 63 then s.regionsToMove p n jobs else []
  ({ s with sched := { s.sched with
      migs := s.sched.migs ++ ms, migCounts := s.sched.migCounts.filter fun m => !(m.pc == p && m.ctx == n) } }).migrate

end Sys2Proof.Machine
end

