-- ==== Sys2Proof/Machine/Cairns.lean ====
section
/-! DEFINITION. Cairns (R303-R306), the fate of launches (R308, R310, R311), residency (R332), cancels (R317), and the join
slots of tasks (R175, R316). -/

namespace Sys2Proof.Machine

/-! ## Cairns and launches -/

def State.cairn (s : State) (c : BitVec 12) : Cairn := tabGet Cairn.reset s.sched.cairns c.toNat

def State.setCairn (s : State) (c : BitVec 12) (x : Cairn) : State :=
  { s with sched := { s.sched with cairns := tabSet Cairn.reset s.sched.cairns c.toNat x } }

def State.modCairn (s : State) (c : BitVec 12) (f : Cairn → Cairn) : State := s.setCairn c (f (s.cairn c))

/-- The cairn of a launch at a level (R303). -/
def Launch.cairnAt (l : Launch) (level : BitVec 2) : BitVec 12 :=
  if level = 0 then l.lc else if level = 1 then l.gc else if level = 2 then l.pc else l.jc

/-- The four cairns of a launch. -/
def Launch.cairns (l : Launch) : List (BitVec 12) := [l.lc, l.gc, l.pc, l.jc]

/-- Those of a launch's cairns that still count it. -/
def Launch.counting (l : Launch) : List (BitVec 12) := l.lc :: [l.gc, l.pc, l.jc].filter l.now

/-- Whether a cairn of a level counts a launch. -/
def Launch.countedBy (l : Launch) (level : BitVec 2) (c : BitVec 12) : Bool := l.cairnAt level == c && (level == 0 || l.now c)

/-- The record of a graph that has a node number: the first one, since one that repeats a number fails its check (R308; log 71). -/
def nodeOf (ls : List Launch) (n : CtxId) (gc : BitVec 12) (node : Nat) : Option Launch :=
  ls.find? fun x => x.ctx == n && x.gc == gc && x.now gc && x.node == node

/-- Whether a launch has a launch that is not over as a predecessor (R310). -/
def dependsOn (ls : List Launch) (d l : Launch) : Bool :=
  d.ctx == l.ctx && d.gc == l.gc && d.now d.gc && d.deps.contains l.node &&
    (nodeOf ls l.ctx l.gc l.node).any fun x => x.lc == l.lc && x.ended.isNone

/-- Changes launches. -/
def State.modLaunches (s : State) (p : Launch → Bool) (f : Launch → Launch) : State :=
  { s with sched := { s.sched with launches := s.sched.launches.map fun l => if p l then f l else l } }

/-- The launch that a launch cairn counts. -/
def Launch.live (lc : BitVec 12) (l : Launch) : Bool := l.lc == lc && l.ended.isNone

def State.live (s : State) (lc : BitVec 12) : Option Launch := s.sched.launches.find? (Launch.live lc)

/-- Changes the launch that a launch cairn counts. -/
def State.modLive (s : State) (lc : BitVec 12) (f : Launch → Launch) : State := s.modLaunches (Launch.live lc) f

/-- The launch of a task. -/
def State.launchOfTask (s : State) (t : Task) : Option Launch :=
  s.sched.launches.find? fun l => l.started && l.lid == t.launch && l.ctx == t.ctx

/-- Whether a launch's record has been expanded, skipped, failed or cancelled (R305). -/
def Launch.resolved (l : Launch) : Bool :=
  match l.phase with
  | .waiting | .residency _ _ _ => false
  | _ => true

def Launch.isCancelled (l : Launch) : Bool := match l.phase with | .cancelled => true | _ => false

/-! ## Failing and skipping (R308, R311) -/

/-- A launch fails (R308): its cairn takes the cause and closes, flt is set above it, its pins are released. -/
def failLaunch (s : State) (lc : BitVec 12) (cause : Nat) : State :=
  match s.live lc with
  | none => s
  | some l =>
    let s := s.modLive lc fun l => { l with phase := .failed, pins := [] }
    let s := s.modCairn lc fun x => { x with flt := true, cause := BitVec.ofNat 8 cause, state := .closed }
    [l.gc, l.pc, l.jc].foldl (fun s c => s.modCairn c fun x => { x with flt := true }) s

/-- A launch is skipped (R311). -/
def skipLaunch (s : State) (lc : BitVec 12) : State :=
  (s.modLive lc fun l => { l with phase := .skipped }).modCairn lc fun x => { x with state := .closed }

/-! ## Base camp's reads (R288, R308, R311) -/

/-- Reads a context's memory on the HX path, with the race detector; none where a page is not a readable device page. -/
def hxRead (s : State) (n : CtxId) (a len : Nat) : Option (List Byte × State) :=
  match s.ctxRead n a len with
  | none => none
  | some (b, s) => some (b, (raceAccess s n (.hx false) a len false 0 false).1)

/-! ## Residency (R332) -/

/-- The pages of a lease entry: the first, and how many. -/
def Lease.pages (e : Lease) : Nat × Nat :=
  (e.base / 4096, if e.len = 0 then 0 else (e.base + e.len - 1) / 4096 - e.base / 4096 + 1)

/-- What making a page resident comes to. -/
inductive Resident where
  | wait (s : State)
  | failed (s : State)
  | done (s : State)

/-- Makes one page of a lease entry resident (R332), by base camp's translation unit (R323, R329); a page that is being paged out or
migrated is pinned after that (R333). A page met under a flash leaf is paged in and pinned, whatever its leaf permits
(R332's table). -/
def residentPage (s : State) (l : Launch) (e : Lease) (vpn : Nat) : Resident :=
  let n := l.ctx
  match s.campLeaf n (vpn * 4096) with
  | none => .failed s
  | some f =>
    let s := s.campUse n (vpn * 4096) f false
    let grants : Bool := (!e.rd || pteR f.e) && (!e.wr || pteW f.e)
    let pin (s : State) : State := s.modLive l.lc fun l => { l with pins := (l.pins ++ [vpn]).dedup }
    if e.host then
      if pteType f.e ≠ 5 then .failed s
      else if (findTrans (s.vm.tlb.filter (·.isHost)) n vpn e.rd e.wr).isSome then .done s
      else if s.asked n vpn (.launch l.lc) || s.invalidating n vpn then .wait s
      else .wait (askTranslation s n vpn e.rd e.wr (.launch l.lc))
    else match pteType f.e with
      | 2 => if s.moving n vpn then .wait s else if grants then .done (pin s) else .failed s
      | 3 => (match pageIn s n vpn f with
        | .wait => .wait s
        | .lost => .failed s
        | .done s => .done (pin s))
      | 4 => .done s
      | _ => .failed s

/-- Goes on making a launch's leases resident, in table order and ascending pages, until a page waits or fails. -/
def residencyRun : Nat → State → BitVec 12 → State
  | 0, s, _ => s
  | fuel + 1, s, lc =>
    match s.live lc with
    | none => s
    | some l =>
      match l.phase with
      | .residency i k fin =>
        (match l.leases[i]? with
         | none => s
         | some e =>
           let at_ (s : State) (i k : Nat) : State := s.modLive lc fun l => { l with phase := .residency i k fin }
           if e.pages.2 ≤ k then residencyRun fuel (at_ s (i + 1) 0) lc
           else match residentPage s l e (e.pages.1 + k) with
             | .wait s => s
             | .failed s => failLaunch s lc 2
             | .done s => residencyRun fuel (at_ s i (k + 1)) lc)
      | _ => s

/-- The steps a launch's residency takes at most. -/
def Launch.residencyFuel (l : Launch) : Nat := (l.leases.map fun e => e.pages.2 + 1).sum + 1

/-- Whether a launch is held at step 3 of R18 until its job's migrations are done (R318). -/
def State.isHeld (s : State) (l : Launch) : Bool :=
  l.held && s.sched.migs.any fun m => m.ctx == l.ctx && m.jobs.contains l.jc

/-- Goes on with a launch's residency. -/
def State.residencyOf (s : State) (l : Launch) : State :=
  if s.isHeld l then s else residencyRun l.residencyFuel s l.lc

/-- Whether every page of a launch is resident; and its container, if it has one, finalised (R18, R310). -/
def Launch.isResident (l : Launch) : Bool :=
  match l.phase with | .residency i _ _ => decide (l.leases.length ≤ i) | _ => false

def Launch.isFinalised (l : Launch) : Bool :=
  match l.phase with | .residency _ _ fin => fin || !l.isZpf | _ => false

/-! ## Release (R310, R311) -/

/-- A launch's join counter has reached 0: it is released and counted, and its predicate is read; it is skipped, fails, or begins its
residency. -/
def releaseLaunch (s : State) (l : Launch) : State :=
  let x := s.ctx l.ctx
  let lid : BitVec 32 := BitVec.ofNat 32 (at' 26 l.ctx.toNat + x.released.toNat)
  let s := s.setCtx l.ctx { x with released := x.released + 1 }
  let l := { l with lid := lid }
  let begin_ (s : State) : State :=
    let l' := { l with phase := .residency 0 0 false, held := s.sched.migs.any fun m => m.ctx == l.ctx && m.jobs.contains l.jc }
    (s.modLive l.lc fun _ => l').residencyOf l'
  if !l.cond then begin_ s
  else match hxRead s l.ctx l.pred 8 with
    | none => failLaunch (s.walkMarks l.ctx l.pred 8 false) l.lc 4
    | some (b, s) => if ofBytes b = 0 then skipLaunch s l.lc else begin_ s

/-! ## Completion (R305, R306, R310) -/

/-- A launch cairn has become complete or cancelled: its dependents' counters fall, or they fail (R310); its pins are released. -/
def endLaunch (s : State) (lc : BitVec 12) (ok : Bool) : State :=
  match s.live lc with
  | none => s
  | some l =>
    let deps := s.sched.launches.filter fun d =>
      dependsOn s.sched.launches d l && d.ended.isNone && (match d.phase with | .waiting => true | _ => false)
    let s := s.modLive lc fun l => { l with ended := some ok, pins := [] }
    deps.foldl (fun s d =>
      if ok then s.modLive d.lc fun d => { d with join := d.join - d.deps.count l.node } else failLaunch s d.lc 5) s

/-- A cairn moves to complete (R305, R306). -/
def completeCairn (s : State) (c : BitVec 12) : State :=
  let x := s.cairn c
  let s := s.setCairn c { x with state := .complete }
  let s := if x.level = 0 then endLaunch s c (!x.flt && !x.cnl)
    else if x.level = 2 then startMigration s c x.ctx else s
  if x.irq then s.msix x.ctx.toNat else s

/-- The first move that base camp has to make: a graph, phase or job cairn closes; a closed cairn completes; a launch whose
counter is 0 is released (R305, R310). -/
def sweepOne (s : State) : Option State :=
  let cs := s.sched.cairns
  match cs.find? fun p => p.2.state == .opened && p.2.level != 0 && p.2.closing && !p.2.cancel &&
      s.sched.launches.all fun l => !(l.ctx == p.2.ctx && l.countedBy p.2.level (BitVec.ofNat 12 p.1)) || l.resolved with
  | some p => some (s.setCairn (BitVec.ofNat 12 p.1) { p.2 with state := .closed })
  | none =>
    match cs.find? fun p => p.2.state == .closed && p.2.done == p.2.exp && !p.2.cancel with
    | some p => some (completeCairn s (BitVec.ofNat 12 p.1))
    | none =>
      match s.sched.launches.find? fun l =>
          !s.asleep && l.ended.isNone && l.join == 0 && match l.phase with | .waiting => true | _ => false with
      | some l => some (releaseLaunch s l)
      | none => none

/-- Makes base camp's moves until none is left. -/
def sweepRun : Nat → State → State
  | 0, s => s
  | fuel + 1, s => match sweepOne s with
    | none => s
    | some s' => sweepRun fuel s'

/-- Base camp's moves after a change of cairns or launches: each cairn closes and completes once, each launch is released
once. -/
def State.sweep (s : State) : State := sweepRun (2 * s.sched.cairns.length + s.sched.launches.length + 1) s

/-- The launches that are being made resident. -/
def State.residing (s : State) : List Launch :=
  s.sched.launches.filter fun l => l.ended.isNone && match l.phase with | .residency _ _ _ => true | _ => false

/-- Whether a launch waits for a frame (R327, R335). -/
def State.launchStarved (s : State) (l : Launch) : Bool :=
  match l.phase with
  | .residency i k _ =>
    (match l.leases[i]? with
     | some e => !e.host && s.ready readyFlash && decide (k < e.pages.2) && !s.isHeld l &&
        (match s.walk l.ctx ((e.pages.1 + k) * 4096) with
         | some f => pteType f.e == 3 && (s.freeList (pteDie f.e)).isEmpty
         | none => false)
     | none => false)
  | _ => false

/-- Goes on with everything that waits on frames, migrations or host pages, and with the records that wait to be written (R345). -/
def State.progress (s : State) : State :=
  let s := s.migrate
  let s := if s.asleep then s else s.residing.foldl (fun s l => s.residencyOf l) s
  s.sweep.rings

/-! ## Counting tasks (R306, R316) -/

/-- Counts a task that reached DONE in its four cairns; a cancelled launch's counts nowhere (R306, R317). -/
def countDone (s : State) (t : Task) : State :=
  match s.launchOfTask t with
  | none => s
  | some l =>
    if l.isCancelled then s
    else (l.counting.foldl (fun s c => s.modCairn c fun x => { x with done := x.done + 1 }) s).sweep

/-- Counts a task that ended faulted (R316): the launch's cairns expect one less, and take flt. A cancelled launch's tasks
have already been taken out (R317). -/
def countFault (s : State) (t : Task) : State :=
  match s.launchOfTask t with
  | none => s
  | some l =>
    (l.counting.foldl (fun s c => s.modCairn c fun x =>
      { x with exp := if l.isCancelled then x.exp else x.exp - 1, flt := true }) s).sweep

/-! ## Join slots (R175, R316) -/

def State.joinSlot (s : State) (n : BitVec 16) : JoinSlot := tabGet ⟨0, 0⟩ s.sched.joins n.toNat

def State.setJoinSlot (s : State) (n : BitVec 16) (x : JoinSlot) : State :=
  { s with sched := { s.sched with joins := tabSet ⟨0, 0⟩ s.sched.joins n.toNat x } }

/-- A joined child has ended (R175): `failed` when by a fault or a cancel. -/
def joinEnd (s : State) (joined : Bool) (parent : BitVec 16) (failed : Bool) : State :=
  if joined then
    let x := s.joinSlot parent
    s.setJoinSlot parent ⟨x.count - 1, if failed then x.failed + 1 else x.failed⟩
  else s

/-! ## Queues of records (R313) -/

/-- The number of a die's queue of a level. -/
def queueNo (die level : Nat) : Nat := die * 32 + level

/-- A queue; an empty one is at its native level with nothing counted. -/
def State.queue (s : State) (die level : Nat) : Queue :=
  let q := tabGet ⟨[], 0, 0⟩ s.sched.queues (queueNo die level)
  if q.recs.isEmpty then ⟨[], level, 0⟩ else q

def State.setQueue (s : State) (die level : Nat) (q : Queue) : State :=
  let q := if q.recs.isEmpty then ⟨[], 0, 0⟩ else q
  { s with sched := { s.sched with queues := tabSet ⟨[], 0, 0⟩ s.sched.queues (queueNo die level) q } }

/-- Appends a record to a queue. -/
def pushRecord (s : State) (die : Nat) (r : ContRec) : State :=
  let q := s.queue die r.prio.toNat
  s.setQueue die r.prio.toNat { q with recs := q.recs ++ [r] }

/-- Puts resumption records at the head of a queue (R313). -/
def pushHead (s : State) (die level : Nat) (rs : List ContRec) : State :=
  let q := s.queue die level
  s.setQueue die level { q with recs := rs ++ q.recs }

/-- Every record that is queued. -/
def State.records (s : State) : List ContRec := s.sched.queues.flatMap fun p => p.2.recs

/-- Discards queued records, and the images of those that are resumptions. -/
def discardRecords (s : State) (p : ContRec → Bool) : State :=
  let gone := s.records.filter p
  let s := (List.range 128).foldl (fun s i =>
    let q := s.queue (i / 32) (i % 32)
    if q.recs.any p then s.setQueue (i / 32) (i % 32) { q with recs := q.recs.filter fun r => !p r } else s) s
  { s with sched := { s.sched with images := s.sched.images.filter fun m => !gone.any fun r => r.rs && r.frame == m.addr } }

/-! ## Cancels (R317) -/

/-- The cairns that cancelling some cairns reaches from above: the phases of jobs, the graphs of phases (R317). -/
def cancelDown (s : State) (c : BitVec 12) : List (BitVec 12) :=
  let ls := s.sched.launches
  let x := s.cairn c
  let jobs := if x.level = 3 then [c] else []
  let phases := if x.level = 2 then [c] else
    (ls.filterMap fun l => if l.ctx == x.ctx && jobs.contains l.jc && l.now l.jc && l.now l.pc then some l.pc else none).dedup
  let graphs := if x.level = 1 then [c] else
    (ls.filterMap fun l => if l.ctx == x.ctx && phases.contains l.pc && l.now l.pc && l.now l.gc then some l.gc else none).dedup
  jobs ++ phases ++ graphs

/-- The launches a set reaches through dependents (R317). -/
def cancelDeps (ls : List Launch) : Nat → List (BitVec 12) → List (BitVec 12)
  | 0, set => set
  | fuel + 1, set =>
    let more := ls.filter fun d => d.ended.isNone && !set.contains d.lc &&
      ls.any fun l => l.ended.isNone && set.contains l.lc && dependsOn ls d l
    if more.isEmpty then set else cancelDeps ls fuel (set ++ more.map (·.lc))

/-- Stops the running tasks of a launch for a cancel: nothing is saved and nothing recorded (R317, R337); the elements that the
engine has begun to serve complete. A task that is already ending faulted goes on ending. -/
def Core.cancelTask (c : Core) : Core :=
  match c.run with
  | .running | .preempting =>
    { c with
      run := .cancelling, cmdq := [], aq := c.aq.filter (·.begun), preemptReq := false, stopUs := 0
      wait := match c.wait with | .rtree a b d => .rtree a b d | _ => .no }
  | _ => c

/-- Whether a core runs a task of a launch. -/
def Core.runsLaunch (c : Core) (l : Launch) : Bool :=
  c.run != .idle && l.started && c.task.launch == l.lid && c.task.ctx == l.ctx

/-- Cancels one launch (R317, steps 1 to 3). -/
def cancelLaunch (s : State) (lc : BitVec 12) : State :=
  match s.live lc with
  | none => s
  | some l =>
    if (s.cairn lc).state == .complete || l.isCancelled then s
    else
      let x := s.cairn lc
      let count := x.exp - x.done
      let s := s.modLive lc fun l => { l with phase := .cancelled }
      let mine (r : ContRec) : Bool := l.started && r.launch == l.lid && r.ctx == l.ctx
      let s := (s.records.filter mine).foldl (fun s r => joinEnd s r.j r.parent true) s
      let s := discardRecords s mine
      let s := { s with sched := { s.sched with spawns := s.sched.spawns.filter fun q => !mine q.r } }
      let s := s.mapCores fun c => if c.runsLaunch l then c.cancelTask else c
      let s := s.modCairn lc fun x => { x with cancel := true }
      [l.gc, l.pc, l.jc].foldl (fun s c =>
        if (s.cairn c).cancel then s else s.modCairn c fun x => { x with exp := x.exp - count, cnl := true }) s

/-- A cancel of a cairn (R317), in one step for every cairn involved. -/
def cancelCairn (s : State) (c : BitVec 12) : State :=
  let ls := s.sched.launches
  let x := s.cairn c
  let above := cancelDown s c
  let first := (ls.filter fun l => l.ended.isNone && l.ctx == x.ctx &&
    (if x.level = 0 then l.lc == c else [l.gc, l.pc, l.jc].any fun a => above.contains a && l.now a)).map (·.lc)
  let all := cancelDeps ls ls.length first.dedup
  let s := (c :: above).foldl (fun s c => s.modCairn c fun x =>
    if x.state == .opened || x.state == .closed then { x with cancel := true } else x) s
  (all.foldl cancelLaunch s).sweep

/-- Whether a core runs a task of a launch, or has a command of one in flight (R305). -/
def State.launchBusy (s : State) (l : Launch) : Bool := s.coreIds.any fun k => (s.core k).runsLaunch l

/-- Whether a cancelled cairn may move to cancelled (R305, R317). -/
def State.cancelReady (s : State) (c : BitVec 12) : Bool :=
  let x := s.cairn c
  x.cancel && (x.state == .opened || x.state == .closed) &&
  s.sched.launches.all fun l =>
    if l.ctx == x.ctx && l.countedBy x.level c then
      if x.level = 0 then l.ended.isSome || !s.launchBusy l
      else l.ended.isSome || (l.isCancelled && !s.launchBusy l)
    else true

/-- LAUNCH_CANCELLED (R317, R305): a cairn whose cancel has been made and whose tasks have stopped becomes cancelled. -/
def execLaunchCancelled (cairn : BitVec 12) (st : State) : Out :=
  if st.cancelReady cairn then
    let x := st.cairn cairn
    let s := st.setCairn cairn { x with state := .cancelled }
    .next (if x.level = 0 then (endLaunch s cairn false).sweep else s.sweep)
  else .next st

/-! ## Writes to cairn.cfg (R304) -/

/-- The word 0 of a cairn, cairn.cfg (R303). -/
def Cairn.cfg (x : Cairn) : Nat :=
  let st := match x.state with | .free => 0 | .opened => 1 | .closed => 2 | .complete => 3 | .cancelled => 4
  at' 63 (ofBool (x.state != .free)) + at' 62 (ofBool x.irq) + at' 60 x.level.toNat + at' 54 x.ctx.toNat +
  at' 48 st + at' 47 (ofBool x.flt) + at' 46 (ofBool x.cnl) + at' 32 x.cause.toNat

/-- A refused register write is recorded at severity 0 (R375). -/
def refuseWrite (s : State) (blk : Nat) (ctx : Option CtxId) (off v : Nat) : State := s.logEntry 0 blk ctx off v

/-- The register offset of a cairn (R303). -/
def cairnOff (c : BitVec 12) : Nat := 0x60000 + 32 * c.toNat

/-- A write with cancel = 1 (R304). -/
def cairnCancelWrite (s : State) (c : BitVec 12) : State :=
  let x := s.cairn c
  if !(s.ctx x.ctx).en then refuseWrite s blkSched (some x.ctx) (cairnOff c) (at' 53 1)
  else match x.state with
    | .opened | .closed => cancelCairn s c
    | _ => s

/-- A launch whose cairn is armed again: the cairn counts it no more. -/
def Launch.rearm (c : BitVec 12) (l : Launch) : Launch :=
  if [l.gc, l.pc, l.jc].contains c then { l with past := c :: l.past } else l

/-- Whether a launch is of no more account: it is over, and nothing counts it any more. -/
def Launch.forgotten (l : Launch) : Bool := l.ended.isSome && !([l.gc, l.pc, l.jc].any l.now)

/-- A write with en = 1: the cairn is armed (R304), and what it counted before it counts no more; its phase's bytes (R318) neither. -/
def cairnArmWrite (s : State) (c : BitVec 12) (v : Word64) : State :=
  let x := s.cairn c
  let n : CtxId := BitVec.ofNat 6 (bits v 59 54)
  if x.state == .opened || x.state == .closed || !(s.ctx n).en then refuseWrite s blkSched (some n) (cairnOff c) v.toNat
  else
    let s := s.setCairn c { Cairn.reset with irq := bit v 62, level := BitVec.ofNat 2 (bits v 61 60), ctx := n, state := .opened }
    { s with sched := { s.sched with
        launches := (s.sched.launches.map (Launch.rearm c)).filter fun l => !l.forgotten
        migCounts := s.sched.migCounts.filter fun m => m.pc != c
        migs := s.sched.migs.map fun m => { m with jobs := m.jobs.filter (· != c) } } }

/-- A write with en = 0: the cairn is freed (R304); the written fields stand. -/
def cairnFreeWrite (s : State) (c : BitVec 12) (v : Word64) : State :=
  let x := s.cairn c
  let free := x.state == .complete || x.state == .cancelled || (x.state == .opened && x.exp == 0 && !x.named)
  if free then s.setCairn c { x with
      irq := bit v 62, level := BitVec.ofNat 2 (bits v 61 60), ctx := BitVec.ofNat 6 (bits v 59 54), state := .free
      cancel := false, closing := false, named := false }
  else refuseWrite s blkSched (some x.ctx) (cairnOff c) v.toNat

/-- A write to cairn.cfg (R304); dropped and logged before the scheduler is ready (R360). -/
def cairnWrite (s : State) (c : BitVec 12) (v : Word64) : State :=
  if !s.ready readySch then refuseWrite s blkSched none (cairnOff c) v.toNat
  else if bit v 53 then cairnCancelWrite s c
  else if bit v 63 then cairnArmWrite s c v
  else cairnFreeWrite s c v

/-- CAIRN_ARM (R304): a write of cairn.cfg with en = 1 and cancel = 0. -/
def execCairnArm (cairn : BitVec 12) (v : Word64) (st : State) : Out :=
  .next (cairnWrite st cairn ((v ||| BitVec.ofNat 64 (2 ^ 63)) &&& ~~~(BitVec.ofNat 64 (2 ^ 53))))

/-- CAIRN_FREE (R304): a write of cairn.cfg with en = 0 and cancel = 0. -/
def execCairnFree (cairn : BitVec 12) (v : Word64) (st : State) : Out :=
  .next (cairnWrite st cairn (v &&& ~~~(BitVec.ofNat 64 (2 ^ 63 + 2 ^ 53))))

/-- CAIRN_CANCEL (R304, R317): a write of cairn.cfg with cancel = 1. -/
def execCairnCancel (cairn : BitVec 12) (st : State) : Out := .next (cairnWrite st cairn (BitVec.ofNat 64 (2 ^ 53)))

end Sys2Proof.Machine
end

