-- ==== Sys2Proof/Machine/SaveImage.lean ====
section
/-! DEFINITION. The save image of a pre-empted task (R348, R351-R355): its coding, and its check and decoding (R356). -/

namespace Sys2Proof.Machine

/-! ## Blocks (R354, R355) -/

/-- The 1 KiB of a tracked block (R354). -/
def Core.block (c : Core) (b : Nat) : List Byte :=
  if b < 32 then memRead c.regs (1024 * b) 1024 else memRead c.scratch (1024 * (b - 32)) 1024

/-- Writes a tracked block. -/
def Core.setBlock (c : Core) (b : Nat) (v : List Byte) : Core :=
  if b < 32 then { c with regs := memWrite c.regs (1024 * b) v } else { c with scratch := memWrite c.scratch (1024 * (b - 32)) v }

/-- The dirty blocks, ascending. -/
def dirtyBlocks (d : BitVec 672) : List Nat := (List.range 672).filter fun b => bit d b

/-- The length of the longest run of a value from the front, at most `fuel`. -/
def runLen (v : Nat) : Nat → List Nat → Nat
  | fuel + 1, x :: xs => if x = v then runLen v fuel xs + 1 else 0
  | _, _ => 0

/-- How many further units a literal takes after its first (R355). -/
def litLen : Nat → List Nat → Nat
  | fuel + 1, x :: xs => if x = 0 || (match xs with | y :: _ => y == x | [] => false) then 0 else litLen fuel xs + 1
  | _, _ => 0

/-- Codes units by the rule of R355. -/
def codeUnits : Nat → List Nat → List Byte
  | 0, _ => []
  | _, [] => []
  | fuel + 1, x :: xs =>
    if x = 0 then
      let n := runLen 0 64 (x :: xs)
      BitVec.ofNat 8 (n - 1) :: codeUnits fuel ((x :: xs).drop n)
    else if xs.head? = some x then
      let n := runLen x 64 (x :: xs)
      BitVec.ofNat 8 (64 + (n - 1)) :: (toBytes 8 x ++ codeUnits fuel ((x :: xs).drop n))
    else
      let n := litLen 63 xs + 1
      BitVec.ofNat 8 (128 + (n - 1)) :: (((x :: xs).take n).flatMap (toBytes 8) ++ codeUnits fuel ((x :: xs).drop n))

/-- Codes a block. -/
def codeBlock (v : List Byte) : List Byte := codeUnits 128 (elemsOf 64 v)

/-- Decodes one block of `need` units from the front of bytes: its bytes and the rest; none where a code fails (R355). -/
def decodeBlock : Nat → Nat → List Byte → Option (List Byte × List Byte)
  | _, 0, b => some ([], b)
  | 0, _, _ => none
  | _, _, [] => none
  | fuel + 1, need, t :: b =>
    let n := t.toNat % 64 + 1
    if need < n then none
    else
      let go (out rest : List Byte) : Option (List Byte × List Byte) :=
        (decodeBlock fuel (need - n) rest).map fun p => (out ++ p.1, p.2)
      match t.toNat / 64 with
      | 0 => go (List.replicate (8 * n) 0) b
      | 1 => if b.length < 8 then none else go ((List.replicate n (b.take 8)).flatten) (b.drop 8)
      | 2 => if b.length < 8 * n then none else go (b.take (8 * n)) (b.drop (8 * n))
      | _ => none

/-- Decodes the blocks of a dirty map into a core. -/
def decodeBlocks : List Nat → List Byte → Core → Option Core
  | [], _, c => some c
  | k :: ks, b, c => match decodeBlock 129 128 b with
    | some (v, rest) => decodeBlocks ks rest (c.setBlock k v)
    | none => none

/-! ## Entries (R222, R352, R353) -/

/-- The five words of a stream register (R222). -/
def Stream.words (x : Stream) : List Nat :=
  [ at' 63 (ofBool x.isOpen) + at' 62 (ofBool x.done) + at' 61 (ofBool x.m) + at' 60 (ofBool x.w) + at' 58 x.kind.toNat +
      at' 55 x.lvl.toNat + at' 54 (ofBool x.src) + at' 51 x.qw.toNat + at' 31 x.desc.toNat + x.abase.toNat,
    at' 32 x.crd.toNat + x.pos.toNat, at' 32 x.endPos.toNat + x.size.toNat, at' 32 x.mcrd.toNat + x.mpos.toNat, x.org.toNat ]

/-- The words of 64 bits as bytes. -/
def wordBytes (ws : List Nat) : List Byte := ws.flatMap (toBytes 8)

/-- A command entry (R352): 20 words, with the iteration at which to resume. -/
def Cmd.words (x : Cmd) (resume : Nat) : List Nat :=
  match x with
  | .mode b m k _ _ => (at' 63 1 + at' 6 k.toNat + at' 5 (ofBool m) + b.toNat) :: List.replicate 19 0
  | .loop c =>
    [0, c.start.toNat, c.len - 1, resume] ++
    ((List.range 6).map fun d => at' 32 (c.strides.toList.getD d 0).toNat + c.counts.toList.getD d 1) ++
    c.views.toList.map BitVec.toNat ++ [c.order.toNat, 0]

/-- A command from its words, command index and ctx.pkey value, at its place in the order of issue. -/
def cmdOf (w : Nat → Nat) (x : BitVec 32 × Word64) (stamp : Nat) : Cmd :=
  if fld (w 0) 63 63 = 1 then
    .mode (BitVec.ofNat 5 (fld (w 0) 4 0)) (fld (w 0) 5 5 == 1) (BitVec.ofNat 5 (fld (w 0) 10 6)) x.1 stamp
  else .loop {
    start := BitVec.ofNat 64 (w 1), len := fld (w 2) 11 0 + 1
    counts := Vector.ofFn fun d => fld (w (4 + d.val)) 16 0
    strides := Vector.ofFn fun d => BitVec.ofNat 32 (fld (w (4 + d.val)) 63 32)
    views := Vector.ofFn fun v => BitVec.ofNat 64 (w (10 + v.val)), order := BitVec.ofNat 3 (w 18)
    cmd := x.1, pkey := x.2, first := fld (w 3) 47 0, stamp := stamp }

/-- Pads bytes to a multiple of 16. -/
def pad16 (b : List Byte) : List Byte := b ++ List.replicate ((16 - b.length % 16) % 16) 0

/-- A landing entry (R353). -/
def Landing.image (l : Landing) : List Byte :=
  let head (kind wq dest len acc : Nat) : List Byte := wordBytes
    [at' 48 l.d + at' 44 kind + at' 43 (if l.lat = .no then 0 else 1) + at' 32 wq + dest, len, l.flags.toNat, acc]
  match l.v with
  | .bytes off v => head 0 0 off v.length 0 ++ pad16 v
  | .sums acc off wq _ v =>
    head 1 wq off (16 * v.length) acc.toNat ++ pad16 (v.flatMap (intBytes 16))
  | .index r x => head 2 0 r.toNat 4 0 ++ pad16 (toBytes 4 x.toNat)
  | .stream r x => head 3 0 r.toNat 40 0 ++ pad16 (wordBytes x.words)
  | .scratch a v => head 4 0 a v.length 0 ++ pad16 v

/-- What an image keeps of a landing entry beside R353 (log 14). -/
def Landing.own (l : Landing) : Bool × LatClass × Option (Nat × Nat) :=
  (match l.v with | .sums _ _ _ o _ => o | _ => false, l.lat, l.pass)

/-- A landing entry from the front of bytes, and the rest. -/
def landingOf (own : Bool × LatClass × Option (Nat × Nat)) (b : List Byte) : Landing × List Byte :=
  let w (i : Nat) := natAt b (8 * i) 8
  let len := fld (w 1) 31 0
  let v := (b.drop 32).take len
  let dest := fld (w 0) 31 0
  let val : LandVal := match fld (w 0) 47 44 with
    | 0 => .bytes dest v
    | 1 => .sums (BitVec.ofNat 4 (w 3)) dest (fld (w 0) 39 32) own.1
        ((List.range (len / 16)).map fun i => sext 128 (natAt v (16 * i) 16))
    | 2 => .index (BitVec.ofNat 4 dest) (BitVec.ofNat 32 (natAt v 0 4))
    | 3 => .stream (BitVec.ofNat 3 dest) (streamOf fun i => natAt v (8 * i) 8)
    | _ => .scratch dest v
  let lat : LatClass := if fld (w 0) 43 43 = 0 then .no else own.2.1
  (⟨fld (w 0) 63 48, val, lat, BitVec.ofNat 64 (w 2), none, own.2.2⟩, b.drop (32 + (len + 15) / 16 * 16))

/-- `n` landing entries from the front of bytes, and the rest. -/
def landingsOf : Nat → List (Bool × LatClass × Option (Nat × Nat)) → List Byte → List Landing × List Byte
  | 0, _, b => ([], b)
  | n + 1, own, b =>
    let p := landingOf (own.headD (false, .no, none)) b
    let q := landingsOf n own.tail p.2
    (p.1 :: q.1, q.2)

/-- The two words of a barrier (R352). -/
def Barrier.words (x : Barrier) : List Nat :=
  [x.mask.toNat, at' 24 (ofBool x.arrived) + at' 23 (ofBool x.init) + at' 16 x.count + x.gen.toNat]

/-! ## The image (R351) -/

/-- The commands of an image: the one in progress first, each with the iteration to resume at. -/
def Core.cmdEntries (c : Core) : List (Cmd × Nat) :=
  (match c.loopRun with | some r => [(Cmd.loop r.c, r.iter)] | none => []) ++
  c.cmdq.map fun x => (x, match x with | .loop l => l.first | .mode _ _ _ _ _ => 0)

/-- The fixed block (R352). -/
def Core.fixedBlock (c : Core) (j : JoinSlot) : List Byte :=
  wordBytes ((List.range 32).map fun r => (c.gr (BitVec.ofNat 5 r)).toNat) ++
  wordBytes [c.pc.toNat, at' 48 j.failed.toNat + at' 32 j.count.toNat + c.cmdIdx.toNat,
    c.jetOrder.toNat, c.fpFlags.toNat, c.fpTrapen.toNat, c.paramOvf.toNat, c.ctxPkey.toNat, 0] ++
  wordBytes (c.views.toList.map BitVec.toNat) ++
  (c.idx.toList.flatMap fun x => toBytes 4 x.toNat) ++
  wordBytes [at' 48 c.occ.x + at' 40 c.occ.m + at' 32 c.occ.b + at' 24 c.occ.a + at' 16 c.occ.i + c.flags.toNat, c.paramq.length] ++
  wordBytes ((List.range 16).map fun i => (c.paramq.getD i 0).toNat) ++
  wordBytes (c.streams.toList.flatMap Stream.words) ++
  wordBytes (c.accOvf.toList.map BitVec.toNat) ++
  (c.banks.toList.flatMap fun b => toBytes 4 b.status) ++
  wordBytes (c.qcw.toList.flatMap fun q => [q.w0.toNat, q.w1.toNat]) ++
  wordBytes ((List.range 64).flatMap fun b => (c.bar (BitVec.ofNat 6 b)).words) ++
  List.replicate 240 0

/-- The dirty map (R354). -/
def dirtyMap (d : BitVec 672) : List Byte := toBytes 96 d.toNat

/-- The position of a core in its rope's shape: its rank among the members (R350). -/
def Core.ropePos (c : Core) (k : CoreId) : Nat :=
  match c.rope with
  | some r => ((List.range (maskBit k)).filter fun j => bit r.mask j).length
  | none => 0

/-- The save image of a core's task (R351). -/
def Core.image (c : Core) (k : CoreId) (j : JoinSlot) : List Byte :=
  let cmds := c.cmdEntries
  let body := c.fixedBlock j ++ wordBytes (cmds.flatMap fun x => x.1.words x.2) ++ c.landing.flatMap Landing.image ++
    wordBytes (c.aq.flatMap fun e => [at' 32 e.qw.toNat + e.index.toNat, e.grp.toNat, e.pkey.toNat, 0]) ++
    dirtyMap c.dirty ++ (dirtyBlocks c.dirty).flatMap fun b => codeBlock (c.block b)
  let body := pad16 (wordBytes [match c.rope with | some r => r.mask.toNat | none => 0,
      at' 32 c.task.ctx.toNat + c.task.launch.toNat, c.task.tile.toNat] ++
    toBytes 2 cmds.length ++ toBytes 2 c.landing.length ++ toBytes 2 c.aq.length ++ List.replicate 18 0 ++ body)
  let flags := ofBool c.rope.isSome + 2 * ofBool c.loopRun.isNone + 4 * c.ropePos k
  [0x5A, 0x53, 0x49, 0x00] ++ toBytes 2 1 ++ toBytes 2 flags ++ toBytes 4 (body.length + 16) ++ toBytes 4 (crc32c body) ++ body

/-- The header check of an image (R356, step 1): magic, version, length and crc. -/
def imageHeadOk (b : List Byte) : Bool :=
  b.take 4 == [0x5A, 0x53, 0x49, 0x00] && natAt b 4 2 == 1 && natAt b 8 4 == b.length && b.length % 16 == 0 &&
  decide (2624 ≤ b.length) && natAt b 12 4 == crc32c (b.drop 16)

/-- The rope mask and position an image is marked with (R350). -/
def imageRope (b : List Byte) : Option (Word64 × Nat) :=
  if natAt b 6 1 % 2 = 1 then some (BitVec.ofNat 64 (natAt b 16 8), natAt b 6 1 / 4 % 4) else none

/-- Restores an image into a core whose storage is zero (R356, steps 2 to 4); none where the image check fails. Its commands take their
places in the order of issue from `stamp` on. A command in progress is left at the head of the command queue, with `true`. The join
count stays where base camp has kept it, since children may have ended meanwhile (R175, R316). -/
def Image.restore (m : Image) (c : Core) (stamp : Nat) : Option (Core × Bool) :=
  let b := m.bytes
  if !imageHeadOk b then none
  else
    let x (o n : Nat) := natAt b (64 + o) n
    let w (o : Nat) := x o 8
    let w64 (o : Nat) : Word64 := BitVec.ofNat 64 (w o)
    let nq := natAt b 40 2
    let nl := natAt b 42 2
    let na := natAt b 44 2
    let cmds := (List.range nq).map fun i => cmdOf (fun j => natAt b (2624 + 160 * i + 8 * j) 8) (m.cmds.getD i (0, 0)) (stamp + i)
    let land := landingsOf nl m.land (b.drop (2624 + 160 * nq))
    let aq := (List.range na).map fun i =>
      let a (j : Nat) := natAt land.2 (32 * i + 8 * j) 8
      (⟨BitVec.ofNat 32 (fld (a 0) 31 0), BitVec.ofNat 3 (fld (a 0) 34 32), BitVec.ofNat 64 (a 1), BitVec.ofNat 64 (a 2),
        stamp, false⟩ : AqEntry)
    let rest := land.2.drop (32 * na)
    let dirty : BitVec 672 := BitVec.ofNat 672 (ofBytes (rest.take 96))
    let bars := (List.range 64).foldl (fun (t : Tab Barrier) i =>
      let own := tabGet Barrier.reset m.bars i
      let v := w (0x510 + 16 * i + 8)
      tabSet Barrier.reset t i { own with
        init := fld v 23 23 == 1, mask := w64 (0x510 + 16 * i), count := fld v 22 16, gen := BitVec.ofNat 16 (fld v 15 0)
        arrived := fld v 24 24 == 1 }) []
    let c := { c with
      g := Vector.ofFn fun r => w64 (8 * r.val)
      pc := w64 0x100, pcFrom := m.pcFrom, cmdIdx := BitVec.ofNat 32 (x 0x108 4)
      jetOrder := BitVec.ofNat 3 (w 0x110), fpFlags := w64 0x118, fpTrapen := w64 0x120, paramOvf := w64 0x128
      ctxPkey := w64 0x130
      views := Vector.ofFn fun v => w64 (0x140 + 8 * v.val)
      idx := Vector.ofFn fun i => BitVec.ofNat 32 (x (0x180 + 4 * i.val) 4)
      flags := BitVec.ofNat 16 (x 0x1C0 2)
      occ := ⟨x 0x1C2 1, x 0x1C3 1, x 0x1C4 1, x 0x1C5 1, x 0x1C6 1⟩
      paramq := (List.range (w 0x1C8 % 64)).map fun i => w64 (0x1D0 + 8 * i)
      streams := Vector.ofFn fun z => streamOf fun i => w (0x250 + 40 * z.val + 8 * i)
      accOvf := Vector.ofFn fun a => w64 (0x390 + 8 * a.val)
      banks := Vector.ofFn fun k => bankOf (x (0x410 + 4 * k.val) 4)
      qcw := Vector.ofFn fun q => ⟨w64 (0x490 + 16 * q.val), w64 (0x498 + 16 * q.val)⟩
      bars := bars, remap := m.remap, cmdq := cmds, landing := land.1, aq := aq, dirty := dirty
      hostWrites := m.hostWrites, hostPage := m.hostPage }
    match decodeBlocks (dirtyBlocks dirty) (rest.drop 96) c with
    | none => none
    | some c => some (c, natAt b 6 1 / 2 % 2 == 0)

end Sys2Proof.Machine
end

