-- ==== Sys2Proof/Machine/Death.lean ====
section
/-! DEFINITION. The release of a core (R21, R338), the stop of a task by base camp (R337, R357), and the death of a context
(R358). -/

namespace Sys2Proof.Machine

/-- A core whose registers have their reset values, as a task's start and a context's death leave them (R21, R37): its storage stands,
and what base camp and the mesh keep about it. -/
def Core.fresh (c : Core) : Core :=
  { Core.reset with
    scratch := c.scratch, regs := c.regs, dirty := c.dirty, prevCtx := some c.task.ctx, ivl := c.ivl
    relScopes := c.relScopes, held := c.held, tlb := c.tlb }

/-- A core that has no task any more (R338, step 5): its registers, banks and storage stand as the task left them, until the next one
starts (R21); nothing of the task is under way. -/
def Core.released (c : Core) : Core :=
  { c with
    run := .idle, wait := .no, cmdq := [], loopRun := none, zeroing := none, aq := [], elems := [], landing := []
    occ := ⟨0, 0, 0, 0, 0⟩, stall := 0, hostWrites := 0, hostPage := (none, 0), gatherFaults := [], tags := [], rope := none
    prevCtx := some c.task.ctx, missCp := false, missVs := false, us := 0, stopUs := 0, wdLimit := 0, preemptReq := false }

/-- Drops the trees of a context in which no member waits any more. -/
def dropTrees (s : State) : State :=
  { s with sched := { s.sched with trees := s.sched.trees.filter fun t => s.coreIds.any fun k =>
      let c := s.core k
      c.run != .idle && c.task.ctx == t.ctx && (match c.wait with | .rtree tid _ _ => tid == t.tid | _ => false) } }

/-- Withdraws the spawn that a core waits to have accepted. -/
def withdrawSpawn (s : State) (k : CoreId) : State :=
  match (s.core k).wait with
  | .spawn id => { s with sched := { s.sched with spawns := s.sched.spawns.filter fun q => q.id != id } }
  | _ => s

/-- A read that flushes host writes of a core's task has nobody waiting for it any more. -/
def dropFlush (s : State) (k : CoreId) : State :=
  { s with ports := { s.ports with reads := s.ports.reads.map fun r =>
      match r.who with | .drain j _ => if j = k then { r with who := .nobody } else r | _ => r } }

/-- A task that ends in the middle of a finalised body leaves unspecified values in the register-space bytes that no view claims, as
the body's end does (R254). -/
def freeUnclaimed (s : State) (k : CoreId) : State :=
  match (s.core k).loopRun with
  | some r => if r.zpf.isSome then { s.modCore k fun c => c.unclaimed r s.seq with seq := s.seq + 1 } else s
  | none => s

/-- Releases a core. -/
def releaseCore (s : State) (k : CoreId) : State :=
  let s := withdrawSpawn (freeUnclaimed s k) k
  let s := (s.core k).liveTags.foldl (fun s p => leaveLanes s k p.1) s
  let s := s.rename fun w => match w with | .task j _ => if j = k then .other else w | _ => w
  dropTrees (dropFlush (s.setCore k (s.core k).released) k)

/-- The record of a stop by base camp (R339, R341). -/
def Core.baseRecord (c : Core) (cause d0 d1 : Nat) : TrapRec :=
  { c.cpRecord ⟨cause, 10, d0, d1⟩ with src := 3 }

/-- Whether every copy, transform, ATOM, and gather or scatter element in service of a core has ended (R338, step 2). -/
def Core.drained (c : Core) : Bool :=
  c.liveTags.isEmpty && c.elems.isEmpty && (c.aq.all fun e => !e.begun) && c.zeroing.isNone

/-- The requests of a context that are still under way outside the card (R358). -/
def State.draining (s : State) (n : CtxId) : Bool :=
  s.ports.reads.any (·.ctx == n) || s.ports.ats.any (·.ctx == n) || s.ports.prgs.any (·.ctx == n) ||
  s.ports.peers.toList.any fun p => p.waiting.any (·.ctx == n)

/-- The causes of a context's death (R345). -/
def whyStop : Nat := 1
def whyImage : Nat := 2
def whyError : Nat := 3
def whyKill : Nat := 4

/-- Steps 1 to 4 of a context's death (R358): its cores' registers and banks take their reset values (R37). -/
def ctxDie (s : State) (n : CtxId) (why : Nat) : State :=
  if (s.ctx n).dead then s
  else
    let r : TrapRec := Core.reset.baseRecord causeDeath why 0
    let s := ringWrite s n (r.bytes 0 { Task.reset with ctx := n })
    let x := s.ctx n
    let s := s.setCtx n { x with dead := true, drain := true, why := BitVec.ofNat 8 why, sqTail := x.sqHead }
    let s := s.msix n.toNat
    let s := s.coreIds.foldl (fun s k =>
      if (s.core k).run != .idle && (s.core k).task.ctx == n then (releaseCore s k).modCore k Core.fresh else s) s
    let s := discardRecords s fun r => r.ctx == n
    let s := s.mapCores fun c => { c with held := c.held.filter fun a => a.ctx != n }
    let s := { s with sched := { s.sched with
      images := s.sched.images.filter fun m => m.ctx != n
      spawns := s.sched.spawns.filter fun q => q.r.ctx != n
      trees := s.sched.trees.filter fun t => t.ctx != n
      arrivals := s.sched.arrivals.filter fun a => a.ctx != n
      migs := s.sched.migs.filter fun m => m.ctx != n
      migCounts := s.sched.migCounts.filter fun m => m.ctx != n } }
    let s := { s with ports := { s.ports with prgs := s.ports.prgs.filter fun p => p.ctx != n || p.idx.isSome } }
    let s := s.modLaunches (fun l => l.ctx == n && l.ended.isNone) fun l => { l with phase := .cancelled, ended := some false }
    let open_ := s.sched.cairns.filter fun p => p.2.ctx == n && (p.2.state == .opened || p.2.state == .closed)
    open_.foldl (fun s p => s.modCairn (BitVec.ofNat 12 p.1) fun x => { x with state := .cancelled, flt := true }) s

/-- CTX_KILL (R358, R345): a write of kill to ctx.stat; dropped and logged before the firmware runs (R360). -/
def execCtxKill (ctx : CtxId) (st : State) : Out :=
  if st.ready readyFw then .next (ctxDie st ctx whyKill)
  else .next (refuseWrite st blkSched (some ctx) (0xC0028 + 0x40 * ctx.toNat) (at' 61 1))

/-- Clears the lane tables of a kind (R358, R367). -/
def clearTables (s : State) (p : LaneTable → Bool) : State :=
  let one (ls : Tab Lane) (x : Nat × Lane) : Tab Lane :=
    if x.2.table.any p then tabSet Lane.reset ls x.1 { x.2 with table := none } else ls
  { s with lanes := s.lanes.foldl one s.lanes }

/-- CONTEXT_DRAIN_DONE (R358, step 5). -/
def execContextDrainDone (ctx : CtxId) (st : State) : Out :=
  let x := st.ctx ctx
  if x.dead && x.drain && !st.draining ctx then
    let s := st.setCtx ctx { x with drain := false }
    let s := dropTlbs s ctx 0 (2 ^ 45)
    let s := s.modLaunches (fun l => l.ctx == ctx) fun l => { l with pins := [] }
    let s := clearTables s fun t => t.ctx == ctx
    let off (a : Aperture) : Aperture := if bits a.cfg 53 48 = ctx.toNat then { a with cfg := setFld a.cfg 63 63 0 } else a
    .next { s with ports := { s.ports with apertures := s.ports.apertures.map off } }
  else .next st

/-- STOP_WATCHDOG (R357): a stop that is not finished within wd.stop makes the context dead, a cancelled task's that waits in
RTREE too (R317). -/
def execStopWatchdog (core : CoreId) (st : State) : Out :=
  let c := st.core core
  let late := decide (max st.sched.wdStop.toNat 1 ≤ c.stopUs) && (!c.drained || c.inTree)
  match c.run with
  | .stopping _ | .cancelling => if late then .next (ctxDie st c.task.ctx whyStop) else .next st
  | _ => .next st

/-- TASK_WATCHDOG (R357): a task whose running time reaches its limit is stopped with cause 25; one that is being stopped already goes
on to that end (R338), and a cancelled one that waits in RTREE waits no more (R172, R317). -/
def execTaskWatchdog (core : CoreId) (st : State) : Out :=
  let c := st.core core
  if c.wdLimit == 0 || decide (c.us < c.wdLimit.toNat) then .next st
  else match c.run with
    | .running | .preempting => .next (takeTrap st core (c.baseRecord causeWatchdog 0 c.us))
    | .cancelling => if c.inTree then .next (dropTrees (st.setCore core { c with wait := .no })) else .next st
    | _ => .next st

end Sys2Proof.Machine
end

