-- ==== Sys2Proof/Machine/Tasks.lean ====
section
/-! DEFINITION. Tasks: their start (R21), SPAWN, JOIN, YIELD, DONE and CANCEL (R22, R147, R174, R175), the end of faulted and
cancelled tasks (R338), pre-emption and resumption (R313-R315, R346-R350, R356). -/

namespace Sys2Proof.Machine

/-! ## Queues and pops (R313, R314) -/

/-- The image of a resumption record. -/
def State.imageOf (s : State) (r : ContRec) : Option Image :=
  if r.rs then s.sched.images.find? fun m => m.addr == r.frame else none

/-- The rope mask of a rope's resumption record (R350). -/
def State.ropeRec (s : State) (r : ContRec) : Option Word64 :=
  (s.imageOf r).bind fun m => (imageRope m.bytes).map fun p => p.1

/-- The rank of a queue among those of a die (R313): lower first; lifted before unlifted; larger native level first. -/
def Queue.rank (q : Queue) (native : Nat) : Nat := q.eff * 64 + (if q.eff < native then 0 else 32) + (31 - native)

/-- Whether a launch lets cores of other dies take its tasks (R314). -/
def State.spOf (s : State) (r : ContRec) : Bool :=
  (s.launchOfTask ⟨r.ctx, r.launch, 0, 0, false, 0, 0⟩).any (·.sp)

/-- The levels of a die's queues whose head a core may take, best first: no rope's group (R350), and from another die only a
launch's own record with sp = 1. -/
def State.popLevels (s : State) (die : Nat) (foreign : Bool) : List Nat :=
  let ls := (List.range 32).filter fun p => match (s.queue die p).recs with
    | r :: _ => (s.ropeRec r).isNone && (!foreign || (!r.rs && s.spOf r))
    | [] => false
  ls.mergeSort fun a b => decide ((s.queue die a).rank a ≤ (s.queue die b).rank b)

/-- The distance of two compute dies on the ring of five (R12). -/
def ringDist (a b : Nat) : Nat := let d := max a b - min a b; min d (5 - d)

/-- The dies a core of a die looks at after its own, in order (R314). -/
def otherDies (die : Nat) : List Nat :=
  ((List.range 4).filter (· ≠ die)).mergeSort fun a b => decide (ringDist die a * 8 + a ≤ ringDist die b * 8 + b)

/-- The queue from which a core of a die pops: its die and level. -/
def State.popFrom (s : State) (die : Nat) : Option (Nat × Nat) :=
  match (List.range 32).filter (fun p => !(s.queue die p).recs.isEmpty) with
  | [] => (otherDies die).findSome? fun d => (s.popLevels d true).head?.map fun p => (d, p)
  | _ => (s.popLevels die false).head?.map fun p => (die, p)

/-- A pop counts toward the aging of a queue (R313). -/
def Queue.aged (q : Queue) (a : Nat) : Queue :=
  if q.age + 1 < a then { q with age := q.age + 1 } else { q with age := 0, eff := q.eff - 1 }

/-- Takes `k` records from the head of a queue: its level is native again, and the die's other queues age (R313). -/
def takeHead (s : State) (die level k : Nat) : State :=
  let a := s.sched.age.toNat + 1
  let q := s.queue die level
  let s := s.setQueue die level ⟨q.recs.drop k, level, 0⟩
  (List.range 32).foldl (fun s p =>
    let q := s.queue die p
    if p = level || q.recs.isEmpty then s else s.setQueue die p (q.aged a)) s

/-! ## Placement (R314) -/

/-- The union of ranges, each a base and an end, sorted by base, after the range that is being gathered. -/
def mergeFrom (a b : Nat) : List (Nat × Nat) → List (Nat × Nat)
  | [] => [(a, b)]
  | (c, d) :: t => if c ≤ b then mergeFrom a (max b d) t else (a, b) :: mergeFrom c d t

/-- The union of ranges sorted by base: no byte lies in two of its ranges. -/
def mergeRanges (rs : List (Nat × Nat)) : List (Nat × Nat) :=
  match rs with
  | [] => []
  | (a, b) :: t => mergeFrom a b t

/-- The bytes of a launch's PINNED leases that each die homes (R314). -/
def State.homedBytes (s : State) (l : Launch) (die : Nat) : Nat :=
  let rs := ((l.leases.filter fun e => !e.host).map fun e => (e.base, e.base + e.len)).mergeSort fun a b => decide (a.1 ≤ b.1)
  ((mergeRanges rs).flatMap fun r => pagesOf r.1 (r.2 - r.1)).foldl (fun n p =>
    match s.walk l.ctx p.1 with
    | some f => if pteType f.e = 2 ∧ homeDie (f.pa p.1) = die then n + p.2 else n
    | none => n) 0

/-- The records queued on a die. -/
def State.queued (s : State) (die : Nat) : Nat := ((List.range 32).map fun p => (s.queue die p).recs.length).sum

/-- The die a launch is placed on, of those that take part (R314, R360): that which homes the most bytes, and without PINNED lease bytes
that with the fewest queued records. -/
def State.place (s : State) (l : Launch) : Nat :=
  let dies := (List.range 4).filter s.dieReady
  let best (better : Nat → Nat → Bool) : Nat := dies.foldl (fun b d => if better d b then d else b) (dies.headD 0)
  if l.leases.any fun e => !e.host && decide (0 < e.len) then best fun d b => decide (s.homedBytes l b < s.homedBytes l d)
  else best fun d b => decide (s.queued d < s.queued b)

/-- The records of a die that drops out are placed again (R360). -/
def replaceRecords (s : State) (die : Nat) : State :=
  let ls := s.sched.launches.filter fun l => l.started && l.ended.isNone && l.die == die
  let s := ls.foldl (fun s l => let d := s.place l; s.modLive l.lc fun l => { l with die := d }) s
  (List.range 32).foldl (fun s p =>
    let rs := (s.queue die p).recs
    rs.foldl (fun s r =>
      let d := ((s.launchOfTask ⟨r.ctx, r.launch, 0, 0, false, 0, 0⟩).map (·.die)).getD die
      pushRecord s d r) (s.setQueue die p ⟨[], p, 0⟩)) s

/-- The records of dies that have not come up, once another has (R360, R369): `gone` says of which dies that is settled. -/
def replaceLost (s : State) (gone : Nat → Bool) : State :=
  if (List.range 4).any s.dieReady then
    (List.range 4).foldl (fun s d => if gone d && decide (0 < s.queued d) then replaceRecords s d else s) s
  else s

/-! ## Pre-emption requests (R315) -/

/-- The members of a core's rope that run its task's context in it still, or the core alone (R350): a member whose task has ended is
none of them. -/
def State.mates (s : State) (k : CoreId) : List CoreId :=
  (s.crew k).filter fun m => m == k || ((s.core m).run != .idle && (s.core m).task.ctx == (s.core k).task.ctx &&
    (s.core m).rope.map (fun r => r.mask) == (s.core k).rope.map (fun r => r.mask))

/-- A pre-emption request to every member of a core's rope (R315, R350). -/
def State.askPreempt (s : State) (k : CoreId) : State :=
  (s.mates k).foldl (fun s m => s.modCore m fun c => { c with preemptReq := true }) s

/-- Sends a die's pre-emption request, when one is due and none is outstanding (R315); none during bivouac entry (R367). -/
def requestPreempt (s : State) (die : Nat) : State :=
  let ks := (List.range 64).map (coreAt die)
  let heads := (List.range 32).filterMap fun p => if (s.queue die p).recs.isEmpty then none else some (s.queue die p).eff
  let busy := s.dieReady die && ks.all fun k => (s.core k).run != .idle
  let out := ks.any fun k => (s.core k).preemptReq || (s.core k).run == .preempting
  match heads.min? with
  | none => s
  | some e =>
    if !s.sched.pe || !busy || out || s.fleet.slpState != 0 then s
    else
      let runs := ks.filter fun k => (s.core k).run == .running
      match runs with
      | [] => s
      | k0 :: rest =>
        let k := rest.foldl (fun b k => if (s.core b).task.prio.toNat < (s.core k).task.prio.toNat then k else b) k0
        if e + s.sched.pgap.toNat ≤ (s.core k).task.prio.toNat then
          s.askPreempt k
        else s

/-- Requests of every die. -/
def State.requests (s : State) : State := (List.range 4).foldl requestPreempt s

/-! ## Task start and restore (R21, R356) -/

/-- Whether a join slot is in use: by a task, a saved task, or a joined child that names it. -/
def State.slotUsed (s : State) (n : BitVec 16) : Bool :=
  (s.coreIds.any fun k => let c := s.core k
    c.run != .idle && (c.task.slot == n || (c.task.joined && c.task.parent == n))) ||
  s.records.any fun r => (r.rs && r.slot == n) || (r.j && r.parent == n)

/-- A join slot not in use, from a number on. -/
def freeSlotNo (s : State) : Nat → BitVec 16 → BitVec 16
  | 0, n => n
  | fuel + 1, n => if s.slotUsed n then freeSlotNo s fuel (n + 1) else n

/-- The state of a core at a task's start (R21). -/
def Core.started (c : Core) (r : ContRec) (slot : BitVec 16) (pkey : Word64) (limit : BitVec 32) : Core :=
  let same := c.prevCtx == some r.ctx
  { c.fresh with
    run := .running, task := ⟨r.ctx, r.launch, r.tile, r.prio, r.j, r.parent, slot⟩
    pc := r.code, pcFrom := r.code
    g := ((Vector.replicate 32 0).set 1 r.frame).set 2 (r.tile.zeroExtend 64)
    ctxPkey := pkey, prevCtx := some r.ctx, wdLimit := limit
    scratch := if same then c.scratch else [], regs := if same then c.regs else [], dirty := if same then c.dirty else 0
    held := c.held.filter fun a => a.ctx == r.ctx }

/-- Logs the arrivals that a core drops as it takes a task (R43). -/
def logHeld (s : State) (k : CoreId) (p : Arrival → Bool) : State :=
  ((s.core k).held.filter p).foldl (fun s a => s.logFree blkSched (some a.ctx) a.bar.toNat k.toNat) s

/-- Starts the task of a record on a core (R21). -/
def startTask (s : State) (k : CoreId) (r : ContRec) : State :=
  let slot := freeSlotNo s 65536 s.sched.nextSlot
  let s := logHeld s k fun a => a.ctx != r.ctx
  let s := { s with sched := { s.sched with nextSlot := slot + 1 } }
  let x := s.ctx r.ctx
  (s.setJoinSlot slot ⟨0, 0⟩).modCore k fun c => c.started r slot x.vmPkey x.wdTask

/-- Restores a saved task on a core (R356); an image that fails its check kills the context. Its commands come after all that have been
issued meanwhile. -/
def restoreTask (s : State) (k : CoreId) (r : ContRec) (rope : Option Rope) : State :=
  match s.imageOf r with
  | none => ctxDie s r.ctx whyImage
  | some m =>
    let s := logHeld s k fun _ => true
    let c := s.core k
    let base := { c.fresh with
      run := .running, task := ⟨r.ctx, r.launch, r.tile, r.prio, r.j, r.parent, r.slot⟩, prevCtx := some r.ctx, held := []
      scratch := [], regs := [], us := r.us, wdLimit := r.limit, rope := rope }
    match m.restore base s.issued with
    | none => ctxDie s r.ctx whyImage
    | some (c, going) =>
      let s := (s.setCore k c).rename fun w =>
        match w with | .saved a i => if a = m.addr then .task k i else w | _ => w
      let s := { s with issued := s.issued + c.cmdq.length + 1 }
      let s := match going, c.cmdq with
        | true, .loop l :: rest =>
          let run := s.loopStart k l
          s.modCore k fun c => { c with loopRun := some run, cmdq := rest }
        | _, _ => s
      { s with sched := { s.sched with images := s.sched.images.filter fun x => x.addr != m.addr } }

/-- Whether a core may take a record: idle, its die taking part, and the scheduler popping (R360, R367, R369). -/
def State.mayPop (s : State) (k : CoreId) : Bool :=
  (s.core k).run == .idle && s.dieReady (dieOf k) && s.ready readySch && s.fleet.slpState == 0

/-- The scheduler's first pop after a wake request ends the time that slp.stat.wt gives (R366). -/
def State.firstPop (s : State) : State :=
  if s.fleet.slpWaking then
    { s with fleet := { s.fleet with slpWaking := false, slpWt := BitVec.ofNat 32 s.fleet.slpWakeUs } }
  else s

/-- TASK_POP (R313, R314, R21, R356). -/
def execTaskPop (core : CoreId) (st : State) : Out :=
  if !st.mayPop core then .next st
  else match st.popFrom (dieOf core) with
    | none => .next st
    | some (d, p) =>
      match (st.queue d p).recs with
      | [] => .next st
      | r :: _ =>
        let s := takeHead st d p 1
        let s := if r.rs then restoreTask s core r none else startTask s core r
        .next s.firstPop.requests

/-- The cores on which a rope's group may be restored, its lowest member on a given core (R350). -/
def State.ropeSeats (s : State) (k : CoreId) (m : Word64) : Option (List CoreId) :=
  let js := (List.range 64).filter fun j => bit m j
  let m' : Word64 := js.foldl (fun a j => a ||| BitVec.ofNat 64 (2 ^ (maskBit k + (j - js.headD 0)))) 0
  let ks := js.map fun j => coreAt (dieOf k) (maskBit k + (j - js.headD 0))
  if ropeShape m' && js.all (fun j => decide (maskBit k + (j - js.headD 0) < 64)) && ks.all s.mayPop then some ks else none

/-- The records at the head of a queue that are one rope's group: images with one mask, at rising positions of its shape (R350). -/
def State.ropeGroup (s : State) (m : Word64) : Nat → List ContRec → List (ContRec × Nat)
  | _, [] => []
  | least, r :: rs => match (s.imageOf r).bind fun x => imageRope x.bytes with
    | some (m', p) => if m' = m ∧ least ≤ p then (r, p) :: s.ropeGroup m (p + 1) rs else []
    | none => []

/-- ROPE_GROUP_RESTORE (R350): the group at the head of a queue of the die is restored, each member at its position, the first
position on this core. -/
def execRopeGroupRestore (core : CoreId) (st : State) : Out :=
  let die := dieOf core
  let fits := (List.range 32).filterMap fun p => match (st.queue die p).recs with
    | r :: _ => (st.ropeRec r).bind fun m => (st.ropeSeats core m).map fun ks => (p, m, ks)
    | [] => none
  let best := (fits.mergeSort fun a b => decide ((st.queue die a.1).rank a.1 ≤ (st.queue die b.1).rank b.1)).head?
  match best with
  | none => .next st
  | some (p, m, ks) =>
    let rs := st.ropeGroup m 0 (st.queue die p).recs
    let mask : Word64 := ks.foldl (fun a k => a ||| BitVec.ofNat 64 (2 ^ maskBit k)) 0
    let s := takeHead st die p rs.length
    let s := rs.foldl (fun s x => restoreTask s (ks.getD x.2 core) x.1 (some ⟨mask, false⟩)) s
    .next s.firstPop.requests

/-! ## SPAWN and JOIN (R174, R175) -/

/-- The records and images that the firmware's reserved memory holds at once (R312, R320; log 18). -/
def recordRoom : Nat := 48 * 2 ^ 28 / 32

/-- The records there is room for. -/
def State.roomLeft (s : State) : Nat := recordRoom - s.records.length

/-- The level at which a context's record runs (R315). -/
def State.capped (s : State) (n : CtxId) (p : BitVec 5) : BitVec 5 := if p.toNat < (s.ctx n).pcap.toNat then (s.ctx n).pcap else p

/-- Whether an address is a packet boundary of a launch's control region (R174). -/
def State.spawnAt (s : State) (k : CoreId) (a : Nat) : Bool :=
  match s.launchOf k with
  | some l => packetOf l.cbase (match l.zpf with | some z => z.ctl.length | none => l.clen) a
  | none => false

/-- SPAWN (R174): the record goes to base camp, and the CP waits until it is accepted. Its fetch trap is checked before its spawn word:
the order is the model's choice (log 81). -/
def execSpawn (a b c : BitVec 5) (st : State) : Out :=
  let k := st.me
  let w := k.gr c
  let code := k.gr a
  if !st.spawnAt st.cur code.toNat then .next (cpTrap st ⟨causeFetch, 0, code.toNat, k.pc.toNat⟩)
  else if bits w 57 48 ≠ 0 then .next (cpTrap st (fieldTrap 10))
  else
    let r : ContRec := {
      prio := st.capped k.task.ctx (BitVec.ofNat 5 (bits w 63 59)), j := bit w 58, rs := false, code := code, frame := k.gr b
      tile := BitVec.ofNat 48 (bits w 47 0), launch := k.task.launch, parent := if bit w 58 then k.task.slot else 0
      ctx := k.task.ctx, slot := 0, us := 0, limit := 0 }
    let id := st.sched.nextSpawn
    let s := { st with sched := { st.sched with spawns := st.sched.spawns ++ ([⟨id, r⟩] : List SpawnReq), nextSpawn := id + 1 } }
    .next (s.setMe (k.waits (.spawn id)))

/-- SPAWN_ACCEPT (R174): base camp takes the record once it has room; the cairns expect one more first. -/
def execSpawnAccept (core : CoreId) (st : State) : Out :=
  let c := st.core core
  match c.wait with
  | .spawn id =>
    (match st.sched.spawns.find? (·.id == id), st.launchOf core with
     | some q, some l =>
       if st.roomLeft = 0 || !c.cpRuns then .next st
       else
         let s := if l.isCancelled then st
           else l.cairns.foldl (fun s c => s.modCairn c fun x => { x with exp := x.exp + 1 }) st
         let s := if q.r.j then
             let x := s.joinSlot c.task.slot
             s.setJoinSlot c.task.slot { x with count := x.count + 1 }
           else s
         let s := { s with sched := { s.sched with spawns := s.sched.spawns.filter fun x => x.id != id } }
         let s := pushRecord s l.die q.r
         .next ((s.setCore core (c.release 4).returned).requests)
     | _, _ => .next st)
  | _ => .next st

/-- The return of a JOIN: the joined children that faulted or were cancelled, whose number is cleared (R175). -/
def joinReturn (s : State) (k : CoreId) (a : BitVec 5) : State :=
  let c := s.core k
  let x := s.joinSlot c.task.slot
  (s.setJoinSlot c.task.slot { x with failed := 0 }).setCore k (c.setG a (x.failed.zeroExtend 64)).returned

/-- JOIN (R175). -/
def execJoin (a : BitVec 5) (st : State) : Out :=
  let s := st.setMe (st.me.waits (.join a))
  .next (if (st.joinSlot st.me.task.slot).count = 0 then joinReturn s st.cur a else s)

/-- JOIN_RETURN (R175). -/
def execJoinReturn (core : CoreId) (st : State) : Out :=
  let c := st.core core
  match c.wait with
  | .join a => if c.cpRuns && (st.joinSlot c.task.slot).count == 0 then .next (joinReturn st core a) else .next st
  | _ => .next st

/-! ## DONE and CANCEL (R22, R175) -/

/-- Whether DONE may perform (R22). -/
def Core.mayEnd (c : Core) : Bool :=
  c.cmdq.isEmpty && c.loopRun.isNone && c.landing.isEmpty && c.drained && c.aq.isEmpty && c.gatherFaults.isEmpty

/-- DONE performs (R22, R306, R316): the task is counted, a joining parent told, and the core released; its registers stand until the
next task's start (R21). -/
def donePerform (s : State) (k : CoreId) : State :=
  let t := (s.core k).task
  let s := releaseCore (s.modCore k fun c => c.release 4) k
  let s := joinEnd (s.count 5) t.joined t.parent false
  countDone s t

/-- DONE (R22, R171, R175): it performs at once, or waits, for its notices to be written too (R344). -/
def execDone (st : State) : Out :=
  if st.me.rope.isSome then .next (cpTrap st ropeTrap)
  else
    let s := st.setMe (st.me.waits .done)
    .next (if st.me.mayEnd && !st.ringBusy st.cur then donePerform s st.cur else s)

/-- DONE_PERFORM (R22, R306). -/
def execDonePerform (core : CoreId) (st : State) : Out :=
  let c := st.core core
  if c.wait == .done && c.cpRuns && c.mayEnd && !st.ringBusy core then .next (donePerform st core) else .next st

/-- CANCEL (R175, R317): the issuing task is itself cancelled. -/
def execCancel (a : BitVec 5) (st : State) : Out :=
  let c := st.me
  let v := (c.gr a).toNat
  if 3 < v then .next (cpTrap st (fieldTrap 20))
  else
    let s := match st.launchOf st.cur with
      | some l => cancelCairn st (l.cairnAt (BitVec.ofNat 2 v))
      | none => st
    .next (s.modCore st.cur fun c => { c.cancelTask with cmdIdx := c.cmdIdx + 1 })

/-! ## Tasks that end faulted or cancelled (R338, R316, R317) -/

/-- The record of R316 is applied and the core released (R338, steps 4 and 5). -/
def endFaulted (s : State) (k : CoreId) : State :=
  let t := (s.core k).task
  (countFault (joinEnd (releaseCore s k) t.joined t.parent true) t).requests

/-- TASK_FAULT_END (R338): once the engines have drained, the record is written; once it stands, it is applied and the core released.
A task in RTREE is cancelled only when its result has come (R317). -/
def execTaskFaultEnd (core : CoreId) (st : State) : Out :=
  let c := st.core core
  match c.run with
  | .stopping r =>
    if !c.drained then .next st
    else
      let s := (writeRecord st core r).modCore core fun c => { c with run := .recorded }
      .next (if s.ringBusy core then s else endFaulted s core)
  | .recorded => .next (if st.ringBusy core then st else endFaulted st core)
  | .cancelling =>
    if !c.drained || c.inTree then .next st
    else
      let s := releaseCore st core
      .next (joinEnd s c.task.joined c.task.parent true)
  | _ => .next st

/-! ## Pre-emption (R346-R349) -/

/-- Whether the control stream is at a pre-emption point: every boundary and every wait but RTREE's (R346, R172). -/
def Core.atPoint (c : Core) : Bool := c.run == .running && !(match c.wait with | .rtree _ _ _ => true | _ => false)

/-- Stops the control stream of a core for a pre-emption: a wait is executed again on resume (R346), its command counted then. -/
def preemptCore (s : State) (k : CoreId) : State :=
  (withdrawSpawn s k).modCore k fun c =>
    { c with
      run := .preempting, cmdIdx := if c.wait.counted then c.cmdIdx - 1 else c.cmdIdx, wait := .no, preemptReq := false, rope := c.rope.map fun (r : Rope) => { r with rejoined := false } }

/-- Whether a task may be pre-empted: not during bivouac entry (R367). -/
def State.mayPreempt (s : State) : Bool := s.fleet.slpState != 1

/-- PREEMPTION (R346, R347, R350): the request is taken at a pre-emption point, by a rope as a whole. -/
def execPreemption (core : CoreId) (st : State) : Out :=
  let crew := st.mates core
  if st.mayPreempt && (st.core core).preemptReq && crew.all fun k => (st.core k).atPoint then .next (crew.foldl preemptCore st) else .next st

/-- YIELD (R147): a task that is to be pre-empted stops here, with its rope (R350); where another member is not at a pre-emption point
yet, it waits for it. -/
def execYield (st : State) : Out :=
  let c := st.me
  let ready := (List.range 32).any fun p =>
    let q := st.queue (dieOf st.cur) p
    !q.recs.isEmpty && decide (q.eff < c.task.prio.toNat)
  let s := st.setMe (c.adv 1)
  if !(c.preemptReq || ready) || !st.mayPreempt then .next s
  else if (s.mates s.cur).all fun k => (s.core k).atPoint then .next ((s.mates s.cur).foldl preemptCore s)
  else .next ((s.askPreempt s.cur).modCore s.cur fun c => { c with wait := .yield })

/-- Whether a core's save may be written (R347): the streams have stopped and the engines ended. -/
def Core.saveReady (c : Core) : Bool := c.run == .preempting && c.vsStopped && c.drained

/-- Writes the image of one core and releases it; the record it leaves. -/
def saveOne (s : State) (k : CoreId) : State × ContRec :=
  let c := s.core k
  let t := c.task
  let addr : Word64 := BitVec.ofNat 64 s.sched.nextImage
  let die := ((s.launchOf k).map (·.die)).getD (dieOf k)
  let m : Image := {
    addr := addr, die := die, ctx := t.ctx, bytes := c.image k (s.joinSlot t.slot), remap := c.remap, bars := c.bars
    cmds := c.cmdEntries.map fun x => match x.1 with | .loop l => (l.cmd, l.pkey) | .mode _ _ _ n _ => (n, 0)
    land := c.landing.map Landing.own, pcFrom := c.pcFrom, hostWrites := c.hostWrites, hostPage := c.hostPage }
  let r : ContRec := {
    prio := t.prio, j := t.joined, rs := true, code := c.pc, frame := addr, tile := t.tile, launch := t.launch
    parent := t.parent, ctx := t.ctx, slot := t.slot, us := c.us, limit := c.wdLimit }
  let s := { s with sched := { s.sched with images := s.sched.images ++ [m], nextImage := s.sched.nextImage + 1 } }
  let s := s.rename fun w => match w with | .task j i => if j = k then .saved addr i else w | _ => w
  (releaseCore s k, r)

/-- SAVE_IMAGE_WRITE (R347, R350, R351): images are written and the resumption records queued at the head of their level; a
gather fault found meanwhile ends the task instead (R338). -/
def execSaveImageWrite (core : CoreId) (st : State) : Out :=
  let crew := st.mates core
  if !(crew.all fun k => (st.core k).saveReady) then .next st
  else match gatherRaise st crew (crew.headD core) with
    | some s => .next s
    | none =>
      let die := ((st.launchOf core).map (·.die)).getD (dieOf core)
      let level := (st.core (crew.headD core)).task.prio.toNat
      let p := crew.foldl (fun (p : State × List ContRec) k =>
        let r := saveOne p.1 k
        (r.1, p.2 ++ [r.2])) (st, [])
      .next ((pushHead p.1 die level p.2).requests)

end Sys2Proof.Machine
end

