-- ==== Sys2Proof/Machine/Sched.lean ====
section
/-! DEFINITION. Submission queues, launch records and expansion (R287, R288, R307-R310, R253). -/

namespace Sys2Proof.Machine

/-! ## Submission queues (R287, R288) -/

/-- The slots of a context's submission queue. -/
def Ctx.sqSlots (x : Ctx) : Nat := 2 ^ bits x.sqCfg 4 0

/-- The register offset of a context's block (R285). -/
def ctxOff (n : CtxId) (o : Nat) : Nat := 0x10000 + 0x100 * n.toNat + o

/-- Stops a submission queue (R288): vector 64. -/
def stopQueue (s : State) (n : CtxId) (code : Nat) : State :=
  (s.setCtx n { s.ctx n with sqStop := true, sqCode := BitVec.ofNat 8 code }).msix 64

/-- Writing 1 to stop (R288): records not read are discarded. -/
def stopClear (s : State) (n : CtxId) : State :=
  let x := s.ctx n
  s.setCtx n { x with sqStop := false, sqCode := 0, sqTail := x.sqHead }

/-- SQ_STOP_CLEAR (R288); dropped and logged before the scheduler is ready (R360). -/
def execSqStopClear (ctx : CtxId) (st : State) : Out :=
  if st.ready readySch then .next (stopClear st ctx)
  else .next (refuseWrite st blkHost (some ctx) (ctxOff ctx 0x28) (at' 63 1))

/-! ## Launch records (R307, R308) -/

/-- Whether the reserved fields of a record are zero (R307). -/
def recordReserved (w : Nat → Nat) : Bool :=
  [(0, 63, 57), (1, 63, 57), (3, 63, 32), (5, 63, 48), (6, 59, 59), (6, 56, 5), (7, 31, 19), (7, 15, 10), (8, 63, 32),
   (9, 63, 60), (9, 47, 44), (9, 31, 28), (9, 15, 12), (10, 63, 57), (11, 63, 57), (12, 63, 9), (13, 63, 0), (14, 63, 0),
   (15, 63, 0)].all fun p => fld (w p.1) p.2.1 p.2.2 == 0

/-- The predecessor fields of a record (R307). -/
def recordDeps (w : Nat → Nat) : List Nat := [fld (w 7) 47 32, fld (w 7) 63 48, fld (w 8) 15 0, fld (w 8) 31 16]

/-- Whether a record's fields lie within their limits (R307). -/
def recordLimits (w : Nat → Nat) : Bool :=
  let zpf := fld (w 6) 57 57 == 1
  let clen := fld (w 2) 31 0
  let vlen := fld (w 2) 63 32
  let ex := fld (w 5) 15 0
  let ey := fld (w 5) 31 16
  let ez := fld (w 5) 47 32
  let ndep := fld (w 7) 18 16
  w 0 % 64 == 0 && clen % 12 == 0 && decide (12 ≤ clen) && decide (clen ≤ 16777212) &&
  vlen % 12 == 0 && decide (vlen ≤ 16777212) && (zpf || (w 1 % 64 == 0 && ((vlen == 0) == (w 1 == 0)))) &&
  fld (w 3) 31 0 % 12 == 0 && decide (fld (w 3) 31 0 < clen) &&
  decide (1 ≤ ex) && decide (1 ≤ ey) && decide (1 ≤ ez) && decide (ex * ey * ez ≤ 2 ^ 40) &&
  (fld (w 6) 60 60 == 0 || fld (w 6) 61 61 == 1) && (fld (w 6) 61 61 == 0 || fld (w 6) 62 62 == 1) &&
  decide (ndep ≤ 4) && ((recordDeps w).drop ndep).all (· == 0) &&
  w 10 % 8 == 0 && (fld (w 6) 63 63 == 1 || w 10 == 0) && w 11 % 16 == 0 && decide (fld (w 12) 8 0 ≤ 256)

/-- A lease entry (R309). -/
def leaseAt (b : List Byte) (i : Nat) : Lease :=
  let w0 := natAt b (16 * i) 8
  ⟨fld w0 62 62 == 1, fld w0 63 63 == 1, fld w0 61 61 == 1, fld w0 56 0, fld (natAt b (16 * i + 8) 8) 47 0⟩

/-- Whether a lease entry is valid (R309): `pv` is ctx.cfg.pv. -/
def leaseOk (b : List Byte) (pv : Bool) (i : Nat) : Bool :=
  let w0 := natAt b (16 * i) 8
  let w1 := natAt b (16 * i + 8) 8
  fld w0 63 62 != 0 && fld w0 60 57 == 0 && fld w1 63 48 == 0 && w1 != 0 && (fld w0 61 61 == 0 || pv) &&
  canonical (fld w0 56 0 : Nat) w1

/-- The cairns a record names: launch, graph, phase, job. -/
def recordCairns (w : Nat → Nat) : List (BitVec 12) :=
  [BitVec.ofNat 12 (fld (w 9) 11 0), BitVec.ofNat 12 (fld (w 9) 27 16), BitVec.ofNat 12 (fld (w 9) 43 32),
   BitVec.ofNat 12 (fld (w 9) 59 48)]

/-- Whether a cairn is open for a context at a level. -/
def Cairn.openFor (x : Cairn) (n : CtxId) (level : Nat) : Bool := x.state == .opened && x.ctx == n && x.level.toNat == level

/-- The launch of a record, with its lease entries. -/
def launchOfRecord (n : CtxId) (w : Nat → Nat) (ls : List Lease) : Launch where
  ctx := n
  cbase := fld (w 0) 56 0
  clen := fld (w 2) 31 0
  vbase := fld (w 1) 56 0
  vlen := fld (w 2) 63 32
  entry := fld (w 3) 31 0
  frame := BitVec.ofNat 64 (w 4)
  extent := BitVec.ofNat 48 (fld (w 5) 47 0)
  cond := fld (w 6) 63 63 == 1
  cg := fld (w 6) 62 62 == 1
  cp := fld (w 6) 61 61 == 1
  cj := fld (w 6) 60 60 == 1
  sp := fld (w 6) 58 58 == 1
  isZpf := fld (w 6) 57 57 == 1
  prio := BitVec.ofNat 5 (fld (w 6) 4 0)
  node := fld (w 7) 9 0
  deps := (recordDeps w).take (fld (w 7) 18 16)
  lc := (recordCairns w).getD 0 0
  gc := (recordCairns w).getD 1 0
  pc := (recordCairns w).getD 2 0
  jc := (recordCairns w).getD 3 0
  pred := fld (w 10) 56 0
  leases := ls
  join := fld (w 7) 18 16
  phase := .waiting
  lid := 0
  die := 0
  pins := []
  zpf := none
  held := false
  started := false
  ended := none
  past := []

/-- The earlier records of a launch's graph. -/
def State.earlier (s : State) (l : Launch) : List Launch :=
  s.sched.launches.filter fun x => x.ctx == l.ctx && x.gc == l.gc && x.now x.gc

/-- The checks of R308 on a record, its lease table read or not. -/
def recordOk (s : State) (n : CtxId) (w : Nat → Nat) (table : Option (List Byte)) (l : Launch) : Bool :=
  let before := s.earlier l
  recordReserved w && recordLimits w &&
  ((recordCairns w).zipIdx.all fun p => (s.cairn p.1).openFor n p.2) &&
  (((recordCairns w).drop 1).all fun c => !(s.cairn c).closing) &&
  (before.all fun x => decide (x.node < l.node)) &&
  (l.deps.all fun d => before.any fun x => x.node == d) &&
  (!l.cond || l.leases.any fun e => !e.host && decide (e.base ≤ l.pred) && decide (l.pred + 8 ≤ e.base + e.len)) &&
  (match table with
   | some b => (List.range (fld (w 12) 8 0)).all (leaseOk b (s.ctx n).pv)
   | none => false)

/-- Marks the cairns of the context that a record which has been read names, rightly or not (R304). -/
def nameCairns (s : State) (n : CtxId) (w : Nat → Nat) : State :=
  (recordCairns w).foldl (fun s c => s.modCairn c fun x =>
    if x.ctx == n && x.state != .free then { x with named := true } else x) s

/-- Marks the cairns a record closes (R305); a name that fails R308 closes nothing. -/
def markCairns (s : State) (n : CtxId) (l : Launch) : State :=
  [(l.gc, 1, l.cg), (l.pc, 2, l.cp), (l.jc, 3, l.cj)].foldl (fun s p =>
    s.modCairn p.1 fun x => if x.openFor n p.2.1 && !x.closing then { x with closing := p.2.2 } else x) s

/-- Sets flt in the graph, phase and job cairns of the context that a failed record names (R308). -/
def faultAbove (s : State) (n : CtxId) (l : Launch) : State :=
  [l.gc, l.pc, l.jc].foldl (fun s c =>
    s.modCairn c fun x => if x.ctx == n && x.state != .free then { x with flt := true } else x) s

/-- What base camp does with a record that it has read (R308, R310, R317). -/
def takeRecord (s : State) (n : CtxId) (b : List Byte) : State :=
  let w (i : Nat) : Nat := natAt b (8 * i) 8
  let lc := (recordCairns w).getD 0 0
  let twice := (s.cairn lc).named || (s.live lc).isSome
  let s := nameCairns s n w
  let gone (c : BitVec 12) : Bool := let x := s.cairn c; x.ctx == n && (x.state == .cancelled || (x.cancel && x.state != .free))
  if (recordCairns w).any gone then s
  else if !(s.cairn lc).openFor n 0 || twice then s.logFree blkSched (some n) lc.toNat 0
  else
    let len := 16 * min (fld (w 12) 8 0) 256
    let read := if len = 0 then some ([], s) else hxRead s n (fld (w 11) 56 0) len
    let table := read.map (·.1)
    let s := (read.map (·.2)).getD (s.walkMarks n (fld (w 11) 56 0) len false)
    let l := launchOfRecord n w ((List.range (len / 16)).map (leaseAt (table.getD [])))
    let ok := recordOk s n w table l
    let pred (d : Nat) : Option Launch := nodeOf s.sched.launches n l.gc d
    let s := markCairns s n l
    let put (s : State) (l : Launch) : State := { s with sched := { s.sched with launches := s.sched.launches ++ [l] } }
    if !ok then
      let s := put s { l with phase := .failed, join := 1 }
      let s := s.modCairn lc fun x => { x with flt := true, cause := 1, state := .closed }
      (faultAbove s n l).sweep
    else
      let met := (l.deps.filter fun d => (pred d).any fun x => x.ended == some true).length
      let lost := l.deps.any fun d => (pred d).any fun x => x.ended == some false || x.isCancelled
      let s := put s { l with join := l.join - met }
      (if lost then failLaunch s lc 5 else s).sweep

/-- Whether the page of an address is homed on memory that is not ready yet (R360). -/
def State.awaitsMemory (s : State) (n : CtxId) (va : Nat) : Bool :=
  (s.walk n va).isNone &&
    (walkFrom (BitVec.allOnes 16) s.dram 4 (bits (s.ctx n).vmRoot 38 12 * 2 ^ 12) va).any fun f => pteType f.e == 2

/-- SUBMISSION_READ (R288): base camp reads the record at head, or stops the queue with code 3. -/
def execSubmissionRead (ctx : CtxId) (st : State) : Out :=
  let x := st.ctx ctx
  let a := bits x.sqBase 56 12 * 4096 + 128 * (x.sqHead.toNat % x.sqSlots)
  if !x.en || x.dead || x.sqStop || x.sqHead == x.sqTail || !st.ready readySch || st.asleep ||
      st.awaitsMemory ctx a then .next st
  else match hxRead st ctx a 128 with
    | none => .next (stopQueue (st.walkMarks ctx a 128 false) ctx 3)
    | some (b, s) => .next (takeRecord (s.setCtx ctx { s.ctx ctx with sqHead := x.sqHead + 1 }) ctx b)

/-! ## Finalisation (R253, R255) -/

/-- FINALISE (R253): the container of a resident launch is finalised or refused. -/
def execFinalise (lc : BitVec 12) (st : State) : Out :=
  match st.live lc with
  | none => .next st
  | some l =>
    if !l.isZpf || !l.isResident || l.isFinalised || !st.ready readyFin || st.asleep then .next st
    else match hxRead st l.ctx l.cbase l.clen with
      | none => .next (failLaunch (st.walkMarks l.ctx l.cbase l.clen false) lc 3).sweep
      | some (b, s) => match finaliseZpf b s.fw.ver with
        | none => .next (failLaunch s lc 3).sweep
        | some z =>
          let s := s.modLive lc fun l => { l with
            zpf := some z, cbase := (Config.zpfBase b s.fw.ver).toNat, clen := z.ctl.length
            phase := match l.phase with | .residency i k _ => .residency i k true | p => p }
          .next { s with sched := { s.sched with zpfCache := (s.sched.zpfCache ++ [(sha384 b, s.fw.ver)]).dedup } }

/-! ## Expansion (R310) -/

/-- The tile coordinate of a number in ascending order (R310). -/
def tileOf (extent : BitVec 48) (i : Nat) : BitVec 48 :=
  let ex := bits extent 15 0
  let ey := bits extent 31 16
  BitVec.ofNat 48 (at' 32 (i / (ex * ey)) + at' 16 (i / ex % ey) + i % ex)

/-- The tiles of a launch. -/
def tileCount (extent : BitVec 48) : Nat := bits extent 15 0 * bits extent 31 16 * bits extent 47 32

/-- The record of a tile (R312). -/
def tileRecord (s : State) (l : Launch) (i : Nat) : ContRec where
  prio := s.capped l.ctx l.prio
  j := false
  rs := false
  code := BitVec.ofNat 64 (l.cbase + l.entry)
  frame := l.frame
  tile := tileOf l.extent i
  launch := l.lid
  parent := 0
  ctx := l.ctx
  slot := 0
  us := 0
  limit := 0

/-- Appends the records of an expanded launch for which there is room (R310, R312). -/
def appendTiles (s : State) (lc : BitVec 12) : State :=
  match s.live lc with
  | none => s
  | some l =>
    match l.phase with
    | .expanding next =>
      let total := tileCount l.extent
      let n := min s.roomLeft (total - next)
      let s := ((List.range n).map (next + ·)).foldl (fun s i => pushRecord s l.die (tileRecord s l i)) s
      (s.modLive lc fun l => { l with phase := if total ≤ next + n then .expanded else .expanding (next + n) }).requests
    | _ => s

/-- A launch that is resident and finalised is expanded (R310): its identifier stands, exp of its four cairns rises in one step, and its
launch cairn closes. -/
def expandLaunch (s : State) (l : Launch) : State :=
  let die := s.place l
  let s := s.modLive l.lc fun l => { l with started := true, die := die, phase := .expanding 0 }
  let s := l.cairns.foldl (fun s c => s.modCairn c fun x => { x with exp := x.exp + BitVec.ofNat 48 (tileCount l.extent) }) s
  s.modCairn l.lc fun x => { x with state := .closed }

/-- LAUNCH_EXPANSION (R310): what waits for frames and migrations goes on, and a launch that is ready is expanded, as far as
there is room for its records. -/
def execLaunchExpansion (lc : BitVec 12) (st : State) : Out :=
  let s := st.progress
  match s.live lc with
  | none => .next s
  | some l =>
    let s := if l.isResident && l.isFinalised && !s.isHeld l && !s.asleep then expandLaunch s l else s
    .next (appendTiles s lc).sweep

end Sys2Proof.Machine
end

