-- ==== Sys2Proof/Machine/VmRows.lean ====
section
/-! DEFINITION. The translation unit's commands and frame lists (R327, R330, R333, R335). -/

namespace Sys2Proof.Machine

/-- The register offset of vm.cmd (R327). -/
def vmCmdOff : Nat := 0x81000

/-- The first page of vm.base. -/
def Vm.page (v : Vm) : Nat := bits v.base 56 12

/-! ## Writes to vm.cmd -/

/-- Starts the command that vm.cmd names (R327): a bad range or op ends it at once; an invalidate takes step 1 of R330. -/
def vmStart (s : State) : State :=
  let v := s.vm
  let n := v.npg.toNat
  if v.op = 3 || n = 0 || !canonical ((v.page * 4096 : Nat) : Int) (n * 4096) then { s with vm := { v with st := 4 } }
  else
    let lo := v.page
    let hi := v.page + n - 1
    if v.op = 0 then
      let users := s.usersOf v.ctx lo hi
      let s := dropTlbs s v.ctx lo hi
      { s with vm := { s.vm with busy := some ⟨0, v.ctx, lo, hi, users, none, none, none⟩ } }
    else { s with vm := { v with busy := some ⟨v.op, v.ctx, lo, hi, [], none, none, none⟩ } }

/-- A write to vm.cmd (R327): dropped and logged before the firmware runs (R360), and with go = 1 while busy = 1. -/
def vmCmdWrite (s : State) (v : Word64) : State :=
  let n : CtxId := BitVec.ofNat 6 (bits v 61 56)
  if !s.ready readyFw || (bit v 55 && s.vm.busy.isSome) then refuseWrite s blkTrans (some n) vmCmdOff v.toNat
  else
    let s := { s with vm := { s.vm with op := BitVec.ofNat 2 (bits v 63 62), ctx := n } }
    if bit v 55 then vmStart s else s

/-- The value that starts an operation by a write of vm.cmd. -/
def vmGo (v : Word64) (op : Nat) : Word64 := setFld (setFld v 63 62 op) 55 55 1

/-! ## Page-out (R333) -/

/-- Stops a page command with a status. -/
def vmStop (s : State) (r : VmRun) (st : Nat) : State :=
  { s with vm := { s.vm with busy := some { r with st := some (BitVec.ofNat 3 st) } } }

/-- Goes on with a page command. -/
def vmGoOn (s : State) (r : VmRun) : State := { s with vm := { s.vm with busy := some r } }

/-- Whether a page lies in a region under migration. -/
def State.migrating (s : State) (n : CtxId) (vpn : Nat) : Bool :=
  s.sched.migs.any fun m => m.ctx == n && decide (m.vpn ≤ vpn) && decide (vpn < m.vpn + 512)

/-- Copies the page of a level-0 device leaf into a free slot (R333). -/
def pageOut (s : State) (r : VmRun) (f : Found) : State :=
  match s.freeSlot with
  | none => vmStop s r 3
  | some slot =>
    let fr := pteAddr f.e / 4096
    let s := { s with seq := s.seq + 1 }
    let s := s.setSlot slot (some ⟨false, r.ctx, r.lo, s.frameBytes fr, s.framePoison fr⟩)
    vmGoOn s { r with taken := some (slot, f.ea, f.e) }

/-- Replaces the leaf of a page that has been copied, if it still has the value that was read, and invalidates the page; else the
command stops and the slot is free again (R333). -/
def pageOutReplace (s : State) (r : VmRun) (slot ea e : Nat) : State :=
  if memNat s.dram ea 8 ≠ e then vmStop (s.setSlot slot none) { r with taken := none } 2
  else
    let users := s.usersOf r.ctx r.lo r.lo
    let s := s.setPte ea (leafWith 3 (homeDie (pteAddr e) * 2 ^ 31 + slot) e)
    vmGoOn (dropTlbs s r.ctx r.lo r.lo) { r with users := users, frame := some (pteAddr e / 4096), taken := none }

/-- One step of a page-out: the next page is copied, its leaf is replaced, or its frame returned once nothing uses it (R327). -/
def pageOutStep (s : State) (r : VmRun) : State :=
  match r.frame, r.taken with
  | some fr, _ =>
    if (r.users.any fun u => s.stillUses u) || decide (frameListMax ≤ s.vm.ret.length) then s
    else vmGoOn (returnFrame s fr) { r with frame := none, users := [], lo := r.lo + 1 }
  | none, some (slot, ea, e) => if s.asleep then s else pageOutReplace s r slot ea e
  | none, none =>
    if decide (r.hi < r.lo) || !s.ready readyFlash || s.asleep then s
    else match s.walk r.ctx (r.lo * 4096) with
      | none => vmStop s r 2
      | some f =>
        if pteType f.e = 3 then vmGoOn s { r with lo := r.lo + 1 }
        else if pteType f.e ≠ 2 || f.lvl ≠ 0 then vmStop s r 2
        else if s.pinned r.ctx r.lo || s.migrating r.ctx r.lo then vmStop s r 1
        else pageOut s r f

/-! ## Page-in (R335) -/

/-- One step of a page-in: the next page. A slot the NAND has lost stops it with a status the manual does not give (log 4). -/
def pageInStep (s : State) (r : VmRun) : State :=
  if r.hi < r.lo || s.asleep then s
  else match s.walk r.ctx (r.lo * 4096) with
    | none => vmStop s r 2
    | some f =>
      if pteType f.e = 2 then vmGoOn s { r with lo := r.lo + 1 }
      else if pteType f.e ≠ 3 then vmStop s r 2
      else match pageIn s r.ctx r.lo f with
        | .wait => s
        | .lost => { vmStop s r (Config.freeNat s.seq 9) with seq := s.seq + 1 }
        | .done s => vmGoOn s { r with lo := r.lo + 1 }

/-- One step of the running page command. -/
def vmStep (s : State) : State :=
  match s.vm.busy with
  | some r =>
    if r.st.isSome then s
    else if r.op = 1 then pageOutStep s r
    else if r.op = 2 then pageInStep s r
    else s
  | none => s

/-- Whether some page-in waits for a frame, the running command's or a launch's (R327, R335). -/
def State.vmStarved (s : State) : Bool :=
  (s.residing.any s.launchStarved) ||
  match s.vm.busy with
  | some r => r.op == 2 && r.st.isNone && decide (r.lo ≤ r.hi) && s.ready readyFlash &&
      (match s.walk r.ctx (r.lo * 4096) with
       | some f => pteType f.e == 3 && (s.freeList (pteDie f.e)).isEmpty
       | none => false)
  | none => false

/-! ## The rows -/

/-- VM_INVALIDATE (R330): a write of vm.cmd with op 0 and go, or a step of the one that runs, which only waits. -/
def execVmInvalidate (cmd : Option Word64) (st : State) : Out :=
  match cmd with
  | some v => .next (vmCmdWrite st (vmGo v 0))
  | none => .next st

/-- VM_PAGE_OUT (R333): a write of vm.cmd with op 1 and go, or a step of the one that runs. -/
def execVmPageOut (cmd : Option Word64) (st : State) : Out :=
  match cmd with
  | some v => .next (vmCmdWrite st (vmGo v 1))
  | none => .next (if st.vm.busy.any fun r => r.op == 1 then vmStep st else st)

/-- VM_PAGE_IN (R335): a write of vm.cmd with op 2 and go, or a step of the one that runs. -/
def execVmPageIn (cmd : Option Word64) (st : State) : Out :=
  match cmd with
  | some v => .next (vmCmdWrite st (vmGo v 2))
  | none => .next (if st.vm.busy.any fun r => r.op == 2 then vmStep st else st)

/-- VM_COMMAND_DONE (R327, R330): a command that has finished or stopped ends; after a stop the registers name the pages not
handled. -/
def execVmCommandDone (st : State) : Out :=
  match st.vm.busy with
  | none => .next st
  | some r =>
    match r.st with
    | some e => .next { st with vm := { st.vm with
        busy := none, st := e, base := BitVec.ofNat 64 (r.lo * 4096), npg := BitVec.ofNat 32 (r.hi + 1 - r.lo) } }
    | none =>
      let ended := if r.op = 0 then !(r.users.any fun u => st.stillUses u) else decide (r.hi < r.lo) && r.frame.isNone
      .next (if ended then { st with vm := { st.vm with busy := none, st := 0 } } else st)

/-- Whether a die's free list takes a frame (R327, R360). -/
def State.takesFrame (s : State) (die : Nat) (fr : Nat) : Bool :=
  homeDie (fr * 4096) == die && !frameRefused s.fw.ready (fr * 4096) && decide ((s.freeList die).length < frameListMax)

/-- VM_FREE_PUSH (R327): a frame joins a die's free list, and what waited for it goes on; a refused one is dropped and logged. -/
def execVmFreePush (die : BitVec 2) (v : Word64) (st : State) : Out :=
  let fr := bits v 38 12
  if !st.ready readyFw || !st.takesFrame die.toNat fr then
    .next (refuseWrite st blkTrans none (0x81020 + 8 * die.toNat) v.toNat)
  else
    let s := { st with vm := { st.vm with free := tabSet [] st.vm.free die.toNat (st.freeList die.toNat ++ [fr]) } }
    .next (vmStep s.progress)

/-- What a read of vm.ret returns, and the state it leaves (R327): a frame popped, which of them is open (log 4); what waited
for room goes on. -/
def retRead (s : State) : Nat × State :=
  let starved := at' 62 (ofBool s.vmStarved)
  match pick s.seq 10 s.vm.ret with
  | none => (starved, s)
  | some fr =>
    let s := { s with vm := { s.vm with ret := s.vm.ret.erase fr }, seq := s.seq + 1 }
    (at' 63 1 + starved + at' 12 fr, vmStep (unholdFrame s).progress)

/-- VM_RET_READ (R327): a read of vm.ret; it reads as zero before the firmware runs (R360). -/
def execVmRetRead (st : State) : Out :=
  let r := if st.ready readyFw then retRead st else (0, st)
  .next (r.2.send (.readDone (toBytes 8 r.1) false))

end Sys2Proof.Machine
end

