-- ==== Sys2Proof/Machine/HostRows.lean ====
section
/-! DEFINITION. What the host does to the card: contexts (R286), the doorbell (R288), apertures and BAR2 (R290, R291), and the
answers to the card's requests (R292-R295). -/

namespace Sys2Proof.Machine

/-! ## Contexts (R286) -/

/-- The RW bits of ctx.cfg. -/
def ctxCfgMask : Word64 := BitVec.ofNat 64 (7 * 2 ^ 61 + (2 ^ 20 - 1))

/-- Whether a context holds a job, an unread record, or an enabled aperture (R286). -/
def State.ctxHolds (s : State) (n : CtxId) : Bool :=
  (s.sched.cairns.any fun p => p.2.ctx == n && p.2.level == 3 && (p.2.state == .opened || p.2.state == .closed)) ||
  (s.ctx n).sqHead != (s.ctx n).sqTail ||
  s.ports.apertures.toList.any fun a => bit a.cfg 63 && bits a.cfg 53 48 == n.toNat

/-- Whether another enabled context holds a pasid with pv = 1 (R286). -/
def State.pasidTaken (s : State) (n : CtxId) (pasid : Nat) : Bool :=
  s.ctxs.any fun p => p.1 != n.toNat && p.2.en && p.2.pv && bits p.2.cfg 19 0 == pasid

/-- Whether a write of ctx.cfg is refused (R286, R287, R358). -/
def State.cfgRefused (s : State) (n : CtxId) (v : Word64) : Bool :=
  let x := s.ctx n
  let lsz := bits x.sqCfg 4 0
  if bit v 63 then
    (x.en && (bits v 19 0 != bits x.cfg 19 0 || bit v 61 != x.pv)) || (bit v 61 && s.pasidTaken n (bits v 19 0)) ||
    decide (lsz < 2) || decide (16 < lsz)
  else if x.dead then x.drain
  else x.en && ((bits v 19 0 != bits x.cfg 19 0 || bit v 61 != x.pv) || s.ctxHolds n)

/-- A write to ctx.cfg (R286, R360). -/
def ctxCfgWrite (s : State) (n : CtxId) (v : Word64) : State :=
  if !s.ready readySch || s.cfgRefused n v then refuseWrite s blkHost (some n) (ctxOff n 0) v.toNat
  else
    let x := s.ctx n
    let alive := x.dead && !bit v 63
    s.setCtx n { x with
      cfg := v &&& ctxCfgMask, dead := x.dead && !alive, why := if alive then 0 else x.why }

/-- CTX_CFG_WRITE (R286, R358). -/
def execCtxCfgWrite (ctx : CtxId) (v : Word64) (st : State) : Out := .next (ctxCfgWrite st ctx v)

/-! ## The doorbell (R288, R367, R369) -/

/-- hlth.why but for its bit 8 being at 0 (R376): what is kept, a failed port, and more than 1,000 corrected errors an hour. -/
def State.healthWhy (s : State) : Nat :=
  let f := s.fleet
  let recent := (f.corrected.filter fun t => decide (f.us < t + 3600000000)).length
  f.hlthWhy.toNat ||| (if s.ports.peers.toList.any (·.failed) then 4 else 0) ||| (if 1000 < recent then 16 else 0)

/-- hlth.state (R376). -/
def State.healthState (s : State) : Nat :=
  let w := s.healthWhy
  if w / 32 % 4 ≠ 0 then 2 else if w ≠ 0 then 1 else 0

/-- A step of bring-up at the start of another start: what its record says of it (R362). -/
def BootStep.start (x : BootStep) (hasAlt : Bool) : BootStep :=
  { x with
    fl := x.bad, alt := hasAlt && x.fails == 1, skip := hasAlt && decide (2 ≤ x.fails.toNat), bad := false, ended := false }

/-- The steps with an alternate (R361). -/
def hasAlt (k : Nat) : Bool := decide (3 ≤ k) && k != 14

/-- A wake request (R369): the steps for the dies, memory, flash, peers and finaliser run again under their records. -/
def wake (s : State) : State :=
  let boot : Vector BootStep 16 := Vector.ofFn fun k =>
    if hasAlt k then (s.fw.boot[k]).start true else s.fw.boot[k]
  { s with fleet := { s.fleet with slpState := 3, slpUs := 0, slpWaking := true, slpWakeUs := 0 }, fw := { s.fw with boot := boot } }

/-- What a tail write that takes effect does to sleep (R367, R369); an entry that has begun may lose writes (R102). -/
def tailWakes (s : State) : State :=
  if s.fleet.slpState = 1 then { s with fleet := { s.fleet with slpState := 0, slpCode := 1 } }.loseWrites
  else if s.fleet.slpState = 2 then wake s
  else s

/-- A write to sq.tail (R288, R358, R360, R376). -/
def sqTailWrite (s : State) (n : CtxId) (v : BitVec 32) : State :=
  let x := s.ctx n
  if !s.ready readySch || !x.en || x.sqStop || x.dead || s.healthState == 2 then
    refuseWrite s blkHost (some n) (ctxOff n 0x18) v.toNat
  else if 2 ^ 31 ≤ (v - x.sqTail).toNat then stopQueue s n 2
  else if x.sqSlots < (v - x.sqHead).toNat then stopQueue s n 1
  else tailWakes (s.setCtx n { x with sqTail := v })

/-- SQ_TAIL_WRITE (R288, R289). -/
def execSqTailWrite (ctx : CtxId) (v : BitVec 32) (st : State) : Out := .next (sqTailWrite st ctx v)

/-! ## Apertures (R290) -/

/-- The RW bits of an aperture's registers. -/
def apertureMask (reg : BitVec 2) : Word64 :=
  BitVec.ofNat 64 (if reg = 0 then 7 * 2 ^ 61 + 0x3FFF * 2 ^ 40 else if reg = 3 then (2 ^ 36 - 1) * 2 ^ 21 else (2 ^ 18 - 1) * 2 ^ 21)

/-- Replaces a register of an aperture. -/
def Aperture.put (a : Aperture) (reg : BitVec 2) (v : Word64) : Aperture :=
  if reg = 0 then { a with cfg := v } else if reg = 1 then { a with win := v } else if reg = 2 then { a with len := v }
  else { a with va := v }

/-- A write to an aperture's register (R290, R360). -/
def apertureWrite (s : State) (ap : BitVec 3) (reg : BitVec 2) (v : Word64) : State :=
  let n : CtxId := BitVec.ofNat 6 (bits v 53 48)
  if !s.ready readyFw || (reg == 0 && bit v 63 && !(s.ctx n).en) then
    refuseWrite s blkHost (if reg = 0 then some n else none) (0x20000 + 0x40 * ap.toNat + 8 * reg.toNat) v.toNat
  else
    let a := s.ports.apertures[ap.toNat].put reg (v &&& apertureMask reg)
    { s with ports := { s.ports with apertures := s.ports.apertures.set ap.toNat a } }

/-- APERTURE_WRITE (R290). -/
def execApertureWrite (ap : BitVec 3) (reg : BitVec 2) (v : Word64) (st : State) : Out := .next (apertureWrite st ap reg v)

/-! ## BAR2 (R291) -/

/-- The lowest-numbered enabled aperture that contains a BAR2 offset, and the offset within it. -/
def State.apertureAt (s : State) (off : Nat) : Option (Aperture × Nat) :=
  s.ports.apertures.toList.findSome? fun a =>
    let lo := bits a.win 38 21 * 2 ^ 21
    if bit a.cfg 63 && decide (lo ≤ off) && decide (off < lo + bits a.len 38 21 * 2 ^ 21) then some (a, off - lo) else none

def Aperture.ctx (a : Aperture) : CtxId := BitVec.ofNat 6 (bits a.cfg 53 48)
def Aperture.core (a : Aperture) : CoreId := BitVec.ofNat 8 (bits a.cfg 47 40)

/-- An inbound read that fails (R291): Completer Abort, and the error log. -/
def readFails (s : State) (n : Option CtxId) (off : Nat) : State := (s.send .completerAbort).logFree blkHost n off 0

/-- An inbound write that fails (R291): dropped, and the error log. -/
def writeFails (s : State) (n : Option CtxId) (off : Nat) : State := s.logFree blkHost n off 0

/-- The scratch a kind 1 aperture reaches: a named core that runs a task of the context. -/
def State.scratchReach (s : State) (a : Aperture) (o len : Nat) : Bool :=
  decide (o + len ≤ 0x40000) && (s.core a.core).runsFor a.ctx

/-- The physical address of an inbound access's bytes in one page, when it may have them. -/
def State.inboundPa (s : State) (a : Aperture) (o len : Nat) (write : Bool) : Option Nat :=
  match s.devPieces a.ctx (bits a.va 56 21 * 2 ^ 21 + o) len write with
  | some [(f, va, _)] => some (f.pa va)
  | _ => none

/-- Serves an inbound read (R291, R368, R373). -/
def inboundRead (s : State) (off len : Nat) : State :=
  if s.fleet.slpState = 2 then readFails s none off
  else match s.apertureAt off with
    | none => readFails s none off
    | some (a, o) =>
      let va := bits a.va 56 21 * 2 ^ 21 + o
      if (s.ctx a.ctx).dead then s.send (.readDone (List.replicate len 0) false)
      else if bit a.cfg 62 then
        if s.scratchReach a o len then s.send (.readDone ((s.core a.core).readScratch o len) false)
        else readFails s (some a.ctx) off
      else match s.inboundPa a o len false with
        | none => readFails (s.walkMarks a.ctx va len false) (some a.ctx) off
        | some pa =>
          if s.poisoned pa len then
            let s := s.walkMarks a.ctx va len false
            { s.send (.readDone ((List.range len).map (Config.freeByte s.seq)) true) with seq := s.seq + 1 }
          else match hxRead s a.ctx va len with
            | some (b, s) => s.send (.readDone b false)
            | none => readFails s (some a.ctx) off

/-- Performs an inbound write (R291, R368). -/
def inboundWrite (s : State) (off : Nat) (data : List Byte) : State :=
  if s.fleet.slpState = 2 then writeFails s none off
  else match s.apertureAt off with
    | none => writeFails s none off
    | some (a, o) =>
      let va := bits a.va 56 21 * 2 ^ 21 + o
      if (s.ctx a.ctx).dead then s
      else if !bit a.cfg 61 then writeFails s (some a.ctx) off
      else if bit a.cfg 62 then
        if s.scratchReach a o data.length then s.modCore a.core fun c => c.writeScratch o data
        else writeFails s (some a.ctx) off
      else match s.inboundPa a o data.length true with
        | none => writeFails (s.walkMarks a.ctx va data.length true) (some a.ctx) off
        | some _ =>
          let s := (raceAccess s a.ctx (.hx false) va data.length true 0 false).1
          match s.ctxWrite a.ctx va data with
          | some s => s
          | none => writeFails s (some a.ctx) off

/-- Whether an access is one a PCIe request makes: at least a byte, within one 4 KiB page. -/
def onePage (off len : Nat) : Bool := decide (0 < len) && decide (off % 4096 + len ≤ 4096)

/-- INBOUND_READ (R291). -/
def execInboundRead (off : BitVec 39) (len : Nat) (st : State) : Out :=
  .next (if onePage off.toNat len then inboundRead st off.toNat len else st)

/-- INBOUND_WRITE (R291). -/
def execInboundWrite (off : BitVec 39) (data : List Byte) (st : State) : Out :=
  .next (if onePage off.toNat data.length then inboundWrite st off.toNat data else st)

/-- INBOUND_ATOMICOP (R283): the card is no AtomicOp completer. -/
def execInboundAtomicop (off : BitVec 39) (st : State) : Out :=
  let _ := off
  .next (st.send .unsupportedRequest)

/-! ## Answers to waiting commands -/

/-- The bytes of a read's answer reach a command of the copy engine. -/
def tagGot (s : State) (k : CoreId) (n : Nat) (req : Nat) (data : List Byte) : State :=
  match (s.core k).tag n with
  | none => s
  | some t =>
    match t.sent.find? (·.req == req) with
    | none => s
    | some x => s.modCore k fun c => c.setTag n (some { t with
        sent := t.sent.filter (·.req != req), got := t.got ++ [(x.off, data)] })

/-- The bytes of a read's answer reach a gathered element (R230). -/
def elemGot (s : State) (k : CoreId) (q : BitVec 3) (req : Nat) (data : List Byte) : State :=
  match (s.core k).elems.find? fun w => w.entry.qw == q && w.sent.any (·.req == req) with
  | none => s
  | some w =>
    let got := w.got ++ ((w.sent.find? (·.req == req)).map fun x => (x.off, data)).toList
    settleElem s k q { w with sent := w.sent.filter (·.req != req), got := got }

/-- The host writes that a zero-length read covers have performed (R292): they arrive, and the command is finished. -/
def flushDone (s : State) (k : CoreId) (n : Nat) (t : Tag) : State :=
  (arriveAt s k t t.owed).modCore k fun c => c.setTag n (some { t with owed := 0, phase := .finished })

/-- HOST_READ_COMPLETION (R292): a completion of a Memory Read arrives; a dead context's is dropped (R358), but for base camp's own
records about it (R345). -/
def execHostReadCompletion (req : Nat) (data : List Byte) (st : State) : Out :=
  match st.ports.reads.find? (·.req == req) with
  | none => .next st
  | some r =>
    let s := { st with ports := { st.ports with reads := st.ports.reads.filter (·.req != req) } }
    match r.who with
    | .ring n => .next (ringEnd s n true)
    | w =>
    if (s.ctx r.ctx).dead then .next s
    else match w with
      | .tag k tag =>
        (match (s.core k).tag tag.toNat with
         | some t => if t.phase = .flushing req then .next (flushDone s k tag.toNat t) else .next (tagGot s k tag.toNat req data)
         | none => .next s)
      | .elem k q => .next (elemGot s k q req data)
      | .drain k n => .next (s.modCore k fun c => { c with hostWrites := c.hostWrites - n })
      | .launch _ | .ring _ | .nobody => .next s

/-! ## Translation Requests and page requests (R293, R295) -/

/-- The first byte of a command's ends in a page; the page's first where its checks no longer pass. -/
def State.byteIn (s : State) (k : CoreId) (t : Tag) (vpn : Nat) : Nat :=
  match startChecks s k t with
  | .ok (a, b) => (((a ++ b).find? fun p => p.1.va / 4096 == vpn).map (·.1.va)).getD (vpn * 4096)
  | .error _ => vpn * 4096

/-- The first byte in a page of the element that a data queue serves next. -/
def Core.elemByte (c : Core) (k : CoreId) (e : AqEntry) (r : Remap) (vpn : Nat) : Nat :=
  match c.remapOf r.word e.index.toNat with
  | some x => (match elemEnd k r x (c.q e.qw).esz with
    | .ok en => max en.addr (vpn * 4096)
    | .error _ => vpn * 4096)
  | none => vpn * 4096

/-- Whoever waits for a page of the host faults with translation (R293, R295, R332); a record whose slot lies there is dropped
(R345). -/
def failWaiter (s : State) (who : Waiter) (vpn sub : Nat) : State :=
  match who with
  | .tag k tag =>
    (match (s.core k).tag tag.toNat with
     | some t => if t.phase = .issued then copyFault s k tag.toNat t (fTrans sub (s.byteIn k t vpn)) else s
     | none => s)
  | .elem k q =>
    let c := s.core k
    (match c.aq.find? (·.qw == q), c.remap[q.toNat] with
     | some e, some r =>
       let va := c.elemByte k e r vpn
       gatherFail (s.modCore k (·.dropElem q)) k e va (fTrans sub va)
     | _, _ => s)
  | .launch lc => (failLaunch s lc 2).sweep
  | .ring n => ringEnd s n false
  | .drain _ _ | .nobody => s

/-- The entry that a Translation Completion gives (R293): of the size granted, 4 KiB to 1 GiB; an untranslated page alone. -/
def ataEntry (a : AtsReq) (lsz : Nat) (hpa : Word64) (r w u : Bool) : Trans :=
  let pages := if u then 1 else 2 ^ (min (max lsz 12) 30 - 12)
  let base := a.vpn / pages * pages
  ⟨a.ctx, base, pages, .host (if u then none else some (hpa.toNat / (4096 * pages) * (4096 * pages))), true, true, 0, r, w⟩

/-- Puts a translation where its waiter finds it. -/
def holdTrans (s : State) (who : Waiter) (x : Trans) : State :=
  let add (l : List Trans) (size : Nat) : List Trans := (l ++ [x]).drop (l.length + 1 - size)
  match who with
  | .tag k _ | .elem k _ => s.modCore k fun c => { c with tlb := add c.tlb coreTlbSize }
  | .launch _ | .ring _ => { s with vm := { s.vm with tlb := add s.vm.tlb vmTlbSize } }.progress
  | .drain _ _ | .nobody => s

/-- The pages that a Translation Completion is about: those it grants, or the one asked for. -/
def AtsReq.span (a : AtsReq) (res : AtsResult) : Nat × Nat :=
  match res with
  | .granted lsz hpa r w u => let x := ataEntry a lsz hpa r w u; (x.vpn, x.vpn + x.pages - 1)
  | .refused => (a.vpn, a.vpn)

/-- Whether two ranges of pages, each its first and its last, overlap. -/
def pagesMeet (a b : Nat × Nat) : Bool := decide (a.1 ≤ b.2) && decide (b.1 ≤ a.2)

/-- A discarded translation's page is asked for again after the invalidations that its range meets (R294). -/
def laterPage (s : State) (n : CtxId) (vpn : Nat) (span : Nat × Nat) : State :=
  let one (x : AtsInv) : AtsInv := if x.ctx == some n && pagesMeet (x.lo, x.hi) span then { x with late := x.late ++ [vpn] } else x
  { s with ports := { s.ports with invs := s.ports.invs.map one } }

/-- Whether a waiter's context takes no answers any more (R358): base camp's own records about it still do (R345). -/
def State.unanswered (s : State) (n : CtxId) (who : Waiter) : Bool :=
  (s.ctx n).dead && (match who with | .ring _ => false | _ => true)

/-- Whether a Translation Completion is about a page of a range that an Invalidate Request names which has arrived since the request
was sent, or which is not completed yet (R294). -/
def State.invalidated (s : State) (a : AtsReq) (res : AtsResult) : Bool :=
  (a.since.any fun x => pagesMeet x (a.span res)) ||
  s.ports.invs.any fun x => x.ctx == some a.ctx && pagesMeet (x.lo, x.hi) (a.span res)

/-- ATS_TRANSLATION_COMPLETION (R293, R294): the entry is held, a page is requested, or the waiter faults; one for a range that
meets that of an invalidation which has come meanwhile is discarded. -/
def execAtsTranslationCompletion (req : Nat) (res : AtsResult) (st : State) : Out :=
  match st.ports.ats.find? (·.req == req) with
  | none => .next st
  | some a =>
    let s := { st with ports := { st.ports with ats := st.ports.ats.filter (·.req != req) } }
    if s.unanswered a.ctx a.who then .next s
    else if s.invalidated a res then .next (laterPage s a.ctx a.vpn (a.span res))
    else match res with
      | .refused => .next (failWaiter s a.who a.vpn 3)
      | .granted lsz hpa r w u =>
        if (!a.r || r) && (!a.w || w) then .next (holdTrans s a.who (ataEntry a lsz hpa r w u))
        else match askPage s a.ctx a.vpn a.r a.w a.who with
          | some s => .next s
          | none => .next (failWaiter s a.who a.vpn 6)

/-- Every page request fails (R295): an outstanding group by the response, a waiting one because PRI is disabled. -/
def failPages (s : State) : State :=
  let ps := s.ports.prgs
  let s := { s with ports := { s.ports with prgs := [], priOn := false } }
  ps.foldl (fun s p => if s.unanswered p.ctx p.who then s else failWaiter s p.who p.vpn (if p.idx.isSome then 5 else 6)) s

/-- PRG_RESPONSE (R295): the response decides the fate of who waits; one for a context that has died only ends its group. -/
def execPrgResponse (idx : BitVec 9) (code : PrgCode) (st : State) : Out :=
  match st.ports.prgs.find? (·.idx == some idx) with
  | none => .next (st.logFree blkTrans none idx.toNat 0)
  | some p =>
    let s := { st with ports := { st.ports with prgs := st.ports.prgs.filter (·.idx != some idx) } }
    if s.unanswered p.ctx p.who then .next (sendPages s)
    else match code with
    | .responseFailure => .next (failPages st)
    | .success => .next (sendPages (askTranslation s p.ctx p.vpn p.r p.w p.who))
    | .invalidRequest => .next (sendPages (failWaiter s p.who p.vpn 4))

/-! ## Invalidation (R294) -/

/-- The enabled context of a PASID. -/
def State.ctxOfPasid (s : State) (pasid : BitVec 20) : Option CtxId :=
  (s.ctxs.find? fun p => p.2.en && p.2.pv && bits p.2.cfg 19 0 == pasid.toNat).map fun p => BitVec.ofNat 6 p.1

/-- Requests outstanding at most (R283, R294). -/
def invMax : Nat := 32

/-- ATS_INVALIDATE_REQUEST (R294): step 1, and who step 2 waits for. -/
def execAtsInvalidateRequest (itag : BitVec 5) (pasid : BitVec 20) (va len : Word64) (st : State) : Out :=
  if invMax ≤ st.ports.invs.length then .next st
  else
    let lo := va.toNat / 4096
    let hi := (va.toNat + max len.toNat 1 - 1) / 4096
    let put (s : State) (n : Option CtxId) (us : List TransUser) : State :=
      { s with ports := { s.ports with invs := s.ports.invs ++ ([⟨itag, n, lo, hi, us, []⟩] : List AtsInv) } }
    match st.ctxOfPasid pasid with
    | none => .next (put st none [])
    | some n =>
      let users := st.usersOf n lo hi
      let s := dropTlbs st n lo hi
      let late (x : AtsReq) : AtsReq := if x.ctx == n then { x with since := x.since ++ [(lo, hi)] } else x
      .next (put { s with ports := { s.ports with ats := s.ports.ats.map late } } (some n) users)

/-- INVALIDATION_COMPLETION (R294): the oldest request's Invalidation Completion, once its step 2 has ended. -/
def execInvalidationCompletion (st : State) : Out :=
  match st.ports.invs with
  | [] => .next st
  | x :: rest =>
    if x.users.any fun u => st.stillUses u then .next st
    else .next ({ st with ports := { st.ports with invs := rest } }.send (.invalidateDone x.itag)).progress

end Sys2Proof.Machine
end

