-- ==== Sys2Proof/Machine/PeerRows.lean ====
section
/-! DEFINITION. The peer ports: link-level replay (R299), commands and responses (R297, R300), failure (R301). -/

namespace Sys2Proof.Machine

/-- A port's number in a row, as a leaf's bit. -/
def portOf (p : BitVec 1) : Bool := p == 1

/-- The register offset of a port (R297). -/
def peerOff (port : Bool) : Nat := 0x30000 + 0x1000 * (portNo port).val

/-- The ready bit of a port (R359). -/
def readyPeer (port : Bool) : Nat := 12 + (portNo port).val

/-! ## Replay (R299) -/

/-- Whether a sequence number is at or before another, modulo 4,096. -/
def seqUpTo (a b : BitVec 12) : Bool := decide ((b - a).toNat < 2048)

/-- Sends every unacknowledged flit again, in order (R299, R370). -/
def resendFlits (s : State) (port : Bool) : State :=
  let p := s.peer port
  let s := s.setPeer port { p with resends := p.resends + 1, sinceAck := 0 }
  p.replay.foldl (fun s f => (s.send (.flit port f)).count 6) s

/-- A port without its link: the replay buffer, what waited to be sent and what had been taken in part are discarded, and sequence
numbers restart (R299). -/
def Peer.cut (p : Peer) : Peer :=
  { p with
    up := false, fseq := 0, expect := 0, nakSent := false, replay := [], resends := 0, sinceAck := 0, downUs := 0
    reqCredits := 0, rspCredits := 0, owedReq := 0, owedRsp := 0, reqOut := [], rspOut := [], rxReq := [], rxRsp := [], ackDue := 0 }

/-- The link retrains (R299). -/
def Peer.retrain (p : Peer) : Peer := { p.cut with trains := p.trains + 1 }

/-- Resends, or retrains after eight resends without progress (R299). -/
def resendOrRetrain (s : State) (port : Bool) : State :=
  let p := s.peer port
  if p.replay.isEmpty then s
  else if 8 ≤ p.resends then s.setPeer port p.retrain
  else resendFlits s port

/-- What an accepted flit acknowledges (R298, R299). -/
def takeAck (s : State) (port : Bool) (f : PeerFlit) : State :=
  if f.ak = 1 ∨ f.ak = 2 then
    let p := s.peer port
    let rest := p.replay.filter fun g => !seqUpTo g.fseq f.aseq
    let moved := decide (rest.length < p.replay.length)
    let s := s.setPeer port { p with replay := rest, resends := if moved then 0 else p.resends, sinceAck := 0 }
    if f.ak = 2 then resendOrRetrain s port else s
  else s

/-! ## Executing a command (R297, R300) -/

/-- The outcome of a far command's translations and permissions, in the order of a local access (R297, R331): a page that is not
mapped, or reached through another port; one that lacks a permission; an atomic's host page. -/
def farStatus (s : State) (n : CtxId) (va len : Nat) (r w atom : Bool) : PeerStatus :=
  let fs := (pagesOf va len).map fun p => s.campLeaf n p.1
  let mapped (f : Found) : Bool := pteType f.e == 2 || (atom && pteType f.e == 5)
  if !canonical va len || !fs.all (fun f => f.any mapped) then .translation
  else if fs.any fun f => f.any fun f => (r && !pteR f.e) || (w && !pteW f.e) then .permission
  else if fs.any fun f => f.any fun f => pteType f.e == 5 then .unsupported
  else .ok

/-- A far command that is refused: the walks that it has made, and its outcome. -/
def farRefuses (s : State) (n : CtxId) (va len : Nat) (r w atom : Bool) : State × PeerStatus × List Byte :=
  (s.walkMarks n va len w, farStatus s n va len r w atom, [])

/-- Reads for a far card (R297, R373): the outcome and the data. -/
def peerRead (s : State) (n : CtxId) (va len : Nat) : State × PeerStatus × List Byte :=
  match s.devPieces n va len false with
  | none => farRefuses s n va len true false false
  | some ps =>
    if ps.any fun x => s.poisoned (x.1.pa x.2.1) x.2.2 then (s.walkMarks n va len false, .poison, [])
    else match s.ctxRead n va len with
      | some (b, s) => ((raceAccess s n (.hx true) va len false 0 false).1, .ok, b)
      | none => (s, .translation, [])

/-- Writes for a far card, which stand in the LPDDR-6 array before the response (R300). -/
def peerWrite (s : State) (n : CtxId) (va : Nat) (data : List Byte) : State × PeerStatus × List Byte :=
  match s.devPieces n va data.length true with
  | none => farRefuses s n va data.length false true false
  | some ps =>
    let s := (raceAccess s n (.hx true) va data.length true 0 false).1
    match s.ctxWrite n va data with
    | some s => (s.storedPieces ps, .ok, [])
    | none => (s, .translation, [])

/-- An atomic for a far card (R162): a read of a cell needs no permission to write. -/
def peerAtom (s : State) (n : CtxId) (va aop size v cmp : Nat) : State × PeerStatus × List Byte :=
  let readable := s.devPieces n va size false
  let writable := aop == 11 || (s.devPieces n va size true).isSome
  match readable with
  | none => farRefuses s n va size true (aop ≠ 11) true
  | some ps =>
    if !writable then farRefuses s n va size true true true
    else if ps.any fun x => s.poisoned (x.1.pa x.2.1) x.2.2 then (s.walkMarks n va size (aop ≠ 11), .poison, [])
    else match s.ctxRead n va size with
      | none => (s, .translation, [])
      | some (b, s) =>
        let r := atomStep aop size v cmp (ofBytes b)
        let s := (raceAccess s n (.hx true) va size r.1.isSome 0 false).1
        let s := match r.1 with | some w => ((s.ctxWrite n va (toBytes size w)).getD s).storedPieces ps | none => s
        (s, .ok, toBytes (resultSize aop v) r.2)

/-- The zeros that a dead context's commands return (R358). -/
def opZeros (o : PeerOp) : List Byte :=
  match o with
  | .read _ len => List.replicate len 0
  | .write _ _ => []
  | .atom _ aop _ v _ => List.replicate (resultSize aop v) 0

/-- Executes a command of the far card's context `n` in its own context `far`, as an HX access (R297). -/
def peerExecute (s : State) (port : Bool) (n far : CtxId) (op : PeerOp) : State × PeerStatus × List Byte :=
  if (s.peer port).far far ≠ some n then (s, .isolation, [])
  else if (s.ctx far).dead then (s, .ok, opZeros op)
  else match op with
    | .read va len => peerRead s far va.toNat len
    | .write va data => peerWrite s far va.toNat data
    | .atom va aop size v cmp => peerAtom s far va.toNat aop size v cmp

/-- Handles an arriving command (R300): a kept response is sent again; else it is executed and its response kept. -/
def takeCommand (s : State) (port : Bool) (cseq lw : BitVec 32) (n far : CtxId) (op : PeerOp) : State :=
  let p := s.peer port
  let kept := p.kept.filter fun k => decide ((k.cseq - lw).toNat < 2 ^ 31)
  let s := s.setPeer port { p with kept := kept }
  match kept.find? (·.cseq == cseq) with
  | some k => sendMsg s port k.msg
  | none =>
    let r := peerExecute s port n far op
    let msg := PeerMsg.response cseq r.2.1 r.2.2
    let p := r.1.peer port
    sendMsg (r.1.setPeer port { p with kept := p.kept ++ ([⟨cseq, msg⟩] : List PeerKept) }) port msg

/-! ## Responses (R297, R300) -/

/-- The fault that a response's outcome gives at the sender (R297, R343). -/
def statusFault (st : PeerStatus) (va : Nat) : Option CFault :=
  match st with
  | .ok => none
  | .isolation => some (fIsolation 1 (some va))
  | .translation => some (fTrans 0 va)
  | .permission => some (fTrans 2 va)
  | .unsupported => some (fUnsupported va)
  | .pkey => some (fPkey va)
  | .poison => some (fPoison (some va))

/-- The address a command names. -/
def opVa (o : PeerOp) : Nat :=
  match o with
  | .read va _ => va.toNat
  | .write va _ => va.toNat
  | .atom va _ _ _ _ => va.toNat

/-- The bytes that a response to a command carries. -/
def opAnswerLen (o : PeerOp) : Nat :=
  match o with
  | .read _ len => len
  | .write _ _ => 0
  | .atom _ aop _ v _ => resultSize aop v

/-- A write of a command of the copy engine has performed on the far card: its bytes arrive (R95). -/
def peerWrote (s : State) (k : CoreId) (n : Nat) (t : Tag) (len : Nat) : State :=
  if t.isCpyx then
    if t.sent.isEmpty && t.blkLen.isSome then
      (arriveAt s k t (t.blkLen.getD 0)).modCore k fun c => c.setTag n (some { t with blkLen := none })
    else s.modCore k fun c => c.setTag n (some t)
  else settleTag (arriveAt s k t len) k n t

/-- A response reaches a command of the copy engine. -/
def tagAnswer (s : State) (k : CoreId) (n : Nat) (c : PeerCmd) (st : PeerStatus) (data : List Byte) : State :=
  match (s.core k).tag n with
  | none => s
  | some t =>
    match t.sent.find? (·.req == c.req) with
    | none => s
    | some x =>
      let t' := { t with sent := t.sent.filter (·.req != c.req) }
      match statusFault st (opVa c.op), c.op with
      | some f, _ => answerFault s k n t f
      | none, .read _ _ => s.modCore k fun c => c.setTag n (some { t' with got := t'.got ++ [(x.off, data)] })
      | none, .write _ d => peerWrote s k n t' d.length
      | none, .atom _ _ _ _ _ => atomEnd s k n t' (ofBytes data)

/-- A response reaches an element of a gather or scatter (R230, R231). -/
def elemAnswer (s : State) (k : CoreId) (q : BitVec 3) (c : PeerCmd) (st : PeerStatus) (data : List Byte) : State :=
  match (s.core k).elems.find? fun w => w.entry.qw == q && w.sent.any (·.req == c.req) with
  | none => s
  | some w =>
    match statusFault st (opVa c.op) with
    | some f =>
      gatherFail (s.modCore k fun x => { x with elems := x.elems.filter fun y => y.entry.qw != q }) k w.entry (opVa c.op) f
    | none =>
      if w.write then settleElem s k q { w with sent := w.sent.filter (·.req != c.req) } else elemGot s k q c.req data

/-- Whoever waits for a peer command gets its outcome; a dead context's is dropped (R358). -/
def peerAnswer (s : State) (c : PeerCmd) (st : PeerStatus) (data : List Byte) : State :=
  if s.unanswered c.ctx c.who then s
  else match c.who with
    | .tag k tag => tagAnswer s k tag.toNat c st data
    | .elem k q => elemAnswer s k q c st data
    | .ring n => ringEnd s n (st == PeerStatus.ok)
    | .launch _ | .drain _ _ | .nobody => s

/-- Handles an arriving response (R300); one that no command awaits, or of another length, is dropped. -/
def takeResponse (s : State) (port : Bool) (cseq : BitVec 32) (st : PeerStatus) (data : List Byte) : State :=
  let p := s.peer port
  match p.waiting.find? (·.cseq == cseq) with
  | none => s
  | some c =>
    if st = .ok ∧ data.length ≠ opAnswerLen c.op then s
    else peerAnswer (s.setPeer port { p with waiting := p.waiting.filter (·.cseq != cseq) }) c st data

/-! ## The rows -/

/-- Handles a message that is complete; a command travels on vc 0 and a response on vc 1 (R298, R302). -/
def takeMessage (s : State) (port : Bool) (vc : BitVec 2) (m : Option PeerMsg) : State :=
  match m with
  | some (.command cseq lw n far op) => if vc = 0 then takeCommand s port cseq lw n far op else s
  | some (.response cseq st data) => if vc = 1 then takeResponse s port cseq st data else s
  | none => s

/-- Takes the payload of an accepted flit; the flit's credit is returned (R298, R302). -/
def takePayload (s : State) (port : Bool) (f : PeerFlit) : State :=
  let p := s.peer port
  if f.vc = 0 then
    let g := gatherMsg p.rxReq f.payload
    takeMessage (s.setPeer port { p with rxReq := g.2, owedReq := p.owedReq + 1 }) port 0 g.1
  else if f.vc = 1 then
    let g := gatherMsg p.rxRsp f.payload
    takeMessage (s.setPeer port { p with rxRsp := g.2, owedRsp := p.owedRsp + 1 }) port 1 g.1
  else s

/-- A port that has accepted a flit (R298, R299): it has the credits that the flit returns, and an ack to send. -/
def Peer.accept (p : Peer) (f : PeerFlit) : Peer :=
  { p with
    expect := p.expect + 1, nakSent := false, ackDue := 1
    reqCredits := p.reqCredits + f.reqCredits.toNat, rspCredits := p.rspCredits + f.rspCredits.toNat }

/-- PEER_FLIT_RECEIVE (R299): a flit is accepted, or discarded with at most one nak until the next acceptance; what may then be sent is
sent, an acknowledgement with it (R298, R302). -/
def execPeerFlitReceive (port : BitVec 1) (flit : PeerFlit) (st : State) : Out :=
  let pt := portOf port
  let p := st.peer pt
  if !p.up then .next st
  else if flitOk flit && flit.fseq == p.expect then
    .next (pump (takePayload (takeAck (st.setPeer pt (p.accept flit)) pt flit) pt flit) pt).rings
  else if p.nakSent then .next st
  else .next (pump (st.setPeer pt { p with nakSent := true, ackDue := 2 }) pt)

/-- The microseconds of R299, R300 and R301. -/
def replayUs : Nat := 4
def commandUs : Nat := 1000
def trainUs : Nat := 100000

/-- PEER_REPLAY_TIMEOUT (R299): 4 µs without an ack while flits are held. -/
def execPeerReplayTimeout (port : BitVec 1) (st : State) : Out :=
  let p := st.peer (portOf port)
  .next (if p.up && decide (replayUs ≤ p.sinceAck) then resendOrRetrain st (portOf port) else st)

/-- Sends a waiting command again with its cseq (R300). -/
def resendCommand (s : State) (port : Bool) (c : PeerCmd) : State :=
  let p := s.peer port
  let again (x : PeerCmd) : PeerCmd := if x.cseq == c.cseq then { x with us := 0 } else x
  let s := s.setPeer port { p with waiting := p.waiting.map again }
  sendMsg s port (.command c.cseq p.lowWater c.ctx c.far c.op)

/-- PEER_COMMAND_TIMEOUT (R300): 1 ms without a response. -/
def execPeerCommandTimeout (port : BitVec 1) (cseq : BitVec 32) (st : State) : Out :=
  let pt := portOf port
  let p := st.peer pt
  match p.waiting.find? (·.cseq == cseq) with
  | some c => .next (if p.up && decide (commandUs ≤ c.us) then resendCommand st pt c else st)
  | none => .next st

/-- A link comes up: each channel has the far card's credits (R302, log 7), and every waiting command is sent again (R297, R300). -/
def linkUp (s : State) (port : Bool) : State :=
  let p := s.peer port
  let p := { p.cut with up := true, reqCredits := Config.peerCredits + 1, rspCredits := Config.peerCredits + 1 }
  (p.waiting.foldl (fun s c => resendCommand s port c) (s.setPeer port p)).rings

/-- PEER_LINK_UP (R297): a link in training comes up. -/
def execPeerLinkUp (port : BitVec 1) (st : State) : Out :=
  let pt := portOf port
  let p := st.peer pt
  .next (if !p.up && !p.failed && st.ready (readyPeer pt) then linkUp st pt else st)

/-- A command that a failed port leaves without an answer faults with isolation (R301); a trap record is dropped (R345). -/
def cmdLost (s : State) (c : PeerCmd) : State :=
  if s.unanswered c.ctx c.who then s
  else
    let f := fIsolation 2 (some (opVa c.op))
    match c.who with
    | .tag k tag => (match (s.core k).tag tag.toNat with
      | some t => if t.sent.any (·.req == c.req) then answerFault s k tag.toNat t f else s
      | none => s)
    | .elem k q => (match (s.core k).elems.find? fun w => w.entry.qw == q && w.sent.any (·.req == c.req) with
      | some w =>
        gatherFail (s.modCore k fun x => { x with elems := x.elems.filter fun y => y.entry.qw != q }) k w.entry (opVa c.op) f
      | none => s)
    | .ring n => ringEnd s n false
    | .launch _ | .drain _ _ | .nobody => s

/-- PEER_PORT_FAILED (R301): a training that brings no link up within 100 ms; every command that waits faults. -/
def execPeerPortFailed (port : BitVec 1) (st : State) : Out :=
  let pt := portOf port
  let p := st.peer pt
  if p.up || p.failed || !st.ready (readyPeer pt) || decide (p.downUs < trainUs) then .next st
  else
    let s := (st.setPeer pt { p.cut with failed := true, waiting := [] }).msix 65
    .next (p.waiting.foldl cmdLost s).rings

/-- PEER_FAILED_CLEAR (R301): a write of 1 to pp.stat.failed starts a new training; dropped and logged before the port is
ready (R360). -/
def execPeerFailedClear (port : BitVec 1) (st : State) : Out :=
  let pt := portOf port
  let p := st.peer pt
  if !st.ready (readyPeer pt) then .next (refuseWrite st blkPeer none (peerOff pt) (at' 62 1))
  else .next (if p.failed then st.setPeer pt { p with failed := false, downUs := 0 } else st)

end Sys2Proof.Machine
end

