-- ==== Sys2Proof/Machine/Boot.lean ====
section
/-! DEFINITION. Bring-up and its record (R360-R362), the firmware image (R363, R364, R377-R379), identity (R365), bivouac
(R366-R369), cold reset and loss of power. -/

namespace Sys2Proof.Machine

/-! ## The firmware image (R363) -/

/-- Whether bytes are all zero. -/
def zeros (b : List Byte) : Bool := b.all (· == 0)

/-- The bytes of an image from an offset. -/
def bytesAt (b : List Byte) (off n : Nat) : List Byte := (b.drop off).take n

/-- The length an image gives. -/
def imageLen (b : List Byte) : Nat := natAt b 8 4

/-- The security version an image gives. -/
def imageSvn (b : List Byte) : BitVec 32 := BitVec.ofNat 32 (natAt b 12 4)

/-- The form of an image: magic, format, length and zero fields (R363, check 1). -/
def imageForm (b : List Byte) : Bool :=
  let l := imageLen b
  b.take 4 == [0x5A, 0x46, 0x57, 0x00] && natAt b 4 2 == 1 && natAt b 6 2 == 0 && l % 16 == 0 && decide (256 ≤ l) &&
  decide (l ≤ 2 ^ 25) && decide (l ≤ b.length) && natAt b 24 8 == 0 && zeros (bytesAt b 129 15)

/-- The signature of an image (R363, check 3). -/
def imageSigned (b : List Byte) : Bool :=
  let l := imageLen b
  natAt b 32 1 == 4 &&
  ecdsaOk (beNat (bytesAt b 33 48), beNat (bytesAt b 81 48)) (beNat (sha384 (b.take (l - 96)))) (beNat (bytesAt b (l - 96) 48))
    (beNat (bytesAt b (l - 48) 48))

/-- The first check of R363 that an image fails, coded as fw.stat.why, or 0. -/
def imageWhy (b : List Byte) (minsvn : BitVec 32) : Nat :=
  if !imageForm b then 1
  else if sha384 (bytesAt b 32 97) ≠ Config.fusedKeyHash then 2
  else if !imageSigned b then 3
  else if (imageSvn b).toNat < minsvn.toNat then 4
  else 0

/-- Runs an accepted image (R363, R364). -/
def Firmware.run (f : Firmware) (b : List Byte) (state : BitVec 8) : Firmware :=
  { f with
    state := state, svn := imageSvn b, ver := BitVec.ofNat 64 (natAt b 16 8), image := b.take (imageLen b)
    ready := f.ready ||| BitVec.ofNat 16 (2 ^ readyFw) }

/-! ## Steps (R361, R362) -/

/-- The record and the use of a step. -/
def State.boot (s : State) (k : BitVec 4) : BootStep := s.fw.boot[k.toNat]

def State.setBoot (s : State) (k : BitVec 4) (x : BootStep) : State :=
  { s with fw := { s.fw with boot := s.fw.boot.set k.toNat x } }

/-- Whether the steps that a step waits on have ended well (R361). -/
def State.mayRun (s : State) (k : Nat) : Bool :=
  match k with
  | 0 => true
  | 1 => s.ready 0
  | 7 | 8 | 9 | 10 => s.ready (k - 4)
  | 15 => s.ready readySch && (List.range 4).any fun d => s.ready (3 + d)
  | _ => s.ready readyFw

/-- The outcome of a step goes into the boot record (R362). -/
def BootStep.outcome (x : BootStep) (ok : Bool) : BootStep :=
  { x with bad := !ok, ended := true, fails := if ok then 0 else if x.fails = 255 then 255 else x.fails + 1 }

/-- Sets a ready bit. -/
def State.setReady (s : State) (k : Nat) : State := { s with fw := { s.fw with ready := s.fw.ready ||| BitVec.ofNat 16 (2 ^ k) } }

/-- Clears ready bits. -/
def State.clearReady (s : State) (m : Nat) : State := { s with fw := { s.fw with ready := s.fw.ready &&& ~~~(BitVec.ofNat 16 m) } }

/-- A clock in MHz from 475 to 1,900 in steps of 25 (R15, R370). -/
def clockOf (x : Nat) : Nat := 475 + (min (max x 475) 1900 - 475) / 25 * 25

/-- Step 1: the boot ROM reads and verifies the image in the NAND (R363). -/
def firmwareStep (s : State) (readOk : Bool) : State × Bool :=
  let fail (why : Nat) : State × Bool :=
    ({ s with fw := { s.fw with state := 2, why := BitVec.ofNat 8 why } }.health 6, false)
  match s.fw.nand with
  | none => fail 5
  | some b =>
    if !readOk then fail 5
    else match imageWhy b s.fw.minsvn with
      | 0 => ({ s with fw := s.fw.run b 1 }, true)
      | why => fail why

/-- The channels of a die in dev.mem (R359, R361). -/
def trained (ok : BitVec 48) (die : Nat) (ch : BitVec 12) : BitVec 48 :=
  let m : BitVec 48 := BitVec.ofNat 48 ((2 ^ 12 - 1) * 2 ^ (12 * die))
  (ok &&& ~~~m) ||| BitVec.ofNat 48 (ch.toNat * 2 ^ (12 * die))

/-- What a step that has run leaves, and whether it succeeded (R361). -/
def stepEffect (s : State) (k : Nat) (r : StepResult) : State × Bool :=
  if k = 1 then firmwareStep s r.ok
  else if 3 ≤ k ∧ k ≤ 6 then
    let ok := r.channels == BitVec.allOnes 12
    let s := { s with fw := { s.fw with memOk := trained s.fw.memOk (k - 3) r.channels } }
    (if ok then s.setReady k else s, ok)
  else if !r.ok then (s, false)
  else
    let s := s.setReady k
    if 7 ≤ k ∧ k ≤ 10 then
      let c : BitVec 16 := BitVec.ofNat 16 (clockOf (Config.freeNat s.seq 11))
      ({ s with
          fleet := { s.fleet with clk := s.fleet.clk.set ((k - 7) % 4) c (Nat.mod_lt _ (by decide)) }, seq := s.seq + 1 }, true)
    else if k = 12 then (linkUp s false, true)
    else if k = 13 then (linkUp s true, true)
    else if k = 15 ∧ (s.boot 15).alt then ({ s with sched := { s.sched with zpfCache := [] } }, true)
    else (s, true)

/-- Whether a step has ended, is skipped, or cannot run at this start. -/
def State.settled (s : State) (k : Nat) : Bool :=
  let x := s.boot (BitVec.ofNat 4 k)
  x.ended || x.skip || !s.mayRun k

/-- The end of bring-up sets bits 8 and 9 of hlth (R376). -/
def healthAtEnd (s : State) : State :=
  let skipped := s.fw.boot.toList.any fun x => x.skip || x.alt
  let some_ := s.fw.memOk != BitVec.allOnes 48
  let w := s.fleet.hlthWhy &&& BitVec.ofNat 8 0xFC
  let w := w ||| BitVec.ofNat 8 (ofBool skipped + 2 * ofBool some_)
  { s with fleet := { s.fleet with hlthWhy := w } }

/-- Whether every step is over. -/
def State.bringupOver (s : State) : Bool := (List.range 16).all s.settled

/-- Whether a step may run now: not before, not skipped, with its prerequisites, and not in bivouac (R362, R367). -/
def State.stepDue (s : State) (k : BitVec 4) : Bool :=
  !(s.boot k).ended && !(s.boot k).skip && s.mayRun k.toNat && s.fleet.slpState != 2

/-- Whether a compute die takes no part at this start: its steps are over, and it is not ready (R360, R361). -/
def State.dieGone (s : State) (d : Nat) : Bool := s.settled (3 + d) && s.settled (7 + d) && !s.dieReady d

/-- BRINGUP_STEP (R361, R362): a step finishes, records its outcome and sets its ready bit; records of dies that stay out are
placed again (R360). -/
def execBringupStep (step : BitVec 4) (r : StepResult) (st : State) : Out :=
  if !st.stepDue step then .next st
  else
    let e := stepEffect st step.toNat r
    let s := e.1.setBoot step ((e.1.boot step).outcome e.2)
    let s := replaceLost s s.dieGone
    .next (if s.bringupOver then healthAtEnd s else s)

/-- BOOT_STEP_CLEAR (R362): clr clears the step's record for the next start. -/
def execBootStepClear (step : BitVec 4) (st : State) : Out :=
  .next (st.setBoot step { st.boot step with fails := 0 })

/-! ## Cold reset and loss of power (R361, R379) -/

/-- The card at a start: what the NAND and the fuses hold is kept; the rest is as State.reset has it. -/
def restart (s : State) : State :=
  let fw : Firmware := { Firmware.reset with
    nand := s.fw.nand, minsvn := s.fw.minsvn, fatal := s.fw.fatal
    boot := Vector.ofFn fun (k : Fin 16) => (s.fw.boot[k]).start (hasAlt k) }
  { State.reset with
    slots := s.slots, fw := fw, agenda := s.agenda, rr := s.rr, seq := s.seq
    ports := { Ports.reset with nextReq := s.ports.nextReq, out := s.ports.out } }

/-- COLD_RESET (R361). -/
def execColdReset (st : State) : Out := .next (restart st)

/-- POWER_LOSS (R379, R378): the NAND keeps what it holds: no image while step 3 of a firmware write is under way, since the region has
been erased. -/
def execPowerLoss (st : State) : Out := .next (restart st)

/-! ## Recovery (R364) -/

/-- RECOVERY_LOAD (R364): a write of rec.ctl with go = 1. -/
def execRecoveryLoad (v : Word64) (st : State) : Out :=
  let f := { st.fw with recLen := BitVec.ofNat 26 (bits v 25 0) }
  let s := { st with fw := f }
  if f.recBusy then .next (refuseWrite s blkFw none 0x48 v.toNat)
  else if f.state ≠ 2 then .next { s with fw := { f with recSt := 6 } }
  else .next ({ s with fw := { f with recBusy := true } }.send (.firmwareRead (bits f.recBase 63 12 * 4096) f.recLen.toNat))

/-- The check of an image that was read from the host, whose length must be the one given (R364, R378). -/
def hostImageWhy (b : List Byte) (len : BitVec 26) (minsvn : BitVec 32) : Nat :=
  if imageForm b && imageLen b != len.toNat then 1 else imageWhy b minsvn

/-- RECOVERY_LOAD_DONE (R364): none when the host read failed. -/
def execRecoveryLoadDone (image : Option (List Byte)) (st : State) : Out :=
  let f := st.fw
  let ends (c : Nat) : State := { st with fw := { f with recBusy := false, recSt := BitVec.ofNat 6 c } }
  if !f.recBusy then .next st
  else match image with
    | none => .next (ends 7)
    | some b => match hostImageWhy b f.recLen f.minsvn with
      | 0 => .next ({ st with fw := { f with recBusy := false, recSt := 0 }.run b 3 }.health 6)
      | why => .next (ends why)

/-! ## Identity (R365; the codes and bodies of DMTF SPDM are outside the manual: log 19) -/

/-- Error codes of SPDM. -/
def spdmInvalid : Byte := 1
def spdmBusy : Byte := 3
def spdmUnsupported : Byte := 7

/-- The algorithms of R365, ECDSA on P-384 and SHA-384, coded as SPDM has them (log 19). -/
def algEcdsaP384 : Nat := 0x80
def algSha384 : Nat := 0x02

/-- A measurement block (R365). -/
def State.measurement (s : State) (k : Nat) : List Byte :=
  match k with
  | 1 => Config.bootRomDigest
  | 2 => sha384 s.fw.image
  | 3 => toBytes 4 s.fw.svn.toNat ++ toBytes 4 s.fw.minsvn.toNat
  | 4 => s.fw.boot.toList.map (·.fails)
  | _ => [s.fw.state]

/-- A signed answer over a nonce. -/
def signed (nonce body : List Byte) : List Byte := body ++ Config.identitySign (nonce ++ body)

/-- SPDM_REQUEST (R365, R360). -/
def execSpdmRequest (r : SpdmRequest) (st : State) : Out :=
  if !st.ready readySec then .next (st.send (.spdmError spdmBusy))
  else match r with
    | .getVersion => .next (st.send (.spdm 0x04 [0x12, 0x13]))
    | .getCapabilities => .next (st.send (.spdm 0x61 [0x16]))
    | .negotiateAlgorithms => .next (st.send (.spdm 0x63 (toBytes 4 algEcdsaP384 ++ toBytes 4 algSha384)))
    | .getDigests => .next (st.send (.spdm 0x01 (sha384 Config.certificates)))
    | .getCertificate slot =>
      .next (st.send (if slot = 0 then .spdm 0x02 Config.certificates else .spdmError spdmInvalid))
    | .challenge slot nonce =>
      .next (st.send (if slot = 0 then .spdm 0x03 (signed nonce (sha384 Config.certificates)) else .spdmError spdmInvalid))
    | .getMeasurements block nonce =>
      if block = 0xFF then .next (st.send (.spdm 0x60 (signed nonce ([1, 2, 3, 4, 5].flatMap st.measurement))))
      else if block = 0 then .next (st.send (.spdm 0x60 (signed nonce [5])))
      else if block ≤ 5 then .next (st.send (.spdm 0x60 (signed nonce (st.measurement block))))
      else .next (st.send (.spdmError spdmInvalid))
    | .other _ => .next (st.send (.spdmError spdmUnsupported))

/-! ## Bivouac (R366-R369) -/

/-- An op that is refused in this state (R366). -/
def slpRefuse (s : State) : State := { s with fleet := { s.fleet with slpCode := 3 } }

/-- SLP_ENTER (R366, R367 step 1). -/
def execSlpEnter (st : State) : Out :=
  if st.fleet.slpState = 0 then
    .next { st with fleet := { st.fleet with slpState := 1, slpUs := 0, slpDrained := false } }
  else .next (slpRefuse st)

/-- SLP_WAKE (R366, R369). -/
def execSlpWake (st : State) : Out := if st.fleet.slpState = 2 then .next (wake st) else .next (slpRefuse st)

/-- Whether every task and every command of the engines has ended (R367, step 2). -/
def State.allIdle (s : State) : Bool := s.coreIds.all fun k => (s.core k).run == .idle && (s.core k).drained

/-- A core without power: what base camp keeps of its releases stays (R98). -/
def Core.unpowered (c : Core) : Core := { Core.reset with ivl := c.ivl, relScopes := c.relScopes }

/-- The ready bits that go to 0 in bivouac (R367, step 5): mem, cd, fl, peer and fin. -/
def sleepMask : Nat := 15 * 2 ^ 3 + 15 * 2 ^ 7 + 2 ^ 11 + 3 * 2 ^ 12 + 2 ^ 15

/-- Steps 3 to 5 of R367; peer links are taken down without their ports being declared failed. -/
def bivouac (s : State) : State :=
  let s := clearTables s.loseWrites fun _ => true
  let s := s.mapCores Core.unpowered
  let s := { s with
    unsaved := []
    vm := { s.vm with tlb := [] }
    ports := { s.ports with peers := s.ports.peers.map Peer.cut }
    fleet := { s.fleet with slpState := 2, clk := Vector.replicate 4 0 } }
  s.clearReady sleepMask

/-- slp.ctl.to in microseconds; 0 is taken as 1 (R366). -/
def Fleet.limitUs (f : Fleet) : Nat := max f.slpTo.toNat 1 * 1000

/-- Whether step 2 of an entry under way has not ended within its limit (R367). -/
def Fleet.entryLate (f : Fleet) : Bool := f.slpState == 1 && !f.slpDrained && decide (f.limitUs ≤ f.slpUs)

/-- An entry that took too long is aborted; writes that were not durable as it began may be lost (R102, R367). -/
def entryAborts (s : State) : State := { s with fleet := { s.fleet with slpState := 0, slpCode := 2 } }.loseWrites

/-- BIVOUAC_ENTRY_DRAINED (R367): step 2 ends, within its limit; step 3 waits for a firmware write to end (R378). -/
def execBivouacEntryDrained (st : State) : Out :=
  if st.fleet.slpState != 1 || !(st.fleet.slpDrained || st.allIdle) then .next st
  else if st.fleet.entryLate then .next (entryAborts st)
  else
    let s := { st with fleet := { st.fleet with slpDrained := true } }
    .next (if s.fw.updBusy then s else bivouac s)

/-- BIVOUAC_ENTRY_TIMEOUT (R367). -/
def execBivouacEntryTimeout (st : State) : Out := .next (if st.fleet.entryLate then entryAborts st else st)

/-- WAKE_DONE (R369): popping resumes, and what base camp had to wait with goes on; wt is measured to the first pop (R366). -/
def execWakeDone (st : State) : Out :=
  if st.fleet.slpState = 3 && st.ready readySch && (List.range 4).any st.dieReady then
    .next { st with fleet := { st.fleet with slpState := 0, slpCode := 4 } }.progress
  else .next st

/-! ## Firmware update (R377, R378) -/

/-- The register offset of upd.ctl. -/
def updOff : Nat := 0x100508

/-- UPD_WRITE_IMAGE (R378): a write of upd.ctl with op 1. -/
def execUpdWriteImage (v : Word64) (st : State) : Out :=
  if !st.ready readyFw then .next (refuseWrite st blkFw none updOff v.toNat)
  else
    let f := { st.fw with updLen := BitVec.ofNat 26 (bits v 25 0) }
    let s := { st with fw := f }
    if (f.state = 1 || f.state = 3) && s.ready readyFlash && !f.updBusy then
      .next ({ s with fw := { f with updBusy := true } }.send (.firmwareRead (bits f.updBase 63 12 * 4096) f.updLen.toNat))
    else .next { s with fw := { f with updSt := 6 } }

/-- UPD_WRITE_DONE (R378): first the image has been read and is checked, and step 3 begins with the erasure of the region; then, at a
second event, the new image has been written and read back. -/
def execUpdWriteDone (r : UpdResult) (st : State) : Out :=
  let f := st.fw
  let ends (c : Nat) (nand : Option (List Byte)) : State :=
    { st with fw := { f with updBusy := false, updSt := BitVec.ofNat 5 c, nand := nand, updWrite := none } }
  if !f.updBusy then .next st
  else match f.updWrite, r.image with
    | some b, _ => .next (if r.nandOk then ends 0 (some b) else ends 8 none)
    | none, none => .next (ends 7 f.nand)
    | none, some b => match hostImageWhy b f.updLen f.minsvn with
      | 0 => .next { st with fw := { f with nand := none, updWrite := some (b.take (imageLen b)) } }
      | why => .next (ends why f.nand)

/-- UPD_RAISE_MINIMUM (R378): a write of upd.ctl with op 2. -/
def execUpdRaiseMinimum (v : Word64) (st : State) : Out :=
  if !st.ready readyFw then .next (refuseWrite st blkFw none updOff v.toNat)
  else
    let f := { st.fw with updLen := BitVec.ofNat 26 (bits v 25 0) }
    let fits := f.nand.any fun b => decide (f.svn.toNat ≤ (imageSvn b).toNat)
    if f.state = 1 && fits then .next { st with fw := { f with minsvn := f.svn, updSt := 0 } }
    else .next { st with fw := { f with updSt := 6 } }

end Sys2Proof.Machine
end

