-- ==== Sys2Proof/Machine/Fleet.lean ====
section
/-! DEFINITION. Power and temperature (R371), storage errors and scrubbing (R372-R374). -/

namespace Sys2Proof.Machine

/-! ## Power and temperature (R371) -/

/-- A die's element of a vector. -/
def ofDie {α : Type} (v : Vector α 4) (d : Nat) : α := v[d % 4]'(Nat.mod_lt _ (by decide))

def setDie {α : Type} (v : Vector α 4) (d : Nat) (x : α) : Vector α 4 := v.set (d % 4) x (Nat.mod_lt _ (by decide))

/-- Whether a compute die runs: its cd bit (R359). -/
def State.dieRuns (s : State) (d : Nat) : Bool := s.ready (7 + d)

/-- A die's thermal grant after a window (R371): 25 MHz lower while it is hot; how it recovers is open (log 4). -/
def thermalNext (seq : Nat) (hot : Bool) (clk old : Nat) : Nat :=
  if hot then max 475 (min old clk - 25)
  else if old = 1900 then 1900
  else max old (clockOf (Config.freeNat seq 13))

/-- The grants of a die for the next window: the lower of the cap's and the thermal one (R371). -/
def evalDie (m : PowerSample) (s : State) (d : Nat) : State :=
  let t := (ofDie m.temp d).toNat
  let f := s.fleet
  let hot := if 100 ≤ t then true else if t < 95 then false else ofDie f.hot d
  if !s.dieRuns d then { s with fleet := { f with hot := setDie f.hot d hot, clk := setDie f.clk d 0, capClk := setDie f.capClk d 1900 } }
  else
    let th := thermalNext s.seq hot (ofDie f.clk d).toNat (ofDie f.thermal d).toNat
    let cap := clockOf (ofDie m.capGrant d).toNat
    { s with
      fleet := { f with
        hot := setDie f.hot d hot, thermal := setDie f.thermal d (BitVec.ofNat 16 th)
        capClk := setDie f.capClk d (BitVec.ofNat 16 cap), clk := setDie f.clk d (BitVec.ofNat 16 (min cap th)) }
      seq := s.seq + 1 }

/-- A die that has reached 110 degrees is powered off (R371, R337, R360). -/
def powerOff (s : State) (d t : Nat) : State :=
  let s := s.clearReady (2 ^ (7 + d))
  let s := { s with fleet := { s.fleet with clk := setDie s.fleet.clk d 0 } }
  let s := s.coreIds.foldl (fun s k =>
    let c := s.core k
    if dieOf k = d && (c.run == .running || c.run == .preempting) then takeTrap s k (c.baseRecord causeWatchdog 0 c.us) else s) s
  replaceRecords (s.logEntry 3 blkPower none d t) d

/-- The board power cap in mW: below 150 W it is taken as 150 W, above 600 W as 600 W (R371). -/
def Fleet.capMw (f : Fleet) : Nat := min (max f.cap.toNat 150) 600 * 1000

/-- Whether every compute die that runs is granted 475 MHz. -/
def State.allSlow (s : State) : Bool := (List.range 4).all fun d => !s.dieRuns d || ofDie s.fleet.clk d == 475

/-- Whether a measurement, with the grants that answer it, is one that the power manager lets come about (R15, R371): from the second
evaluation after a write of pwr.cap, power is at or below the cap unless every die runs at 475 MHz; and power above the cap lowers the
clock of a die that can go lower. The connector's 600 W hold whatever pwr.cap holds. -/
def State.powerHolds (s : State) (m : PowerSample) : Bool :=
  decide (m.mw.toNat ≤ 600000) && (decide (m.mw.toNat ≤ s.fleet.capMw) || s.allSlow ||
    (s.fleet.capEvals == 0 &&
      (List.range 4).any fun d => s.dieRuns d && decide (clockOf (ofDie m.capGrant d).toNat < (ofDie s.fleet.clk d).toNat)))

/-- The microseconds between two evaluations (R16). -/
def windowUs : Nat := 1000

/-- The microseconds that may pass before the power manager evaluates, while some die is on (R16; log 63). -/
def State.mayPass (s : State) (n : Nat) : Nat := if s.diesOn then min n (s.fleet.evalUs + windowUs - s.fleet.us) else n

/-- A measurement that the default order of turns makes, when an evaluation is due: free values within the cap (log 2, log 4). -/
def State.freeSample (s : State) : PowerSample where
  mw := BitVec.ofNat 32 (Config.freeNat s.seq 0 % (s.fleet.capMw + 1))
  temp := Vector.ofFn fun d => Config.freeByte s.seq d.val
  bc := Config.freeByte s.seq 4
  capGrant := Vector.ofFn fun d => BitVec.ofNat 16 (Config.freeNat s.seq (1 + d.val))

/-- Whether one of the running dies ran below 1,900 MHz by some grant in the window that ends. -/
def State.held (s : State) (p : Nat → Nat) : Bool := (List.range 4).any fun d => s.dieRuns d && decide (p d < 1900)

/-- POWER_EVALUATION (R16, R371, R370): once in a window of a millisecond; a measurement that the power manager does not let come about
changes nothing (log 57). -/
def execPowerEvaluation (m : PowerSample) (st : State) : Out :=
  if decide (st.fleet.us < st.fleet.evalUs + windowUs) || !st.powerHolds m then .next st
  else
  let s := { st with fleet := { st.fleet with
    mw := m.mw, temps := m.temp, bc := m.bc, evalUs := st.fleet.us, capEvals := st.fleet.capEvals + 1 } }
  let s := if st.held fun d => (ofDie st.fleet.capClk d).toNat then s.count 0 else s
  let s := if st.held fun d => (ofDie st.fleet.thermal d).toNat then s.count 1 else s
  let s := (List.range 4).foldl (evalDie m) s
  let slow := (List.range 4).any s.dieRuns && s.allSlow
  let above := decide (s.fleet.capMw < m.mw.toNat)
  let why := (s.fleet.hlthWhy &&& BitVec.ofNat 8 0xF7) ||| (if slow && above then BitVec.ofNat 8 8 else 0)
  let s := { s with fleet := { s.fleet with hlthWhy := why } }
  .next ((List.range 4).foldl (fun s d =>
    let t := (ofDie m.temp d).toNat
    if s.dieRuns d && decide (110 ≤ t) then powerOff s d t else s) s)

/-! ## Errors (R372-R374) -/

/-- A corrected error: counted where R370 has a counter, logged at severity 1, and remembered for hlth (R372, R376). -/
def corrected (s : State) (counter : Option (Fin 8)) (blk d0 : Nat) : State :=
  let s := match counter with | some i => s.count i | none => s
  let s := s.logEntry 1 blk none d0 0
  let recent := s.fleet.corrected.filter fun t => decide (s.fleet.us < t + 3600000000)
  { s with fleet := { s.fleet with corrected := recent ++ [s.fleet.us] } }

/-- Poisons the 64-byte unit of a physical address (R373). -/
def poisonUnit (s : State) (pa : Nat) : State :=
  if s.poison.contains (pa / 64) then s else { s with poison := s.poison ++ [pa / 64] }

/-- SCRUB (R374): the patrol scrubber reads a unit of a memory that is ready. -/
def execScrub (pa : BitVec 39) (r : ScrubResult) (st : State) : Out :=
  if st.fleet.scr = 0 || !memReady st.fw.ready (homeDie pa.toNat) then .next st
  else match r with
    | .clean => .next st
    | .corrected => .next (corrected st (some 2) blkMem pa.toNat)
    | .uncorrected => .next ((poisonUnit (st.count 4) pa.toNat).logEntry 2 blkMem none pa.toNat 0)

/-- An uncorrected error of a core's storage (R372): the context of its task dies; an idle core's block is zeroed. -/
def coreError (s : State) (k : CoreId) (block : Nat) : State :=
  let c := s.core k
  if 672 ≤ block then s
  else if c.run != .idle then ctxDie s c.task.ctx whyError
  else (s.modCore k fun c => c.setBlock block (List.replicate 1024 0)).logEntry 2 blkSram none k.toNat block

/-- A parity failure of a core's instruction cache, TLB or loop buffer (R372): which of them is open; the line or entry is discarded and
fetched again. -/
def discardCached (s : State) (k : CoreId) : State :=
  let c := s.core k
  let c := match Config.freeNat s.seq 14 % 3 with
    | 0 => { c with tlb := c.tlb.eraseIdx (Config.freeNat s.seq 15 % c.tlb.length) }
    | 1 => { c with loopRun := c.loopRun.map fun r => { r with buf := (s.loopStart k r.c).buf } }
    | _ => c
  { s.setCore k c with seq := s.seq + 1 }

/-- A parity failure of base camp's TLB (R372, R329): an entry, which of them is open, is discarded, and a walk fetches it again. -/
def discardCampTlb (s : State) : State :=
  { s with vm := { s.vm with tlb := s.vm.tlb.eraseIdx (Config.freeNat s.seq 15 % s.vm.tlb.length) }, seq := s.seq + 1 }

/-- An uncorrected error by kind of storage (R372). -/
def uncorrected (s : State) (e : StorageError) : State :=
  match e with
  | .dram pa => poisonUnit s pa.toNat
  | .coreSram k block => coreError s k block
  | .coreCache k => corrected s (some 3) blkSram k.toNat
  | .campTlb => corrected s (some 3) blkTrans 0
  | .laneTable l => corrected s (some 3) blkSram l.toNat
  | .baseCamp => s.logEntry 3 blkSram none 0 0
  | .nandSlot n => (match s.slot n.toNat with
    | some x => s.setSlot n.toNat (some { x with bad := true })
    | none => s)
  | .saveImage a => (match s.sched.images.find? (·.addr == a) with
    | some m => ctxDie s m.ctx whyImage
    | none => s)
  | .nandFirmware => { s with fw := { s.fw with nand := none } }

/-- STORAGE_ERROR (R372): a line or entry of a cache, a TLB, the loop buffer or a lane table is discarded and fetched again; such
parity failures are always corrected so. A lane's table, fetched again, stands as it was loaded. -/
def execStorageError (e : StorageError) (isCorrected : Bool) (st : State) : Out :=
  match e, isCorrected with
  | .dram pa, true => .next (corrected st (some 2) blkMem pa.toNat)
  | .coreSram k block, true => .next (corrected st (some 3) blkSram (k.toNat + 2 ^ 16 * block))
  | .coreCache k, _ => .next (corrected (discardCached st k) (some 3) blkSram k.toNat)
  | .campTlb, _ => .next (corrected (discardCampTlb st) (some 3) blkTrans 0)
  | .laneTable l, _ => .next (corrected st (some 3) blkSram l.toNat)
  | .baseCamp, true => .next (corrected st (some 3) blkSram 0)
  | .nandSlot n, true => .next (corrected st none blkFlash n.toNat)
  | .saveImage a, true => .next (corrected st none blkFlash a.toNat)
  | .nandFirmware, true => .next (corrected st none blkFlash 0)
  | e, false => .next (uncorrected (st.count 4) e)

end Sys2Proof.Machine
end

