-- ==== Sys2Proof/Machine/Registers.lean ====
section
/-! DEFINITION. The register window, BAR0 (R284, R285): what each register reads as, and the writes of registers that have no
row of their own (R4, R5, R360). Offsets here are those of 8-byte registers. -/

namespace Sys2Proof.Machine

/-! ## Which function a register belongs to (R285, R360) -/

/-- The ready bit of the function an offset belongs to: the host port, the scheduler, the peer ports, or the firmware. -/
def readyOf (o : Nat) : Nat :=
  if o < 0x10000 then 0
  else if o < 0x20000 then readySch
  else if o < 0x30000 then readyFw
  else if o < 0x31000 then 12
  else if o < 0x40000 then 13
  else if o < 0x80000 then readySch
  else readyFw

/-- Whether a register is served: its function is ready (R360), and with no verified firmware only the first page is (R363). -/
def State.serves (s : State) (o : Nat) : Bool := s.ready (readyOf o) && !(s.fw.state == 2 && decide (0x1000 ≤ o))

/-- The block that the error log names for a register. -/
def blockOf (o : Nat) : Nat :=
  if o < 0x1000 then blkFw
  else if o < 0x30000 then blkHost
  else if o < 0x40000 then blkPeer
  else if o < 0x80000 then blkSched
  else if o < 0xC0000 then blkTrans
  else if o < 0x100000 then blkSched
  else if o < 0x100300 then blkPower
  else if o < 0x100400 then blkMem
  else blkFw

/-! ## Reads -/

/-- The identity and status page (R359, R362, R364, R366). -/
def pageRead (s : State) (o : Nat) : Nat :=
  let f := s.fw
  if o = 0x000 then at' 48 0x4800 + at' 40 Config.stepping.toNat
  else if o = 0x008 then f.ready.toNat
  else if o = 0x010 then f.memOk.toNat
  else if o = 0x018 then at' 56 f.state.toNat + at' 48 f.why.toNat + f.svn.toNat
  else if o = 0x020 then f.ver.toNat
  else if o = 0x028 then f.minsvn.toNat
  else if o = 0x040 then f.recBase.toNat
  else if o = 0x048 then at' 62 (ofBool f.recBusy) + at' 56 f.recSt.toNat + f.recLen.toNat
  else if o = 0x080 then s.fleet.slpTo.toNat
  else if o = 0x088 then at' 61 s.fleet.slpState.toNat + at' 56 s.fleet.slpCode.toNat + s.fleet.slpWt.toNat
  else if 0x100 ≤ o ∧ o < 0x180 then
    let x := s.boot (BitVec.ofNat 4 ((o - 0x100) / 8))
    at' 63 (ofBool x.fl) + at' 62 (ofBool x.alt) + at' 61 (ofBool x.skip) + at' 48 x.fails.toNat
  else 0

/-- The context of an offset in a row of blocks. -/
def blockCtx (o base size : Nat) : CtxId := BitVec.ofNat 6 ((o - base) / size)

/-- A context's block (R286, R287). -/
def ctxRead (s : State) (o : Nat) : Nat :=
  let x := s.ctx (blockCtx o 0x10000 0x100)
  if 0x14000 ≤ o then 0
  else match o % 0x100 with
    | 0x00 => x.cfg.toNat
    | 0x08 => x.sqBase.toNat
    | 0x10 => x.sqCfg.toNat
    | 0x18 => x.sqTail.toNat
    | 0x20 => x.sqHead.toNat
    | 0x28 => at' 63 (ofBool x.sqStop) + x.sqCode.toNat
    | _ => 0

/-- An aperture (R290). -/
def apertureRead (s : State) (o : Nat) : Nat :=
  let a := s.ports.apertures[(o - 0x20000) / 0x40 % 8]'(Nat.mod_lt _ (by decide))
  if 0x20200 ≤ o then 0
  else match o % 0x40 with
    | 0x00 => a.cfg.toNat
    | 0x08 => a.win.toNat
    | 0x10 => a.len.toNat
    | 0x18 => a.va.toNat
    | _ => 0

/-- A peer port (R297). -/
def peerRegs (s : State) (o : Nat) : Nat :=
  let p := s.peer (decide (0x31000 ≤ o))
  let i := o % 0x1000
  if 0x32000 ≤ o then 0
  else if i = 0 then at' 63 (ofBool p.up) + at' 62 (ofBool p.failed) + p.trains.toNat
  else if 0x100 ≤ i ∧ i < 0x300 then (tabGet (0 : Word64) p.bind ((i - 0x100) / 8)).toNat
  else 0

/-- The scheduler's controls and the cairns (R303, R315). -/
def schedRead (s : State) (o : Nat) : Nat :=
  if o = 0x40000 then at' 20 s.sched.pgap.toNat + at' 16 (ofBool s.sched.pe) + s.sched.age.toNat
  else if 0x40100 ≤ o ∧ o < 0x40300 then (s.ctx (blockCtx o 0x40100 8)).pcap.toNat
  else if 0x60000 ≤ o then
    let x := s.cairn (BitVec.ofNat 12 ((o - 0x60000) / 32))
    match o % 32 with
    | 0x00 => x.cfg
    | 0x08 => x.exp.toNat
    | 0x10 => x.done.toNat
    | _ => 0
  else 0

/-- The physical address of an offset in the window at 0x0A_0000 (R327). -/
def State.windowPa (s : State) (o : Nat) : Nat := bits s.vm.pwin 38 16 * 2 ^ 16 + (o - 0xA0000)

/-- Translation, leases and paging (R326-R328), but for vm.ret; a refused frame reads as zero in the window. -/
def vmRead (s : State) (o : Nat) : Nat :=
  let v := s.vm
  if o < 0x81000 then
    let x := s.ctx (blockCtx o 0x80000 0x40)
    match o % 0x40 with
    | 0x00 => x.vmRoot.toNat
    | 0x08 => x.vmPkey.toNat
    | _ => 0
  else if o = 0x81000 then at' 62 v.op.toNat + at' 56 v.ctx.toNat + at' 54 (ofBool v.busy.isSome) + at' 51 v.st.toNat
  else if o = 0x81008 then v.base.toNat
  else if o = 0x81010 then v.npg.toNat
  else if o = 0x81048 then ((List.range 4).map fun d => at' (16 * d) (s.freeList d).length).sum
  else if o = 0x81050 then v.pwin.toNat
  else if 0xA0000 ≤ o ∧ o < 0xB0000 then
    if frameRefused s.fw.ready (s.windowPa o) then 0 else memNat s.dram (s.windowPa o) 8
  else 0

/-- Faults and watchdogs (R345, R357). -/
def fltRead (s : State) (o : Nat) : Nat :=
  if o = 0xD0000 then s.sched.wdStop.toNat
  else if 0xC1000 ≤ o then 0
  else
    let x := s.ctx (blockCtx o 0xC0000 0x40)
    match o % 0x40 with
    | 0x00 => x.fltBase.toNat
    | 0x08 => x.fltCfg.toNat
    | 0x10 => x.fltHead.toNat
    | 0x18 => x.fltTail.toNat
    | 0x20 => x.fltLost.toNat
    | 0x28 => at' 63 (ofBool x.dead) + at' 62 (ofBool x.drain) + x.why.toNat
    | 0x30 => x.wdTask.toNat
    | _ => 0

/-- Telemetry, power, error log and update (R370-R377). -/
def fleetRead (s : State) (o : Nat) : Nat :=
  let f := s.fleet
  let four (g : Nat → Nat) (w : Nat) : Nat := ((List.range 4).map fun d => at' (w * d) (g d)).sum
  if o = 0x100000 then four (fun d => (ofDie f.clk d).toNat) 16
  else if o = 0x100008 then f.mw.toNat
  else if o = 0x100010 then at' 32 f.bc.toNat + four (fun d => (ofDie f.temps d).toNat) 8
  else if 0x100100 ≤ o ∧ o < 0x100140 then (f.cnt[(o - 0x100100) / 8 % 8]'(Nat.mod_lt _ (by decide))).toNat
  else if o = 0x100200 then f.cap.toNat
  else if o = 0x100300 then f.scr.toNat
  else if o = 0x100400 then at' 8 s.healthWhy + s.healthState
  else if o = 0x100500 then s.fw.updBase.toNat
  else if o = 0x100508 then at' 61 (ofBool s.fw.updBusy) + at' 56 s.fw.updSt.toNat + s.fw.updLen.toNat
  else if o = 0x101000 then f.logHead.toNat
  else if o = 0x101008 then f.logTail.toNat
  else if o = 0x101010 then f.logSev.toNat
  else if o = 0x101018 then f.logLost.toNat
  else if 0x102000 ≤ o ∧ o < 0x104000 then
    let e := f.log[(o - 0x102000) / 32 % 256]'(Nat.mod_lt _ (by decide))
    match o % 32 with
    | 0x00 => e.w0.toNat
    | 0x08 => e.w1.toNat
    | 0x10 => e.d0.toNat
    | _ => e.d1.toNat
  else 0

/-- What a register reads as (R285); reserved offsets read as zero (R4). -/
def regValue (s : State) (o : Nat) : Nat :=
  if o < 0x1000 then pageRead s o
  else if o < 0x2000 then memNat s.ports.msix (o - 0x1000) 8
  else if o < 0x10000 then 0
  else if o < 0x20000 then ctxRead s o
  else if o < 0x30000 then apertureRead s o
  else if o < 0x40000 then peerRegs s o
  else if o < 0x80000 then schedRead s o
  else if o < 0xC0000 then vmRead s o
  else if o < 0x100000 then fltRead s o
  else if o < 0x140000 then fleetRead s o
  else 0

/-- A read of a register: zero before its function is ready (R360); a read of vm.ret pops (R327). -/
def regRead (s : State) (o : Nat) : Nat × State :=
  if !s.serves o then (0, s)
  else if o = 0x81040 then retRead s
  else (regValue s o, s)

/-! ## Writes -/

/-- The RW bits of a register, which a 4-byte write of its other half leaves (R284). -/
def regMask (o : Nat) : Nat :=
  if o = 0x040 then 2 ^ 64 - 2 ^ 12
  else if o = 0x048 then 2 ^ 26 - 1
  else if o = 0x080 then 2 ^ 16 - 1
  else if o < 0x1000 then 0
  else if o < 0x2000 then (if o < 0x1480 then 2 ^ 64 - 1 else 0)
  else if o < 0x10000 then 0
  else if o < 0x14000 then
    (match o % 0x100 with
     | 0x00 => ctxCfgMask.toNat
     | 0x08 => 2 ^ 57 - 2 ^ 12
     | 0x10 => 2 ^ 5 - 1
     | 0x18 => 2 ^ 32 - 1
     | _ => 0)
  else if o < 0x20000 then 0
  else if o < 0x20200 then (if o % 0x40 < 0x20 then (apertureMask (BitVec.ofNat 2 (o % 0x40 / 8))).toNat else 0)
  else if o < 0x30000 then 0
  else if o < 0x32000 then (if 0x100 ≤ o % 0x1000 ∧ o % 0x1000 < 0x300 then 2 ^ 63 + 63 else 0)
  else if o = 0x40000 then 0x1F * 2 ^ 20 + 2 ^ 17 - 1
  else if 0x40100 ≤ o ∧ o < 0x40300 then 31
  else if 0x60000 ≤ o ∧ o < 0x80000 then (if o % 32 = 0 then 0x3FF * 2 ^ 54 else 0)
  else if 0x80000 ≤ o ∧ o < 0x81000 then
    (match o % 0x40 with
     | 0x00 => 2 ^ 63 + (2 ^ 27 - 1) * 2 ^ 12
     | 0x08 => 2 ^ 64 - 1
     | _ => 0)
  else if o = 0x81000 then 0xFF * 2 ^ 56
  else if o = 0x81008 then 2 ^ 57 - 2 ^ 12
  else if o = 0x81010 then 2 ^ 32 - 1
  else if o = 0x81050 then (2 ^ 23 - 1) * 2 ^ 16
  else if 0xA0000 ≤ o ∧ o < 0xB0000 then 2 ^ 64 - 1
  else if 0xC0000 ≤ o ∧ o < 0xC1000 then
    (match o % 0x40 with
     | 0x00 => 2 ^ 57 - 2 ^ 7
     | 0x08 => 3 * 2 ^ 62 + 15
     | 0x18 | 0x20 | 0x30 => 2 ^ 32 - 1
     | _ => 0)
  else if o = 0xD0000 then 2 ^ 32 - 1
  else if 0x100100 ≤ o ∧ o < 0x100140 then 2 ^ 64 - 1
  else if o = 0x100200 ∨ o = 0x100300 then 2 ^ 16 - 1
  else if o = 0x100500 then 2 ^ 64 - 2 ^ 12
  else if o = 0x100508 then 2 ^ 26 - 1
  else if o = 0x101008 ∨ o = 0x101018 then 2 ^ 32 - 1
  else if o = 0x101010 then 3
  else 0

/-- The state of a row's meaning. -/
def nextOf (o : Out) (s : State) : State := match o with | .next s' => s' | _ => s

/-- Writes of the identity and status page; `v` holds the RW bits, `raw` the bits as written. -/
def pageWrite (s : State) (o : Nat) (v raw : Word64) : State :=
  if o = 0x040 then { s with fw := { s.fw with recBase := v } }
  else if o = 0x048 then
    if bit raw 63 then nextOf (execRecoveryLoad raw s) s else { s with fw := { s.fw with recLen := BitVec.ofNat 26 v.toNat } }
  else if o = 0x080 then
    let s := { s with fleet := { s.fleet with slpTo := BitVec.ofNat 16 v.toNat } }
    match bits raw 63 62 with
    | 1 => nextOf (execSlpEnter s) s
    | 2 => nextOf (execSlpWake s) s
    | _ => s
  else if 0x100 ≤ o ∧ o < 0x180 ∧ bit raw 60 then
    let k : BitVec 4 := BitVec.ofNat 4 ((o - 0x100) / 8)
    nextOf (execBootStepClear k s) s
  else s

/-- Writes of a context's block: sq.base and sq.cfg while the context is disabled (R287). -/
def ctxBlockWrite (s : State) (o : Nat) (v raw : Word64) : State :=
  let n := blockCtx o 0x10000 0x100
  let x := s.ctx n
  match o % 0x100 with
  | 0x00 => ctxCfgWrite s n v
  | 0x08 => if x.en then s else s.setCtx n { x with sqBase := v }
  | 0x10 => if x.en then s else s.setCtx n { x with sqCfg := v }
  | 0x18 => sqTailWrite s n (BitVec.ofNat 32 v.toNat)
  | 0x28 => if bit raw 63 then stopClear s n else s
  | _ => s

/-- Writes of a peer port. -/
def peerWriteReg (s : State) (o : Nat) (v raw : Word64) : State :=
  let port := decide (0x31000 ≤ o)
  let p := s.peer port
  let i := o % 0x1000
  if i = 0 then (if bit raw 62 then nextOf (execPeerFailedClear (if port then 1 else 0) s) s else s)
  else if 0x100 ≤ i ∧ i < 0x300 then s.setPeer port { p with bind := tabSet 0 p.bind ((i - 0x100) / 8) v }
  else s

/-- Writes of the scheduler's controls and of cairns (R304, R315). -/
def schedWrite (s : State) (o : Nat) (v raw : Word64) : State :=
  if o = 0x40000 then
    { s with sched := { s.sched with
        pgap := BitVec.ofNat 5 (bits v 24 20), pe := bit v 16, age := BitVec.ofNat 16 (bits v 15 0) } }.requests
  else if 0x40100 ≤ o ∧ o < 0x40300 then
    let n := blockCtx o 0x40100 8
    s.setCtx n { s.ctx n with pcap := BitVec.ofNat 5 (bits v 4 0) }
  else if 0x60000 ≤ o ∧ o % 32 = 0 then cairnWrite s (BitVec.ofNat 12 ((o - 0x60000) / 32)) raw
  else s

/-- A write of vm.root (R326): the root only while the context is disabled, and no refused frame; mig at any time. -/
def rootWrite (s : State) (n : CtxId) (v : Word64) : State :=
  let x := s.ctx n
  let root := bits v 38 12
  let mig (r : Word64) : Word64 := setFld r 63 63 (bits v 63 63)
  if root = bits x.vmRoot 38 12 then s.setCtx n { x with vmRoot := mig x.vmRoot }
  else if x.en || frameRefused s.fw.ready (root * 4096) then
    refuseWrite (s.setCtx n { x with vmRoot := mig x.vmRoot }) blkTrans (some n) (0x80000 + 0x40 * n.toNat) v.toNat
  else s.setCtx n { x with vmRoot := v }

/-- Writes of the translation unit (R326-R328). -/
def vmWrite (s : State) (o : Nat) (v raw : Word64) : State :=
  let refused := refuseWrite s blkTrans none o raw.toNat
  if o < 0x81000 then
    let n := blockCtx o 0x80000 0x40
    match o % 0x40 with
    | 0x00 => rootWrite s n v
    | 0x08 => s.setCtx n { s.ctx n with vmPkey := v }
    | _ => s
  else if o = 0x81000 then vmCmdWrite s raw
  else if o = 0x81008 then if s.vm.busy.isSome then refused else { s with vm := { s.vm with base := v } }
  else if o = 0x81010 then
    if s.vm.busy.isSome then refused else { s with vm := { s.vm with npg := BitVec.ofNat 32 v.toNat } }
  else if 0x81020 ≤ o ∧ o < 0x81040 then nextOf (execVmFreePush (BitVec.ofNat 2 ((o - 0x81020) / 8)) raw s) s
  else if o = 0x81050 then { s with vm := { s.vm with pwin := v } }
  else if 0xA0000 ≤ o ∧ o < 0xB0000 then
    if frameRefused s.fw.ready (s.windowPa o) then refused else s.writePhys (s.windowPa o) (toBytes 8 v.toNat)
  else s

/-- Writes of the fault blocks and the stop watchdog (R345, R357). -/
def fltWrite (s : State) (o : Nat) (v raw : Word64) : State :=
  if o = 0xD0000 then { s with sched := { s.sched with wdStop := BitVec.ofNat 32 v.toNat } }
  else if 0xC1000 ≤ o then s
  else
    let n := blockCtx o 0xC0000 0x40
    let x := s.ctx n
    match o % 0x40 with
    | 0x00 => s.setCtx n { x with fltBase := v }
    | 0x08 =>
      if bit v 63 && (decide (bits v 3 0 < 2) || decide (12 < bits v 3 0)) then refuseWrite s blkSched (some n) o raw.toNat
      else s.setCtx n { x with fltCfg := v }
    | 0x18 => s.setCtx n { x with fltTail := BitVec.ofNat 32 v.toNat }
    | 0x20 => s.setCtx n { x with fltLost := BitVec.ofNat 32 v.toNat }
    | 0x28 => if bit raw 61 then nextOf (execCtxKill n s) s else s
    | 0x30 => s.setCtx n { x with wdTask := BitVec.ofNat 32 v.toNat }
    | _ => s

/-- Writes of telemetry, power, the error log and update (R370-R378). -/
def fleetWrite (s : State) (o : Nat) (v raw : Word64) : State :=
  let f := s.fleet
  if 0x100100 ≤ o ∧ o < 0x100140 then
    { s with fleet := { f with cnt := f.cnt.set ((o - 0x100100) / 8 % 8) v (Nat.mod_lt _ (by decide)) } }
  else if o = 0x100200 then { s with fleet := { f with cap := BitVec.ofNat 16 v.toNat, capEvals := 0 } }
  else if o = 0x100300 then { s with fleet := { f with scr := BitVec.ofNat 16 v.toNat } }
  else if o = 0x100500 then { s with fw := { s.fw with updBase := v } }
  else if o = 0x100508 then
    match bits raw 63 62 with
    | 1 => nextOf (execUpdWriteImage raw s) s
    | 2 => nextOf (execUpdRaiseMinimum raw s) s
    | _ => { s with fw := { s.fw with updLen := BitVec.ofNat 26 v.toNat } }
  else if o = 0x101008 then { s with fleet := { f with logTail := BitVec.ofNat 32 v.toNat } }
  else if o = 0x101010 then { s with fleet := { f with logSev := BitVec.ofNat 2 v.toNat } }
  else if o = 0x101018 then { s with fleet := { f with logLost := BitVec.ofNat 32 v.toNat } }
  else s

/-- A write of the MSI-X table (R283): a vector that it unmasks while its pending bit is set is sent, and the bit cleared. -/
def msixWrite (s : State) (off : Nat) (v : Word64) : State :=
  let s := { s with ports := { s.ports with msix := memWrite s.ports.msix off (toBytes 8 v.toNat) } }
  let n := off / 16
  if !s.msixMasked n && bit (memGet s.ports.msix (msixPending + n / 8)) (n % 8) then (s.msixPend n false).msix n else s

/-- A write of a register (R4, R5): `raw` as written, with the RW bits of what it reads as in a half not written. -/
def regWrite (s : State) (o : Nat) (raw : Word64) : State :=
  let v := raw &&& BitVec.ofNat 64 (regMask o)
  if !s.serves o then refuseWrite s (blockOf o) none o raw.toNat
  else if o < 0x1000 then pageWrite s o v raw
  else if o < 0x2000 then (if o < 0x1480 then msixWrite s (o - 0x1000) v else s)
  else if o < 0x10000 then s
  else if o < 0x14000 then ctxBlockWrite s o v raw
  else if o < 0x20000 then s
  else if o < 0x20200 then
    if o % 0x40 < 0x20 then
      apertureWrite s (BitVec.ofNat 3 ((o - 0x20000) / 0x40)) (BitVec.ofNat 2 (o % 0x40 / 8)) v
    else s
  else if o < 0x30000 then s
  else if o < 0x32000 then peerWriteReg s o v raw
  else if o < 0x40000 then s
  else if o < 0x80000 then schedWrite s o v raw
  else if o < 0xC0000 then vmWrite s o v raw
  else if o < 0x100000 then fltWrite s o v raw
  else if o < 0x140000 then fleetWrite s o v raw
  else s

/-! ## The rows (R284) -/

/-- Whether an access to BAR0 is one it accepts: 4 or 8 bytes, naturally aligned. -/
def windowSize (off size : Nat) : Bool := (size == 4 || size == 8) && off % size == 0

/-- The bits of a register of which a write acts: its RW bits, and those that are write-only or cleared by a write of 1 (R5). -/
def actMask (o : Nat) : Nat :=
  regMask o +
  (if o = 0x048 then 2 ^ 63
   else if o = 0x080 ∨ o = 0x100508 then 3 * 2 ^ 62
   else if 0x100 ≤ o ∧ o < 0x180 then 2 ^ 60
   else if 0x10000 ≤ o ∧ o < 0x14000 ∧ o % 0x100 = 0x28 then 2 ^ 63
   else if o = 0x30000 ∨ o = 0x31000 then 2 ^ 62
   else if 0x60000 ≤ o ∧ o < 0x80000 ∧ o % 32 = 0 then 2 ^ 53
   else if o = 0x81000 then 2 ^ 55
   else if 0x81020 ≤ o ∧ o < 0x81040 then (2 ^ 27 - 1) * 2 ^ 12
   else if 0xC0000 ≤ o ∧ o < 0xC1000 ∧ o % 0x40 = 0x28 then 2 ^ 61
   else 0)

/-- A write of the window (R284): of another size it is dropped and logged. A 4-byte write of a half all of whose bits are read-only is
ignored (R5). -/
def windowWrite (s : State) (off size : Nat) (v : Word64) : State :=
  if !windowSize off size then refuseWrite s (blockOf off) none off v.toNat
  else if size = 8 then regWrite s off v
  else
    let lo := off % 8 * 8
    let o := off / 8 * 8
    let m := BitVec.ofNat 64 ((2 ^ 32 - 1) * 2 ^ lo)
    if s.serves o && bits (BitVec.ofNat 64 (actMask o)) (lo + 31) lo = 0 then s
    else
    let kept := BitVec.ofNat 64 (regValue s o) &&& BitVec.ofNat 64 (regMask o) &&& ~~~m
    regWrite s o (kept ||| (BitVec.ofNat 64 (v.toNat % 2 ^ 32 * 2 ^ lo) &&& m))

/-- REGISTER_WRITE (R5, R284, R285, R360): nothing answers before the host port is ready. -/
def execRegisterWrite (off : BitVec 24) (size : Nat) (v : Word64) (st : State) : Out :=
  .next (if st.ready 0 then windowWrite st off.toNat size v else st)

/-- A read of the window (R284): the state it leaves, with its completion sent. -/
def windowRead (s : State) (off size : Nat) : State :=
  if !windowSize off size then (s.send .completerAbort).logFree (blockOf off) none off size
  else
    let r := regRead s (off / 8 * 8)
    let v := r.1 / 2 ^ (off % 8 * 8)
    r.2.send (.readDone (toBytes size v) false)

/-- REGISTER_WINDOW_READ (R284, R306). -/
def execRegisterWindowRead (off : BitVec 24) (size : Nat) (st : State) : Out :=
  .next (if st.ready 0 then windowRead st off.toNat size else st)

end Sys2Proof.Machine
end

