-- ==== Sys2Proof/Machine/VectorWords.lean ====
section
/-! DEFINITION. The meanings of the vector stream's words, one definition each over the kernels of their slots. -/

namespace Sys2Proof.Machine

/-! ## The A and B slots (08) -/

/-- VADD (R182). -/
def execVadd (c : Bool) (s : Bool) (d : BitVec 8) (a : BitVec 8) (b : BitVec 8) (st : State) : Out :=
  vrun (.vadd c s d a b) st

/-- VSUB (R182). -/
def execVsub (c : Bool) (s : Bool) (d : BitVec 8) (a : BitVec 8) (b : BitVec 8) (st : State) : Out :=
  vrun (.vsub c s d a b) st

/-- VMUL (R182). -/
def execVmul (c : Bool) (s : Bool) (d : BitVec 8) (a : BitVec 8) (b : BitVec 8) (st : State) : Out :=
  vrun (.vmul c s d a b) st

/-- VDIV (R182). -/
def execVdiv (c : Bool) (s : Bool) (d : BitVec 8) (a : BitVec 8) (b : BitVec 8) (st : State) : Out :=
  vrun (.vdiv c s d a b) st

/-- VFMA (R182). -/
def execVfma (c : Bool) (s : Bool) (d : BitVec 8) (a : BitVec 8) (b : BitVec 8) (st : State) : Out :=
  vrun (.vfma c s d a b) st

/-- VFNMA (R182). -/
def execVfnma (c : Bool) (s : Bool) (d : BitVec 8) (a : BitVec 8) (b : BitVec 8) (st : State) : Out :=
  vrun (.vfnma c s d a b) st

/-- VMIN (R182). -/
def execVmin (c : Bool) (s : Bool) (d : BitVec 8) (a : BitVec 8) (b : BitVec 8) (st : State) : Out :=
  vrun (.vmin c s d a b) st

/-- VMAX (R182). -/
def execVmax (c : Bool) (s : Bool) (d : BitVec 8) (a : BitVec 8) (b : BitVec 8) (st : State) : Out :=
  vrun (.vmax c s d a b) st

/-- VCSGN (R182). -/
def execVcsgn (c : Bool) (s : Bool) (d : BitVec 8) (a : BitVec 8) (b : BitVec 8) (st : State) : Out :=
  vrun (.vcsgn c s d a b) st

/-- VMOV (R183). -/
def execVmov (c : Bool) (s : Bool) (d : BitVec 8) (a : BitVec 8) (st : State) : Out :=
  vrun (.vmov c s d a) st

/-- VNEG (R183). -/
def execVneg (c : Bool) (s : Bool) (d : BitVec 8) (a : BitVec 8) (st : State) : Out :=
  vrun (.vneg c s d a) st

/-- VABS (R183). -/
def execVabs (c : Bool) (s : Bool) (d : BitVec 8) (a : BitVec 8) (st : State) : Out :=
  vrun (.vabs c s d a) st

/-- VSQRT (R183). -/
def execVsqrt (c : Bool) (s : Bool) (d : BitVec 8) (a : BitVec 8) (st : State) : Out :=
  vrun (.vsqrt c s d a) st

/-- VRSQRT (R183). -/
def execVrsqrt (c : Bool) (s : Bool) (d : BitVec 8) (a : BitVec 8) (st : State) : Out :=
  vrun (.vrsqrt c s d a) st

/-- VRCP (R183). -/
def execVrcp (c : Bool) (s : Bool) (d : BitVec 8) (a : BitVec 8) (st : State) : Out :=
  vrun (.vrcp c s d a) st

/-- VEXP (R183). -/
def execVexp (c : Bool) (s : Bool) (d : BitVec 8) (a : BitVec 8) (st : State) : Out :=
  vrun (.vexp c s d a) st

/-- VLOG (R183). -/
def execVlog (c : Bool) (s : Bool) (d : BitVec 8) (a : BitVec 8) (st : State) : Out :=
  vrun (.vlog c s d a) st

/-- VTANH (R183). -/
def execVtanh (c : Bool) (s : Bool) (d : BitVec 8) (a : BitVec 8) (st : State) : Out :=
  vrun (.vtanh c s d a) st

/-- VSIGM (R183). -/
def execVsigm (c : Bool) (s : Bool) (d : BitVec 8) (a : BitVec 8) (st : State) : Out :=
  vrun (.vsigm c s d a) st

/-- VSIN (R183). -/
def execVsin (c : Bool) (s : Bool) (d : BitVec 8) (a : BitVec 8) (st : State) : Out :=
  vrun (.vsin c s d a) st

/-- VCOS (R183). -/
def execVcos (c : Bool) (s : Bool) (d : BitVec 8) (a : BitVec 8) (st : State) : Out :=
  vrun (.vcos c s d a) st

/-- VCMPEQ (R184). -/
def execVcmpeq (c : Bool) (s : Bool) (d : BitVec 8) (a : BitVec 8) (b : BitVec 8) (st : State) : Out :=
  vrun (.vcmpeq c s d a b) st

/-- VCMPLT (R184). -/
def execVcmplt (c : Bool) (s : Bool) (d : BitVec 8) (a : BitVec 8) (b : BitVec 8) (st : State) : Out :=
  vrun (.vcmplt c s d a b) st

/-- VCMPLE (R184). -/
def execVcmple (c : Bool) (s : Bool) (d : BitVec 8) (a : BitVec 8) (b : BitVec 8) (st : State) : Out :=
  vrun (.vcmple c s d a b) st

/-- VIADD (R186). -/
def execViadd (c : Bool) (s : Bool) (d : BitVec 8) (a : BitVec 8) (b : BitVec 8) (st : State) : Out :=
  vrun (.viadd c s d a b) st

/-- VISUB (R186). -/
def execVisub (c : Bool) (s : Bool) (d : BitVec 8) (a : BitVec 8) (b : BitVec 8) (st : State) : Out :=
  vrun (.visub c s d a b) st

/-- VIMUL (R186). -/
def execVimul (c : Bool) (s : Bool) (d : BitVec 8) (a : BitVec 8) (b : BitVec 8) (st : State) : Out :=
  vrun (.vimul c s d a b) st

/-- VIMIN (R186). -/
def execVimin (c : Bool) (s : Bool) (d : BitVec 8) (a : BitVec 8) (b : BitVec 8) (st : State) : Out :=
  vrun (.vimin c s d a b) st

/-- VIMAX (R186). -/
def execVimax (c : Bool) (s : Bool) (d : BitVec 8) (a : BitVec 8) (b : BitVec 8) (st : State) : Out :=
  vrun (.vimax c s d a b) st

/-- VAND (R186). -/
def execVand (c : Bool) (s : Bool) (d : BitVec 8) (a : BitVec 8) (b : BitVec 8) (st : State) : Out :=
  vrun (.vand c s d a b) st

/-- VOR (R186). -/
def execVor (c : Bool) (s : Bool) (d : BitVec 8) (a : BitVec 8) (b : BitVec 8) (st : State) : Out :=
  vrun (.vor c s d a b) st

/-- VXOR (R186). -/
def execVxor (c : Bool) (s : Bool) (d : BitVec 8) (a : BitVec 8) (b : BitVec 8) (st : State) : Out :=
  vrun (.vxor c s d a b) st

/-- VSHL (R186). -/
def execVshl (c : Bool) (s : Bool) (d : BitVec 8) (a : BitVec 8) (b : BitVec 8) (st : State) : Out :=
  vrun (.vshl c s d a b) st

/-- VSHR (R186). -/
def execVshr (c : Bool) (s : Bool) (d : BitVec 8) (a : BitVec 8) (b : BitVec 8) (st : State) : Out :=
  vrun (.vshr c s d a b) st

/-- VSAR (R186). -/
def execVsar (c : Bool) (s : Bool) (d : BitVec 8) (a : BitVec 8) (b : BitVec 8) (st : State) : Out :=
  vrun (.vsar c s d a b) st

/-- VICMPEQ (R184). -/
def execVicmpeq (c : Bool) (s : Bool) (d : BitVec 8) (a : BitVec 8) (b : BitVec 8) (st : State) : Out :=
  vrun (.vicmpeq c s d a b) st

/-- VICMPLT (R184). -/
def execVicmplt (c : Bool) (s : Bool) (d : BitVec 8) (a : BitVec 8) (b : BitVec 8) (st : State) : Out :=
  vrun (.vicmplt c s d a b) st

/-- VSEL (R185). -/
def execVsel (c : Bool) (s : Bool) (d : BitVec 8) (a : BitVec 8) (b : BitVec 8) (st : State) : Out :=
  vrun (.vsel c s d a b) st

/-- CVT.FF (R188). -/
def execCvtFf (c : Bool) (s : Bool) (d : BitVec 8) (a : BitVec 8) (t : Bool) (st : State) : Out :=
  vrun (.cvtFf c s d a t) st

/-- CVT.FI (R188). -/
def execCvtFi (c : Bool) (s : Bool) (d : BitVec 8) (a : BitVec 8) (t : Bool) (k : BitVec 5) (st : State) : Out :=
  vrun (.cvtFi c s d a t k) st

/-- CVT.IF (R188). -/
def execCvtIf (c : Bool) (s : Bool) (d : BitVec 8) (a : BitVec 8) (st : State) : Out :=
  vrun (.cvtIf c s d a) st

/-- CVT.CI (R188). -/
def execCvtCi (c : Bool) (s : Bool) (d : BitVec 8) (a : BitVec 8) (k : BitVec 5) (st : State) : Out :=
  vrun (.cvtCi c s d a k) st

/-- VRSUM (R189). -/
def execVrsum (c : Bool) (s : Bool) (d : BitVec 8) (a : BitVec 8) (st : State) : Out :=
  vrun (.vrsum c s d a) st

/-- VRMAX (R189). -/
def execVrmax (c : Bool) (s : Bool) (d : BitVec 8) (a : BitVec 8) (st : State) : Out :=
  vrun (.vrmax c s d a) st

/-- VRMIN (R189). -/
def execVrmin (c : Bool) (s : Bool) (d : BitVec 8) (a : BitVec 8) (st : State) : Out :=
  vrun (.vrmin c s d a) st

/-- VRISUM (R189). -/
def execVrisum (c : Bool) (s : Bool) (d : BitVec 8) (a : BitVec 8) (st : State) : Out :=
  vrun (.vrisum c s d a) st

/-- VPERM (R190). -/
def execVperm (c : Bool) (s : Bool) (d : BitVec 8) (a : BitVec 8) (b : BitVec 8) (st : State) : Out :=
  vrun (.vperm c s d a b) st

/-- VBCAST (R191). -/
def execVbcast (c : Bool) (s : Bool) (d : BitVec 8) (a : BitVec 8) (i : BitVec 8) (st : State) : Out :=
  vrun (.vbcast c s d a i) st

/-- JSEED (R192). -/
def execJseed (c : Bool) (s : Bool) (d : BitVec 8) (a : BitVec 8) (st : State) : Out :=
  vrun (.jseed c s d a) st

/-- JEXT (R192). -/
def execJext (c : Bool) (s : Bool) (d : BitVec 8) (a : BitVec 8) (f : Bool) (k : BitVec 3) (st : State) : Out :=
  vrun (.jext c s d a f k) st

/-- JSET (R192). -/
def execJset (c : Bool) (s : Bool) (d : BitVec 8) (a : BitVec 8) (k : BitVec 3) (st : State) : Out :=
  vrun (.jset c s d a k) st

/-! ## The M slot (09) -/

/-- CIM.PASS (R201). -/
def execCimPass (c : Bool) (b : BitVec 5) (l : BitVec 3) (a : BitVec 7) (p : BitVec 3) (e : BitVec 4) (o : Bool) (n : Bool) (g : Bool) (st : State) : Out :=
  vrun (.cimPass c b l a p e o n g) st

/-- CIM.SWAP (R203). -/
def execCimSwap (c : Bool) (b : BitVec 5) (st : State) : Out :=
  vrun (.cimSwap c b) st

/-- CIM.SWAPW (R203). -/
def execCimSwapw (c : Bool) (b : BitVec 5) (st : State) : Out :=
  vrun (.cimSwapw c b) st

/-- ACC.CLR (R206). -/
def execAccClr (c : Bool) (e : BitVec 4) (st : State) : Out :=
  vrun (.accClr c e) st

/-- ACC.CVT.F32 (R206). -/
def execAccCvtF32 (c : Bool) (d : BitVec 7) (e : BitVec 4) (st : State) : Out :=
  vrun (.accCvtF32 c d e) st

/-- ACC.CVT.I32 (R206). -/
def execAccCvtI32 (c : Bool) (d : BitVec 7) (e : BitVec 4) (st : State) : Out :=
  vrun (.accCvtI32 c d e) st

/-- LUT.BUILD (R207). -/
def execLutBuild (c : Bool) (v : BitVec 7) (i : BitVec 4) (st : State) : Out :=
  vrun (.lutBuild c v i) st

/-- LUT.ACC (R208). -/
def execLutAcc (c : Bool) (e : BitVec 4) (q : BitVec 3) (k : BitVec 4) (st : State) : Out :=
  vrun (.lutAcc c e q k) st

/-- OUTL (R209). -/
def execOutl (c : Bool) (e : BitVec 4) (v : BitVec 7) (q : BitVec 3) (st : State) : Out :=
  vrun (.outl c e v q) st

/-- RSC (R210). -/
def execRsc (c : Bool) (d : BitVec 7) (e : BitVec 4) (t : BitVec 4) (q : BitVec 3) (st : State) : Out :=
  vrun (.rsc c d e t q) st

/-- QNT (R212). -/
def execQnt (c : Bool) (d : BitVec 7) (v : BitVec 7) (p : BitVec 4) (st : State) : Out :=
  vrun (.qnt c d v p) st

/-- QPAR (R213). -/
def execQpar (c : Bool) (v : BitVec 7) (p : BitVec 4) (k : BitVec 5) (st : State) : Out :=
  vrun (.qpar c v p k) st

/-! ## The I slot (10) -/

/-- IADD (R216). -/
def execIadd (c : Bool) (d : BitVec 4) (a : BitVec 4) (b : BitVec 4) (st : State) : Out :=
  vrun (.iadd c d a b) st

/-- ISUB (R216). -/
def execIsub (c : Bool) (d : BitVec 4) (a : BitVec 4) (b : BitVec 4) (st : State) : Out :=
  vrun (.isub c d a b) st

/-- ISHL (R216). -/
def execIshl (c : Bool) (d : BitVec 4) (a : BitVec 4) (b : BitVec 4) (st : State) : Out :=
  vrun (.ishl c d a b) st

/-- ISHR (R216). -/
def execIshr (c : Bool) (d : BitVec 4) (a : BitVec 4) (b : BitVec 4) (st : State) : Out :=
  vrun (.ishr c d a b) st

/-- IAND (R216). -/
def execIand (c : Bool) (d : BitVec 4) (a : BitVec 4) (b : BitVec 4) (st : State) : Out :=
  vrun (.iand c d a b) st

/-- IOR (R216). -/
def execIor (c : Bool) (d : BitVec 4) (a : BitVec 4) (b : BitVec 4) (st : State) : Out :=
  vrun (.ior c d a b) st

/-- IMUL (R216). -/
def execImul (c : Bool) (d : BitVec 4) (a : BitVec 4) (b : BitVec 4) (st : State) : Out :=
  vrun (.imul c d a b) st

/-- IPOPC (R217). -/
def execIpopc (c : Bool) (d : BitVec 4) (a : BitVec 4) (st : State) : Out :=
  vrun (.ipopc c d a) st

/-- ICMPADV (R218). -/
def execIcmpadv (c : Bool) (d : BitVec 4) (a : BitVec 4) (b : BitVec 4) (st : State) : Out :=
  vrun (.icmpadv c d a b) st

/-- IADDI (R216). -/
def execIaddi (c : Bool) (d : BitVec 4) (a : BitVec 4) (i : BitVec 13) (st : State) : Out :=
  vrun (.iaddi c d a i) st

/-- ISUBI (R216). -/
def execIsubi (c : Bool) (d : BitVec 4) (a : BitVec 4) (i : BitVec 13) (st : State) : Out :=
  vrun (.isubi c d a i) st

/-- ISHLI (R216). -/
def execIshli (c : Bool) (d : BitVec 4) (a : BitVec 4) (i : BitVec 13) (st : State) : Out :=
  vrun (.ishli c d a i) st

/-- ISHRI (R216). -/
def execIshri (c : Bool) (d : BitVec 4) (a : BitVec 4) (i : BitVec 13) (st : State) : Out :=
  vrun (.ishri c d a i) st

/-- IANDI (R216). -/
def execIandi (c : Bool) (d : BitVec 4) (a : BitVec 4) (i : BitVec 13) (st : State) : Out :=
  vrun (.iandi c d a i) st

/-- IORI (R216). -/
def execIori (c : Bool) (d : BitVec 4) (a : BitVec 4) (i : BitVec 13) (st : State) : Out :=
  vrun (.iori c d a i) st

/-- IMULI (R216). -/
def execImuli (c : Bool) (d : BitVec 4) (a : BitVec 4) (i : BitVec 13) (st : State) : Out :=
  vrun (.imuli c d a i) st

/-- ILI (R217). -/
def execIli (c : Bool) (d : BitVec 4) (i : BitVec 21) (st : State) : Out :=
  vrun (.ili c d i) st

/-- ZINIT (R224). -/
def execZinit (c : Bool) (i : BitVec 4) (z : BitVec 3) (l : BitVec 3) (st : State) : Out :=
  vrun (.zinit c i z l) st

/-- ZNEXT (R225). -/
def execZnext (c : Bool) (z : BitVec 3) (st : State) : Out :=
  vrun (.znext c z) st

/-- ZSKIP (R225). -/
def execZskip (c : Bool) (i : BitVec 4) (z : BitVec 3) (st : State) : Out :=
  vrun (.zskip c i z) st

/-- ZISECT (R226). -/
def execZisect (c : Bool) (i : BitVec 4) (z : BitVec 3) (y : BitVec 3) (st : State) : Out :=
  vrun (.zisect c i z y) st

/-- ZUNION (R226). -/
def execZunion (c : Bool) (i : BitVec 4) (z : BitVec 3) (y : BitVec 3) (st : State) : Out :=
  vrun (.zunion c i z y) st

/-- ZDOWN (R224). -/
def execZdown (c : Bool) (z : BitVec 3) (y : BitVec 3) (st : State) : Out :=
  vrun (.zdown c z y) st

/-- ZCRD (R227). -/
def execZcrd (c : Bool) (i : BitVec 4) (z : BitVec 3) (m : Bool) (st : State) : Out :=
  vrun (.zcrd c i z m) st

/-- ZPOS (R227). -/
def execZpos (c : Bool) (i : BitVec 4) (z : BitVec 3) (m : BitVec 2) (st : State) : Out :=
  vrun (.zpos c i z m) st

/-- AQPUSH (R229). -/
def execAqpush (c : Bool) (i : BitVec 4) (q : BitVec 3) (st : State) : Out :=
  vrun (.aqpush c i q) st

/-- IGET (R217). -/
def execIget (c : Bool) (i : BitVec 4) (q : BitVec 3) (st : State) : Out :=
  vrun (.iget c i q) st

/-! ## The X slot (10) -/

/-- XLD (R233). -/
def execXld (c : Bool) (n : BitVec 8) (a : BitVec 4) (i : BitVec 13) (st : State) : Out :=
  vrun (.xld c n a i) st

/-- XST (R233). -/
def execXst (c : Bool) (n : BitVec 8) (a : BitVec 4) (i : BitVec 13) (st : State) : Out :=
  vrun (.xst c n a i) st

/-- DQPOP (R234). -/
def execDqpop (c : Bool) (n : BitVec 8) (q : BitVec 3) (st : State) : Out :=
  vrun (.dqpop c n q) st

/-- DQPEEK (R234). -/
def execDqpeek (c : Bool) (n : BitVec 8) (q : BitVec 3) (st : State) : Out :=
  vrun (.dqpeek c n q) st

/-- PPOP (R234). -/
def execPpop (c : Bool) (d : BitVec 4) (st : State) : Out :=
  vrun (.ppop c d) st

/-- XMV (R235). -/
def execXmv (c : Bool) (d : BitVec 8) (v : BitVec 8) (st : State) : Out :=
  vrun (.xmv c d v) st

/-- X.FSET (R236). -/
def execXFset (c : Bool) (f : BitVec 4) (st : State) : Out :=
  vrun (.xFset c f) st

/-- X.FCLR (R236). -/
def execXFclr (c : Bool) (f : BitVec 4) (st : State) : Out :=
  vrun (.xFclr c f) st

/-- FTST (R236). -/
def execFtst (c : Bool) (d : BitVec 4) (f : BitVec 4) (st : State) : Out :=
  vrun (.ftst c d f) st

/-- FRD (R236). -/
def execFrd (c : Bool) (d : BitVec 4) (h : Bool) (st : State) : Out :=
  vrun (.frd c d h) st

/-- NOP (R115): a group that does nothing. -/
def execNop (st : State) : Out := .next st

end Sys2Proof.Machine
end

