-- ==== Sys2Proof/Machine/Dispatch.lean ====
section
/-! DEFINITION. The meaning of every instruction and event: one arm per constructor. -/

namespace Sys2Proof.Machine

def exec (i : Instr) (s : State) : Host.Outcome State Fault Refusal :=
  match i with
  | .add d s1 t w => Sys2Proof.Machine.execAdd d s1 t w s
  | .sub d s1 t w => Sys2Proof.Machine.execSub d s1 t w s
  | .and d s1 t => Sys2Proof.Machine.execAnd d s1 t s
  | .or d s1 t => Sys2Proof.Machine.execOr d s1 t s
  | .xor d s1 t => Sys2Proof.Machine.execXor d s1 t s
  | .shl d s1 t w => Sys2Proof.Machine.execShl d s1 t w s
  | .shr d s1 t w => Sys2Proof.Machine.execShr d s1 t w s
  | .sar d s1 t w => Sys2Proof.Machine.execSar d s1 t w s
  | .mul d s1 t w => Sys2Proof.Machine.execMul d s1 t w s
  | .mulh d s1 t => Sys2Proof.Machine.execMulh d s1 t s
  | .mulhu d s1 t => Sys2Proof.Machine.execMulhu d s1 t s
  | .div d s1 t w => Sys2Proof.Machine.execDiv d s1 t w s
  | .divu d s1 t w => Sys2Proof.Machine.execDivu d s1 t w s
  | .rem d s1 t w => Sys2Proof.Machine.execRem d s1 t w s
  | .remu d s1 t w => Sys2Proof.Machine.execRemu d s1 t w s
  | .slt d s1 t => Sys2Proof.Machine.execSlt d s1 t s
  | .sltu d s1 t => Sys2Proof.Machine.execSltu d s1 t s
  | .min d s1 t => Sys2Proof.Machine.execMin d s1 t s
  | .max d s1 t => Sys2Proof.Machine.execMax d s1 t s
  | .minu d s1 t => Sys2Proof.Machine.execMinu d s1 t s
  | .maxu d s1 t => Sys2Proof.Machine.execMaxu d s1 t s
  | .addi d s1 im => Sys2Proof.Machine.execAddi d s1 im s
  | .andi d s1 im => Sys2Proof.Machine.execAndi d s1 im s
  | .ori d s1 im => Sys2Proof.Machine.execOri d s1 im s
  | .xori d s1 im => Sys2Proof.Machine.execXori d s1 im s
  | .slti d s1 im => Sys2Proof.Machine.execSlti d s1 im s
  | .sltiu d s1 im => Sys2Proof.Machine.execSltiu d s1 im s
  | .shli d s1 w h => Sys2Proof.Machine.execShli d s1 w h s
  | .shri d s1 w h => Sys2Proof.Machine.execShri d s1 w h s
  | .sari d s1 w h => Sys2Proof.Machine.execSari d s1 w h s
  | .beq s1 t im => Sys2Proof.Machine.execBeq s1 t im s
  | .bne s1 t im => Sys2Proof.Machine.execBne s1 t im s
  | .blt s1 t im => Sys2Proof.Machine.execBlt s1 t im s
  | .bge s1 t im => Sys2Proof.Machine.execBge s1 t im s
  | .bltu s1 t im => Sys2Proof.Machine.execBltu s1 t im s
  | .bgeu s1 t im => Sys2Proof.Machine.execBgeu s1 t im s
  | .jal d im => Sys2Proof.Machine.execJal d im s
  | .jalr d s1 im => Sys2Proof.Machine.execJalr d s1 im s
  | .ld g s1 w im => Sys2Proof.Machine.execLd g s1 w im s
  | .lds g s1 w im => Sys2Proof.Machine.execLds g s1 w im s
  | .st g s1 w im => Sys2Proof.Machine.execSt g s1 w im s
  | .amoAdd d s1 t r x => Sys2Proof.Machine.execAmoAdd d s1 t r x s
  | .amoAnd d s1 t r x => Sys2Proof.Machine.execAmoAnd d s1 t r x s
  | .amoOr d s1 t r x => Sys2Proof.Machine.execAmoOr d s1 t r x s
  | .amoXor d s1 t r x => Sys2Proof.Machine.execAmoXor d s1 t r x s
  | .amoMin d s1 t r x => Sys2Proof.Machine.execAmoMin d s1 t r x s
  | .amoMax d s1 t r x => Sys2Proof.Machine.execAmoMax d s1 t r x s
  | .amoMinu d s1 t r x => Sys2Proof.Machine.execAmoMinu d s1 t r x s
  | .amoMaxu d s1 t r x => Sys2Proof.Machine.execAmoMaxu d s1 t r x s
  | .amoSwap d s1 t r x => Sys2Proof.Machine.execAmoSwap d s1 t r x s
  | .amoCas d s1 t r x => Sys2Proof.Machine.execAmoCas d s1 t r x s
  | .fence s1 => Sys2Proof.Machine.execFence s1 s
  | .xfence s1 f t => Sys2Proof.Machine.execXfence s1 f t s
  | .drain s1 => Sys2Proof.Machine.execDrain s1 s
  | .fenceReturn core => Sys2Proof.Machine.execFenceReturn core s
  | .srd g n => Sys2Proof.Machine.execSrd g n s
  | .swr g n => Sys2Proof.Machine.execSwr g n s
  | .sset g n => Sys2Proof.Machine.execSset g n s
  | .sclr g n => Sys2Proof.Machine.execSclr g n s
  | .trap im => Sys2Proof.Machine.execTrap im s
  | .yield => Sys2Proof.Machine.execYield s
  | .fset f => Sys2Proof.Machine.execFset f s
  | .fclr f => Sys2Proof.Machine.execFclr f s
  | .fwait f => Sys2Proof.Machine.execFwait f s
  | .fwaitReturn core => Sys2Proof.Machine.execFwaitReturn core s
  | .cpy a b c => Sys2Proof.Machine.execCpy a b c s
  | .cpys a b c => Sys2Proof.Machine.execCpys a b c s
  | .cpyx a b c => Sys2Proof.Machine.execCpyx a b c s
  | .laneLoad a b c => Sys2Proof.Machine.execLaneLoad a b c s
  | .cimFill a b c => Sys2Proof.Machine.execCimFill a b c s
  | .atomAdd a b c s1 r x => Sys2Proof.Machine.execAtomAdd a b c s1 r x s
  | .atomAnd a b c s1 r x => Sys2Proof.Machine.execAtomAnd a b c s1 r x s
  | .atomOr a b c s1 r x => Sys2Proof.Machine.execAtomOr a b c s1 r x s
  | .atomXor a b c s1 r x => Sys2Proof.Machine.execAtomXor a b c s1 r x s
  | .atomMin a b c s1 r x => Sys2Proof.Machine.execAtomMin a b c s1 r x s
  | .atomMax a b c s1 r x => Sys2Proof.Machine.execAtomMax a b c s1 r x s
  | .atomMinu a b c s1 r x => Sys2Proof.Machine.execAtomMinu a b c s1 r x s
  | .atomMaxu a b c s1 r x => Sys2Proof.Machine.execAtomMaxu a b c s1 r x s
  | .atomSwap a b c s1 r x => Sys2Proof.Machine.execAtomSwap a b c s1 r x s
  | .atomCas a b c s1 r x => Sys2Proof.Machine.execAtomCas a b c s1 r x s
  | .atomFadd a b c s1 r => Sys2Proof.Machine.execAtomFadd a b c s1 r s
  | .atomCread a b c s1 r => Sys2Proof.Machine.execAtomCread a b c s1 r s
  | .loop a b c => Sys2Proof.Machine.execLoop a b c s
  | .ppush a => Sys2Proof.Machine.execPpush a s
  | .cimModeScratch b => Sys2Proof.Machine.execCimModeScratch b s
  | .cimModeCompute b k => Sys2Proof.Machine.execCimModeCompute b k s
  | .qcwSet q a b => Sys2Proof.Machine.execQcwSet q a b s
  | .qcwGet q a b => Sys2Proof.Machine.execQcwGet q a b s
  | .aqRemap q a b => Sys2Proof.Machine.execAqRemap q a b s
  | .qcwSetQuiet core => Sys2Proof.Machine.execQcwSetQuiet core s
  | .setv v a => Sys2Proof.Machine.execSetv v a s
  | .setj a => Sys2Proof.Machine.execSetj a s
  | .syncArm a b c => Sys2Proof.Machine.execSyncArm a b c s
  | .syncWait a b => Sys2Proof.Machine.execSyncWait a b s
  | .syncAdd a b => Sys2Proof.Machine.execSyncAdd a b s
  | .syncWaitReturn core => Sys2Proof.Machine.execSyncWaitReturn core s
  | .barInit b a => Sys2Proof.Machine.execBarInit b a s
  | .barArrive b => Sys2Proof.Machine.execBarArrive b s
  | .barWait b => Sys2Proof.Machine.execBarWait b s
  | .barrierArrivalReceive k => Sys2Proof.Machine.execBarrierArrivalReceive k s
  | .barWaitReturn core => Sys2Proof.Machine.execBarWaitReturn core s
  | .spawn a b c => Sys2Proof.Machine.execSpawn a b c s
  | .spawnAccept core => Sys2Proof.Machine.execSpawnAccept core s
  | .join a => Sys2Proof.Machine.execJoin a s
  | .joinReturn core => Sys2Proof.Machine.execJoinReturn core s
  | .done => Sys2Proof.Machine.execDone s
  | .donePerform core => Sys2Proof.Machine.execDonePerform core s
  | .cancel a => Sys2Proof.Machine.execCancel a s
  | .rope a => Sys2Proof.Machine.execRope a s
  | .unrope => Sys2Proof.Machine.execUnrope s
  | .rejoin => Sys2Proof.Machine.execRejoin s
  | .ropeForm core => Sys2Proof.Machine.execRopeForm core s
  | .unropeRelease core => Sys2Proof.Machine.execUnropeRelease core s
  | .rejoinReturn core => Sys2Proof.Machine.execRejoinReturn core s
  | .rtreeSum a b c => Sys2Proof.Machine.execRtreeSum a b c s
  | .rtreeMax a b c => Sys2Proof.Machine.execRtreeMax a b c s
  | .rtreeMaxsum a b c => Sys2Proof.Machine.execRtreeMaxsum a b c s
  | .rtreeNodeCombine ctx tid node => Sys2Proof.Machine.execRtreeNodeCombine ctx tid node s
  | .rtreeResult core => Sys2Proof.Machine.execRtreeResult core s
  | .commandQueueRoom core => Sys2Proof.Machine.execCommandQueueRoom core s
  | .parameterQueueRoom core => Sys2Proof.Machine.execParameterQueueRoom core s
  | .copyTagFree core => Sys2Proof.Machine.execCopyTagFree core s
  | .copyStart core tag => Sys2Proof.Machine.execCopyStart core tag s
  | .copyArrival core tag off len => Sys2Proof.Machine.execCopyArrival core tag off len s
  | .copyComplete core tag => Sys2Proof.Machine.execCopyComplete core tag s
  | .cpyxBlock lane => Sys2Proof.Machine.execCpyxBlock lane s
  | .laneTableCheck lane => Sys2Proof.Machine.execLaneTableCheck lane s
  | .atomPerform core tag => Sys2Proof.Machine.execAtomPerform core tag s
  | .gatherElement core qw => Sys2Proof.Machine.execGatherElement core qw s
  | .scatterElement core qw => Sys2Proof.Machine.execScatterElement core qw s
  | .cimModePerform core => Sys2Proof.Machine.execCimModePerform core s
  | .cimModeZeroingEnd core => Sys2Proof.Machine.execCimModeZeroingEnd core s
  | .loopCommandBegin core => Sys2Proof.Machine.execLoopCommandBegin core s
  | .vadd c s1 d a b => Sys2Proof.Machine.execVadd c s1 d a b s
  | .vsub c s1 d a b => Sys2Proof.Machine.execVsub c s1 d a b s
  | .vmul c s1 d a b => Sys2Proof.Machine.execVmul c s1 d a b s
  | .vdiv c s1 d a b => Sys2Proof.Machine.execVdiv c s1 d a b s
  | .vfma c s1 d a b => Sys2Proof.Machine.execVfma c s1 d a b s
  | .vfnma c s1 d a b => Sys2Proof.Machine.execVfnma c s1 d a b s
  | .vmin c s1 d a b => Sys2Proof.Machine.execVmin c s1 d a b s
  | .vmax c s1 d a b => Sys2Proof.Machine.execVmax c s1 d a b s
  | .vcsgn c s1 d a b => Sys2Proof.Machine.execVcsgn c s1 d a b s
  | .vmov c s1 d a => Sys2Proof.Machine.execVmov c s1 d a s
  | .vneg c s1 d a => Sys2Proof.Machine.execVneg c s1 d a s
  | .vabs c s1 d a => Sys2Proof.Machine.execVabs c s1 d a s
  | .vsqrt c s1 d a => Sys2Proof.Machine.execVsqrt c s1 d a s
  | .vrsqrt c s1 d a => Sys2Proof.Machine.execVrsqrt c s1 d a s
  | .vrcp c s1 d a => Sys2Proof.Machine.execVrcp c s1 d a s
  | .vexp c s1 d a => Sys2Proof.Machine.execVexp c s1 d a s
  | .vlog c s1 d a => Sys2Proof.Machine.execVlog c s1 d a s
  | .vtanh c s1 d a => Sys2Proof.Machine.execVtanh c s1 d a s
  | .vsigm c s1 d a => Sys2Proof.Machine.execVsigm c s1 d a s
  | .vsin c s1 d a => Sys2Proof.Machine.execVsin c s1 d a s
  | .vcos c s1 d a => Sys2Proof.Machine.execVcos c s1 d a s
  | .vcmpeq c s1 d a b => Sys2Proof.Machine.execVcmpeq c s1 d a b s
  | .vcmplt c s1 d a b => Sys2Proof.Machine.execVcmplt c s1 d a b s
  | .vcmple c s1 d a b => Sys2Proof.Machine.execVcmple c s1 d a b s
  | .viadd c s1 d a b => Sys2Proof.Machine.execViadd c s1 d a b s
  | .visub c s1 d a b => Sys2Proof.Machine.execVisub c s1 d a b s
  | .vimul c s1 d a b => Sys2Proof.Machine.execVimul c s1 d a b s
  | .vimin c s1 d a b => Sys2Proof.Machine.execVimin c s1 d a b s
  | .vimax c s1 d a b => Sys2Proof.Machine.execVimax c s1 d a b s
  | .vand c s1 d a b => Sys2Proof.Machine.execVand c s1 d a b s
  | .vor c s1 d a b => Sys2Proof.Machine.execVor c s1 d a b s
  | .vxor c s1 d a b => Sys2Proof.Machine.execVxor c s1 d a b s
  | .vshl c s1 d a b => Sys2Proof.Machine.execVshl c s1 d a b s
  | .vshr c s1 d a b => Sys2Proof.Machine.execVshr c s1 d a b s
  | .vsar c s1 d a b => Sys2Proof.Machine.execVsar c s1 d a b s
  | .vicmpeq c s1 d a b => Sys2Proof.Machine.execVicmpeq c s1 d a b s
  | .vicmplt c s1 d a b => Sys2Proof.Machine.execVicmplt c s1 d a b s
  | .vsel c s1 d a b => Sys2Proof.Machine.execVsel c s1 d a b s
  | .cvtFf c s1 d a t => Sys2Proof.Machine.execCvtFf c s1 d a t s
  | .cvtFi c s1 d a t k => Sys2Proof.Machine.execCvtFi c s1 d a t k s
  | .cvtIf c s1 d a => Sys2Proof.Machine.execCvtIf c s1 d a s
  | .cvtCi c s1 d a k => Sys2Proof.Machine.execCvtCi c s1 d a k s
  | .vrsum c s1 d a => Sys2Proof.Machine.execVrsum c s1 d a s
  | .vrmax c s1 d a => Sys2Proof.Machine.execVrmax c s1 d a s
  | .vrmin c s1 d a => Sys2Proof.Machine.execVrmin c s1 d a s
  | .vrisum c s1 d a => Sys2Proof.Machine.execVrisum c s1 d a s
  | .vperm c s1 d a b => Sys2Proof.Machine.execVperm c s1 d a b s
  | .vbcast c s1 d a im => Sys2Proof.Machine.execVbcast c s1 d a im s
  | .jseed c s1 d a => Sys2Proof.Machine.execJseed c s1 d a s
  | .jext c s1 d a f k => Sys2Proof.Machine.execJext c s1 d a f k s
  | .jset c s1 d a k => Sys2Proof.Machine.execJset c s1 d a k s
  | .cimPass c b l a p e o n g => Sys2Proof.Machine.execCimPass c b l a p e o n g s
  | .cimSwap c b => Sys2Proof.Machine.execCimSwap c b s
  | .cimSwapw c b => Sys2Proof.Machine.execCimSwapw c b s
  | .accClr c e => Sys2Proof.Machine.execAccClr c e s
  | .accCvtF32 c d e => Sys2Proof.Machine.execAccCvtF32 c d e s
  | .accCvtI32 c d e => Sys2Proof.Machine.execAccCvtI32 c d e s
  | .lutBuild c v im => Sys2Proof.Machine.execLutBuild c v im s
  | .lutAcc c e q k => Sys2Proof.Machine.execLutAcc c e q k s
  | .outl c e v q => Sys2Proof.Machine.execOutl c e v q s
  | .rsc c d e t q => Sys2Proof.Machine.execRsc c d e t q s
  | .qnt c d v p => Sys2Proof.Machine.execQnt c d v p s
  | .qpar c v p k => Sys2Proof.Machine.execQpar c v p k s
  | .iadd c d a b => Sys2Proof.Machine.execIadd c d a b s
  | .isub c d a b => Sys2Proof.Machine.execIsub c d a b s
  | .ishl c d a b => Sys2Proof.Machine.execIshl c d a b s
  | .ishr c d a b => Sys2Proof.Machine.execIshr c d a b s
  | .iand c d a b => Sys2Proof.Machine.execIand c d a b s
  | .ior c d a b => Sys2Proof.Machine.execIor c d a b s
  | .imul c d a b => Sys2Proof.Machine.execImul c d a b s
  | .ipopc c d a => Sys2Proof.Machine.execIpopc c d a s
  | .icmpadv c d a b => Sys2Proof.Machine.execIcmpadv c d a b s
  | .iaddi c d a im => Sys2Proof.Machine.execIaddi c d a im s
  | .isubi c d a im => Sys2Proof.Machine.execIsubi c d a im s
  | .ishli c d a im => Sys2Proof.Machine.execIshli c d a im s
  | .ishri c d a im => Sys2Proof.Machine.execIshri c d a im s
  | .iandi c d a im => Sys2Proof.Machine.execIandi c d a im s
  | .iori c d a im => Sys2Proof.Machine.execIori c d a im s
  | .imuli c d a im => Sys2Proof.Machine.execImuli c d a im s
  | .ili c d im => Sys2Proof.Machine.execIli c d im s
  | .zinit c im z l => Sys2Proof.Machine.execZinit c im z l s
  | .znext c z => Sys2Proof.Machine.execZnext c z s
  | .zskip c im z => Sys2Proof.Machine.execZskip c im z s
  | .zisect c im z y => Sys2Proof.Machine.execZisect c im z y s
  | .zunion c im z y => Sys2Proof.Machine.execZunion c im z y s
  | .zdown c z y => Sys2Proof.Machine.execZdown c z y s
  | .zcrd c im z m => Sys2Proof.Machine.execZcrd c im z m s
  | .zpos c im z m => Sys2Proof.Machine.execZpos c im z m s
  | .aqpush c im q => Sys2Proof.Machine.execAqpush c im q s
  | .iget c im q => Sys2Proof.Machine.execIget c im q s
  | .xld c n a im => Sys2Proof.Machine.execXld c n a im s
  | .xst c n a im => Sys2Proof.Machine.execXst c n a im s
  | .dqpop c n q => Sys2Proof.Machine.execDqpop c n q s
  | .dqpeek c n q => Sys2Proof.Machine.execDqpeek c n q s
  | .ppop c d => Sys2Proof.Machine.execPpop c d s
  | .xmv c d v => Sys2Proof.Machine.execXmv c d v s
  | .xFset c f => Sys2Proof.Machine.execXFset c f s
  | .xFclr c f => Sys2Proof.Machine.execXFclr c f s
  | .ftst c d f => Sys2Proof.Machine.execFtst c d f s
  | .frd c d h => Sys2Proof.Machine.execFrd c d h s
  | .nop => Sys2Proof.Machine.execNop s
  | .resultLanding core => Sys2Proof.Machine.execResultLanding core s
  | .stalledGroupIssue core => Sys2Proof.Machine.execStalledGroupIssue core s
  | .queueStall core => Sys2Proof.Machine.execQueueStall core s
  | .taskFaultEnd core => Sys2Proof.Machine.execTaskFaultEnd core s
  | .preemption core => Sys2Proof.Machine.execPreemption core s
  | .saveImageWrite core => Sys2Proof.Machine.execSaveImageWrite core s
  | .taskPop core => Sys2Proof.Machine.execTaskPop core s
  | .ropeGroupRestore core => Sys2Proof.Machine.execRopeGroupRestore core s
  | .taskWatchdog core => Sys2Proof.Machine.execTaskWatchdog core s
  | .stopWatchdog core => Sys2Proof.Machine.execStopWatchdog core s
  | .ctxKill ctx => Sys2Proof.Machine.execCtxKill ctx s
  | .contextDrainDone ctx => Sys2Proof.Machine.execContextDrainDone ctx s
  | .ctxCfgWrite ctx v => Sys2Proof.Machine.execCtxCfgWrite ctx v s
  | .sqTailWrite ctx v => Sys2Proof.Machine.execSqTailWrite ctx v s
  | .sqStopClear ctx => Sys2Proof.Machine.execSqStopClear ctx s
  | .submissionRead ctx => Sys2Proof.Machine.execSubmissionRead ctx s
  | .finalise lc => Sys2Proof.Machine.execFinalise lc s
  | .launchExpansion lc => Sys2Proof.Machine.execLaunchExpansion lc s
  | .cairnArm cairn v => Sys2Proof.Machine.execCairnArm cairn v s
  | .cairnFree cairn v => Sys2Proof.Machine.execCairnFree cairn v s
  | .cairnCancel cairn => Sys2Proof.Machine.execCairnCancel cairn s
  | .launchCancelled cairn => Sys2Proof.Machine.execLaunchCancelled cairn s
  | .apertureWrite ap reg v => Sys2Proof.Machine.execApertureWrite ap reg v s
  | .inboundRead off len => Sys2Proof.Machine.execInboundRead off len s
  | .inboundWrite off data => Sys2Proof.Machine.execInboundWrite off data s
  | .inboundAtomicop off => Sys2Proof.Machine.execInboundAtomicop off s
  | .registerWrite off size v => Sys2Proof.Machine.execRegisterWrite off size v s
  | .vmInvalidate cmd => Sys2Proof.Machine.execVmInvalidate cmd s
  | .vmPageOut cmd => Sys2Proof.Machine.execVmPageOut cmd s
  | .vmPageIn cmd => Sys2Proof.Machine.execVmPageIn cmd s
  | .vmCommandDone => Sys2Proof.Machine.execVmCommandDone s
  | .vmFreePush die v => Sys2Proof.Machine.execVmFreePush die v s
  | .vmRetRead => Sys2Proof.Machine.execVmRetRead s
  | .atsTranslationCompletion req res => Sys2Proof.Machine.execAtsTranslationCompletion req res s
  | .prgResponse idx code => Sys2Proof.Machine.execPrgResponse idx code s
  | .atsInvalidateRequest itag pasid va len => Sys2Proof.Machine.execAtsInvalidateRequest itag pasid va len s
  | .invalidationCompletion => Sys2Proof.Machine.execInvalidationCompletion s
  | .hostReadCompletion req data => Sys2Proof.Machine.execHostReadCompletion req data s
  | .peerFlitReceive port flit => Sys2Proof.Machine.execPeerFlitReceive port flit s
  | .peerReplayTimeout port => Sys2Proof.Machine.execPeerReplayTimeout port s
  | .peerCommandTimeout port cseq => Sys2Proof.Machine.execPeerCommandTimeout port cseq s
  | .peerLinkUp port => Sys2Proof.Machine.execPeerLinkUp port s
  | .peerPortFailed port => Sys2Proof.Machine.execPeerPortFailed port s
  | .peerFailedClear port => Sys2Proof.Machine.execPeerFailedClear port s
  | .powerEvaluation m => Sys2Proof.Machine.execPowerEvaluation m s
  | .scrub pa r => Sys2Proof.Machine.execScrub pa r s
  | .storageError e corrected => Sys2Proof.Machine.execStorageError e corrected s
  | .coldReset => Sys2Proof.Machine.execColdReset s
  | .bringupStep step r => Sys2Proof.Machine.execBringupStep step r s
  | .bootStepClear step => Sys2Proof.Machine.execBootStepClear step s
  | .recoveryLoad v => Sys2Proof.Machine.execRecoveryLoad v s
  | .recoveryLoadDone image => Sys2Proof.Machine.execRecoveryLoadDone image s
  | .spdmRequest r => Sys2Proof.Machine.execSpdmRequest r s
  | .slpEnter => Sys2Proof.Machine.execSlpEnter s
  | .bivouacEntryDrained => Sys2Proof.Machine.execBivouacEntryDrained s
  | .bivouacEntryTimeout => Sys2Proof.Machine.execBivouacEntryTimeout s
  | .slpWake => Sys2Proof.Machine.execSlpWake s
  | .wakeDone => Sys2Proof.Machine.execWakeDone s
  | .updWriteImage v => Sys2Proof.Machine.execUpdWriteImage v s
  | .updWriteDone r => Sys2Proof.Machine.execUpdWriteDone r s
  | .updRaiseMinimum v => Sys2Proof.Machine.execUpdRaiseMinimum v s
  | .illegalInstruction w => Sys2Proof.Machine.execIllegalInstruction w s
  | .instructionCacheFill core vs => Sys2Proof.Machine.execInstructionCacheFill core vs s
  | .registerWindowRead off size => Sys2Proof.Machine.execRegisterWindowRead off size s
  | .powerLoss => Sys2Proof.Machine.execPowerLoss s

end Sys2Proof.Machine
end

