-- ==== Sys2Proof/Machine/Turns.lean ====
section
/-! DEFINITION. The turns of the card's agents: a core's control processor fetches and executes (R104, R134), or completes what
it waits for (R127, R140); a core's vector sequencer runs a cycle (R27, R244); a fetch misses (R28); time passes (R6); a duty broken shows (R97, R330). And the
order in which they move when nothing gives one (log 2). -/

namespace Sys2Proof.Machine

/-- The row that completes a wait of the control processor. -/
def returnRow (k : CoreId) (w : CpWait) : Instr :=
  match w with
  | .no => .fenceReturn k
  | .fence _ _ _ => .fenceReturn k
  | .flag _ => .fwaitReturn k
  | .quiet _ _ _ => .qcwSetQuiet k
  | .sync _ _ => .syncWaitReturn k
  | .bar _ => .barWaitReturn k
  | .spawn _ => .spawnAccept k
  | .join _ => .joinReturn k
  | .done => .donePerform k
  | .rope _ => .ropeForm k
  | .unrope => .unropeRelease k
  | .rejoin => .rejoinReturn k
  | .rtree _ _ _ => .rtreeResult k
  | .yield => .preemption k
  | .again i => match i with
    | .loop _ _ _ => .commandQueueRoom k
    | .cimModeScratch _ => .commandQueueRoom k
    | .cimModeCompute _ _ => .commandQueueRoom k
    | .ppush _ => .parameterQueueRoom k
    | .cpy _ _ _ | .cpys _ _ _ | .cpyx _ _ _ | .laneLoad _ _ _ | .cimFill _ _ _ => .copyTagFree k
    | .atomAdd _ _ _ _ _ _ | .atomAnd _ _ _ _ _ _ | .atomOr _ _ _ _ _ _ | .atomXor _ _ _ _ _ _ => .copyTagFree k
    | .atomMin _ _ _ _ _ _ | .atomMax _ _ _ _ _ _ | .atomMinu _ _ _ _ _ _ | .atomMaxu _ _ _ _ _ _ => .copyTagFree k
    | .atomSwap _ _ _ _ _ _ | .atomCas _ _ _ _ _ _ | .atomFadd _ _ _ _ _ | .atomCread _ _ _ _ _ => .copyTagFree k
    | i => i

/-- The state in which a core's control processor executes the instruction at an address. -/
def State.atPc (s : State) (k : CoreId) (pc : Word64) : State :=
  { s.modCore k (fun c => { c with pc := pc }) with cur := k }

/-- What a fetch leads to (R119, R134). -/
def State.runFetched (s : State) (k : CoreId) (f : Fetched) : Out :=
  match f with
  | .insn pc i => exec i (s.atPc k pc)
  | .illegal pc w => execIllegalInstruction w (s.atPc k pc)
  | .outside pc => .next (cpTrap { s with cur := k } ⟨causeFetch, 0, pc.toNat, (s.core k).pcFrom.toNat⟩)

/-- A turn of a control processor. A cancelled task in RTREE still takes the tree's result (R317). -/
def cpTurn (s : State) (k : CoreId) : Out :=
  let c := s.core k
  if !c.cpRuns && !c.inTree then .next s
  else match c.wait with
    | .no => s.runFetched k (s.fetch k)
    | w => exec (returnRow k w) { s with cur := k }

/-- A turn of a vector sequencer: a clock cycle, or the end of a zeroing. -/
def vsTurn (s : State) (k : CoreId) : Out :=
  if (s.core k).zeroing.any fun z => z.cycles == 0 then exec (.cimModeZeroingEnd k) s else .next (vsCycle s k)

/-- A fetch of a running task misses the instruction cache: the stream waits for the fill (R28). -/
def missTurn (s : State) (k : CoreId) (vs : Bool) : Out :=
  .next (s.modCore k fun c =>
    if c.run == .idle then c else if vs then { c with missVs := true } else { c with missCp := true })

/-- Microseconds pass for a task and its stop (R357). -/
def Core.elapse (c : Core) (n : Nat) : Core :=
  match c.run with
  | .idle => c
  | .stopping _ | .cancelling => { c with us := c.us + n, stopUs := c.stopUs + n }
  | _ => { c with us := c.us + n }

/-- Microseconds pass for a peer port (R299-R301). -/
def Peer.elapse (p : Peer) (n : Nat) : Peer :=
  { p with
    sinceAck := if p.up && !p.replay.isEmpty then p.sinceAck + n else p.sinceAck
    downUs := if p.up || p.failed then p.downUs else p.downUs + n
    waiting := p.waiting.map fun c => { c with us := c.us + n } }

/-- Microseconds pass, no more than bring the power manager's next evaluation (R16). -/
def elapse (s : State) (n : Nat) : State :=
  let n := s.mayPass n
  let s := s.mapCores fun c => c.elapse n
  let f := s.fleet
  { s with
    ports := { s.ports with peers := s.ports.peers.map fun p => p.elapse n }
    fleet := { f with
      us := f.us + n, slpUs := if f.slpState = 1 then f.slpUs + n else f.slpUs
      slpWakeUs := if f.slpWaking then f.slpWakeUs + n else f.slpWakeUs } }

/-- A peer port's link that is up goes down and retrains (R299). -/
def linkDrop (s : State) (port : Bool) : State :=
  if (s.peer port).up then s.setPeer port (s.peer port).retrain else s

/-- A context has had a data race, two accesses to a byte, one of them a write, that R85 does not order (R97), or a leaf under a pinned
lease of its launch has been changed (R330): it has undefined behaviour (R1), and no other context is touched. That it has come to
this the model does not tell: the turn may come at any time (log 1). -/
def undefinedBehaviour (s : State) (n : CtxId) : State := if (s.ctx n).en && !(s.ctx n).dead then wild s n else s

/-- A turn. -/
def turn (s : State) (t : Turn) : Out :=
  match t with
  | .cp k => cpTurn s k
  | .vs k => vsTurn s k
  | .ev i => exec i s
  | .miss k vs => missTurn s k vs
  | .elapse n => .next (elapse s n)
  | .linkDrop p => .next (linkDrop s (portOf p))
  | .priEnable => .next { s with ports := { s.ports with priOn := true } }
  | .undefinedBehaviour n => .next (undefinedBehaviour s n)

/-! ## The default order (log 2) -/

/-- A move that an agent may make. -/
abbrev Move := State → Out

/-- The moves of a core with a task. -/
def coreMoves (s : State) (k : CoreId) : List Move :=
  let c := s.core k
  [fun s => cpTurn s k, fun s => vsTurn s k, execPreemption k, execSaveImageWrite k, execTaskFaultEnd k, execTaskWatchdog k,
    execStopWatchdog k] ++
  c.liveTags.map (fun p =>
    let n : BitVec 7 := BitVec.ofNat 7 p.1
    match p.2.phase, p.2.op.toNat with
    | .issued, _ => execCopyStart k n
    | .moving, 5 => execAtomPerform k n
    | .finished, _ => execCopyComplete k n
    | _, _ => let x := c.nextPiece k p.2; execCopyArrival k n x.1 x.2) ++
  (c.aq.map (·.qw) ++ c.elems.map (·.entry.qw)).dedup.flatMap fun q => [execGatherElement k q, execScatterElement k q]

/-- The moves of base camp, the lanes and the trees. -/
def campMoves (s : State) : List Move :=
  (s.lanes.flatMap fun p => [execCpyxBlock (BitVec.ofNat 8 p.1), execLaneTableCheck (BitVec.ofNat 8 p.1)]) ++
  (s.ctxs.flatMap fun p => [execSubmissionRead (BitVec.ofNat 6 p.1), execContextDrainDone (BitVec.ofNat 6 p.1)]) ++
  (s.sched.launches.flatMap fun l => [execFinalise l.lc, execLaunchExpansion l.lc]) ++
  (s.sched.cairns.map fun p => execLaunchCancelled (BitVec.ofNat 12 p.1)) ++
  ((List.range s.sched.arrivals.length).map execBarrierArrivalReceive) ++
  (s.sched.trees.flatMap fun t => (List.range t.nodes.length).map fun i => execRtreeNodeCombine t.ctx t.tid i) ++
  [execVmPageOut none, execVmPageIn none, execVmCommandDone, execInvalidationCompletion, execBivouacEntryDrained,
    execBivouacEntryTimeout, execWakeDone, execPeerReplayTimeout 0, execPeerReplayTimeout 1, execPeerPortFailed 0,
    execPeerPortFailed 1, fun s => execPowerEvaluation s.freeSample s, fun s => .next (elapse s 1)]

/-- The moves that may come next. -/
def State.moves (s : State) : List Move :=
  campMoves s ++
  (s.coreIds.flatMap fun k => if (s.core k).run == .idle then [] else coreMoves s k) ++
  (if s.sched.queues.isEmpty then []
   else (List.range 256).flatMap fun k => [execTaskPop (BitVec.ofNat 8 k), execRopeGroupRestore (BitVec.ofNat 8 k)])

/-- The move that the default order gives. -/
def State.nextMove (s : State) : Move := s.moves.getD (s.rr % s.moves.length) fun s => .next (elapse s 1)

/-! ## Placing one instruction (log 20) -/

/-- A table entry (R321): type 1, to the table of a frame. -/
def tableEntry (frame : Nat) : Nat := at' 61 1 + at' 12 frame

/-- A readable and writable device leaf of key 0 (R321, R322) at address 0. -/
def leafEntry : Nat := at' 61 2 + at' 60 1 + at' 59 1

/-- Where the code of the placed launch stands. -/
def placeBase : Nat := 0x40000

/-- The launch whose code is the placed word: one packet at 0x40000. -/
def placedLaunch : Launch where
  ctx := 0
  cbase := placeBase
  clen := 12
  vbase := placeBase
  vlen := 12
  entry := 0
  frame := 0
  extent := BitVec.ofNat 48 (2 ^ 32 + 2 ^ 16 + 1)
  cond := false
  cg := false
  cp := false
  cj := false
  sp := false
  isZpf := false
  prio := 0
  node := 0
  deps := []
  lc := 0
  gc := 1
  pc := 2
  jc := 3
  pred := 0
  leases := []
  join := 0
  phase := .expanded
  lid := 0
  die := 0
  pins := []
  zpf := none
  held := false
  started := true
  ended := none
  past := []

/-- Three words as the packet at 0x40000, with page tables that map the first GiB of memory onto itself. -/
def placeCode (m : Mem) (a b c : Nat) : Mem :=
  let m := memWrite m 0x10000 (toBytes 8 (tableEntry 0x11))
  let m := memWrite m 0x11000 (toBytes 8 (tableEntry 0x12))
  let m := memWrite m 0x12000 (toBytes 8 leafEntry)
  memWrite m placeBase (toBytes 4 a ++ toBytes 4 b ++ toBytes 4 c)

/-- The state with its memory ready, context 0 enabled with the page tables, and core 0 running a task of the launch. -/
def placeTask (s : State) (c : Core) (t : Turn) : State :=
  let s := s.setCtx 0 { s.ctx 0 with cfg := setFld (s.ctx 0).cfg 63 63 1, vmRoot := setFld (s.ctx 0).vmRoot 38 12 0x10 }
  let s := s.setCore 0 { c with run := .running, task := Task.reset, wait := .no, missCp := false, missVs := false }
  { s with
    fw := { s.fw with ready := s.fw.ready ||| BitVec.ofNat 16 (15 * 2 ^ 3) }
    sched := { s.sched with launches := [placedLaunch] }
    agenda := [t], cur := 0 }

/-- The loop command of a body of one packet, run once. -/
def placedLoop (c : Core) : LoopRun :=
  let l : LoopCmd := {
    start := BitVec.ofNat 64 placeBase, len := 1, counts := Vector.replicate 6 1, strides := Vector.replicate 6 0
    views := c.views, order := c.jetOrder, cmd := 0, pkey := 0, first := 0, stamp := 0 }
  ⟨l, 0, 0, none, none⟩

/-- Places a word where the next step runs it: in the control stream where the decoder reads it there, else in a body. -/
def placeWord (s : State) (v : Nat) : State :=
  let c := s.core 0
  match decodeControl [v, 0, 0] with
  | .ok _ =>
    let s := placeTask s { c with pc := BitVec.ofNat 64 placeBase, pcFrom := BitVec.ofNat 64 placeBase } (.cp 0)
    { s with dram := placeCode s.dram v 0 0 }
  | .error _ =>
    let s := placeTask s { c with loopRun := some (placedLoop c) } (.vs 0)
    { s with dram := placeCode s.dram v padWord.toNat padWord.toNat }

end Sys2Proof.Machine
end

