-- ==== Sys2Proof/Machine/Step.lean ====
section
/-! DEFINITION. A step of the card: one turn of one of its agents. -/

namespace Sys2Proof.Machine

/-- A step: the turn at the head of the agenda, or the one the default order gives (log 2). -/
def step (s : State) : Host.Outcome State Fault Refusal :=
  match s.agenda with
  | t :: rest => turn { s with agenda := rest } t
  | [] => s.nextMove { s with rr := s.rr + 1 }

/-- The state in which core 0 runs a task of context 0 and its next turn runs a given instruction (log 20): a control word at
the start of the launch's control code, or a vector word as the body of a loop command in progress. -/
def State.withFetchWord (s : State) (nbits w : Nat) : State := placeWord s (w % 2 ^ min nbits 32)

end Sys2Proof.Machine
end

