-- ==== Sys2Proof/Laws/PerInstr.lean ====
section
/-! SUPPORT. Every well-formed instruction word is read back by its decoder: one lemma for each word format (the fields of a
packed word are the values packed), and one lemma for each constructor of Instr. -/

namespace Sys2Proof.Laws.RoundTrip
open Sys2Proof

set_option linter.unusedSimpArgs false

/-- The words an instruction is encoded to decode to it, in the stream the instruction belongs to, whatever follows. -/
def Statement (i : Instr) : Prop :=
  i.wellFormed = true →
    (encodeVector i = [] → encode i ≠ [] → ∀ rest, decodeControl (encode i ++ rest) = .ok (i, rest)) ∧
    (∀ w, encodeVector i = [w] → decodeVector w = .ok i)

theorem beq_ofBool (b : Bool) : (ofBool b == 1) = b := by cases b <;> rfl
theorem ofBool_lt (b : Bool) : ofBool b < 2 := by cases b <;> decide

/-- A field inside a field. -/
theorem fld_of_fld {x h l v : Nat} (h' l' : Nat) (e : fld x h l = v) (hl : l ≤ l') (hh : h' ≤ h) (hw : l' ≤ h') :
    fld x h' l' = fld v (h' - l) (l' - l) := by
  subst e
  obtain ⟨a, rfl⟩ := Nat.exists_eq_add_of_le hl
  have h1 : h + 1 - l = a + (h + 1 - l - a) := by omega
  have h2 : h' - l + 1 - (l + a - l) = h' + 1 - (l + a) := by omega
  have h3 : h + 1 - l - a = h' + 1 - (l + a) + (h - h') := by omega
  simp only [fld]
  rw [h2, h1, Nat.add_sub_cancel_left, Nat.pow_add 2 a, Nat.mod_mul_right_div_self, Nat.pow_add 2 l, Nat.div_div_eq_div_mul,
    h3, Nat.pow_add, Nat.mod_mul_right_mod]

/-- The chain bit is above every other field. -/
theorem fld_chain {x hi lo : Nat} (h : hi ≤ 30) (hl : lo ≤ hi) : fld (x + 2 ^ 31) hi lo = fld x hi lo := by
  have e : 2 ^ 31 = 2 ^ lo * (2 ^ (hi + 1 - lo) * 2 ^ (30 - hi)) := by
    rw [← Nat.pow_add, ← Nat.pow_add]; congr 1; omega
  simp only [fld]
  rw [e, Nat.add_mul_div_left _ _ (Nat.two_pow_pos lo), Nat.add_mul_mod_self_left]

theorem of_event {i : Instr} (he : encode i = []) (hv : encodeVector i = []) : Statement i :=
  fun _ => ⟨fun _ h => absurd he h, fun w h => by simp [hv] at h⟩

theorem imm_lt {m : Nat} (hi : isImmMajor m = true) : m < 61 := by
  simp only [isImmMajor, Bool.or_eq_true, Bool.and_eq_true, decide_eq_true_eq] at hi
  omega

theorem decodeControl_plain {i : Instr} {x m : Nat} (h31 : fld x 31 31 = 0) (hm : fld x 30 25 = m) (hlt : m < 61)
    (hr : rawControl x .none = some i) (hw : i.wellFormed = true) (rest : List Nat) :
    decodeControl (x :: rest) = .ok (i, rest) := by
  have h1 : fld x 30 25 ≠ 0x3E := by omega
  have h2 : fld x 30 25 ≠ 0x3D := by omega
  simp [decodeControl, h31, h1, h2, hr, keep, hw, Except.map]

theorem decodeControl_one {i : Instr} {x l m : Nat} {a : BitVec 25} (h31 : fld x 31 31 = 1) (hm : fld x 30 25 = m)
    (hi : isImmMajor m = true) (l1 : fld l 30 25 = 62) (l2 : fld l 31 31 = 0) (l3 : fld l 24 0 = a.toNat)
    (hr : rawControl x (.one a) = some i) (hw : i.wellFormed = true) (rest : List Nat) :
    decodeControl (x :: l :: rest) = .ok (i, rest) := by
  have hlt := imm_lt hi
  have h1 : m ≠ 0x3E := by omega
  have h2 : m ≠ 0x3D := by omega
  simp [decodeControl, h31, hm, h1, h2, hi, isLimm, l1, l2, l3, hr, keep, hw, Except.map]

theorem decodeControl_two {i : Instr} {x l k m : Nat} {a b : BitVec 25} (h31 : fld x 31 31 = 1) (hm : fld x 30 25 = m)
    (hi : isImmMajor m = true) (l1 : fld l 30 25 = 62) (l2 : fld l 31 31 = 1) (l3 : fld l 24 0 = a.toNat)
    (k1 : fld k 30 25 = 62) (k2 : fld k 31 31 = 0) (k3 : fld k 24 0 = b.toNat)
    (hr : rawControl x (.two a b) = some i) (hw : i.wellFormed = true) (rest : List Nat) :
    decodeControl (x :: l :: k :: rest) = .ok (i, rest) := by
  have hlt := imm_lt hi
  have h1 : m ≠ 0x3E := by omega
  have h2 : m ≠ 0x3D := by omega
  simp [decodeControl, h31, hm, h1, h2, hi, isLimm, l1, l2, l3, k1, k2, k3, hr, keep, hw, Except.map]

theorem of_control {i : Instr} {x m : Nat} (hv : encodeVector i = []) (he : encode i = [x])
    (h31 : fld x 31 31 = 0) (hm : fld x 30 25 = m) (hlt : m < 61) (hr : rawControl x .none = some i) : Statement i := by
  intro hw
  refine ⟨fun _ _ rest => ?_, fun w h => by simp [hv] at h⟩
  rw [he]
  exact decodeControl_plain h31 hm hlt hr hw rest

theorem of_vector {i : Instr} {x m : Nat} (hv : encodeVector i = [x]) (hm : fld x 30 25 = m) (hlt : m < 61)
    (hr : rawVector x = some i) : Statement i := by
  intro hw
  refine ⟨fun h => by simp [hv] at h, fun w h => ?_⟩
  rw [hv] at h
  obtain rfl : x = w := by simpa using h
  have h1 : fld x 30 25 ≠ 0x3E := by omega
  have h2 : fld x 30 25 ≠ 0x3D := by omega
  simp [decodeVector, h1, h2, hr, keep, hw]

theorem limm_fields (a : BitVec 25) : fld (0x7C000000 + a.toNat) 30 25 = 62 ∧ fld (0x7C000000 + a.toNat) 31 31 = 0 ∧
    fld (0x7C000000 + a.toNat) 24 0 = a.toNat ∧ fld (0xFC000000 + a.toNat) 30 25 = 62 ∧
    fld (0xFC000000 + a.toNat) 31 31 = 1 ∧ fld (0xFC000000 + a.toNat) 24 0 = a.toNat := by
  have := a.isLt
  simp only [fld]
  omega

theorem of_imm (mk : LimmExt → Instr) {x m : Nat} (hv : ∀ e, encodeVector (mk e) = [])
    (he : ∀ e, encode (mk e) = encodeImm x e) (h31 : fld x 31 31 = 0) (hm : fld x 30 25 = m) (hi : isImmMajor m = true)
    (hr : ∀ y e, (∀ hi lo, hi ≤ 30 → lo ≤ hi → fld y hi lo = fld x hi lo) → rawControl y e = some (mk e)) :
    ∀ e, Statement (mk e) := by
  intro e hw
  refine ⟨fun _ _ rest => ?_, fun w h => by simp [hv] at h⟩
  have hlt := imm_lt hi
  have hc : fld (x + 2 ^ 31) 31 31 = 1 := by simp only [fld] at h31 ⊢; omega
  have hy : fld (x + 2 ^ 31) 30 25 = m := (fld_chain (by decide) (by decide)).trans hm
  rw [he]
  cases e with
  | none => exact decodeControl_plain h31 hm hlt (hr x .none fun _ _ _ _ => rfl) hw rest
  | one a =>
    obtain ⟨a1, a2, a3, -, -, -⟩ := limm_fields a
    exact decodeControl_one hc hy hi a1 a2 a3 (hr (x + 2 ^ 31) (.one a) fun _ _ => fld_chain) hw rest
  | two a b =>
    obtain ⟨-, -, -, a1, a2, a3⟩ := limm_fields a
    obtain ⟨b1, b2, b3, -, -, -⟩ := limm_fields b
    exact decodeControl_two hc hy hi a1 a2 a3 b1 b2 b3 (hr (x + 2 ^ 31) (.two a b) fun _ _ => fld_chain) hw rest


theorem fields_24_19_14_9_8 (m : Nat) (k0 : Nat) (hm : m < 64) (hk0 : k0 < 512) (x : BitVec 5) (y : BitVec 5) (z : BitVec 5) (u : Bool) {p : Nat}
    (hp : p = pack (m * 2 ^ 25 + k0 * 2 ^ 0) [(x.toNat, 20), (y.toNat, 15), (z.toNat, 10), (ofBool u, 9)]) :
    fld p 31 31 = 0 ∧ fld p 30 25 = m ∧ fld p 24 20 = x.toNat ∧ fld p 19 15 = y.toNat ∧ fld p 14 10 = z.toNat ∧ fld p 9 9 = ofBool u ∧ fld p 8 0 = k0 := by
  have := x.isLt
  have := y.isLt
  have := z.isLt
  have := ofBool_lt u
  subst hp
  simp only [fld, pack]
  omega

theorem fields_24_19_14_9 (m : Nat) (k0 : Nat) (hm : m < 64) (hk0 : k0 < 1024) (x : BitVec 5) (y : BitVec 5) (z : BitVec 5) {p : Nat}
    (hp : p = pack (m * 2 ^ 25 + k0 * 2 ^ 0) [(x.toNat, 20), (y.toNat, 15), (z.toNat, 10)]) :
    fld p 31 31 = 0 ∧ fld p 30 25 = m ∧ fld p 24 20 = x.toNat ∧ fld p 19 15 = y.toNat ∧ fld p 14 10 = z.toNat ∧ fld p 9 0 = k0 := by
  have := x.isLt
  have := y.isLt
  have := z.isLt
  subst hp
  simp only [fld, pack]
  omega

theorem fields_24_19_14_i (m : Nat)  (hm : m < 64)  (x : BitVec 5) (y : BitVec 5) (z : BitVec 15) {p : Nat}
    (hp : p = pack (m * 2 ^ 25) [(x.toNat, 20), (y.toNat, 15), (z.toNat, 0)]) :
    fld p 31 31 = 0 ∧ fld p 30 25 = m ∧ fld p 24 20 = x.toNat ∧ fld p 19 15 = y.toNat ∧ fld p 14 0 = z.toNat := by
  have := x.isLt
  have := y.isLt
  have := z.isLt
  subst hp
  simp only [fld, pack]
  omega

theorem fields_24_19_14_12_11_5 (m : Nat) (k0 : Nat) (k1 : Nat) (hm : m < 64) (hk0 : k0 < 4) (hk1 : k1 < 64) (x : BitVec 5) (y : BitVec 5) (z : Bool) (u : BitVec 6) {p : Nat}
    (hp : p = pack (m * 2 ^ 25 + k0 * 2 ^ 13 + k1 * 2 ^ 6) [(x.toNat, 20), (y.toNat, 15), (ofBool z, 12), (u.toNat, 0)]) :
    fld p 31 31 = 0 ∧ fld p 30 25 = m ∧ fld p 24 20 = x.toNat ∧ fld p 19 15 = y.toNat ∧ fld p 14 13 = k0 ∧ fld p 12 12 = ofBool z ∧ fld p 11 6 = k1 ∧ fld p 5 0 = u.toNat := by
  have := x.isLt
  have := y.isLt
  have := ofBool_lt z
  have := u.isLt
  subst hp
  simp only [fld, pack]
  omega

theorem fields_24_19_14 (m : Nat)  (hm : m < 64)  (x : BitVec 5) (y : BitVec 5) (z : BitVec 15) {p : Nat}
    (hp : p = pack (m * 2 ^ 25) [(x.toNat, 20), (y.toNat, 15), (z.toNat, 0)]) :
    fld p 31 31 = 0 ∧ fld p 30 25 = m ∧ fld p 24 20 = x.toNat ∧ fld p 19 15 = y.toNat ∧ fld p 14 0 = z.toNat := by
  have := x.isLt
  have := y.isLt
  have := z.isLt
  subst hp
  simp only [fld, pack]
  omega

theorem fields_24_19 (m : Nat)  (hm : m < 64)  (x : BitVec 5) (y : BitVec 20) {p : Nat}
    (hp : p = pack (m * 2 ^ 25) [(x.toNat, 20), (y.toNat, 0)]) :
    fld p 31 31 = 0 ∧ fld p 30 25 = m ∧ fld p 24 20 = x.toNat ∧ fld p 19 0 = y.toNat := by
  have := x.isLt
  have := y.isLt
  subst hp
  simp only [fld, pack]
  omega

theorem fields_24_19_14_12_11_i (m : Nat) (k0 : Nat) (hm : m < 64) (hk0 : k0 < 2) (x : BitVec 5) (y : BitVec 5) (z : BitVec 2) (u : BitVec 12) {p : Nat}
    (hp : p = pack (m * 2 ^ 25 + k0 * 2 ^ 12) [(x.toNat, 20), (y.toNat, 15), (z.toNat, 13), (u.toNat, 0)]) :
    fld p 31 31 = 0 ∧ fld p 30 25 = m ∧ fld p 24 20 = x.toNat ∧ fld p 19 15 = y.toNat ∧ fld p 14 13 = z.toNat ∧ fld p 12 12 = k0 ∧ fld p 11 0 = u.toNat := by
  have := x.isLt
  have := y.isLt
  have := z.isLt
  have := u.isLt
  subst hp
  simp only [fld, pack]
  omega

theorem fields_24_19_14_9_5_3_2 (m : Nat) (k0 : Nat) (k1 : Nat) (hm : m < 64) (hk0 : k0 < 16) (hk1 : k1 < 8) (x : BitVec 5) (y : BitVec 5) (z : BitVec 5) (u : BitVec 2) (v : Bool) {p : Nat}
    (hp : p = pack (m * 2 ^ 25 + k0 * 2 ^ 6 + k1 * 2 ^ 0) [(x.toNat, 20), (y.toNat, 15), (z.toNat, 10), (u.toNat, 4), (ofBool v, 3)]) :
    fld p 31 31 = 0 ∧ fld p 30 25 = m ∧ fld p 24 20 = x.toNat ∧ fld p 19 15 = y.toNat ∧ fld p 14 10 = z.toNat ∧ fld p 9 6 = k0 ∧ fld p 5 4 = u.toNat ∧ fld p 3 3 = ofBool v ∧ fld p 2 0 = k1 := by
  have := x.isLt
  have := y.isLt
  have := z.isLt
  have := u.isLt
  have := ofBool_lt v
  subst hp
  simp only [fld, pack]
  omega

theorem fields_24_21_18 (m : Nat) (k0 : Nat) (k1 : Nat) (hm : m < 64) (hk0 : k0 < 8) (hk1 : k1 < 524288) (x : BitVec 3) {p : Nat}
    (hp : p = pack (m * 2 ^ 25 + k0 * 2 ^ 22 + k1 * 2 ^ 0) [(x.toNat, 19)]) :
    fld p 31 31 = 0 ∧ fld p 30 25 = m ∧ fld p 24 22 = k0 ∧ fld p 21 19 = x.toNat ∧ fld p 18 0 = k1 := by
  have := x.isLt
  subst hp
  simp only [fld, pack]
  omega

theorem fields_24_21_18_12_6 (m : Nat) (k0 : Nat) (k1 : Nat) (hm : m < 64) (hk0 : k0 < 8) (hk1 : k1 < 128) (x : BitVec 3) (y : BitVec 6) (z : BitVec 6) {p : Nat}
    (hp : p = pack (m * 2 ^ 25 + k0 * 2 ^ 22 + k1 * 2 ^ 0) [(x.toNat, 19), (y.toNat, 13), (z.toNat, 7)]) :
    fld p 31 31 = 0 ∧ fld p 30 25 = m ∧ fld p 24 22 = k0 ∧ fld p 21 19 = x.toNat ∧ fld p 18 13 = y.toNat ∧ fld p 12 7 = z.toNat ∧ fld p 6 0 = k1 := by
  have := x.isLt
  have := y.isLt
  have := z.isLt
  subst hp
  simp only [fld, pack]
  omega

theorem fields_24_19_17_5 (m : Nat) (k0 : Nat) (k1 : Nat) (hm : m < 64) (hk0 : k0 < 4) (hk1 : k1 < 64) (x : BitVec 5) (y : BitVec 12) {p : Nat}
    (hp : p = pack (m * 2 ^ 25 + k0 * 2 ^ 18 + k1 * 2 ^ 0) [(x.toNat, 20), (y.toNat, 6)]) :
    fld p 31 31 = 0 ∧ fld p 30 25 = m ∧ fld p 24 20 = x.toNat ∧ fld p 19 18 = k0 ∧ fld p 17 6 = y.toNat ∧ fld p 5 0 = k1 := by
  have := x.isLt
  have := y.isLt
  subst hp
  simp only [fld, pack]
  omega

theorem fields_24_15 (m : Nat) (k0 : Nat) (hm : m < 64) (hk0 : k0 < 512) (x : BitVec 16) {p : Nat}
    (hp : p = pack (m * 2 ^ 25 + k0 * 2 ^ 16) [(x.toNat, 0)]) :
    fld p 31 31 = 0 ∧ fld p 30 25 = m ∧ fld p 24 16 = k0 ∧ fld p 15 0 = x.toNat := by
  have := x.isLt
  subst hp
  simp only [fld, pack]
  omega

theorem fields_24 (m : Nat) (k0 : Nat) (hm : m < 64) (hk0 : k0 < 33554432)  {p : Nat}
    (hp : p = pack (m * 2 ^ 25 + k0 * 2 ^ 0) []) :
    fld p 31 31 = 0 ∧ fld p 30 25 = m ∧ fld p 24 0 = k0 := by
  subst hp
  simp only [fld, pack]
  omega

theorem fields_24_22_18 (m : Nat) (k0 : Nat) (k1 : Nat) (hm : m < 64) (hk0 : k0 < 4) (hk1 : k1 < 524288) (x : BitVec 4) {p : Nat}
    (hp : p = pack (m * 2 ^ 25 + k0 * 2 ^ 23 + k1 * 2 ^ 0) [(x.toNat, 19)]) :
    fld p 31 31 = 0 ∧ fld p 30 25 = m ∧ fld p 24 23 = k0 ∧ fld p 22 19 = x.toNat ∧ fld p 18 0 = k1 := by
  have := x.isLt
  subst hp
  simp only [fld, pack]
  omega

theorem fields_24_19_14_9_5_2_0 (m : Nat) (k0 : Nat) (hm : m < 64) (hk0 : k0 < 16) (x : BitVec 5) (y : BitVec 5) (z : BitVec 5) (u : BitVec 3) (v : BitVec 2) (w : Bool) {p : Nat}
    (hp : p = pack (m * 2 ^ 25 + k0 * 2 ^ 6) [(x.toNat, 20), (y.toNat, 15), (z.toNat, 10), (u.toNat, 3), (v.toNat, 1), (ofBool w, 0)]) :
    fld p 31 31 = 0 ∧ fld p 30 25 = m ∧ fld p 24 20 = x.toNat ∧ fld p 19 15 = y.toNat ∧ fld p 14 10 = z.toNat ∧ fld p 9 6 = k0 ∧ fld p 5 3 = u.toNat ∧ fld p 2 1 = v.toNat ∧ fld p 0 0 = ofBool w := by
  have := x.isLt
  have := y.isLt
  have := z.isLt
  have := u.isLt
  have := v.isLt
  have := ofBool_lt w
  subst hp
  simp only [fld, pack]
  omega

theorem fields_24_19_14_9_5_2_0' (m : Nat) (k0 : Nat) (k1 : Nat) (hm : m < 64) (hk0 : k0 < 16) (hk1 : k1 < 2) (x : BitVec 5) (y : BitVec 5) (z : BitVec 5) (u : BitVec 3) (v : BitVec 2) {p : Nat}
    (hp : p = pack (m * 2 ^ 25 + k0 * 2 ^ 6 + k1 * 2 ^ 0) [(x.toNat, 20), (y.toNat, 15), (z.toNat, 10), (u.toNat, 3), (v.toNat, 1)]) :
    fld p 31 31 = 0 ∧ fld p 30 25 = m ∧ fld p 24 20 = x.toNat ∧ fld p 19 15 = y.toNat ∧ fld p 14 10 = z.toNat ∧ fld p 9 6 = k0 ∧ fld p 5 3 = u.toNat ∧ fld p 2 1 = v.toNat ∧ fld p 0 0 = k1 := by
  have := x.isLt
  have := y.isLt
  have := z.isLt
  have := u.isLt
  have := v.isLt
  subst hp
  simp only [fld, pack]
  omega

theorem fields_24_19' (m : Nat) (k0 : Nat) (hm : m < 64) (hk0 : k0 < 1048576) (x : BitVec 5) {p : Nat}
    (hp : p = pack (m * 2 ^ 25 + k0 * 2 ^ 0) [(x.toNat, 20)]) :
    fld p 31 31 = 0 ∧ fld p 30 25 = m ∧ fld p 24 20 = x.toNat ∧ fld p 19 0 = k0 := by
  have := x.isLt
  subst hp
  simp only [fld, pack]
  omega

theorem fields_24_19_18_13 (m : Nat) (k0 : Nat) (k1 : Nat) (hm : m < 64) (hk0 : k0 < 2) (hk1 : k1 < 16384) (x : BitVec 5) (y : BitVec 5) {p : Nat}
    (hp : p = pack (m * 2 ^ 25 + k0 * 2 ^ 19 + k1 * 2 ^ 0) [(x.toNat, 20), (y.toNat, 14)]) :
    fld p 31 31 = 0 ∧ fld p 30 25 = m ∧ fld p 24 20 = x.toNat ∧ fld p 19 19 = k0 ∧ fld p 18 14 = y.toNat ∧ fld p 13 0 = k1 := by
  have := x.isLt
  have := y.isLt
  subst hp
  simp only [fld, pack]
  omega

theorem fields_24_21_16_11 (m : Nat) (k0 : Nat) (hm : m < 64) (hk0 : k0 < 4096) (x : BitVec 3) (y : BitVec 5) (z : BitVec 5) {p : Nat}
    (hp : p = pack (m * 2 ^ 25 + k0 * 2 ^ 0) [(x.toNat, 22), (y.toNat, 17), (z.toNat, 12)]) :
    fld p 31 31 = 0 ∧ fld p 30 25 = m ∧ fld p 24 22 = x.toNat ∧ fld p 21 17 = y.toNat ∧ fld p 16 12 = z.toNat ∧ fld p 11 0 = k0 := by
  have := x.isLt
  have := y.isLt
  have := z.isLt
  subst hp
  simp only [fld, pack]
  omega

theorem fields_24_21_16 (m : Nat) (k0 : Nat) (hm : m < 64) (hk0 : k0 < 131072) (x : BitVec 3) (y : BitVec 5) {p : Nat}
    (hp : p = pack (m * 2 ^ 25 + k0 * 2 ^ 0) [(x.toNat, 22), (y.toNat, 17)]) :
    fld p 31 31 = 0 ∧ fld p 30 25 = m ∧ fld p 24 22 = x.toNat ∧ fld p 21 17 = y.toNat ∧ fld p 16 0 = k0 := by
  have := x.isLt
  have := y.isLt
  subst hp
  simp only [fld, pack]
  omega

theorem fields_24_21_16' (m : Nat) (k0 : Nat) (k1 : Nat) (hm : m < 64) (hk0 : k0 < 8) (hk1 : k1 < 131072) (x : BitVec 5) {p : Nat}
    (hp : p = pack (m * 2 ^ 25 + k0 * 2 ^ 22 + k1 * 2 ^ 0) [(x.toNat, 17)]) :
    fld p 31 31 = 0 ∧ fld p 30 25 = m ∧ fld p 24 22 = k0 ∧ fld p 21 17 = x.toNat ∧ fld p 16 0 = k1 := by
  have := x.isLt
  subst hp
  simp only [fld, pack]
  omega

theorem fields_24_19_14' (m : Nat) (k0 : Nat) (hm : m < 64) (hk0 : k0 < 32768) (x : BitVec 5) (y : BitVec 5) {p : Nat}
    (hp : p = pack (m * 2 ^ 25 + k0 * 2 ^ 0) [(x.toNat, 20), (y.toNat, 15)]) :
    fld p 31 31 = 0 ∧ fld p 30 25 = m ∧ fld p 24 20 = x.toNat ∧ fld p 19 15 = y.toNat ∧ fld p 14 0 = k0 := by
  have := x.isLt
  have := y.isLt
  subst hp
  simp only [fld, pack]
  omega

theorem fields_24_22_16_11 (m : Nat) (k0 : Nat) (k1 : Nat) (hm : m < 64) (hk0 : k0 < 4) (hk1 : k1 < 4096) (x : BitVec 6) (y : BitVec 5) {p : Nat}
    (hp : p = pack (m * 2 ^ 25 + k0 * 2 ^ 23 + k1 * 2 ^ 0) [(x.toNat, 17), (y.toNat, 12)]) :
    fld p 31 31 = 0 ∧ fld p 30 25 = m ∧ fld p 24 23 = k0 ∧ fld p 22 17 = x.toNat ∧ fld p 16 12 = y.toNat ∧ fld p 11 0 = k1 := by
  have := x.isLt
  have := y.isLt
  subst hp
  simp only [fld, pack]
  omega

theorem fields_24_22_16 (m : Nat) (k0 : Nat) (k1 : Nat) (hm : m < 64) (hk0 : k0 < 4) (hk1 : k1 < 131072) (x : BitVec 6) {p : Nat}
    (hp : p = pack (m * 2 ^ 25 + k0 * 2 ^ 23 + k1 * 2 ^ 0) [(x.toNat, 17)]) :
    fld p 31 31 = 0 ∧ fld p 30 25 = m ∧ fld p 24 23 = k0 ∧ fld p 22 17 = x.toNat ∧ fld p 16 0 = k1 := by
  have := x.isLt
  subst hp
  simp only [fld, pack]
  omega

theorem fields_31_24_23_15_7_v (m : Nat)  (hm : m < 64)  (x : Bool) (y : Bool) (z : BitVec 8) (u : BitVec 8) (v : BitVec 8) {p : Nat}
    (hp : p = pack (m * 2 ^ 25) [(ofBool x, 31), (ofBool y, 24), (z.toNat, 16), (u.toNat, 8), (v.toNat, 0)]) :
    fld p 30 25 = m ∧ fld p 31 31 = ofBool x ∧ fld p 24 24 = ofBool y ∧ fld p 23 16 = z.toNat ∧ fld p 15 8 = u.toNat ∧ fld p 7 0 = v.toNat := by
  have := ofBool_lt x
  have := ofBool_lt y
  have := z.isLt
  have := u.isLt
  have := v.isLt
  subst hp
  simp only [fld, pack]
  omega

theorem fields_31_24_23_15_7_v' (m : Nat) (k0 : Nat) (hm : m < 64) (hk0 : k0 < 256) (x : Bool) (y : Bool) (z : BitVec 8) (u : BitVec 8) {p : Nat}
    (hp : p = pack (m * 2 ^ 25 + k0 * 2 ^ 0) [(ofBool x, 31), (ofBool y, 24), (z.toNat, 16), (u.toNat, 8)]) :
    fld p 30 25 = m ∧ fld p 31 31 = ofBool x ∧ fld p 24 24 = ofBool y ∧ fld p 23 16 = z.toNat ∧ fld p 15 8 = u.toNat ∧ fld p 7 0 = k0 := by
  have := ofBool_lt x
  have := ofBool_lt y
  have := z.isLt
  have := u.isLt
  subst hp
  simp only [fld, pack]
  omega

theorem fields_31_24_23_15_7_5_4_v (m : Nat) (k0 : Nat) (k1 : Nat) (hm : m < 64) (hk0 : k0 < 4) (hk1 : k1 < 32) (x : Bool) (y : Bool) (z : BitVec 8) (u : BitVec 8) (v : Bool) {p : Nat}
    (hp : p = pack (m * 2 ^ 25 + k0 * 2 ^ 6 + k1 * 2 ^ 0) [(ofBool x, 31), (ofBool y, 24), (z.toNat, 16), (u.toNat, 8), (ofBool v, 5)]) :
    fld p 30 25 = m ∧ fld p 31 31 = ofBool x ∧ fld p 24 24 = ofBool y ∧ fld p 23 16 = z.toNat ∧ fld p 15 8 = u.toNat ∧ fld p 7 6 = k0 ∧ fld p 5 5 = ofBool v ∧ fld p 4 0 = k1 := by
  have := ofBool_lt x
  have := ofBool_lt y
  have := z.isLt
  have := u.isLt
  have := ofBool_lt v
  subst hp
  simp only [fld, pack]
  omega

theorem fields_31_24_23_15_7_5_4_v' (m : Nat) (k0 : Nat) (hm : m < 64) (hk0 : k0 < 4) (x : Bool) (y : Bool) (z : BitVec 8) (u : BitVec 8) (v : Bool) (w : BitVec 5) {p : Nat}
    (hp : p = pack (m * 2 ^ 25 + k0 * 2 ^ 6) [(ofBool x, 31), (ofBool y, 24), (z.toNat, 16), (u.toNat, 8), (ofBool v, 5), (w.toNat, 0)]) :
    fld p 30 25 = m ∧ fld p 31 31 = ofBool x ∧ fld p 24 24 = ofBool y ∧ fld p 23 16 = z.toNat ∧ fld p 15 8 = u.toNat ∧ fld p 7 6 = k0 ∧ fld p 5 5 = ofBool v ∧ fld p 4 0 = w.toNat := by
  have := ofBool_lt x
  have := ofBool_lt y
  have := z.isLt
  have := u.isLt
  have := ofBool_lt v
  have := w.isLt
  subst hp
  simp only [fld, pack]
  omega

theorem fields_31_24_23_15_7_4_v (m : Nat) (k0 : Nat) (hm : m < 64) (hk0 : k0 < 8) (x : Bool) (y : Bool) (z : BitVec 8) (u : BitVec 8) (v : BitVec 5) {p : Nat}
    (hp : p = pack (m * 2 ^ 25 + k0 * 2 ^ 5) [(ofBool x, 31), (ofBool y, 24), (z.toNat, 16), (u.toNat, 8), (v.toNat, 0)]) :
    fld p 30 25 = m ∧ fld p 31 31 = ofBool x ∧ fld p 24 24 = ofBool y ∧ fld p 23 16 = z.toNat ∧ fld p 15 8 = u.toNat ∧ fld p 7 5 = k0 ∧ fld p 4 0 = v.toNat := by
  have := ofBool_lt x
  have := ofBool_lt y
  have := z.isLt
  have := u.isLt
  have := v.isLt
  subst hp
  simp only [fld, pack]
  omega

theorem fields_31_24_23_15_7_5_4_2_v (m : Nat) (k0 : Nat) (k1 : Nat) (hm : m < 64) (hk0 : k0 < 4) (hk1 : k1 < 4) (x : Bool) (y : Bool) (z : BitVec 8) (u : BitVec 8) (v : Bool) (w : BitVec 3) {p : Nat}
    (hp : p = pack (m * 2 ^ 25 + k0 * 2 ^ 6 + k1 * 2 ^ 3) [(ofBool x, 31), (ofBool y, 24), (z.toNat, 16), (u.toNat, 8), (ofBool v, 5), (w.toNat, 0)]) :
    fld p 30 25 = m ∧ fld p 31 31 = ofBool x ∧ fld p 24 24 = ofBool y ∧ fld p 23 16 = z.toNat ∧ fld p 15 8 = u.toNat ∧ fld p 7 6 = k0 ∧ fld p 5 5 = ofBool v ∧ fld p 4 3 = k1 ∧ fld p 2 0 = w.toNat := by
  have := ofBool_lt x
  have := ofBool_lt y
  have := z.isLt
  have := u.isLt
  have := ofBool_lt v
  have := w.isLt
  subst hp
  simp only [fld, pack]
  omega

theorem fields_31_24_23_15_7_2_v (m : Nat) (k0 : Nat) (hm : m < 64) (hk0 : k0 < 32) (x : Bool) (y : Bool) (z : BitVec 8) (u : BitVec 8) (v : BitVec 3) {p : Nat}
    (hp : p = pack (m * 2 ^ 25 + k0 * 2 ^ 3) [(ofBool x, 31), (ofBool y, 24), (z.toNat, 16), (u.toNat, 8), (v.toNat, 0)]) :
    fld p 30 25 = m ∧ fld p 31 31 = ofBool x ∧ fld p 24 24 = ofBool y ∧ fld p 23 16 = z.toNat ∧ fld p 15 8 = u.toNat ∧ fld p 7 3 = k0 ∧ fld p 2 0 = v.toNat := by
  have := ofBool_lt x
  have := ofBool_lt y
  have := z.isLt
  have := u.isLt
  have := v.isLt
  subst hp
  simp only [fld, pack]
  omega

theorem fields_31_24_19_16_9_6_2_1_0_v (m : Nat)  (hm : m < 64)  (x : Bool) (y : BitVec 5) (z : BitVec 3) (u : BitVec 7) (v : BitVec 3) (w : BitVec 4) (a : Bool) (b : Bool) (c : Bool) {p : Nat}
    (hp : p = pack (m * 2 ^ 25) [(ofBool x, 31), (y.toNat, 20), (z.toNat, 17), (u.toNat, 10), (v.toNat, 7), (w.toNat, 3), (ofBool a, 2), (ofBool b, 1), (ofBool c, 0)]) :
    fld p 30 25 = m ∧ fld p 31 31 = ofBool x ∧ fld p 24 20 = y.toNat ∧ fld p 19 17 = z.toNat ∧ fld p 16 10 = u.toNat ∧ fld p 9 7 = v.toNat ∧ fld p 6 3 = w.toNat ∧ fld p 2 2 = ofBool a ∧ fld p 1 1 = ofBool b ∧ fld p 0 0 = ofBool c := by
  have := ofBool_lt x
  have := y.isLt
  have := z.isLt
  have := u.isLt
  have := v.isLt
  have := w.isLt
  have := ofBool_lt a
  have := ofBool_lt b
  have := ofBool_lt c
  subst hp
  simp only [fld, pack]
  omega

theorem fields_31_24_20_15_v (m : Nat) (k0 : Nat) (k1 : Nat) (hm : m < 64) (hk0 : k0 < 16) (hk1 : k1 < 65536) (x : Bool) (y : BitVec 5) {p : Nat}
    (hp : p = pack (m * 2 ^ 25 + k0 * 2 ^ 21 + k1 * 2 ^ 0) [(ofBool x, 31), (y.toNat, 16)]) :
    fld p 30 25 = m ∧ fld p 31 31 = ofBool x ∧ fld p 24 21 = k0 ∧ fld p 20 16 = y.toNat ∧ fld p 15 0 = k1 := by
  have := ofBool_lt x
  have := y.isLt
  subst hp
  simp only [fld, pack]
  omega

theorem fields_31_24_20_16_v (m : Nat) (k0 : Nat) (k1 : Nat) (hm : m < 64) (hk0 : k0 < 16) (hk1 : k1 < 131072) (x : Bool) (y : BitVec 4) {p : Nat}
    (hp : p = pack (m * 2 ^ 25 + k0 * 2 ^ 21 + k1 * 2 ^ 0) [(ofBool x, 31), (y.toNat, 17)]) :
    fld p 30 25 = m ∧ fld p 31 31 = ofBool x ∧ fld p 24 21 = k0 ∧ fld p 20 17 = y.toNat ∧ fld p 16 0 = k1 := by
  have := ofBool_lt x
  have := y.isLt
  subst hp
  simp only [fld, pack]
  omega

theorem fields_31_24_20_13_9_v (m : Nat) (k0 : Nat) (k1 : Nat) (hm : m < 64) (hk0 : k0 < 16) (hk1 : k1 < 1024) (x : Bool) (y : BitVec 7) (z : BitVec 4) {p : Nat}
    (hp : p = pack (m * 2 ^ 25 + k0 * 2 ^ 21 + k1 * 2 ^ 0) [(ofBool x, 31), (y.toNat, 14), (z.toNat, 10)]) :
    fld p 30 25 = m ∧ fld p 31 31 = ofBool x ∧ fld p 24 21 = k0 ∧ fld p 20 14 = y.toNat ∧ fld p 13 10 = z.toNat ∧ fld p 9 0 = k1 := by
  have := ofBool_lt x
  have := y.isLt
  have := z.isLt
  subst hp
  simp only [fld, pack]
  omega

theorem fields_31_24_20_13_9_5_v (m : Nat) (k0 : Nat) (k1 : Nat) (k2 : Nat) (hm : m < 64) (hk0 : k0 < 16) (hk1 : k1 < 16) (hk2 : k2 < 64) (x : Bool) (y : BitVec 7) (z : BitVec 4) {p : Nat}
    (hp : p = pack (m * 2 ^ 25 + k0 * 2 ^ 21 + k1 * 2 ^ 10 + k2 * 2 ^ 0) [(ofBool x, 31), (y.toNat, 14), (z.toNat, 6)]) :
    fld p 30 25 = m ∧ fld p 31 31 = ofBool x ∧ fld p 24 21 = k0 ∧ fld p 20 14 = y.toNat ∧ fld p 13 10 = k1 ∧ fld p 9 6 = z.toNat ∧ fld p 5 0 = k2 := by
  have := ofBool_lt x
  have := y.isLt
  have := z.isLt
  subst hp
  simp only [fld, pack]
  omega

theorem fields_31_24_20_16_13_9_v (m : Nat) (k0 : Nat) (k1 : Nat) (hm : m < 64) (hk0 : k0 < 16) (hk1 : k1 < 1024) (x : Bool) (y : BitVec 4) (z : BitVec 3) (u : BitVec 4) {p : Nat}
    (hp : p = pack (m * 2 ^ 25 + k0 * 2 ^ 21 + k1 * 2 ^ 0) [(ofBool x, 31), (y.toNat, 17), (z.toNat, 14), (u.toNat, 10)]) :
    fld p 30 25 = m ∧ fld p 31 31 = ofBool x ∧ fld p 24 21 = k0 ∧ fld p 20 17 = y.toNat ∧ fld p 16 14 = z.toNat ∧ fld p 13 10 = u.toNat ∧ fld p 9 0 = k1 := by
  have := ofBool_lt x
  have := y.isLt
  have := z.isLt
  have := u.isLt
  subst hp
  simp only [fld, pack]
  omega

theorem fields_31_24_20_16_9_6_v (m : Nat) (k0 : Nat) (k1 : Nat) (hm : m < 64) (hk0 : k0 < 16) (hk1 : k1 < 128) (x : Bool) (y : BitVec 4) (z : BitVec 7) (u : BitVec 3) {p : Nat}
    (hp : p = pack (m * 2 ^ 25 + k0 * 2 ^ 21 + k1 * 2 ^ 0) [(ofBool x, 31), (y.toNat, 17), (z.toNat, 10), (u.toNat, 7)]) :
    fld p 30 25 = m ∧ fld p 31 31 = ofBool x ∧ fld p 24 21 = k0 ∧ fld p 20 17 = y.toNat ∧ fld p 16 10 = z.toNat ∧ fld p 9 7 = u.toNat ∧ fld p 6 0 = k1 := by
  have := ofBool_lt x
  have := y.isLt
  have := z.isLt
  have := u.isLt
  subst hp
  simp only [fld, pack]
  omega

theorem fields_31_24_20_13_9_5_2_v (m : Nat) (k0 : Nat) (k1 : Nat) (hm : m < 64) (hk0 : k0 < 16) (hk1 : k1 < 8) (x : Bool) (y : BitVec 7) (z : BitVec 4) (u : BitVec 4) (v : BitVec 3) {p : Nat}
    (hp : p = pack (m * 2 ^ 25 + k0 * 2 ^ 21 + k1 * 2 ^ 0) [(ofBool x, 31), (y.toNat, 14), (z.toNat, 10), (u.toNat, 6), (v.toNat, 3)]) :
    fld p 30 25 = m ∧ fld p 31 31 = ofBool x ∧ fld p 24 21 = k0 ∧ fld p 20 14 = y.toNat ∧ fld p 13 10 = z.toNat ∧ fld p 9 6 = u.toNat ∧ fld p 5 3 = v.toNat ∧ fld p 2 0 = k1 := by
  have := ofBool_lt x
  have := y.isLt
  have := z.isLt
  have := u.isLt
  have := v.isLt
  subst hp
  simp only [fld, pack]
  omega

theorem fields_31_24_20_13_6_2_v (m : Nat) (k0 : Nat) (k1 : Nat) (hm : m < 64) (hk0 : k0 < 16) (hk1 : k1 < 8) (x : Bool) (y : BitVec 7) (z : BitVec 7) (u : BitVec 4) {p : Nat}
    (hp : p = pack (m * 2 ^ 25 + k0 * 2 ^ 21 + k1 * 2 ^ 0) [(ofBool x, 31), (y.toNat, 14), (z.toNat, 7), (u.toNat, 3)]) :
    fld p 30 25 = m ∧ fld p 31 31 = ofBool x ∧ fld p 24 21 = k0 ∧ fld p 20 14 = y.toNat ∧ fld p 13 7 = z.toNat ∧ fld p 6 3 = u.toNat ∧ fld p 2 0 = k1 := by
  have := ofBool_lt x
  have := y.isLt
  have := z.isLt
  have := u.isLt
  subst hp
  simp only [fld, pack]
  omega

theorem fields_31_24_20_13_9_4_v (m : Nat) (k0 : Nat) (k1 : Nat) (hm : m < 64) (hk0 : k0 < 16) (hk1 : k1 < 32) (x : Bool) (y : BitVec 7) (z : BitVec 4) (u : BitVec 5) {p : Nat}
    (hp : p = pack (m * 2 ^ 25 + k0 * 2 ^ 21 + k1 * 2 ^ 0) [(ofBool x, 31), (y.toNat, 14), (z.toNat, 10), (u.toNat, 5)]) :
    fld p 30 25 = m ∧ fld p 31 31 = ofBool x ∧ fld p 24 21 = k0 ∧ fld p 20 14 = y.toNat ∧ fld p 13 10 = z.toNat ∧ fld p 9 5 = u.toNat ∧ fld p 4 0 = k1 := by
  have := ofBool_lt x
  have := y.isLt
  have := z.isLt
  have := u.isLt
  subst hp
  simp only [fld, pack]
  omega

theorem fields_31_24_20_16_12_8_v (m : Nat) (k0 : Nat) (k1 : Nat) (hm : m < 64) (hk0 : k0 < 16) (hk1 : k1 < 512) (x : Bool) (y : BitVec 4) (z : BitVec 4) (u : BitVec 4) {p : Nat}
    (hp : p = pack (m * 2 ^ 25 + k0 * 2 ^ 21 + k1 * 2 ^ 0) [(ofBool x, 31), (y.toNat, 17), (z.toNat, 13), (u.toNat, 9)]) :
    fld p 30 25 = m ∧ fld p 31 31 = ofBool x ∧ fld p 24 21 = k0 ∧ fld p 20 17 = y.toNat ∧ fld p 16 13 = z.toNat ∧ fld p 12 9 = u.toNat ∧ fld p 8 0 = k1 := by
  have := ofBool_lt x
  have := y.isLt
  have := z.isLt
  have := u.isLt
  subst hp
  simp only [fld, pack]
  omega

theorem fields_31_24_20_16_12_v (m : Nat) (k0 : Nat) (k1 : Nat) (hm : m < 64) (hk0 : k0 < 16) (hk1 : k1 < 8192) (x : Bool) (y : BitVec 4) (z : BitVec 4) {p : Nat}
    (hp : p = pack (m * 2 ^ 25 + k0 * 2 ^ 21 + k1 * 2 ^ 0) [(ofBool x, 31), (y.toNat, 17), (z.toNat, 13)]) :
    fld p 30 25 = m ∧ fld p 31 31 = ofBool x ∧ fld p 24 21 = k0 ∧ fld p 20 17 = y.toNat ∧ fld p 16 13 = z.toNat ∧ fld p 12 0 = k1 := by
  have := ofBool_lt x
  have := y.isLt
  have := z.isLt
  subst hp
  simp only [fld, pack]
  omega

theorem fields_31_24_20_16_12_v' (m : Nat) (k0 : Nat) (hm : m < 64) (hk0 : k0 < 16) (x : Bool) (y : BitVec 4) (z : BitVec 4) (u : BitVec 13) {p : Nat}
    (hp : p = pack (m * 2 ^ 25 + k0 * 2 ^ 21) [(ofBool x, 31), (y.toNat, 17), (z.toNat, 13), (u.toNat, 0)]) :
    fld p 30 25 = m ∧ fld p 31 31 = ofBool x ∧ fld p 24 21 = k0 ∧ fld p 20 17 = y.toNat ∧ fld p 16 13 = z.toNat ∧ fld p 12 0 = u.toNat := by
  have := ofBool_lt x
  have := y.isLt
  have := z.isLt
  have := u.isLt
  subst hp
  simp only [fld, pack]
  omega

theorem fields_31_24_20_v (m : Nat)  (hm : m < 64)  (x : Bool) (y : BitVec 4) (z : BitVec 21) {p : Nat}
    (hp : p = pack (m * 2 ^ 25) [(ofBool x, 31), (y.toNat, 21), (z.toNat, 0)]) :
    fld p 30 25 = m ∧ fld p 31 31 = ofBool x ∧ fld p 24 21 = y.toNat ∧ fld p 20 0 = z.toNat := by
  have := ofBool_lt x
  have := y.isLt
  have := z.isLt
  subst hp
  simp only [fld, pack]
  omega

theorem fields_31_24_20_16_13_10_7_v (m : Nat) (k0 : Nat) (k1 : Nat) (k2 : Nat) (hm : m < 64) (hk0 : k0 < 16) (hk1 : k1 < 8) (hk2 : k2 < 256) (x : Bool) (y : BitVec 4) (z : BitVec 3) (u : BitVec 3) {p : Nat}
    (hp : p = pack (m * 2 ^ 25 + k0 * 2 ^ 21 + k1 * 2 ^ 11 + k2 * 2 ^ 0) [(ofBool x, 31), (y.toNat, 17), (z.toNat, 14), (u.toNat, 8)]) :
    fld p 30 25 = m ∧ fld p 31 31 = ofBool x ∧ fld p 24 21 = k0 ∧ fld p 20 17 = y.toNat ∧ fld p 16 14 = z.toNat ∧ fld p 13 11 = k1 ∧ fld p 10 8 = u.toNat ∧ fld p 7 0 = k2 := by
  have := ofBool_lt x
  have := y.isLt
  have := z.isLt
  have := u.isLt
  subst hp
  simp only [fld, pack]
  omega

theorem fields_31_24_16_13_v (m : Nat) (k0 : Nat) (k1 : Nat) (hm : m < 64) (hk0 : k0 < 256) (hk1 : k1 < 16384) (x : Bool) (y : BitVec 3) {p : Nat}
    (hp : p = pack (m * 2 ^ 25 + k0 * 2 ^ 17 + k1 * 2 ^ 0) [(ofBool x, 31), (y.toNat, 14)]) :
    fld p 30 25 = m ∧ fld p 31 31 = ofBool x ∧ fld p 24 17 = k0 ∧ fld p 16 14 = y.toNat ∧ fld p 13 0 = k1 := by
  have := ofBool_lt x
  have := y.isLt
  subst hp
  simp only [fld, pack]
  omega

theorem fields_31_24_20_16_13_v (m : Nat) (k0 : Nat) (k1 : Nat) (hm : m < 64) (hk0 : k0 < 16) (hk1 : k1 < 16384) (x : Bool) (y : BitVec 4) (z : BitVec 3) {p : Nat}
    (hp : p = pack (m * 2 ^ 25 + k0 * 2 ^ 21 + k1 * 2 ^ 0) [(ofBool x, 31), (y.toNat, 17), (z.toNat, 14)]) :
    fld p 30 25 = m ∧ fld p 31 31 = ofBool x ∧ fld p 24 21 = k0 ∧ fld p 20 17 = y.toNat ∧ fld p 16 14 = z.toNat ∧ fld p 13 0 = k1 := by
  have := ofBool_lt x
  have := y.isLt
  have := z.isLt
  subst hp
  simp only [fld, pack]
  omega

theorem fields_31_24_20_16_13_10_v (m : Nat) (k0 : Nat) (k1 : Nat) (hm : m < 64) (hk0 : k0 < 16) (hk1 : k1 < 2048) (x : Bool) (y : BitVec 4) (z : BitVec 3) (u : BitVec 3) {p : Nat}
    (hp : p = pack (m * 2 ^ 25 + k0 * 2 ^ 21 + k1 * 2 ^ 0) [(ofBool x, 31), (y.toNat, 17), (z.toNat, 14), (u.toNat, 11)]) :
    fld p 30 25 = m ∧ fld p 31 31 = ofBool x ∧ fld p 24 21 = k0 ∧ fld p 20 17 = y.toNat ∧ fld p 16 14 = z.toNat ∧ fld p 13 11 = u.toNat ∧ fld p 10 0 = k1 := by
  have := ofBool_lt x
  have := y.isLt
  have := z.isLt
  have := u.isLt
  subst hp
  simp only [fld, pack]
  omega

theorem fields_31_24_16_13_10_v (m : Nat) (k0 : Nat) (k1 : Nat) (hm : m < 64) (hk0 : k0 < 256) (hk1 : k1 < 2048) (x : Bool) (y : BitVec 3) (z : BitVec 3) {p : Nat}
    (hp : p = pack (m * 2 ^ 25 + k0 * 2 ^ 17 + k1 * 2 ^ 0) [(ofBool x, 31), (y.toNat, 14), (z.toNat, 11)]) :
    fld p 30 25 = m ∧ fld p 31 31 = ofBool x ∧ fld p 24 17 = k0 ∧ fld p 16 14 = y.toNat ∧ fld p 13 11 = z.toNat ∧ fld p 10 0 = k1 := by
  have := ofBool_lt x
  have := y.isLt
  have := z.isLt
  subst hp
  simp only [fld, pack]
  omega

theorem fields_31_24_20_16_13_8_7_v (m : Nat) (k0 : Nat) (k1 : Nat) (k2 : Nat) (hm : m < 64) (hk0 : k0 < 16) (hk1 : k1 < 32) (hk2 : k2 < 256) (x : Bool) (y : BitVec 4) (z : BitVec 3) (u : Bool) {p : Nat}
    (hp : p = pack (m * 2 ^ 25 + k0 * 2 ^ 21 + k1 * 2 ^ 9 + k2 * 2 ^ 0) [(ofBool x, 31), (y.toNat, 17), (z.toNat, 14), (ofBool u, 8)]) :
    fld p 30 25 = m ∧ fld p 31 31 = ofBool x ∧ fld p 24 21 = k0 ∧ fld p 20 17 = y.toNat ∧ fld p 16 14 = z.toNat ∧ fld p 13 9 = k1 ∧ fld p 8 8 = ofBool u ∧ fld p 7 0 = k2 := by
  have := ofBool_lt x
  have := y.isLt
  have := z.isLt
  have := ofBool_lt u
  subst hp
  simp only [fld, pack]
  omega

theorem fields_31_24_20_16_13_9_7_v (m : Nat) (k0 : Nat) (k1 : Nat) (k2 : Nat) (hm : m < 64) (hk0 : k0 < 16) (hk1 : k1 < 16) (hk2 : k2 < 256) (x : Bool) (y : BitVec 4) (z : BitVec 3) (u : BitVec 2) {p : Nat}
    (hp : p = pack (m * 2 ^ 25 + k0 * 2 ^ 21 + k1 * 2 ^ 10 + k2 * 2 ^ 0) [(ofBool x, 31), (y.toNat, 17), (z.toNat, 14), (u.toNat, 8)]) :
    fld p 30 25 = m ∧ fld p 31 31 = ofBool x ∧ fld p 24 21 = k0 ∧ fld p 20 17 = y.toNat ∧ fld p 16 14 = z.toNat ∧ fld p 13 10 = k1 ∧ fld p 9 8 = u.toNat ∧ fld p 7 0 = k2 := by
  have := ofBool_lt x
  have := y.isLt
  have := z.isLt
  have := u.isLt
  subst hp
  simp only [fld, pack]
  omega

theorem fields_31_24_16_12_v (m : Nat)  (hm : m < 64)  (x : Bool) (y : BitVec 8) (z : BitVec 4) (u : BitVec 13) {p : Nat}
    (hp : p = pack (m * 2 ^ 25) [(ofBool x, 31), (y.toNat, 17), (z.toNat, 13), (u.toNat, 0)]) :
    fld p 30 25 = m ∧ fld p 31 31 = ofBool x ∧ fld p 24 17 = y.toNat ∧ fld p 16 13 = z.toNat ∧ fld p 12 0 = u.toNat := by
  have := ofBool_lt x
  have := y.isLt
  have := z.isLt
  have := u.isLt
  subst hp
  simp only [fld, pack]
  omega

theorem fields_31_24_20_12_9_v (m : Nat) (k0 : Nat) (k1 : Nat) (hm : m < 64) (hk0 : k0 < 16) (hk1 : k1 < 1024) (x : Bool) (y : BitVec 8) (z : BitVec 3) {p : Nat}
    (hp : p = pack (m * 2 ^ 25 + k0 * 2 ^ 21 + k1 * 2 ^ 0) [(ofBool x, 31), (y.toNat, 13), (z.toNat, 10)]) :
    fld p 30 25 = m ∧ fld p 31 31 = ofBool x ∧ fld p 24 21 = k0 ∧ fld p 20 13 = y.toNat ∧ fld p 12 10 = z.toNat ∧ fld p 9 0 = k1 := by
  have := ofBool_lt x
  have := y.isLt
  have := z.isLt
  subst hp
  simp only [fld, pack]
  omega

theorem fields_31_24_9_5_v (m : Nat) (k0 : Nat) (k1 : Nat) (hm : m < 64) (hk0 : k0 < 32768) (hk1 : k1 < 64) (x : Bool) (y : BitVec 4) {p : Nat}
    (hp : p = pack (m * 2 ^ 25 + k0 * 2 ^ 10 + k1 * 2 ^ 0) [(ofBool x, 31), (y.toNat, 6)]) :
    fld p 30 25 = m ∧ fld p 31 31 = ofBool x ∧ fld p 24 10 = k0 ∧ fld p 9 6 = y.toNat ∧ fld p 5 0 = k1 := by
  have := ofBool_lt x
  have := y.isLt
  subst hp
  simp only [fld, pack]
  omega

theorem fields_31_24_16_8_v (m : Nat) (k0 : Nat) (hm : m < 64) (hk0 : k0 < 512) (x : Bool) (y : BitVec 8) (z : BitVec 8) {p : Nat}
    (hp : p = pack (m * 2 ^ 25 + k0 * 2 ^ 0) [(ofBool x, 31), (y.toNat, 17), (z.toNat, 9)]) :
    fld p 30 25 = m ∧ fld p 31 31 = ofBool x ∧ fld p 24 17 = y.toNat ∧ fld p 16 9 = z.toNat ∧ fld p 8 0 = k0 := by
  have := ofBool_lt x
  have := y.isLt
  have := z.isLt
  subst hp
  simp only [fld, pack]
  omega

theorem fields_31_24_16_12_v' (m : Nat) (k0 : Nat) (k1 : Nat) (hm : m < 64) (hk0 : k0 < 256) (hk1 : k1 < 8192) (x : Bool) (y : BitVec 4) {p : Nat}
    (hp : p = pack (m * 2 ^ 25 + k0 * 2 ^ 17 + k1 * 2 ^ 0) [(ofBool x, 31), (y.toNat, 13)]) :
    fld p 30 25 = m ∧ fld p 31 31 = ofBool x ∧ fld p 24 17 = k0 ∧ fld p 16 13 = y.toNat ∧ fld p 12 0 = k1 := by
  have := ofBool_lt x
  have := y.isLt
  subst hp
  simp only [fld, pack]
  omega

theorem fields_31_24_20_16_12_11_v (m : Nat) (k0 : Nat) (k1 : Nat) (k2 : Nat) (hm : m < 64) (hk0 : k0 < 16) (hk1 : k1 < 16) (hk2 : k2 < 4096) (x : Bool) (y : BitVec 4) (z : Bool) {p : Nat}
    (hp : p = pack (m * 2 ^ 25 + k0 * 2 ^ 21 + k1 * 2 ^ 13 + k2 * 2 ^ 0) [(ofBool x, 31), (y.toNat, 17), (ofBool z, 12)]) :
    fld p 30 25 = m ∧ fld p 31 31 = ofBool x ∧ fld p 24 21 = k0 ∧ fld p 20 17 = y.toNat ∧ fld p 16 13 = k1 ∧ fld p 12 12 = ofBool z ∧ fld p 11 0 = k2 := by
  have := ofBool_lt x
  have := y.isLt
  have := ofBool_lt z
  subst hp
  simp only [fld, pack]
  omega

theorem add (d : BitVec 5) (s : BitVec 5) (t : BitVec 5) (w : Bool) : Statement (.add d s t w) := by
  obtain ⟨h31, h30, f24, f19, f14, f9, f8⟩ := fields_24_19_14_9_8 1 0 (by decide) (by decide) d s t w rfl
  refine of_control (x := pack (1 * 2 ^ 25 + 0 * 2 ^ 0) [(d.toNat, 20), (s.toNat, 15), (t.toNat, 10), (ofBool w, 9)]) rfl rfl h31 h30 (by decide) ?_
  generalize pack (1 * 2 ^ 25 + 0 * 2 ^ 0) [(d.toNat, 20), (s.toNat, 15), (t.toNat, 10), (ofBool w, 9)] = wd at *
  simp only [rawControl, h30, decodeControl01, f24, f19, f14, f9, f8, beq_ofBool, BitVec.ofNat_toNat, BitVec.setWidth_eq, and_self, and_true, if_true]

theorem sub (d : BitVec 5) (s : BitVec 5) (t : BitVec 5) (w : Bool) : Statement (.sub d s t w) := by
  obtain ⟨h31, h30, f24, f19, f14, f9, f8⟩ := fields_24_19_14_9_8 1 1 (by decide) (by decide) d s t w rfl
  refine of_control (x := pack (1 * 2 ^ 25 + 1 * 2 ^ 0) [(d.toNat, 20), (s.toNat, 15), (t.toNat, 10), (ofBool w, 9)]) rfl rfl h31 h30 (by decide) ?_
  generalize pack (1 * 2 ^ 25 + 1 * 2 ^ 0) [(d.toNat, 20), (s.toNat, 15), (t.toNat, 10), (ofBool w, 9)] = wd at *
  simp only [rawControl, h30, decodeControl01, f24, f19, f14, f9, f8, beq_ofBool, BitVec.ofNat_toNat, BitVec.setWidth_eq, and_self, and_true, if_true, false_and, and_false, reduceIte, Nat.reduceEqDiff, OfNat.ofNat_ne_zero, OfNat.zero_ne_ofNat, Nat.one_ne_zero, Nat.zero_ne_one, OfNat.one_ne_ofNat, OfNat.ofNat_ne_one]

theorem and (d : BitVec 5) (s : BitVec 5) (t : BitVec 5) : Statement (.and d s t) := by
  obtain ⟨h31, h30, f24, f19, f14, f9⟩ := fields_24_19_14_9 1 2 (by decide) (by decide) d s t rfl
  refine of_control (x := pack (1 * 2 ^ 25 + 2 * 2 ^ 0) [(d.toNat, 20), (s.toNat, 15), (t.toNat, 10)]) rfl rfl h31 h30 (by decide) ?_
  generalize pack (1 * 2 ^ 25 + 2 * 2 ^ 0) [(d.toNat, 20), (s.toNat, 15), (t.toNat, 10)] = wd at *
  have n0 : fld wd 8 0 ≠ 0 := fun e => absurd ((fld_of_fld 8 0 f9 (by decide) (by decide) (by decide)).symm.trans (fld_of_fld 8 0 e (by decide) (by decide) (by decide))) (by decide)
  have n1 : fld wd 8 0 ≠ 1 := fun e => absurd ((fld_of_fld 8 0 f9 (by decide) (by decide) (by decide)).symm.trans (fld_of_fld 8 0 e (by decide) (by decide) (by decide))) (by decide)
  simp only [rawControl, h30, decodeControl01, f24, f19, f14, f9, n0, n1, BitVec.ofNat_toNat, BitVec.setWidth_eq, and_self, and_true, if_true, false_and, and_false, reduceIte, Nat.reduceEqDiff, OfNat.ofNat_ne_zero, OfNat.zero_ne_ofNat, Nat.one_ne_zero, Nat.zero_ne_one, OfNat.one_ne_ofNat, OfNat.ofNat_ne_one]

theorem or (d : BitVec 5) (s : BitVec 5) (t : BitVec 5) : Statement (.or d s t) := by
  obtain ⟨h31, h30, f24, f19, f14, f9⟩ := fields_24_19_14_9 1 3 (by decide) (by decide) d s t rfl
  refine of_control (x := pack (1 * 2 ^ 25 + 3 * 2 ^ 0) [(d.toNat, 20), (s.toNat, 15), (t.toNat, 10)]) rfl rfl h31 h30 (by decide) ?_
  generalize pack (1 * 2 ^ 25 + 3 * 2 ^ 0) [(d.toNat, 20), (s.toNat, 15), (t.toNat, 10)] = wd at *
  have n0 : fld wd 8 0 ≠ 0 := fun e => absurd ((fld_of_fld 8 0 f9 (by decide) (by decide) (by decide)).symm.trans (fld_of_fld 8 0 e (by decide) (by decide) (by decide))) (by decide)
  have n1 : fld wd 8 0 ≠ 1 := fun e => absurd ((fld_of_fld 8 0 f9 (by decide) (by decide) (by decide)).symm.trans (fld_of_fld 8 0 e (by decide) (by decide) (by decide))) (by decide)
  simp only [rawControl, h30, decodeControl01, f24, f19, f14, f9, n0, n1, BitVec.ofNat_toNat, BitVec.setWidth_eq, and_self, and_true, if_true, false_and, and_false, reduceIte, Nat.reduceEqDiff, OfNat.ofNat_ne_zero, OfNat.zero_ne_ofNat, Nat.one_ne_zero, Nat.zero_ne_one, OfNat.one_ne_ofNat, OfNat.ofNat_ne_one]

theorem xor (d : BitVec 5) (s : BitVec 5) (t : BitVec 5) : Statement (.xor d s t) := by
  obtain ⟨h31, h30, f24, f19, f14, f9⟩ := fields_24_19_14_9 1 4 (by decide) (by decide) d s t rfl
  refine of_control (x := pack (1 * 2 ^ 25 + 4 * 2 ^ 0) [(d.toNat, 20), (s.toNat, 15), (t.toNat, 10)]) rfl rfl h31 h30 (by decide) ?_
  generalize pack (1 * 2 ^ 25 + 4 * 2 ^ 0) [(d.toNat, 20), (s.toNat, 15), (t.toNat, 10)] = wd at *
  have n0 : fld wd 8 0 ≠ 0 := fun e => absurd ((fld_of_fld 8 0 f9 (by decide) (by decide) (by decide)).symm.trans (fld_of_fld 8 0 e (by decide) (by decide) (by decide))) (by decide)
  have n1 : fld wd 8 0 ≠ 1 := fun e => absurd ((fld_of_fld 8 0 f9 (by decide) (by decide) (by decide)).symm.trans (fld_of_fld 8 0 e (by decide) (by decide) (by decide))) (by decide)
  simp only [rawControl, h30, decodeControl01, f24, f19, f14, f9, n0, n1, BitVec.ofNat_toNat, BitVec.setWidth_eq, and_self, and_true, if_true, false_and, and_false, reduceIte, Nat.reduceEqDiff, OfNat.ofNat_ne_zero, OfNat.zero_ne_ofNat, Nat.one_ne_zero, Nat.zero_ne_one, OfNat.one_ne_ofNat, OfNat.ofNat_ne_one]

theorem shl (d : BitVec 5) (s : BitVec 5) (t : BitVec 5) (w : Bool) : Statement (.shl d s t w) := by
  obtain ⟨h31, h30, f24, f19, f14, f9, f8⟩ := fields_24_19_14_9_8 1 5 (by decide) (by decide) d s t w rfl
  refine of_control (x := pack (1 * 2 ^ 25 + 5 * 2 ^ 0) [(d.toNat, 20), (s.toNat, 15), (t.toNat, 10), (ofBool w, 9)]) rfl rfl h31 h30 (by decide) ?_
  generalize pack (1 * 2 ^ 25 + 5 * 2 ^ 0) [(d.toNat, 20), (s.toNat, 15), (t.toNat, 10), (ofBool w, 9)] = wd at *
  have n0 : fld wd 9 0 ≠ 2 := fun e => absurd ((fld_of_fld 8 0 f8 (by decide) (by decide) (by decide)).symm.trans (fld_of_fld 8 0 e (by decide) (by decide) (by decide))) (by decide)
  have n1 : fld wd 9 0 ≠ 3 := fun e => absurd ((fld_of_fld 8 0 f8 (by decide) (by decide) (by decide)).symm.trans (fld_of_fld 8 0 e (by decide) (by decide) (by decide))) (by decide)
  have n2 : fld wd 9 0 ≠ 4 := fun e => absurd ((fld_of_fld 8 0 f8 (by decide) (by decide) (by decide)).symm.trans (fld_of_fld 8 0 e (by decide) (by decide) (by decide))) (by decide)
  simp only [rawControl, h30, decodeControl01, f24, f19, f14, f9, f8, n0, n1, n2, beq_ofBool, BitVec.ofNat_toNat, BitVec.setWidth_eq, and_self, and_true, if_true, false_and, and_false, reduceIte, Nat.reduceEqDiff, OfNat.ofNat_ne_zero, OfNat.zero_ne_ofNat, Nat.one_ne_zero, Nat.zero_ne_one, OfNat.one_ne_ofNat, OfNat.ofNat_ne_one]

theorem shr (d : BitVec 5) (s : BitVec 5) (t : BitVec 5) (w : Bool) : Statement (.shr d s t w) := by
  obtain ⟨h31, h30, f24, f19, f14, f9, f8⟩ := fields_24_19_14_9_8 1 6 (by decide) (by decide) d s t w rfl
  refine of_control (x := pack (1 * 2 ^ 25 + 6 * 2 ^ 0) [(d.toNat, 20), (s.toNat, 15), (t.toNat, 10), (ofBool w, 9)]) rfl rfl h31 h30 (by decide) ?_
  generalize pack (1 * 2 ^ 25 + 6 * 2 ^ 0) [(d.toNat, 20), (s.toNat, 15), (t.toNat, 10), (ofBool w, 9)] = wd at *
  have n0 : fld wd 9 0 ≠ 2 := fun e => absurd ((fld_of_fld 8 0 f8 (by decide) (by decide) (by decide)).symm.trans (fld_of_fld 8 0 e (by decide) (by decide) (by decide))) (by decide)
  have n1 : fld wd 9 0 ≠ 3 := fun e => absurd ((fld_of_fld 8 0 f8 (by decide) (by decide) (by decide)).symm.trans (fld_of_fld 8 0 e (by decide) (by decide) (by decide))) (by decide)
  have n2 : fld wd 9 0 ≠ 4 := fun e => absurd ((fld_of_fld 8 0 f8 (by decide) (by decide) (by decide)).symm.trans (fld_of_fld 8 0 e (by decide) (by decide) (by decide))) (by decide)
  simp only [rawControl, h30, decodeControl01, f24, f19, f14, f9, f8, n0, n1, n2, beq_ofBool, BitVec.ofNat_toNat, BitVec.setWidth_eq, and_self, and_true, if_true, false_and, and_false, reduceIte, Nat.reduceEqDiff, OfNat.ofNat_ne_zero, OfNat.zero_ne_ofNat, Nat.one_ne_zero, Nat.zero_ne_one, OfNat.one_ne_ofNat, OfNat.ofNat_ne_one]

theorem sar (d : BitVec 5) (s : BitVec 5) (t : BitVec 5) (w : Bool) : Statement (.sar d s t w) := by
  obtain ⟨h31, h30, f24, f19, f14, f9, f8⟩ := fields_24_19_14_9_8 1 7 (by decide) (by decide) d s t w rfl
  refine of_control (x := pack (1 * 2 ^ 25 + 7 * 2 ^ 0) [(d.toNat, 20), (s.toNat, 15), (t.toNat, 10), (ofBool w, 9)]) rfl rfl h31 h30 (by decide) ?_
  generalize pack (1 * 2 ^ 25 + 7 * 2 ^ 0) [(d.toNat, 20), (s.toNat, 15), (t.toNat, 10), (ofBool w, 9)] = wd at *
  have n0 : fld wd 9 0 ≠ 2 := fun e => absurd ((fld_of_fld 8 0 f8 (by decide) (by decide) (by decide)).symm.trans (fld_of_fld 8 0 e (by decide) (by decide) (by decide))) (by decide)
  have n1 : fld wd 9 0 ≠ 3 := fun e => absurd ((fld_of_fld 8 0 f8 (by decide) (by decide) (by decide)).symm.trans (fld_of_fld 8 0 e (by decide) (by decide) (by decide))) (by decide)
  have n2 : fld wd 9 0 ≠ 4 := fun e => absurd ((fld_of_fld 8 0 f8 (by decide) (by decide) (by decide)).symm.trans (fld_of_fld 8 0 e (by decide) (by decide) (by decide))) (by decide)
  simp only [rawControl, h30, decodeControl01, f24, f19, f14, f9, f8, n0, n1, n2, beq_ofBool, BitVec.ofNat_toNat, BitVec.setWidth_eq, and_self, and_true, if_true, false_and, and_false, reduceIte, Nat.reduceEqDiff, OfNat.ofNat_ne_zero, OfNat.zero_ne_ofNat, Nat.one_ne_zero, Nat.zero_ne_one, OfNat.one_ne_ofNat, OfNat.ofNat_ne_one]

theorem mul (d : BitVec 5) (s : BitVec 5) (t : BitVec 5) (w : Bool) : Statement (.mul d s t w) := by
  obtain ⟨h31, h30, f24, f19, f14, f9, f8⟩ := fields_24_19_14_9_8 1 8 (by decide) (by decide) d s t w rfl
  refine of_control (x := pack (1 * 2 ^ 25 + 8 * 2 ^ 0) [(d.toNat, 20), (s.toNat, 15), (t.toNat, 10), (ofBool w, 9)]) rfl rfl h31 h30 (by decide) ?_
  generalize pack (1 * 2 ^ 25 + 8 * 2 ^ 0) [(d.toNat, 20), (s.toNat, 15), (t.toNat, 10), (ofBool w, 9)] = wd at *
  have n0 : fld wd 9 0 ≠ 2 := fun e => absurd ((fld_of_fld 8 0 f8 (by decide) (by decide) (by decide)).symm.trans (fld_of_fld 8 0 e (by decide) (by decide) (by decide))) (by decide)
  have n1 : fld wd 9 0 ≠ 3 := fun e => absurd ((fld_of_fld 8 0 f8 (by decide) (by decide) (by decide)).symm.trans (fld_of_fld 8 0 e (by decide) (by decide) (by decide))) (by decide)
  have n2 : fld wd 9 0 ≠ 4 := fun e => absurd ((fld_of_fld 8 0 f8 (by decide) (by decide) (by decide)).symm.trans (fld_of_fld 8 0 e (by decide) (by decide) (by decide))) (by decide)
  simp only [rawControl, h30, decodeControl01, f24, f19, f14, f9, f8, n0, n1, n2, beq_ofBool, BitVec.ofNat_toNat, BitVec.setWidth_eq, and_self, and_true, if_true, false_and, and_false, reduceIte, Nat.reduceEqDiff, OfNat.ofNat_ne_zero, OfNat.zero_ne_ofNat, Nat.one_ne_zero, Nat.zero_ne_one, OfNat.one_ne_ofNat, OfNat.ofNat_ne_one]

theorem mulh (d : BitVec 5) (s : BitVec 5) (t : BitVec 5) : Statement (.mulh d s t) := by
  obtain ⟨h31, h30, f24, f19, f14, f9⟩ := fields_24_19_14_9 1 9 (by decide) (by decide) d s t rfl
  refine of_control (x := pack (1 * 2 ^ 25 + 9 * 2 ^ 0) [(d.toNat, 20), (s.toNat, 15), (t.toNat, 10)]) rfl rfl h31 h30 (by decide) ?_
  generalize pack (1 * 2 ^ 25 + 9 * 2 ^ 0) [(d.toNat, 20), (s.toNat, 15), (t.toNat, 10)] = wd at *
  have n0 : fld wd 8 0 ≠ 0 := fun e => absurd ((fld_of_fld 8 0 f9 (by decide) (by decide) (by decide)).symm.trans (fld_of_fld 8 0 e (by decide) (by decide) (by decide))) (by decide)
  have n1 : fld wd 8 0 ≠ 1 := fun e => absurd ((fld_of_fld 8 0 f9 (by decide) (by decide) (by decide)).symm.trans (fld_of_fld 8 0 e (by decide) (by decide) (by decide))) (by decide)
  have n2 : fld wd 8 0 ≠ 5 := fun e => absurd ((fld_of_fld 8 0 f9 (by decide) (by decide) (by decide)).symm.trans (fld_of_fld 8 0 e (by decide) (by decide) (by decide))) (by decide)
  have n3 : fld wd 8 0 ≠ 6 := fun e => absurd ((fld_of_fld 8 0 f9 (by decide) (by decide) (by decide)).symm.trans (fld_of_fld 8 0 e (by decide) (by decide) (by decide))) (by decide)
  have n4 : fld wd 8 0 ≠ 7 := fun e => absurd ((fld_of_fld 8 0 f9 (by decide) (by decide) (by decide)).symm.trans (fld_of_fld 8 0 e (by decide) (by decide) (by decide))) (by decide)
  have n5 : fld wd 8 0 ≠ 8 := fun e => absurd ((fld_of_fld 8 0 f9 (by decide) (by decide) (by decide)).symm.trans (fld_of_fld 8 0 e (by decide) (by decide) (by decide))) (by decide)
  simp only [rawControl, h30, decodeControl01, f24, f19, f14, f9, n0, n1, n2, n3, n4, n5, BitVec.ofNat_toNat, BitVec.setWidth_eq, and_self, and_true, if_true, false_and, and_false, reduceIte, Nat.reduceEqDiff, OfNat.ofNat_ne_zero, OfNat.zero_ne_ofNat, Nat.one_ne_zero, Nat.zero_ne_one, OfNat.one_ne_ofNat, OfNat.ofNat_ne_one]

theorem mulhu (d : BitVec 5) (s : BitVec 5) (t : BitVec 5) : Statement (.mulhu d s t) := by
  obtain ⟨h31, h30, f24, f19, f14, f9⟩ := fields_24_19_14_9 1 10 (by decide) (by decide) d s t rfl
  refine of_control (x := pack (1 * 2 ^ 25 + 10 * 2 ^ 0) [(d.toNat, 20), (s.toNat, 15), (t.toNat, 10)]) rfl rfl h31 h30 (by decide) ?_
  generalize pack (1 * 2 ^ 25 + 10 * 2 ^ 0) [(d.toNat, 20), (s.toNat, 15), (t.toNat, 10)] = wd at *
  have n0 : fld wd 8 0 ≠ 0 := fun e => absurd ((fld_of_fld 8 0 f9 (by decide) (by decide) (by decide)).symm.trans (fld_of_fld 8 0 e (by decide) (by decide) (by decide))) (by decide)
  have n1 : fld wd 8 0 ≠ 1 := fun e => absurd ((fld_of_fld 8 0 f9 (by decide) (by decide) (by decide)).symm.trans (fld_of_fld 8 0 e (by decide) (by decide) (by decide))) (by decide)
  have n2 : fld wd 8 0 ≠ 5 := fun e => absurd ((fld_of_fld 8 0 f9 (by decide) (by decide) (by decide)).symm.trans (fld_of_fld 8 0 e (by decide) (by decide) (by decide))) (by decide)
  have n3 : fld wd 8 0 ≠ 6 := fun e => absurd ((fld_of_fld 8 0 f9 (by decide) (by decide) (by decide)).symm.trans (fld_of_fld 8 0 e (by decide) (by decide) (by decide))) (by decide)
  have n4 : fld wd 8 0 ≠ 7 := fun e => absurd ((fld_of_fld 8 0 f9 (by decide) (by decide) (by decide)).symm.trans (fld_of_fld 8 0 e (by decide) (by decide) (by decide))) (by decide)
  have n5 : fld wd 8 0 ≠ 8 := fun e => absurd ((fld_of_fld 8 0 f9 (by decide) (by decide) (by decide)).symm.trans (fld_of_fld 8 0 e (by decide) (by decide) (by decide))) (by decide)
  simp only [rawControl, h30, decodeControl01, f24, f19, f14, f9, n0, n1, n2, n3, n4, n5, BitVec.ofNat_toNat, BitVec.setWidth_eq, and_self, and_true, if_true, false_and, and_false, reduceIte, Nat.reduceEqDiff, OfNat.ofNat_ne_zero, OfNat.zero_ne_ofNat, Nat.one_ne_zero, Nat.zero_ne_one, OfNat.one_ne_ofNat, OfNat.ofNat_ne_one]

theorem div (d : BitVec 5) (s : BitVec 5) (t : BitVec 5) (w : Bool) : Statement (.div d s t w) := by
  obtain ⟨h31, h30, f24, f19, f14, f9, f8⟩ := fields_24_19_14_9_8 1 11 (by decide) (by decide) d s t w rfl
  refine of_control (x := pack (1 * 2 ^ 25 + 11 * 2 ^ 0) [(d.toNat, 20), (s.toNat, 15), (t.toNat, 10), (ofBool w, 9)]) rfl rfl h31 h30 (by decide) ?_
  generalize pack (1 * 2 ^ 25 + 11 * 2 ^ 0) [(d.toNat, 20), (s.toNat, 15), (t.toNat, 10), (ofBool w, 9)] = wd at *
  have n0 : fld wd 9 0 ≠ 2 := fun e => absurd ((fld_of_fld 8 0 f8 (by decide) (by decide) (by decide)).symm.trans (fld_of_fld 8 0 e (by decide) (by decide) (by decide))) (by decide)
  have n1 : fld wd 9 0 ≠ 3 := fun e => absurd ((fld_of_fld 8 0 f8 (by decide) (by decide) (by decide)).symm.trans (fld_of_fld 8 0 e (by decide) (by decide) (by decide))) (by decide)
  have n2 : fld wd 9 0 ≠ 4 := fun e => absurd ((fld_of_fld 8 0 f8 (by decide) (by decide) (by decide)).symm.trans (fld_of_fld 8 0 e (by decide) (by decide) (by decide))) (by decide)
  have n3 : fld wd 9 0 ≠ 9 := fun e => absurd ((fld_of_fld 8 0 f8 (by decide) (by decide) (by decide)).symm.trans (fld_of_fld 8 0 e (by decide) (by decide) (by decide))) (by decide)
  have n4 : fld wd 9 0 ≠ 10 := fun e => absurd ((fld_of_fld 8 0 f8 (by decide) (by decide) (by decide)).symm.trans (fld_of_fld 8 0 e (by decide) (by decide) (by decide))) (by decide)
  simp only [rawControl, h30, decodeControl01, f24, f19, f14, f9, f8, n0, n1, n2, n3, n4, beq_ofBool, BitVec.ofNat_toNat, BitVec.setWidth_eq, and_self, and_true, if_true, false_and, and_false, reduceIte, Nat.reduceEqDiff, OfNat.ofNat_ne_zero, OfNat.zero_ne_ofNat, Nat.one_ne_zero, Nat.zero_ne_one, OfNat.one_ne_ofNat, OfNat.ofNat_ne_one]

theorem divu (d : BitVec 5) (s : BitVec 5) (t : BitVec 5) (w : Bool) : Statement (.divu d s t w) := by
  obtain ⟨h31, h30, f24, f19, f14, f9, f8⟩ := fields_24_19_14_9_8 1 12 (by decide) (by decide) d s t w rfl
  refine of_control (x := pack (1 * 2 ^ 25 + 12 * 2 ^ 0) [(d.toNat, 20), (s.toNat, 15), (t.toNat, 10), (ofBool w, 9)]) rfl rfl h31 h30 (by decide) ?_
  generalize pack (1 * 2 ^ 25 + 12 * 2 ^ 0) [(d.toNat, 20), (s.toNat, 15), (t.toNat, 10), (ofBool w, 9)] = wd at *
  have n0 : fld wd 9 0 ≠ 2 := fun e => absurd ((fld_of_fld 8 0 f8 (by decide) (by decide) (by decide)).symm.trans (fld_of_fld 8 0 e (by decide) (by decide) (by decide))) (by decide)
  have n1 : fld wd 9 0 ≠ 3 := fun e => absurd ((fld_of_fld 8 0 f8 (by decide) (by decide) (by decide)).symm.trans (fld_of_fld 8 0 e (by decide) (by decide) (by decide))) (by decide)
  have n2 : fld wd 9 0 ≠ 4 := fun e => absurd ((fld_of_fld 8 0 f8 (by decide) (by decide) (by decide)).symm.trans (fld_of_fld 8 0 e (by decide) (by decide) (by decide))) (by decide)
  have n3 : fld wd 9 0 ≠ 9 := fun e => absurd ((fld_of_fld 8 0 f8 (by decide) (by decide) (by decide)).symm.trans (fld_of_fld 8 0 e (by decide) (by decide) (by decide))) (by decide)
  have n4 : fld wd 9 0 ≠ 10 := fun e => absurd ((fld_of_fld 8 0 f8 (by decide) (by decide) (by decide)).symm.trans (fld_of_fld 8 0 e (by decide) (by decide) (by decide))) (by decide)
  simp only [rawControl, h30, decodeControl01, f24, f19, f14, f9, f8, n0, n1, n2, n3, n4, beq_ofBool, BitVec.ofNat_toNat, BitVec.setWidth_eq, and_self, and_true, if_true, false_and, and_false, reduceIte, Nat.reduceEqDiff, OfNat.ofNat_ne_zero, OfNat.zero_ne_ofNat, Nat.one_ne_zero, Nat.zero_ne_one, OfNat.one_ne_ofNat, OfNat.ofNat_ne_one]

theorem rem (d : BitVec 5) (s : BitVec 5) (t : BitVec 5) (w : Bool) : Statement (.rem d s t w) := by
  obtain ⟨h31, h30, f24, f19, f14, f9, f8⟩ := fields_24_19_14_9_8 1 13 (by decide) (by decide) d s t w rfl
  refine of_control (x := pack (1 * 2 ^ 25 + 13 * 2 ^ 0) [(d.toNat, 20), (s.toNat, 15), (t.toNat, 10), (ofBool w, 9)]) rfl rfl h31 h30 (by decide) ?_
  generalize pack (1 * 2 ^ 25 + 13 * 2 ^ 0) [(d.toNat, 20), (s.toNat, 15), (t.toNat, 10), (ofBool w, 9)] = wd at *
  have n0 : fld wd 9 0 ≠ 2 := fun e => absurd ((fld_of_fld 8 0 f8 (by decide) (by decide) (by decide)).symm.trans (fld_of_fld 8 0 e (by decide) (by decide) (by decide))) (by decide)
  have n1 : fld wd 9 0 ≠ 3 := fun e => absurd ((fld_of_fld 8 0 f8 (by decide) (by decide) (by decide)).symm.trans (fld_of_fld 8 0 e (by decide) (by decide) (by decide))) (by decide)
  have n2 : fld wd 9 0 ≠ 4 := fun e => absurd ((fld_of_fld 8 0 f8 (by decide) (by decide) (by decide)).symm.trans (fld_of_fld 8 0 e (by decide) (by decide) (by decide))) (by decide)
  have n3 : fld wd 9 0 ≠ 9 := fun e => absurd ((fld_of_fld 8 0 f8 (by decide) (by decide) (by decide)).symm.trans (fld_of_fld 8 0 e (by decide) (by decide) (by decide))) (by decide)
  have n4 : fld wd 9 0 ≠ 10 := fun e => absurd ((fld_of_fld 8 0 f8 (by decide) (by decide) (by decide)).symm.trans (fld_of_fld 8 0 e (by decide) (by decide) (by decide))) (by decide)
  simp only [rawControl, h30, decodeControl01, f24, f19, f14, f9, f8, n0, n1, n2, n3, n4, beq_ofBool, BitVec.ofNat_toNat, BitVec.setWidth_eq, and_self, and_true, if_true, false_and, and_false, reduceIte, Nat.reduceEqDiff, OfNat.ofNat_ne_zero, OfNat.zero_ne_ofNat, Nat.one_ne_zero, Nat.zero_ne_one, OfNat.one_ne_ofNat, OfNat.ofNat_ne_one]

theorem remu (d : BitVec 5) (s : BitVec 5) (t : BitVec 5) (w : Bool) : Statement (.remu d s t w) := by
  obtain ⟨h31, h30, f24, f19, f14, f9, f8⟩ := fields_24_19_14_9_8 1 14 (by decide) (by decide) d s t w rfl
  refine of_control (x := pack (1 * 2 ^ 25 + 14 * 2 ^ 0) [(d.toNat, 20), (s.toNat, 15), (t.toNat, 10), (ofBool w, 9)]) rfl rfl h31 h30 (by decide) ?_
  generalize pack (1 * 2 ^ 25 + 14 * 2 ^ 0) [(d.toNat, 20), (s.toNat, 15), (t.toNat, 10), (ofBool w, 9)] = wd at *
  have n0 : fld wd 9 0 ≠ 2 := fun e => absurd ((fld_of_fld 8 0 f8 (by decide) (by decide) (by decide)).symm.trans (fld_of_fld 8 0 e (by decide) (by decide) (by decide))) (by decide)
  have n1 : fld wd 9 0 ≠ 3 := fun e => absurd ((fld_of_fld 8 0 f8 (by decide) (by decide) (by decide)).symm.trans (fld_of_fld 8 0 e (by decide) (by decide) (by decide))) (by decide)
  have n2 : fld wd 9 0 ≠ 4 := fun e => absurd ((fld_of_fld 8 0 f8 (by decide) (by decide) (by decide)).symm.trans (fld_of_fld 8 0 e (by decide) (by decide) (by decide))) (by decide)
  have n3 : fld wd 9 0 ≠ 9 := fun e => absurd ((fld_of_fld 8 0 f8 (by decide) (by decide) (by decide)).symm.trans (fld_of_fld 8 0 e (by decide) (by decide) (by decide))) (by decide)
  have n4 : fld wd 9 0 ≠ 10 := fun e => absurd ((fld_of_fld 8 0 f8 (by decide) (by decide) (by decide)).symm.trans (fld_of_fld 8 0 e (by decide) (by decide) (by decide))) (by decide)
  simp only [rawControl, h30, decodeControl01, f24, f19, f14, f9, f8, n0, n1, n2, n3, n4, beq_ofBool, BitVec.ofNat_toNat, BitVec.setWidth_eq, and_self, and_true, if_true, false_and, and_false, reduceIte, Nat.reduceEqDiff, OfNat.ofNat_ne_zero, OfNat.zero_ne_ofNat, Nat.one_ne_zero, Nat.zero_ne_one, OfNat.one_ne_ofNat, OfNat.ofNat_ne_one]

theorem slt (d : BitVec 5) (s : BitVec 5) (t : BitVec 5) : Statement (.slt d s t) := by
  obtain ⟨h31, h30, f24, f19, f14, f9⟩ := fields_24_19_14_9 1 15 (by decide) (by decide) d s t rfl
  refine of_control (x := pack (1 * 2 ^ 25 + 15 * 2 ^ 0) [(d.toNat, 20), (s.toNat, 15), (t.toNat, 10)]) rfl rfl h31 h30 (by decide) ?_
  generalize pack (1 * 2 ^ 25 + 15 * 2 ^ 0) [(d.toNat, 20), (s.toNat, 15), (t.toNat, 10)] = wd at *
  have n0 : fld wd 8 0 ≠ 0 := fun e => absurd ((fld_of_fld 8 0 f9 (by decide) (by decide) (by decide)).symm.trans (fld_of_fld 8 0 e (by decide) (by decide) (by decide))) (by decide)
  have n1 : fld wd 8 0 ≠ 1 := fun e => absurd ((fld_of_fld 8 0 f9 (by decide) (by decide) (by decide)).symm.trans (fld_of_fld 8 0 e (by decide) (by decide) (by decide))) (by decide)
  have n2 : fld wd 8 0 ≠ 5 := fun e => absurd ((fld_of_fld 8 0 f9 (by decide) (by decide) (by decide)).symm.trans (fld_of_fld 8 0 e (by decide) (by decide) (by decide))) (by decide)
  have n3 : fld wd 8 0 ≠ 6 := fun e => absurd ((fld_of_fld 8 0 f9 (by decide) (by decide) (by decide)).symm.trans (fld_of_fld 8 0 e (by decide) (by decide) (by decide))) (by decide)
  have n4 : fld wd 8 0 ≠ 7 := fun e => absurd ((fld_of_fld 8 0 f9 (by decide) (by decide) (by decide)).symm.trans (fld_of_fld 8 0 e (by decide) (by decide) (by decide))) (by decide)
  have n5 : fld wd 8 0 ≠ 8 := fun e => absurd ((fld_of_fld 8 0 f9 (by decide) (by decide) (by decide)).symm.trans (fld_of_fld 8 0 e (by decide) (by decide) (by decide))) (by decide)
  have n6 : fld wd 8 0 ≠ 11 := fun e => absurd ((fld_of_fld 8 0 f9 (by decide) (by decide) (by decide)).symm.trans (fld_of_fld 8 0 e (by decide) (by decide) (by decide))) (by decide)
  have n7 : fld wd 8 0 ≠ 12 := fun e => absurd ((fld_of_fld 8 0 f9 (by decide) (by decide) (by decide)).symm.trans (fld_of_fld 8 0 e (by decide) (by decide) (by decide))) (by decide)
  have n8 : fld wd 8 0 ≠ 13 := fun e => absurd ((fld_of_fld 8 0 f9 (by decide) (by decide) (by decide)).symm.trans (fld_of_fld 8 0 e (by decide) (by decide) (by decide))) (by decide)
  have n9 : fld wd 8 0 ≠ 14 := fun e => absurd ((fld_of_fld 8 0 f9 (by decide) (by decide) (by decide)).symm.trans (fld_of_fld 8 0 e (by decide) (by decide) (by decide))) (by decide)
  simp only [rawControl, h30, decodeControl01, f24, f19, f14, f9, n0, n1, n2, n3, n4, n5, n6, n7, n8, n9, BitVec.ofNat_toNat, BitVec.setWidth_eq, and_self, and_true, if_true, false_and, and_false, reduceIte, Nat.reduceEqDiff, OfNat.ofNat_ne_zero, OfNat.zero_ne_ofNat, Nat.one_ne_zero, Nat.zero_ne_one, OfNat.one_ne_ofNat, OfNat.ofNat_ne_one]

theorem sltu (d : BitVec 5) (s : BitVec 5) (t : BitVec 5) : Statement (.sltu d s t) := by
  obtain ⟨h31, h30, f24, f19, f14, f9⟩ := fields_24_19_14_9 1 16 (by decide) (by decide) d s t rfl
  refine of_control (x := pack (1 * 2 ^ 25 + 16 * 2 ^ 0) [(d.toNat, 20), (s.toNat, 15), (t.toNat, 10)]) rfl rfl h31 h30 (by decide) ?_
  generalize pack (1 * 2 ^ 25 + 16 * 2 ^ 0) [(d.toNat, 20), (s.toNat, 15), (t.toNat, 10)] = wd at *
  have n0 : fld wd 8 0 ≠ 0 := fun e => absurd ((fld_of_fld 8 0 f9 (by decide) (by decide) (by decide)).symm.trans (fld_of_fld 8 0 e (by decide) (by decide) (by decide))) (by decide)
  have n1 : fld wd 8 0 ≠ 1 := fun e => absurd ((fld_of_fld 8 0 f9 (by decide) (by decide) (by decide)).symm.trans (fld_of_fld 8 0 e (by decide) (by decide) (by decide))) (by decide)
  have n2 : fld wd 8 0 ≠ 5 := fun e => absurd ((fld_of_fld 8 0 f9 (by decide) (by decide) (by decide)).symm.trans (fld_of_fld 8 0 e (by decide) (by decide) (by decide))) (by decide)
  have n3 : fld wd 8 0 ≠ 6 := fun e => absurd ((fld_of_fld 8 0 f9 (by decide) (by decide) (by decide)).symm.trans (fld_of_fld 8 0 e (by decide) (by decide) (by decide))) (by decide)
  have n4 : fld wd 8 0 ≠ 7 := fun e => absurd ((fld_of_fld 8 0 f9 (by decide) (by decide) (by decide)).symm.trans (fld_of_fld 8 0 e (by decide) (by decide) (by decide))) (by decide)
  have n5 : fld wd 8 0 ≠ 8 := fun e => absurd ((fld_of_fld 8 0 f9 (by decide) (by decide) (by decide)).symm.trans (fld_of_fld 8 0 e (by decide) (by decide) (by decide))) (by decide)
  have n6 : fld wd 8 0 ≠ 11 := fun e => absurd ((fld_of_fld 8 0 f9 (by decide) (by decide) (by decide)).symm.trans (fld_of_fld 8 0 e (by decide) (by decide) (by decide))) (by decide)
  have n7 : fld wd 8 0 ≠ 12 := fun e => absurd ((fld_of_fld 8 0 f9 (by decide) (by decide) (by decide)).symm.trans (fld_of_fld 8 0 e (by decide) (by decide) (by decide))) (by decide)
  have n8 : fld wd 8 0 ≠ 13 := fun e => absurd ((fld_of_fld 8 0 f9 (by decide) (by decide) (by decide)).symm.trans (fld_of_fld 8 0 e (by decide) (by decide) (by decide))) (by decide)
  have n9 : fld wd 8 0 ≠ 14 := fun e => absurd ((fld_of_fld 8 0 f9 (by decide) (by decide) (by decide)).symm.trans (fld_of_fld 8 0 e (by decide) (by decide) (by decide))) (by decide)
  simp only [rawControl, h30, decodeControl01, f24, f19, f14, f9, n0, n1, n2, n3, n4, n5, n6, n7, n8, n9, BitVec.ofNat_toNat, BitVec.setWidth_eq, and_self, and_true, if_true, false_and, and_false, reduceIte, Nat.reduceEqDiff, OfNat.ofNat_ne_zero, OfNat.zero_ne_ofNat, Nat.one_ne_zero, Nat.zero_ne_one, OfNat.one_ne_ofNat, OfNat.ofNat_ne_one]

theorem min (d : BitVec 5) (s : BitVec 5) (t : BitVec 5) : Statement (.min d s t) := by
  obtain ⟨h31, h30, f24, f19, f14, f9⟩ := fields_24_19_14_9 1 17 (by decide) (by decide) d s t rfl
  refine of_control (x := pack (1 * 2 ^ 25 + 17 * 2 ^ 0) [(d.toNat, 20), (s.toNat, 15), (t.toNat, 10)]) rfl rfl h31 h30 (by decide) ?_
  generalize pack (1 * 2 ^ 25 + 17 * 2 ^ 0) [(d.toNat, 20), (s.toNat, 15), (t.toNat, 10)] = wd at *
  have n0 : fld wd 8 0 ≠ 0 := fun e => absurd ((fld_of_fld 8 0 f9 (by decide) (by decide) (by decide)).symm.trans (fld_of_fld 8 0 e (by decide) (by decide) (by decide))) (by decide)
  have n1 : fld wd 8 0 ≠ 1 := fun e => absurd ((fld_of_fld 8 0 f9 (by decide) (by decide) (by decide)).symm.trans (fld_of_fld 8 0 e (by decide) (by decide) (by decide))) (by decide)
  have n2 : fld wd 8 0 ≠ 5 := fun e => absurd ((fld_of_fld 8 0 f9 (by decide) (by decide) (by decide)).symm.trans (fld_of_fld 8 0 e (by decide) (by decide) (by decide))) (by decide)
  have n3 : fld wd 8 0 ≠ 6 := fun e => absurd ((fld_of_fld 8 0 f9 (by decide) (by decide) (by decide)).symm.trans (fld_of_fld 8 0 e (by decide) (by decide) (by decide))) (by decide)
  have n4 : fld wd 8 0 ≠ 7 := fun e => absurd ((fld_of_fld 8 0 f9 (by decide) (by decide) (by decide)).symm.trans (fld_of_fld 8 0 e (by decide) (by decide) (by decide))) (by decide)
  have n5 : fld wd 8 0 ≠ 8 := fun e => absurd ((fld_of_fld 8 0 f9 (by decide) (by decide) (by decide)).symm.trans (fld_of_fld 8 0 e (by decide) (by decide) (by decide))) (by decide)
  have n6 : fld wd 8 0 ≠ 11 := fun e => absurd ((fld_of_fld 8 0 f9 (by decide) (by decide) (by decide)).symm.trans (fld_of_fld 8 0 e (by decide) (by decide) (by decide))) (by decide)
  have n7 : fld wd 8 0 ≠ 12 := fun e => absurd ((fld_of_fld 8 0 f9 (by decide) (by decide) (by decide)).symm.trans (fld_of_fld 8 0 e (by decide) (by decide) (by decide))) (by decide)
  have n8 : fld wd 8 0 ≠ 13 := fun e => absurd ((fld_of_fld 8 0 f9 (by decide) (by decide) (by decide)).symm.trans (fld_of_fld 8 0 e (by decide) (by decide) (by decide))) (by decide)
  have n9 : fld wd 8 0 ≠ 14 := fun e => absurd ((fld_of_fld 8 0 f9 (by decide) (by decide) (by decide)).symm.trans (fld_of_fld 8 0 e (by decide) (by decide) (by decide))) (by decide)
  simp only [rawControl, h30, decodeControl01, f24, f19, f14, f9, n0, n1, n2, n3, n4, n5, n6, n7, n8, n9, BitVec.ofNat_toNat, BitVec.setWidth_eq, and_self, and_true, if_true, false_and, and_false, reduceIte, Nat.reduceEqDiff, OfNat.ofNat_ne_zero, OfNat.zero_ne_ofNat, Nat.one_ne_zero, Nat.zero_ne_one, OfNat.one_ne_ofNat, OfNat.ofNat_ne_one]

theorem max (d : BitVec 5) (s : BitVec 5) (t : BitVec 5) : Statement (.max d s t) := by
  obtain ⟨h31, h30, f24, f19, f14, f9⟩ := fields_24_19_14_9 1 18 (by decide) (by decide) d s t rfl
  refine of_control (x := pack (1 * 2 ^ 25 + 18 * 2 ^ 0) [(d.toNat, 20), (s.toNat, 15), (t.toNat, 10)]) rfl rfl h31 h30 (by decide) ?_
  generalize pack (1 * 2 ^ 25 + 18 * 2 ^ 0) [(d.toNat, 20), (s.toNat, 15), (t.toNat, 10)] = wd at *
  have n0 : fld wd 8 0 ≠ 0 := fun e => absurd ((fld_of_fld 8 0 f9 (by decide) (by decide) (by decide)).symm.trans (fld_of_fld 8 0 e (by decide) (by decide) (by decide))) (by decide)
  have n1 : fld wd 8 0 ≠ 1 := fun e => absurd ((fld_of_fld 8 0 f9 (by decide) (by decide) (by decide)).symm.trans (fld_of_fld 8 0 e (by decide) (by decide) (by decide))) (by decide)
  have n2 : fld wd 8 0 ≠ 5 := fun e => absurd ((fld_of_fld 8 0 f9 (by decide) (by decide) (by decide)).symm.trans (fld_of_fld 8 0 e (by decide) (by decide) (by decide))) (by decide)
  have n3 : fld wd 8 0 ≠ 6 := fun e => absurd ((fld_of_fld 8 0 f9 (by decide) (by decide) (by decide)).symm.trans (fld_of_fld 8 0 e (by decide) (by decide) (by decide))) (by decide)
  have n4 : fld wd 8 0 ≠ 7 := fun e => absurd ((fld_of_fld 8 0 f9 (by decide) (by decide) (by decide)).symm.trans (fld_of_fld 8 0 e (by decide) (by decide) (by decide))) (by decide)
  have n5 : fld wd 8 0 ≠ 8 := fun e => absurd ((fld_of_fld 8 0 f9 (by decide) (by decide) (by decide)).symm.trans (fld_of_fld 8 0 e (by decide) (by decide) (by decide))) (by decide)
  have n6 : fld wd 8 0 ≠ 11 := fun e => absurd ((fld_of_fld 8 0 f9 (by decide) (by decide) (by decide)).symm.trans (fld_of_fld 8 0 e (by decide) (by decide) (by decide))) (by decide)
  have n7 : fld wd 8 0 ≠ 12 := fun e => absurd ((fld_of_fld 8 0 f9 (by decide) (by decide) (by decide)).symm.trans (fld_of_fld 8 0 e (by decide) (by decide) (by decide))) (by decide)
  have n8 : fld wd 8 0 ≠ 13 := fun e => absurd ((fld_of_fld 8 0 f9 (by decide) (by decide) (by decide)).symm.trans (fld_of_fld 8 0 e (by decide) (by decide) (by decide))) (by decide)
  have n9 : fld wd 8 0 ≠ 14 := fun e => absurd ((fld_of_fld 8 0 f9 (by decide) (by decide) (by decide)).symm.trans (fld_of_fld 8 0 e (by decide) (by decide) (by decide))) (by decide)
  simp only [rawControl, h30, decodeControl01, f24, f19, f14, f9, n0, n1, n2, n3, n4, n5, n6, n7, n8, n9, BitVec.ofNat_toNat, BitVec.setWidth_eq, and_self, and_true, if_true, false_and, and_false, reduceIte, Nat.reduceEqDiff, OfNat.ofNat_ne_zero, OfNat.zero_ne_ofNat, Nat.one_ne_zero, Nat.zero_ne_one, OfNat.one_ne_ofNat, OfNat.ofNat_ne_one]

theorem minu (d : BitVec 5) (s : BitVec 5) (t : BitVec 5) : Statement (.minu d s t) := by
  obtain ⟨h31, h30, f24, f19, f14, f9⟩ := fields_24_19_14_9 1 19 (by decide) (by decide) d s t rfl
  refine of_control (x := pack (1 * 2 ^ 25 + 19 * 2 ^ 0) [(d.toNat, 20), (s.toNat, 15), (t.toNat, 10)]) rfl rfl h31 h30 (by decide) ?_
  generalize pack (1 * 2 ^ 25 + 19 * 2 ^ 0) [(d.toNat, 20), (s.toNat, 15), (t.toNat, 10)] = wd at *
  have n0 : fld wd 8 0 ≠ 0 := fun e => absurd ((fld_of_fld 8 0 f9 (by decide) (by decide) (by decide)).symm.trans (fld_of_fld 8 0 e (by decide) (by decide) (by decide))) (by decide)
  have n1 : fld wd 8 0 ≠ 1 := fun e => absurd ((fld_of_fld 8 0 f9 (by decide) (by decide) (by decide)).symm.trans (fld_of_fld 8 0 e (by decide) (by decide) (by decide))) (by decide)
  have n2 : fld wd 8 0 ≠ 5 := fun e => absurd ((fld_of_fld 8 0 f9 (by decide) (by decide) (by decide)).symm.trans (fld_of_fld 8 0 e (by decide) (by decide) (by decide))) (by decide)
  have n3 : fld wd 8 0 ≠ 6 := fun e => absurd ((fld_of_fld 8 0 f9 (by decide) (by decide) (by decide)).symm.trans (fld_of_fld 8 0 e (by decide) (by decide) (by decide))) (by decide)
  have n4 : fld wd 8 0 ≠ 7 := fun e => absurd ((fld_of_fld 8 0 f9 (by decide) (by decide) (by decide)).symm.trans (fld_of_fld 8 0 e (by decide) (by decide) (by decide))) (by decide)
  have n5 : fld wd 8 0 ≠ 8 := fun e => absurd ((fld_of_fld 8 0 f9 (by decide) (by decide) (by decide)).symm.trans (fld_of_fld 8 0 e (by decide) (by decide) (by decide))) (by decide)
  have n6 : fld wd 8 0 ≠ 11 := fun e => absurd ((fld_of_fld 8 0 f9 (by decide) (by decide) (by decide)).symm.trans (fld_of_fld 8 0 e (by decide) (by decide) (by decide))) (by decide)
  have n7 : fld wd 8 0 ≠ 12 := fun e => absurd ((fld_of_fld 8 0 f9 (by decide) (by decide) (by decide)).symm.trans (fld_of_fld 8 0 e (by decide) (by decide) (by decide))) (by decide)
  have n8 : fld wd 8 0 ≠ 13 := fun e => absurd ((fld_of_fld 8 0 f9 (by decide) (by decide) (by decide)).symm.trans (fld_of_fld 8 0 e (by decide) (by decide) (by decide))) (by decide)
  have n9 : fld wd 8 0 ≠ 14 := fun e => absurd ((fld_of_fld 8 0 f9 (by decide) (by decide) (by decide)).symm.trans (fld_of_fld 8 0 e (by decide) (by decide) (by decide))) (by decide)
  simp only [rawControl, h30, decodeControl01, f24, f19, f14, f9, n0, n1, n2, n3, n4, n5, n6, n7, n8, n9, BitVec.ofNat_toNat, BitVec.setWidth_eq, and_self, and_true, if_true, false_and, and_false, reduceIte, Nat.reduceEqDiff, OfNat.ofNat_ne_zero, OfNat.zero_ne_ofNat, Nat.one_ne_zero, Nat.zero_ne_one, OfNat.one_ne_ofNat, OfNat.ofNat_ne_one]

theorem maxu (d : BitVec 5) (s : BitVec 5) (t : BitVec 5) : Statement (.maxu d s t) := by
  obtain ⟨h31, h30, f24, f19, f14, f9⟩ := fields_24_19_14_9 1 20 (by decide) (by decide) d s t rfl
  refine of_control (x := pack (1 * 2 ^ 25 + 20 * 2 ^ 0) [(d.toNat, 20), (s.toNat, 15), (t.toNat, 10)]) rfl rfl h31 h30 (by decide) ?_
  generalize pack (1 * 2 ^ 25 + 20 * 2 ^ 0) [(d.toNat, 20), (s.toNat, 15), (t.toNat, 10)] = wd at *
  have n0 : fld wd 8 0 ≠ 0 := fun e => absurd ((fld_of_fld 8 0 f9 (by decide) (by decide) (by decide)).symm.trans (fld_of_fld 8 0 e (by decide) (by decide) (by decide))) (by decide)
  have n1 : fld wd 8 0 ≠ 1 := fun e => absurd ((fld_of_fld 8 0 f9 (by decide) (by decide) (by decide)).symm.trans (fld_of_fld 8 0 e (by decide) (by decide) (by decide))) (by decide)
  have n2 : fld wd 8 0 ≠ 5 := fun e => absurd ((fld_of_fld 8 0 f9 (by decide) (by decide) (by decide)).symm.trans (fld_of_fld 8 0 e (by decide) (by decide) (by decide))) (by decide)
  have n3 : fld wd 8 0 ≠ 6 := fun e => absurd ((fld_of_fld 8 0 f9 (by decide) (by decide) (by decide)).symm.trans (fld_of_fld 8 0 e (by decide) (by decide) (by decide))) (by decide)
  have n4 : fld wd 8 0 ≠ 7 := fun e => absurd ((fld_of_fld 8 0 f9 (by decide) (by decide) (by decide)).symm.trans (fld_of_fld 8 0 e (by decide) (by decide) (by decide))) (by decide)
  have n5 : fld wd 8 0 ≠ 8 := fun e => absurd ((fld_of_fld 8 0 f9 (by decide) (by decide) (by decide)).symm.trans (fld_of_fld 8 0 e (by decide) (by decide) (by decide))) (by decide)
  have n6 : fld wd 8 0 ≠ 11 := fun e => absurd ((fld_of_fld 8 0 f9 (by decide) (by decide) (by decide)).symm.trans (fld_of_fld 8 0 e (by decide) (by decide) (by decide))) (by decide)
  have n7 : fld wd 8 0 ≠ 12 := fun e => absurd ((fld_of_fld 8 0 f9 (by decide) (by decide) (by decide)).symm.trans (fld_of_fld 8 0 e (by decide) (by decide) (by decide))) (by decide)
  have n8 : fld wd 8 0 ≠ 13 := fun e => absurd ((fld_of_fld 8 0 f9 (by decide) (by decide) (by decide)).symm.trans (fld_of_fld 8 0 e (by decide) (by decide) (by decide))) (by decide)
  have n9 : fld wd 8 0 ≠ 14 := fun e => absurd ((fld_of_fld 8 0 f9 (by decide) (by decide) (by decide)).symm.trans (fld_of_fld 8 0 e (by decide) (by decide) (by decide))) (by decide)
  simp only [rawControl, h30, decodeControl01, f24, f19, f14, f9, n0, n1, n2, n3, n4, n5, n6, n7, n8, n9, BitVec.ofNat_toNat, BitVec.setWidth_eq, and_self, and_true, if_true, false_and, and_false, reduceIte, Nat.reduceEqDiff, OfNat.ofNat_ne_zero, OfNat.zero_ne_ofNat, Nat.one_ne_zero, Nat.zero_ne_one, OfNat.one_ne_ofNat, OfNat.ofNat_ne_one]

theorem addi (d : BitVec 5) (s : BitVec 5) (i : Imm 15) : Statement (.addi d s i) := by
  obtain ⟨bs, ext⟩ := i
  obtain ⟨h31, h30, f24, f19, f14⟩ := fields_24_19_14_i 2  (by decide) d s bs rfl
  refine of_imm (fun e => .addi d s ⟨bs, e⟩) (x := pack (2 * 2 ^ 25) [(d.toNat, 20), (s.toNat, 15), (bs.toNat, 0)]) (fun _ => rfl) (fun _ => rfl) h31 h30 (by decide) (fun y e hy => ?_) ext
  rw [← hy _ _ (by decide) (by decide)] at h30 f24 f19 f14
  simp only [rawControl, h30, decodeControl02, f24, f19, f14, BitVec.ofNat_toNat, BitVec.setWidth_eq]

theorem andi (d : BitVec 5) (s : BitVec 5) (i : Imm 15) : Statement (.andi d s i) := by
  obtain ⟨bs, ext⟩ := i
  obtain ⟨h31, h30, f24, f19, f14⟩ := fields_24_19_14_i 3  (by decide) d s bs rfl
  refine of_imm (fun e => .andi d s ⟨bs, e⟩) (x := pack (3 * 2 ^ 25) [(d.toNat, 20), (s.toNat, 15), (bs.toNat, 0)]) (fun _ => rfl) (fun _ => rfl) h31 h30 (by decide) (fun y e hy => ?_) ext
  rw [← hy _ _ (by decide) (by decide)] at h30 f24 f19 f14
  simp only [rawControl, h30, decodeControl03, f24, f19, f14, BitVec.ofNat_toNat, BitVec.setWidth_eq]

theorem ori (d : BitVec 5) (s : BitVec 5) (i : Imm 15) : Statement (.ori d s i) := by
  obtain ⟨bs, ext⟩ := i
  obtain ⟨h31, h30, f24, f19, f14⟩ := fields_24_19_14_i 4  (by decide) d s bs rfl
  refine of_imm (fun e => .ori d s ⟨bs, e⟩) (x := pack (4 * 2 ^ 25) [(d.toNat, 20), (s.toNat, 15), (bs.toNat, 0)]) (fun _ => rfl) (fun _ => rfl) h31 h30 (by decide) (fun y e hy => ?_) ext
  rw [← hy _ _ (by decide) (by decide)] at h30 f24 f19 f14
  simp only [rawControl, h30, decodeControl04, f24, f19, f14, BitVec.ofNat_toNat, BitVec.setWidth_eq]

theorem xori (d : BitVec 5) (s : BitVec 5) (i : Imm 15) : Statement (.xori d s i) := by
  obtain ⟨bs, ext⟩ := i
  obtain ⟨h31, h30, f24, f19, f14⟩ := fields_24_19_14_i 5  (by decide) d s bs rfl
  refine of_imm (fun e => .xori d s ⟨bs, e⟩) (x := pack (5 * 2 ^ 25) [(d.toNat, 20), (s.toNat, 15), (bs.toNat, 0)]) (fun _ => rfl) (fun _ => rfl) h31 h30 (by decide) (fun y e hy => ?_) ext
  rw [← hy _ _ (by decide) (by decide)] at h30 f24 f19 f14
  simp only [rawControl, h30, decodeControl05, f24, f19, f14, BitVec.ofNat_toNat, BitVec.setWidth_eq]

theorem slti (d : BitVec 5) (s : BitVec 5) (i : Imm 15) : Statement (.slti d s i) := by
  obtain ⟨bs, ext⟩ := i
  obtain ⟨h31, h30, f24, f19, f14⟩ := fields_24_19_14_i 6  (by decide) d s bs rfl
  refine of_imm (fun e => .slti d s ⟨bs, e⟩) (x := pack (6 * 2 ^ 25) [(d.toNat, 20), (s.toNat, 15), (bs.toNat, 0)]) (fun _ => rfl) (fun _ => rfl) h31 h30 (by decide) (fun y e hy => ?_) ext
  rw [← hy _ _ (by decide) (by decide)] at h30 f24 f19 f14
  simp only [rawControl, h30, decodeControl06, f24, f19, f14, BitVec.ofNat_toNat, BitVec.setWidth_eq]

theorem sltiu (d : BitVec 5) (s : BitVec 5) (i : Imm 15) : Statement (.sltiu d s i) := by
  obtain ⟨bs, ext⟩ := i
  obtain ⟨h31, h30, f24, f19, f14⟩ := fields_24_19_14_i 7  (by decide) d s bs rfl
  refine of_imm (fun e => .sltiu d s ⟨bs, e⟩) (x := pack (7 * 2 ^ 25) [(d.toNat, 20), (s.toNat, 15), (bs.toNat, 0)]) (fun _ => rfl) (fun _ => rfl) h31 h30 (by decide) (fun y e hy => ?_) ext
  rw [← hy _ _ (by decide) (by decide)] at h30 f24 f19 f14
  simp only [rawControl, h30, decodeControl07, f24, f19, f14, BitVec.ofNat_toNat, BitVec.setWidth_eq]

theorem shli (d : BitVec 5) (s : BitVec 5) (w : Bool) (h : BitVec 6) : Statement (.shli d s w h) := by
  obtain ⟨h31, h30, f24, f19, f14, f12, f11, f5⟩ := fields_24_19_14_12_11_5 8 0 0 (by decide) (by decide) (by decide) d s w h rfl
  refine of_control (x := pack (8 * 2 ^ 25 + 0 * 2 ^ 13 + 0 * 2 ^ 6) [(d.toNat, 20), (s.toNat, 15), (ofBool w, 12), (h.toNat, 0)]) rfl rfl h31 h30 (by decide) ?_
  generalize pack (8 * 2 ^ 25 + 0 * 2 ^ 13 + 0 * 2 ^ 6) [(d.toNat, 20), (s.toNat, 15), (ofBool w, 12), (h.toNat, 0)] = wd at *
  simp only [rawControl, h30, decodeControl08, f24, f19, f14, f12, f11, f5, beq_ofBool, BitVec.ofNat_toNat, BitVec.setWidth_eq, and_self, and_true, if_true]

theorem shri (d : BitVec 5) (s : BitVec 5) (w : Bool) (h : BitVec 6) : Statement (.shri d s w h) := by
  obtain ⟨h31, h30, f24, f19, f14, f12, f11, f5⟩ := fields_24_19_14_12_11_5 8 1 0 (by decide) (by decide) (by decide) d s w h rfl
  refine of_control (x := pack (8 * 2 ^ 25 + 1 * 2 ^ 13 + 0 * 2 ^ 6) [(d.toNat, 20), (s.toNat, 15), (ofBool w, 12), (h.toNat, 0)]) rfl rfl h31 h30 (by decide) ?_
  generalize pack (8 * 2 ^ 25 + 1 * 2 ^ 13 + 0 * 2 ^ 6) [(d.toNat, 20), (s.toNat, 15), (ofBool w, 12), (h.toNat, 0)] = wd at *
  simp only [rawControl, h30, decodeControl08, f24, f19, f14, f12, f11, f5, beq_ofBool, BitVec.ofNat_toNat, BitVec.setWidth_eq, and_self, and_true, if_true, false_and, and_false, reduceIte, Nat.reduceEqDiff, OfNat.ofNat_ne_zero, OfNat.zero_ne_ofNat, Nat.one_ne_zero, Nat.zero_ne_one, OfNat.one_ne_ofNat, OfNat.ofNat_ne_one]

theorem sari (d : BitVec 5) (s : BitVec 5) (w : Bool) (h : BitVec 6) : Statement (.sari d s w h) := by
  obtain ⟨h31, h30, f24, f19, f14, f12, f11, f5⟩ := fields_24_19_14_12_11_5 8 2 0 (by decide) (by decide) (by decide) d s w h rfl
  refine of_control (x := pack (8 * 2 ^ 25 + 2 * 2 ^ 13 + 0 * 2 ^ 6) [(d.toNat, 20), (s.toNat, 15), (ofBool w, 12), (h.toNat, 0)]) rfl rfl h31 h30 (by decide) ?_
  generalize pack (8 * 2 ^ 25 + 2 * 2 ^ 13 + 0 * 2 ^ 6) [(d.toNat, 20), (s.toNat, 15), (ofBool w, 12), (h.toNat, 0)] = wd at *
  simp only [rawControl, h30, decodeControl08, f24, f19, f14, f12, f11, f5, beq_ofBool, BitVec.ofNat_toNat, BitVec.setWidth_eq, and_self, and_true, if_true, false_and, and_false, reduceIte, Nat.reduceEqDiff, OfNat.ofNat_ne_zero, OfNat.zero_ne_ofNat, Nat.one_ne_zero, Nat.zero_ne_one, OfNat.one_ne_ofNat, OfNat.ofNat_ne_one]

theorem beq (s : BitVec 5) (t : BitVec 5) (i : BitVec 15) : Statement (.beq s t i) := by
  obtain ⟨h31, h30, f24, f19, f14⟩ := fields_24_19_14 10  (by decide) s t i rfl
  refine of_control (x := pack (10 * 2 ^ 25) [(s.toNat, 20), (t.toNat, 15), (i.toNat, 0)]) rfl rfl h31 h30 (by decide) ?_
  generalize pack (10 * 2 ^ 25) [(s.toNat, 20), (t.toNat, 15), (i.toNat, 0)] = wd at *
  simp only [rawControl, h30, decodeControl0A, f24, f19, f14, BitVec.ofNat_toNat, BitVec.setWidth_eq]

theorem bne (s : BitVec 5) (t : BitVec 5) (i : BitVec 15) : Statement (.bne s t i) := by
  obtain ⟨h31, h30, f24, f19, f14⟩ := fields_24_19_14 11  (by decide) s t i rfl
  refine of_control (x := pack (11 * 2 ^ 25) [(s.toNat, 20), (t.toNat, 15), (i.toNat, 0)]) rfl rfl h31 h30 (by decide) ?_
  generalize pack (11 * 2 ^ 25) [(s.toNat, 20), (t.toNat, 15), (i.toNat, 0)] = wd at *
  simp only [rawControl, h30, decodeControl0B, f24, f19, f14, BitVec.ofNat_toNat, BitVec.setWidth_eq]

theorem blt (s : BitVec 5) (t : BitVec 5) (i : BitVec 15) : Statement (.blt s t i) := by
  obtain ⟨h31, h30, f24, f19, f14⟩ := fields_24_19_14 12  (by decide) s t i rfl
  refine of_control (x := pack (12 * 2 ^ 25) [(s.toNat, 20), (t.toNat, 15), (i.toNat, 0)]) rfl rfl h31 h30 (by decide) ?_
  generalize pack (12 * 2 ^ 25) [(s.toNat, 20), (t.toNat, 15), (i.toNat, 0)] = wd at *
  simp only [rawControl, h30, decodeControl0C, f24, f19, f14, BitVec.ofNat_toNat, BitVec.setWidth_eq]

theorem bge (s : BitVec 5) (t : BitVec 5) (i : BitVec 15) : Statement (.bge s t i) := by
  obtain ⟨h31, h30, f24, f19, f14⟩ := fields_24_19_14 13  (by decide) s t i rfl
  refine of_control (x := pack (13 * 2 ^ 25) [(s.toNat, 20), (t.toNat, 15), (i.toNat, 0)]) rfl rfl h31 h30 (by decide) ?_
  generalize pack (13 * 2 ^ 25) [(s.toNat, 20), (t.toNat, 15), (i.toNat, 0)] = wd at *
  simp only [rawControl, h30, decodeControl0D, f24, f19, f14, BitVec.ofNat_toNat, BitVec.setWidth_eq]

theorem bltu (s : BitVec 5) (t : BitVec 5) (i : BitVec 15) : Statement (.bltu s t i) := by
  obtain ⟨h31, h30, f24, f19, f14⟩ := fields_24_19_14 14  (by decide) s t i rfl
  refine of_control (x := pack (14 * 2 ^ 25) [(s.toNat, 20), (t.toNat, 15), (i.toNat, 0)]) rfl rfl h31 h30 (by decide) ?_
  generalize pack (14 * 2 ^ 25) [(s.toNat, 20), (t.toNat, 15), (i.toNat, 0)] = wd at *
  simp only [rawControl, h30, decodeControl0E, f24, f19, f14, BitVec.ofNat_toNat, BitVec.setWidth_eq]

theorem bgeu (s : BitVec 5) (t : BitVec 5) (i : BitVec 15) : Statement (.bgeu s t i) := by
  obtain ⟨h31, h30, f24, f19, f14⟩ := fields_24_19_14 15  (by decide) s t i rfl
  refine of_control (x := pack (15 * 2 ^ 25) [(s.toNat, 20), (t.toNat, 15), (i.toNat, 0)]) rfl rfl h31 h30 (by decide) ?_
  generalize pack (15 * 2 ^ 25) [(s.toNat, 20), (t.toNat, 15), (i.toNat, 0)] = wd at *
  simp only [rawControl, h30, decodeControl0F, f24, f19, f14, BitVec.ofNat_toNat, BitVec.setWidth_eq]

theorem jal (d : BitVec 5) (i : BitVec 20) : Statement (.jal d i) := by
  obtain ⟨h31, h30, f24, f19⟩ := fields_24_19 16  (by decide) d i rfl
  refine of_control (x := pack (16 * 2 ^ 25) [(d.toNat, 20), (i.toNat, 0)]) rfl rfl h31 h30 (by decide) ?_
  generalize pack (16 * 2 ^ 25) [(d.toNat, 20), (i.toNat, 0)] = wd at *
  simp only [rawControl, h30, decodeControl10, f24, f19, BitVec.ofNat_toNat, BitVec.setWidth_eq]

theorem jalr (d : BitVec 5) (s : BitVec 5) (i : Imm 15) : Statement (.jalr d s i) := by
  obtain ⟨bs, ext⟩ := i
  obtain ⟨h31, h30, f24, f19, f14⟩ := fields_24_19_14_i 17  (by decide) d s bs rfl
  refine of_imm (fun e => .jalr d s ⟨bs, e⟩) (x := pack (17 * 2 ^ 25) [(d.toNat, 20), (s.toNat, 15), (bs.toNat, 0)]) (fun _ => rfl) (fun _ => rfl) h31 h30 (by decide) (fun y e hy => ?_) ext
  rw [← hy _ _ (by decide) (by decide)] at h30 f24 f19 f14
  simp only [rawControl, h30, decodeControl11, f24, f19, f14, BitVec.ofNat_toNat, BitVec.setWidth_eq]

theorem ld (g : BitVec 5) (s : BitVec 5) (w : BitVec 2) (i : Imm 12) : Statement (.ld g s w i) := by
  obtain ⟨bs, ext⟩ := i
  obtain ⟨h31, h30, f24, f19, f14, f12, f11⟩ := fields_24_19_14_12_11_i 18 0 (by decide) (by decide) g s w bs rfl
  refine of_imm (fun e => .ld g s w ⟨bs, e⟩) (x := pack (18 * 2 ^ 25 + 0 * 2 ^ 12) [(g.toNat, 20), (s.toNat, 15), (w.toNat, 13), (bs.toNat, 0)]) (fun _ => rfl) (fun _ => rfl) h31 h30 (by decide) (fun y e hy => ?_) ext
  rw [← hy _ _ (by decide) (by decide)] at h30 f24 f19 f14 f12 f11
  simp only [rawControl, h30, decodeControl12, f24, f19, f14, f12, f11, BitVec.ofNat_toNat, BitVec.setWidth_eq, and_self, and_true, if_true]

theorem lds (g : BitVec 5) (s : BitVec 5) (w : BitVec 2) (i : Imm 12) : Statement (.lds g s w i) := by
  obtain ⟨bs, ext⟩ := i
  obtain ⟨h31, h30, f24, f19, f14, f12, f11⟩ := fields_24_19_14_12_11_i 18 1 (by decide) (by decide) g s w bs rfl
  refine of_imm (fun e => .lds g s w ⟨bs, e⟩) (x := pack (18 * 2 ^ 25 + 1 * 2 ^ 12) [(g.toNat, 20), (s.toNat, 15), (w.toNat, 13), (bs.toNat, 0)]) (fun _ => rfl) (fun _ => rfl) h31 h30 (by decide) (fun y e hy => ?_) ext
  rw [← hy _ _ (by decide) (by decide)] at h30 f24 f19 f14 f12 f11
  simp only [rawControl, h30, decodeControl12, f24, f19, f14, f12, f11, BitVec.ofNat_toNat, BitVec.setWidth_eq, and_self, and_true, if_true, false_and, and_false, reduceIte, Nat.reduceEqDiff, OfNat.ofNat_ne_zero, OfNat.zero_ne_ofNat, Nat.one_ne_zero, Nat.zero_ne_one, OfNat.one_ne_ofNat, OfNat.ofNat_ne_one]

theorem st (g : BitVec 5) (s : BitVec 5) (w : BitVec 2) (i : Imm 12) : Statement (.st g s w i) := by
  obtain ⟨bs, ext⟩ := i
  obtain ⟨h31, h30, f24, f19, f14, f12, f11⟩ := fields_24_19_14_12_11_i 19 0 (by decide) (by decide) g s w bs rfl
  refine of_imm (fun e => .st g s w ⟨bs, e⟩) (x := pack (19 * 2 ^ 25 + 0 * 2 ^ 12) [(g.toNat, 20), (s.toNat, 15), (w.toNat, 13), (bs.toNat, 0)]) (fun _ => rfl) (fun _ => rfl) h31 h30 (by decide) (fun y e hy => ?_) ext
  rw [← hy _ _ (by decide) (by decide)] at h30 f24 f19 f14 f12 f11
  simp only [rawControl, h30, decodeControl13, f24, f19, f14, f12, f11, BitVec.ofNat_toNat, BitVec.setWidth_eq, and_self, and_true, if_true]

theorem amoAdd (d : BitVec 5) (s : BitVec 5) (t : BitVec 5) (r : BitVec 2) (x : Bool) : Statement (.amoAdd d s t r x) := by
  obtain ⟨h31, h30, f24, f19, f14, f9, f5, f3, f2⟩ := fields_24_19_14_9_5_3_2 20 0 0 (by decide) (by decide) (by decide) d s t r x rfl
  refine of_control (x := pack (20 * 2 ^ 25 + 0 * 2 ^ 6 + 0 * 2 ^ 0) [(d.toNat, 20), (s.toNat, 15), (t.toNat, 10), (r.toNat, 4), (ofBool x, 3)]) rfl rfl h31 h30 (by decide) ?_
  generalize pack (20 * 2 ^ 25 + 0 * 2 ^ 6 + 0 * 2 ^ 0) [(d.toNat, 20), (s.toNat, 15), (t.toNat, 10), (r.toNat, 4), (ofBool x, 3)] = wd at *
  simp only [rawControl, h30, decodeControl14, f24, f19, f14, f9, f5, f3, f2, beq_ofBool, BitVec.ofNat_toNat, BitVec.setWidth_eq, and_self, and_true, if_true]

theorem amoAnd (d : BitVec 5) (s : BitVec 5) (t : BitVec 5) (r : BitVec 2) (x : Bool) : Statement (.amoAnd d s t r x) := by
  obtain ⟨h31, h30, f24, f19, f14, f9, f5, f3, f2⟩ := fields_24_19_14_9_5_3_2 20 1 0 (by decide) (by decide) (by decide) d s t r x rfl
  refine of_control (x := pack (20 * 2 ^ 25 + 1 * 2 ^ 6 + 0 * 2 ^ 0) [(d.toNat, 20), (s.toNat, 15), (t.toNat, 10), (r.toNat, 4), (ofBool x, 3)]) rfl rfl h31 h30 (by decide) ?_
  generalize pack (20 * 2 ^ 25 + 1 * 2 ^ 6 + 0 * 2 ^ 0) [(d.toNat, 20), (s.toNat, 15), (t.toNat, 10), (r.toNat, 4), (ofBool x, 3)] = wd at *
  simp only [rawControl, h30, decodeControl14, f24, f19, f14, f9, f5, f3, f2, beq_ofBool, BitVec.ofNat_toNat, BitVec.setWidth_eq, and_self, and_true, if_true, false_and, and_false, reduceIte, Nat.reduceEqDiff, OfNat.ofNat_ne_zero, OfNat.zero_ne_ofNat, Nat.one_ne_zero, Nat.zero_ne_one, OfNat.one_ne_ofNat, OfNat.ofNat_ne_one]

theorem amoOr (d : BitVec 5) (s : BitVec 5) (t : BitVec 5) (r : BitVec 2) (x : Bool) : Statement (.amoOr d s t r x) := by
  obtain ⟨h31, h30, f24, f19, f14, f9, f5, f3, f2⟩ := fields_24_19_14_9_5_3_2 20 2 0 (by decide) (by decide) (by decide) d s t r x rfl
  refine of_control (x := pack (20 * 2 ^ 25 + 2 * 2 ^ 6 + 0 * 2 ^ 0) [(d.toNat, 20), (s.toNat, 15), (t.toNat, 10), (r.toNat, 4), (ofBool x, 3)]) rfl rfl h31 h30 (by decide) ?_
  generalize pack (20 * 2 ^ 25 + 2 * 2 ^ 6 + 0 * 2 ^ 0) [(d.toNat, 20), (s.toNat, 15), (t.toNat, 10), (r.toNat, 4), (ofBool x, 3)] = wd at *
  simp only [rawControl, h30, decodeControl14, f24, f19, f14, f9, f5, f3, f2, beq_ofBool, BitVec.ofNat_toNat, BitVec.setWidth_eq, and_self, and_true, if_true, false_and, and_false, reduceIte, Nat.reduceEqDiff, OfNat.ofNat_ne_zero, OfNat.zero_ne_ofNat, Nat.one_ne_zero, Nat.zero_ne_one, OfNat.one_ne_ofNat, OfNat.ofNat_ne_one]

theorem amoXor (d : BitVec 5) (s : BitVec 5) (t : BitVec 5) (r : BitVec 2) (x : Bool) : Statement (.amoXor d s t r x) := by
  obtain ⟨h31, h30, f24, f19, f14, f9, f5, f3, f2⟩ := fields_24_19_14_9_5_3_2 20 3 0 (by decide) (by decide) (by decide) d s t r x rfl
  refine of_control (x := pack (20 * 2 ^ 25 + 3 * 2 ^ 6 + 0 * 2 ^ 0) [(d.toNat, 20), (s.toNat, 15), (t.toNat, 10), (r.toNat, 4), (ofBool x, 3)]) rfl rfl h31 h30 (by decide) ?_
  generalize pack (20 * 2 ^ 25 + 3 * 2 ^ 6 + 0 * 2 ^ 0) [(d.toNat, 20), (s.toNat, 15), (t.toNat, 10), (r.toNat, 4), (ofBool x, 3)] = wd at *
  simp only [rawControl, h30, decodeControl14, f24, f19, f14, f9, f5, f3, f2, beq_ofBool, BitVec.ofNat_toNat, BitVec.setWidth_eq, and_self, and_true, if_true, false_and, and_false, reduceIte, Nat.reduceEqDiff, OfNat.ofNat_ne_zero, OfNat.zero_ne_ofNat, Nat.one_ne_zero, Nat.zero_ne_one, OfNat.one_ne_ofNat, OfNat.ofNat_ne_one]

theorem amoMin (d : BitVec 5) (s : BitVec 5) (t : BitVec 5) (r : BitVec 2) (x : Bool) : Statement (.amoMin d s t r x) := by
  obtain ⟨h31, h30, f24, f19, f14, f9, f5, f3, f2⟩ := fields_24_19_14_9_5_3_2 20 4 0 (by decide) (by decide) (by decide) d s t r x rfl
  refine of_control (x := pack (20 * 2 ^ 25 + 4 * 2 ^ 6 + 0 * 2 ^ 0) [(d.toNat, 20), (s.toNat, 15), (t.toNat, 10), (r.toNat, 4), (ofBool x, 3)]) rfl rfl h31 h30 (by decide) ?_
  generalize pack (20 * 2 ^ 25 + 4 * 2 ^ 6 + 0 * 2 ^ 0) [(d.toNat, 20), (s.toNat, 15), (t.toNat, 10), (r.toNat, 4), (ofBool x, 3)] = wd at *
  simp only [rawControl, h30, decodeControl14, f24, f19, f14, f9, f5, f3, f2, beq_ofBool, BitVec.ofNat_toNat, BitVec.setWidth_eq, and_self, and_true, if_true, false_and, and_false, reduceIte, Nat.reduceEqDiff, OfNat.ofNat_ne_zero, OfNat.zero_ne_ofNat, Nat.one_ne_zero, Nat.zero_ne_one, OfNat.one_ne_ofNat, OfNat.ofNat_ne_one]

theorem amoMax (d : BitVec 5) (s : BitVec 5) (t : BitVec 5) (r : BitVec 2) (x : Bool) : Statement (.amoMax d s t r x) := by
  obtain ⟨h31, h30, f24, f19, f14, f9, f5, f3, f2⟩ := fields_24_19_14_9_5_3_2 20 5 0 (by decide) (by decide) (by decide) d s t r x rfl
  refine of_control (x := pack (20 * 2 ^ 25 + 5 * 2 ^ 6 + 0 * 2 ^ 0) [(d.toNat, 20), (s.toNat, 15), (t.toNat, 10), (r.toNat, 4), (ofBool x, 3)]) rfl rfl h31 h30 (by decide) ?_
  generalize pack (20 * 2 ^ 25 + 5 * 2 ^ 6 + 0 * 2 ^ 0) [(d.toNat, 20), (s.toNat, 15), (t.toNat, 10), (r.toNat, 4), (ofBool x, 3)] = wd at *
  simp only [rawControl, h30, decodeControl14, f24, f19, f14, f9, f5, f3, f2, beq_ofBool, BitVec.ofNat_toNat, BitVec.setWidth_eq, and_self, and_true, if_true, false_and, and_false, reduceIte, Nat.reduceEqDiff, OfNat.ofNat_ne_zero, OfNat.zero_ne_ofNat, Nat.one_ne_zero, Nat.zero_ne_one, OfNat.one_ne_ofNat, OfNat.ofNat_ne_one]

theorem amoMinu (d : BitVec 5) (s : BitVec 5) (t : BitVec 5) (r : BitVec 2) (x : Bool) : Statement (.amoMinu d s t r x) := by
  obtain ⟨h31, h30, f24, f19, f14, f9, f5, f3, f2⟩ := fields_24_19_14_9_5_3_2 20 6 0 (by decide) (by decide) (by decide) d s t r x rfl
  refine of_control (x := pack (20 * 2 ^ 25 + 6 * 2 ^ 6 + 0 * 2 ^ 0) [(d.toNat, 20), (s.toNat, 15), (t.toNat, 10), (r.toNat, 4), (ofBool x, 3)]) rfl rfl h31 h30 (by decide) ?_
  generalize pack (20 * 2 ^ 25 + 6 * 2 ^ 6 + 0 * 2 ^ 0) [(d.toNat, 20), (s.toNat, 15), (t.toNat, 10), (r.toNat, 4), (ofBool x, 3)] = wd at *
  simp only [rawControl, h30, decodeControl14, f24, f19, f14, f9, f5, f3, f2, beq_ofBool, BitVec.ofNat_toNat, BitVec.setWidth_eq, and_self, and_true, if_true, false_and, and_false, reduceIte, Nat.reduceEqDiff, OfNat.ofNat_ne_zero, OfNat.zero_ne_ofNat, Nat.one_ne_zero, Nat.zero_ne_one, OfNat.one_ne_ofNat, OfNat.ofNat_ne_one]

theorem amoMaxu (d : BitVec 5) (s : BitVec 5) (t : BitVec 5) (r : BitVec 2) (x : Bool) : Statement (.amoMaxu d s t r x) := by
  obtain ⟨h31, h30, f24, f19, f14, f9, f5, f3, f2⟩ := fields_24_19_14_9_5_3_2 20 7 0 (by decide) (by decide) (by decide) d s t r x rfl
  refine of_control (x := pack (20 * 2 ^ 25 + 7 * 2 ^ 6 + 0 * 2 ^ 0) [(d.toNat, 20), (s.toNat, 15), (t.toNat, 10), (r.toNat, 4), (ofBool x, 3)]) rfl rfl h31 h30 (by decide) ?_
  generalize pack (20 * 2 ^ 25 + 7 * 2 ^ 6 + 0 * 2 ^ 0) [(d.toNat, 20), (s.toNat, 15), (t.toNat, 10), (r.toNat, 4), (ofBool x, 3)] = wd at *
  simp only [rawControl, h30, decodeControl14, f24, f19, f14, f9, f5, f3, f2, beq_ofBool, BitVec.ofNat_toNat, BitVec.setWidth_eq, and_self, and_true, if_true, false_and, and_false, reduceIte, Nat.reduceEqDiff, OfNat.ofNat_ne_zero, OfNat.zero_ne_ofNat, Nat.one_ne_zero, Nat.zero_ne_one, OfNat.one_ne_ofNat, OfNat.ofNat_ne_one]

theorem amoSwap (d : BitVec 5) (s : BitVec 5) (t : BitVec 5) (r : BitVec 2) (x : Bool) : Statement (.amoSwap d s t r x) := by
  obtain ⟨h31, h30, f24, f19, f14, f9, f5, f3, f2⟩ := fields_24_19_14_9_5_3_2 20 8 0 (by decide) (by decide) (by decide) d s t r x rfl
  refine of_control (x := pack (20 * 2 ^ 25 + 8 * 2 ^ 6 + 0 * 2 ^ 0) [(d.toNat, 20), (s.toNat, 15), (t.toNat, 10), (r.toNat, 4), (ofBool x, 3)]) rfl rfl h31 h30 (by decide) ?_
  generalize pack (20 * 2 ^ 25 + 8 * 2 ^ 6 + 0 * 2 ^ 0) [(d.toNat, 20), (s.toNat, 15), (t.toNat, 10), (r.toNat, 4), (ofBool x, 3)] = wd at *
  simp only [rawControl, h30, decodeControl14, f24, f19, f14, f9, f5, f3, f2, beq_ofBool, BitVec.ofNat_toNat, BitVec.setWidth_eq, and_self, and_true, if_true, false_and, and_false, reduceIte, Nat.reduceEqDiff, OfNat.ofNat_ne_zero, OfNat.zero_ne_ofNat, Nat.one_ne_zero, Nat.zero_ne_one, OfNat.one_ne_ofNat, OfNat.ofNat_ne_one]

theorem amoCas (d : BitVec 5) (s : BitVec 5) (t : BitVec 5) (r : BitVec 2) (x : Bool) : Statement (.amoCas d s t r x) := by
  obtain ⟨h31, h30, f24, f19, f14, f9, f5, f3, f2⟩ := fields_24_19_14_9_5_3_2 20 9 0 (by decide) (by decide) (by decide) d s t r x rfl
  refine of_control (x := pack (20 * 2 ^ 25 + 9 * 2 ^ 6 + 0 * 2 ^ 0) [(d.toNat, 20), (s.toNat, 15), (t.toNat, 10), (r.toNat, 4), (ofBool x, 3)]) rfl rfl h31 h30 (by decide) ?_
  generalize pack (20 * 2 ^ 25 + 9 * 2 ^ 6 + 0 * 2 ^ 0) [(d.toNat, 20), (s.toNat, 15), (t.toNat, 10), (r.toNat, 4), (ofBool x, 3)] = wd at *
  simp only [rawControl, h30, decodeControl14, f24, f19, f14, f9, f5, f3, f2, beq_ofBool, BitVec.ofNat_toNat, BitVec.setWidth_eq, and_self, and_true, if_true, false_and, and_false, reduceIte, Nat.reduceEqDiff, OfNat.ofNat_ne_zero, OfNat.zero_ne_ofNat, Nat.one_ne_zero, Nat.zero_ne_one, OfNat.one_ne_ofNat, OfNat.ofNat_ne_one]

theorem fence (s : BitVec 3) : Statement (.fence s) := by
  obtain ⟨h31, h30, f24, f21, f18⟩ := fields_24_21_18 21 0 0 (by decide) (by decide) (by decide) s rfl
  refine of_control (x := pack (21 * 2 ^ 25 + 0 * 2 ^ 22 + 0 * 2 ^ 0) [(s.toNat, 19)]) rfl rfl h31 h30 (by decide) ?_
  generalize pack (21 * 2 ^ 25 + 0 * 2 ^ 22 + 0 * 2 ^ 0) [(s.toNat, 19)] = wd at *
  simp only [rawControl, h30, decodeControl15, f24, f21, f18, BitVec.ofNat_toNat, BitVec.setWidth_eq, and_self, and_true, if_true]

theorem xfence (s : BitVec 3) (f : BitVec 6) (t : BitVec 6) : Statement (.xfence s f t) := by
  obtain ⟨h31, h30, f24, f21, f18, f12, f6⟩ := fields_24_21_18_12_6 21 1 0 (by decide) (by decide) (by decide) s f t rfl
  refine of_control (x := pack (21 * 2 ^ 25 + 1 * 2 ^ 22 + 0 * 2 ^ 0) [(s.toNat, 19), (f.toNat, 13), (t.toNat, 7)]) rfl rfl h31 h30 (by decide) ?_
  generalize pack (21 * 2 ^ 25 + 1 * 2 ^ 22 + 0 * 2 ^ 0) [(s.toNat, 19), (f.toNat, 13), (t.toNat, 7)] = wd at *
  simp only [rawControl, h30, decodeControl15, f24, f21, f18, f12, f6, BitVec.ofNat_toNat, BitVec.setWidth_eq, and_self, and_true, if_true, false_and, and_false, reduceIte, Nat.reduceEqDiff, OfNat.ofNat_ne_zero, OfNat.zero_ne_ofNat, Nat.one_ne_zero, Nat.zero_ne_one, OfNat.one_ne_ofNat, OfNat.ofNat_ne_one]

theorem drain (s : BitVec 3) : Statement (.drain s) := by
  obtain ⟨h31, h30, f24, f21, f18⟩ := fields_24_21_18 21 2 0 (by decide) (by decide) (by decide) s rfl
  refine of_control (x := pack (21 * 2 ^ 25 + 2 * 2 ^ 22 + 0 * 2 ^ 0) [(s.toNat, 19)]) rfl rfl h31 h30 (by decide) ?_
  generalize pack (21 * 2 ^ 25 + 2 * 2 ^ 22 + 0 * 2 ^ 0) [(s.toNat, 19)] = wd at *
  simp only [rawControl, h30, decodeControl15, f24, f21, f18, BitVec.ofNat_toNat, BitVec.setWidth_eq, and_self, and_true, if_true, false_and, and_false, reduceIte, Nat.reduceEqDiff, OfNat.ofNat_ne_zero, OfNat.zero_ne_ofNat, Nat.one_ne_zero, Nat.zero_ne_one, OfNat.one_ne_ofNat, OfNat.ofNat_ne_one]

theorem fenceReturn (core : CoreId) : Statement (.fenceReturn core) := of_event rfl rfl

theorem srd (g : BitVec 5) (n : BitVec 12) : Statement (.srd g n) := by
  obtain ⟨h31, h30, f24, f19, f17, f5⟩ := fields_24_19_17_5 22 0 0 (by decide) (by decide) (by decide) g n rfl
  refine of_control (x := pack (22 * 2 ^ 25 + 0 * 2 ^ 18 + 0 * 2 ^ 0) [(g.toNat, 20), (n.toNat, 6)]) rfl rfl h31 h30 (by decide) ?_
  generalize pack (22 * 2 ^ 25 + 0 * 2 ^ 18 + 0 * 2 ^ 0) [(g.toNat, 20), (n.toNat, 6)] = wd at *
  simp only [rawControl, h30, decodeControl16, f24, f19, f17, f5, BitVec.ofNat_toNat, BitVec.setWidth_eq, and_self, and_true, if_true]

theorem swr (g : BitVec 5) (n : BitVec 12) : Statement (.swr g n) := by
  obtain ⟨h31, h30, f24, f19, f17, f5⟩ := fields_24_19_17_5 22 1 0 (by decide) (by decide) (by decide) g n rfl
  refine of_control (x := pack (22 * 2 ^ 25 + 1 * 2 ^ 18 + 0 * 2 ^ 0) [(g.toNat, 20), (n.toNat, 6)]) rfl rfl h31 h30 (by decide) ?_
  generalize pack (22 * 2 ^ 25 + 1 * 2 ^ 18 + 0 * 2 ^ 0) [(g.toNat, 20), (n.toNat, 6)] = wd at *
  simp only [rawControl, h30, decodeControl16, f24, f19, f17, f5, BitVec.ofNat_toNat, BitVec.setWidth_eq, and_self, and_true, if_true, false_and, and_false, reduceIte, Nat.reduceEqDiff, OfNat.ofNat_ne_zero, OfNat.zero_ne_ofNat, Nat.one_ne_zero, Nat.zero_ne_one, OfNat.one_ne_ofNat, OfNat.ofNat_ne_one]

theorem sset (g : BitVec 5) (n : BitVec 12) : Statement (.sset g n) := by
  obtain ⟨h31, h30, f24, f19, f17, f5⟩ := fields_24_19_17_5 22 2 0 (by decide) (by decide) (by decide) g n rfl
  refine of_control (x := pack (22 * 2 ^ 25 + 2 * 2 ^ 18 + 0 * 2 ^ 0) [(g.toNat, 20), (n.toNat, 6)]) rfl rfl h31 h30 (by decide) ?_
  generalize pack (22 * 2 ^ 25 + 2 * 2 ^ 18 + 0 * 2 ^ 0) [(g.toNat, 20), (n.toNat, 6)] = wd at *
  simp only [rawControl, h30, decodeControl16, f24, f19, f17, f5, BitVec.ofNat_toNat, BitVec.setWidth_eq, and_self, and_true, if_true, false_and, and_false, reduceIte, Nat.reduceEqDiff, OfNat.ofNat_ne_zero, OfNat.zero_ne_ofNat, Nat.one_ne_zero, Nat.zero_ne_one, OfNat.one_ne_ofNat, OfNat.ofNat_ne_one]

theorem sclr (g : BitVec 5) (n : BitVec 12) : Statement (.sclr g n) := by
  obtain ⟨h31, h30, f24, f19, f17, f5⟩ := fields_24_19_17_5 22 3 0 (by decide) (by decide) (by decide) g n rfl
  refine of_control (x := pack (22 * 2 ^ 25 + 3 * 2 ^ 18 + 0 * 2 ^ 0) [(g.toNat, 20), (n.toNat, 6)]) rfl rfl h31 h30 (by decide) ?_
  generalize pack (22 * 2 ^ 25 + 3 * 2 ^ 18 + 0 * 2 ^ 0) [(g.toNat, 20), (n.toNat, 6)] = wd at *
  simp only [rawControl, h30, decodeControl16, f24, f19, f17, f5, BitVec.ofNat_toNat, BitVec.setWidth_eq, and_self, and_true, if_true, false_and, and_false, reduceIte, Nat.reduceEqDiff, OfNat.ofNat_ne_zero, OfNat.zero_ne_ofNat, Nat.one_ne_zero, Nat.zero_ne_one, OfNat.one_ne_ofNat, OfNat.ofNat_ne_one]

theorem trap (i : BitVec 16) : Statement (.trap i) := by
  obtain ⟨h31, h30, f24, f15⟩ := fields_24_15 23 0 (by decide) (by decide) i rfl
  refine of_control (x := pack (23 * 2 ^ 25 + 0 * 2 ^ 16) [(i.toNat, 0)]) rfl rfl h31 h30 (by decide) ?_
  generalize pack (23 * 2 ^ 25 + 0 * 2 ^ 16) [(i.toNat, 0)] = wd at *
  simp only [rawControl, h30, decodeControl17, f24, f15, BitVec.ofNat_toNat, BitVec.setWidth_eq, and_self, and_true, if_true]

theorem yield : Statement .yield := by
  obtain ⟨h31, h30, f24⟩ := fields_24 23 4194304 (by decide) (by decide)  rfl
  refine of_control (x := pack (23 * 2 ^ 25 + 4194304 * 2 ^ 0) []) rfl rfl h31 h30 (by decide) ?_
  generalize pack (23 * 2 ^ 25 + 4194304 * 2 ^ 0) [] = wd at *
  have n0 : fld wd 24 16 ≠ 0 := fun e => absurd ((fld_of_fld 24 16 f24 (by decide) (by decide) (by decide)).symm.trans (fld_of_fld 24 16 e (by decide) (by decide) (by decide))) (by decide)
  simp only [rawControl, h30, decodeControl17, f24, n0, and_self, and_true, if_true, false_and, and_false, reduceIte, Nat.reduceEqDiff, OfNat.ofNat_ne_zero, OfNat.zero_ne_ofNat, Nat.one_ne_zero, Nat.zero_ne_one, OfNat.one_ne_ofNat, OfNat.ofNat_ne_one]

theorem fset (f : BitVec 4) : Statement (.fset f) := by
  obtain ⟨h31, h30, f24, f22, f18⟩ := fields_24_22_18 24 0 0 (by decide) (by decide) (by decide) f rfl
  refine of_control (x := pack (24 * 2 ^ 25 + 0 * 2 ^ 23 + 0 * 2 ^ 0) [(f.toNat, 19)]) rfl rfl h31 h30 (by decide) ?_
  generalize pack (24 * 2 ^ 25 + 0 * 2 ^ 23 + 0 * 2 ^ 0) [(f.toNat, 19)] = wd at *
  simp only [rawControl, h30, decodeControl18, f24, f22, f18, BitVec.ofNat_toNat, BitVec.setWidth_eq, and_self, and_true, if_true]

theorem fclr (f : BitVec 4) : Statement (.fclr f) := by
  obtain ⟨h31, h30, f24, f22, f18⟩ := fields_24_22_18 24 1 0 (by decide) (by decide) (by decide) f rfl
  refine of_control (x := pack (24 * 2 ^ 25 + 1 * 2 ^ 23 + 0 * 2 ^ 0) [(f.toNat, 19)]) rfl rfl h31 h30 (by decide) ?_
  generalize pack (24 * 2 ^ 25 + 1 * 2 ^ 23 + 0 * 2 ^ 0) [(f.toNat, 19)] = wd at *
  simp only [rawControl, h30, decodeControl18, f24, f22, f18, BitVec.ofNat_toNat, BitVec.setWidth_eq, and_self, and_true, if_true, false_and, and_false, reduceIte, Nat.reduceEqDiff, OfNat.ofNat_ne_zero, OfNat.zero_ne_ofNat, Nat.one_ne_zero, Nat.zero_ne_one, OfNat.one_ne_ofNat, OfNat.ofNat_ne_one]

theorem fwait (f : BitVec 4) : Statement (.fwait f) := by
  obtain ⟨h31, h30, f24, f22, f18⟩ := fields_24_22_18 24 2 0 (by decide) (by decide) (by decide) f rfl
  refine of_control (x := pack (24 * 2 ^ 25 + 2 * 2 ^ 23 + 0 * 2 ^ 0) [(f.toNat, 19)]) rfl rfl h31 h30 (by decide) ?_
  generalize pack (24 * 2 ^ 25 + 2 * 2 ^ 23 + 0 * 2 ^ 0) [(f.toNat, 19)] = wd at *
  simp only [rawControl, h30, decodeControl18, f24, f22, f18, BitVec.ofNat_toNat, BitVec.setWidth_eq, and_self, and_true, if_true, false_and, and_false, reduceIte, Nat.reduceEqDiff, OfNat.ofNat_ne_zero, OfNat.zero_ne_ofNat, Nat.one_ne_zero, Nat.zero_ne_one, OfNat.one_ne_ofNat, OfNat.ofNat_ne_one]

theorem fwaitReturn (core : CoreId) : Statement (.fwaitReturn core) := of_event rfl rfl

theorem cpy (a : BitVec 5) (b : BitVec 5) (c : BitVec 5) : Statement (.cpy a b c) := by
  obtain ⟨h31, h30, f24, f19, f14, f9⟩ := fields_24_19_14_9 32 0 (by decide) (by decide) a b c rfl
  refine of_control (x := pack (32 * 2 ^ 25 + 0 * 2 ^ 0) [(a.toNat, 20), (b.toNat, 15), (c.toNat, 10)]) rfl rfl h31 h30 (by decide) ?_
  generalize pack (32 * 2 ^ 25 + 0 * 2 ^ 0) [(a.toNat, 20), (b.toNat, 15), (c.toNat, 10)] = wd at *
  simp only [rawControl, h30, decodeControl20, f24, f19, f14, f9, BitVec.ofNat_toNat, BitVec.setWidth_eq, and_self, and_true, if_true]

theorem cpys (a : BitVec 5) (b : BitVec 5) (c : BitVec 5) : Statement (.cpys a b c) := by
  obtain ⟨h31, h30, f24, f19, f14, f9⟩ := fields_24_19_14_9 32 1 (by decide) (by decide) a b c rfl
  refine of_control (x := pack (32 * 2 ^ 25 + 1 * 2 ^ 0) [(a.toNat, 20), (b.toNat, 15), (c.toNat, 10)]) rfl rfl h31 h30 (by decide) ?_
  generalize pack (32 * 2 ^ 25 + 1 * 2 ^ 0) [(a.toNat, 20), (b.toNat, 15), (c.toNat, 10)] = wd at *
  simp only [rawControl, h30, decodeControl20, f24, f19, f14, f9, BitVec.ofNat_toNat, BitVec.setWidth_eq, and_self, and_true, if_true, false_and, and_false, reduceIte, Nat.reduceEqDiff, OfNat.ofNat_ne_zero, OfNat.zero_ne_ofNat, Nat.one_ne_zero, Nat.zero_ne_one, OfNat.one_ne_ofNat, OfNat.ofNat_ne_one]

theorem cpyx (a : BitVec 5) (b : BitVec 5) (c : BitVec 5) : Statement (.cpyx a b c) := by
  obtain ⟨h31, h30, f24, f19, f14, f9⟩ := fields_24_19_14_9 32 2 (by decide) (by decide) a b c rfl
  refine of_control (x := pack (32 * 2 ^ 25 + 2 * 2 ^ 0) [(a.toNat, 20), (b.toNat, 15), (c.toNat, 10)]) rfl rfl h31 h30 (by decide) ?_
  generalize pack (32 * 2 ^ 25 + 2 * 2 ^ 0) [(a.toNat, 20), (b.toNat, 15), (c.toNat, 10)] = wd at *
  simp only [rawControl, h30, decodeControl20, f24, f19, f14, f9, BitVec.ofNat_toNat, BitVec.setWidth_eq, and_self, and_true, if_true, false_and, and_false, reduceIte, Nat.reduceEqDiff, OfNat.ofNat_ne_zero, OfNat.zero_ne_ofNat, Nat.one_ne_zero, Nat.zero_ne_one, OfNat.one_ne_ofNat, OfNat.ofNat_ne_one]

theorem laneLoad (a : BitVec 5) (b : BitVec 5) (c : BitVec 5) : Statement (.laneLoad a b c) := by
  obtain ⟨h31, h30, f24, f19, f14, f9⟩ := fields_24_19_14_9 32 3 (by decide) (by decide) a b c rfl
  refine of_control (x := pack (32 * 2 ^ 25 + 3 * 2 ^ 0) [(a.toNat, 20), (b.toNat, 15), (c.toNat, 10)]) rfl rfl h31 h30 (by decide) ?_
  generalize pack (32 * 2 ^ 25 + 3 * 2 ^ 0) [(a.toNat, 20), (b.toNat, 15), (c.toNat, 10)] = wd at *
  simp only [rawControl, h30, decodeControl20, f24, f19, f14, f9, BitVec.ofNat_toNat, BitVec.setWidth_eq, and_self, and_true, if_true, false_and, and_false, reduceIte, Nat.reduceEqDiff, OfNat.ofNat_ne_zero, OfNat.zero_ne_ofNat, Nat.one_ne_zero, Nat.zero_ne_one, OfNat.one_ne_ofNat, OfNat.ofNat_ne_one]

theorem cimFill (a : BitVec 5) (b : BitVec 5) (c : BitVec 5) : Statement (.cimFill a b c) := by
  obtain ⟨h31, h30, f24, f19, f14, f9⟩ := fields_24_19_14_9 32 4 (by decide) (by decide) a b c rfl
  refine of_control (x := pack (32 * 2 ^ 25 + 4 * 2 ^ 0) [(a.toNat, 20), (b.toNat, 15), (c.toNat, 10)]) rfl rfl h31 h30 (by decide) ?_
  generalize pack (32 * 2 ^ 25 + 4 * 2 ^ 0) [(a.toNat, 20), (b.toNat, 15), (c.toNat, 10)] = wd at *
  simp only [rawControl, h30, decodeControl20, f24, f19, f14, f9, BitVec.ofNat_toNat, BitVec.setWidth_eq, and_self, and_true, if_true, false_and, and_false, reduceIte, Nat.reduceEqDiff, OfNat.ofNat_ne_zero, OfNat.zero_ne_ofNat, Nat.one_ne_zero, Nat.zero_ne_one, OfNat.one_ne_ofNat, OfNat.ofNat_ne_one]

theorem atomAdd (a : BitVec 5) (b : BitVec 5) (c : BitVec 5) (s : BitVec 3) (r : BitVec 2) (x : Bool) : Statement (.atomAdd a b c s r x) := by
  obtain ⟨h31, h30, f24, f19, f14, f9, f5, f2, f0⟩ := fields_24_19_14_9_5_2_0 33 0 (by decide) (by decide) a b c s r x rfl
  refine of_control (x := pack (33 * 2 ^ 25 + 0 * 2 ^ 6) [(a.toNat, 20), (b.toNat, 15), (c.toNat, 10), (s.toNat, 3), (r.toNat, 1), (ofBool x, 0)]) rfl rfl h31 h30 (by decide) ?_
  generalize pack (33 * 2 ^ 25 + 0 * 2 ^ 6) [(a.toNat, 20), (b.toNat, 15), (c.toNat, 10), (s.toNat, 3), (r.toNat, 1), (ofBool x, 0)] = wd at *
  simp only [rawControl, h30, decodeControl21, f24, f19, f14, f9, f5, f2, f0, beq_ofBool, BitVec.ofNat_toNat, BitVec.setWidth_eq, and_self, and_true, if_true]

theorem atomAnd (a : BitVec 5) (b : BitVec 5) (c : BitVec 5) (s : BitVec 3) (r : BitVec 2) (x : Bool) : Statement (.atomAnd a b c s r x) := by
  obtain ⟨h31, h30, f24, f19, f14, f9, f5, f2, f0⟩ := fields_24_19_14_9_5_2_0 33 1 (by decide) (by decide) a b c s r x rfl
  refine of_control (x := pack (33 * 2 ^ 25 + 1 * 2 ^ 6) [(a.toNat, 20), (b.toNat, 15), (c.toNat, 10), (s.toNat, 3), (r.toNat, 1), (ofBool x, 0)]) rfl rfl h31 h30 (by decide) ?_
  generalize pack (33 * 2 ^ 25 + 1 * 2 ^ 6) [(a.toNat, 20), (b.toNat, 15), (c.toNat, 10), (s.toNat, 3), (r.toNat, 1), (ofBool x, 0)] = wd at *
  simp only [rawControl, h30, decodeControl21, f24, f19, f14, f9, f5, f2, f0, beq_ofBool, BitVec.ofNat_toNat, BitVec.setWidth_eq, and_self, and_true, if_true, false_and, and_false, reduceIte, Nat.reduceEqDiff, OfNat.ofNat_ne_zero, OfNat.zero_ne_ofNat, Nat.one_ne_zero, Nat.zero_ne_one, OfNat.one_ne_ofNat, OfNat.ofNat_ne_one]

theorem atomOr (a : BitVec 5) (b : BitVec 5) (c : BitVec 5) (s : BitVec 3) (r : BitVec 2) (x : Bool) : Statement (.atomOr a b c s r x) := by
  obtain ⟨h31, h30, f24, f19, f14, f9, f5, f2, f0⟩ := fields_24_19_14_9_5_2_0 33 2 (by decide) (by decide) a b c s r x rfl
  refine of_control (x := pack (33 * 2 ^ 25 + 2 * 2 ^ 6) [(a.toNat, 20), (b.toNat, 15), (c.toNat, 10), (s.toNat, 3), (r.toNat, 1), (ofBool x, 0)]) rfl rfl h31 h30 (by decide) ?_
  generalize pack (33 * 2 ^ 25 + 2 * 2 ^ 6) [(a.toNat, 20), (b.toNat, 15), (c.toNat, 10), (s.toNat, 3), (r.toNat, 1), (ofBool x, 0)] = wd at *
  simp only [rawControl, h30, decodeControl21, f24, f19, f14, f9, f5, f2, f0, beq_ofBool, BitVec.ofNat_toNat, BitVec.setWidth_eq, and_self, and_true, if_true, false_and, and_false, reduceIte, Nat.reduceEqDiff, OfNat.ofNat_ne_zero, OfNat.zero_ne_ofNat, Nat.one_ne_zero, Nat.zero_ne_one, OfNat.one_ne_ofNat, OfNat.ofNat_ne_one]

theorem atomXor (a : BitVec 5) (b : BitVec 5) (c : BitVec 5) (s : BitVec 3) (r : BitVec 2) (x : Bool) : Statement (.atomXor a b c s r x) := by
  obtain ⟨h31, h30, f24, f19, f14, f9, f5, f2, f0⟩ := fields_24_19_14_9_5_2_0 33 3 (by decide) (by decide) a b c s r x rfl
  refine of_control (x := pack (33 * 2 ^ 25 + 3 * 2 ^ 6) [(a.toNat, 20), (b.toNat, 15), (c.toNat, 10), (s.toNat, 3), (r.toNat, 1), (ofBool x, 0)]) rfl rfl h31 h30 (by decide) ?_
  generalize pack (33 * 2 ^ 25 + 3 * 2 ^ 6) [(a.toNat, 20), (b.toNat, 15), (c.toNat, 10), (s.toNat, 3), (r.toNat, 1), (ofBool x, 0)] = wd at *
  simp only [rawControl, h30, decodeControl21, f24, f19, f14, f9, f5, f2, f0, beq_ofBool, BitVec.ofNat_toNat, BitVec.setWidth_eq, and_self, and_true, if_true, false_and, and_false, reduceIte, Nat.reduceEqDiff, OfNat.ofNat_ne_zero, OfNat.zero_ne_ofNat, Nat.one_ne_zero, Nat.zero_ne_one, OfNat.one_ne_ofNat, OfNat.ofNat_ne_one]

theorem atomMin (a : BitVec 5) (b : BitVec 5) (c : BitVec 5) (s : BitVec 3) (r : BitVec 2) (x : Bool) : Statement (.atomMin a b c s r x) := by
  obtain ⟨h31, h30, f24, f19, f14, f9, f5, f2, f0⟩ := fields_24_19_14_9_5_2_0 33 4 (by decide) (by decide) a b c s r x rfl
  refine of_control (x := pack (33 * 2 ^ 25 + 4 * 2 ^ 6) [(a.toNat, 20), (b.toNat, 15), (c.toNat, 10), (s.toNat, 3), (r.toNat, 1), (ofBool x, 0)]) rfl rfl h31 h30 (by decide) ?_
  generalize pack (33 * 2 ^ 25 + 4 * 2 ^ 6) [(a.toNat, 20), (b.toNat, 15), (c.toNat, 10), (s.toNat, 3), (r.toNat, 1), (ofBool x, 0)] = wd at *
  simp only [rawControl, h30, decodeControl21, f24, f19, f14, f9, f5, f2, f0, beq_ofBool, BitVec.ofNat_toNat, BitVec.setWidth_eq, and_self, and_true, if_true, false_and, and_false, reduceIte, Nat.reduceEqDiff, OfNat.ofNat_ne_zero, OfNat.zero_ne_ofNat, Nat.one_ne_zero, Nat.zero_ne_one, OfNat.one_ne_ofNat, OfNat.ofNat_ne_one]

theorem atomMax (a : BitVec 5) (b : BitVec 5) (c : BitVec 5) (s : BitVec 3) (r : BitVec 2) (x : Bool) : Statement (.atomMax a b c s r x) := by
  obtain ⟨h31, h30, f24, f19, f14, f9, f5, f2, f0⟩ := fields_24_19_14_9_5_2_0 33 5 (by decide) (by decide) a b c s r x rfl
  refine of_control (x := pack (33 * 2 ^ 25 + 5 * 2 ^ 6) [(a.toNat, 20), (b.toNat, 15), (c.toNat, 10), (s.toNat, 3), (r.toNat, 1), (ofBool x, 0)]) rfl rfl h31 h30 (by decide) ?_
  generalize pack (33 * 2 ^ 25 + 5 * 2 ^ 6) [(a.toNat, 20), (b.toNat, 15), (c.toNat, 10), (s.toNat, 3), (r.toNat, 1), (ofBool x, 0)] = wd at *
  simp only [rawControl, h30, decodeControl21, f24, f19, f14, f9, f5, f2, f0, beq_ofBool, BitVec.ofNat_toNat, BitVec.setWidth_eq, and_self, and_true, if_true, false_and, and_false, reduceIte, Nat.reduceEqDiff, OfNat.ofNat_ne_zero, OfNat.zero_ne_ofNat, Nat.one_ne_zero, Nat.zero_ne_one, OfNat.one_ne_ofNat, OfNat.ofNat_ne_one]

theorem atomMinu (a : BitVec 5) (b : BitVec 5) (c : BitVec 5) (s : BitVec 3) (r : BitVec 2) (x : Bool) : Statement (.atomMinu a b c s r x) := by
  obtain ⟨h31, h30, f24, f19, f14, f9, f5, f2, f0⟩ := fields_24_19_14_9_5_2_0 33 6 (by decide) (by decide) a b c s r x rfl
  refine of_control (x := pack (33 * 2 ^ 25 + 6 * 2 ^ 6) [(a.toNat, 20), (b.toNat, 15), (c.toNat, 10), (s.toNat, 3), (r.toNat, 1), (ofBool x, 0)]) rfl rfl h31 h30 (by decide) ?_
  generalize pack (33 * 2 ^ 25 + 6 * 2 ^ 6) [(a.toNat, 20), (b.toNat, 15), (c.toNat, 10), (s.toNat, 3), (r.toNat, 1), (ofBool x, 0)] = wd at *
  simp only [rawControl, h30, decodeControl21, f24, f19, f14, f9, f5, f2, f0, beq_ofBool, BitVec.ofNat_toNat, BitVec.setWidth_eq, and_self, and_true, if_true, false_and, and_false, reduceIte, Nat.reduceEqDiff, OfNat.ofNat_ne_zero, OfNat.zero_ne_ofNat, Nat.one_ne_zero, Nat.zero_ne_one, OfNat.one_ne_ofNat, OfNat.ofNat_ne_one]

theorem atomMaxu (a : BitVec 5) (b : BitVec 5) (c : BitVec 5) (s : BitVec 3) (r : BitVec 2) (x : Bool) : Statement (.atomMaxu a b c s r x) := by
  obtain ⟨h31, h30, f24, f19, f14, f9, f5, f2, f0⟩ := fields_24_19_14_9_5_2_0 33 7 (by decide) (by decide) a b c s r x rfl
  refine of_control (x := pack (33 * 2 ^ 25 + 7 * 2 ^ 6) [(a.toNat, 20), (b.toNat, 15), (c.toNat, 10), (s.toNat, 3), (r.toNat, 1), (ofBool x, 0)]) rfl rfl h31 h30 (by decide) ?_
  generalize pack (33 * 2 ^ 25 + 7 * 2 ^ 6) [(a.toNat, 20), (b.toNat, 15), (c.toNat, 10), (s.toNat, 3), (r.toNat, 1), (ofBool x, 0)] = wd at *
  simp only [rawControl, h30, decodeControl21, f24, f19, f14, f9, f5, f2, f0, beq_ofBool, BitVec.ofNat_toNat, BitVec.setWidth_eq, and_self, and_true, if_true, false_and, and_false, reduceIte, Nat.reduceEqDiff, OfNat.ofNat_ne_zero, OfNat.zero_ne_ofNat, Nat.one_ne_zero, Nat.zero_ne_one, OfNat.one_ne_ofNat, OfNat.ofNat_ne_one]

theorem atomSwap (a : BitVec 5) (b : BitVec 5) (c : BitVec 5) (s : BitVec 3) (r : BitVec 2) (x : Bool) : Statement (.atomSwap a b c s r x) := by
  obtain ⟨h31, h30, f24, f19, f14, f9, f5, f2, f0⟩ := fields_24_19_14_9_5_2_0 33 8 (by decide) (by decide) a b c s r x rfl
  refine of_control (x := pack (33 * 2 ^ 25 + 8 * 2 ^ 6) [(a.toNat, 20), (b.toNat, 15), (c.toNat, 10), (s.toNat, 3), (r.toNat, 1), (ofBool x, 0)]) rfl rfl h31 h30 (by decide) ?_
  generalize pack (33 * 2 ^ 25 + 8 * 2 ^ 6) [(a.toNat, 20), (b.toNat, 15), (c.toNat, 10), (s.toNat, 3), (r.toNat, 1), (ofBool x, 0)] = wd at *
  simp only [rawControl, h30, decodeControl21, f24, f19, f14, f9, f5, f2, f0, beq_ofBool, BitVec.ofNat_toNat, BitVec.setWidth_eq, and_self, and_true, if_true, false_and, and_false, reduceIte, Nat.reduceEqDiff, OfNat.ofNat_ne_zero, OfNat.zero_ne_ofNat, Nat.one_ne_zero, Nat.zero_ne_one, OfNat.one_ne_ofNat, OfNat.ofNat_ne_one]

theorem atomCas (a : BitVec 5) (b : BitVec 5) (c : BitVec 5) (s : BitVec 3) (r : BitVec 2) (x : Bool) : Statement (.atomCas a b c s r x) := by
  obtain ⟨h31, h30, f24, f19, f14, f9, f5, f2, f0⟩ := fields_24_19_14_9_5_2_0 33 9 (by decide) (by decide) a b c s r x rfl
  refine of_control (x := pack (33 * 2 ^ 25 + 9 * 2 ^ 6) [(a.toNat, 20), (b.toNat, 15), (c.toNat, 10), (s.toNat, 3), (r.toNat, 1), (ofBool x, 0)]) rfl rfl h31 h30 (by decide) ?_
  generalize pack (33 * 2 ^ 25 + 9 * 2 ^ 6) [(a.toNat, 20), (b.toNat, 15), (c.toNat, 10), (s.toNat, 3), (r.toNat, 1), (ofBool x, 0)] = wd at *
  simp only [rawControl, h30, decodeControl21, f24, f19, f14, f9, f5, f2, f0, beq_ofBool, BitVec.ofNat_toNat, BitVec.setWidth_eq, and_self, and_true, if_true, false_and, and_false, reduceIte, Nat.reduceEqDiff, OfNat.ofNat_ne_zero, OfNat.zero_ne_ofNat, Nat.one_ne_zero, Nat.zero_ne_one, OfNat.one_ne_ofNat, OfNat.ofNat_ne_one]

theorem atomFadd (a : BitVec 5) (b : BitVec 5) (c : BitVec 5) (s : BitVec 3) (r : BitVec 2) : Statement (.atomFadd a b c s r) := by
  obtain ⟨h31, h30, f24, f19, f14, f9, f5, f2, f0⟩ := fields_24_19_14_9_5_2_0' 33 10 0 (by decide) (by decide) (by decide) a b c s r rfl
  refine of_control (x := pack (33 * 2 ^ 25 + 10 * 2 ^ 6 + 0 * 2 ^ 0) [(a.toNat, 20), (b.toNat, 15), (c.toNat, 10), (s.toNat, 3), (r.toNat, 1)]) rfl rfl h31 h30 (by decide) ?_
  generalize pack (33 * 2 ^ 25 + 10 * 2 ^ 6 + 0 * 2 ^ 0) [(a.toNat, 20), (b.toNat, 15), (c.toNat, 10), (s.toNat, 3), (r.toNat, 1)] = wd at *
  simp only [rawControl, h30, decodeControl21, f24, f19, f14, f9, f5, f2, f0, BitVec.ofNat_toNat, BitVec.setWidth_eq, and_self, and_true, if_true, false_and, and_false, reduceIte, Nat.reduceEqDiff, OfNat.ofNat_ne_zero, OfNat.zero_ne_ofNat, Nat.one_ne_zero, Nat.zero_ne_one, OfNat.one_ne_ofNat, OfNat.ofNat_ne_one]

theorem atomCread (a : BitVec 5) (b : BitVec 5) (c : BitVec 5) (s : BitVec 3) (r : BitVec 2) : Statement (.atomCread a b c s r) := by
  obtain ⟨h31, h30, f24, f19, f14, f9, f5, f2, f0⟩ := fields_24_19_14_9_5_2_0' 33 11 0 (by decide) (by decide) (by decide) a b c s r rfl
  refine of_control (x := pack (33 * 2 ^ 25 + 11 * 2 ^ 6 + 0 * 2 ^ 0) [(a.toNat, 20), (b.toNat, 15), (c.toNat, 10), (s.toNat, 3), (r.toNat, 1)]) rfl rfl h31 h30 (by decide) ?_
  generalize pack (33 * 2 ^ 25 + 11 * 2 ^ 6 + 0 * 2 ^ 0) [(a.toNat, 20), (b.toNat, 15), (c.toNat, 10), (s.toNat, 3), (r.toNat, 1)] = wd at *
  simp only [rawControl, h30, decodeControl21, f24, f19, f14, f9, f5, f2, f0, BitVec.ofNat_toNat, BitVec.setWidth_eq, and_self, and_true, if_true, false_and, and_false, reduceIte, Nat.reduceEqDiff, OfNat.ofNat_ne_zero, OfNat.zero_ne_ofNat, Nat.one_ne_zero, Nat.zero_ne_one, OfNat.one_ne_ofNat, OfNat.ofNat_ne_one]

theorem loop (a : BitVec 5) (b : BitVec 5) (c : BitVec 5) : Statement (.loop a b c) := by
  obtain ⟨h31, h30, f24, f19, f14, f9⟩ := fields_24_19_14_9 34 0 (by decide) (by decide) a b c rfl
  refine of_control (x := pack (34 * 2 ^ 25 + 0 * 2 ^ 0) [(a.toNat, 20), (b.toNat, 15), (c.toNat, 10)]) rfl rfl h31 h30 (by decide) ?_
  generalize pack (34 * 2 ^ 25 + 0 * 2 ^ 0) [(a.toNat, 20), (b.toNat, 15), (c.toNat, 10)] = wd at *
  simp only [rawControl, h30, decodeControl22, f24, f19, f14, f9, BitVec.ofNat_toNat, BitVec.setWidth_eq, and_self, and_true, if_true]

theorem ppush (a : BitVec 5) : Statement (.ppush a) := by
  obtain ⟨h31, h30, f24, f19⟩ := fields_24_19' 35 0 (by decide) (by decide) a rfl
  refine of_control (x := pack (35 * 2 ^ 25 + 0 * 2 ^ 0) [(a.toNat, 20)]) rfl rfl h31 h30 (by decide) ?_
  generalize pack (35 * 2 ^ 25 + 0 * 2 ^ 0) [(a.toNat, 20)] = wd at *
  simp only [rawControl, h30, decodeControl23, f24, f19, BitVec.ofNat_toNat, BitVec.setWidth_eq, and_self, and_true, if_true]

theorem cimModeScratch (b : BitVec 5) : Statement (.cimModeScratch b) := by
  obtain ⟨h31, h30, f24, f19⟩ := fields_24_19' 36 0 (by decide) (by decide) b rfl
  refine of_control (x := pack (36 * 2 ^ 25 + 0 * 2 ^ 0) [(b.toNat, 20)]) rfl rfl h31 h30 (by decide) ?_
  generalize pack (36 * 2 ^ 25 + 0 * 2 ^ 0) [(b.toNat, 20)] = wd at *
  simp only [rawControl, h30, decodeControl24, f24, f19, BitVec.ofNat_toNat, BitVec.setWidth_eq, and_self, and_true, if_true]

theorem cimModeCompute (b : BitVec 5) (k : BitVec 5) : Statement (.cimModeCompute b k) := by
  obtain ⟨h31, h30, f24, f19, f18, f13⟩ := fields_24_19_18_13 36 1 0 (by decide) (by decide) (by decide) b k rfl
  refine of_control (x := pack (36 * 2 ^ 25 + 1 * 2 ^ 19 + 0 * 2 ^ 0) [(b.toNat, 20), (k.toNat, 14)]) rfl rfl h31 h30 (by decide) ?_
  generalize pack (36 * 2 ^ 25 + 1 * 2 ^ 19 + 0 * 2 ^ 0) [(b.toNat, 20), (k.toNat, 14)] = wd at *
  have n0 : fld wd 19 0 ≠ 0 := fun e => absurd ((fld_of_fld 19 19 f19 (by decide) (by decide) (by decide)).symm.trans (fld_of_fld 19 19 e (by decide) (by decide) (by decide))) (by decide)
  simp only [rawControl, h30, decodeControl24, f24, f19, f18, f13, n0, BitVec.ofNat_toNat, BitVec.setWidth_eq, and_self, and_true, if_true, false_and, and_false, reduceIte, Nat.reduceEqDiff, OfNat.ofNat_ne_zero, OfNat.zero_ne_ofNat, Nat.one_ne_zero, Nat.zero_ne_one, OfNat.one_ne_ofNat, OfNat.ofNat_ne_one]

theorem qcwSet (q : BitVec 3) (a : BitVec 5) (b : BitVec 5) : Statement (.qcwSet q a b) := by
  obtain ⟨h31, h30, f24, f21, f16, f11⟩ := fields_24_21_16_11 37 0 (by decide) (by decide) q a b rfl
  refine of_control (x := pack (37 * 2 ^ 25 + 0 * 2 ^ 0) [(q.toNat, 22), (a.toNat, 17), (b.toNat, 12)]) rfl rfl h31 h30 (by decide) ?_
  generalize pack (37 * 2 ^ 25 + 0 * 2 ^ 0) [(q.toNat, 22), (a.toNat, 17), (b.toNat, 12)] = wd at *
  simp only [rawControl, h30, decodeControl25, f24, f21, f16, f11, BitVec.ofNat_toNat, BitVec.setWidth_eq, and_self, and_true, if_true]

theorem qcwGet (q : BitVec 3) (a : BitVec 5) (b : BitVec 5) : Statement (.qcwGet q a b) := by
  obtain ⟨h31, h30, f24, f21, f16, f11⟩ := fields_24_21_16_11 37 256 (by decide) (by decide) q a b rfl
  refine of_control (x := pack (37 * 2 ^ 25 + 256 * 2 ^ 0) [(q.toNat, 22), (a.toNat, 17), (b.toNat, 12)]) rfl rfl h31 h30 (by decide) ?_
  generalize pack (37 * 2 ^ 25 + 256 * 2 ^ 0) [(q.toNat, 22), (a.toNat, 17), (b.toNat, 12)] = wd at *
  simp only [rawControl, h30, decodeControl25, f24, f21, f16, f11, BitVec.ofNat_toNat, BitVec.setWidth_eq, and_self, and_true, if_true, false_and, and_false, reduceIte, Nat.reduceEqDiff, OfNat.ofNat_ne_zero, OfNat.zero_ne_ofNat, Nat.one_ne_zero, Nat.zero_ne_one, OfNat.one_ne_ofNat, OfNat.ofNat_ne_one]

theorem aqRemap (q : BitVec 3) (a : BitVec 5) (b : BitVec 5) : Statement (.aqRemap q a b) := by
  obtain ⟨h31, h30, f24, f21, f16, f11⟩ := fields_24_21_16_11 37 512 (by decide) (by decide) q a b rfl
  refine of_control (x := pack (37 * 2 ^ 25 + 512 * 2 ^ 0) [(q.toNat, 22), (a.toNat, 17), (b.toNat, 12)]) rfl rfl h31 h30 (by decide) ?_
  generalize pack (37 * 2 ^ 25 + 512 * 2 ^ 0) [(q.toNat, 22), (a.toNat, 17), (b.toNat, 12)] = wd at *
  simp only [rawControl, h30, decodeControl25, f24, f21, f16, f11, BitVec.ofNat_toNat, BitVec.setWidth_eq, and_self, and_true, if_true, false_and, and_false, reduceIte, Nat.reduceEqDiff, OfNat.ofNat_ne_zero, OfNat.zero_ne_ofNat, Nat.one_ne_zero, Nat.zero_ne_one, OfNat.one_ne_ofNat, OfNat.ofNat_ne_one]

theorem qcwSetQuiet (core : CoreId) : Statement (.qcwSetQuiet core) := of_event rfl rfl

theorem setv (v : BitVec 3) (a : BitVec 5) : Statement (.setv v a) := by
  obtain ⟨h31, h30, f24, f21, f16⟩ := fields_24_21_16 38 0 (by decide) (by decide) v a rfl
  refine of_control (x := pack (38 * 2 ^ 25 + 0 * 2 ^ 0) [(v.toNat, 22), (a.toNat, 17)]) rfl rfl h31 h30 (by decide) ?_
  generalize pack (38 * 2 ^ 25 + 0 * 2 ^ 0) [(v.toNat, 22), (a.toNat, 17)] = wd at *
  simp only [rawControl, h30, decodeControl26, f24, f21, f16, BitVec.ofNat_toNat, BitVec.setWidth_eq, and_self, and_true, if_true]

theorem setj (a : BitVec 5) : Statement (.setj a) := by
  obtain ⟨h31, h30, f24, f21, f16⟩ := fields_24_21_16' 38 0 65536 (by decide) (by decide) (by decide) a rfl
  refine of_control (x := pack (38 * 2 ^ 25 + 0 * 2 ^ 22 + 65536 * 2 ^ 0) [(a.toNat, 17)]) rfl rfl h31 h30 (by decide) ?_
  generalize pack (38 * 2 ^ 25 + 0 * 2 ^ 22 + 65536 * 2 ^ 0) [(a.toNat, 17)] = wd at *
  simp only [rawControl, h30, decodeControl26, f24, f21, f16, BitVec.ofNat_toNat, BitVec.setWidth_eq, and_self, and_true, if_true, false_and, and_false, reduceIte, Nat.reduceEqDiff, OfNat.ofNat_ne_zero, OfNat.zero_ne_ofNat, Nat.one_ne_zero, Nat.zero_ne_one, OfNat.one_ne_ofNat, OfNat.ofNat_ne_one]

theorem syncArm (a : BitVec 5) (b : BitVec 5) (c : BitVec 5) : Statement (.syncArm a b c) := by
  obtain ⟨h31, h30, f24, f19, f14, f9⟩ := fields_24_19_14_9 39 0 (by decide) (by decide) a b c rfl
  refine of_control (x := pack (39 * 2 ^ 25 + 0 * 2 ^ 0) [(a.toNat, 20), (b.toNat, 15), (c.toNat, 10)]) rfl rfl h31 h30 (by decide) ?_
  generalize pack (39 * 2 ^ 25 + 0 * 2 ^ 0) [(a.toNat, 20), (b.toNat, 15), (c.toNat, 10)] = wd at *
  simp only [rawControl, h30, decodeControl27, f24, f19, f14, f9, BitVec.ofNat_toNat, BitVec.setWidth_eq, and_self, and_true, if_true]

theorem syncWait (a : BitVec 5) (b : BitVec 5) : Statement (.syncWait a b) := by
  obtain ⟨h31, h30, f24, f19, f14⟩ := fields_24_19_14' 39 1 (by decide) (by decide) a b rfl
  refine of_control (x := pack (39 * 2 ^ 25 + 1 * 2 ^ 0) [(a.toNat, 20), (b.toNat, 15)]) rfl rfl h31 h30 (by decide) ?_
  generalize pack (39 * 2 ^ 25 + 1 * 2 ^ 0) [(a.toNat, 20), (b.toNat, 15)] = wd at *
  have n0 : fld wd 9 0 ≠ 0 := fun e => absurd ((fld_of_fld 9 0 f14 (by decide) (by decide) (by decide)).symm.trans (fld_of_fld 9 0 e (by decide) (by decide) (by decide))) (by decide)
  simp only [rawControl, h30, decodeControl27, f24, f19, f14, n0, BitVec.ofNat_toNat, BitVec.setWidth_eq, and_self, and_true, if_true, false_and, and_false, reduceIte, Nat.reduceEqDiff, OfNat.ofNat_ne_zero, OfNat.zero_ne_ofNat, Nat.one_ne_zero, Nat.zero_ne_one, OfNat.one_ne_ofNat, OfNat.ofNat_ne_one]

theorem syncAdd (a : BitVec 5) (b : BitVec 5) : Statement (.syncAdd a b) := by
  obtain ⟨h31, h30, f24, f19, f14⟩ := fields_24_19_14' 39 2 (by decide) (by decide) a b rfl
  refine of_control (x := pack (39 * 2 ^ 25 + 2 * 2 ^ 0) [(a.toNat, 20), (b.toNat, 15)]) rfl rfl h31 h30 (by decide) ?_
  generalize pack (39 * 2 ^ 25 + 2 * 2 ^ 0) [(a.toNat, 20), (b.toNat, 15)] = wd at *
  have n0 : fld wd 9 0 ≠ 0 := fun e => absurd ((fld_of_fld 9 0 f14 (by decide) (by decide) (by decide)).symm.trans (fld_of_fld 9 0 e (by decide) (by decide) (by decide))) (by decide)
  simp only [rawControl, h30, decodeControl27, f24, f19, f14, n0, BitVec.ofNat_toNat, BitVec.setWidth_eq, and_self, and_true, if_true, false_and, and_false, reduceIte, Nat.reduceEqDiff, OfNat.ofNat_ne_zero, OfNat.zero_ne_ofNat, Nat.one_ne_zero, Nat.zero_ne_one, OfNat.one_ne_ofNat, OfNat.ofNat_ne_one]

theorem syncWaitReturn (core : CoreId) : Statement (.syncWaitReturn core) := of_event rfl rfl

theorem barInit (b : BitVec 6) (a : BitVec 5) : Statement (.barInit b a) := by
  obtain ⟨h31, h30, f24, f22, f16, f11⟩ := fields_24_22_16_11 40 0 0 (by decide) (by decide) (by decide) b a rfl
  refine of_control (x := pack (40 * 2 ^ 25 + 0 * 2 ^ 23 + 0 * 2 ^ 0) [(b.toNat, 17), (a.toNat, 12)]) rfl rfl h31 h30 (by decide) ?_
  generalize pack (40 * 2 ^ 25 + 0 * 2 ^ 23 + 0 * 2 ^ 0) [(b.toNat, 17), (a.toNat, 12)] = wd at *
  simp only [rawControl, h30, decodeControl28, f24, f22, f16, f11, BitVec.ofNat_toNat, BitVec.setWidth_eq, and_self, and_true, if_true]

theorem barArrive (b : BitVec 6) : Statement (.barArrive b) := by
  obtain ⟨h31, h30, f24, f22, f16⟩ := fields_24_22_16 40 1 0 (by decide) (by decide) (by decide) b rfl
  refine of_control (x := pack (40 * 2 ^ 25 + 1 * 2 ^ 23 + 0 * 2 ^ 0) [(b.toNat, 17)]) rfl rfl h31 h30 (by decide) ?_
  generalize pack (40 * 2 ^ 25 + 1 * 2 ^ 23 + 0 * 2 ^ 0) [(b.toNat, 17)] = wd at *
  simp only [rawControl, h30, decodeControl28, f24, f22, f16, BitVec.ofNat_toNat, BitVec.setWidth_eq, and_self, and_true, if_true, false_and, and_false, reduceIte, Nat.reduceEqDiff, OfNat.ofNat_ne_zero, OfNat.zero_ne_ofNat, Nat.one_ne_zero, Nat.zero_ne_one, OfNat.one_ne_ofNat, OfNat.ofNat_ne_one]

theorem barWait (b : BitVec 6) : Statement (.barWait b) := by
  obtain ⟨h31, h30, f24, f22, f16⟩ := fields_24_22_16 40 2 0 (by decide) (by decide) (by decide) b rfl
  refine of_control (x := pack (40 * 2 ^ 25 + 2 * 2 ^ 23 + 0 * 2 ^ 0) [(b.toNat, 17)]) rfl rfl h31 h30 (by decide) ?_
  generalize pack (40 * 2 ^ 25 + 2 * 2 ^ 23 + 0 * 2 ^ 0) [(b.toNat, 17)] = wd at *
  simp only [rawControl, h30, decodeControl28, f24, f22, f16, BitVec.ofNat_toNat, BitVec.setWidth_eq, and_self, and_true, if_true, false_and, and_false, reduceIte, Nat.reduceEqDiff, OfNat.ofNat_ne_zero, OfNat.zero_ne_ofNat, Nat.one_ne_zero, Nat.zero_ne_one, OfNat.one_ne_ofNat, OfNat.ofNat_ne_one]

theorem barrierArrivalReceive (k : Nat) : Statement (.barrierArrivalReceive k) := of_event rfl rfl

theorem barWaitReturn (core : CoreId) : Statement (.barWaitReturn core) := of_event rfl rfl

theorem spawn (a : BitVec 5) (b : BitVec 5) (c : BitVec 5) : Statement (.spawn a b c) := by
  obtain ⟨h31, h30, f24, f19, f14, f9⟩ := fields_24_19_14_9 41 0 (by decide) (by decide) a b c rfl
  refine of_control (x := pack (41 * 2 ^ 25 + 0 * 2 ^ 0) [(a.toNat, 20), (b.toNat, 15), (c.toNat, 10)]) rfl rfl h31 h30 (by decide) ?_
  generalize pack (41 * 2 ^ 25 + 0 * 2 ^ 0) [(a.toNat, 20), (b.toNat, 15), (c.toNat, 10)] = wd at *
  simp only [rawControl, h30, decodeControl29, f24, f19, f14, f9, BitVec.ofNat_toNat, BitVec.setWidth_eq, and_self, and_true, if_true]

theorem spawnAccept (core : CoreId) : Statement (.spawnAccept core) := of_event rfl rfl

theorem join (a : BitVec 5) : Statement (.join a) := by
  obtain ⟨h31, h30, f24, f19⟩ := fields_24_19' 41 1 (by decide) (by decide) a rfl
  refine of_control (x := pack (41 * 2 ^ 25 + 1 * 2 ^ 0) [(a.toNat, 20)]) rfl rfl h31 h30 (by decide) ?_
  generalize pack (41 * 2 ^ 25 + 1 * 2 ^ 0) [(a.toNat, 20)] = wd at *
  have n0 : fld wd 9 0 ≠ 0 := fun e => absurd ((fld_of_fld 9 0 f19 (by decide) (by decide) (by decide)).symm.trans (fld_of_fld 9 0 e (by decide) (by decide) (by decide))) (by decide)
  simp only [rawControl, h30, decodeControl29, f24, f19, n0, BitVec.ofNat_toNat, BitVec.setWidth_eq, and_self, and_true, if_true, false_and, and_false, reduceIte, Nat.reduceEqDiff, OfNat.ofNat_ne_zero, OfNat.zero_ne_ofNat, Nat.one_ne_zero, Nat.zero_ne_one, OfNat.one_ne_ofNat, OfNat.ofNat_ne_one]

theorem joinReturn (core : CoreId) : Statement (.joinReturn core) := of_event rfl rfl

theorem done : Statement .done := by
  obtain ⟨h31, h30, f24⟩ := fields_24 41 2 (by decide) (by decide)  rfl
  refine of_control (x := pack (41 * 2 ^ 25 + 2 * 2 ^ 0) []) rfl rfl h31 h30 (by decide) ?_
  generalize pack (41 * 2 ^ 25 + 2 * 2 ^ 0) [] = wd at *
  have n0 : fld wd 9 0 ≠ 0 := fun e => absurd ((fld_of_fld 9 0 f24 (by decide) (by decide) (by decide)).symm.trans (fld_of_fld 9 0 e (by decide) (by decide) (by decide))) (by decide)
  have n1 : fld wd 19 0 ≠ 1 := fun e => absurd ((fld_of_fld 19 0 f24 (by decide) (by decide) (by decide)).symm.trans (fld_of_fld 19 0 e (by decide) (by decide) (by decide))) (by decide)
  simp only [rawControl, h30, decodeControl29, f24, n0, n1, and_self, and_true, if_true, false_and, and_false, reduceIte, Nat.reduceEqDiff, OfNat.ofNat_ne_zero, OfNat.zero_ne_ofNat, Nat.one_ne_zero, Nat.zero_ne_one, OfNat.one_ne_ofNat, OfNat.ofNat_ne_one]

theorem donePerform (core : CoreId) : Statement (.donePerform core) := of_event rfl rfl

theorem cancel (a : BitVec 5) : Statement (.cancel a) := by
  obtain ⟨h31, h30, f24, f19⟩ := fields_24_19' 41 3 (by decide) (by decide) a rfl
  refine of_control (x := pack (41 * 2 ^ 25 + 3 * 2 ^ 0) [(a.toNat, 20)]) rfl rfl h31 h30 (by decide) ?_
  generalize pack (41 * 2 ^ 25 + 3 * 2 ^ 0) [(a.toNat, 20)] = wd at *
  have n0 : fld wd 9 0 ≠ 0 := fun e => absurd ((fld_of_fld 9 0 f19 (by decide) (by decide) (by decide)).symm.trans (fld_of_fld 9 0 e (by decide) (by decide) (by decide))) (by decide)
  have n1 : fld wd 24 0 ≠ 2 := fun e => absurd ((fld_of_fld 19 0 f19 (by decide) (by decide) (by decide)).symm.trans (fld_of_fld 19 0 e (by decide) (by decide) (by decide))) (by decide)
  simp only [rawControl, h30, decodeControl29, f24, f19, n0, n1, BitVec.ofNat_toNat, BitVec.setWidth_eq, and_self, and_true, if_true, false_and, and_false, reduceIte, Nat.reduceEqDiff, OfNat.ofNat_ne_zero, OfNat.zero_ne_ofNat, Nat.one_ne_zero, Nat.zero_ne_one, OfNat.one_ne_ofNat, OfNat.ofNat_ne_one]

theorem rope (a : BitVec 5) : Statement (.rope a) := by
  obtain ⟨h31, h30, f24, f19⟩ := fields_24_19' 42 0 (by decide) (by decide) a rfl
  refine of_control (x := pack (42 * 2 ^ 25 + 0 * 2 ^ 0) [(a.toNat, 20)]) rfl rfl h31 h30 (by decide) ?_
  generalize pack (42 * 2 ^ 25 + 0 * 2 ^ 0) [(a.toNat, 20)] = wd at *
  simp only [rawControl, h30, decodeControl2A, f24, f19, BitVec.ofNat_toNat, BitVec.setWidth_eq, and_self, and_true, if_true]

theorem unrope : Statement .unrope := by
  obtain ⟨h31, h30, f24⟩ := fields_24 42 1 (by decide) (by decide)  rfl
  refine of_control (x := pack (42 * 2 ^ 25 + 1 * 2 ^ 0) []) rfl rfl h31 h30 (by decide) ?_
  generalize pack (42 * 2 ^ 25 + 1 * 2 ^ 0) [] = wd at *
  have n0 : fld wd 19 0 ≠ 0 := fun e => absurd ((fld_of_fld 19 0 f24 (by decide) (by decide) (by decide)).symm.trans (fld_of_fld 19 0 e (by decide) (by decide) (by decide))) (by decide)
  simp only [rawControl, h30, decodeControl2A, f24, n0, and_self, and_true, if_true, false_and, and_false, reduceIte, Nat.reduceEqDiff, OfNat.ofNat_ne_zero, OfNat.zero_ne_ofNat, Nat.one_ne_zero, Nat.zero_ne_one, OfNat.one_ne_ofNat, OfNat.ofNat_ne_one]

theorem rejoin : Statement .rejoin := by
  obtain ⟨h31, h30, f24⟩ := fields_24 42 2 (by decide) (by decide)  rfl
  refine of_control (x := pack (42 * 2 ^ 25 + 2 * 2 ^ 0) []) rfl rfl h31 h30 (by decide) ?_
  generalize pack (42 * 2 ^ 25 + 2 * 2 ^ 0) [] = wd at *
  have n0 : fld wd 19 0 ≠ 0 := fun e => absurd ((fld_of_fld 19 0 f24 (by decide) (by decide) (by decide)).symm.trans (fld_of_fld 19 0 e (by decide) (by decide) (by decide))) (by decide)
  simp only [rawControl, h30, decodeControl2A, f24, n0, and_self, and_true, if_true, false_and, and_false, reduceIte, Nat.reduceEqDiff, OfNat.ofNat_ne_zero, OfNat.zero_ne_ofNat, Nat.one_ne_zero, Nat.zero_ne_one, OfNat.one_ne_ofNat, OfNat.ofNat_ne_one]

theorem ropeForm (core : CoreId) : Statement (.ropeForm core) := of_event rfl rfl

theorem unropeRelease (core : CoreId) : Statement (.unropeRelease core) := of_event rfl rfl

theorem rejoinReturn (core : CoreId) : Statement (.rejoinReturn core) := of_event rfl rfl

theorem rtreeSum (a : BitVec 5) (b : BitVec 5) (c : BitVec 5) : Statement (.rtreeSum a b c) := by
  obtain ⟨h31, h30, f24, f19, f14, f9⟩ := fields_24_19_14_9 43 0 (by decide) (by decide) a b c rfl
  refine of_control (x := pack (43 * 2 ^ 25 + 0 * 2 ^ 0) [(a.toNat, 20), (b.toNat, 15), (c.toNat, 10)]) rfl rfl h31 h30 (by decide) ?_
  generalize pack (43 * 2 ^ 25 + 0 * 2 ^ 0) [(a.toNat, 20), (b.toNat, 15), (c.toNat, 10)] = wd at *
  simp only [rawControl, h30, decodeControl2B, f24, f19, f14, f9, BitVec.ofNat_toNat, BitVec.setWidth_eq, and_self, and_true, if_true]

theorem rtreeMax (a : BitVec 5) (b : BitVec 5) (c : BitVec 5) : Statement (.rtreeMax a b c) := by
  obtain ⟨h31, h30, f24, f19, f14, f9⟩ := fields_24_19_14_9 43 256 (by decide) (by decide) a b c rfl
  refine of_control (x := pack (43 * 2 ^ 25 + 256 * 2 ^ 0) [(a.toNat, 20), (b.toNat, 15), (c.toNat, 10)]) rfl rfl h31 h30 (by decide) ?_
  generalize pack (43 * 2 ^ 25 + 256 * 2 ^ 0) [(a.toNat, 20), (b.toNat, 15), (c.toNat, 10)] = wd at *
  simp only [rawControl, h30, decodeControl2B, f24, f19, f14, f9, BitVec.ofNat_toNat, BitVec.setWidth_eq, and_self, and_true, if_true, false_and, and_false, reduceIte, Nat.reduceEqDiff, OfNat.ofNat_ne_zero, OfNat.zero_ne_ofNat, Nat.one_ne_zero, Nat.zero_ne_one, OfNat.one_ne_ofNat, OfNat.ofNat_ne_one]

theorem rtreeMaxsum (a : BitVec 5) (b : BitVec 5) (c : BitVec 5) : Statement (.rtreeMaxsum a b c) := by
  obtain ⟨h31, h30, f24, f19, f14, f9⟩ := fields_24_19_14_9 43 512 (by decide) (by decide) a b c rfl
  refine of_control (x := pack (43 * 2 ^ 25 + 512 * 2 ^ 0) [(a.toNat, 20), (b.toNat, 15), (c.toNat, 10)]) rfl rfl h31 h30 (by decide) ?_
  generalize pack (43 * 2 ^ 25 + 512 * 2 ^ 0) [(a.toNat, 20), (b.toNat, 15), (c.toNat, 10)] = wd at *
  simp only [rawControl, h30, decodeControl2B, f24, f19, f14, f9, BitVec.ofNat_toNat, BitVec.setWidth_eq, and_self, and_true, if_true, false_and, and_false, reduceIte, Nat.reduceEqDiff, OfNat.ofNat_ne_zero, OfNat.zero_ne_ofNat, Nat.one_ne_zero, Nat.zero_ne_one, OfNat.one_ne_ofNat, OfNat.ofNat_ne_one]

theorem rtreeNodeCombine (ctx : CtxId) (tid : BitVec 16) (node : Nat) : Statement (.rtreeNodeCombine ctx tid node) := of_event rfl rfl

theorem rtreeResult (core : CoreId) : Statement (.rtreeResult core) := of_event rfl rfl

theorem commandQueueRoom (core : CoreId) : Statement (.commandQueueRoom core) := of_event rfl rfl

theorem parameterQueueRoom (core : CoreId) : Statement (.parameterQueueRoom core) := of_event rfl rfl

theorem copyTagFree (core : CoreId) : Statement (.copyTagFree core) := of_event rfl rfl

theorem copyStart (core : CoreId) (tag : BitVec 7) : Statement (.copyStart core tag) := of_event rfl rfl

theorem copyArrival (core : CoreId) (tag : BitVec 7) (off len : Nat) : Statement (.copyArrival core tag off len) := of_event rfl rfl

theorem copyComplete (core : CoreId) (tag : BitVec 7) : Statement (.copyComplete core tag) := of_event rfl rfl

theorem cpyxBlock (lane : BitVec 8) : Statement (.cpyxBlock lane) := of_event rfl rfl

theorem laneTableCheck (lane : BitVec 8) : Statement (.laneTableCheck lane) := of_event rfl rfl

theorem atomPerform (core : CoreId) (tag : BitVec 7) : Statement (.atomPerform core tag) := of_event rfl rfl

theorem gatherElement (core : CoreId) (qw : BitVec 3) : Statement (.gatherElement core qw) := of_event rfl rfl

theorem scatterElement (core : CoreId) (qw : BitVec 3) : Statement (.scatterElement core qw) := of_event rfl rfl

theorem cimModePerform (core : CoreId) : Statement (.cimModePerform core) := of_event rfl rfl

theorem cimModeZeroingEnd (core : CoreId) : Statement (.cimModeZeroingEnd core) := of_event rfl rfl

theorem loopCommandBegin (core : CoreId) : Statement (.loopCommandBegin core) := of_event rfl rfl

theorem vadd (c : Bool) (s : Bool) (d : BitVec 8) (a : BitVec 8) (b : BitVec 8) : Statement (.vadd c s d a b) := by
  obtain ⟨h30, f31, f24, f23, f15, f7⟩ := fields_31_24_23_15_7_v 1  (by decide) c s d a b rfl
  refine of_vector (x := pack (1 * 2 ^ 25) [(ofBool c, 31), (ofBool s, 24), (d.toNat, 16), (a.toNat, 8), (b.toNat, 0)]) rfl h30 (by decide) ?_
  generalize pack (1 * 2 ^ 25) [(ofBool c, 31), (ofBool s, 24), (d.toNat, 16), (a.toNat, 8), (b.toNat, 0)] = wd at *
  simp only [rawVector, h30, decodeVector01, f31, f24, f23, f15, f7, beq_ofBool, BitVec.ofNat_toNat, BitVec.setWidth_eq]

theorem vsub (c : Bool) (s : Bool) (d : BitVec 8) (a : BitVec 8) (b : BitVec 8) : Statement (.vsub c s d a b) := by
  obtain ⟨h30, f31, f24, f23, f15, f7⟩ := fields_31_24_23_15_7_v 2  (by decide) c s d a b rfl
  refine of_vector (x := pack (2 * 2 ^ 25) [(ofBool c, 31), (ofBool s, 24), (d.toNat, 16), (a.toNat, 8), (b.toNat, 0)]) rfl h30 (by decide) ?_
  generalize pack (2 * 2 ^ 25) [(ofBool c, 31), (ofBool s, 24), (d.toNat, 16), (a.toNat, 8), (b.toNat, 0)] = wd at *
  simp only [rawVector, h30, decodeVector02, f31, f24, f23, f15, f7, beq_ofBool, BitVec.ofNat_toNat, BitVec.setWidth_eq]

theorem vmul (c : Bool) (s : Bool) (d : BitVec 8) (a : BitVec 8) (b : BitVec 8) : Statement (.vmul c s d a b) := by
  obtain ⟨h30, f31, f24, f23, f15, f7⟩ := fields_31_24_23_15_7_v 3  (by decide) c s d a b rfl
  refine of_vector (x := pack (3 * 2 ^ 25) [(ofBool c, 31), (ofBool s, 24), (d.toNat, 16), (a.toNat, 8), (b.toNat, 0)]) rfl h30 (by decide) ?_
  generalize pack (3 * 2 ^ 25) [(ofBool c, 31), (ofBool s, 24), (d.toNat, 16), (a.toNat, 8), (b.toNat, 0)] = wd at *
  simp only [rawVector, h30, decodeVector03, f31, f24, f23, f15, f7, beq_ofBool, BitVec.ofNat_toNat, BitVec.setWidth_eq]

theorem vdiv (c : Bool) (s : Bool) (d : BitVec 8) (a : BitVec 8) (b : BitVec 8) : Statement (.vdiv c s d a b) := by
  obtain ⟨h30, f31, f24, f23, f15, f7⟩ := fields_31_24_23_15_7_v 4  (by decide) c s d a b rfl
  refine of_vector (x := pack (4 * 2 ^ 25) [(ofBool c, 31), (ofBool s, 24), (d.toNat, 16), (a.toNat, 8), (b.toNat, 0)]) rfl h30 (by decide) ?_
  generalize pack (4 * 2 ^ 25) [(ofBool c, 31), (ofBool s, 24), (d.toNat, 16), (a.toNat, 8), (b.toNat, 0)] = wd at *
  simp only [rawVector, h30, decodeVector04, f31, f24, f23, f15, f7, beq_ofBool, BitVec.ofNat_toNat, BitVec.setWidth_eq]

theorem vfma (c : Bool) (s : Bool) (d : BitVec 8) (a : BitVec 8) (b : BitVec 8) : Statement (.vfma c s d a b) := by
  obtain ⟨h30, f31, f24, f23, f15, f7⟩ := fields_31_24_23_15_7_v 5  (by decide) c s d a b rfl
  refine of_vector (x := pack (5 * 2 ^ 25) [(ofBool c, 31), (ofBool s, 24), (d.toNat, 16), (a.toNat, 8), (b.toNat, 0)]) rfl h30 (by decide) ?_
  generalize pack (5 * 2 ^ 25) [(ofBool c, 31), (ofBool s, 24), (d.toNat, 16), (a.toNat, 8), (b.toNat, 0)] = wd at *
  simp only [rawVector, h30, decodeVector05, f31, f24, f23, f15, f7, beq_ofBool, BitVec.ofNat_toNat, BitVec.setWidth_eq]

theorem vfnma (c : Bool) (s : Bool) (d : BitVec 8) (a : BitVec 8) (b : BitVec 8) : Statement (.vfnma c s d a b) := by
  obtain ⟨h30, f31, f24, f23, f15, f7⟩ := fields_31_24_23_15_7_v 6  (by decide) c s d a b rfl
  refine of_vector (x := pack (6 * 2 ^ 25) [(ofBool c, 31), (ofBool s, 24), (d.toNat, 16), (a.toNat, 8), (b.toNat, 0)]) rfl h30 (by decide) ?_
  generalize pack (6 * 2 ^ 25) [(ofBool c, 31), (ofBool s, 24), (d.toNat, 16), (a.toNat, 8), (b.toNat, 0)] = wd at *
  simp only [rawVector, h30, decodeVector06, f31, f24, f23, f15, f7, beq_ofBool, BitVec.ofNat_toNat, BitVec.setWidth_eq]

theorem vmin (c : Bool) (s : Bool) (d : BitVec 8) (a : BitVec 8) (b : BitVec 8) : Statement (.vmin c s d a b) := by
  obtain ⟨h30, f31, f24, f23, f15, f7⟩ := fields_31_24_23_15_7_v 7  (by decide) c s d a b rfl
  refine of_vector (x := pack (7 * 2 ^ 25) [(ofBool c, 31), (ofBool s, 24), (d.toNat, 16), (a.toNat, 8), (b.toNat, 0)]) rfl h30 (by decide) ?_
  generalize pack (7 * 2 ^ 25) [(ofBool c, 31), (ofBool s, 24), (d.toNat, 16), (a.toNat, 8), (b.toNat, 0)] = wd at *
  simp only [rawVector, h30, decodeVector07, f31, f24, f23, f15, f7, beq_ofBool, BitVec.ofNat_toNat, BitVec.setWidth_eq]

theorem vmax (c : Bool) (s : Bool) (d : BitVec 8) (a : BitVec 8) (b : BitVec 8) : Statement (.vmax c s d a b) := by
  obtain ⟨h30, f31, f24, f23, f15, f7⟩ := fields_31_24_23_15_7_v 8  (by decide) c s d a b rfl
  refine of_vector (x := pack (8 * 2 ^ 25) [(ofBool c, 31), (ofBool s, 24), (d.toNat, 16), (a.toNat, 8), (b.toNat, 0)]) rfl h30 (by decide) ?_
  generalize pack (8 * 2 ^ 25) [(ofBool c, 31), (ofBool s, 24), (d.toNat, 16), (a.toNat, 8), (b.toNat, 0)] = wd at *
  simp only [rawVector, h30, decodeVector08, f31, f24, f23, f15, f7, beq_ofBool, BitVec.ofNat_toNat, BitVec.setWidth_eq]

theorem vcsgn (c : Bool) (s : Bool) (d : BitVec 8) (a : BitVec 8) (b : BitVec 8) : Statement (.vcsgn c s d a b) := by
  obtain ⟨h30, f31, f24, f23, f15, f7⟩ := fields_31_24_23_15_7_v 9  (by decide) c s d a b rfl
  refine of_vector (x := pack (9 * 2 ^ 25) [(ofBool c, 31), (ofBool s, 24), (d.toNat, 16), (a.toNat, 8), (b.toNat, 0)]) rfl h30 (by decide) ?_
  generalize pack (9 * 2 ^ 25) [(ofBool c, 31), (ofBool s, 24), (d.toNat, 16), (a.toNat, 8), (b.toNat, 0)] = wd at *
  simp only [rawVector, h30, decodeVector09, f31, f24, f23, f15, f7, beq_ofBool, BitVec.ofNat_toNat, BitVec.setWidth_eq]

theorem vmov (c : Bool) (s : Bool) (d : BitVec 8) (a : BitVec 8) : Statement (.vmov c s d a) := by
  obtain ⟨h30, f31, f24, f23, f15, f7⟩ := fields_31_24_23_15_7_v' 10 0 (by decide) (by decide) c s d a rfl
  refine of_vector (x := pack (10 * 2 ^ 25 + 0 * 2 ^ 0) [(ofBool c, 31), (ofBool s, 24), (d.toNat, 16), (a.toNat, 8)]) rfl h30 (by decide) ?_
  generalize pack (10 * 2 ^ 25 + 0 * 2 ^ 0) [(ofBool c, 31), (ofBool s, 24), (d.toNat, 16), (a.toNat, 8)] = wd at *
  simp only [rawVector, h30, decodeVector0A, f31, f24, f23, f15, f7, beq_ofBool, BitVec.ofNat_toNat, BitVec.setWidth_eq, and_self, and_true, if_true]

theorem vneg (c : Bool) (s : Bool) (d : BitVec 8) (a : BitVec 8) : Statement (.vneg c s d a) := by
  obtain ⟨h30, f31, f24, f23, f15, f7⟩ := fields_31_24_23_15_7_v' 10 1 (by decide) (by decide) c s d a rfl
  refine of_vector (x := pack (10 * 2 ^ 25 + 1 * 2 ^ 0) [(ofBool c, 31), (ofBool s, 24), (d.toNat, 16), (a.toNat, 8)]) rfl h30 (by decide) ?_
  generalize pack (10 * 2 ^ 25 + 1 * 2 ^ 0) [(ofBool c, 31), (ofBool s, 24), (d.toNat, 16), (a.toNat, 8)] = wd at *
  simp only [rawVector, h30, decodeVector0A, f31, f24, f23, f15, f7, beq_ofBool, BitVec.ofNat_toNat, BitVec.setWidth_eq, and_self, and_true, if_true, false_and, and_false, reduceIte, Nat.reduceEqDiff, OfNat.ofNat_ne_zero, OfNat.zero_ne_ofNat, Nat.one_ne_zero, Nat.zero_ne_one, OfNat.one_ne_ofNat, OfNat.ofNat_ne_one]

theorem vabs (c : Bool) (s : Bool) (d : BitVec 8) (a : BitVec 8) : Statement (.vabs c s d a) := by
  obtain ⟨h30, f31, f24, f23, f15, f7⟩ := fields_31_24_23_15_7_v' 10 2 (by decide) (by decide) c s d a rfl
  refine of_vector (x := pack (10 * 2 ^ 25 + 2 * 2 ^ 0) [(ofBool c, 31), (ofBool s, 24), (d.toNat, 16), (a.toNat, 8)]) rfl h30 (by decide) ?_
  generalize pack (10 * 2 ^ 25 + 2 * 2 ^ 0) [(ofBool c, 31), (ofBool s, 24), (d.toNat, 16), (a.toNat, 8)] = wd at *
  simp only [rawVector, h30, decodeVector0A, f31, f24, f23, f15, f7, beq_ofBool, BitVec.ofNat_toNat, BitVec.setWidth_eq, and_self, and_true, if_true, false_and, and_false, reduceIte, Nat.reduceEqDiff, OfNat.ofNat_ne_zero, OfNat.zero_ne_ofNat, Nat.one_ne_zero, Nat.zero_ne_one, OfNat.one_ne_ofNat, OfNat.ofNat_ne_one]

theorem vsqrt (c : Bool) (s : Bool) (d : BitVec 8) (a : BitVec 8) : Statement (.vsqrt c s d a) := by
  obtain ⟨h30, f31, f24, f23, f15, f7⟩ := fields_31_24_23_15_7_v' 10 3 (by decide) (by decide) c s d a rfl
  refine of_vector (x := pack (10 * 2 ^ 25 + 3 * 2 ^ 0) [(ofBool c, 31), (ofBool s, 24), (d.toNat, 16), (a.toNat, 8)]) rfl h30 (by decide) ?_
  generalize pack (10 * 2 ^ 25 + 3 * 2 ^ 0) [(ofBool c, 31), (ofBool s, 24), (d.toNat, 16), (a.toNat, 8)] = wd at *
  simp only [rawVector, h30, decodeVector0A, f31, f24, f23, f15, f7, beq_ofBool, BitVec.ofNat_toNat, BitVec.setWidth_eq, and_self, and_true, if_true, false_and, and_false, reduceIte, Nat.reduceEqDiff, OfNat.ofNat_ne_zero, OfNat.zero_ne_ofNat, Nat.one_ne_zero, Nat.zero_ne_one, OfNat.one_ne_ofNat, OfNat.ofNat_ne_one]

theorem vrsqrt (c : Bool) (s : Bool) (d : BitVec 8) (a : BitVec 8) : Statement (.vrsqrt c s d a) := by
  obtain ⟨h30, f31, f24, f23, f15, f7⟩ := fields_31_24_23_15_7_v' 10 4 (by decide) (by decide) c s d a rfl
  refine of_vector (x := pack (10 * 2 ^ 25 + 4 * 2 ^ 0) [(ofBool c, 31), (ofBool s, 24), (d.toNat, 16), (a.toNat, 8)]) rfl h30 (by decide) ?_
  generalize pack (10 * 2 ^ 25 + 4 * 2 ^ 0) [(ofBool c, 31), (ofBool s, 24), (d.toNat, 16), (a.toNat, 8)] = wd at *
  simp only [rawVector, h30, decodeVector0A, f31, f24, f23, f15, f7, beq_ofBool, BitVec.ofNat_toNat, BitVec.setWidth_eq, and_self, and_true, if_true, false_and, and_false, reduceIte, Nat.reduceEqDiff, OfNat.ofNat_ne_zero, OfNat.zero_ne_ofNat, Nat.one_ne_zero, Nat.zero_ne_one, OfNat.one_ne_ofNat, OfNat.ofNat_ne_one]

theorem vrcp (c : Bool) (s : Bool) (d : BitVec 8) (a : BitVec 8) : Statement (.vrcp c s d a) := by
  obtain ⟨h30, f31, f24, f23, f15, f7⟩ := fields_31_24_23_15_7_v' 10 5 (by decide) (by decide) c s d a rfl
  refine of_vector (x := pack (10 * 2 ^ 25 + 5 * 2 ^ 0) [(ofBool c, 31), (ofBool s, 24), (d.toNat, 16), (a.toNat, 8)]) rfl h30 (by decide) ?_
  generalize pack (10 * 2 ^ 25 + 5 * 2 ^ 0) [(ofBool c, 31), (ofBool s, 24), (d.toNat, 16), (a.toNat, 8)] = wd at *
  simp only [rawVector, h30, decodeVector0A, f31, f24, f23, f15, f7, beq_ofBool, BitVec.ofNat_toNat, BitVec.setWidth_eq, and_self, and_true, if_true, false_and, and_false, reduceIte, Nat.reduceEqDiff, OfNat.ofNat_ne_zero, OfNat.zero_ne_ofNat, Nat.one_ne_zero, Nat.zero_ne_one, OfNat.one_ne_ofNat, OfNat.ofNat_ne_one]

theorem vexp (c : Bool) (s : Bool) (d : BitVec 8) (a : BitVec 8) : Statement (.vexp c s d a) := by
  obtain ⟨h30, f31, f24, f23, f15, f7⟩ := fields_31_24_23_15_7_v' 10 6 (by decide) (by decide) c s d a rfl
  refine of_vector (x := pack (10 * 2 ^ 25 + 6 * 2 ^ 0) [(ofBool c, 31), (ofBool s, 24), (d.toNat, 16), (a.toNat, 8)]) rfl h30 (by decide) ?_
  generalize pack (10 * 2 ^ 25 + 6 * 2 ^ 0) [(ofBool c, 31), (ofBool s, 24), (d.toNat, 16), (a.toNat, 8)] = wd at *
  simp only [rawVector, h30, decodeVector0A, f31, f24, f23, f15, f7, beq_ofBool, BitVec.ofNat_toNat, BitVec.setWidth_eq, and_self, and_true, if_true, false_and, and_false, reduceIte, Nat.reduceEqDiff, OfNat.ofNat_ne_zero, OfNat.zero_ne_ofNat, Nat.one_ne_zero, Nat.zero_ne_one, OfNat.one_ne_ofNat, OfNat.ofNat_ne_one]

theorem vlog (c : Bool) (s : Bool) (d : BitVec 8) (a : BitVec 8) : Statement (.vlog c s d a) := by
  obtain ⟨h30, f31, f24, f23, f15, f7⟩ := fields_31_24_23_15_7_v' 10 7 (by decide) (by decide) c s d a rfl
  refine of_vector (x := pack (10 * 2 ^ 25 + 7 * 2 ^ 0) [(ofBool c, 31), (ofBool s, 24), (d.toNat, 16), (a.toNat, 8)]) rfl h30 (by decide) ?_
  generalize pack (10 * 2 ^ 25 + 7 * 2 ^ 0) [(ofBool c, 31), (ofBool s, 24), (d.toNat, 16), (a.toNat, 8)] = wd at *
  simp only [rawVector, h30, decodeVector0A, f31, f24, f23, f15, f7, beq_ofBool, BitVec.ofNat_toNat, BitVec.setWidth_eq, and_self, and_true, if_true, false_and, and_false, reduceIte, Nat.reduceEqDiff, OfNat.ofNat_ne_zero, OfNat.zero_ne_ofNat, Nat.one_ne_zero, Nat.zero_ne_one, OfNat.one_ne_ofNat, OfNat.ofNat_ne_one]

theorem vtanh (c : Bool) (s : Bool) (d : BitVec 8) (a : BitVec 8) : Statement (.vtanh c s d a) := by
  obtain ⟨h30, f31, f24, f23, f15, f7⟩ := fields_31_24_23_15_7_v' 10 8 (by decide) (by decide) c s d a rfl
  refine of_vector (x := pack (10 * 2 ^ 25 + 8 * 2 ^ 0) [(ofBool c, 31), (ofBool s, 24), (d.toNat, 16), (a.toNat, 8)]) rfl h30 (by decide) ?_
  generalize pack (10 * 2 ^ 25 + 8 * 2 ^ 0) [(ofBool c, 31), (ofBool s, 24), (d.toNat, 16), (a.toNat, 8)] = wd at *
  simp only [rawVector, h30, decodeVector0A, f31, f24, f23, f15, f7, beq_ofBool, BitVec.ofNat_toNat, BitVec.setWidth_eq, and_self, and_true, if_true, false_and, and_false, reduceIte, Nat.reduceEqDiff, OfNat.ofNat_ne_zero, OfNat.zero_ne_ofNat, Nat.one_ne_zero, Nat.zero_ne_one, OfNat.one_ne_ofNat, OfNat.ofNat_ne_one]

theorem vsigm (c : Bool) (s : Bool) (d : BitVec 8) (a : BitVec 8) : Statement (.vsigm c s d a) := by
  obtain ⟨h30, f31, f24, f23, f15, f7⟩ := fields_31_24_23_15_7_v' 10 9 (by decide) (by decide) c s d a rfl
  refine of_vector (x := pack (10 * 2 ^ 25 + 9 * 2 ^ 0) [(ofBool c, 31), (ofBool s, 24), (d.toNat, 16), (a.toNat, 8)]) rfl h30 (by decide) ?_
  generalize pack (10 * 2 ^ 25 + 9 * 2 ^ 0) [(ofBool c, 31), (ofBool s, 24), (d.toNat, 16), (a.toNat, 8)] = wd at *
  simp only [rawVector, h30, decodeVector0A, f31, f24, f23, f15, f7, beq_ofBool, BitVec.ofNat_toNat, BitVec.setWidth_eq, and_self, and_true, if_true, false_and, and_false, reduceIte, Nat.reduceEqDiff, OfNat.ofNat_ne_zero, OfNat.zero_ne_ofNat, Nat.one_ne_zero, Nat.zero_ne_one, OfNat.one_ne_ofNat, OfNat.ofNat_ne_one]

theorem vsin (c : Bool) (s : Bool) (d : BitVec 8) (a : BitVec 8) : Statement (.vsin c s d a) := by
  obtain ⟨h30, f31, f24, f23, f15, f7⟩ := fields_31_24_23_15_7_v' 10 10 (by decide) (by decide) c s d a rfl
  refine of_vector (x := pack (10 * 2 ^ 25 + 10 * 2 ^ 0) [(ofBool c, 31), (ofBool s, 24), (d.toNat, 16), (a.toNat, 8)]) rfl h30 (by decide) ?_
  generalize pack (10 * 2 ^ 25 + 10 * 2 ^ 0) [(ofBool c, 31), (ofBool s, 24), (d.toNat, 16), (a.toNat, 8)] = wd at *
  simp only [rawVector, h30, decodeVector0A, f31, f24, f23, f15, f7, beq_ofBool, BitVec.ofNat_toNat, BitVec.setWidth_eq, and_self, and_true, if_true, false_and, and_false, reduceIte, Nat.reduceEqDiff, OfNat.ofNat_ne_zero, OfNat.zero_ne_ofNat, Nat.one_ne_zero, Nat.zero_ne_one, OfNat.one_ne_ofNat, OfNat.ofNat_ne_one]

theorem vcos (c : Bool) (s : Bool) (d : BitVec 8) (a : BitVec 8) : Statement (.vcos c s d a) := by
  obtain ⟨h30, f31, f24, f23, f15, f7⟩ := fields_31_24_23_15_7_v' 10 11 (by decide) (by decide) c s d a rfl
  refine of_vector (x := pack (10 * 2 ^ 25 + 11 * 2 ^ 0) [(ofBool c, 31), (ofBool s, 24), (d.toNat, 16), (a.toNat, 8)]) rfl h30 (by decide) ?_
  generalize pack (10 * 2 ^ 25 + 11 * 2 ^ 0) [(ofBool c, 31), (ofBool s, 24), (d.toNat, 16), (a.toNat, 8)] = wd at *
  simp only [rawVector, h30, decodeVector0A, f31, f24, f23, f15, f7, beq_ofBool, BitVec.ofNat_toNat, BitVec.setWidth_eq, and_self, and_true, if_true, false_and, and_false, reduceIte, Nat.reduceEqDiff, OfNat.ofNat_ne_zero, OfNat.zero_ne_ofNat, Nat.one_ne_zero, Nat.zero_ne_one, OfNat.one_ne_ofNat, OfNat.ofNat_ne_one]

theorem vcmpeq (c : Bool) (s : Bool) (d : BitVec 8) (a : BitVec 8) (b : BitVec 8) : Statement (.vcmpeq c s d a b) := by
  obtain ⟨h30, f31, f24, f23, f15, f7⟩ := fields_31_24_23_15_7_v 11  (by decide) c s d a b rfl
  refine of_vector (x := pack (11 * 2 ^ 25) [(ofBool c, 31), (ofBool s, 24), (d.toNat, 16), (a.toNat, 8), (b.toNat, 0)]) rfl h30 (by decide) ?_
  generalize pack (11 * 2 ^ 25) [(ofBool c, 31), (ofBool s, 24), (d.toNat, 16), (a.toNat, 8), (b.toNat, 0)] = wd at *
  simp only [rawVector, h30, decodeVector0B, f31, f24, f23, f15, f7, beq_ofBool, BitVec.ofNat_toNat, BitVec.setWidth_eq]

theorem vcmplt (c : Bool) (s : Bool) (d : BitVec 8) (a : BitVec 8) (b : BitVec 8) : Statement (.vcmplt c s d a b) := by
  obtain ⟨h30, f31, f24, f23, f15, f7⟩ := fields_31_24_23_15_7_v 12  (by decide) c s d a b rfl
  refine of_vector (x := pack (12 * 2 ^ 25) [(ofBool c, 31), (ofBool s, 24), (d.toNat, 16), (a.toNat, 8), (b.toNat, 0)]) rfl h30 (by decide) ?_
  generalize pack (12 * 2 ^ 25) [(ofBool c, 31), (ofBool s, 24), (d.toNat, 16), (a.toNat, 8), (b.toNat, 0)] = wd at *
  simp only [rawVector, h30, decodeVector0C, f31, f24, f23, f15, f7, beq_ofBool, BitVec.ofNat_toNat, BitVec.setWidth_eq]

theorem vcmple (c : Bool) (s : Bool) (d : BitVec 8) (a : BitVec 8) (b : BitVec 8) : Statement (.vcmple c s d a b) := by
  obtain ⟨h30, f31, f24, f23, f15, f7⟩ := fields_31_24_23_15_7_v 13  (by decide) c s d a b rfl
  refine of_vector (x := pack (13 * 2 ^ 25) [(ofBool c, 31), (ofBool s, 24), (d.toNat, 16), (a.toNat, 8), (b.toNat, 0)]) rfl h30 (by decide) ?_
  generalize pack (13 * 2 ^ 25) [(ofBool c, 31), (ofBool s, 24), (d.toNat, 16), (a.toNat, 8), (b.toNat, 0)] = wd at *
  simp only [rawVector, h30, decodeVector0D, f31, f24, f23, f15, f7, beq_ofBool, BitVec.ofNat_toNat, BitVec.setWidth_eq]

theorem viadd (c : Bool) (s : Bool) (d : BitVec 8) (a : BitVec 8) (b : BitVec 8) : Statement (.viadd c s d a b) := by
  obtain ⟨h30, f31, f24, f23, f15, f7⟩ := fields_31_24_23_15_7_v 14  (by decide) c s d a b rfl
  refine of_vector (x := pack (14 * 2 ^ 25) [(ofBool c, 31), (ofBool s, 24), (d.toNat, 16), (a.toNat, 8), (b.toNat, 0)]) rfl h30 (by decide) ?_
  generalize pack (14 * 2 ^ 25) [(ofBool c, 31), (ofBool s, 24), (d.toNat, 16), (a.toNat, 8), (b.toNat, 0)] = wd at *
  simp only [rawVector, h30, decodeVector0E, f31, f24, f23, f15, f7, beq_ofBool, BitVec.ofNat_toNat, BitVec.setWidth_eq]

theorem visub (c : Bool) (s : Bool) (d : BitVec 8) (a : BitVec 8) (b : BitVec 8) : Statement (.visub c s d a b) := by
  obtain ⟨h30, f31, f24, f23, f15, f7⟩ := fields_31_24_23_15_7_v 15  (by decide) c s d a b rfl
  refine of_vector (x := pack (15 * 2 ^ 25) [(ofBool c, 31), (ofBool s, 24), (d.toNat, 16), (a.toNat, 8), (b.toNat, 0)]) rfl h30 (by decide) ?_
  generalize pack (15 * 2 ^ 25) [(ofBool c, 31), (ofBool s, 24), (d.toNat, 16), (a.toNat, 8), (b.toNat, 0)] = wd at *
  simp only [rawVector, h30, decodeVector0F, f31, f24, f23, f15, f7, beq_ofBool, BitVec.ofNat_toNat, BitVec.setWidth_eq]

theorem vimul (c : Bool) (s : Bool) (d : BitVec 8) (a : BitVec 8) (b : BitVec 8) : Statement (.vimul c s d a b) := by
  obtain ⟨h30, f31, f24, f23, f15, f7⟩ := fields_31_24_23_15_7_v 16  (by decide) c s d a b rfl
  refine of_vector (x := pack (16 * 2 ^ 25) [(ofBool c, 31), (ofBool s, 24), (d.toNat, 16), (a.toNat, 8), (b.toNat, 0)]) rfl h30 (by decide) ?_
  generalize pack (16 * 2 ^ 25) [(ofBool c, 31), (ofBool s, 24), (d.toNat, 16), (a.toNat, 8), (b.toNat, 0)] = wd at *
  simp only [rawVector, h30, decodeVector10, f31, f24, f23, f15, f7, beq_ofBool, BitVec.ofNat_toNat, BitVec.setWidth_eq]

theorem vimin (c : Bool) (s : Bool) (d : BitVec 8) (a : BitVec 8) (b : BitVec 8) : Statement (.vimin c s d a b) := by
  obtain ⟨h30, f31, f24, f23, f15, f7⟩ := fields_31_24_23_15_7_v 17  (by decide) c s d a b rfl
  refine of_vector (x := pack (17 * 2 ^ 25) [(ofBool c, 31), (ofBool s, 24), (d.toNat, 16), (a.toNat, 8), (b.toNat, 0)]) rfl h30 (by decide) ?_
  generalize pack (17 * 2 ^ 25) [(ofBool c, 31), (ofBool s, 24), (d.toNat, 16), (a.toNat, 8), (b.toNat, 0)] = wd at *
  simp only [rawVector, h30, decodeVector11, f31, f24, f23, f15, f7, beq_ofBool, BitVec.ofNat_toNat, BitVec.setWidth_eq]

theorem vimax (c : Bool) (s : Bool) (d : BitVec 8) (a : BitVec 8) (b : BitVec 8) : Statement (.vimax c s d a b) := by
  obtain ⟨h30, f31, f24, f23, f15, f7⟩ := fields_31_24_23_15_7_v 18  (by decide) c s d a b rfl
  refine of_vector (x := pack (18 * 2 ^ 25) [(ofBool c, 31), (ofBool s, 24), (d.toNat, 16), (a.toNat, 8), (b.toNat, 0)]) rfl h30 (by decide) ?_
  generalize pack (18 * 2 ^ 25) [(ofBool c, 31), (ofBool s, 24), (d.toNat, 16), (a.toNat, 8), (b.toNat, 0)] = wd at *
  simp only [rawVector, h30, decodeVector12, f31, f24, f23, f15, f7, beq_ofBool, BitVec.ofNat_toNat, BitVec.setWidth_eq]

theorem vand (c : Bool) (s : Bool) (d : BitVec 8) (a : BitVec 8) (b : BitVec 8) : Statement (.vand c s d a b) := by
  obtain ⟨h30, f31, f24, f23, f15, f7⟩ := fields_31_24_23_15_7_v 19  (by decide) c s d a b rfl
  refine of_vector (x := pack (19 * 2 ^ 25) [(ofBool c, 31), (ofBool s, 24), (d.toNat, 16), (a.toNat, 8), (b.toNat, 0)]) rfl h30 (by decide) ?_
  generalize pack (19 * 2 ^ 25) [(ofBool c, 31), (ofBool s, 24), (d.toNat, 16), (a.toNat, 8), (b.toNat, 0)] = wd at *
  simp only [rawVector, h30, decodeVector13, f31, f24, f23, f15, f7, beq_ofBool, BitVec.ofNat_toNat, BitVec.setWidth_eq]

theorem vor (c : Bool) (s : Bool) (d : BitVec 8) (a : BitVec 8) (b : BitVec 8) : Statement (.vor c s d a b) := by
  obtain ⟨h30, f31, f24, f23, f15, f7⟩ := fields_31_24_23_15_7_v 20  (by decide) c s d a b rfl
  refine of_vector (x := pack (20 * 2 ^ 25) [(ofBool c, 31), (ofBool s, 24), (d.toNat, 16), (a.toNat, 8), (b.toNat, 0)]) rfl h30 (by decide) ?_
  generalize pack (20 * 2 ^ 25) [(ofBool c, 31), (ofBool s, 24), (d.toNat, 16), (a.toNat, 8), (b.toNat, 0)] = wd at *
  simp only [rawVector, h30, decodeVector14, f31, f24, f23, f15, f7, beq_ofBool, BitVec.ofNat_toNat, BitVec.setWidth_eq]

theorem vxor (c : Bool) (s : Bool) (d : BitVec 8) (a : BitVec 8) (b : BitVec 8) : Statement (.vxor c s d a b) := by
  obtain ⟨h30, f31, f24, f23, f15, f7⟩ := fields_31_24_23_15_7_v 21  (by decide) c s d a b rfl
  refine of_vector (x := pack (21 * 2 ^ 25) [(ofBool c, 31), (ofBool s, 24), (d.toNat, 16), (a.toNat, 8), (b.toNat, 0)]) rfl h30 (by decide) ?_
  generalize pack (21 * 2 ^ 25) [(ofBool c, 31), (ofBool s, 24), (d.toNat, 16), (a.toNat, 8), (b.toNat, 0)] = wd at *
  simp only [rawVector, h30, decodeVector15, f31, f24, f23, f15, f7, beq_ofBool, BitVec.ofNat_toNat, BitVec.setWidth_eq]

theorem vshl (c : Bool) (s : Bool) (d : BitVec 8) (a : BitVec 8) (b : BitVec 8) : Statement (.vshl c s d a b) := by
  obtain ⟨h30, f31, f24, f23, f15, f7⟩ := fields_31_24_23_15_7_v 22  (by decide) c s d a b rfl
  refine of_vector (x := pack (22 * 2 ^ 25) [(ofBool c, 31), (ofBool s, 24), (d.toNat, 16), (a.toNat, 8), (b.toNat, 0)]) rfl h30 (by decide) ?_
  generalize pack (22 * 2 ^ 25) [(ofBool c, 31), (ofBool s, 24), (d.toNat, 16), (a.toNat, 8), (b.toNat, 0)] = wd at *
  simp only [rawVector, h30, decodeVector16, f31, f24, f23, f15, f7, beq_ofBool, BitVec.ofNat_toNat, BitVec.setWidth_eq]

theorem vshr (c : Bool) (s : Bool) (d : BitVec 8) (a : BitVec 8) (b : BitVec 8) : Statement (.vshr c s d a b) := by
  obtain ⟨h30, f31, f24, f23, f15, f7⟩ := fields_31_24_23_15_7_v 23  (by decide) c s d a b rfl
  refine of_vector (x := pack (23 * 2 ^ 25) [(ofBool c, 31), (ofBool s, 24), (d.toNat, 16), (a.toNat, 8), (b.toNat, 0)]) rfl h30 (by decide) ?_
  generalize pack (23 * 2 ^ 25) [(ofBool c, 31), (ofBool s, 24), (d.toNat, 16), (a.toNat, 8), (b.toNat, 0)] = wd at *
  simp only [rawVector, h30, decodeVector17, f31, f24, f23, f15, f7, beq_ofBool, BitVec.ofNat_toNat, BitVec.setWidth_eq]

theorem vsar (c : Bool) (s : Bool) (d : BitVec 8) (a : BitVec 8) (b : BitVec 8) : Statement (.vsar c s d a b) := by
  obtain ⟨h30, f31, f24, f23, f15, f7⟩ := fields_31_24_23_15_7_v 24  (by decide) c s d a b rfl
  refine of_vector (x := pack (24 * 2 ^ 25) [(ofBool c, 31), (ofBool s, 24), (d.toNat, 16), (a.toNat, 8), (b.toNat, 0)]) rfl h30 (by decide) ?_
  generalize pack (24 * 2 ^ 25) [(ofBool c, 31), (ofBool s, 24), (d.toNat, 16), (a.toNat, 8), (b.toNat, 0)] = wd at *
  simp only [rawVector, h30, decodeVector18, f31, f24, f23, f15, f7, beq_ofBool, BitVec.ofNat_toNat, BitVec.setWidth_eq]

theorem vicmpeq (c : Bool) (s : Bool) (d : BitVec 8) (a : BitVec 8) (b : BitVec 8) : Statement (.vicmpeq c s d a b) := by
  obtain ⟨h30, f31, f24, f23, f15, f7⟩ := fields_31_24_23_15_7_v 25  (by decide) c s d a b rfl
  refine of_vector (x := pack (25 * 2 ^ 25) [(ofBool c, 31), (ofBool s, 24), (d.toNat, 16), (a.toNat, 8), (b.toNat, 0)]) rfl h30 (by decide) ?_
  generalize pack (25 * 2 ^ 25) [(ofBool c, 31), (ofBool s, 24), (d.toNat, 16), (a.toNat, 8), (b.toNat, 0)] = wd at *
  simp only [rawVector, h30, decodeVector19, f31, f24, f23, f15, f7, beq_ofBool, BitVec.ofNat_toNat, BitVec.setWidth_eq]

theorem vicmplt (c : Bool) (s : Bool) (d : BitVec 8) (a : BitVec 8) (b : BitVec 8) : Statement (.vicmplt c s d a b) := by
  obtain ⟨h30, f31, f24, f23, f15, f7⟩ := fields_31_24_23_15_7_v 26  (by decide) c s d a b rfl
  refine of_vector (x := pack (26 * 2 ^ 25) [(ofBool c, 31), (ofBool s, 24), (d.toNat, 16), (a.toNat, 8), (b.toNat, 0)]) rfl h30 (by decide) ?_
  generalize pack (26 * 2 ^ 25) [(ofBool c, 31), (ofBool s, 24), (d.toNat, 16), (a.toNat, 8), (b.toNat, 0)] = wd at *
  simp only [rawVector, h30, decodeVector1A, f31, f24, f23, f15, f7, beq_ofBool, BitVec.ofNat_toNat, BitVec.setWidth_eq]

theorem vsel (c : Bool) (s : Bool) (d : BitVec 8) (a : BitVec 8) (b : BitVec 8) : Statement (.vsel c s d a b) := by
  obtain ⟨h30, f31, f24, f23, f15, f7⟩ := fields_31_24_23_15_7_v 27  (by decide) c s d a b rfl
  refine of_vector (x := pack (27 * 2 ^ 25) [(ofBool c, 31), (ofBool s, 24), (d.toNat, 16), (a.toNat, 8), (b.toNat, 0)]) rfl h30 (by decide) ?_
  generalize pack (27 * 2 ^ 25) [(ofBool c, 31), (ofBool s, 24), (d.toNat, 16), (a.toNat, 8), (b.toNat, 0)] = wd at *
  simp only [rawVector, h30, decodeVector1B, f31, f24, f23, f15, f7, beq_ofBool, BitVec.ofNat_toNat, BitVec.setWidth_eq]

theorem cvtFf (c : Bool) (s : Bool) (d : BitVec 8) (a : BitVec 8) (t : Bool) : Statement (.cvtFf c s d a t) := by
  obtain ⟨h30, f31, f24, f23, f15, f7, f5, f4⟩ := fields_31_24_23_15_7_5_4_v 28 0 0 (by decide) (by decide) (by decide) c s d a t rfl
  refine of_vector (x := pack (28 * 2 ^ 25 + 0 * 2 ^ 6 + 0 * 2 ^ 0) [(ofBool c, 31), (ofBool s, 24), (d.toNat, 16), (a.toNat, 8), (ofBool t, 5)]) rfl h30 (by decide) ?_
  generalize pack (28 * 2 ^ 25 + 0 * 2 ^ 6 + 0 * 2 ^ 0) [(ofBool c, 31), (ofBool s, 24), (d.toNat, 16), (a.toNat, 8), (ofBool t, 5)] = wd at *
  simp only [rawVector, h30, decodeVector1C, f31, f24, f23, f15, f7, f5, f4, beq_ofBool, BitVec.ofNat_toNat, BitVec.setWidth_eq, and_self, and_true, if_true]

theorem cvtFi (c : Bool) (s : Bool) (d : BitVec 8) (a : BitVec 8) (t : Bool) (k : BitVec 5) : Statement (.cvtFi c s d a t k) := by
  obtain ⟨h30, f31, f24, f23, f15, f7, f5, f4⟩ := fields_31_24_23_15_7_5_4_v' 28 1 (by decide) (by decide) c s d a t k rfl
  refine of_vector (x := pack (28 * 2 ^ 25 + 1 * 2 ^ 6) [(ofBool c, 31), (ofBool s, 24), (d.toNat, 16), (a.toNat, 8), (ofBool t, 5), (k.toNat, 0)]) rfl h30 (by decide) ?_
  generalize pack (28 * 2 ^ 25 + 1 * 2 ^ 6) [(ofBool c, 31), (ofBool s, 24), (d.toNat, 16), (a.toNat, 8), (ofBool t, 5), (k.toNat, 0)] = wd at *
  simp only [rawVector, h30, decodeVector1C, f31, f24, f23, f15, f7, f5, f4, beq_ofBool, BitVec.ofNat_toNat, BitVec.setWidth_eq, and_self, and_true, if_true, false_and, and_false, reduceIte, Nat.reduceEqDiff, OfNat.ofNat_ne_zero, OfNat.zero_ne_ofNat, Nat.one_ne_zero, Nat.zero_ne_one, OfNat.one_ne_ofNat, OfNat.ofNat_ne_one]

theorem cvtIf (c : Bool) (s : Bool) (d : BitVec 8) (a : BitVec 8) : Statement (.cvtIf c s d a) := by
  obtain ⟨h30, f31, f24, f23, f15, f7⟩ := fields_31_24_23_15_7_v' 28 128 (by decide) (by decide) c s d a rfl
  refine of_vector (x := pack (28 * 2 ^ 25 + 128 * 2 ^ 0) [(ofBool c, 31), (ofBool s, 24), (d.toNat, 16), (a.toNat, 8)]) rfl h30 (by decide) ?_
  generalize pack (28 * 2 ^ 25 + 128 * 2 ^ 0) [(ofBool c, 31), (ofBool s, 24), (d.toNat, 16), (a.toNat, 8)] = wd at *
  have n0 : fld wd 7 6 ≠ 0 := fun e => absurd ((fld_of_fld 7 6 f7 (by decide) (by decide) (by decide)).symm.trans (fld_of_fld 7 6 e (by decide) (by decide) (by decide))) (by decide)
  have n1 : fld wd 7 6 ≠ 1 := fun e => absurd ((fld_of_fld 7 6 f7 (by decide) (by decide) (by decide)).symm.trans (fld_of_fld 7 6 e (by decide) (by decide) (by decide))) (by decide)
  simp only [rawVector, h30, decodeVector1C, f31, f24, f23, f15, f7, n0, n1, beq_ofBool, BitVec.ofNat_toNat, BitVec.setWidth_eq, and_self, and_true, if_true, false_and, and_false, reduceIte, Nat.reduceEqDiff, OfNat.ofNat_ne_zero, OfNat.zero_ne_ofNat, Nat.one_ne_zero, Nat.zero_ne_one, OfNat.one_ne_ofNat, OfNat.ofNat_ne_one]

theorem cvtCi (c : Bool) (s : Bool) (d : BitVec 8) (a : BitVec 8) (k : BitVec 5) : Statement (.cvtCi c s d a k) := by
  obtain ⟨h30, f31, f24, f23, f15, f7, f4⟩ := fields_31_24_23_15_7_4_v 28 6 (by decide) (by decide) c s d a k rfl
  refine of_vector (x := pack (28 * 2 ^ 25 + 6 * 2 ^ 5) [(ofBool c, 31), (ofBool s, 24), (d.toNat, 16), (a.toNat, 8), (k.toNat, 0)]) rfl h30 (by decide) ?_
  generalize pack (28 * 2 ^ 25 + 6 * 2 ^ 5) [(ofBool c, 31), (ofBool s, 24), (d.toNat, 16), (a.toNat, 8), (k.toNat, 0)] = wd at *
  have n0 : fld wd 7 6 ≠ 0 := fun e => absurd ((fld_of_fld 7 6 f7 (by decide) (by decide) (by decide)).symm.trans (fld_of_fld 7 6 e (by decide) (by decide) (by decide))) (by decide)
  have n1 : fld wd 7 6 ≠ 1 := fun e => absurd ((fld_of_fld 7 6 f7 (by decide) (by decide) (by decide)).symm.trans (fld_of_fld 7 6 e (by decide) (by decide) (by decide))) (by decide)
  have n2 : fld wd 7 0 ≠ 128 := fun e => absurd ((fld_of_fld 7 5 f7 (by decide) (by decide) (by decide)).symm.trans (fld_of_fld 7 5 e (by decide) (by decide) (by decide))) (by decide)
  simp only [rawVector, h30, decodeVector1C, f31, f24, f23, f15, f7, f4, n0, n1, n2, beq_ofBool, BitVec.ofNat_toNat, BitVec.setWidth_eq, and_self, and_true, if_true, false_and, and_false, reduceIte, Nat.reduceEqDiff, OfNat.ofNat_ne_zero, OfNat.zero_ne_ofNat, Nat.one_ne_zero, Nat.zero_ne_one, OfNat.one_ne_ofNat, OfNat.ofNat_ne_one]

theorem vrsum (c : Bool) (s : Bool) (d : BitVec 8) (a : BitVec 8) : Statement (.vrsum c s d a) := by
  obtain ⟨h30, f31, f24, f23, f15, f7⟩ := fields_31_24_23_15_7_v' 29 0 (by decide) (by decide) c s d a rfl
  refine of_vector (x := pack (29 * 2 ^ 25 + 0 * 2 ^ 0) [(ofBool c, 31), (ofBool s, 24), (d.toNat, 16), (a.toNat, 8)]) rfl h30 (by decide) ?_
  generalize pack (29 * 2 ^ 25 + 0 * 2 ^ 0) [(ofBool c, 31), (ofBool s, 24), (d.toNat, 16), (a.toNat, 8)] = wd at *
  simp only [rawVector, h30, decodeVector1D, f31, f24, f23, f15, f7, beq_ofBool, BitVec.ofNat_toNat, BitVec.setWidth_eq, and_self, and_true, if_true]

theorem vrmax (c : Bool) (s : Bool) (d : BitVec 8) (a : BitVec 8) : Statement (.vrmax c s d a) := by
  obtain ⟨h30, f31, f24, f23, f15, f7⟩ := fields_31_24_23_15_7_v' 29 1 (by decide) (by decide) c s d a rfl
  refine of_vector (x := pack (29 * 2 ^ 25 + 1 * 2 ^ 0) [(ofBool c, 31), (ofBool s, 24), (d.toNat, 16), (a.toNat, 8)]) rfl h30 (by decide) ?_
  generalize pack (29 * 2 ^ 25 + 1 * 2 ^ 0) [(ofBool c, 31), (ofBool s, 24), (d.toNat, 16), (a.toNat, 8)] = wd at *
  simp only [rawVector, h30, decodeVector1D, f31, f24, f23, f15, f7, beq_ofBool, BitVec.ofNat_toNat, BitVec.setWidth_eq, and_self, and_true, if_true, false_and, and_false, reduceIte, Nat.reduceEqDiff, OfNat.ofNat_ne_zero, OfNat.zero_ne_ofNat, Nat.one_ne_zero, Nat.zero_ne_one, OfNat.one_ne_ofNat, OfNat.ofNat_ne_one]

theorem vrmin (c : Bool) (s : Bool) (d : BitVec 8) (a : BitVec 8) : Statement (.vrmin c s d a) := by
  obtain ⟨h30, f31, f24, f23, f15, f7⟩ := fields_31_24_23_15_7_v' 29 2 (by decide) (by decide) c s d a rfl
  refine of_vector (x := pack (29 * 2 ^ 25 + 2 * 2 ^ 0) [(ofBool c, 31), (ofBool s, 24), (d.toNat, 16), (a.toNat, 8)]) rfl h30 (by decide) ?_
  generalize pack (29 * 2 ^ 25 + 2 * 2 ^ 0) [(ofBool c, 31), (ofBool s, 24), (d.toNat, 16), (a.toNat, 8)] = wd at *
  simp only [rawVector, h30, decodeVector1D, f31, f24, f23, f15, f7, beq_ofBool, BitVec.ofNat_toNat, BitVec.setWidth_eq, and_self, and_true, if_true, false_and, and_false, reduceIte, Nat.reduceEqDiff, OfNat.ofNat_ne_zero, OfNat.zero_ne_ofNat, Nat.one_ne_zero, Nat.zero_ne_one, OfNat.one_ne_ofNat, OfNat.ofNat_ne_one]

theorem vrisum (c : Bool) (s : Bool) (d : BitVec 8) (a : BitVec 8) : Statement (.vrisum c s d a) := by
  obtain ⟨h30, f31, f24, f23, f15, f7⟩ := fields_31_24_23_15_7_v' 29 3 (by decide) (by decide) c s d a rfl
  refine of_vector (x := pack (29 * 2 ^ 25 + 3 * 2 ^ 0) [(ofBool c, 31), (ofBool s, 24), (d.toNat, 16), (a.toNat, 8)]) rfl h30 (by decide) ?_
  generalize pack (29 * 2 ^ 25 + 3 * 2 ^ 0) [(ofBool c, 31), (ofBool s, 24), (d.toNat, 16), (a.toNat, 8)] = wd at *
  simp only [rawVector, h30, decodeVector1D, f31, f24, f23, f15, f7, beq_ofBool, BitVec.ofNat_toNat, BitVec.setWidth_eq, and_self, and_true, if_true, false_and, and_false, reduceIte, Nat.reduceEqDiff, OfNat.ofNat_ne_zero, OfNat.zero_ne_ofNat, Nat.one_ne_zero, Nat.zero_ne_one, OfNat.one_ne_ofNat, OfNat.ofNat_ne_one]

theorem vperm (c : Bool) (s : Bool) (d : BitVec 8) (a : BitVec 8) (b : BitVec 8) : Statement (.vperm c s d a b) := by
  obtain ⟨h30, f31, f24, f23, f15, f7⟩ := fields_31_24_23_15_7_v 30  (by decide) c s d a b rfl
  refine of_vector (x := pack (30 * 2 ^ 25) [(ofBool c, 31), (ofBool s, 24), (d.toNat, 16), (a.toNat, 8), (b.toNat, 0)]) rfl h30 (by decide) ?_
  generalize pack (30 * 2 ^ 25) [(ofBool c, 31), (ofBool s, 24), (d.toNat, 16), (a.toNat, 8), (b.toNat, 0)] = wd at *
  simp only [rawVector, h30, decodeVector1E, f31, f24, f23, f15, f7, beq_ofBool, BitVec.ofNat_toNat, BitVec.setWidth_eq]

theorem vbcast (c : Bool) (s : Bool) (d : BitVec 8) (a : BitVec 8) (i : BitVec 8) : Statement (.vbcast c s d a i) := by
  obtain ⟨h30, f31, f24, f23, f15, f7⟩ := fields_31_24_23_15_7_v 31  (by decide) c s d a i rfl
  refine of_vector (x := pack (31 * 2 ^ 25) [(ofBool c, 31), (ofBool s, 24), (d.toNat, 16), (a.toNat, 8), (i.toNat, 0)]) rfl h30 (by decide) ?_
  generalize pack (31 * 2 ^ 25) [(ofBool c, 31), (ofBool s, 24), (d.toNat, 16), (a.toNat, 8), (i.toNat, 0)] = wd at *
  simp only [rawVector, h30, decodeVector1F, f31, f24, f23, f15, f7, beq_ofBool, BitVec.ofNat_toNat, BitVec.setWidth_eq]

theorem jseed (c : Bool) (s : Bool) (d : BitVec 8) (a : BitVec 8) : Statement (.jseed c s d a) := by
  obtain ⟨h30, f31, f24, f23, f15, f7⟩ := fields_31_24_23_15_7_v' 32 0 (by decide) (by decide) c s d a rfl
  refine of_vector (x := pack (32 * 2 ^ 25 + 0 * 2 ^ 0) [(ofBool c, 31), (ofBool s, 24), (d.toNat, 16), (a.toNat, 8)]) rfl h30 (by decide) ?_
  generalize pack (32 * 2 ^ 25 + 0 * 2 ^ 0) [(ofBool c, 31), (ofBool s, 24), (d.toNat, 16), (a.toNat, 8)] = wd at *
  simp only [rawVector, h30, decodeVector20, f31, f24, f23, f15, f7, beq_ofBool, BitVec.ofNat_toNat, BitVec.setWidth_eq, and_self, and_true, if_true]

theorem jext (c : Bool) (s : Bool) (d : BitVec 8) (a : BitVec 8) (f : Bool) (k : BitVec 3) : Statement (.jext c s d a f k) := by
  obtain ⟨h30, f31, f24, f23, f15, f7, f5, f4, f2⟩ := fields_31_24_23_15_7_5_4_2_v 32 1 0 (by decide) (by decide) (by decide) c s d a f k rfl
  refine of_vector (x := pack (32 * 2 ^ 25 + 1 * 2 ^ 6 + 0 * 2 ^ 3) [(ofBool c, 31), (ofBool s, 24), (d.toNat, 16), (a.toNat, 8), (ofBool f, 5), (k.toNat, 0)]) rfl h30 (by decide) ?_
  generalize pack (32 * 2 ^ 25 + 1 * 2 ^ 6 + 0 * 2 ^ 3) [(ofBool c, 31), (ofBool s, 24), (d.toNat, 16), (a.toNat, 8), (ofBool f, 5), (k.toNat, 0)] = wd at *
  have n0 : fld wd 7 0 ≠ 0 := fun e => absurd ((fld_of_fld 7 6 f7 (by decide) (by decide) (by decide)).symm.trans (fld_of_fld 7 6 e (by decide) (by decide) (by decide))) (by decide)
  simp only [rawVector, h30, decodeVector20, f31, f24, f23, f15, f7, f5, f4, f2, n0, beq_ofBool, BitVec.ofNat_toNat, BitVec.setWidth_eq, and_self, and_true, if_true, false_and, and_false, reduceIte, Nat.reduceEqDiff, OfNat.ofNat_ne_zero, OfNat.zero_ne_ofNat, Nat.one_ne_zero, Nat.zero_ne_one, OfNat.one_ne_ofNat, OfNat.ofNat_ne_one]

theorem jset (c : Bool) (s : Bool) (d : BitVec 8) (a : BitVec 8) (k : BitVec 3) : Statement (.jset c s d a k) := by
  obtain ⟨h30, f31, f24, f23, f15, f7, f2⟩ := fields_31_24_23_15_7_2_v 32 16 (by decide) (by decide) c s d a k rfl
  refine of_vector (x := pack (32 * 2 ^ 25 + 16 * 2 ^ 3) [(ofBool c, 31), (ofBool s, 24), (d.toNat, 16), (a.toNat, 8), (k.toNat, 0)]) rfl h30 (by decide) ?_
  generalize pack (32 * 2 ^ 25 + 16 * 2 ^ 3) [(ofBool c, 31), (ofBool s, 24), (d.toNat, 16), (a.toNat, 8), (k.toNat, 0)] = wd at *
  have n0 : fld wd 7 0 ≠ 0 := fun e => absurd ((fld_of_fld 7 3 f7 (by decide) (by decide) (by decide)).symm.trans (fld_of_fld 7 3 e (by decide) (by decide) (by decide))) (by decide)
  have n1 : fld wd 7 6 ≠ 1 := fun e => absurd ((fld_of_fld 7 6 f7 (by decide) (by decide) (by decide)).symm.trans (fld_of_fld 7 6 e (by decide) (by decide) (by decide))) (by decide)
  simp only [rawVector, h30, decodeVector20, f31, f24, f23, f15, f7, f2, n0, n1, beq_ofBool, BitVec.ofNat_toNat, BitVec.setWidth_eq, and_self, and_true, if_true, false_and, and_false, reduceIte, Nat.reduceEqDiff, OfNat.ofNat_ne_zero, OfNat.zero_ne_ofNat, Nat.one_ne_zero, Nat.zero_ne_one, OfNat.one_ne_ofNat, OfNat.ofNat_ne_one]

theorem cimPass (c : Bool) (b : BitVec 5) (l : BitVec 3) (a : BitVec 7) (p : BitVec 3) (e : BitVec 4) (o : Bool) (n : Bool) (g : Bool) : Statement (.cimPass c b l a p e o n g) := by
  obtain ⟨h30, f31, f24, f19, f16, f9, f6, f2, f1, f0⟩ := fields_31_24_19_16_9_6_2_1_0_v 33  (by decide) c b l a p e o n g rfl
  have hv : encodeVector (.cimPass c b l a p e o n g) = [pack (33 * 2 ^ 25) [(ofBool c, 31), (b.toNat, 20), (l.toNat, 17), (a.toNat, 10), (p.toNat, 7), (e.toNat, 3), (ofBool o, 2), (ofBool n, 1), (ofBool g, 0)]] := rfl
  refine of_vector hv h30 (by decide) ?_
  generalize pack (33 * 2 ^ 25) [(ofBool c, 31), (b.toNat, 20), (l.toNat, 17), (a.toNat, 10), (p.toNat, 7), (e.toNat, 3), (ofBool o, 2), (ofBool n, 1), (ofBool g, 0)] = wd at *
  simp only [rawVector, h30, decodeVector21, f31, f24, f19, f16, f9, f6, f2, f1, f0, beq_ofBool, BitVec.ofNat_toNat, BitVec.setWidth_eq]

theorem cimSwap (c : Bool) (b : BitVec 5) : Statement (.cimSwap c b) := by
  obtain ⟨h30, f31, f24, f20, f15⟩ := fields_31_24_20_15_v 34 0 0 (by decide) (by decide) (by decide) c b rfl
  refine of_vector (x := pack (34 * 2 ^ 25 + 0 * 2 ^ 21 + 0 * 2 ^ 0) [(ofBool c, 31), (b.toNat, 16)]) rfl h30 (by decide) ?_
  generalize pack (34 * 2 ^ 25 + 0 * 2 ^ 21 + 0 * 2 ^ 0) [(ofBool c, 31), (b.toNat, 16)] = wd at *
  simp only [rawVector, h30, decodeVector22, f31, f24, f20, f15, beq_ofBool, BitVec.ofNat_toNat, BitVec.setWidth_eq, and_self, and_true, if_true]

theorem cimSwapw (c : Bool) (b : BitVec 5) : Statement (.cimSwapw c b) := by
  obtain ⟨h30, f31, f24, f20, f15⟩ := fields_31_24_20_15_v 34 1 0 (by decide) (by decide) (by decide) c b rfl
  refine of_vector (x := pack (34 * 2 ^ 25 + 1 * 2 ^ 21 + 0 * 2 ^ 0) [(ofBool c, 31), (b.toNat, 16)]) rfl h30 (by decide) ?_
  generalize pack (34 * 2 ^ 25 + 1 * 2 ^ 21 + 0 * 2 ^ 0) [(ofBool c, 31), (b.toNat, 16)] = wd at *
  simp only [rawVector, h30, decodeVector22, f31, f24, f20, f15, beq_ofBool, BitVec.ofNat_toNat, BitVec.setWidth_eq, and_self, and_true, if_true, false_and, and_false, reduceIte, Nat.reduceEqDiff, OfNat.ofNat_ne_zero, OfNat.zero_ne_ofNat, Nat.one_ne_zero, Nat.zero_ne_one, OfNat.one_ne_ofNat, OfNat.ofNat_ne_one]

theorem accClr (c : Bool) (e : BitVec 4) : Statement (.accClr c e) := by
  obtain ⟨h30, f31, f24, f20, f16⟩ := fields_31_24_20_16_v 34 2 0 (by decide) (by decide) (by decide) c e rfl
  refine of_vector (x := pack (34 * 2 ^ 25 + 2 * 2 ^ 21 + 0 * 2 ^ 0) [(ofBool c, 31), (e.toNat, 17)]) rfl h30 (by decide) ?_
  generalize pack (34 * 2 ^ 25 + 2 * 2 ^ 21 + 0 * 2 ^ 0) [(ofBool c, 31), (e.toNat, 17)] = wd at *
  simp only [rawVector, h30, decodeVector22, f31, f24, f20, f16, beq_ofBool, BitVec.ofNat_toNat, BitVec.setWidth_eq, and_self, and_true, if_true, false_and, and_false, reduceIte, Nat.reduceEqDiff, OfNat.ofNat_ne_zero, OfNat.zero_ne_ofNat, Nat.one_ne_zero, Nat.zero_ne_one, OfNat.one_ne_ofNat, OfNat.ofNat_ne_one]

theorem accCvtF32 (c : Bool) (d : BitVec 7) (e : BitVec 4) : Statement (.accCvtF32 c d e) := by
  obtain ⟨h30, f31, f24, f20, f13, f9⟩ := fields_31_24_20_13_9_v 34 3 0 (by decide) (by decide) (by decide) c d e rfl
  refine of_vector (x := pack (34 * 2 ^ 25 + 3 * 2 ^ 21 + 0 * 2 ^ 0) [(ofBool c, 31), (d.toNat, 14), (e.toNat, 10)]) rfl h30 (by decide) ?_
  generalize pack (34 * 2 ^ 25 + 3 * 2 ^ 21 + 0 * 2 ^ 0) [(ofBool c, 31), (d.toNat, 14), (e.toNat, 10)] = wd at *
  simp only [rawVector, h30, decodeVector22, f31, f24, f20, f13, f9, beq_ofBool, BitVec.ofNat_toNat, BitVec.setWidth_eq, and_self, and_true, if_true, false_and, and_false, reduceIte, Nat.reduceEqDiff, OfNat.ofNat_ne_zero, OfNat.zero_ne_ofNat, Nat.one_ne_zero, Nat.zero_ne_one, OfNat.one_ne_ofNat, OfNat.ofNat_ne_one]

theorem accCvtI32 (c : Bool) (d : BitVec 7) (e : BitVec 4) : Statement (.accCvtI32 c d e) := by
  obtain ⟨h30, f31, f24, f20, f13, f9⟩ := fields_31_24_20_13_9_v 34 3 512 (by decide) (by decide) (by decide) c d e rfl
  refine of_vector (x := pack (34 * 2 ^ 25 + 3 * 2 ^ 21 + 512 * 2 ^ 0) [(ofBool c, 31), (d.toNat, 14), (e.toNat, 10)]) rfl h30 (by decide) ?_
  generalize pack (34 * 2 ^ 25 + 3 * 2 ^ 21 + 512 * 2 ^ 0) [(ofBool c, 31), (d.toNat, 14), (e.toNat, 10)] = wd at *
  simp only [rawVector, h30, decodeVector22, f31, f24, f20, f13, f9, beq_ofBool, BitVec.ofNat_toNat, BitVec.setWidth_eq, and_self, and_true, if_true, false_and, and_false, reduceIte, Nat.reduceEqDiff, OfNat.ofNat_ne_zero, OfNat.zero_ne_ofNat, Nat.one_ne_zero, Nat.zero_ne_one, OfNat.one_ne_ofNat, OfNat.ofNat_ne_one]

theorem lutBuild (c : Bool) (v : BitVec 7) (i : BitVec 4) : Statement (.lutBuild c v i) := by
  obtain ⟨h30, f31, f24, f20, f13, f9, f5⟩ := fields_31_24_20_13_9_5_v 34 4 0 0 (by decide) (by decide) (by decide) (by decide) c v i rfl
  refine of_vector (x := pack (34 * 2 ^ 25 + 4 * 2 ^ 21 + 0 * 2 ^ 10 + 0 * 2 ^ 0) [(ofBool c, 31), (v.toNat, 14), (i.toNat, 6)]) rfl h30 (by decide) ?_
  generalize pack (34 * 2 ^ 25 + 4 * 2 ^ 21 + 0 * 2 ^ 10 + 0 * 2 ^ 0) [(ofBool c, 31), (v.toNat, 14), (i.toNat, 6)] = wd at *
  simp only [rawVector, h30, decodeVector22, f31, f24, f20, f13, f9, f5, beq_ofBool, BitVec.ofNat_toNat, BitVec.setWidth_eq, and_self, and_true, if_true, false_and, and_false, reduceIte, Nat.reduceEqDiff, OfNat.ofNat_ne_zero, OfNat.zero_ne_ofNat, Nat.one_ne_zero, Nat.zero_ne_one, OfNat.one_ne_ofNat, OfNat.ofNat_ne_one]

theorem lutAcc (c : Bool) (e : BitVec 4) (q : BitVec 3) (k : BitVec 4) : Statement (.lutAcc c e q k) := by
  obtain ⟨h30, f31, f24, f20, f16, f13, f9⟩ := fields_31_24_20_16_13_9_v 34 5 0 (by decide) (by decide) (by decide) c e q k rfl
  refine of_vector (x := pack (34 * 2 ^ 25 + 5 * 2 ^ 21 + 0 * 2 ^ 0) [(ofBool c, 31), (e.toNat, 17), (q.toNat, 14), (k.toNat, 10)]) rfl h30 (by decide) ?_
  generalize pack (34 * 2 ^ 25 + 5 * 2 ^ 21 + 0 * 2 ^ 0) [(ofBool c, 31), (e.toNat, 17), (q.toNat, 14), (k.toNat, 10)] = wd at *
  simp only [rawVector, h30, decodeVector22, f31, f24, f20, f16, f13, f9, beq_ofBool, BitVec.ofNat_toNat, BitVec.setWidth_eq, and_self, and_true, if_true, false_and, and_false, reduceIte, Nat.reduceEqDiff, OfNat.ofNat_ne_zero, OfNat.zero_ne_ofNat, Nat.one_ne_zero, Nat.zero_ne_one, OfNat.one_ne_ofNat, OfNat.ofNat_ne_one]

theorem outl (c : Bool) (e : BitVec 4) (v : BitVec 7) (q : BitVec 3) : Statement (.outl c e v q) := by
  obtain ⟨h30, f31, f24, f20, f16, f9, f6⟩ := fields_31_24_20_16_9_6_v 34 6 0 (by decide) (by decide) (by decide) c e v q rfl
  refine of_vector (x := pack (34 * 2 ^ 25 + 6 * 2 ^ 21 + 0 * 2 ^ 0) [(ofBool c, 31), (e.toNat, 17), (v.toNat, 10), (q.toNat, 7)]) rfl h30 (by decide) ?_
  generalize pack (34 * 2 ^ 25 + 6 * 2 ^ 21 + 0 * 2 ^ 0) [(ofBool c, 31), (e.toNat, 17), (v.toNat, 10), (q.toNat, 7)] = wd at *
  simp only [rawVector, h30, decodeVector22, f31, f24, f20, f16, f9, f6, beq_ofBool, BitVec.ofNat_toNat, BitVec.setWidth_eq, and_self, and_true, if_true, false_and, and_false, reduceIte, Nat.reduceEqDiff, OfNat.ofNat_ne_zero, OfNat.zero_ne_ofNat, Nat.one_ne_zero, Nat.zero_ne_one, OfNat.one_ne_ofNat, OfNat.ofNat_ne_one]

theorem rsc (c : Bool) (d : BitVec 7) (e : BitVec 4) (t : BitVec 4) (q : BitVec 3) : Statement (.rsc c d e t q) := by
  obtain ⟨h30, f31, f24, f20, f13, f9, f5, f2⟩ := fields_31_24_20_13_9_5_2_v 34 7 0 (by decide) (by decide) (by decide) c d e t q rfl
  refine of_vector (x := pack (34 * 2 ^ 25 + 7 * 2 ^ 21 + 0 * 2 ^ 0) [(ofBool c, 31), (d.toNat, 14), (e.toNat, 10), (t.toNat, 6), (q.toNat, 3)]) rfl h30 (by decide) ?_
  generalize pack (34 * 2 ^ 25 + 7 * 2 ^ 21 + 0 * 2 ^ 0) [(ofBool c, 31), (d.toNat, 14), (e.toNat, 10), (t.toNat, 6), (q.toNat, 3)] = wd at *
  simp only [rawVector, h30, decodeVector22, f31, f24, f20, f13, f9, f5, f2, beq_ofBool, BitVec.ofNat_toNat, BitVec.setWidth_eq, and_self, and_true, if_true, false_and, and_false, reduceIte, Nat.reduceEqDiff, OfNat.ofNat_ne_zero, OfNat.zero_ne_ofNat, Nat.one_ne_zero, Nat.zero_ne_one, OfNat.one_ne_ofNat, OfNat.ofNat_ne_one]

theorem qnt (c : Bool) (d : BitVec 7) (v : BitVec 7) (p : BitVec 4) : Statement (.qnt c d v p) := by
  obtain ⟨h30, f31, f24, f20, f13, f6, f2⟩ := fields_31_24_20_13_6_2_v 34 8 0 (by decide) (by decide) (by decide) c d v p rfl
  refine of_vector (x := pack (34 * 2 ^ 25 + 8 * 2 ^ 21 + 0 * 2 ^ 0) [(ofBool c, 31), (d.toNat, 14), (v.toNat, 7), (p.toNat, 3)]) rfl h30 (by decide) ?_
  generalize pack (34 * 2 ^ 25 + 8 * 2 ^ 21 + 0 * 2 ^ 0) [(ofBool c, 31), (d.toNat, 14), (v.toNat, 7), (p.toNat, 3)] = wd at *
  simp only [rawVector, h30, decodeVector22, f31, f24, f20, f13, f6, f2, beq_ofBool, BitVec.ofNat_toNat, BitVec.setWidth_eq, and_self, and_true, if_true, false_and, and_false, reduceIte, Nat.reduceEqDiff, OfNat.ofNat_ne_zero, OfNat.zero_ne_ofNat, Nat.one_ne_zero, Nat.zero_ne_one, OfNat.one_ne_ofNat, OfNat.ofNat_ne_one]

theorem qpar (c : Bool) (v : BitVec 7) (p : BitVec 4) (k : BitVec 5) : Statement (.qpar c v p k) := by
  obtain ⟨h30, f31, f24, f20, f13, f9, f4⟩ := fields_31_24_20_13_9_4_v 34 9 0 (by decide) (by decide) (by decide) c v p k rfl
  refine of_vector (x := pack (34 * 2 ^ 25 + 9 * 2 ^ 21 + 0 * 2 ^ 0) [(ofBool c, 31), (v.toNat, 14), (p.toNat, 10), (k.toNat, 5)]) rfl h30 (by decide) ?_
  generalize pack (34 * 2 ^ 25 + 9 * 2 ^ 21 + 0 * 2 ^ 0) [(ofBool c, 31), (v.toNat, 14), (p.toNat, 10), (k.toNat, 5)] = wd at *
  simp only [rawVector, h30, decodeVector22, f31, f24, f20, f13, f9, f4, beq_ofBool, BitVec.ofNat_toNat, BitVec.setWidth_eq, and_self, and_true, if_true, false_and, and_false, reduceIte, Nat.reduceEqDiff, OfNat.ofNat_ne_zero, OfNat.zero_ne_ofNat, Nat.one_ne_zero, Nat.zero_ne_one, OfNat.one_ne_ofNat, OfNat.ofNat_ne_one]

theorem iadd (c : Bool) (d : BitVec 4) (a : BitVec 4) (b : BitVec 4) : Statement (.iadd c d a b) := by
  obtain ⟨h30, f31, f24, f20, f16, f12, f8⟩ := fields_31_24_20_16_12_8_v 40 0 0 (by decide) (by decide) (by decide) c d a b rfl
  refine of_vector (x := pack (40 * 2 ^ 25 + 0 * 2 ^ 21 + 0 * 2 ^ 0) [(ofBool c, 31), (d.toNat, 17), (a.toNat, 13), (b.toNat, 9)]) rfl h30 (by decide) ?_
  generalize pack (40 * 2 ^ 25 + 0 * 2 ^ 21 + 0 * 2 ^ 0) [(ofBool c, 31), (d.toNat, 17), (a.toNat, 13), (b.toNat, 9)] = wd at *
  simp only [rawVector, h30, decodeVector28, f31, f24, f20, f16, f12, f8, beq_ofBool, BitVec.ofNat_toNat, BitVec.setWidth_eq, and_self, and_true, if_true]

theorem isub (c : Bool) (d : BitVec 4) (a : BitVec 4) (b : BitVec 4) : Statement (.isub c d a b) := by
  obtain ⟨h30, f31, f24, f20, f16, f12, f8⟩ := fields_31_24_20_16_12_8_v 40 1 0 (by decide) (by decide) (by decide) c d a b rfl
  refine of_vector (x := pack (40 * 2 ^ 25 + 1 * 2 ^ 21 + 0 * 2 ^ 0) [(ofBool c, 31), (d.toNat, 17), (a.toNat, 13), (b.toNat, 9)]) rfl h30 (by decide) ?_
  generalize pack (40 * 2 ^ 25 + 1 * 2 ^ 21 + 0 * 2 ^ 0) [(ofBool c, 31), (d.toNat, 17), (a.toNat, 13), (b.toNat, 9)] = wd at *
  simp only [rawVector, h30, decodeVector28, f31, f24, f20, f16, f12, f8, beq_ofBool, BitVec.ofNat_toNat, BitVec.setWidth_eq, and_self, and_true, if_true, false_and, and_false, reduceIte, Nat.reduceEqDiff, OfNat.ofNat_ne_zero, OfNat.zero_ne_ofNat, Nat.one_ne_zero, Nat.zero_ne_one, OfNat.one_ne_ofNat, OfNat.ofNat_ne_one]

theorem ishl (c : Bool) (d : BitVec 4) (a : BitVec 4) (b : BitVec 4) : Statement (.ishl c d a b) := by
  obtain ⟨h30, f31, f24, f20, f16, f12, f8⟩ := fields_31_24_20_16_12_8_v 40 2 0 (by decide) (by decide) (by decide) c d a b rfl
  refine of_vector (x := pack (40 * 2 ^ 25 + 2 * 2 ^ 21 + 0 * 2 ^ 0) [(ofBool c, 31), (d.toNat, 17), (a.toNat, 13), (b.toNat, 9)]) rfl h30 (by decide) ?_
  generalize pack (40 * 2 ^ 25 + 2 * 2 ^ 21 + 0 * 2 ^ 0) [(ofBool c, 31), (d.toNat, 17), (a.toNat, 13), (b.toNat, 9)] = wd at *
  simp only [rawVector, h30, decodeVector28, f31, f24, f20, f16, f12, f8, beq_ofBool, BitVec.ofNat_toNat, BitVec.setWidth_eq, and_self, and_true, if_true, false_and, and_false, reduceIte, Nat.reduceEqDiff, OfNat.ofNat_ne_zero, OfNat.zero_ne_ofNat, Nat.one_ne_zero, Nat.zero_ne_one, OfNat.one_ne_ofNat, OfNat.ofNat_ne_one]

theorem ishr (c : Bool) (d : BitVec 4) (a : BitVec 4) (b : BitVec 4) : Statement (.ishr c d a b) := by
  obtain ⟨h30, f31, f24, f20, f16, f12, f8⟩ := fields_31_24_20_16_12_8_v 40 3 0 (by decide) (by decide) (by decide) c d a b rfl
  refine of_vector (x := pack (40 * 2 ^ 25 + 3 * 2 ^ 21 + 0 * 2 ^ 0) [(ofBool c, 31), (d.toNat, 17), (a.toNat, 13), (b.toNat, 9)]) rfl h30 (by decide) ?_
  generalize pack (40 * 2 ^ 25 + 3 * 2 ^ 21 + 0 * 2 ^ 0) [(ofBool c, 31), (d.toNat, 17), (a.toNat, 13), (b.toNat, 9)] = wd at *
  simp only [rawVector, h30, decodeVector28, f31, f24, f20, f16, f12, f8, beq_ofBool, BitVec.ofNat_toNat, BitVec.setWidth_eq, and_self, and_true, if_true, false_and, and_false, reduceIte, Nat.reduceEqDiff, OfNat.ofNat_ne_zero, OfNat.zero_ne_ofNat, Nat.one_ne_zero, Nat.zero_ne_one, OfNat.one_ne_ofNat, OfNat.ofNat_ne_one]

theorem iand (c : Bool) (d : BitVec 4) (a : BitVec 4) (b : BitVec 4) : Statement (.iand c d a b) := by
  obtain ⟨h30, f31, f24, f20, f16, f12, f8⟩ := fields_31_24_20_16_12_8_v 40 4 0 (by decide) (by decide) (by decide) c d a b rfl
  refine of_vector (x := pack (40 * 2 ^ 25 + 4 * 2 ^ 21 + 0 * 2 ^ 0) [(ofBool c, 31), (d.toNat, 17), (a.toNat, 13), (b.toNat, 9)]) rfl h30 (by decide) ?_
  generalize pack (40 * 2 ^ 25 + 4 * 2 ^ 21 + 0 * 2 ^ 0) [(ofBool c, 31), (d.toNat, 17), (a.toNat, 13), (b.toNat, 9)] = wd at *
  simp only [rawVector, h30, decodeVector28, f31, f24, f20, f16, f12, f8, beq_ofBool, BitVec.ofNat_toNat, BitVec.setWidth_eq, and_self, and_true, if_true, false_and, and_false, reduceIte, Nat.reduceEqDiff, OfNat.ofNat_ne_zero, OfNat.zero_ne_ofNat, Nat.one_ne_zero, Nat.zero_ne_one, OfNat.one_ne_ofNat, OfNat.ofNat_ne_one]

theorem ior (c : Bool) (d : BitVec 4) (a : BitVec 4) (b : BitVec 4) : Statement (.ior c d a b) := by
  obtain ⟨h30, f31, f24, f20, f16, f12, f8⟩ := fields_31_24_20_16_12_8_v 40 5 0 (by decide) (by decide) (by decide) c d a b rfl
  refine of_vector (x := pack (40 * 2 ^ 25 + 5 * 2 ^ 21 + 0 * 2 ^ 0) [(ofBool c, 31), (d.toNat, 17), (a.toNat, 13), (b.toNat, 9)]) rfl h30 (by decide) ?_
  generalize pack (40 * 2 ^ 25 + 5 * 2 ^ 21 + 0 * 2 ^ 0) [(ofBool c, 31), (d.toNat, 17), (a.toNat, 13), (b.toNat, 9)] = wd at *
  simp only [rawVector, h30, decodeVector28, f31, f24, f20, f16, f12, f8, beq_ofBool, BitVec.ofNat_toNat, BitVec.setWidth_eq, and_self, and_true, if_true, false_and, and_false, reduceIte, Nat.reduceEqDiff, OfNat.ofNat_ne_zero, OfNat.zero_ne_ofNat, Nat.one_ne_zero, Nat.zero_ne_one, OfNat.one_ne_ofNat, OfNat.ofNat_ne_one]

theorem imul (c : Bool) (d : BitVec 4) (a : BitVec 4) (b : BitVec 4) : Statement (.imul c d a b) := by
  obtain ⟨h30, f31, f24, f20, f16, f12, f8⟩ := fields_31_24_20_16_12_8_v 40 6 0 (by decide) (by decide) (by decide) c d a b rfl
  refine of_vector (x := pack (40 * 2 ^ 25 + 6 * 2 ^ 21 + 0 * 2 ^ 0) [(ofBool c, 31), (d.toNat, 17), (a.toNat, 13), (b.toNat, 9)]) rfl h30 (by decide) ?_
  generalize pack (40 * 2 ^ 25 + 6 * 2 ^ 21 + 0 * 2 ^ 0) [(ofBool c, 31), (d.toNat, 17), (a.toNat, 13), (b.toNat, 9)] = wd at *
  simp only [rawVector, h30, decodeVector28, f31, f24, f20, f16, f12, f8, beq_ofBool, BitVec.ofNat_toNat, BitVec.setWidth_eq, and_self, and_true, if_true, false_and, and_false, reduceIte, Nat.reduceEqDiff, OfNat.ofNat_ne_zero, OfNat.zero_ne_ofNat, Nat.one_ne_zero, Nat.zero_ne_one, OfNat.one_ne_ofNat, OfNat.ofNat_ne_one]

theorem ipopc (c : Bool) (d : BitVec 4) (a : BitVec 4) : Statement (.ipopc c d a) := by
  obtain ⟨h30, f31, f24, f20, f16, f12⟩ := fields_31_24_20_16_12_v 40 7 0 (by decide) (by decide) (by decide) c d a rfl
  refine of_vector (x := pack (40 * 2 ^ 25 + 7 * 2 ^ 21 + 0 * 2 ^ 0) [(ofBool c, 31), (d.toNat, 17), (a.toNat, 13)]) rfl h30 (by decide) ?_
  generalize pack (40 * 2 ^ 25 + 7 * 2 ^ 21 + 0 * 2 ^ 0) [(ofBool c, 31), (d.toNat, 17), (a.toNat, 13)] = wd at *
  simp only [rawVector, h30, decodeVector28, f31, f24, f20, f16, f12, beq_ofBool, BitVec.ofNat_toNat, BitVec.setWidth_eq, and_self, and_true, if_true, false_and, and_false, reduceIte, Nat.reduceEqDiff, OfNat.ofNat_ne_zero, OfNat.zero_ne_ofNat, Nat.one_ne_zero, Nat.zero_ne_one, OfNat.one_ne_ofNat, OfNat.ofNat_ne_one]

theorem icmpadv (c : Bool) (d : BitVec 4) (a : BitVec 4) (b : BitVec 4) : Statement (.icmpadv c d a b) := by
  obtain ⟨h30, f31, f24, f20, f16, f12, f8⟩ := fields_31_24_20_16_12_8_v 40 8 0 (by decide) (by decide) (by decide) c d a b rfl
  refine of_vector (x := pack (40 * 2 ^ 25 + 8 * 2 ^ 21 + 0 * 2 ^ 0) [(ofBool c, 31), (d.toNat, 17), (a.toNat, 13), (b.toNat, 9)]) rfl h30 (by decide) ?_
  generalize pack (40 * 2 ^ 25 + 8 * 2 ^ 21 + 0 * 2 ^ 0) [(ofBool c, 31), (d.toNat, 17), (a.toNat, 13), (b.toNat, 9)] = wd at *
  simp only [rawVector, h30, decodeVector28, f31, f24, f20, f16, f12, f8, beq_ofBool, BitVec.ofNat_toNat, BitVec.setWidth_eq, and_self, and_true, if_true, false_and, and_false, reduceIte, Nat.reduceEqDiff, OfNat.ofNat_ne_zero, OfNat.zero_ne_ofNat, Nat.one_ne_zero, Nat.zero_ne_one, OfNat.one_ne_ofNat, OfNat.ofNat_ne_one]

theorem iaddi (c : Bool) (d : BitVec 4) (a : BitVec 4) (i : BitVec 13) : Statement (.iaddi c d a i) := by
  obtain ⟨h30, f31, f24, f20, f16, f12⟩ := fields_31_24_20_16_12_v' 41 0 (by decide) (by decide) c d a i rfl
  refine of_vector (x := pack (41 * 2 ^ 25 + 0 * 2 ^ 21) [(ofBool c, 31), (d.toNat, 17), (a.toNat, 13), (i.toNat, 0)]) rfl h30 (by decide) ?_
  generalize pack (41 * 2 ^ 25 + 0 * 2 ^ 21) [(ofBool c, 31), (d.toNat, 17), (a.toNat, 13), (i.toNat, 0)] = wd at *
  simp only [rawVector, h30, decodeVector29, f31, f24, f20, f16, f12, beq_ofBool, BitVec.ofNat_toNat, BitVec.setWidth_eq, and_self, and_true, if_true]

theorem isubi (c : Bool) (d : BitVec 4) (a : BitVec 4) (i : BitVec 13) : Statement (.isubi c d a i) := by
  obtain ⟨h30, f31, f24, f20, f16, f12⟩ := fields_31_24_20_16_12_v' 41 1 (by decide) (by decide) c d a i rfl
  refine of_vector (x := pack (41 * 2 ^ 25 + 1 * 2 ^ 21) [(ofBool c, 31), (d.toNat, 17), (a.toNat, 13), (i.toNat, 0)]) rfl h30 (by decide) ?_
  generalize pack (41 * 2 ^ 25 + 1 * 2 ^ 21) [(ofBool c, 31), (d.toNat, 17), (a.toNat, 13), (i.toNat, 0)] = wd at *
  simp only [rawVector, h30, decodeVector29, f31, f24, f20, f16, f12, beq_ofBool, BitVec.ofNat_toNat, BitVec.setWidth_eq, and_self, and_true, if_true, false_and, and_false, reduceIte, Nat.reduceEqDiff, OfNat.ofNat_ne_zero, OfNat.zero_ne_ofNat, Nat.one_ne_zero, Nat.zero_ne_one, OfNat.one_ne_ofNat, OfNat.ofNat_ne_one]

theorem ishli (c : Bool) (d : BitVec 4) (a : BitVec 4) (i : BitVec 13) : Statement (.ishli c d a i) := by
  obtain ⟨h30, f31, f24, f20, f16, f12⟩ := fields_31_24_20_16_12_v' 41 2 (by decide) (by decide) c d a i rfl
  refine of_vector (x := pack (41 * 2 ^ 25 + 2 * 2 ^ 21) [(ofBool c, 31), (d.toNat, 17), (a.toNat, 13), (i.toNat, 0)]) rfl h30 (by decide) ?_
  generalize pack (41 * 2 ^ 25 + 2 * 2 ^ 21) [(ofBool c, 31), (d.toNat, 17), (a.toNat, 13), (i.toNat, 0)] = wd at *
  simp only [rawVector, h30, decodeVector29, f31, f24, f20, f16, f12, beq_ofBool, BitVec.ofNat_toNat, BitVec.setWidth_eq, and_self, and_true, if_true, false_and, and_false, reduceIte, Nat.reduceEqDiff, OfNat.ofNat_ne_zero, OfNat.zero_ne_ofNat, Nat.one_ne_zero, Nat.zero_ne_one, OfNat.one_ne_ofNat, OfNat.ofNat_ne_one]

theorem ishri (c : Bool) (d : BitVec 4) (a : BitVec 4) (i : BitVec 13) : Statement (.ishri c d a i) := by
  obtain ⟨h30, f31, f24, f20, f16, f12⟩ := fields_31_24_20_16_12_v' 41 3 (by decide) (by decide) c d a i rfl
  refine of_vector (x := pack (41 * 2 ^ 25 + 3 * 2 ^ 21) [(ofBool c, 31), (d.toNat, 17), (a.toNat, 13), (i.toNat, 0)]) rfl h30 (by decide) ?_
  generalize pack (41 * 2 ^ 25 + 3 * 2 ^ 21) [(ofBool c, 31), (d.toNat, 17), (a.toNat, 13), (i.toNat, 0)] = wd at *
  simp only [rawVector, h30, decodeVector29, f31, f24, f20, f16, f12, beq_ofBool, BitVec.ofNat_toNat, BitVec.setWidth_eq, and_self, and_true, if_true, false_and, and_false, reduceIte, Nat.reduceEqDiff, OfNat.ofNat_ne_zero, OfNat.zero_ne_ofNat, Nat.one_ne_zero, Nat.zero_ne_one, OfNat.one_ne_ofNat, OfNat.ofNat_ne_one]

theorem iandi (c : Bool) (d : BitVec 4) (a : BitVec 4) (i : BitVec 13) : Statement (.iandi c d a i) := by
  obtain ⟨h30, f31, f24, f20, f16, f12⟩ := fields_31_24_20_16_12_v' 41 4 (by decide) (by decide) c d a i rfl
  refine of_vector (x := pack (41 * 2 ^ 25 + 4 * 2 ^ 21) [(ofBool c, 31), (d.toNat, 17), (a.toNat, 13), (i.toNat, 0)]) rfl h30 (by decide) ?_
  generalize pack (41 * 2 ^ 25 + 4 * 2 ^ 21) [(ofBool c, 31), (d.toNat, 17), (a.toNat, 13), (i.toNat, 0)] = wd at *
  simp only [rawVector, h30, decodeVector29, f31, f24, f20, f16, f12, beq_ofBool, BitVec.ofNat_toNat, BitVec.setWidth_eq, and_self, and_true, if_true, false_and, and_false, reduceIte, Nat.reduceEqDiff, OfNat.ofNat_ne_zero, OfNat.zero_ne_ofNat, Nat.one_ne_zero, Nat.zero_ne_one, OfNat.one_ne_ofNat, OfNat.ofNat_ne_one]

theorem iori (c : Bool) (d : BitVec 4) (a : BitVec 4) (i : BitVec 13) : Statement (.iori c d a i) := by
  obtain ⟨h30, f31, f24, f20, f16, f12⟩ := fields_31_24_20_16_12_v' 41 5 (by decide) (by decide) c d a i rfl
  refine of_vector (x := pack (41 * 2 ^ 25 + 5 * 2 ^ 21) [(ofBool c, 31), (d.toNat, 17), (a.toNat, 13), (i.toNat, 0)]) rfl h30 (by decide) ?_
  generalize pack (41 * 2 ^ 25 + 5 * 2 ^ 21) [(ofBool c, 31), (d.toNat, 17), (a.toNat, 13), (i.toNat, 0)] = wd at *
  simp only [rawVector, h30, decodeVector29, f31, f24, f20, f16, f12, beq_ofBool, BitVec.ofNat_toNat, BitVec.setWidth_eq, and_self, and_true, if_true, false_and, and_false, reduceIte, Nat.reduceEqDiff, OfNat.ofNat_ne_zero, OfNat.zero_ne_ofNat, Nat.one_ne_zero, Nat.zero_ne_one, OfNat.one_ne_ofNat, OfNat.ofNat_ne_one]

theorem imuli (c : Bool) (d : BitVec 4) (a : BitVec 4) (i : BitVec 13) : Statement (.imuli c d a i) := by
  obtain ⟨h30, f31, f24, f20, f16, f12⟩ := fields_31_24_20_16_12_v' 41 6 (by decide) (by decide) c d a i rfl
  refine of_vector (x := pack (41 * 2 ^ 25 + 6 * 2 ^ 21) [(ofBool c, 31), (d.toNat, 17), (a.toNat, 13), (i.toNat, 0)]) rfl h30 (by decide) ?_
  generalize pack (41 * 2 ^ 25 + 6 * 2 ^ 21) [(ofBool c, 31), (d.toNat, 17), (a.toNat, 13), (i.toNat, 0)] = wd at *
  simp only [rawVector, h30, decodeVector29, f31, f24, f20, f16, f12, beq_ofBool, BitVec.ofNat_toNat, BitVec.setWidth_eq, and_self, and_true, if_true, false_and, and_false, reduceIte, Nat.reduceEqDiff, OfNat.ofNat_ne_zero, OfNat.zero_ne_ofNat, Nat.one_ne_zero, Nat.zero_ne_one, OfNat.one_ne_ofNat, OfNat.ofNat_ne_one]

theorem ili (c : Bool) (d : BitVec 4) (i : BitVec 21) : Statement (.ili c d i) := by
  obtain ⟨h30, f31, f24, f20⟩ := fields_31_24_20_v 42  (by decide) c d i rfl
  refine of_vector (x := pack (42 * 2 ^ 25) [(ofBool c, 31), (d.toNat, 21), (i.toNat, 0)]) rfl h30 (by decide) ?_
  generalize pack (42 * 2 ^ 25) [(ofBool c, 31), (d.toNat, 21), (i.toNat, 0)] = wd at *
  simp only [rawVector, h30, decodeVector2A, f31, f24, f20, beq_ofBool, BitVec.ofNat_toNat, BitVec.setWidth_eq]

theorem zinit (c : Bool) (i : BitVec 4) (z : BitVec 3) (l : BitVec 3) : Statement (.zinit c i z l) := by
  obtain ⟨h30, f31, f24, f20, f16, f13, f10, f7⟩ := fields_31_24_20_16_13_10_7_v 43 0 0 0 (by decide) (by decide) (by decide) (by decide) c i z l rfl
  refine of_vector (x := pack (43 * 2 ^ 25 + 0 * 2 ^ 21 + 0 * 2 ^ 11 + 0 * 2 ^ 0) [(ofBool c, 31), (i.toNat, 17), (z.toNat, 14), (l.toNat, 8)]) rfl h30 (by decide) ?_
  generalize pack (43 * 2 ^ 25 + 0 * 2 ^ 21 + 0 * 2 ^ 11 + 0 * 2 ^ 0) [(ofBool c, 31), (i.toNat, 17), (z.toNat, 14), (l.toNat, 8)] = wd at *
  simp only [rawVector, h30, decodeVector2B, f31, f24, f20, f16, f13, f10, f7, beq_ofBool, BitVec.ofNat_toNat, BitVec.setWidth_eq, and_self, and_true, if_true]

theorem znext (c : Bool) (z : BitVec 3) : Statement (.znext c z) := by
  obtain ⟨h30, f31, f24, f16, f13⟩ := fields_31_24_16_13_v 43 16 0 (by decide) (by decide) (by decide) c z rfl
  refine of_vector (x := pack (43 * 2 ^ 25 + 16 * 2 ^ 17 + 0 * 2 ^ 0) [(ofBool c, 31), (z.toNat, 14)]) rfl h30 (by decide) ?_
  generalize pack (43 * 2 ^ 25 + 16 * 2 ^ 17 + 0 * 2 ^ 0) [(ofBool c, 31), (z.toNat, 14)] = wd at *
  have n0 : fld wd 24 21 ≠ 0 := fun e => absurd ((fld_of_fld 24 21 f24 (by decide) (by decide) (by decide)).symm.trans (fld_of_fld 24 21 e (by decide) (by decide) (by decide))) (by decide)
  simp only [rawVector, h30, decodeVector2B, f31, f24, f16, f13, n0, beq_ofBool, BitVec.ofNat_toNat, BitVec.setWidth_eq, and_self, and_true, if_true, false_and, and_false, reduceIte, Nat.reduceEqDiff, OfNat.ofNat_ne_zero, OfNat.zero_ne_ofNat, Nat.one_ne_zero, Nat.zero_ne_one, OfNat.one_ne_ofNat, OfNat.ofNat_ne_one]

theorem zskip (c : Bool) (i : BitVec 4) (z : BitVec 3) : Statement (.zskip c i z) := by
  obtain ⟨h30, f31, f24, f20, f16, f13⟩ := fields_31_24_20_16_13_v 43 2 0 (by decide) (by decide) (by decide) c i z rfl
  refine of_vector (x := pack (43 * 2 ^ 25 + 2 * 2 ^ 21 + 0 * 2 ^ 0) [(ofBool c, 31), (i.toNat, 17), (z.toNat, 14)]) rfl h30 (by decide) ?_
  generalize pack (43 * 2 ^ 25 + 2 * 2 ^ 21 + 0 * 2 ^ 0) [(ofBool c, 31), (i.toNat, 17), (z.toNat, 14)] = wd at *
  have n0 : fld wd 24 17 ≠ 16 := fun e => absurd ((fld_of_fld 24 21 f24 (by decide) (by decide) (by decide)).symm.trans (fld_of_fld 24 21 e (by decide) (by decide) (by decide))) (by decide)
  simp only [rawVector, h30, decodeVector2B, f31, f24, f20, f16, f13, n0, beq_ofBool, BitVec.ofNat_toNat, BitVec.setWidth_eq, and_self, and_true, if_true, false_and, and_false, reduceIte, Nat.reduceEqDiff, OfNat.ofNat_ne_zero, OfNat.zero_ne_ofNat, Nat.one_ne_zero, Nat.zero_ne_one, OfNat.one_ne_ofNat, OfNat.ofNat_ne_one]

theorem zisect (c : Bool) (i : BitVec 4) (z : BitVec 3) (y : BitVec 3) : Statement (.zisect c i z y) := by
  obtain ⟨h30, f31, f24, f20, f16, f13, f10⟩ := fields_31_24_20_16_13_10_v 43 3 0 (by decide) (by decide) (by decide) c i z y rfl
  refine of_vector (x := pack (43 * 2 ^ 25 + 3 * 2 ^ 21 + 0 * 2 ^ 0) [(ofBool c, 31), (i.toNat, 17), (z.toNat, 14), (y.toNat, 11)]) rfl h30 (by decide) ?_
  generalize pack (43 * 2 ^ 25 + 3 * 2 ^ 21 + 0 * 2 ^ 0) [(ofBool c, 31), (i.toNat, 17), (z.toNat, 14), (y.toNat, 11)] = wd at *
  have n0 : fld wd 24 17 ≠ 16 := fun e => absurd ((fld_of_fld 24 21 f24 (by decide) (by decide) (by decide)).symm.trans (fld_of_fld 24 21 e (by decide) (by decide) (by decide))) (by decide)
  simp only [rawVector, h30, decodeVector2B, f31, f24, f20, f16, f13, f10, n0, beq_ofBool, BitVec.ofNat_toNat, BitVec.setWidth_eq, and_self, and_true, if_true, false_and, and_false, reduceIte, Nat.reduceEqDiff, OfNat.ofNat_ne_zero, OfNat.zero_ne_ofNat, Nat.one_ne_zero, Nat.zero_ne_one, OfNat.one_ne_ofNat, OfNat.ofNat_ne_one]

theorem zunion (c : Bool) (i : BitVec 4) (z : BitVec 3) (y : BitVec 3) : Statement (.zunion c i z y) := by
  obtain ⟨h30, f31, f24, f20, f16, f13, f10⟩ := fields_31_24_20_16_13_10_v 43 4 0 (by decide) (by decide) (by decide) c i z y rfl
  refine of_vector (x := pack (43 * 2 ^ 25 + 4 * 2 ^ 21 + 0 * 2 ^ 0) [(ofBool c, 31), (i.toNat, 17), (z.toNat, 14), (y.toNat, 11)]) rfl h30 (by decide) ?_
  generalize pack (43 * 2 ^ 25 + 4 * 2 ^ 21 + 0 * 2 ^ 0) [(ofBool c, 31), (i.toNat, 17), (z.toNat, 14), (y.toNat, 11)] = wd at *
  have n0 : fld wd 24 17 ≠ 16 := fun e => absurd ((fld_of_fld 24 21 f24 (by decide) (by decide) (by decide)).symm.trans (fld_of_fld 24 21 e (by decide) (by decide) (by decide))) (by decide)
  simp only [rawVector, h30, decodeVector2B, f31, f24, f20, f16, f13, f10, n0, beq_ofBool, BitVec.ofNat_toNat, BitVec.setWidth_eq, and_self, and_true, if_true, false_and, and_false, reduceIte, Nat.reduceEqDiff, OfNat.ofNat_ne_zero, OfNat.zero_ne_ofNat, Nat.one_ne_zero, Nat.zero_ne_one, OfNat.one_ne_ofNat, OfNat.ofNat_ne_one]

theorem zdown (c : Bool) (z : BitVec 3) (y : BitVec 3) : Statement (.zdown c z y) := by
  obtain ⟨h30, f31, f24, f16, f13, f10⟩ := fields_31_24_16_13_10_v 43 80 0 (by decide) (by decide) (by decide) c z y rfl
  refine of_vector (x := pack (43 * 2 ^ 25 + 80 * 2 ^ 17 + 0 * 2 ^ 0) [(ofBool c, 31), (z.toNat, 14), (y.toNat, 11)]) rfl h30 (by decide) ?_
  generalize pack (43 * 2 ^ 25 + 80 * 2 ^ 17 + 0 * 2 ^ 0) [(ofBool c, 31), (z.toNat, 14), (y.toNat, 11)] = wd at *
  have n0 : fld wd 24 21 ≠ 0 := fun e => absurd ((fld_of_fld 24 21 f24 (by decide) (by decide) (by decide)).symm.trans (fld_of_fld 24 21 e (by decide) (by decide) (by decide))) (by decide)
  have n1 : fld wd 24 21 ≠ 2 := fun e => absurd ((fld_of_fld 24 21 f24 (by decide) (by decide) (by decide)).symm.trans (fld_of_fld 24 21 e (by decide) (by decide) (by decide))) (by decide)
  have n2 : fld wd 24 21 ≠ 3 := fun e => absurd ((fld_of_fld 24 21 f24 (by decide) (by decide) (by decide)).symm.trans (fld_of_fld 24 21 e (by decide) (by decide) (by decide))) (by decide)
  have n3 : fld wd 24 21 ≠ 4 := fun e => absurd ((fld_of_fld 24 21 f24 (by decide) (by decide) (by decide)).symm.trans (fld_of_fld 24 21 e (by decide) (by decide) (by decide))) (by decide)
  simp only [rawVector, h30, decodeVector2B, f31, f24, f16, f13, f10, n0, n1, n2, n3, beq_ofBool, BitVec.ofNat_toNat, BitVec.setWidth_eq, and_self, and_true, if_true, false_and, and_false, reduceIte, Nat.reduceEqDiff, OfNat.ofNat_ne_zero, OfNat.zero_ne_ofNat, Nat.one_ne_zero, Nat.zero_ne_one, OfNat.one_ne_ofNat, OfNat.ofNat_ne_one]

theorem zcrd (c : Bool) (i : BitVec 4) (z : BitVec 3) (m : Bool) : Statement (.zcrd c i z m) := by
  obtain ⟨h30, f31, f24, f20, f16, f13, f8, f7⟩ := fields_31_24_20_16_13_8_7_v 43 6 0 0 (by decide) (by decide) (by decide) (by decide) c i z m rfl
  refine of_vector (x := pack (43 * 2 ^ 25 + 6 * 2 ^ 21 + 0 * 2 ^ 9 + 0 * 2 ^ 0) [(ofBool c, 31), (i.toNat, 17), (z.toNat, 14), (ofBool m, 8)]) rfl h30 (by decide) ?_
  generalize pack (43 * 2 ^ 25 + 6 * 2 ^ 21 + 0 * 2 ^ 9 + 0 * 2 ^ 0) [(ofBool c, 31), (i.toNat, 17), (z.toNat, 14), (ofBool m, 8)] = wd at *
  have n0 : fld wd 24 17 ≠ 16 := fun e => absurd ((fld_of_fld 24 21 f24 (by decide) (by decide) (by decide)).symm.trans (fld_of_fld 24 21 e (by decide) (by decide) (by decide))) (by decide)
  have n1 : fld wd 24 17 ≠ 80 := fun e => absurd ((fld_of_fld 24 21 f24 (by decide) (by decide) (by decide)).symm.trans (fld_of_fld 24 21 e (by decide) (by decide) (by decide))) (by decide)
  simp only [rawVector, h30, decodeVector2B, f31, f24, f20, f16, f13, f8, f7, n0, n1, beq_ofBool, BitVec.ofNat_toNat, BitVec.setWidth_eq, and_self, and_true, if_true, false_and, and_false, reduceIte, Nat.reduceEqDiff, OfNat.ofNat_ne_zero, OfNat.zero_ne_ofNat, Nat.one_ne_zero, Nat.zero_ne_one, OfNat.one_ne_ofNat, OfNat.ofNat_ne_one]

theorem zpos (c : Bool) (i : BitVec 4) (z : BitVec 3) (m : BitVec 2) : Statement (.zpos c i z m) := by
  obtain ⟨h30, f31, f24, f20, f16, f13, f9, f7⟩ := fields_31_24_20_16_13_9_7_v 43 7 0 0 (by decide) (by decide) (by decide) (by decide) c i z m rfl
  refine of_vector (x := pack (43 * 2 ^ 25 + 7 * 2 ^ 21 + 0 * 2 ^ 10 + 0 * 2 ^ 0) [(ofBool c, 31), (i.toNat, 17), (z.toNat, 14), (m.toNat, 8)]) rfl h30 (by decide) ?_
  generalize pack (43 * 2 ^ 25 + 7 * 2 ^ 21 + 0 * 2 ^ 10 + 0 * 2 ^ 0) [(ofBool c, 31), (i.toNat, 17), (z.toNat, 14), (m.toNat, 8)] = wd at *
  have n0 : fld wd 24 17 ≠ 16 := fun e => absurd ((fld_of_fld 24 21 f24 (by decide) (by decide) (by decide)).symm.trans (fld_of_fld 24 21 e (by decide) (by decide) (by decide))) (by decide)
  have n1 : fld wd 24 17 ≠ 80 := fun e => absurd ((fld_of_fld 24 21 f24 (by decide) (by decide) (by decide)).symm.trans (fld_of_fld 24 21 e (by decide) (by decide) (by decide))) (by decide)
  simp only [rawVector, h30, decodeVector2B, f31, f24, f20, f16, f13, f9, f7, n0, n1, beq_ofBool, BitVec.ofNat_toNat, BitVec.setWidth_eq, and_self, and_true, if_true, false_and, and_false, reduceIte, Nat.reduceEqDiff, OfNat.ofNat_ne_zero, OfNat.zero_ne_ofNat, Nat.one_ne_zero, Nat.zero_ne_one, OfNat.one_ne_ofNat, OfNat.ofNat_ne_one]

theorem aqpush (c : Bool) (i : BitVec 4) (q : BitVec 3) : Statement (.aqpush c i q) := by
  obtain ⟨h30, f31, f24, f20, f16, f13⟩ := fields_31_24_20_16_13_v 44 0 0 (by decide) (by decide) (by decide) c i q rfl
  refine of_vector (x := pack (44 * 2 ^ 25 + 0 * 2 ^ 21 + 0 * 2 ^ 0) [(ofBool c, 31), (i.toNat, 17), (q.toNat, 14)]) rfl h30 (by decide) ?_
  generalize pack (44 * 2 ^ 25 + 0 * 2 ^ 21 + 0 * 2 ^ 0) [(ofBool c, 31), (i.toNat, 17), (q.toNat, 14)] = wd at *
  simp only [rawVector, h30, decodeVector2C, f31, f24, f20, f16, f13, beq_ofBool, BitVec.ofNat_toNat, BitVec.setWidth_eq, and_self, and_true, if_true]

theorem iget (c : Bool) (i : BitVec 4) (q : BitVec 3) : Statement (.iget c i q) := by
  obtain ⟨h30, f31, f24, f20, f16, f13⟩ := fields_31_24_20_16_13_v 44 1 0 (by decide) (by decide) (by decide) c i q rfl
  refine of_vector (x := pack (44 * 2 ^ 25 + 1 * 2 ^ 21 + 0 * 2 ^ 0) [(ofBool c, 31), (i.toNat, 17), (q.toNat, 14)]) rfl h30 (by decide) ?_
  generalize pack (44 * 2 ^ 25 + 1 * 2 ^ 21 + 0 * 2 ^ 0) [(ofBool c, 31), (i.toNat, 17), (q.toNat, 14)] = wd at *
  simp only [rawVector, h30, decodeVector2C, f31, f24, f20, f16, f13, beq_ofBool, BitVec.ofNat_toNat, BitVec.setWidth_eq, and_self, and_true, if_true, false_and, and_false, reduceIte, Nat.reduceEqDiff, OfNat.ofNat_ne_zero, OfNat.zero_ne_ofNat, Nat.one_ne_zero, Nat.zero_ne_one, OfNat.one_ne_ofNat, OfNat.ofNat_ne_one]

theorem xld (c : Bool) (n : BitVec 8) (a : BitVec 4) (i : BitVec 13) : Statement (.xld c n a i) := by
  obtain ⟨h30, f31, f24, f16, f12⟩ := fields_31_24_16_12_v 48  (by decide) c n a i rfl
  refine of_vector (x := pack (48 * 2 ^ 25) [(ofBool c, 31), (n.toNat, 17), (a.toNat, 13), (i.toNat, 0)]) rfl h30 (by decide) ?_
  generalize pack (48 * 2 ^ 25) [(ofBool c, 31), (n.toNat, 17), (a.toNat, 13), (i.toNat, 0)] = wd at *
  simp only [rawVector, h30, decodeVector30, f31, f24, f16, f12, beq_ofBool, BitVec.ofNat_toNat, BitVec.setWidth_eq]

theorem xst (c : Bool) (n : BitVec 8) (a : BitVec 4) (i : BitVec 13) : Statement (.xst c n a i) := by
  obtain ⟨h30, f31, f24, f16, f12⟩ := fields_31_24_16_12_v 49  (by decide) c n a i rfl
  refine of_vector (x := pack (49 * 2 ^ 25) [(ofBool c, 31), (n.toNat, 17), (a.toNat, 13), (i.toNat, 0)]) rfl h30 (by decide) ?_
  generalize pack (49 * 2 ^ 25) [(ofBool c, 31), (n.toNat, 17), (a.toNat, 13), (i.toNat, 0)] = wd at *
  simp only [rawVector, h30, decodeVector31, f31, f24, f16, f12, beq_ofBool, BitVec.ofNat_toNat, BitVec.setWidth_eq]

theorem dqpop (c : Bool) (n : BitVec 8) (q : BitVec 3) : Statement (.dqpop c n q) := by
  obtain ⟨h30, f31, f24, f20, f12, f9⟩ := fields_31_24_20_12_9_v 50 0 0 (by decide) (by decide) (by decide) c n q rfl
  refine of_vector (x := pack (50 * 2 ^ 25 + 0 * 2 ^ 21 + 0 * 2 ^ 0) [(ofBool c, 31), (n.toNat, 13), (q.toNat, 10)]) rfl h30 (by decide) ?_
  generalize pack (50 * 2 ^ 25 + 0 * 2 ^ 21 + 0 * 2 ^ 0) [(ofBool c, 31), (n.toNat, 13), (q.toNat, 10)] = wd at *
  simp only [rawVector, h30, decodeVector32, f31, f24, f20, f12, f9, beq_ofBool, BitVec.ofNat_toNat, BitVec.setWidth_eq, and_self, and_true, if_true]

theorem dqpeek (c : Bool) (n : BitVec 8) (q : BitVec 3) : Statement (.dqpeek c n q) := by
  obtain ⟨h30, f31, f24, f20, f12, f9⟩ := fields_31_24_20_12_9_v 50 1 0 (by decide) (by decide) (by decide) c n q rfl
  refine of_vector (x := pack (50 * 2 ^ 25 + 1 * 2 ^ 21 + 0 * 2 ^ 0) [(ofBool c, 31), (n.toNat, 13), (q.toNat, 10)]) rfl h30 (by decide) ?_
  generalize pack (50 * 2 ^ 25 + 1 * 2 ^ 21 + 0 * 2 ^ 0) [(ofBool c, 31), (n.toNat, 13), (q.toNat, 10)] = wd at *
  simp only [rawVector, h30, decodeVector32, f31, f24, f20, f12, f9, beq_ofBool, BitVec.ofNat_toNat, BitVec.setWidth_eq, and_self, and_true, if_true, false_and, and_false, reduceIte, Nat.reduceEqDiff, OfNat.ofNat_ne_zero, OfNat.zero_ne_ofNat, Nat.one_ne_zero, Nat.zero_ne_one, OfNat.one_ne_ofNat, OfNat.ofNat_ne_one]

theorem ppop (c : Bool) (d : BitVec 4) : Statement (.ppop c d) := by
  obtain ⟨h30, f31, f24, f9, f5⟩ := fields_31_24_9_5_v 50 4096 0 (by decide) (by decide) (by decide) c d rfl
  refine of_vector (x := pack (50 * 2 ^ 25 + 4096 * 2 ^ 10 + 0 * 2 ^ 0) [(ofBool c, 31), (d.toNat, 6)]) rfl h30 (by decide) ?_
  generalize pack (50 * 2 ^ 25 + 4096 * 2 ^ 10 + 0 * 2 ^ 0) [(ofBool c, 31), (d.toNat, 6)] = wd at *
  have n0 : fld wd 24 21 ≠ 0 := fun e => absurd ((fld_of_fld 24 21 f24 (by decide) (by decide) (by decide)).symm.trans (fld_of_fld 24 21 e (by decide) (by decide) (by decide))) (by decide)
  have n1 : fld wd 24 21 ≠ 1 := fun e => absurd ((fld_of_fld 24 21 f24 (by decide) (by decide) (by decide)).symm.trans (fld_of_fld 24 21 e (by decide) (by decide) (by decide))) (by decide)
  simp only [rawVector, h30, decodeVector32, f31, f24, f9, f5, n0, n1, beq_ofBool, BitVec.ofNat_toNat, BitVec.setWidth_eq, and_self, and_true, if_true, false_and, and_false, reduceIte, Nat.reduceEqDiff, OfNat.ofNat_ne_zero, OfNat.zero_ne_ofNat, Nat.one_ne_zero, Nat.zero_ne_one, OfNat.one_ne_ofNat, OfNat.ofNat_ne_one]

theorem xmv (c : Bool) (d : BitVec 8) (v : BitVec 8) : Statement (.xmv c d v) := by
  obtain ⟨h30, f31, f24, f16, f8⟩ := fields_31_24_16_8_v 51 0 (by decide) (by decide) c d v rfl
  refine of_vector (x := pack (51 * 2 ^ 25 + 0 * 2 ^ 0) [(ofBool c, 31), (d.toNat, 17), (v.toNat, 9)]) rfl h30 (by decide) ?_
  generalize pack (51 * 2 ^ 25 + 0 * 2 ^ 0) [(ofBool c, 31), (d.toNat, 17), (v.toNat, 9)] = wd at *
  simp only [rawVector, h30, decodeVector33, f31, f24, f16, f8, beq_ofBool, BitVec.ofNat_toNat, BitVec.setWidth_eq, and_self, and_true, if_true]

theorem xFset (c : Bool) (f : BitVec 4) : Statement (.xFset c f) := by
  obtain ⟨h30, f31, f24, f16, f12⟩ := fields_31_24_16_12_v' 52 0 0 (by decide) (by decide) (by decide) c f rfl
  refine of_vector (x := pack (52 * 2 ^ 25 + 0 * 2 ^ 17 + 0 * 2 ^ 0) [(ofBool c, 31), (f.toNat, 13)]) rfl h30 (by decide) ?_
  generalize pack (52 * 2 ^ 25 + 0 * 2 ^ 17 + 0 * 2 ^ 0) [(ofBool c, 31), (f.toNat, 13)] = wd at *
  simp only [rawVector, h30, decodeVector34, f31, f24, f16, f12, beq_ofBool, BitVec.ofNat_toNat, BitVec.setWidth_eq, and_self, and_true, if_true]

theorem xFclr (c : Bool) (f : BitVec 4) : Statement (.xFclr c f) := by
  obtain ⟨h30, f31, f24, f16, f12⟩ := fields_31_24_16_12_v' 52 16 0 (by decide) (by decide) (by decide) c f rfl
  refine of_vector (x := pack (52 * 2 ^ 25 + 16 * 2 ^ 17 + 0 * 2 ^ 0) [(ofBool c, 31), (f.toNat, 13)]) rfl h30 (by decide) ?_
  generalize pack (52 * 2 ^ 25 + 16 * 2 ^ 17 + 0 * 2 ^ 0) [(ofBool c, 31), (f.toNat, 13)] = wd at *
  simp only [rawVector, h30, decodeVector34, f31, f24, f16, f12, beq_ofBool, BitVec.ofNat_toNat, BitVec.setWidth_eq, and_self, and_true, if_true, false_and, and_false, reduceIte, Nat.reduceEqDiff, OfNat.ofNat_ne_zero, OfNat.zero_ne_ofNat, Nat.one_ne_zero, Nat.zero_ne_one, OfNat.one_ne_ofNat, OfNat.ofNat_ne_one]

theorem ftst (c : Bool) (d : BitVec 4) (f : BitVec 4) : Statement (.ftst c d f) := by
  obtain ⟨h30, f31, f24, f20, f16, f12⟩ := fields_31_24_20_16_12_v 52 2 0 (by decide) (by decide) (by decide) c d f rfl
  refine of_vector (x := pack (52 * 2 ^ 25 + 2 * 2 ^ 21 + 0 * 2 ^ 0) [(ofBool c, 31), (d.toNat, 17), (f.toNat, 13)]) rfl h30 (by decide) ?_
  generalize pack (52 * 2 ^ 25 + 2 * 2 ^ 21 + 0 * 2 ^ 0) [(ofBool c, 31), (d.toNat, 17), (f.toNat, 13)] = wd at *
  have n0 : fld wd 24 17 ≠ 0 := fun e => absurd ((fld_of_fld 24 21 f24 (by decide) (by decide) (by decide)).symm.trans (fld_of_fld 24 21 e (by decide) (by decide) (by decide))) (by decide)
  have n1 : fld wd 24 17 ≠ 16 := fun e => absurd ((fld_of_fld 24 21 f24 (by decide) (by decide) (by decide)).symm.trans (fld_of_fld 24 21 e (by decide) (by decide) (by decide))) (by decide)
  simp only [rawVector, h30, decodeVector34, f31, f24, f20, f16, f12, n0, n1, beq_ofBool, BitVec.ofNat_toNat, BitVec.setWidth_eq, and_self, and_true, if_true, false_and, and_false, reduceIte, Nat.reduceEqDiff, OfNat.ofNat_ne_zero, OfNat.zero_ne_ofNat, Nat.one_ne_zero, Nat.zero_ne_one, OfNat.one_ne_ofNat, OfNat.ofNat_ne_one]

theorem frd (c : Bool) (d : BitVec 4) (h : Bool) : Statement (.frd c d h) := by
  obtain ⟨h30, f31, f24, f20, f16, f12, f11⟩ := fields_31_24_20_16_12_11_v 52 3 0 0 (by decide) (by decide) (by decide) (by decide) c d h rfl
  refine of_vector (x := pack (52 * 2 ^ 25 + 3 * 2 ^ 21 + 0 * 2 ^ 13 + 0 * 2 ^ 0) [(ofBool c, 31), (d.toNat, 17), (ofBool h, 12)]) rfl h30 (by decide) ?_
  generalize pack (52 * 2 ^ 25 + 3 * 2 ^ 21 + 0 * 2 ^ 13 + 0 * 2 ^ 0) [(ofBool c, 31), (d.toNat, 17), (ofBool h, 12)] = wd at *
  have n0 : fld wd 24 17 ≠ 0 := fun e => absurd ((fld_of_fld 24 21 f24 (by decide) (by decide) (by decide)).symm.trans (fld_of_fld 24 21 e (by decide) (by decide) (by decide))) (by decide)
  have n1 : fld wd 24 17 ≠ 16 := fun e => absurd ((fld_of_fld 24 21 f24 (by decide) (by decide) (by decide)).symm.trans (fld_of_fld 24 21 e (by decide) (by decide) (by decide))) (by decide)
  simp only [rawVector, h30, decodeVector34, f31, f24, f20, f16, f12, f11, n0, n1, beq_ofBool, BitVec.ofNat_toNat, BitVec.setWidth_eq, and_self, and_true, if_true, false_and, and_false, reduceIte, Nat.reduceEqDiff, OfNat.ofNat_ne_zero, OfNat.zero_ne_ofNat, Nat.one_ne_zero, Nat.zero_ne_one, OfNat.one_ne_ofNat, OfNat.ofNat_ne_one]

theorem nop : Statement .nop := by
  intro _
  refine ⟨fun h => ?_, fun w h => ?_⟩
  · exact absurd h (List.cons_ne_nil 0x7C000000 [])
  · obtain rfl : 0x7C000000 = w := List.head_eq_of_cons_eq (show [0x7C000000] = [w] from h)
    rfl

theorem resultLanding (core : CoreId) : Statement (.resultLanding core) := of_event rfl rfl

theorem stalledGroupIssue (core : CoreId) : Statement (.stalledGroupIssue core) := of_event rfl rfl

theorem queueStall (core : CoreId) : Statement (.queueStall core) := of_event rfl rfl

theorem taskFaultEnd (core : CoreId) : Statement (.taskFaultEnd core) := of_event rfl rfl

theorem preemption (core : CoreId) : Statement (.preemption core) := of_event rfl rfl

theorem saveImageWrite (core : CoreId) : Statement (.saveImageWrite core) := of_event rfl rfl

theorem taskPop (core : CoreId) : Statement (.taskPop core) := of_event rfl rfl

theorem ropeGroupRestore (core : CoreId) : Statement (.ropeGroupRestore core) := of_event rfl rfl

theorem taskWatchdog (core : CoreId) : Statement (.taskWatchdog core) := of_event rfl rfl

theorem stopWatchdog (core : CoreId) : Statement (.stopWatchdog core) := of_event rfl rfl

theorem ctxKill (ctx : CtxId) : Statement (.ctxKill ctx) := of_event rfl rfl

theorem contextDrainDone (ctx : CtxId) : Statement (.contextDrainDone ctx) := of_event rfl rfl

theorem ctxCfgWrite (ctx : CtxId) (v : Word64) : Statement (.ctxCfgWrite ctx v) := of_event rfl rfl

theorem sqTailWrite (ctx : CtxId) (v : BitVec 32) : Statement (.sqTailWrite ctx v) := of_event rfl rfl

theorem sqStopClear (ctx : CtxId) : Statement (.sqStopClear ctx) := of_event rfl rfl

theorem submissionRead (ctx : CtxId) : Statement (.submissionRead ctx) := of_event rfl rfl

theorem finalise (lc : BitVec 12) : Statement (.finalise lc) := of_event rfl rfl

theorem launchExpansion (lc : BitVec 12) : Statement (.launchExpansion lc) := of_event rfl rfl

theorem cairnArm (cairn : BitVec 12) (v : Word64) : Statement (.cairnArm cairn v) := of_event rfl rfl

theorem cairnFree (cairn : BitVec 12) (v : Word64) : Statement (.cairnFree cairn v) := of_event rfl rfl

theorem cairnCancel (cairn : BitVec 12) : Statement (.cairnCancel cairn) := of_event rfl rfl

theorem launchCancelled (cairn : BitVec 12) : Statement (.launchCancelled cairn) := of_event rfl rfl

theorem apertureWrite (ap : BitVec 3) (reg : BitVec 2) (v : Word64) : Statement (.apertureWrite ap reg v) := of_event rfl rfl

theorem inboundRead (off : BitVec 39) (len : Nat) : Statement (.inboundRead off len) := of_event rfl rfl

theorem inboundWrite (off : BitVec 39) (data : List Byte) : Statement (.inboundWrite off data) := of_event rfl rfl

theorem inboundAtomicop (off : BitVec 39) : Statement (.inboundAtomicop off) := of_event rfl rfl

theorem registerWrite (off : BitVec 24) (size : Nat) (v : Word64) : Statement (.registerWrite off size v) := of_event rfl rfl

theorem vmInvalidate (cmd : Option Word64) : Statement (.vmInvalidate cmd) := of_event rfl rfl

theorem vmPageOut (cmd : Option Word64) : Statement (.vmPageOut cmd) := of_event rfl rfl

theorem vmPageIn (cmd : Option Word64) : Statement (.vmPageIn cmd) := of_event rfl rfl

theorem vmCommandDone : Statement .vmCommandDone := of_event rfl rfl

theorem vmFreePush (die : BitVec 2) (v : Word64) : Statement (.vmFreePush die v) := of_event rfl rfl

theorem vmRetRead : Statement .vmRetRead := of_event rfl rfl

theorem atsTranslationCompletion (req : Nat) (res : AtsResult) : Statement (.atsTranslationCompletion req res) := of_event rfl rfl

theorem prgResponse (idx : BitVec 9) (code : PrgCode) : Statement (.prgResponse idx code) := of_event rfl rfl

theorem atsInvalidateRequest (itag : BitVec 5) (pasid : BitVec 20) (va : Word64) (len : Word64) : Statement (.atsInvalidateRequest itag pasid va len) := of_event rfl rfl

theorem invalidationCompletion : Statement .invalidationCompletion := of_event rfl rfl

theorem hostReadCompletion (req : Nat) (data : List Byte) : Statement (.hostReadCompletion req data) := of_event rfl rfl

theorem peerFlitReceive (port : BitVec 1) (flit : PeerFlit) : Statement (.peerFlitReceive port flit) := of_event rfl rfl

theorem peerReplayTimeout (port : BitVec 1) : Statement (.peerReplayTimeout port) := of_event rfl rfl

theorem peerCommandTimeout (port : BitVec 1) (cseq : BitVec 32) : Statement (.peerCommandTimeout port cseq) := of_event rfl rfl

theorem peerLinkUp (port : BitVec 1) : Statement (.peerLinkUp port) := of_event rfl rfl

theorem peerPortFailed (port : BitVec 1) : Statement (.peerPortFailed port) := of_event rfl rfl

theorem peerFailedClear (port : BitVec 1) : Statement (.peerFailedClear port) := of_event rfl rfl

theorem powerEvaluation (m : PowerSample) : Statement (.powerEvaluation m) := of_event rfl rfl

theorem scrub (pa : BitVec 39) (r : ScrubResult) : Statement (.scrub pa r) := of_event rfl rfl

theorem storageError (e : StorageError) (corrected : Bool) : Statement (.storageError e corrected) := of_event rfl rfl

theorem coldReset : Statement .coldReset := of_event rfl rfl

theorem bringupStep (step : BitVec 4) (r : StepResult) : Statement (.bringupStep step r) := of_event rfl rfl

theorem bootStepClear (step : BitVec 4) : Statement (.bootStepClear step) := of_event rfl rfl

theorem recoveryLoad (v : Word64) : Statement (.recoveryLoad v) := of_event rfl rfl

theorem recoveryLoadDone (image : Option (List Byte)) : Statement (.recoveryLoadDone image) := of_event rfl rfl

theorem spdmRequest (r : SpdmRequest) : Statement (.spdmRequest r) := of_event rfl rfl

theorem slpEnter : Statement .slpEnter := of_event rfl rfl

theorem bivouacEntryDrained : Statement .bivouacEntryDrained := of_event rfl rfl

theorem bivouacEntryTimeout : Statement .bivouacEntryTimeout := of_event rfl rfl

theorem slpWake : Statement .slpWake := of_event rfl rfl

theorem wakeDone : Statement .wakeDone := of_event rfl rfl

theorem updWriteImage (v : Word64) : Statement (.updWriteImage v) := of_event rfl rfl

theorem updWriteDone (r : UpdResult) : Statement (.updWriteDone r) := of_event rfl rfl

theorem updRaiseMinimum (v : Word64) : Statement (.updRaiseMinimum v) := of_event rfl rfl

theorem illegalInstruction (w : Word32) : Statement (.illegalInstruction w) := of_event rfl rfl

theorem instructionCacheFill (core : CoreId) (vs : Bool) : Statement (.instructionCacheFill core vs) := of_event rfl rfl

theorem registerWindowRead (off : BitVec 24) (size : Nat) : Statement (.registerWindowRead off size) := of_event rfl rfl

theorem powerLoss : Statement .powerLoss := of_event rfl rfl

end Sys2Proof.Laws.RoundTrip
end

