-- ==== Sys2Proof/Safety.lean ====
section
/-! DEFINITION. What counts as a safe run: the steps go on, and tables and memories keep their canonical forms. -/

namespace Sys2Proof.Machine

/-- A step answers a next state: the manual gives it an effect. -/
def State.goesOn (s : State) : Prop := ∃ t, step s = .next t

/-- A core's tables and memories are canonical: its scratch, its register space, its copy tags and its barriers. -/
def Core.wf (c : Core) : Bool :=
  Memory.wf c.scratch && Memory.wf c.regs && tabWf none c.tags && tabWf Barrier.reset c.bars

/-- The card's tables and memories are canonical: equal contents are equal data. -/
def State.wf (s : State) : Bool :=
  Memory.wf s.dram && tabWf Core.reset s.cores && tabWf Ctx.reset s.ctxs && tabWf Lane.reset s.lanes && tabWf none s.slots &&
  s.cores.all fun p => p.2.wf

end Sys2Proof.Machine
end

