-- ==== Sys2Proof/Certificates/Slice0/Obligations.lean ====
section
/-! DEFINITION. The statements for the provers, from the numbered rules of spec/. The vocabulary they share comes first: how a
control instruction leaves the core it runs on, written in the model's registers and in plain arithmetic. -/

open Sys2Proof Sys2Proof.Machine

namespace Sys2Proof.Claims

/-- A control register written, and the PC past an instruction of `n` words. -/
def written (s : State) (d : BitVec 5) (v : Word64) (n : Nat) : State := s.setMe ((s.me.setG d v).adv n)

/-- The same for an instruction that may have waited: the core waits no more. -/
def woken (s : State) (d : BitVec 5) (v : Word64) (n : Nat) : State := s.setMe ((s.me.awake.setG d v).adv n)

/-- The core's task ends with the record of a control-stream trap (R337-R339): cause, d0, d1; the command queue and the
address-queue entries that the engine has not begun to serve are discarded; the PC stays. -/
def trapped (s : State) (cause d0 d1 : Nat) : State :=
  s.setMe { s.me with
    run := .stopping {
      cause := BitVec.ofNat 8 cause, src := 0, eng := 0, zpf := false, cmd := s.me.cmdIdx, pc := s.me.pc, grp := 0, j := []
      ofs := 0, status := s.me.queueStatus, d0 := BitVec.ofNat 64 d0, d1 := BitVec.ofNat 64 d1, tag := [] }
    wait := .no, cmdq := [], aq := s.me.aq.filter (·.begun), stopUs := 0, preemptReq := false }

/-- Nothing but the current core differs, and it not in its other parts than `f` allows. -/
def onlyMe (s t : State) : Prop :=
  { t with cores := s.cores } = s ∧ ∀ k, k ≠ s.cur → t.core k = s.core k

/-- No command in flight may still arrive at a sync word that has a byte in `n` bytes of a core's scratch from `a` (R95). -/
def unawaited (s : State) (k : CoreId) (a n : Nat) : Prop := ∀ w ∈ s.awaitedWords k, w + 16 ≤ a ∨ a + n ≤ w

/-- Every byte the card stores reads as before: device memory, and every core's scratch and register space. -/
def memoryKept (s t : State) : Prop :=
  (∀ a, memGet t.dram a = memGet s.dram a) ∧
  ∀ k a, memGet (t.core k).scratch a = memGet (s.core k).scratch a ∧ memGet (t.core k).regs a = memGet (s.core k).regs a

end Sys2Proof.Claims

open Sys2Proof.Claims

/-! ## The control stream's core set -/

/-- R128 without division: every two-register operation completes, with its result in gd. .W is the same on the low 32 bits, the
result sign-extended; the shift amount is y mod 64, or y mod 32 under .W. -/
def Obligations.IntegerOperations : Prop :=
  ∀ (d a b : BitVec 5) (s : State),
    let x := s.me.gr a
    let y := s.me.gr b
    let xw := x.toNat % 2 ^ 32
    let yw := y.toNat % 2 ^ 32
    let low : Nat → Word64 := fun v => (BitVec.ofNat 32 v).signExtend 64
    exec (.add d a b false) s = .next (written s d (BitVec.ofNat 64 (x.toNat + y.toNat)) 1) ∧
    exec (.add d a b true) s = .next (written s d (low (xw + yw)) 1) ∧
    exec (.sub d a b false) s = .next (written s d (BitVec.ofNat 64 (x.toNat + 2 ^ 64 - y.toNat)) 1) ∧
    exec (.sub d a b true) s = .next (written s d (low (xw + 2 ^ 32 - yw)) 1) ∧
    exec (.and d a b) s = .next (written s d (x &&& y) 1) ∧
    exec (.or d a b) s = .next (written s d (x ||| y) 1) ∧
    exec (.xor d a b) s = .next (written s d (x ^^^ y) 1) ∧
    exec (.shl d a b false) s = .next (written s d (BitVec.ofNat 64 (x.toNat * 2 ^ (y.toNat % 64))) 1) ∧
    exec (.shl d a b true) s = .next (written s d (low (xw * 2 ^ (y.toNat % 32))) 1) ∧
    exec (.shr d a b false) s = .next (written s d (BitVec.ofNat 64 (x.toNat / 2 ^ (y.toNat % 64))) 1) ∧
    exec (.shr d a b true) s = .next (written s d (low (xw / 2 ^ (y.toNat % 32))) 1) ∧
    exec (.sar d a b false) s = .next (written s d (BitVec.ofInt 64 (x.toInt / 2 ^ (y.toNat % 64))) 1) ∧
    exec (.sar d a b true) s =
      .next (written s d (BitVec.ofInt 64 ((BitVec.ofNat 32 xw).toInt / 2 ^ (y.toNat % 32))) 1) ∧
    exec (.mul d a b false) s = .next (written s d (BitVec.ofNat 64 (x.toNat * y.toNat)) 1) ∧
    exec (.mul d a b true) s = .next (written s d (low (xw * yw)) 1) ∧
    exec (.mulh d a b) s = .next (written s d (BitVec.ofInt 64 (x.toInt * y.toInt / 2 ^ 64)) 1) ∧
    exec (.mulhu d a b) s = .next (written s d (BitVec.ofNat 64 (x.toNat * y.toNat / 2 ^ 64)) 1) ∧
    exec (.slt d a b) s = .next (written s d (if x.toInt < y.toInt then 1 else 0) 1) ∧
    exec (.sltu d a b) s = .next (written s d (if x.toNat < y.toNat then 1 else 0) 1) ∧
    exec (.min d a b) s = .next (written s d (BitVec.ofInt 64 (Min.min x.toInt y.toInt)) 1) ∧
    exec (.max d a b) s = .next (written s d (BitVec.ofInt 64 (Max.max x.toInt y.toInt)) 1) ∧
    exec (.minu d a b) s = .next (written s d (BitVec.ofNat 64 (Min.min x.toNat y.toNat)) 1) ∧
    exec (.maxu d a b) s = .next (written s d (BitVec.ofNat 64 (Max.max x.toNat y.toNat)) 1)

/-- R129: DIV, DIVU, REM and REMU, with and without .W, complete for every operand. The quotient is the exact one rounded toward
zero; a zero divisor gives all ones, and the dividend as the remainder; the most negative number divided by -1 gives itself and
the remainder 0. No flag changes. -/
def Obligations.DivisionResults : Prop :=
  ∀ (d a b : BitVec 5) (s : State),
    let x := s.me.gr a
    let y := s.me.gr b
    let xw : BitVec 32 := BitVec.ofNat 32 x.toNat
    let yw : BitVec 32 := BitVec.ofNat 32 y.toNat
    let low : BitVec 32 → Word64 := fun v => v.signExtend 64
    (∃ q r qu ru, exec (.div d a b false) s = .next (written s d q 1) ∧ exec (.rem d a b false) s = .next (written s d r 1) ∧
      exec (.divu d a b false) s = .next (written s d qu 1) ∧ exec (.remu d a b false) s = .next (written s d ru 1) ∧
      (written s d q 1).me.fpFlags = s.me.fpFlags ∧
      (y = 0 → q = BitVec.ofInt 64 (-1) ∧ qu = BitVec.ofNat 64 (2 ^ 64 - 1) ∧ r = x ∧ ru = x) ∧
      (x.toInt = -2 ^ 63 → y.toInt = -1 → q.toInt = -2 ^ 63 ∧ r = 0) ∧
      (y ≠ 0 → ¬(x.toInt = -2 ^ 63 ∧ y.toInt = -1) →
        q.toInt = x.toInt.tdiv y.toInt ∧ r.toInt = x.toInt - y.toInt * x.toInt.tdiv y.toInt) ∧
      (y ≠ 0 → qu.toNat = x.toNat / y.toNat ∧ ru.toNat = x.toNat - y.toNat * (x.toNat / y.toNat))) ∧
    (∃ q r qu ru, exec (.div d a b true) s = .next (written s d (low q) 1) ∧
      exec (.rem d a b true) s = .next (written s d (low r) 1) ∧
      exec (.divu d a b true) s = .next (written s d (low qu) 1) ∧ exec (.remu d a b true) s = .next (written s d (low ru) 1) ∧
      (yw = 0 → q = BitVec.ofInt 32 (-1) ∧ qu = BitVec.ofNat 32 (2 ^ 32 - 1) ∧ r = xw ∧ ru = xw) ∧
      (xw.toInt = -2 ^ 31 → yw.toInt = -1 → q.toInt = -2 ^ 31 ∧ r = 0) ∧
      (yw ≠ 0 → ¬(xw.toInt = -2 ^ 31 ∧ yw.toInt = -1) →
        q.toInt = xw.toInt.tdiv yw.toInt ∧ r.toInt = xw.toInt - yw.toInt * xw.toInt.tdiv yw.toInt) ∧
      (yw ≠ 0 → qu.toNat = xw.toNat / yw.toNat ∧ ru.toNat = xw.toNat - yw.toNat * (xw.toNat / yw.toNat)))

/-- R130 and R106: the operations with an immediate. The immediate is the sign-extended base field of 15 bits, or with one LIMM
word the sign-extended 40 bits of its 25 above them, or with two the low 64 of the 65 bits; the PC moves past the LIMM words.
R131: a shift by an immediate completes as the register shift by that amount; a .W word with sh of 32 or more is not well-
formed. -/
def Obligations.ImmediateOperations : Prop :=
  (∀ (d a : BitVec 5) (base : BitVec 15) (e : LimmExt) (s : State),
     let x := s.me.gr a
     let i : Imm 15 := ⟨base, e⟩
     let v : Int := match e with
       | .none => base.toInt
       | .one l => sext 40 (l.toNat * 2 ^ 15 + base.toNat)
       | .two l m => ((m.toNat * 2 ^ 40 + l.toNat * 2 ^ 15 + base.toNat : Nat) : Int)
     let y := BitVec.ofInt 64 v
     let n := match e with | .none => 1 | .one _ => 2 | .two _ _ => 3
     exec (.addi d a i) s = .next (written s d (x + y) n) ∧
     exec (.andi d a i) s = .next (written s d (x &&& y) n) ∧
     exec (.ori d a i) s = .next (written s d (x ||| y) n) ∧
     exec (.xori d a i) s = .next (written s d (x ^^^ y) n) ∧
     exec (.slti d a i) s = .next (written s d (if x.toInt < y.toInt then 1 else 0) n) ∧
     exec (.sltiu d a i) s = .next (written s d (if x.toNat < y.toNat then 1 else 0) n)) ∧
  (∀ (d a : BitVec 5) (h : BitVec 6) (s : State),
     let x := s.me.gr a
     let xw : BitVec 32 := BitVec.ofNat 32 x.toNat
     exec (.shli d a false h) s = .next (written s d (BitVec.ofNat 64 (x.toNat * 2 ^ h.toNat)) 1) ∧
     exec (.shri d a false h) s = .next (written s d (BitVec.ofNat 64 (x.toNat / 2 ^ h.toNat)) 1) ∧
     exec (.sari d a false h) s = .next (written s d (BitVec.ofInt 64 (x.toInt / 2 ^ h.toNat)) 1) ∧
     (h.toNat < 32 →
       exec (.shli d a true h) s = .next (written s d ((BitVec.ofNat 32 (xw.toNat * 2 ^ h.toNat)).signExtend 64) 1) ∧
       exec (.shri d a true h) s = .next (written s d ((BitVec.ofNat 32 (xw.toNat / 2 ^ h.toNat)).signExtend 64) 1) ∧
       exec (.sari d a true h) s = .next (written s d (BitVec.ofInt 64 (xw.toInt / 2 ^ h.toNat)) 1)) ∧
     (32 ≤ h.toNat → (Instr.shli d a true h).wellFormed = false ∧ (Instr.shri d a true h).wellFormed = false ∧
       (Instr.sari d a true h).wellFormed = false))

/-- R132: a conditional branch goes to PC + 4 × its signed offset where its comparison holds, else past itself; it changes no
register. -/
def Obligations.ConditionalBranches : Prop :=
  ∀ (a b : BitVec 5) (i : BitVec 15) (s : State),
    let x := s.me.gr a
    let y := s.me.gr b
    let going : Prop → Host.Outcome State Fault Refusal → Prop := fun p o =>
      ∃ t, o = .next t ∧ onlyMe s t ∧ (∀ r, t.me.gr r = s.me.gr r) ∧
        { t.me with pc := s.me.pc, pcFrom := s.me.pcFrom } = s.me ∧ t.me.pcFrom = s.me.pc ∧
        (p → t.me.pc = s.me.pc + BitVec.ofInt 64 (4 * i.toInt)) ∧ (¬p → t.me.pc = s.me.pc + 4)
    going (x = y) (exec (.beq a b i) s) ∧ going (x ≠ y) (exec (.bne a b i) s) ∧
    going (x.toInt < y.toInt) (exec (.blt a b i) s) ∧ going (y.toInt ≤ x.toInt) (exec (.bge a b i) s) ∧
    going (x.toNat < y.toNat) (exec (.bltu a b i) s) ∧ going (y.toNat ≤ x.toNat) (exec (.bgeu a b i) s)

/-- R133: JAL and JALR link to the word after their last and jump; the base register is read before the link is written (also
where they are one register), and a next PC that is not a multiple of 4 raises the fetch trap at the JALR, with the next PC and
the JALR's own as its record's words. -/
def Obligations.JumpsAndLinks : Prop :=
  ∀ (d a : BitVec 5) (i : BitVec 20) (j : Imm 15) (s : State),
    exec (.jal d i) s =
      .next (s.setMe ((s.me.setG d (s.me.pc + 4)).goto (s.me.pc + BitVec.ofInt 64 (4 * i.toInt)))) ∧
    ((s.me.gr a + imm15 j).toNat % 4 = 0 →
      exec (.jalr d a j) s =
        .next (s.setMe ((s.me.setG d (s.me.pc + BitVec.ofNat 64 (4 * immWords j))).goto (s.me.gr a + imm15 j)))) ∧
    ((s.me.gr a + imm15 j).toNat % 4 ≠ 0 → s.me.run = .running →
      exec (.jalr d a j) s = .next (trapped s 3 (s.me.gr a + imm15 j).toNat s.me.pc.toNat))

/-- R126: g0 reads as zero and a write to it is discarded; every other register reads as last written, and a write to one leaves
the others. -/
def Obligations.ControlRegisters : Prop :=
  ∀ (d r : BitVec 5) (v : Word64) (n : Nat) (s : State),
    (written s d v n).me.gr 0 = 0 ∧
    (r ≠ 0 → r = d → (written s d v n).me.gr r = v) ∧
    (r ≠ d → (written s d v n).me.gr r = s.me.gr r) ∧
    (written s d v n).me.pc = s.me.pc + BitVec.ofNat 64 (4 * n) ∧
    (written s 0 v n) = s.setMe (s.me.adv n)

namespace Sys2Proof.Claims

/-- The control instructions that change a control register and the PC alone (R126-R133, R141, R166), with that register. -/
inductive RegisterOnly : Instr → BitVec 5 → Prop where
  | add (d a b : BitVec 5) (w : Bool) : RegisterOnly (.add d a b w) d
  | sub (d a b : BitVec 5) (w : Bool) : RegisterOnly (.sub d a b w) d
  | and (d a b : BitVec 5) : RegisterOnly (.and d a b) d
  | or (d a b : BitVec 5) : RegisterOnly (.or d a b) d
  | xor (d a b : BitVec 5) : RegisterOnly (.xor d a b) d
  | shl (d a b : BitVec 5) (w : Bool) : RegisterOnly (.shl d a b w) d
  | shr (d a b : BitVec 5) (w : Bool) : RegisterOnly (.shr d a b w) d
  | sar (d a b : BitVec 5) (w : Bool) : RegisterOnly (.sar d a b w) d
  | mul (d a b : BitVec 5) (w : Bool) : RegisterOnly (.mul d a b w) d
  | mulh (d a b : BitVec 5) : RegisterOnly (.mulh d a b) d
  | mulhu (d a b : BitVec 5) : RegisterOnly (.mulhu d a b) d
  | div (d a b : BitVec 5) (w : Bool) : RegisterOnly (.div d a b w) d
  | divu (d a b : BitVec 5) (w : Bool) : RegisterOnly (.divu d a b w) d
  | rem (d a b : BitVec 5) (w : Bool) : RegisterOnly (.rem d a b w) d
  | remu (d a b : BitVec 5) (w : Bool) : RegisterOnly (.remu d a b w) d
  | slt (d a b : BitVec 5) : RegisterOnly (.slt d a b) d
  | sltu (d a b : BitVec 5) : RegisterOnly (.sltu d a b) d
  | min (d a b : BitVec 5) : RegisterOnly (.min d a b) d
  | max (d a b : BitVec 5) : RegisterOnly (.max d a b) d
  | minu (d a b : BitVec 5) : RegisterOnly (.minu d a b) d
  | maxu (d a b : BitVec 5) : RegisterOnly (.maxu d a b) d
  | addi (d a : BitVec 5) (i : Imm 15) : RegisterOnly (.addi d a i) d
  | andi (d a : BitVec 5) (i : Imm 15) : RegisterOnly (.andi d a i) d
  | ori (d a : BitVec 5) (i : Imm 15) : RegisterOnly (.ori d a i) d
  | xori (d a : BitVec 5) (i : Imm 15) : RegisterOnly (.xori d a i) d
  | slti (d a : BitVec 5) (i : Imm 15) : RegisterOnly (.slti d a i) d
  | sltiu (d a : BitVec 5) (i : Imm 15) : RegisterOnly (.sltiu d a i) d
  | shli (d a : BitVec 5) (w : Bool) (h : BitVec 6) : RegisterOnly (.shli d a w h) d
  | shri (d a : BitVec 5) (w : Bool) (h : BitVec 6) : RegisterOnly (.shri d a w h) d
  | sari (d a : BitVec 5) (w : Bool) (h : BitVec 6) : RegisterOnly (.sari d a w h) d
  | jal (d : BitVec 5) (i : BitVec 20) : RegisterOnly (.jal d i) d

/-- The control instructions that store to the core's scratch (R135, R137): the instruction, whether it is an atomic, the register it
writes (g0 for a store), its address in a state, and the bytes it stores to from there. -/
inductive ScratchStore : Instr → Bool → BitVec 5 → (State → Int) → Nat → Prop where
  | st (g a : BitVec 5) (w : BitVec 2) (i : Imm 12) :
      ScratchStore (.st g a w i) false 0 (fun s => (s.me.gr a).toInt + (imm12 i).toInt) (2 ^ w.toNat)
  | amoAdd (d a b : BitVec 5) (r : BitVec 2) (x : Bool) :
      ScratchStore (.amoAdd d a b r x) true d (fun s => (s.me.gr a).toInt) (if x then 8 else 4)
  | amoAnd (d a b : BitVec 5) (r : BitVec 2) (x : Bool) :
      ScratchStore (.amoAnd d a b r x) true d (fun s => (s.me.gr a).toInt) (if x then 8 else 4)
  | amoOr (d a b : BitVec 5) (r : BitVec 2) (x : Bool) :
      ScratchStore (.amoOr d a b r x) true d (fun s => (s.me.gr a).toInt) (if x then 8 else 4)
  | amoXor (d a b : BitVec 5) (r : BitVec 2) (x : Bool) :
      ScratchStore (.amoXor d a b r x) true d (fun s => (s.me.gr a).toInt) (if x then 8 else 4)
  | amoMin (d a b : BitVec 5) (r : BitVec 2) (x : Bool) :
      ScratchStore (.amoMin d a b r x) true d (fun s => (s.me.gr a).toInt) (if x then 8 else 4)
  | amoMax (d a b : BitVec 5) (r : BitVec 2) (x : Bool) :
      ScratchStore (.amoMax d a b r x) true d (fun s => (s.me.gr a).toInt) (if x then 8 else 4)
  | amoMinu (d a b : BitVec 5) (r : BitVec 2) (x : Bool) :
      ScratchStore (.amoMinu d a b r x) true d (fun s => (s.me.gr a).toInt) (if x then 8 else 4)
  | amoMaxu (d a b : BitVec 5) (r : BitVec 2) (x : Bool) :
      ScratchStore (.amoMaxu d a b r x) true d (fun s => (s.me.gr a).toInt) (if x then 8 else 4)
  | amoSwap (d a b : BitVec 5) (r : BitVec 2) (x : Bool) :
      ScratchStore (.amoSwap d a b r x) true d (fun s => (s.me.gr a).toInt) (if x then 8 else 4)
  | amoCas (d a b : BitVec 5) (r : BitVec 2) (x : Bool) :
      ScratchStore (.amoCas d a b r x) true d (fun s => (s.me.gr a).toInt) (if x then 8 else 4)

/-- Whether a core's scratch is plain storage over `n` bytes from `a` (R75, R135): it lies in plain scratch, or in the window of
a SCRATCH bank with no CIM.MODE on it under way. -/
def plainStorage (c : Core) (a n : Nat) : Prop :=
  a + n ≤ 0x40000 ∨
  (0x40000 ≤ a ∧ a + n ≤ 0xA0000 ∧ (c.bank (BitVec.ofNat 5 ((a - 0x40000) / 0x3000))).compute = false ∧
    c.modePending (BitVec.ofNat 5 ((a - 0x40000) / 0x3000)) = false)

end Sys2Proof.Claims

/-- The frame of the instructions that write a control register (ADD to MAXU, ADDI to SLTIU, SHLI, SHRI, SARI, JAL): whenever
one goes on, it completes, every other control register stands, so does the rest of the core (flags, special registers, queues,
banks, accumulators) but its PC, so does every byte stored anywhere, and so does every other part of the card. -/
def Obligations.RegisterOnlyFrame : Prop :=
  ∀ (i : Instr) (d : BitVec 5) (s : State), RegisterOnly i d →
    ∃ t, exec i s = .next t ∧ onlyMe s t ∧ memoryKept s t ∧ (∀ r, r ≠ d → t.me.gr r = s.me.gr r) ∧
      { t.me with g := s.me.g, pc := s.me.pc, pcFrom := s.me.pcFrom } = s.me

/-- R135: a load of plain storage reads its bytes, little-endian, zero-extended by LD and sign-extended by LDS. R135: a store to
plain storage completes; each of its bytes reads as the register's, lowest first, and every other byte of scratch as before. R95:
where a command in flight may still arrive at a sync word that the store touches, the store completes too, and the bytes of that
word alone are not given. -/
def Obligations.ScratchLoadsAndStores : Prop :=
  (∀ (g b : BitVec 5) (w : BitVec 2) (i : Imm 12) (a : Nat) (s : State),
     (s.me.gr b).toInt + (imm12 i).toInt = a → a % 2 ^ w.toNat = 0 → plainStorage s.me a (2 ^ w.toNat) →
     let v := memNat s.me.scratch a (2 ^ w.toNat)
     exec (.ld g b w i) s = .next (woken s g (BitVec.ofNat 64 v) (immWords i)) ∧
     exec (.lds g b w i) s = .next (woken s g (BitVec.ofInt 64 (sext (8 * 2 ^ w.toNat) v)) (immWords i))) ∧
  (∀ (g b : BitVec 5) (w : BitVec 2) (i : Imm 12) (a : Nat) (s : State),
     (s.me.gr b).toInt + (imm12 i).toInt = a → a % 2 ^ w.toNat = 0 → plainStorage s.me a (2 ^ w.toNat) →
     ∃ t, exec (.st g b w i) s = .next t ∧ { t with cores := s.cores, seq := s.seq } = s ∧
       (unawaited s s.cur a (2 ^ w.toNat) → t.seq = s.seq) ∧ (∀ k, k ≠ s.cur → t.core k = s.core k) ∧
       t.me.pc = s.me.pc + BitVec.ofNat 64 (4 * immWords i) ∧
       (∀ k, k < 2 ^ w.toNat → unawaited s s.cur (a + k) 1 →
         memGet t.me.scratch (a + k) = BitVec.ofNat 8 ((s.me.gr g).toNat / 2 ^ (8 * k))) ∧
       (∀ x, x < a ∨ a + 2 ^ w.toNat ≤ x → unawaited s s.cur x 1 → memGet t.me.scratch x = memGet s.me.scratch x) ∧
       (unawaited s s.cur a (2 ^ w.toNat) →
         ∀ x, x < a ∨ a + 2 ^ w.toNat ≤ x → memGet t.me.scratch x = memGet s.me.scratch x) ∧
       { t.me with scratch := s.me.scratch, dirty := s.me.dirty, wait := s.me.wait, pc := s.me.pc, pcFrom := s.me.pcFrom } = s.me)

/-- R136 and R76: loads of the control page. core.id reads as the core's number; the bank status words and the accumulator
overflow masks read by words of 4 or of 8 bytes; everything else of the page reads as 0. R136: stores to the control page. A
store to an accumulator overflow mask clears the bits that are 1 in what it stores, in the half it writes; a store to core.id or
to a bank status word changes nothing. -/
def Obligations.ControlPage : Prop :=
  (∀ (g b : BitVec 5) (s : State),
     let ld4 := fun (o : Nat) (v : Nat) => (s.me.gr b).toNat = 0xF0000 + o →
       exec (.ld g b 2 ⟨0, .none⟩) s = .next (woken s g (BitVec.ofNat 64 v) 1)
     let ld8 := fun (o : Nat) (v : Nat) => (s.me.gr b).toNat = 0xF0000 + o →
       exec (.ld g b 3 ⟨0, .none⟩) s = .next (woken s g (BitVec.ofNat 64 v) 1)
     ld4 0 s.cur.toNat ∧ ld8 0 s.cur.toNat ∧
     (∀ k : Fin 32, ld4 (0x100 + 4 * k) (s.me.banks[k]).status) ∧
     (∀ k : Fin 16, ld8 (0x100 + 8 * k)
       ((s.me.bank (BitVec.ofNat 5 (2 * k))).status + 2 ^ 32 * (s.me.bank (BitVec.ofNat 5 (2 * k + 1))).status)) ∧
     (∀ k : Fin 16, ld8 (0x200 + 8 * k) (s.me.accOvf[k]).toNat ∧ ld4 (0x200 + 8 * k) ((s.me.accOvf[k]).toNat % 2 ^ 32) ∧
       ld4 (0x204 + 8 * k) ((s.me.accOvf[k]).toNat / 2 ^ 32)) ∧
     (∀ o, o % 4 = 0 → o < 0x1000 → o ≠ 0 → (o < 0x100 ∨ (0x180 ≤ o ∧ o < 0x200) ∨ 0x280 ≤ o) → ld4 o 0)) ∧
  (∀ (g b : BitVec 5) (s : State),
     let v := s.me.gr g
     (∀ k : Fin 16, (s.me.gr b).toNat = 0xF0200 + 8 * k →
       exec (.st g b 3 ⟨0, .none⟩) s =
         .next (s.setMe ({ s.me.awake with accOvf := s.me.accOvf.set k (s.me.accOvf[k] &&& ~~~v) }.adv 1)) ∧
       exec (.st g b 2 ⟨0, .none⟩) s =
         .next (s.setMe ({ s.me.awake with accOvf := s.me.accOvf.set k (s.me.accOvf[k] &&& ~~~(v &&& 0xFFFFFFFF)) }.adv 1))) ∧
     (∀ k : Fin 16, (s.me.gr b).toNat = 0xF0204 + 8 * k →
       exec (.st g b 2 ⟨0, .none⟩) s = .next (s.setMe ({ s.me.awake with accOvf := s.me.accOvf.set k (s.me.accOvf[k] &&& ~~~(v <<< 32)) }.adv 1))) ∧
     (∀ o : Nat, o = 0 ∨ (0x100 ≤ o ∧ o < 0x180) → (s.me.gr b).toNat = 0xF0000 + o →
       (o % 4 = 0 → exec (.st g b 2 ⟨0, .none⟩) s = .next (s.setMe (s.me.awake.adv 1))) ∧
       (o % 8 = 0 → exec (.st g b 3 ⟨0, .none⟩) s = .next (s.setMe (s.me.awake.adv 1)))))

namespace Sys2Proof.Claims

/-- The accesses of R135 and R137 in their order of checks: what an access of `n` bytes at a signed address `ea`, an atomic or
not, raises: cause, d0, d1. -/
inductive AccessTraps (c : Core) (n : Nat) (amo : Bool) : Int → Nat → Nat → Nat → Prop where
  | range (ea : Int) : ea < 0 ∨ 2 ^ 20 < ea + n → AccessTraps c n amo ea 4 (BitVec.ofInt 64 ea).toNat n
  | align (a : Nat) : a + n ≤ 2 ^ 20 → a % n ≠ 0 → AccessTraps c n amo a 5 a n
  | hole (a : Nat) : a + n ≤ 2 ^ 20 → a % n = 0 → (0xA0000 ≤ a ∧ a < 0xF0000 ∨ 0xF1000 ≤ a) → AccessTraps c n amo a 4 a n
  | page (a : Nat) : a % n = 0 → 0xF0000 ≤ a → a < 0xF1000 → (n < 4 ∨ amo = true) → AccessTraps c n amo a 4 a n
  | bank (a : Nat) (b : BitVec 5) : a % n = 0 → 0x40000 + b.toNat * 0x3000 ≤ a → a < 0x40000 + b.toNat * 0x3000 + 0x3000 →
      c.modePending b = false → (c.bank b).compute = true → AccessTraps c n amo a 6 b.toNat (c.bank b).status

end Sys2Proof.Claims

/-- R135 and R137: where a load, a store or a scratch atomic traps, and with what: scratch range, alignment, the control page
for accesses under 4 bytes and for atomics, and the window of a COMPUTE bank. It has no other effect. R135 and R127: a load,
store or scratch atomic in the window of a bank whose CIM.MODE has not finished zeroing waits, with no register or byte changed,
to execute again. -/
def Obligations.ScratchAccessTrapsAndWaits : Prop :=
  (∀ (s : State) (cause d0 d1 : Nat), s.me.run = .running →
     (∀ (g b : BitVec 5) (w : BitVec 2) (i : Imm 12),
       AccessTraps s.me (2 ^ w.toNat) false ((s.me.gr b).toInt + (imm12 i).toInt) cause d0 d1 →
       exec (.ld g b w i) s = .next (trapped s cause d0 d1) ∧ exec (.lds g b w i) s = .next (trapped s cause d0 d1) ∧
       exec (.st g b w i) s = .next (trapped s cause d0 d1)) ∧
     (∀ (i : Instr) (amo : Bool) (d : BitVec 5) (ea : State → Int) (n : Nat), ScratchStore i amo d ea n →
       AccessTraps s.me n amo (ea s) cause d0 d1 →
       exec i s = .next (trapped s cause d0 d1))) ∧
  (∀ (s : State) (a n : Nat) (b : BitVec 5), a % n = 0 → 0x40000 + b.toNat * 0x3000 ≤ a →
     a < 0x40000 + b.toNat * 0x3000 + 0x3000 → s.me.modePending b = true →
     (∀ (g r : BitVec 5) (w : BitVec 2) (i : Imm 12), n = 2 ^ w.toNat → (s.me.gr r).toInt + (imm12 i).toInt = a →
       exec (.ld g r w i) s = .next (s.setMe { s.me with wait := .again (.ld g r w i) }) ∧
       exec (.lds g r w i) s = .next (s.setMe { s.me with wait := .again (.lds g r w i) })) ∧
     (∀ (i : Instr) (amo : Bool) (d : BitVec 5) (ea : State → Int), ScratchStore i amo d ea n → ea s = a →
       exec i s = .next (s.setMe { s.me with wait := .again i })))

/-- R137 and R138: the scratch atomics complete on plain storage: the old value in gd, zero-extended; the unit holds the new
value; .REL and .AR count a release at core scope. -/
def Obligations.ScratchAtomics : Prop :=
  ∀ (d b c : BitVec 5) (r : BitVec 2) (x : Bool) (a : Nat) (s : State),
    let n := if x then 8 else 4
    let w := 8 * n
    (s.me.gr b).toInt = a → a % n = 0 → plainStorage s.me a n →
    let old := memNat s.me.scratch a n
    let v := (s.me.gr c).toNat % 2 ^ w
    let goes : Instr → Nat → Prop := fun i new =>
      ∃ t, exec i s = .next t ∧ onlyMe s t ∧ memNat t.me.scratch a n = new ∧
        (∀ y, y < a ∨ a + n ≤ y → memGet t.me.scratch y = memGet s.me.scratch y) ∧
        (d ≠ 0 → t.me.gr d = BitVec.ofNat 64 old) ∧ (∀ q, q ≠ d → t.me.gr q = s.me.gr q) ∧
        t.me.pc = s.me.pc + 4 ∧ t.me.ivl = (if r = 2 ∨ r = 3 then s.me.ivl + 1 else s.me.ivl) ∧
        { t.me with scratch := s.me.scratch, dirty := s.me.dirty, wait := s.me.wait, pc := s.me.pc, pcFrom := s.me.pcFrom
                    g := s.me.g, ivl := s.me.ivl, relScopes := s.me.relScopes } = s.me
    goes (.amoAdd d b c r x) ((old + v) % 2 ^ w) ∧
    goes (.amoAnd d b c r x) (Nat.land old v) ∧
    goes (.amoOr d b c r x) (Nat.lor old v) ∧
    goes (.amoXor d b c r x) (Nat.xor old v) ∧
    goes (.amoMin d b c r x) (if sext w v < sext w old then v else old) ∧
    goes (.amoMax d b c r x) (if sext w old < sext w v then v else old) ∧
    goes (.amoMinu d b c r x) (Min.min old v) ∧
    goes (.amoMaxu d b c r x) (Max.max old v) ∧
    goes (.amoSwap d b c r x) v ∧
    goes (.amoCas d b c r x) (if old = (s.me.gr d).toNat % 2 ^ w then v else old)

/-! ## Fences, system registers, traps, event flags -/

namespace Sys2Proof.Claims

/-- What a fence over a path mask waits for has ended (R86-R88, R140): with VS in the mask, no loop command is queued or runs and
every result has landed; no command of the copy engine over a path of the mask is unfinished; and a DRAIN's gathers and scatters
have performed. The paths of a command are the model's reading (log 12). -/
def fenceOver (c : Core) (mask : Nat) (drain : Bool) : Prop :=
  (mask / 2 % 2 = 1 → c.loopRun = none ∧ c.landing = [] ∧ ∀ l, Cmd.loop l ∉ c.cmdq) ∧
  (∀ n t, (n, some t) ∈ c.tags → t.phase = .finished ∨ Nat.land t.paths mask = 0) ∧
  (drain = true → c.aq = [] ∧ c.elems = [])

/-- What a fence leaves: it has returned, a DRAIN.DURABLE with every write of the core's task durable, or it waits, everything
else standing. -/
def fenced (s : State) (k : CoreId) (mask : BitVec 6) (drain : Bool) (scope : BitVec 3) (o : Host.Outcome State Fault Refusal) : Prop :=
  (fenceOver (s.core k) mask.toNat drain →
    o = .next ((if drain = true ∧ scope = 7 then s.makeDurable (Unsaved.by k none) else s).setCore k ((s.core k).awake.adv 1))) ∧
  (¬fenceOver (s.core k) mask.toNat drain → o = .next (s.setCore k { s.core k with wait := .fence mask drain scope }))

/-- What bivouac entry may do to device memory (R102, R367, R373): each byte stands, or holds what stood before one of its writes that
had not performed at durable scope; and no unit is poisoned that was not, now or before such a write. -/
def mayLose (s t : State) : Prop :=
  (∀ a, memGet t.dram a = memGet s.dram a ∨ ∃ u ∈ s.unsaved, u.addr = a ∧ memGet t.dram a = u.old) ∧
  ∀ m ∈ t.poison, m ∈ s.poison ∨ ∃ u ∈ s.unsaved, u.poison = true ∧ u.addr / 64 = m

end Sys2Proof.Claims

/-- R140: FENCE, XFENCE and DRAIN return once their condition holds, and wait until it does; FENCE's and DRAIN's from takes in
every path. A waiting fence of a running core returns when its condition comes to hold. DRAIN.HOST and DRAIN.DURABLE wait beside
for scattered host writes; this statement is of a core that has none (R292 has its own). R292: a DRAIN.HOST or DRAIN.DURABLE,
when all else it waits for has ended and scattered writes to host memory have not been covered by a read, sends one zero-length
read of the task's context to the page last written, which covers them, and waits. R88 and R102: what a DRAIN.DURABLE makes durable before bivouac entry
has begun is every write of the core's task, with the older writes of the same bytes, and nothing else. Three clauses are the
model's choice, by the entries of the log they rest on: which paths a command is of (log 12, DEDUCED); that a rope follower's
fence waits for the leader's loop command that runs on it (log 16, DEDUCED: fenceOver's loopRun); and which writes become durable
(log 64, DEDUCED). -/
def Obligations.FencesReturn : Prop :=
  (∀ (sc : BitVec 3) (f t : BitVec 6) (s : State) (k : CoreId) (mask : BitVec 6) (drain : Bool),
     fenced s s.cur 63 false sc (exec (.fence sc) s) ∧
     fenced s s.cur f false sc (exec (.xfence sc f t) s) ∧
     ((s.me.hostWrites = 0 ∨ sc.toNat < 6) → fenced s s.cur 63 true sc (exec (.drain sc) s)) ∧
     ((s.core k).wait = .fence mask drain sc → (s.core k).run = .running → (s.core k).missCp = false →
       (drain = false ∨ (s.core k).hostWrites = 0 ∨ sc.toNat < 6) → fenced s k mask drain sc (exec (.fenceReturn k) s))) ∧
  (∀ (sc : BitVec 3) (s : State), fenceOver s.me 63 true → 6 ≤ sc.toNat → 0 < s.me.hostWrites →
     (∀ r ∈ s.ports.reads, ∀ n, r.who ≠ .drain s.cur n) →
     ∃ t, exec (.drain sc) s = .next t ∧ t.me = { s.me with wait := .fence 63 true sc } ∧
       t.ports.out = s.ports.out ++ [.hostRead s.ports.nextReq (s.hostAddr s.me.task.ctx s.me.hostPage.1 s.me.hostPage.2) 0] ∧
       t.ports.reads = s.ports.reads ++ [⟨s.ports.nextReq, s.me.task.ctx, .drain s.cur s.me.hostWrites⟩] ∧
       t.ports.nextReq = s.ports.nextReq + 1) ∧
  (∀ (s : State) (k : CoreId), s.fleet.slpState ≠ 1 →
     (∀ u ∈ (s.makeDurable (Unsaved.by k none)).unsaved, u ∈ s.unsaved ∧ ∀ i, u.who ≠ .task k i) ∧
     (∀ u ∈ s.unsaved, (∀ v ∈ s.unsaved, v.addr = u.addr → ∀ i, v.who ≠ .task k i) →
       u ∈ (s.makeDurable (Unsaved.by k none)).unsaved))

namespace Sys2Proof.Claims

/-- The system registers that SRD reads (R113, R21, R142, R143, R29), with their values; the race registers are those of the
task's context. -/
inductive SystemRegister (s : State) : Nat → Word64 → Prop where
  | taskTile : SystemRegister s 0x000 (s.me.task.tile.zeroExtend 64)
  | taskExtent (l : Launch) : s.launchOf s.cur = some l → SystemRegister s 0x001 (l.extent.zeroExtend 64)
  | taskLaunch : SystemRegister s 0x002 (s.me.task.launch.zeroExtend 64)
  | taskCtx : SystemRegister s 0x003 (s.me.task.ctx.zeroExtend 64)
  | jetOrder : SystemRegister s 0x010 (s.me.jetOrder.zeroExtend 64)
  | fpFlags : SystemRegister s 0x011 s.me.fpFlags
  | fpTrapen : SystemRegister s 0x012 s.me.fpTrapen
  | paramOvf : SystemRegister s 0x013 s.me.paramOvf
  | view (k : Fin 8) : SystemRegister s (0x018 + k) s.me.views[k]
  | ctxPkey : SystemRegister s 0x020 s.me.ctxPkey
  | raceBase (k : Fin 4) : (s.ctx s.me.task.ctx).dbg = true → SystemRegister s (0x040 + k) (s.ctx s.me.task.ctx).raceBase[k]
  | raceCtl (k : Fin 4) : (s.ctx s.me.task.ctx).dbg = true → SystemRegister s (0x044 + k) (s.ctx s.me.task.ctx).raceCtl[k]
  | raceLog : (s.ctx s.me.task.ctx).dbg = true → SystemRegister s 0x048 (s.ctx s.me.task.ctx).raceLog

/-- The system registers that a write changes (R141, R113) but for param.ovf: the bits it changes, the value before, and the
state in which they hold a value. -/
inductive WritableRegister (s : State) : Nat → Word64 → Word64 → (Word64 → State) → Prop where
  | fpFlags : WritableRegister s 0x011 (BitVec.ofNat 64 (2 ^ 43 - 1)) s.me.fpFlags fun v => s.setMe { s.me with fpFlags := v }
  | fpTrapen : WritableRegister s 0x012 (BitVec.ofNat 64 (2 ^ 43 - 1)) s.me.fpTrapen fun v => s.setMe { s.me with fpTrapen := v }
  | ctxPkey : WritableRegister s 0x020 (BitVec.allOnes 64) s.me.ctxPkey fun v => s.setMe { s.me with ctxPkey := v }
  | raceBase (k : Fin 4) : (s.ctx s.me.task.ctx).dbg = true →
      WritableRegister s (0x040 + k) (BitVec.ofNat 64 (2 ^ 57 - 1)) (s.ctx s.me.task.ctx).raceBase[k] fun v =>
        s.setCtx s.me.task.ctx { s.ctx s.me.task.ctx with raceBase := (s.ctx s.me.task.ctx).raceBase.set k v }
  | raceCtl (k : Fin 4) : (s.ctx s.me.task.ctx).dbg = true →
      WritableRegister s (0x044 + k) (BitVec.ofNat 64 (3 * 2 ^ 62 + (2 ^ 57 - 1))) (s.ctx s.me.task.ctx).raceCtl[k] fun v =>
        s.setCtx s.me.task.ctx { s.ctx s.me.task.ctx with raceCtl := (s.ctx s.me.task.ctx).raceCtl.set k v }
  | raceLog : (s.ctx s.me.task.ctx).dbg = true →
      WritableRegister s 0x048 (BitVec.ofNat 64 (2 ^ 57 - 2 ^ 12 + (2 ^ 8 - 1))) (s.ctx s.me.task.ctx).raceLog fun v =>
        s.setCtx s.me.task.ctx { s.ctx s.me.task.ctx with raceLog := v }

/-- The words of the system-register instructions. -/
def sysInsn (op : Fin 4) (g : BitVec 5) (n : BitVec 12) : Instr :=
  if op = 0 then .srd g n else if op = 1 then .swr g n else if op = 2 then .sset g n else .sclr g n

end Sys2Proof.Claims

/-- R141: SRD reads every system register, and SWR, SSET and SCLR give each register that may be written the operand, its or
with the operand, or the operand's bits cleared from it, on the bits its access codes let change; the other bits stay. R141: a
register number that R113 does not list, or a write to one it lists as RO, raises the illegal-instruction trap, whose record
holds the instruction's word and its address; a race register reached without the debug privilege raises the privilege trap, by
a read as by a write. Nothing else changes. -/
def Obligations.SystemRegisters : Prop :=
  (∀ (g : BitVec 5) (n : BitVec 12) (v rw : Word64) (put : Word64 → State) (s : State),
     (SystemRegister s n.toNat v → exec (.srd g n) s = .next (written s g v 1)) ∧
     (WritableRegister s n.toNat rw v put →
       let y := s.me.gr g
       let next := fun (x : Word64) => Host.Outcome.next ((put ((v &&& ~~~rw) ||| (x &&& rw))).modCore s.cur fun c => c.adv 1)
       exec (.swr g n) s = next y ∧ exec (.sset g n) s = next (v ||| y) ∧ exec (.sclr g n) s = next (v &&& ~~~y))) ∧
  (∀ (op : Fin 4) (g : BitVec 5) (n : BitVec 12) (s : State), s.me.run = .running →
     let k := n.toNat
     let listed := k ≤ 0x003 ∨ (0x010 ≤ k ∧ k ≤ 0x013) ∨ (0x018 ≤ k ∧ k ≤ 0x020) ∨ (0x040 ≤ k ∧ k ≤ 0x048)
     let readOnly := k ≤ 0x003 ∨ k = 0x010 ∨ (0x018 ≤ k ∧ k ≤ 0x01F)
     (¬listed ∨ (op ≠ 0 ∧ readOnly) →
       exec (sysInsn op g n) s = .next (trapped s 1 ((encode (sysInsn op g n)).headD 0) s.me.pc.toNat)) ∧
     (0x040 ≤ k → k ≤ 0x048 → (s.ctx s.me.task.ctx).dbg = false → exec (sysInsn op g n) s = .next (trapped s 21 k 0)))

/-- R143 and R141: a write of param.ovf, by SWR, SSET or SCLR, that leaves en = 1 must name an enabled queue word of use 1, and one that changes qw or clears en
must find the overflow queue empty; otherwise it raises the queue-range trap, which names the queue word, and the register keeps
its value. -/
def Obligations.ParameterOverflowRegister : Prop :=
  ∀ (g : BitVec 5) (s : State), s.me.run = .running →
    let y := s.me.gr g
    let x := s.me.paramOvf
    let old := x.toNat % 8
    let holds := x.toNat / 8 % 2 = 1 ∧ (s.me.q (BitVec.ofNat 3 old)).occ ≠ 0
    let writes := fun (i : Instr) (v : Word64) =>
      let q := v.toNat % 8
      let named := s.me.q (BitVec.ofNat 3 q)
      let legal := v.toNat / 8 % 2 = 1 → named.en = true ∧ named.use = 1
      let loses := holds ∧ (q ≠ old ∨ v.toNat / 8 % 2 = 0)
      (legal → ¬loses → exec i s = .next (s.setMe ({ s.me with paramOvf := (x &&& ~~~15) ||| (v &&& 15) }.adv 1))) ∧
      (¬legal → exec i s = .next (trapped s 9 q 0)) ∧
      (legal → loses → exec i s = .next (trapped s 9 old 0))
    writes (.swr g 0x013) y ∧ writes (.sset g 0x013) (x ||| y) ∧ writes (.sclr g 0x013) (x &&& ~~~y)

/-- R337: taking a trap ends the task: a task that runs, is being pre-empted or is being cancelled is ending with the record, the
queued commands and the address-queue entries that the engine has not begun to serve gone, and nothing else changed but waits
and requests; the time of a cancel's stop goes on (R357). On a core with no task, or whose task ends with a record already, a
trap changes nothing. -/
def Obligations.TakingATrap : Prop :=
  ∀ (s : State) (k : CoreId) (r : TrapRec),
    let ends := fun (us : Nat) => takeTrap s k r = s.setCore k { s.core k with
      run := .stopping r, wait := .no, cmdq := [], aq := (s.core k).aq.filter (·.begun), stopUs := us, preemptReq := false }
    ((s.core k).run = .running ∨ (s.core k).run = .preempting → ends 0) ∧
    ((s.core k).run = .cancelling → ends (s.core k).stopUs) ∧
    ((s.core k).run = .idle ∨ (s.core k).run = .dead ∨ (s.core k).run = .recorded ∨ (∃ q, (s.core k).run = .stopping q) →
      takeTrap s k r = s) ∧
    (∀ a, memGet (takeTrap s k r).dram a = memGet s.dram a) ∧
    (∀ m a, memGet ((takeTrap s k r).core m).scratch a = memGet (s.core m).scratch a ∧
      ((takeTrap s k r).core m).g = (s.core m).g ∧ ((takeTrap s k r).core m).pc = (s.core m).pc)

/-- R148: FSET sets its flag and is a release at core scope; FCLR clears it; FWAIT passes a flag that is 1 and waits for one
that is 0, and a waiting FWAIT of a running core returns once the flag is 1. FWAIT does not clear the flag, and no other flag
changes. -/
def Obligations.EventFlags : Prop :=
  ∀ (f : BitVec 4) (k : CoreId) (s : State),
    let m : BitVec 16 := 1 <<< f.toNat
    exec (.fset f) s = .next (s.setMe (({ s.me with flags := s.me.flags ||| m }.release 1).adv 1)) ∧
    exec (.fclr f) s = .next (s.setMe ({ s.me with flags := s.me.flags &&& ~~~m }.adv 1)) ∧
    (s.me.flags.getLsbD f.toNat = true → exec (.fwait f) s = .next (s.setMe (s.me.awake.adv 1))) ∧
    (s.me.flags.getLsbD f.toNat = false → exec (.fwait f) s = .next (s.setMe { s.me with wait := .flag f })) ∧
    ((s.core k).wait = .flag f → (s.core k).run = .running → (s.core k).missCp = false →
      exec (.fwaitReturn k) s =
        .next (if (s.core k).flags.getLsbD f.toNat then s.setCore k ((s.core k).awake.adv 1) else s))

/-- R146: TRAP raises the software trap, its record carrying imm16 as the code; and an illegal word raises the illegal-
instruction trap with the word and its address (R119). Neither does anything else. R147: a YIELD that finds no pre-emption
request and no ready record of a better level has no effect but to pass; where it finds one, a task outside a rope is pre-empted
at it, to resume at the instruction after it, but not during bivouac entry (R367). -/
def Obligations.SoftwareTrapAndYield : Prop :=
  (∀ (i : BitVec 16) (w : Word32) (s : State), s.me.run = .running →
     exec (.trap i) s = .next (trapped s 22 i.toNat 0) ∧
     exec (.illegalInstruction w) s = .next (trapped s 1 w.toNat s.me.pc.toNat)) ∧
  (∀ s : State, s.me.preemptReq = false →
     (∀ p < 32, (s.queue (s.cur.toNat / 64) p).recs = [] ∨ s.me.task.prio.toNat ≤ (s.queue (s.cur.toNat / 64) p).eff) →
     exec .yield s = .next (s.setMe (s.me.adv 1))) ∧
  (∀ s : State, s.fleet.slpState = 1 → exec .yield s = .next (s.setMe (s.me.adv 1))) ∧
  (∀ s : State, s.fleet.slpState ≠ 1 → s.me.run = .running → s.me.wait = .no → s.me.rope = none →
     (s.me.preemptReq = true ∨
       ∃ p < 32, (s.queue (s.cur.toNat / 64) p).recs ≠ [] ∧ (s.queue (s.cur.toNat / 64) p).eff < s.me.task.prio.toNat) →
     ∃ t, exec .yield s = .next t ∧ t.me.run = .preempting ∧ t.me.pc = s.me.pc + 4 ∧ t.me.g = s.me.g ∧ t.me.cmdIdx = s.me.cmdIdx ∧
       t.me.preemptReq = false ∧ (∀ k, k ≠ s.cur → t.core k = s.core k) ∧ { t with cores := s.cores } = s)

/-! ## Engine, task and synchronisation commands -/

namespace Sys2Proof.Claims

/-- A command that passes with the core `c` (R149): the command index rises, the PC moves on, and the core waits no more. -/
def passes (s : State) (c : Core) : State := s.setMe ({ c with wait := .no, cmdIdx := c.cmdIdx + 1 }.adv 1)

/-- A command that has passed its checks and waits: the command index has risen (R149), and all else stands. -/
def waiting (s : State) (w : CpWait) : State := s.setMe { s.me with wait := w, cmdIdx := s.me.cmdIdx + 1 }

/-- A core whose command that waited returns: the PC moves on. -/
def resumed (c : Core) : Core := { c with wait := .no }.adv 1

/-- One of the core's 96 copy tags is free (R150). -/
def freeTag (s : State) : Prop := ∃ n, n < 96 ∧ s.me.tag n = none

/-- A command of the copy engine is issued (R149, R150): it holds a tag that was free, with its operands, its PC, its command index
and ctx.pkey as they stood, and its place in the card's order of issue; no other tag, no register, and no byte changes; the
command index and the PC move on. Which tag it is, the manual leaves open (log 4). -/
def issued (s : State) (o : Host.Outcome State Fault Refusal) (op : Nat) (dest src : Word64) (done : Bool × Nat) (what : CopyOp) :
    Prop :=
  ∃ t n g, o = .next t ∧ n < 96 ∧ s.me.tag n = none ∧ t.me.tag n = some g ∧ (∀ m, m ≠ n → t.me.tag m = s.me.tag m) ∧
    { t with cores := s.cores, seq := s.seq, issued := s.issued } = s ∧ (∀ k, k ≠ s.cur → t.core k = s.core k) ∧
    g.pc = s.me.pc ∧ g.op.toNat = op ∧ g.cmd = s.me.cmdIdx ∧ g.dest = dest ∧ g.src = src ∧ g.t = done.1 ∧
    g.target.toNat = done.2 ∧ g.pkey = s.me.ctxPkey ∧ g.what = what ∧ g.phase = .issued ∧ g.order = s.issued ∧
    t.issued = s.issued + 1 ∧ t.me.cmdIdx = s.me.cmdIdx + 1 ∧ t.me.pc = s.me.pc + 4 ∧ t.me.wait = .no ∧
    { t.me with tags := s.me.tags, cmdIdx := s.me.cmdIdx, pc := s.me.pc, pcFrom := s.me.pcFrom, wait := s.me.wait } = s.me

/-- A descriptor of `n` bytes that the core reads (R149): aligned, in plain scratch. -/
def descAt (a : Word64) (n align : Nat) : Prop := a.toNat % align = 0 ∧ a.toNat + n ≤ 0x40000

/-- What the read of a descriptor or an operand of `n` bytes at `x` of scratch raises (R149, R135): cause, d0, d1. -/
inductive DescTraps (c : Core) (n align : Nat) : Nat → Nat → Nat → Nat → Prop where
  | range (x : Nat) : 2 ^ 20 < x + n → DescTraps c n align x 4 x n
  | align (x : Nat) : x + n ≤ 2 ^ 20 → x % align ≠ 0 → DescTraps c n align x 5 x n
  | hole (x : Nat) : x + n ≤ 2 ^ 20 → x % align = 0 → 0xA0000 ≤ x → DescTraps c n align x 4 x n
  | plainEnd (x : Nat) : x % align = 0 → x < 0x40000 → 0x40000 < x + n → x + n ≤ 2 ^ 20 → DescTraps c n align x 4 x n
  | windowEnd (x : Nat) (b : BitVec 5) : x % align = 0 → 0x40000 + 0x3000 * b.toNat ≤ x → x < 0x43000 + 0x3000 * b.toNat →
      0x43000 + 0x3000 * b.toNat < x + n → x + n ≤ 2 ^ 20 → DescTraps c n align x 4 x n
  | bank (x : Nat) (b : BitVec 5) : x % align = 0 → 0x40000 + 0x3000 * b.toNat ≤ x → x < 0x43000 + 0x3000 * b.toNat →
      x + n ≤ 0x43000 + 0x3000 * b.toNat → c.modePending b = false → (c.bank b).compute = true →
      DescTraps c n align x 6 b.toNat (c.bank b).status

/-- The completion target of a control word (R152): t, and 16 times its sync field. -/
def target (w : Nat) : Bool × Nat := (decide (w / 2 ^ 63 % 2 = 1), w / 2 ^ 44 % 2 ^ 16 * 16)

end Sys2Proof.Claims

/-- R149 to R161: CPY, CPYS, CPYX, LANE.LOAD and CIM.FILL with legal operands issue while a copy tag is free: the tag holds the
command with the fields its control word or its descriptor gives. -/
def Obligations.CopiesIssue : Prop :=
  ∀ (a b c : BitVec 5) (s : State), freeTag s → endOk (s.me.gr b) [0, 1, 2] = true →
    let d := s.me.gr a
    let x := s.me.gr b
    let w := s.me.gr c
    (endOk d [0, 1, 2, 3, 4] = true → ctlOk w = true →
      issued s (exec (.cpy a b c) s) 0 d x (target w.toNat) (.cpy (w.toNat % 2 ^ 40))) ∧
    (endOk d [3] = true → ctlOk w = true →
      issued s (exec (.cimFill a b c) s) 4 d x (target w.toNat) (.cimFill (w.toNat % 2 ^ 40))) ∧
    (endOk x [0, 1] = true → d.toNat < 2 ^ 32 → d.toNat / 2 ^ 8 % 2 ^ 8 = 0 → d.toNat % 2 ^ 8 ≤ 191 → ctlOk w = true →
      w.toNat % 2 ^ 40 % 8 = 0 → w.toNat % 2 ^ 40 ≤ 32768 →
      issued s (exec (.laneLoad a b c) s) 3 d x (target w.toNat)
        (.laneLoad (d.toNat % 2 ^ 8) (d.toNat / 2 ^ 16) (w.toNat % 2 ^ 40))) ∧
    (let m := memRead s.me.scratch w.toNat 112
     let v := memNat s.me.scratch w.toNat 8
     endOk d [0, 1, 2, 3, 4] = true → descAt w 112 16 → cpysFault m = none →
      issued s (exec (.cpys a b c) s) 1 d x (target v) (.cpys (v % 8) ((List.range (v / 2 ^ 8 % 8)).map (dimAt m)))) ∧
    (let m := memRead s.me.scratch w.toNat 32
     let v := memNat s.me.scratch w.toNat 8
     let u := memNat s.me.scratch (w.toNat + 8) 8
     endOk d [0, 1, 2, 3, 4] = true → descAt w 32 16 → cpyxFault m = none →
      issued s (exec (.cpyx a b c) s) 2 d x (target v)
        (.cpyx (v % 2 ^ 40) (u / 2 ^ 56) (u / 2 ^ 16 % 2 ^ 16) (u % 2 ^ 8) (memNat s.me.scratch (w.toNat + 16) 8 % 2 ^ 40)))

namespace Sys2Proof.Claims

/-- The ATOM instructions over ga, gb, gc with a scope and an order (R162), with their operation codes and the sizes of their units. -/
inductive AtomForm (a b c : BitVec 5) (sc : BitVec 3) (r : BitVec 2) (x : Bool) : Instr → Nat → Nat → Prop where
  | add : AtomForm a b c sc r x (.atomAdd a b c sc r x) 0 (if x then 8 else 4)
  | and : AtomForm a b c sc r x (.atomAnd a b c sc r x) 1 (if x then 8 else 4)
  | or : AtomForm a b c sc r x (.atomOr a b c sc r x) 2 (if x then 8 else 4)
  | xor : AtomForm a b c sc r x (.atomXor a b c sc r x) 3 (if x then 8 else 4)
  | min : AtomForm a b c sc r x (.atomMin a b c sc r x) 4 (if x then 8 else 4)
  | max : AtomForm a b c sc r x (.atomMax a b c sc r x) 5 (if x then 8 else 4)
  | minu : AtomForm a b c sc r x (.atomMinu a b c sc r x) 6 (if x then 8 else 4)
  | maxu : AtomForm a b c sc r x (.atomMaxu a b c sc r x) 7 (if x then 8 else 4)
  | swap : AtomForm a b c sc r x (.atomSwap a b c sc r x) 8 (if x then 8 else 4)
  | cas : AtomForm a b c sc r x (.atomCas a b c sc r x) 9 (if x then 8 else 4)
  | fadd : AtomForm a b c sc r x (.atomFadd a b c sc r) 10 16
  | cread : AtomForm a b c sc r x (.atomCread a b c sc r) 11 16

end Sys2Proof.Claims

/-- R162: the twelve ATOM operations with legal operands issue while a copy tag is free, with their width, scope, order and
operand; the result address where the control word has one; and for CAS the comparand that lies there. -/
def Obligations.AtomsIssue : Prop :=
  ∀ (a b c : BitVec 5) (sc : BitVec 3) (r : BitVec 2) (x : Bool) (i : Instr) (aop n : Nat) (s : State),
    AtomForm a b c sc r x i aop n → freeTag s →
    let d := s.me.gr a
    let w := s.me.gr c
    endOk d [0, 2] = true → d.toNat % n = 0 → atomCtlOk w (aop == 9) = true → (aop = 11 → (s.me.gr b).toNat ≤ 1) →
    issued s (exec i s) 5 d 0 (target w.toNat) (.atom aop n sc.toNat r.toNat (s.me.gr b).toNat
      (if aop = 9 then memNat s.me.scratch (w.toNat % 2 ^ 20) n else 0)
      (if w.toNat / 2 ^ 62 % 2 = 1 then some (w.toNat % 2 ^ 20) else none))

namespace Sys2Proof.Claims

/-- The operands of LANE.LOAD that are legal (R160): the lane word, the source, the control word. -/
def laneWordOk (w : Word64) : Prop := w.toNat < 2 ^ 32 ∧ w.toNat / 2 ^ 8 % 2 ^ 8 = 0 ∧ w.toNat % 2 ^ 8 ≤ 191
def laneCtlOk (w : Word64) : Prop := ctlOk w = true ∧ w.toNat % 2 ^ 40 % 8 = 0 ∧ w.toNat % 2 ^ 40 ≤ 32768

/-- The commands of the copy engine with legal operands in a state (R151 to R162). -/
inductive CopyCommand (s : State) (a b c : BitVec 5) : Instr → Prop where
  | cpy : endOk (s.me.gr a) [0, 1, 2, 3, 4] = true → endOk (s.me.gr b) [0, 1, 2] = true → ctlOk (s.me.gr c) = true →
      CopyCommand s a b c (.cpy a b c)
  | cimFill : endOk (s.me.gr a) [3] = true → endOk (s.me.gr b) [0, 1, 2] = true → ctlOk (s.me.gr c) = true →
      CopyCommand s a b c (.cimFill a b c)
  | laneLoad : laneWordOk (s.me.gr a) → endOk (s.me.gr b) [0, 1] = true → laneCtlOk (s.me.gr c) → CopyCommand s a b c (.laneLoad a b c)
  | cpys : endOk (s.me.gr a) [0, 1, 2, 3, 4] = true → endOk (s.me.gr b) [0, 1, 2] = true → descAt (s.me.gr c) 112 16 →
      cpysFault (memRead s.me.scratch (s.me.gr c).toNat 112) = none → CopyCommand s a b c (.cpys a b c)
  | cpyx : endOk (s.me.gr a) [0, 1, 2, 3, 4] = true → endOk (s.me.gr b) [0, 1, 2] = true → descAt (s.me.gr c) 32 16 →
      cpyxFault (memRead s.me.scratch (s.me.gr c).toNat 32) = none → CopyCommand s a b c (.cpyx a b c)
  | atom (sc : BitVec 3) (r : BitVec 2) (x : Bool) (i : Instr) (aop n : Nat) : AtomForm a b c sc r x i aop n →
      endOk (s.me.gr a) [0, 2] = true → (s.me.gr a).toNat % n = 0 → atomCtlOk (s.me.gr c) (aop == 9) = true →
      (aop = 11 → (s.me.gr b).toNat ≤ 1) → CopyCommand s a b c i

end Sys2Proof.Claims

/-- R149, R151, R152 and R340: an illegal operand of a copy, a LANE.LOAD, a CIM.FILL or an ATOM raises the command-operand trap
for its first operand word that is illegal, its record naming the field's lowest bit; a descriptor that its read does not reach
(out of scratch, unaligned, in an unmapped address or the control page, across two rows of scratch, in the window of a COMPUTE bank:
R135) raises the trap of its access, and an illegal field of one the command-operand trap; no tag is taken. With no tag free every
command with legal operands waits. Two points are the model's choice: the order ga, gb, gc, of an ATOM ga, gc, gb (log 81), and that
a descriptor's field is named by the byte offset of its 64-bit word (log 49, DEDUCED); that a descriptor may not run across two
windows is log 8 (DEDUCED). -/
def Obligations.CopyOperandTraps : Prop :=
  ∀ (a b c : BitVec 5) (s : State), s.me.run = .running →
    let d := s.me.gr a
    let x := s.me.gr b
    let w := s.me.gr c
    let kinds : List Nat := [0, 1, 2, 3, 4]
    (endOk d kinds = false → exec (.cpy a b c) s = .next (trapped s 12 20 0) ∧ exec (.cpys a b c) s = .next (trapped s 12 20 0) ∧
      exec (.cpyx a b c) s = .next (trapped s 12 20 0)) ∧
    (endOk d [3] = false → exec (.cimFill a b c) s = .next (trapped s 12 20 0)) ∧
    (endOk d kinds = true → endOk x [0, 1, 2] = false → exec (.cpy a b c) s = .next (trapped s 12 15 0) ∧
      exec (.cpys a b c) s = .next (trapped s 12 15 0) ∧ exec (.cpyx a b c) s = .next (trapped s 12 15 0)) ∧
    (endOk d kinds = true → endOk x [0, 1, 2] = true → ctlOk w = false → exec (.cpy a b c) s = .next (trapped s 12 10 0)) ∧
    (endOk d [3] = true → endOk x [0, 1, 2] = false → exec (.cimFill a b c) s = .next (trapped s 12 15 0)) ∧
    (endOk d [3] = true → endOk x [0, 1, 2] = true → ctlOk w = false →
      exec (.cimFill a b c) s = .next (trapped s 12 10 0)) ∧
    (¬laneWordOk d → exec (.laneLoad a b c) s = .next (trapped s 12 20 0)) ∧
    (laneWordOk d → endOk x [0, 1] = false → exec (.laneLoad a b c) s = .next (trapped s 12 15 0)) ∧
    (laneWordOk d → endOk x [0, 1] = true → ¬laneCtlOk w → exec (.laneLoad a b c) s = .next (trapped s 12 10 0)) ∧
    (endOk d kinds = true → endOk x [0, 1, 2] = true →
      let descriptor := fun (i : Instr) (n : Nat) (fault : List Byte → Option Nat) =>
        (∀ cause d0 d1, DescTraps s.me n 16 w.toNat cause d0 d1 → exec i s = .next (trapped s cause d0 d1)) ∧
        (∀ o, descAt w n 16 → fault (memRead s.me.scratch w.toNat n) = some o → exec i s = .next (trapped s 12 (2 ^ 63 + o) 0))
      descriptor (.cpys a b c) 112 cpysFault ∧ descriptor (.cpyx a b c) 32 cpyxFault) ∧
    (∀ (sc : BitVec 3) (r : BitVec 2) (y : Bool) (i : Instr) (aop n : Nat), AtomForm a b c sc r y i aop n →
      let target := endOk d [0, 2] = true ∧ d.toNat % n = 0
      (¬target → exec i s = .next (trapped s 12 20 0)) ∧
      (target → atomCtlOk w (aop == 9) = false → exec i s = .next (trapped s 12 10 0)) ∧
      (target → atomCtlOk w (aop == 9) = true → aop = 11 → 1 < x.toNat → exec i s = .next (trapped s 12 15 0))) ∧
    (∀ i, ¬freeTag s → CopyCommand s a b c i → exec i s = .next (s.setMe { s.me with wait := .again i }))

/-- R24, R25 and R150: a control processor of a running task that waits for room executes its command again, and it completes
once there is room: a command of the copy engine once a tag is free, a CIM.MODE once the command queue holds fewer than 16, a
PPUSH once the parameter queue does. -/
def Obligations.WaitsForRoomEnd : Prop :=
  ∀ (k : CoreId) (a b c : BitVec 5) (s : State), (s.core k).run = .running → (s.core k).missCp = false →
    let u : State := { s with cur := k }
    (∀ i, CopyCommand u a b c i → (s.core k).wait = .again i → exec (.copyTagFree k) s = exec i u) ∧
    ((s.core k).wait = .again (.cpy a b c) → exec (.copyTagFree k) s = exec (.cpy a b c) u ∧
      (freeTag u → endOk (u.me.gr a) [0, 1, 2, 3, 4] = true → endOk (u.me.gr b) [0, 1, 2] = true → ctlOk (u.me.gr c) = true →
        issued u (exec (.copyTagFree k) s) 0 (u.me.gr a) (u.me.gr b) (target (u.me.gr c).toNat)
          (.cpy ((u.me.gr c).toNat % 2 ^ 40)))) ∧
    ((s.core k).wait = .again (.cimModeScratch b) → exec (.commandQueueRoom k) s = exec (.cimModeScratch b) u ∧
      ((s.core k).cmdq.length < 16 → (s.core k).rope = none →
        exec (.commandQueueRoom k) s =
          .next (passes { u with issued := u.issued + 1 } { u.me with cmdq := u.me.cmdq ++ [.mode b false 0 u.me.cmdIdx u.issued] }))) ∧
    (∀ kind, (s.core k).wait = .again (.cimModeCompute b kind) → exec (.commandQueueRoom k) s = exec (.cimModeCompute b kind) u) ∧
    ((s.core k).wait = .again (.loop a b c) → exec (.commandQueueRoom k) s = exec (.loop a b c) u) ∧
    ((s.core k).wait = .again (.ppush a) → exec (.parameterQueueRoom k) s = exec (.ppush a) u ∧
      ((s.core k).paramq.length < 16 → (s.core k).paramOvf.getLsbD 3 = false →
        exec (.parameterQueueRoom k) s = .next (passes u { u.me with paramq := u.me.paramq ++ [u.me.gr a] })))

/-- R163 to R165, R29 and R44, on a core alone or the leader of its rope: a LOOP with legal operands enters the command queue with a
snapshot of the view registers, the jet order and ctx.pkey, one iteration per level where it has no nest and with its nest's
counts and strides where it has; CIM.MODE enters it with its bank, mode and kind; PPUSH appends its register to the parameter
queue. Each waits where its queue is full. R251 and R1: a LOOP of a finalised kernel that names no relocated body completes, and
whatever its undefined behaviour does, no core of another context changes. R163, R149, R340: a LOOP whose body does not lie at a
packet of its launch's code raises the fetch trap, one with a reserved bit the command-operand trap, one whose nest descriptor
cannot be read or has an illegal field the trap of its read or of the field (by the byte offset of its word: log 49), and one whose
views fail their checks the view trap (R29, R32), which names the lowest view that fails. The order of these checks, the queue word
that CIM.MODE's trap names (here: one of those in the bank; log 75), and that a command that waits for room counts and reads its
descriptor when room comes (log 79) are the model's choice. -/
def Obligations.CommandQueueEntries : Prop :=
  ∀ (a b c : BitVec 5) (bank kind : BitVec 5) (s : State), s.me.rope = none ∨ s.leader s.cur = s.cur →
    let w := s.me.gr b
    let len := w.toNat % 2 ^ 12 + 1
    let room := s.me.cmdq.length < 16
    let x := (s.me.gr c).toNat
    let level := fun d => memNat s.me.scratch (x + 8 * d) 8
    let legal := s.bodyOk (s.me.gr a).toNat len = true ∧ viewFault s.me.views s.me.jetOrder.toNat = none
    let plain := w.toNat < 2 ^ 12
    let nested := w.toNat / 2 ^ 12 = 1 ∧ descAt (s.me.gr c) 48 8 ∧
      ∀ d < 6, level d / 2 ^ 17 % 2 ^ 15 = 0 ∧ 1 ≤ level d % 2 ^ 17 ∧ level d % 2 ^ 17 ≤ 65536
    let enters := fun (y : Cmd) => passes { s with issued := s.issued + 1 } { s.me with cmdq := s.me.cmdq ++ [y] }
    let loops := fun (counts : Vector Nat 6) (strides : Vector (BitVec 32) 6) => exec (.loop a b c) s = .next (enters (.loop {
      start := s.me.gr a, len := len, counts := counts, strides := strides, views := s.me.views, order := s.me.jetOrder
      cmd := s.me.cmdIdx, pkey := s.me.ctxPkey, first := 0, stamp := s.issued }))
    (legal → s.zpfUndeclared (s.me.gr a) len = false →
      (room → plain → loops (Vector.replicate 6 1) (Vector.replicate 6 0)) ∧
      (room → nested →
        loops (Vector.ofFn fun d => level d.val % 2 ^ 17) (Vector.ofFn fun d => BitVec.ofNat 32 (level d.val / 2 ^ 32))) ∧
      (¬room → plain ∨ nested → exec (.loop a b c) s = .next (s.setMe { s.me with wait := .again (.loop a b c) }))) ∧
    (legal → plain → s.zpfUndeclared (s.me.gr a) len = true →
      ∃ t, exec (.loop a b c) s = .next t ∧ ∀ k, (s.core k).task.ctx ≠ s.me.task.ctx → t.core k = s.core k) ∧
    (s.me.run = .running →
      let body := s.bodyOk (s.me.gr a).toNat len = true
      let badLevel := fun d => level d / 2 ^ 17 % 2 ^ 15 ≠ 0 ∨ level d % 2 ^ 17 = 0 ∨ 65536 < level d % 2 ^ 17
      (¬body → exec (.loop a b c) s = .next (trapped s 3 (s.me.gr a).toNat s.me.pc.toNat)) ∧
      (body → 2 ^ 13 ≤ w.toNat → exec (.loop a b c) s = .next (trapped s 12 15 0)) ∧
      (∀ cause d0 d1, body → w.toNat / 2 ^ 12 = 1 → DescTraps s.me 48 8 x cause d0 d1 →
        exec (.loop a b c) s = .next (trapped s cause d0 d1)) ∧
      (∀ d, body → w.toNat / 2 ^ 12 = 1 → descAt (s.me.gr c) 48 8 → d < 6 → badLevel d → (∀ e < d, ¬badLevel e) →
        exec (.loop a b c) s = .next (trapped s 12 (2 ^ 63 + 8 * d) 0)) ∧
      (∀ v : Fin 8, body → plain ∨ nested → viewFault s.me.views s.me.jetOrder.toNat = some v.val →
        exec (.loop a b c) s = .next (trapped s 11 v.val s.me.views[v].toNat))) ∧
    (room → exec (.cimModeScratch bank) s = .next (enters (.mode bank false 0 s.me.cmdIdx s.issued))) ∧
    (¬room → exec (.cimModeScratch bank) s = .next (s.setMe { s.me with wait := .again (.cimModeScratch bank) })) ∧
    ((∀ n : BitVec 3, (s.me.q n).inBank bank = false) →
      (room → exec (.cimModeCompute bank kind) s = .next (enters (.mode bank true kind s.me.cmdIdx s.issued))) ∧
      (¬room → exec (.cimModeCompute bank kind) s = .next (s.setMe { s.me with wait := .again (.cimModeCompute bank kind) }))) ∧
    (s.me.run = .running → (∃ n : BitVec 3, (s.me.q n).inBank bank = true) →
      ∃ n : BitVec 3, (s.me.q n).inBank bank = true ∧
        exec (.cimModeCompute bank kind) s = .next (trapped s 10 n.toNat bank.toNat)) ∧
    (s.me.paramq.length < 16 → s.me.paramOvf.getLsbD 3 = false →
      exec (.ppush a) s = .next (passes s { s.me with paramq := s.me.paramq ++ [s.me.gr a] })) ∧
    (s.me.paramq.length = 16 → s.me.paramOvf.getLsbD 3 = false →
      exec (.ppush a) s = .next (s.setMe { s.me with wait := .again (.ppush a) }))

/-- R166, R30: SETV writes a view register whose reserved bits the word leaves zero, SETJ the jet order up to 7; another operand
raises the command-operand trap. Neither changes another view, register or byte. -/
def Obligations.ViewsAndJetOrder : Prop :=
  ∀ (v : BitVec 3) (a : BitVec 5) (s : State),
    let x := s.me.gr a
    (x.toNat / 2 ^ 15 % 2 ^ 23 = 0 → exec (.setv v a) s = .next (passes s { s.me with views := s.me.views.set v.toNat x })) ∧
    (x.toNat ≤ 7 → exec (.setj a) s = .next (passes s { s.me with jetOrder := BitVec.ofNat 3 x.toNat })) ∧
    (s.me.run = .running → x.toNat / 2 ^ 15 % 2 ^ 23 ≠ 0 → exec (.setv v a) s = .next (trapped s 12 17 0)) ∧
    (s.me.run = .running → 7 < x.toNat → exec (.setj a) s = .next (trapped s 12 17 0))

/-- R167 and R168: QCW.GET reads a queue word's two halves; QCW.SET writes a quiet queue word that its checks pass, and waits
until the word is quiet, which takes in a CIM.MODE issued before (log 22, DEDUCED), and clears the queue's remap (R229), which is
to be set again; a word that its checks refuse raises their trap. AQ.REMAP sets the remap and base of an enabled data queue's
addresses; on another queue word it raises the queue-range trap, and with an illegal operand the command-operand trap. Three points are the model's choice: that a base
endpoint of a kind other than 0 and 2 is illegal (log 28, DEDUCED, against the manual's own example of kind 1); which words
qcwFault refuses for esz 7 and use 4 to 15 (log 56, DEDUCED); and the order of AQ.REMAP's checks, the queue word before the
operands and ga before gb (log 81). -/
def Obligations.QueueControlWords : Prop :=
  ∀ (q : BitVec 3) (a b : BitVec 5) (k : CoreId) (s : State),
    let w : Qcw := ⟨s.me.gr a, s.me.gr b⟩
    let put (c : Core) : Core := { c with qcw := c.qcw.set q.toNat ⟨c.gr a, c.gr b⟩, remap := c.remap.set q.toNat none }
    (exec (.qcwGet q a b) s = .next (passes s ((s.me.setG a (s.me.qcw[q.toNat]).w0).setG b (s.me.qcw[q.toNat]).w1))) ∧
    (s.me.quiet q = true → s.me.qcwFault q w = none → exec (.qcwSet q a b) s = .next (passes s (put s.me))) ∧
    (∀ t, s.me.run = .running → s.me.quiet q = true → s.me.qcwFault q w = some t →
      exec (.qcwSet q a b) s = .next (trapped s t.cause t.d0 t.d1)) ∧
    (s.me.quiet q = false → exec (.qcwSet q a b) s = .next (s.setMe { s.me with wait := .quiet q a b })) ∧
    ((s.core k).wait = .quiet q a b → (s.core k).run = .running → (s.core k).missCp = false → (s.core k).quiet q = true →
      (s.core k).qcwFault q ⟨(s.core k).gr a, (s.core k).gr b⟩ = none →
      exec (.qcwSetQuiet k) s = .next (passes { s with cur := k } (put (s.core k)))) ∧
    ((s.me.q q).en = true → (s.me.q q).use = 0 → remapOk (s.me.gr a) = true → endOk (s.me.gr b) [0, 2] = true →
      exec (.aqRemap q a b) s =
        .next (passes s { s.me with remap := s.me.remap.set q.toNat (some ⟨s.me.gr a, s.me.gr b⟩) })) ∧
    (s.me.run = .running → ((s.me.q q).en = false ∨ (s.me.q q).use ≠ 0) →
      exec (.aqRemap q a b) s = .next (trapped s 9 q.toNat 0)) ∧
    (s.me.run = .running → (s.me.q q).en = true → (s.me.q q).use = 0 →
      (remapOk (s.me.gr a) = false → exec (.aqRemap q a b) s = .next (trapped s 12 17 0)) ∧
      (remapOk (s.me.gr a) = true → endOk (s.me.gr b) [0, 2] = false → exec (.aqRemap q a b) s = .next (trapped s 12 12 0)))

namespace Sys2Proof.Claims

/-- A sync word (R94) at `a` of a core's scratch: armed or not, its generation, its target and its count. -/
structure SyncWord (c : Core) (a : Nat) (arm : Bool) (gen tgt count : Nat) : Prop where
  word0 : memNat c.scratch a 8 = (if arm then 2 ^ 63 else 0) + gen * 2 ^ 40 + tgt
  word1 : memNat c.scratch (a + 8) 8 = count
  genLt : gen < 2 ^ 16
  targetLt : tgt < 2 ^ 40
  countLt : count < 2 ^ 40

end Sys2Proof.Claims

/-- R169, R94 and R95, for a sync word in plain scratch. SYNC.ARM arms it with a target, keeps its generation and its count but
for the generations that the count now completes, and answers the generation before; SYNC.ADD arrives bytes: a full target's
worth advances the generation and leaves the rest; SYNC.WAIT passes once 1 to 32,767 generations lie past its operand, and waits
until then; the wait of a running core ends so. R169: an operand of a sync command that is not a sync word's address raises the
trap that names it: scratch range, alignment, the sync-word trap for a word with a reserved bit set, of word 0 or of word 1 (R4;
log 56), and the command-operand trap for a count of 2^40 or more. -/
def Obligations.SyncWords : Prop :=
  (∀ (a b c : BitVec 5) (x : Nat) (arm : Bool) (gen tgt count : Nat) (k : CoreId) (s : State),
     (s.me.gr a).toNat = x → x % 16 = 0 → x + 16 ≤ 0x40000 → SyncWord s.me x arm gen tgt count →
     let v := (s.me.gr b).toNat
     let others := fun (t : State) => onlyMe s t ∧ t.me.cmdIdx = s.me.cmdIdx + 1 ∧ t.me.pc = s.me.pc + 4 ∧
       ∀ y, y < x ∨ x + 16 ≤ y → memGet t.me.scratch y = memGet s.me.scratch y
     let past := fun (w : Nat) => (gen + 2 ^ 16 - w % 2 ^ 16) % 2 ^ 16
     (v < 2 ^ 40 → ∃ t, exec (.syncArm a b c) s = .next t ∧ others t ∧ (c ≠ 0 → t.me.gr c = BitVec.ofNat 64 gen) ∧
       (v = 0 → SyncWord t.me x false gen 0 count) ∧
       (v ≠ 0 → SyncWord t.me x true ((gen + count / v) % 2 ^ 16) v (count % v))) ∧
     (v < 2 ^ 40 → ∃ t, exec (.syncAdd a b) s = .next t ∧ others t ∧ t.me.ivl = s.me.ivl + 1 ∧
       (arm = true → tgt ≠ 0 →
         SyncWord t.me x true ((gen + (count + v) % 2 ^ 40 / tgt) % 2 ^ 16) tgt ((count + v) % 2 ^ 40 % tgt)) ∧
       (arm = false → SyncWord t.me x false gen tgt ((count + v) % 2 ^ 40))) ∧
     (1 ≤ past v → past v ≤ 32767 → exec (.syncWait a b) s = .next (passes s s.me)) ∧
     (past v = 0 ∨ 32767 < past v → exec (.syncWait a b) s = .next (waiting s (.sync a b))) ∧
     (k = s.cur → s.me.wait = .sync a b → s.me.run = .running → s.me.missCp = false → 1 ≤ past v → past v ≤ 32767 →
       exec (.syncWaitReturn k) s = .next (s.setMe (resumed s.me)))) ∧
  (∀ (a b c : BitVec 5) (s : State), s.me.run = .running → (s.me.gr b).toNat < 2 ^ 40 →
     let x := (s.me.gr a).toNat
     let all := fun (cause d0 d1 : Nat) => exec (.syncArm a b c) s = .next (trapped s cause d0 d1) ∧
       exec (.syncAdd a b) s = .next (trapped s cause d0 d1) ∧ exec (.syncWait a b) s = .next (trapped s cause d0 d1)
     (2 ^ 20 < x + 16 → all 4 x 16) ∧ (x + 16 ≤ 2 ^ 20 → x % 16 ≠ 0 → all 5 x 16) ∧
     (x + 16 ≤ 2 ^ 20 → x % 16 = 0 → 0x40000 < x + 16 → all 4 x 16) ∧
     (x % 16 = 0 → x + 16 ≤ 0x40000 →
       (memNat s.me.scratch x 8 / 2 ^ 56 % 2 ^ 7 ≠ 0 ∨ memNat s.me.scratch (x + 8) 8 / 2 ^ 40 ≠ 0) → all 13 x (memNat s.me.scratch x 8)) ∧
     (∀ d : BitVec 5, 2 ^ 40 ≤ (s.me.gr d).toNat → exec (.syncArm a d c) s = .next (trapped s 12 15 0) ∧
       exec (.syncAdd a d) s = .next (trapped s 12 15 0)))

/-! ## Barriers, ropes, trees, tasks, and the copy engine's events -/

/-- R170 and R43. BAR.INIT gives the barrier its mask, with nothing counted, while no arrival for it is held here; that it keeps the
barrier's generation and drops what was counted before is the model's choice (log 16, DEDUCED). BAR.ARRIVE counts the core,
releases the barrier when all its members have arrived, is a release at die scope, and sends an arrival to each other member;
BAR.WAIT passes once the generation differs from the one at the core's last arrival, and waits until then. R43: an arrival that
reaches a core of its context with the barrier initialised and the same mask is counted, and releases the barrier when it is the
last; one of a member that is counted already waits; where the barrier is not initialised, or an idle core last ran another context,
it is held; a core with a task of another context drops it, with an entry in the device error log. That an idle core's barriers are
those of the context it ran last is log 16 (DEDUCED). BAR.INIT counts the arrivals that are held for its barrier, and holds them no
more. R1: an arrival with another mask is undefined behaviour of its context, which changes no core of another context but the one
it has reached (log 59). -/
def Obligations.BarrierCommands : Prop :=
  (∀ (b : BitVec 6) (a : BitVec 5) (k : CoreId) (s : State),
     let x := s.me.bar b
     let m := s.me.gr a
     (m.getLsbD (s.cur.toNat % 64) = true → x.arrived = false →
       (∀ h ∈ s.me.held, ¬(h.bar = b ∧ h.ctx = s.me.task.ctx)) →
       exec (.barInit b a) s = .next (passes s (s.me.setBar b { x with init := true, mask := m, count := 0, since := false, who := 0 }))) ∧
     (m.getLsbD (s.cur.toNat % 64) = true → x.arrived = false →
       let ours := fun (h : Arrival) => h.bar == b && h.ctx == s.me.task.ctx
       let hs := s.me.held.filter ours
       (∀ h ∈ hs, h.mask = m) → (hs.map fun (h : Arrival) => h.src.toNat % 64).Nodup → hs.length < members m →
       ∃ t, exec (.barInit b a) s = .next t ∧ onlyMe s t ∧ (∀ d, d ≠ b → t.me.bar d = s.me.bar d) ∧
         { t.me with bars := s.me.bars } = resumed { s.me with
           held := s.me.held.filter (fun h => !ours h), cmdIdx := s.me.cmdIdx + 1 } ∧
         t.me.bar b = { x with
           init := true, mask := m, count := hs.length, since := false
           who := hs.foldl (fun (w : Word64) (h : Arrival) => w ||| BitVec.ofNat 64 (2 ^ (h.src.toNat % 64))) 0 }) ∧
     (m.getLsbD (s.cur.toNat % 64) = true → x.arrived = false →
       ∃ t, exec (.barInit b a) s = .next t ∧ ∀ j, (s.core j).task.ctx ≠ s.me.task.ctx → t.core j = s.core j) ∧
     (x.init = true → x.arrived = false →
       ∃ t, exec (.barArrive b) s = .next t ∧ { t with cores := s.cores, sched := s.sched } = s ∧
         (∀ j, j ≠ s.cur → t.core j = s.core j) ∧ t.me.cmdIdx = s.me.cmdIdx + 1 ∧ t.me.pc = s.me.pc + 4 ∧
         t.me.ivl = s.me.ivl + 1 ∧ (t.me.bar b).mask = x.mask ∧ (t.me.bar b).genAt = x.gen ∧ (t.me.bar b).since = true ∧
         (x.count + 1 < members x.mask → (t.me.bar b).arrived = true ∧ (t.me.bar b).count = x.count + 1 ∧ (t.me.bar b).gen = x.gen) ∧
         (members x.mask ≤ x.count + 1 → (t.me.bar b).arrived = false ∧ (t.me.bar b).count = 0 ∧ (t.me.bar b).gen = x.gen + 1) ∧
         { t.sched with arrivals := s.sched.arrivals } = s.sched ∧
         t.sched.arrivals = s.sched.arrivals ++ ((maskCores (dieOf s.cur) x.mask).filter (· != s.cur)).map fun d =>
           ⟨b, x.mask, s.me.task.ctx, s.cur, d⟩) ∧
     (x.init = true → x.since = true → x.gen ≠ x.genAt → exec (.barWait b) s = .next (passes s s.me)) ∧
     (x.init = true → x.since = true → x.gen = x.genAt → exec (.barWait b) s = .next (waiting s (.bar b))) ∧
     ((s.core k).wait = .bar b → (s.core k).run = .running → (s.core k).missCp = false →
       ((s.core k).bar b).gen ≠ ((s.core k).bar b).genAt →
       exec (.barWaitReturn k) s = .next (s.setCore k (resumed (s.core k))))) ∧
  (∀ (i : Nat) (a : Arrival) (s : State), s.sched.arrivals[i]? = some a →
     let c := s.core a.dst
     let x := c.bar a.bar
     let u : State := { s with sched := { s.sched with arrivals := s.sched.arrivals.eraseIdx i } }
     let ours := if c.run = .idle then c.prevCtx = some a.ctx else c.task.ctx = a.ctx
     (ours → x.init = true → x.mask = a.mask → x.who.getLsbD (a.src.toNat % 64) = false →
       (x.count + 1 < members x.mask → exec (.barrierArrivalReceive i) s = .next (u.setCore a.dst (c.setBar a.bar
         { x with count := x.count + 1, who := x.who ||| BitVec.ofNat 64 (2 ^ (a.src.toNat % 64)) }))) ∧
       (members x.mask ≤ x.count + 1 → exec (.barrierArrivalReceive i) s = .next (u.setCore a.dst (c.setBar a.bar
         { x with count := 0, gen := x.gen + 1, arrived := false, who := 0 })))) ∧
     (ours → x.init = true → x.mask = a.mask → x.who.getLsbD (a.src.toNat % 64) = true →
       exec (.barrierArrivalReceive i) s = .next s) ∧
     (ours → x.init = true → x.mask ≠ a.mask →
       ∃ t, exec (.barrierArrivalReceive i) s = .next t ∧
         ∀ j, j ≠ a.dst → (s.core j).task.ctx ≠ a.ctx → t.core j = s.core j) ∧
     ((ours ∧ x.init = false) ∨ (¬ours ∧ c.run = .idle) →
       exec (.barrierArrivalReceive i) s = .next (u.setCore a.dst { c with held := c.held ++ [a] })) ∧
     (¬ours → c.run ≠ .idle →
       ∃ t, exec (.barrierArrivalReceive i) s = .next t ∧ t.cores = s.cores ∧ t.sched = u.sched ∧
         t.fleet.logHead = s.fleet.logHead + 1))

/-- R170, R171 and R44: a BAR.INIT whose mask omits the core or whose barrier has counted the core, a barrier command on a barrier
that is not initialised, a BAR.WAIT with no arrival since BAR.INIT, a second BAR.ARRIVE before the release, a ROPE while roped, or
with a mask that omits the core or is neither two adjacent cores nor a square of four, an UNROPE, LOOP, or CIM.MODE by a member that does not lead, and a DONE while
roped raise their traps. -/
def Obligations.BarrierAndRopeTraps : Prop :=
  ∀ (b : BitVec 6) (a c d m : BitVec 5) (s : State), s.me.run = .running →
    let x := s.me.bar b
    ((s.me.gr a).getLsbD (s.cur.toNat % 64) = false → exec (.barInit b a) s = .next (trapped s 12 12 0)) ∧
    ((s.me.gr a).getLsbD (s.cur.toNat % 64) = true → x.arrived = true →
      exec (.barInit b a) s = .next (trapped s 12 (3 * 2 ^ 62) 0)) ∧
    ((s.me.gr a).getLsbD (s.cur.toNat % 64) = false ∨ ropeShape (s.me.gr a) = false → s.me.rope = none →
      exec (.rope a) s = .next (trapped s 12 20 0)) ∧
    (x.init = true → x.since = false → exec (.barWait b) s = .next (trapped s 12 (3 * 2 ^ 62) 0)) ∧
    (x.init = false → exec (.barArrive b) s = .next (trapped s 12 (3 * 2 ^ 62) 0) ∧
      exec (.barWait b) s = .next (trapped s 12 (3 * 2 ^ 62) 0)) ∧
    (x.init = true → x.arrived = true → exec (.barArrive b) s = .next (trapped s 14 b.toNat 0)) ∧
    (s.me.rope.isSome = true → exec (.rope a) s = .next (trapped s 15 0 0) ∧ exec .done s = .next (trapped s 15 0 0)) ∧
    (s.me.rope.isSome = true → s.leader s.cur ≠ s.cur → exec .unrope s = .next (trapped s 15 0 0) ∧
      exec (.loop a c d) s = .next (trapped s 15 0 0) ∧ exec (.cimModeScratch m) s = .next (trapped s 15 0 0) ∧
      exec (.cimModeCompute m d) s = .next (trapped s 15 0 0))

/-- R44 and R171: ROPE with a legal mask waits, and the rope forms on every member at once when all wait in it with empty command
queues; UNROPE by the leader releases it on every member once the leader's command queue is empty; REJOIN waits until every
member has executed it and then returns on all. Without a rope UNROPE and REJOIN pass at once (UNROPE: log 16). -/
def Obligations.RopesFormAndEnd : Prop :=
  ∀ (a : BitVec 5) (m : Word64) (k : CoreId) (s : State),
    (s.me.rope = none → (s.me.gr a).getLsbD (s.cur.toNat % 64) = true → ropeShape (s.me.gr a) = true →
      exec (.rope a) s = .next (waiting s (.rope (s.me.gr a)))) ∧
    ((s.core k).wait = .rope m → (∀ j ∈ maskCores (dieOf k) m, (s.core j).run = .running ∧ (s.core j).missCp = false ∧
        (s.core j).wait = .rope m ∧ (s.core j).task.ctx = (s.core k).task.ctx ∧ (s.core j).cmdq = []) →
      ∃ t, exec (.ropeForm k) s = .next t ∧ { t with cores := s.cores } = s ∧
        (∀ j, j ∈ maskCores (dieOf k) m → t.core j = resumed { s.core j with rope := some ⟨m, false⟩ }) ∧
        (∀ j, j ∉ maskCores (dieOf k) m → t.core j = s.core j)) ∧
    (s.me.rope = none → exec .unrope s = .next (passes s s.me) ∧ exec .rejoin s = .next (passes s (s.me.release 2))) ∧
    (∀ r, s.me.rope = some r → s.leader s.cur = s.cur → exec .unrope s = .next (waiting s .unrope)) ∧
    (∀ r, s.me.rope = some r →
      exec .rejoin s = .next (s.setMe { s.me.release 2 with
        wait := .rejoin, cmdIdx := s.me.cmdIdx + 1, rope := some { r with rejoined := true } })) ∧
    (∀ r, (s.core k).rope = some r → (s.core k).wait = .unrope → (s.core k).run = .running → (s.core k).missCp = false →
      (s.core k).cmdq = [] → k ∈ maskCores (dieOf k) r.mask →
      ∃ t, exec (.unropeRelease k) s = .next t ∧ { t with cores := s.cores } = s ∧ t.core k = resumed { s.core k with rope := none } ∧
        (∀ j ∈ maskCores (dieOf k) r.mask, j ≠ k → (s.core j).rope.map (fun q => q.mask) = some r.mask →
          t.core j = { s.core j with rope := none }) ∧
        (∀ j, j ∉ maskCores (dieOf k) r.mask → t.core j = s.core j)) ∧
    (∀ r, (s.core k).rope = some r → (s.core k).wait = .unrope → (s.core k).cmdq ≠ [] → exec (.unropeRelease k) s = .next s) ∧
    (∀ r, (s.core k).rope = some r → (s.core k).wait = .rejoin → (s.core k).run = .running → (s.core k).missCp = false →
      (∀ j ∈ maskCores (dieOf k) r.mask, (s.core j).rope = some ⟨r.mask, true⟩) →
      ∃ t, exec (.rejoinReturn k) s = .next t ∧ { t with cores := s.cores } = s ∧
        (∀ j ∈ maskCores (dieOf k) r.mask, t.core j = resumed { s.core j with rope := some ⟨r.mask, false⟩ }) ∧
        (∀ j, j ∉ maskCores (dieOf k) r.mask → t.core j = s.core j))

namespace Sys2Proof.Claims

/-- The maximum of FP32 values (R72): the default NaN if all are NaN, and otherwise the greatest of those that are none. -/
def greatest (xs : List Nat) (r : Nat) : Prop :=
  ((∀ x ∈ xs, Fmt.fp32.isNan x = true) → r = 0x7FC00000) ∧
  ((∃ x ∈ xs, Fmt.fp32.isNan x = false) →
    r ∈ xs ∧ Fmt.fp32.isNan r = false ∧ ∀ x ∈ xs, Fmt.fp32.isNan x = false → fpKey .fp32 true x ≤ fpKey .fp32 true r)

end Sys2Proof.Claims

/-- R172 and R173: the reduction-tree commands with legal operands contribute the lanes at g[ga] to the tree their descriptor
names, begun by the first member or joined with the same descriptor and operator, and wait, the command index risen (R149); a
descriptor or operator unlike the tree's is undefined behaviour, after which no core of another context differs (R1, log 59). A
node combines its children once all have come; and a member that waits takes the root's value to its result address, with the
nodes' flags, and goes on. An operand that its read does not reach traps as its access does, and a descriptor whose fields R172
refuses raises the command-operand trap; the order of these checks is the model's choice (log 81), as is the offset that names a
field (log 49). R73: lane by lane a node's sum is the exact sum of the children's values rounded once; its maximum is
R72's; and the paired operator gives that maximum M, and the exact sum of the children's s times exp(m - M) rounded once. -/
def Obligations.ReductionTrees : Prop :=
  ∀ (a b c : BitVec 5) (tid : BitVec 16) (node res len : Nat) (t0 : RTree) (k : CoreId) (s : State),
    (let m := fun i => memNat s.me.scratch ((s.me.gr b).toNat + 8 * i) 8
     let id : BitVec 16 := BitVec.ofNat 16 (m 4 / 2 ^ 8)
     let goes : Instr → Nat → Nat → Prop := fun i op size =>
       descAt (s.me.gr a) size 256 → descAt (s.me.gr c) size 256 →
       let v := memRead s.me.scratch (s.me.gr a).toNat size
       let waits := fun (t : State) => t.me.wait = .rtree id (s.me.gr c).toNat size ∧ t.me.pc = s.me.pc ∧ t.me.g = s.me.g ∧
         t.me.ivl = s.me.ivl + 1 ∧ t.me.cmdIdx = s.me.cmdIdx + 1
       (s.tree s.me.task.ctx id = none → ∃ t tr, exec i s = .next t ∧ waits t ∧ t.tree s.me.task.ctx id = some tr ∧ tr.op.toNat = op ∧
         (∀ x ∈ tr.nodes, x.leaf = some s.cur → x.value = some v) ∧ (∀ x ∈ tr.nodes, x.leaf ≠ some s.cur → x.value = none)) ∧
       (∀ tr, s.tree s.me.task.ctx id = some tr → tr.op.toNat = op → tr.desc = (List.range 8).map (fun j => BitVec.ofNat 64 (m j)) →
         (∀ x ∈ tr.nodes, x.leaf = some s.cur → x.value = none) →
         ∃ t, exec i s = .next t ∧ waits t ∧ t.tree s.me.task.ctx id = some { tr with
           nodes := tr.nodes.map fun x => if x.leaf = some s.cur then { x with value := some v } else x }) ∧
       ∃ t, exec i s = .next t ∧ ∀ j, (s.core j).task.ctx ≠ s.me.task.ctx → t.core j = s.core j
     descAt (s.me.gr b) 64 64 → treeFault ((List.range 8).map m) s.cur = none →
     goes (.rtreeSum a b c) 0 (256 * (s.me.jetOrder.toNat + 1)) ∧ goes (.rtreeMax a b c) 1 256 ∧ goes (.rtreeMaxsum a b c) 2 512) ∧
    (s.me.run = .running →
      let m := fun i => memNat s.me.scratch ((s.me.gr b).toNat + 8 * i) 8
      let traps := fun (i : Instr) (size : Nat) =>
        let ok := fun (r : BitVec 5) => descAt (s.me.gr r) size 256
        let desc := descAt (s.me.gr b) 64 64
        let word4 := m 4 / 2 ^ 24 ≠ 0 ∨ m 4 / 2 ^ 4 % 2 ^ 4 ≠ 0 ∨ m 4 % 2 ^ 4 = 0
        let count := ((List.range 4).map fun d => ((List.range 64).filter fun j => m d / 2 ^ j % 2 == 1).length).sum
        (∀ cause d0 d1, DescTraps s.me size 256 (s.me.gr a).toNat cause d0 d1 → exec i s = .next (trapped s cause d0 d1)) ∧
        (∀ cause d0 d1, ok a → DescTraps s.me 64 64 (s.me.gr b).toNat cause d0 d1 → exec i s = .next (trapped s cause d0 d1)) ∧
        (∀ cause d0 d1, ok a → desc → DescTraps s.me size 256 (s.me.gr c).toNat cause d0 d1 →
          exec i s = .next (trapped s cause d0 d1)) ∧
        (ok a → desc → ok c →
          (word4 → exec i s = .next (trapped s 12 (2 ^ 63 + 32) 0)) ∧
          (∀ w, ¬word4 → 5 ≤ w → w ≤ 7 → m w ≠ 0 → (∀ v, 5 ≤ v → v < w → m v = 0) →
            exec i s = .next (trapped s 12 (2 ^ 63 + 8 * w) 0)) ∧
          (¬word4 → m 5 = 0 → m 6 = 0 → m 7 = 0 → m (s.cur.toNat / 64) / 2 ^ (s.cur.toNat % 64) % 2 = 0 ∨ count < 2 →
            exec i s = .next (trapped s 12 (2 ^ 63) 0)))
      traps (.rtreeSum a b c) (256 * (s.me.jetOrder.toNat + 1)) ∧ traps (.rtreeMax a b c) 256 ∧ traps (.rtreeMaxsum a b c) 512) ∧
    (s.tree t0.ctx tid = some t0 →
      (∀ (x : RNode) (vs : List (List Byte)), t0.nodes[node]? = some x → x.value = none → x.kids ≠ [] →
        x.kids.map (fun i => (t0.nodes[i]?).bind (·.value)) = vs.map some → (∀ v ∈ vs, v.length = (vs.headD []).length) →
        exec (.rtreeNodeCombine t0.ctx tid node) s = .next (s.setTree { t0 with nodes := t0.nodes.set node { x with
          value := some ((treeCombine t0.op.toNat (vs.map planesOf)).1.flatMap fun p => p.flatMap (toBytes 4))
          flags := BitVec.ofNat 5 (treeCombine t0.op.toNat (vs.map planesOf)).2 } })) ∧
      ((s.core k).wait = .rtree tid res len → (s.core k).task.ctx = t0.ctx → (s.core k).run = .running →
        (s.core k).missCp = false → ∀ v, t0.nodes.getLast?.bind (·.value) = some v → v.length = len →
        ∃ t, exec (.rtreeResult k) s = .next t ∧ memRead (t.core k).scratch res len = v ∧
          (∀ y, y < res ∨ res + len ≤ y → memGet (t.core k).scratch y = memGet (s.core k).scratch y) ∧
          (t.core k).fpFlags = (s.core k).fpFlags ||| (t0.nodes.foldl (fun (f : BitVec 5) (x : RNode) => f ||| x.flags) 0).zeroExtend 64 ∧
          (t.core k).pc = (s.core k).pc + 4 ∧ (t.core k).cmdIdx = (s.core k).cmdIdx ∧ (t.core k).wait = .no ∧
          ∀ j, j ≠ k → t.core j = s.core j)) ∧
    (∀ (kids : List (List (List Nat))) (p e : Nat), e < 64 →
      let lane := fun q => kids.map fun x => (x.getD q []).getD e 0
      let value := fun op q => ((treeCombine op kids).1.getD q []).getD e 0
      let sub := fun x y => (rsum .fp32 [prod [Fmt.fp32.decode x], prod [(Fmt.fp32.decode y).flip]]).bits
      let exp := fun x => (fpExp .fp32 (Fmt.fp32.decode x)).bits
      (p < (kids.headD []).length → value 0 p = (rsum .fp32 ((lane p).map fun x => prod [Fmt.fp32.decode x])).bits) ∧
      greatest (lane 0) (value 1 0) ∧ greatest (lane 0) (value 2 0) ∧
      value 2 1 = (rsum .fp32 (List.zipWith (fun x y => prod [Fmt.fp32.decode y, Fmt.fp32.decode (exp (sub x (value 2 0)))])
        (lane 0) (lane 1))).bits)

/-- R174 and R175: SPAWN of a packet of the task's launch hands base camp the record and waits; once there is room the record
joins its queue, the launch's cairns expect one more task each, a joined child counts at its parent, and the CP goes on. JOIN
passes once the join count is 0, with the number of joined children that failed, which it clears, and waits until then. A SPAWN whose
code pointer is no packet of the launch's control code raises the fetch trap (R134), and one whose spawn word has a reserved bit the
command-operand trap; that the first comes before the second is the model's choice (log 81). -/
def Obligations.SpawnAndJoin : Prop :=
  ∀ (a b c : BitVec 5) (k : CoreId) (s : State),
    let w := s.me.gr c
    (s.spawnAt s.cur (s.me.gr a).toNat = true → w.toNat / 2 ^ 48 % 2 ^ 10 = 0 →
      exec (.spawn a b c) s = .next (State.setMe { s with sched := { s.sched with
        nextSpawn := s.sched.nextSpawn + 1
        spawns := s.sched.spawns ++ [⟨s.sched.nextSpawn, {
          prio := s.capped s.me.task.ctx (BitVec.ofNat 5 (w.toNat / 2 ^ 59)), j := w.getLsbD 58, rs := false, code := s.me.gr a
          frame := s.me.gr b, tile := BitVec.ofNat 48 w.toNat, launch := s.me.task.launch
          parent := if w.getLsbD 58 then s.me.task.slot else 0, ctx := s.me.task.ctx, slot := 0, us := 0, limit := 0 }⟩] } }
        { s.me with wait := .spawn s.sched.nextSpawn, cmdIdx := s.me.cmdIdx + 1 })) ∧
    (s.me.run = .running →
      (s.spawnAt s.cur (s.me.gr a).toNat = false →
        exec (.spawn a b c) s = .next (trapped s 3 (s.me.gr a).toNat s.me.pc.toNat)) ∧
      (s.spawnAt s.cur (s.me.gr a).toNat = true → w.toNat / 2 ^ 48 % 2 ^ 10 ≠ 0 →
        exec (.spawn a b c) s = .next (trapped s 12 10 0)) ∧
      (∀ l, s.launchOf s.cur = some l → l.zpf = none →
        (s.spawnAt s.cur (s.me.gr a).toNat = true ↔ l.cbase ≤ (s.me.gr a).toNat ∧ (s.me.gr a).toNat + 12 ≤ l.cbase + l.clen ∧
          12 ∣ (s.me.gr a).toNat - l.cbase))) ∧
    (∀ (q : SpawnReq) (l : Launch), (s.core k).wait = .spawn q.id → (s.core k).run = .running → (s.core k).missCp = false →
      s.sched.spawns.find? (fun x => x.id == q.id) = some q → s.launchOf k = some l → l.isCancelled = false →
      s.roomLeft ≠ 0 → l.cairns.Nodup →
      ∃ u t : State, exec (.spawnAccept k) s = .next t ∧ t = u.requests ∧ u.core k = resumed ((s.core k).release 4) ∧
        (∀ n ∈ l.cairns, u.cairn n = { s.cairn n with exp := (s.cairn n).exp + 1 }) ∧
        (u.queue l.die q.r.prio.toNat).recs = (s.queue l.die q.r.prio.toNat).recs ++ [q.r] ∧
        (q.r.j = true → (u.joinSlot (s.core k).task.slot).count = (s.joinSlot (s.core k).task.slot).count + 1) ∧
        u.sched.spawns = s.sched.spawns.filter (fun x => x.id != q.id)) ∧
    ((s.joinSlot s.me.task.slot).count = 0 →
      ∃ t, exec (.join a) s = .next t ∧ { t with cores := s.cores, sched := s.sched } = s ∧ (∀ j, j ≠ s.cur → t.core j = s.core j) ∧
        { t.sched with joins := s.sched.joins } = s.sched ∧ t.joinSlot s.me.task.slot = ⟨0, 0⟩ ∧
        t.me = { s.me.setG a ((s.joinSlot s.me.task.slot).failed.zeroExtend 64) with wait := .no, cmdIdx := s.me.cmdIdx + 1 }.adv 1) ∧
    ((s.joinSlot s.me.task.slot).count ≠ 0 → exec (.join a) s = .next (waiting s (.join a))) ∧
    ((s.core k).wait = .join a → (s.core k).run = .running → (s.core k).missCp = false →
      (s.joinSlot (s.core k).task.slot).count = 0 →
      exec (.joinReturn k) s = .next ((s.setJoinSlot (s.core k).task.slot ⟨0, 0⟩).setCore k
        (resumed ((s.core k).setG a ((s.joinSlot (s.core k).task.slot).failed.zeroExtend 64)))))

namespace Sys2Proof.Claims

/-- A core whose task a cancel stops (R317, R337, R357). -/
def stopsCancelled (c d : Core) : Prop :=
  d.run = .cancelling ∧ d.cmdq = [] ∧ d.aq = c.aq.filter (·.begun) ∧ d.preemptReq = false ∧ d.stopUs = 0 ∧ d.tags = c.tags ∧
  ((∀ x y z, c.wait ≠ .rtree x y z) → d.wait = .no) ∧ (∀ x y z, c.wait = .rtree x y z → d.wait = .rtree x y z)

/-- What a cancel of a cairn does (R317): the cairn, if it is open or closed, is marked; each launch that it counts and that is not over
is cancelled, its cairn marked, and its tasks stop. -/
def cancels (s : State) (c : BitVec 12) (t : State) : Prop :=
  let x := s.cairn c
  (x.state = .opened ∨ x.state = .closed → (t.cairn c).cancel = true) ∧
  ∀ l ∈ s.sched.launches, s.live l.lc = some l → l.ctx = x.ctx → l.cairnAt x.level = c → (x.level = 0 ∨ c ∉ l.past) →
    l.isCancelled = false → (s.cairn l.lc).state ≠ .complete →
    (t.cairn l.lc).cancel = true ∧
    ∀ j, (s.core j).run = .running ∨ (s.core j).run = .preempting → l.started = true → (s.core j).task.launch = l.lid →
      (s.core j).task.ctx = l.ctx → stopsCancelled (s.core j) (t.core j)

end Sys2Proof.Claims

/-- R22, R175 and R306: DONE waits until the task's commands, results, copies and gathers have ended and its notices stand (R344);
then the core is released with its storage and its registers as they stood, for they change at the next task's start (R21, R37),
and each of the launch's four cairns that still counts it (R304, R305) has one more task done before base camp moves on. CANCEL of a
level cancels that cairn of the task's launch, if it is open or closed, with the launches that it counts, and the task: their cores
stop, with the queued commands and the address-queue entries not begun gone, and every wait but that for a tree's result over. -/
def Obligations.TasksEnd : Prop :=
  ∀ (a : BitVec 5) (k : CoreId) (s : State),
    let ready := fun (k : CoreId) => let c := s.core k
      c.cmdq = [] ∧ c.loopRun = none ∧ c.landing = [] ∧ c.tags = [] ∧ c.elems = [] ∧ c.zeroing = none ∧ c.aq = [] ∧
      c.gatherFaults = [] ∧ s.ringBusy k = false
    let registers := fun (c : Core) => (c.g, c.idx, c.views, c.streams, c.flags, c.fpFlags, c.accOvf, c.banks, c.bars)
    let ended := fun (k : CoreId) (o : Host.Outcome State Fault Refusal) =>
      ∃ t, o = .next t ∧ (∀ l, s.launchOfTask (s.core k).task = some l → l.isCancelled = false → l.cairns.Nodup →
          ∃ u : State, t = u.sweep ∧ (u.core k).run = .idle ∧ (∀ x, memGet (u.core k).scratch x = memGet (s.core k).scratch x) ∧
            (∀ x, memGet (u.core k).regs x = memGet (s.core k).regs x) ∧ registers (u.core k) = registers (s.core k) ∧
            ∀ n ∈ l.cairns, u.cairn n = if n = l.lc ∨ n ∉ l.past then { s.cairn n with done := (s.cairn n).done + 1 } else s.cairn n) ∧
        (s.launchOfTask (s.core k).task = none → (t.core k).run = .idle ∧ t.sched.cairns = s.sched.cairns ∧
          registers (t.core k) = registers (s.core k))
    (s.me.rope = none → ready s.cur → ended s.cur (exec .done s)) ∧
    (s.me.rope = none → (s.me.cmdq ≠ [] ∨ s.me.loopRun ≠ none ∨ s.me.landing ≠ [] ∨ (∃ n g, s.me.tag n = some g) ∨ s.me.elems ≠ [] ∨
        s.me.zeroing ≠ none ∨ s.me.aq ≠ [] ∨ s.me.gatherFaults ≠ [] ∨ s.ringBusy s.cur = true) →
      exec .done s = .next (waiting s .done)) ∧
    ((s.core k).wait = .done → (s.core k).run = .running → (s.core k).missCp = false → ready k →
      ended k (exec (.donePerform k) s)) ∧
    (∀ l, (s.me.gr a).toNat ≤ 3 → s.launchOf s.cur = some l → s.me.run = .running →
      ∃ t, exec (.cancel a) s = .next t ∧ t.me.cmdIdx = s.me.cmdIdx + 1 ∧ stopsCancelled s.me t.me ∧
        cancels s ([l.lc, l.gc, l.pc, l.jc].getD (s.me.gr a).toNat 0) t) ∧
    (3 < (s.me.gr a).toNat → s.me.run = .running → exec (.cancel a) s = .next (trapped s 12 20 0))

namespace Sys2Proof.Claims

/-- A copy's tag with nothing awaited or owed, and no sync word to arrive at. -/
def quietTag (t : Tag) : Prop := t.sent = [] ∧ t.owed = 0 ∧ t.t = false ∧ t.got = [] ∧ t.held = []

/-- A command's translations are one page of its context, which holds its extent at a virtual address. -/
def holdsPage (s : State) (k : CoreId) (t : Tag) (va len : Nat) (x : Trans) : Prop :=
  t.trans = [x] ∧ x.ctx = (s.core k).task.ctx ∧ x.vpn = va / 4096 ∧ x.pages = 1 ∧ va % 4096 + len ≤ 4096

/-- The race detector watches nothing of a context (R98). -/
def unwatched (s : State) (n : CtxId) : Prop := ∀ (i : Nat) (h : i < 4), ((s.ctx n).raceCtl[i]).getLsbD 63 = false

/-- A sync word after `n` bytes have arrived (R95). -/
def arrived (c : Core) (x : Nat) (arm : Bool) (gen tgt count n : Nat) : Prop :=
  (arm = true → tgt ≠ 0 →
    SyncWord c x true ((gen + (count + n) % 2 ^ 40 / tgt) % 2 ^ 16) tgt ((count + n) % 2 ^ 40 % tgt)) ∧
  (arm = false ∨ tgt = 0 → SyncWord c x arm gen tgt ((count + n) % 2 ^ 40))

/-- A copy of `len` bytes whose bytes are all still to move. -/
def movesAll (s : State) (k : CoreId) (n : BitVec 7) (t : Tag) (len : Nat) : Prop :=
  (s.core k).tag n.toNat = some t ∧ t.what = .cpy len ∧ 0 < len ∧ t.phase = .moving ∧ t.todo = [(0, len)] ∧ t.moved = 0 ∧
  t.sent = [] ∧ t.owed = 0 ∧ t.held = []

end Sys2Proof.Claims

/-- R153 and R154, for CPY between extents of the core's own plain scratch: a command with none before it starts; its bytes then
move, byte i of the source to byte i of the destination where the destination's byte is none of the source's, and it has
finished; the tag of a finished command frees. An extent that leaves the row of plain scratch ends the task with a copy fault of
code 1 instead, and frees the tag, with no byte moved. R95 and R152: with a completion target the copy's length arrives at the
sync word. R83, R292, R297 and R324: with one end in device memory its bytes are that page's, where the key of the page lets them
be; bytes for host memory leave in a Memory Write, whose arrival a read of no bytes awaits, and those from it are asked for and
move once they have come; a peer port takes them as a command. The state is the model's own in that a whole extent moves at
once. -/
def Obligations.CopiesMove : Prop :=
  (∀ (k : CoreId) (n : BitVec 7) (t : Tag) (a b len : Nat) (s : State),
    (s.core k).tag n.toNat = some t → t.what = .cpy len → 0 < len → endOf k t.src = .scratch k a → endOf k t.dest = .scratch k b →
    a < 0x40000 → b + len ≤ 0x40000 → quietTag t →
    let c := s.core k
    (t.phase = .issued → (∀ m u, (m, some u) ∈ c.tags → t.order ≤ u.order) → a + len ≤ 0x40000 →
      exec (.copyStart k n) s = .next (s.setCore k (c.setTag n.toNat (some { t with phase := .moving, todo := [(0, len)] })))) ∧
    (t.phase = .issued → (∀ m u, (m, some u) ∈ c.tags → t.order ≤ u.order) → 0x40000 < a + len → c.run = .running →
      ∃ u r, exec (.copyStart k n) s = .next u ∧ (u.core k).run = .stopping r ∧ r.cause = 23 ∧ r.src = 2 ∧ r.d0 = n.toNat ∧
        r.status = BitVec.ofNat 64 (2 ^ 56 + min t.moved (2 ^ 32 - 1)) ∧ (u.core k).tag n.toNat = none ∧
        (u.core k).scratch = c.scratch) ∧
    (t.phase = .moving → t.todo = [(0, len)] → t.moved = 0 → a + len ≤ 0x40000 →
      ∃ u t', exec (.copyArrival k n 0 len) s = .next u ∧ (u.core k).tag n.toNat = some t' ∧ t'.phase = .finished ∧ t'.moved = len ∧
        (∀ i, i < len → b + i < a ∨ a + len ≤ b + i → unawaited s k (b + i) 1 →
          memGet (u.core k).scratch (b + i) = memGet c.scratch (a + i)) ∧
        (∀ y, y < b ∨ b + len ≤ y → unawaited s k y 1 → memGet (u.core k).scratch y = memGet c.scratch y) ∧
        (∀ y, memGet (u.core k).regs y = memGet c.regs y) ∧ (∀ y, memGet u.dram y = memGet s.dram y) ∧
        ∀ j, j ≠ k → u.core j = s.core j) ∧
    (t.phase = .finished → t.nblk = 0 → exec (.copyComplete k n) s = .next (s.setCore k (c.setTag n.toNat none)))) ∧
  (∀ (k : CoreId) (n : BitVec 7) (t : Tag) (a b len : Nat) (arm : Bool) (gen tgt count : Nat) (s : State),
    movesAll s k n t len → t.got = [] → endOf k t.src = .scratch k a → endOf k t.dest = .scratch k b →
    a + len ≤ 0x40000 → b + len ≤ 0x40000 → unawaited s k b len → t.t = true →
    let x := t.target.toNat
    x + 16 ≤ 0x40000 → x + 16 ≤ b ∨ b + len ≤ x → SyncWord (s.core k) x arm gen tgt count →
    ∃ u t', exec (.copyArrival k n 0 len) s = .next u ∧ (u.core k).tag n.toNat = some t' ∧ t'.phase = .finished ∧
      arrived (u.core k) x arm gen tgt count len ∧
      ∀ y, y < b ∨ b + len ≤ y → y < x ∨ x + 16 ≤ y → memGet (u.core k).scratch y = memGet (s.core k).scratch y) ∧
  (∀ (k : CoreId) (n : BitVec 7) (t : Tag) (va b len : Nat) (x : Trans) (s : State),
    movesAll s k n t len → t.t = false → endOf k t.src = .dev va → endOf k t.dest = .scratch k b → b + len ≤ 0x40000 →
    holdsPage s k t va len x → t.pkey.getLsbD (2 * x.key.toNat) = false →
    let c := s.core k
    let fills := fun (data : Nat → Byte) => ∃ u t', exec (.copyArrival k n 0 len) s = .next u ∧
      (u.core k).tag n.toNat = some t' ∧ t'.phase = .finished ∧ t'.moved = len ∧
      (∀ i, i < len → unawaited s k (b + i) 1 → memGet (u.core k).scratch (b + i) = data i) ∧
      (∀ y, y < b ∨ b + len ≤ y → unawaited s k y 1 → memGet (u.core k).scratch y = memGet c.scratch y) ∧
      (∀ y, memGet u.dram y = memGet s.dram y) ∧ ∀ j, j ≠ k → u.core j = s.core j
    let asks := fun (u : State) => exec (.copyArrival k n 0 len) s = .next u ∧
      (u.core k).tag n.toNat = some { t with sent := [⟨s.ports.nextReq, 0, len, false⟩] } ∧
      (∀ y, memGet (u.core k).scratch y = memGet c.scratch y) ∧ u.dram = s.dram
    (∀ fr, x.leaf = .device fr → t.got = [] → unwatched s c.task.ctx → s.poisoned (fr * 4096 + va % 4096) len = false →
      fills fun i => memGet s.dram (fr * 4096 + va % 4096 + i)) ∧
    (∀ h, x.leaf = .host h → x.hr = true → t.got = [] → ∃ u, asks u ∧ u.ports.out = s.ports.out ++
      [.hostRead s.ports.nextReq (s.hostAddr c.task.ctx (h.map (· + va % 4096)) va) len]) ∧
    (∀ port f, x.leaf = .peer port → (s.peer port).failed = false → (s.peer port).far c.task.ctx = some f →
      (s.peer port).room 1 = true → t.got = [] → ∃ u, asks u ∧ (u.peer port).waiting = (s.peer port).waiting ++
        [⟨(s.peer port).cseq, 0, s.ports.nextReq, c.task.ctx, f, .read (BitVec.ofNat 57 va) len, .tag k n⟩]) ∧
    (∀ data, (∀ fr, x.leaf ≠ .device fr) → ((∃ h, x.leaf = .host h) → x.hr = true) → t.got = [(0, data)] → data.length = len →
      fills fun i => data.getD i 0)) ∧
  (∀ (k : CoreId) (n : BitVec 7) (t : Tag) (a va len : Nat) (x : Trans) (s : State),
    movesAll s k n t len → t.t = false → t.got = [] → endOf k t.src = .scratch k a → endOf k t.dest = .dev va → a + len ≤ 0x40000 →
    holdsPage s k t va len x → t.pkey.getLsbD (2 * x.key.toNat + 1) = false →
    let c := s.core k
    let bytes := memRead c.scratch a len
    let sends := fun (u : State) (t' : Tag) => exec (.copyArrival k n 0 len) s = .next u ∧ (u.core k).tag n.toNat = some t' ∧
      t'.moved = len ∧ (∀ y, memGet (u.core k).scratch y = memGet c.scratch y) ∧ ∀ j, j ≠ k → u.core j = s.core j
    (∀ fr, x.leaf = .device fr → unwatched s c.task.ctx →
      let pa := fr * 4096 + va % 4096
      ∃ u t', sends u t' ∧ t'.phase = .finished ∧ (∀ i, i < len → memGet u.dram (pa + i) = memGet c.scratch (a + i)) ∧
        ∀ y, y < pa ∨ pa + len ≤ y → memGet u.dram y = memGet s.dram y) ∧
    (∀ h, x.leaf = .host h → x.hw = true → ∃ u t', sends u t' ∧ t'.phase = .flushing s.ports.nextReq ∧ u.dram = s.dram ∧
      u.ports.out = s.ports.out ++ [.hostWrite (s.hostAddr c.task.ctx (h.map (· + va % 4096)) va) bytes,
        .hostRead s.ports.nextReq (s.hostAddr c.task.ctx h (va / 4096 * 4096)) 0]) ∧
    (∀ port f, x.leaf = .peer port → (s.peer port).failed = false → (s.peer port).far c.task.ctx = some f →
      (s.peer port).room 1 = true → ∃ u t', sends u t' ∧ t'.phase = .moving ∧ u.dram = s.dram ∧
        t'.sent = [⟨s.ports.nextReq, 0, len, true⟩] ∧ (u.peer port).waiting = (s.peer port).waiting ++
          [⟨(s.peer port).cseq, 0, s.ports.nextReq, c.task.ctx, f, .write (BitVec.ofNat 57 va) bytes, .tag k n⟩]))

namespace Sys2Proof.Claims

/-- The sum of a cell and an FP32 addend, and its status (R67): the addend is clamped to 2^48 in magnitude and taken to the nearest
multiple of 2^-48, ties to even; a NaN leaves the cell. -/
def CellSum (v x w status : Nat) : Prop :=
  let adds := fun (d : Int) => (w : Int) = ((v : Int) + d) % 2 ^ 128
  match Fmt.fp32.decode x with
  | .nan _ => w = v ∧ status = 2
  | .inf neg => adds (if neg then -(2 ^ 96) else 2 ^ 96) ∧ status = 1
  | .fin neg m e =>
    let sign : Int := if neg then -1 else 1
    if 0 ≤ e ∧ 2 ^ 48 < m * 2 ^ e.toNat then adds (sign * 2 ^ 96) ∧ status = 1
    else if 0 ≤ e + 48 then adds (sign * m * 2 ^ (e + 48).toNat) ∧ status = 0
    else ∃ q : Nat, adds (sign * q) ∧ status = 0 ∧
      let unit := 2 ^ (-(e + 48)).toNat
      2 * q * unit ≤ 2 * m + unit ∧ 2 * m ≤ 2 * q * unit + unit ∧
        ((2 * q * unit = 2 * m + unit ∨ 2 * m = 2 * q * unit + unit) → q % 2 = 0)

/-- The new value of an ATOM's unit of `n` bytes, where it writes one, and its result (R162, R137, R68). -/
def AtomValue (aop n v cmp old : Nat) (new : Option Nat) (result : Nat) : Prop :=
  let w := v % 2 ^ (8 * n)
  let signed := fun (x : Nat) => ((BitVec.ofNat (8 * n) x).toInt)
  (aop ≤ 9 → result = old) ∧ (aop = 0 → new = some ((old + w) % 2 ^ (8 * n))) ∧ (aop = 1 → new = some (old &&& w)) ∧
  (aop = 2 → new = some (old ||| w)) ∧ (aop = 3 → new = some (old ^^^ w)) ∧
  (aop = 4 → new = some (if signed w < signed old then w else old)) ∧
  (aop = 5 → new = some (if signed old < signed w then w else old)) ∧
  (aop = 6 → new = some (min old w)) ∧ (aop = 7 → new = some (max old w)) ∧ (aop = 8 → new = some w) ∧
  (aop = 9 → new = if old = cmp then some w else none) ∧
  (aop = 10 → ∃ x, new = some x ∧ CellSum old (v % 2 ^ 32) x result) ∧
  (aop = 11 → new = none ∧ result = if v = 0 then old else
    let x := (BitVec.ofNat 128 old).toInt
    (rsum .fp32 [prod [.fin (decide (x < 0)) x.natAbs (-48)]]).bits)

end Sys2Proof.Claims

/-- R162, R92, R137, R67 and R68: an ATOM on a unit of plain scratch, of the core's own or of another core of its context, or of
device memory: ATOM_PERFORM writes the unit's new value, where the operation writes one, puts the result in the core's own
scratch where the command has a result address, is a release where its order says so (R90), and finishes the command. -/
def Obligations.AtomsPerform : Prop :=
  ∀ (k c : CoreId) (n : BitVec 7) (t : Tag) (a aop sz sc ord v cmp : Nat) (res : Option Nat) (s : State),
    (s.core k).tag n.toNat = some t → t.what = .atom aop sz sc ord v cmp res → t.phase = .moving → quietTag t →
    aop ≤ 11 → sz = (if 10 ≤ aop then 16 else if sz = 8 then 8 else 4) →
    let size := if aop = 11 ∧ v = 0 then 16 else 8
    let ends := fun (u : State) (result : Nat) => exec (.atomPerform k n) s = .next u ∧
      (∃ t', (u.core k).tag n.toNat = some t' ∧ t'.phase = .finished) ∧
      (u.core k).ivl = (if 2 ≤ ord then (s.core k).ivl + 1 else (s.core k).ivl) ∧
      (∀ d, res = some d → memNat (u.core k).scratch d size = result)
    let outside := fun (j : CoreId) (y : Nat) => ∀ d, res = some d → j = k → y < d ∨ d + size ≤ y
    (endOf k t.dest = .scratch c a → a + sz ≤ 0x40000 →
      (c = k ∨ ((s.core c).run = .running ∧ (s.core c).task.ctx = (s.core k).task.ctx)) →
      (∀ d, res = some d → c = k → a + sz ≤ d ∨ d + size ≤ a) →
      let old := memNat (s.core c).scratch a sz
      ∃ u new result, AtomValue aop sz v cmp old new result ∧ ends u result ∧ memNat (u.core c).scratch a sz = new.getD old ∧
        (∀ j y, outside j y → (j = c → y < a ∨ a + sz ≤ y) → memGet (u.core j).scratch y = memGet (s.core j).scratch y) ∧
        u.dram = s.dram) ∧
    (∀ (va fr : Nat) (x : Trans), endOf k t.dest = .dev va → holdsPage s k t va sz x → x.leaf = .device fr →
      unwatched s (s.core k).task.ctx → s.poisoned (fr * 4096 + va % 4096) sz = false →
      let pa := fr * 4096 + va % 4096
      let old := memNat s.dram pa sz
      ∃ u new result, AtomValue aop sz v cmp old new result ∧ ends u result ∧ memNat u.dram pa sz = new.getD old ∧
        (∀ y, y < pa ∨ pa + sz ≤ y → memGet u.dram y = memGet s.dram y) ∧
        ∀ j y, outside j y → memGet (u.core j).scratch y = memGet (s.core j).scratch y)

namespace Sys2Proof.Claims

/-- Decode of R159 with a table: from a count of steps, a state, a payload bit and the output so far, to the whole output. -/
inductive Decodes (b payload : List Byte) (outLen : Nat) : Nat → Nat → Nat → List Byte → List Byte → Prop where
  | all (i st p : Nat) (out : List Byte) : outLen ≤ out.length → Decodes b payload outLen i st p out out
  | step (i st p ns row k e : Nat) (out fin : List Byte) : out.length < outLen → i < 8 * payload.length + outLen + 64 →
      ns = (if natAt b 0 8 % 2 ^ 12 = 0 then 4096 else natAt b 0 8 % 2 ^ 12) →
      k = natAt b (8 + 4 * st) 4 / 2 ^ 28 → row = natAt b (8 + 4 * st) 4 % 2 ^ 16 →
      e = natAt b ((8 + 4 * ns + 7) / 8 * 8 + 8 * (row + natAt payload 0 payload.length / 2 ^ p % 2 ^ k)) 8 →
      p + e / 2 ^ 48 % 2 ^ 4 ≤ 8 * payload.length →
      Decodes b payload outLen (i + 1) (e / 2 ^ 52) (p + e / 2 ^ 48 % 2 ^ 4)
        (out ++ ((List.range (e / 2 ^ 46 % 2 ^ 2)).map fun j => BitVec.ofNat 8 (e / 2 ^ (16 + 8 * j))).take (outLen - out.length))
        fin →
      Decodes b payload outLen i st p out fin

/-- The output of a block (R158): its payload as it is, or what the lane's table decodes. -/
def BlockOut (table : List Byte) (method outLen : Nat) (payload out : List Byte) : Prop :=
  (method = 0 ∧ payload.length = outLen ∧ out = payload) ∨
  (method = 1 ∧ Decodes table payload outLen 0 (natAt table 0 8 / 2 ^ 16 % 2 ^ 12) 0 [] out)

end Sys2Proof.Claims

/-- R158 to R160: a lane begins to serve the transform at its head if it holds a table of that context and tag, and otherwise
faults it; a transform past its last block has finished and leaves the lane's order. CPYX_BLOCK of a block in the core's own plain
scratch: a raw payload, or what the table decodes it to, whose checksum agrees is committed at its place in the destination; a
header that is no block's ends the transform with a format fault; a ratio or a checksum that is wrong commits nothing, and the next
block stands where the header says. A LANE.LOAD at the head of its lane gives the lane a table that passes its checks; one that
fails them ends with a lane-table fault that has moved no byte, and the lane holds no table. -/
def Obligations.LanesServe : Prop :=
  ∀ (lane : BitVec 8) (k : CoreId) (n : BitVec 7) (rest : List (CoreId × BitVec 7)) (t : Tag) (s : State),
    (tabGet Lane.reset s.lanes lane.toNat).order = (k, n) :: rest → (s.core k).tag n.toNat = some t →
    s.wf = true →
    let l := tabGet Lane.reset s.lanes lane.toNat
    (∀ slen rho want ln cap, t.what = .cpyx slen rho want ln cap →
      (l.served = false → (∃ x, l.table = some x ∧ x.ctx = (s.core k).task.ctx ∧ x.tag = want) →
        exec (.cpyxBlock lane) s = .next { s with lanes := tabSet Lane.reset s.lanes lane.toNat { l with served := true } }) ∧
      (l.served = false → (∀ x, l.table = some x → x.ctx ≠ (s.core k).task.ctx ∨ x.tag ≠ want) → (s.core k).run = .running →
        ∃ u r, exec (.cpyxBlock lane) s = .next u ∧ (u.core k).run = .stopping r ∧ r.cause = 23 ∧ r.src = 2 ∧
          r.status.toNat / 2 ^ 56 = 9 ∧ (u.core k).tag n.toNat = none) ∧
      (l.served = true → t.todo = [] → quietTag t → slen ≤ t.blkSrc →
        ∃ u t', exec (.cpyxBlock lane) s = .next u ∧ (u.core k).tag n.toNat = some t' ∧ t'.phase = .finished ∧
          tabGet Lane.reset u.lanes lane.toNat = { l with order := rest, served := false } ∧
          ∀ y, memGet (u.core k).scratch y = memGet (s.core k).scratch y) ∧
      (∀ a b, l.served = true → t.todo = [] → quietTag t → endOf k t.src = .scratch k a → endOf k t.dest = .scratch k b →
        a + slen ≤ 0x40000 → t.blkSrc < slen →
        let h := a + t.blkSrc
        let inLen := memNat (s.core k).scratch h 4
        let outLen := memNat (s.core k).scratch (h + 4) 4
        let crc := memNat (s.core k).scratch (h + 8) 4
        let method := memNat (s.core k).scratch (h + 12) 1
        let payload := memRead (s.core k).scratch (h + 16) inLen
        let table := (l.table.map (·.bytes)).getD []
        let runs := t.blkSrc + 16 ≤ slen ∧ t.blkSrc + 16 + inLen ≤ slen ∧ method ≤ 1 ∧ memNat (s.core k).scratch (h + 13) 3 = 0 ∧
          outLen ≤ 65536
        let goesOn := fun (u : State) (t' : Tag) => exec (.cpyxBlock lane) s = .next u ∧ (u.core k).tag n.toNat = some t' ∧
          t'.phase = t.phase ∧ t'.blkSrc = (t.blkSrc + 16 + inLen + 15) / 16 * 16 ∧ t'.blkOut = t.blkOut + outLen ∧
          t'.blkIdx = t.blkIdx + 1
        let skips := fun (code : Nat) => ∃ u t', goesOn u t' ∧ t'.nblk = min (t.nblk + 1) 65535 ∧
          (t.nblk = 0 → t'.status.toNat / 2 ^ 56 = code) ∧ (u.core k).scratch = (s.core k).scratch
        (runs → outLen ≤ rho * inLen → t.blkOut + outLen ≤ cap → b + t.blkOut + outLen ≤ 0x40000 →
          (∀ out, BlockOut table method outLen payload out → crc32c out = crc → ∃ u t', goesOn u t' ∧ t'.moved = t.moved + outLen ∧
            t'.status = t.status ∧ (unawaited s k (b + t.blkOut) outLen →
              memRead (u.core k).scratch (b + t.blkOut) outLen = out ∧
              ∀ y, y < b + t.blkOut ∨ b + t.blkOut + outLen ≤ y → memGet (u.core k).scratch y = memGet (s.core k).scratch y)) ∧
          ((∀ out, BlockOut table method outLen payload out → crc32c out ≠ crc) → skips 11)) ∧
        (runs → rho * inLen < outLen → skips 12) ∧
        (¬runs → ∃ u t', exec (.cpyxBlock lane) s = .next u ∧ (u.core k).tag n.toNat = some t' ∧ t'.phase = .finished ∧
          t'.status.toNat / 2 ^ 56 = 10 ∧ t'.nblk = min (t.nblk + 1) 65535 ∧ (u.core k).scratch = (s.core k).scratch ∧
          tabGet Lane.reset u.lanes lane.toNat = { l with order := rest, served := false }))) ∧
    (∀ ln tg len a, t.what = .laneLoad ln tg len → endOf k t.src = .scratch k a → 0 < len → a + len ≤ 0x40000 → quietTag t →
      (tableOk (memRead (s.core k).scratch a len) = true →
        ∃ u t', exec (.laneTableCheck lane) s = .next u ∧ (u.core k).tag n.toNat = some t' ∧ t'.phase = .finished ∧ t'.moved = len ∧
          (tabGet Lane.reset u.lanes lane.toNat).table = some ⟨memRead (s.core k).scratch a len, (s.core k).task.ctx, tg⟩) ∧
      (tableOk (memRead (s.core k).scratch a len) = false → (s.core k).run = .running → t.moved = 0 →
        ∃ u r, exec (.laneTableCheck lane) s = .next u ∧ (u.core k).run = .stopping r ∧ r.cause = 23 ∧
          r.status = BitVec.ofNat 64 (9 * 2 ^ 56) ∧ (u.core k).tag n.toNat = none ∧
          (tabGet Lane.reset u.lanes lane.toNat).table = none))

/-- R229 to R231 and R96, for a base in the core's own plain scratch and no remap, with no acquiring ATOM before it under way
(R90): a gather appends the element its index names
at the tail of a data queue with room and takes the entry; a scatter takes the oldest element of its queue and writes it there.
-/
def Obligations.GathersAndScatters : Prop :=
  ∀ (k : CoreId) (q : BitVec 3) (e : AqEntry) (r : Remap) (b : Nat) (s : State),
    let c := s.core k
    let w := c.q q
    let x := b + e.index.toNat * w.esz
    c.aq.find? (fun f => f.qw == q) = some e → c.remap[q.toNat] = some r → c.elems = [] → c.gatherFaults = [] → c.run = .running →
    (∀ m u, (m, some u) ∈ c.tags → u.phase = .finished ∨ e.stamp ≤ u.order ∨ (u.what.ord ≠ 1 ∧ u.what.ord ≠ 3)) →
    endOf k r.base = .scratch k b → r.word.toNat / 2 ^ 62 = 0 → x + w.esz ≤ 0x40000 → w.base + w.depth * w.esz ≤ 0x40000 →
    w.tail < w.depth → w.head < w.depth → w.occ ≤ w.depth →
    (r.word.getLsbD 61 = false → w.occ < w.depth →
      ∃ u, exec (.gatherElement k q) s = .next u ∧ (u.core k).aq = c.aq.erase e ∧
        (u.core k).q q = w.put (w.occ + 1) ((w.tail + 1) % w.depth) w.head ∧
        memRead (u.core k).scratch (w.base + w.tail * w.esz) w.esz = memRead c.scratch x w.esz ∧
        (∀ y, y < w.base + w.tail * w.esz ∨ w.base + (w.tail + 1) * w.esz ≤ y →
          memGet (u.core k).scratch y = memGet c.scratch y) ∧ u.dram = s.dram) ∧
    (r.word.getLsbD 61 = true → 0 < w.occ →
      ∃ u, exec (.scatterElement k q) s = .next u ∧ (u.core k).aq = c.aq.erase e ∧
        (u.core k).q q = w.put (w.occ - 1) w.tail ((w.head + 1) % w.depth) ∧
        (unawaited s k x w.esz → memRead (u.core k).scratch x w.esz = memRead c.scratch (w.base + w.head * w.esz) w.esz ∧
          ∀ y, y < x ∨ x + w.esz ≤ y → memGet (u.core k).scratch y = memGet c.scratch y) ∧ u.dram = s.dram)

namespace Sys2Proof.Claims

/-- Nothing but a core differs. -/
def onlyCore (s : State) (k : CoreId) (t : State) : Prop :=
  { t with cores := s.cores } = s ∧ ∀ j, j ≠ k → t.core j = s.core j

/-- A core that runs a task alone, its vector stream free to move. -/
def aloneRuns (c : Core) : Prop := c.rope = none ∧ c.run = .running ∧ c.missVs = false

end Sys2Proof.Claims

/-- R27, R37 and R38: an idle vector stream with nothing in flight begins the loop command at its queue's head, at its first
iteration and word; it begins a CIM.MODE when no pass on the bank is in flight and every copy of its context into the bank that
was issued before it has completed, the bank then busy for 64 cycles, and not while one is under way; after them both halves are zero and the bank has its mode, EMPTY with count 0. -/
def Obligations.VectorCommandsBegin : Prop :=
  ∀ (k : CoreId) (s : State),
    let c := s.core k
    aloneRuns c →
    (∀ l rest, c.cmdq = .loop l :: rest → c.loopRun = none → c.zeroing = none → c.landing = [] → c.occ = ⟨0, 0, 0, 0, 0⟩ →
      ∃ u r, exec (.loopCommandBegin k) s = .next u ∧ (u.core k).loopRun = some r ∧ r.c = l ∧ r.iter = l.first ∧ r.off = 0 ∧
        ((u.core k).run = .running → (u.core k).cmdq = rest) ∧
        (∀ y, memGet (u.core k).scratch y = memGet c.scratch y ∧ memGet (u.core k).regs y = memGet c.regs y) ∧
        (u.core k).g = c.g ∧ ∀ j, j ≠ k → u.core j = s.core j) ∧
    (∀ b comp kind cmd stamp rest, c.cmdq = .mode b comp kind cmd stamp :: rest → c.loopRun = none → c.zeroing = none →
      let passes := fun (l : Landing) => ∃ x n, l.pass = some (x, n) ∧ x ≤ b.toNat ∧ b.toNat < x + n
      let copies := fun (p : Nat × Core) => ∃ m t, (m, some t) ∈ p.2.tags ∧ p.2.task.ctx = c.task.ctx ∧ t.order < stamp ∧
        p.2.destBank (BitVec.ofNat 8 p.1) t = some (k, b) ∧ t.phase ≠ .finished
      ((∀ l ∈ c.landing, ¬passes l) → (∀ p ∈ s.cores, ¬copies p) →
        ∃ u, exec (.cimModePerform k) s = .next u ∧ onlyCore s k u ∧ u.core k = { c with
          banks := c.banks.set b.toNat { c.bank b with busy := true }, zeroing := some ⟨b, comp, kind, 64, stamp⟩, cmdq := rest }) ∧
      ((∃ l ∈ c.landing, passes l) ∨ (∃ p ∈ s.cores, copies p) → exec (.cimModePerform k) s = .next s)) ∧
    (∀ b comp kind stamp, c.zeroing = some ⟨b, comp, kind, 0, stamp⟩ → Memory.wf c.scratch = true →
      ∃ u, exec (.cimModeZeroingEnd k) s = .next u ∧ (u.core k).zeroing = none ∧
        ((u.core k).bank b).busy = false ∧ ((u.core k).bank b).compute = comp ∧ ((u.core k).bank b).fill = 0 ∧
        ((u.core k).bank b).count = 0 ∧ ((u.core k).bank b).active = false ∧
        (∀ y, 0x40000 + b.toNat * 0x3000 ≤ y → y < 0x40000 + b.toNat * 0x3000 + 0x3000 → memGet (u.core k).scratch y = 0) ∧
        (∀ y, y < 0x40000 + b.toNat * 0x3000 ∨ 0x40000 + b.toNat * 0x3000 + 0x3000 ≤ y →
          memGet (u.core k).scratch y = memGet c.scratch y) ∧
        ∀ d : BitVec 5, d ≠ b → (u.core k).bank d = c.bank d)


/-! ## The vector stream's words -/

namespace Sys2Proof.Claims

/-- A slot held for `n` issue cycles (R243): I, A, B, M, X are 1 to 5 (R339). -/
def held (o : Occ) (slot n : Nat) : Occ :=
  if slot = 1 then { o with i := n } else if slot = 2 then { o with a := n } else if slot = 3 then { o with b := n }
  else if slot = 4 then { o with m := n } else { o with x := n }

/-- A word that issues as its group on the core `c` (which is the current core, but for what the word takes from a queue): results
under way from its slot, each with its latency, value, class for lat and flags (R240, R57), for a CIM.PASS with its banks, and the
slot held (R243). Nothing else changes. -/
def issuesFrom (s : State) (c : Core) (slot occ : Nat) (banks : Option (Nat × Nat))
    (ls : List (Nat × LandVal × LatClass × Nat)) : State :=
  s.setMe { c with
    landing := c.landing ++ ls.map fun l => ⟨l.1, l.2.1, l.2.2.1, BitVec.ofNat 64 l.2.2.2, s.me.origin slot, banks⟩
    occ := held c.occ slot occ }

/-- The same for a word that is no CIM.PASS. -/
def issues (s : State) (c : Core) (slot occ : Nat) (ls : List (Nat × LandVal × LatClass × Nat)) : State :=
  issuesFrom s c slot occ none ls

/-- The flags of lane results, bits of fp.flags, joined over `n` planes and `l` lanes (R57). -/
def joined (n l : Nat) (g : Nat → Nat → Nat) : Nat :=
  (List.range n).foldl (fun u k => (List.range l).foldl (fun u j => u ||| g k j) u) 0

/-- The core's task ends with the record of a trap of the vector stream at the group at hand (R337, R339). -/
def groupTrapped (s : State) (cause eng d0 d1 : Nat) : State :=
  s.setMe { s.me with
    run := .stopping (s.me.groupRecord ⟨cause, eng, d0, d1⟩), wait := .no, cmdq := []
    aq := s.me.aq.filter (·.begun), stopUs := 0, preemptReq := false }

/-- The operands of an A or B word as R177 to R179, R190 and R191 demand them: names that views claim (lat where it carries a result),
in the slot's cluster, of classes the operation takes, and an index or a coefficient that the operand has. -/
structure LaneOperands (s : State) (w : AbWord) (d a b : Opnd) : Prop where
  dest : codeName s.me.snapViews s.me.snapOrder w.d = some d
  first : s.me.source w.a = some a
  second : s.me.source (w.b.getD w.a) = some b
  cluster : clusterOk w.s d = true ∧ clusterOk w.s a = true ∧ clusterOk w.s b = true
  classes : w.op.classOk ⟨d, a, b⟩ = true
  own : w.op.ownOk s.me.snapOrder ⟨d, a, b⟩ = true

end Sys2Proof.Claims

/-- R182 to R193 and R122, step 4: every word of the A and B slots (VADD to VCSGN, VMOV to VCOS, VCMPEQ to VCMPLE, VIADD to
VSAR, VICMPEQ, VICMPLT, VSEL, the four CVTs, VRSUM to VRISUM, VPERM, VBCAST, JSEED, JEXT, JSET) with legal operands completes:
its result and flags are those of its operation on the planes that its operands hold, they land after the operation's latency,
and the slot is held for one cycle a plane. A destination that no view claims is check 3, an operand of the other slot's cluster
check 2, lat where nothing lands check 9, each with the group's address; nothing lands then. -/
def Obligations.LaneWords : Prop :=
  ∀ (i : Instr) (w : AbWord) (s : State), abWord i = some w →
    let n := s.me.snapOrder
    let slot := if w.s then 3 else 2
    (∀ d a b : Opnd, LaneOperands s w d a b →
      let r := abResult w.op n ⟨d, a, b⟩ (s.me.readPlanes d) (s.me.readPlanes a) (s.me.readPlanes b)
      let bytes := planeBytes d.cls.width r.1
      ((∀ k, w.op ≠ .jset k) →
        exec i s = .next (issues s s.me slot (n + 1) [(w.op.latency n, .bytes d.off bytes, .no, r.2)])) ∧
      (∀ k, w.op = .jset k → exec i s = .next (issues s s.me slot (n + 1)
        [(1 + n, .bytes (d.off + k * d.plane) ((bytes.drop (k * d.plane)).take d.plane), .no, 0)]))) ∧
    (s.me.run = .running →
      let d := codeName s.me.snapViews n w.d
      let a := s.me.source w.a
      let b := s.me.source (w.b.getD w.a)
      ((∃ o, (d = some o ∨ a = some o ∨ b = some o) ∧ clusterOk w.s o = false) →
        exec i s = .next (groupTrapped s 2 6 2 s.me.groupAddr.toNat)) ∧
      (w.d.toNat ≠ 144 → d = none → (∀ o, a = some o ∨ b = some o → clusterOk w.s o = true) →
        exec i s = .next (groupTrapped s 2 6 3 s.me.groupAddr.toNat)) ∧
      (∀ o, w.op = .neg → d = some o → o.cls = .vec → w.a.toNat = 144 → s.me.latOpnd = none → clusterOk w.s o = true →
        exec i s = .next (groupTrapped s 2 6 9 s.me.groupAddr.toNat)))

namespace Sys2Proof.Claims

/-- The integer nearest to `num` / `den`, ties to the even one, or under RoundTZ the one toward zero (R8, R60). -/
def Rounds (tz : Bool) (num : Int) (den : Nat) (q : Int) : Prop :=
  if tz then q = num.tdiv den
  else 2 * (q * den - num) ≤ den ∧ 2 * (num - q * den) ≤ den ∧
    (2 * (q * den - num) = den ∨ 2 * (num - q * den) = den → q % 2 = 0)

/-- A rounded integer clamped to a kind's range (R8, R47), with nx in a row where the rounding was not exact and sat where it clamps. -/
def Clamped (kd : Kind) (row : Nat) (exact : Prop) (q v : Int) (flags : Nat) : Prop :=
  v = max kd.lo (min kd.hi q) ∧ ∃ nx sat, (exact → nx = 0) ∧ (¬exact → nx = rowFlags row 1) ∧ (v = q → sat = 0) ∧
    (v ≠ q → sat = 2 ^ 40) ∧ flags = nx + sat

/-- A value as a fraction: its numerator over a power of two. -/
def fraction (neg : Bool) (m : Nat) (e : Int) : Int × Nat :=
  ((if neg then -1 else 1) * ((m * 2 ^ e.toNat : Nat) : Int), 2 ^ (-e).toNat)

/-- A floating-point value to a code or to INT32 (R60): rounded and clamped; a NaN gives 0 with nv, an infinity an end of the range. -/
def ToCode (tz : Bool) (kd : Kind) (row : Nat) (x : Fp) (v : Int) (flags : Nat) : Prop :=
  match x with
  | .nan _ => v = 0 ∧ flags = rowFlags row 16
  | .inf neg => v = (if neg then kd.lo else kd.hi) ∧ flags = 2 ^ 40
  | .fin neg m e =>
    let t := fraction neg m e
    ∃ q, Rounds tz t.1 t.2 q ∧ Clamped kd row (q * t.2 = t.1) q v flags

/-- What an element stands for under a kind (R188). -/
def codeOf (kd : Kind) (u : Nat) : Int :=
  match kd with
  | .sint n => (BitVec.ofNat n u).toInt
  | .uint n => ((u % 2 ^ n : Nat) : Int)
  | .ternary => if u % 256 = 1 then 1 else if u % 256 = 255 then -1 else 0
  | .int32 => (BitVec.ofNat 32 u).toInt

end Sys2Proof.Claims

/-- R183 to R188 and R190 to R193, lane by lane: the integer and bitwise operations and compares, VMOV, VNEG, VABS, VCSGN, VSEL,
VPERM, VBCAST, VRISUM, JSEED, JEXT.RAW and JSET, and the four conversions, with their latencies. That a conversion of a format into
itself passes a quiet NaN as it is, is R188's last sentence (log 21). -/
def Obligations.LaneValues : Prop :=
  ∀ (c sb : Bool) (d a b : BitVec 8) (od oa ob : Opnd) (s : State),
    let n := s.me.snapOrder
    let w := od.cls.width
    let x := s.me.readPlanes oa
    let y := s.me.readPlanes ob
    let z := s.me.readPlanes od
    let slot := if sb then 3 else 2
    let lands := fun (i : Instr) (lat : Nat) (ps : List (List Nat)) =>
      exec i s = .next (issues s s.me slot (n + 1) [(lat, .bytes od.off (planeBytes w ps), .no, 0)])
    let two := fun (op : AbOp) (i : Instr) (lat : Nat) (ps : List (List Nat)) =>
      LaneOperands s ⟨op, sb, d, a, some b⟩ od oa ob → lands i lat ps
    let one := fun (op : AbOp) (i : Instr) (lat : Nat) (ps : List (List Nat)) =>
      LaneOperands s ⟨op, sb, d, a, none⟩ od oa ob → lands i lat ps
    let each := fun (f : Nat → Nat → Nat) => List.zipWith (List.zipWith f) x y
    let masks := fun (p : Nat → Nat → Prop) [∀ u v, Decidable (p u v)] =>
      List.zipWith (fun u v => if p u v then 2 ^ w - 1 else 0) (x.headD []) (y.headD []) :: List.replicate n (List.replicate od.cls.lanes 0)
    let at' := fun (ps : List (List Nat)) (k j : Nat) => (ps.getD k []).getD j 0
    let build := fun (f : Nat → Nat → Nat) => (List.range (n + 1)).map fun k => (List.range od.cls.lanes).map (f k)
    let sign := 2 ^ (w - 1)
    let flip := fun (v : Nat) => if v / sign % 2 = 1 then v - sign else v + sign
    two .iadd (.viadd c sb d a b) (2 + n) (each fun u v => (u + v) % 2 ^ w) ∧
    two .isub (.visub c sb d a b) (2 + n) (each fun u v => (u + 2 ^ w - v) % 2 ^ w) ∧
    two .imul (.vimul c sb d a b) (4 + n) (each fun u v => u * v % 2 ^ w) ∧
    two .imin (.vimin c sb d a b) (2 + n) (each fun u v => if sext w v < sext w u then v else u) ∧
    two .imax (.vimax c sb d a b) (2 + n) (each fun u v => if sext w u < sext w v then v else u) ∧
    two .and (.vand c sb d a b) (1 + n) (each Nat.land) ∧
    two .or (.vor c sb d a b) (1 + n) (each Nat.lor) ∧
    two .xor (.vxor c sb d a b) (1 + n) (each Nat.xor) ∧
    two .shl (.vshl c sb d a b) (2 + n) (each fun u v => u * 2 ^ (v % w) % 2 ^ w) ∧
    two .shr (.vshr c sb d a b) (2 + n) (each fun u v => u / 2 ^ (v % w)) ∧
    two .sar (.vsar c sb d a b) (2 + n) (each fun u v => (sext w u / 2 ^ (v % w) % 2 ^ w).toNat) ∧
    two .icmpeq (.vicmpeq c sb d a b) (2 + n) (masks fun u v => u = v) ∧
    two .icmplt (.vicmplt c sb d a b) (2 + n) (masks fun u v => sext w u < sext w v) ∧
    one .mov (.vmov c sb d a) (1 + n) x ∧
    one .neg (.vneg c sb d a) (1 + n) (build fun k j => flip (at' x k j)) ∧
    one .abs (.vabs c sb d a) (1 + n) (build fun k j => if at' x 0 j / sign % 2 = 1 then flip (at' x k j) else at' x k j) ∧
    two .csgn (.vcsgn c sb d a b) (1 + n)
      (build fun k j => if at' x 0 j / sign % 2 ≠ at' y 0 j / sign % 2 then flip (at' x k j) else at' x k j) ∧
    two .sel (.vsel c sb d a b) (1 + n) (build fun k j => if at' z 0 j ≠ 0 then at' x k j else at' y k j) ∧
    two .perm (.vperm c sb d a b) (2 + n) (build fun k j => at' x k (at' y 0 j % od.cls.lanes)) ∧
    (∀ m : BitVec 8, one (.bcast m.toNat) (.vbcast c sb d a m) (1 + n) (x.map fun p => List.replicate oa.cls.lanes (p.getD m.toNat 0))) ∧
    one .risum (.vrisum c sb d a) (6 + n) (x.map fun p => List.replicate 64 (p.foldl (· + ·) 0 % 2 ^ 32)) ∧
    (∀ f, oa.cls.fmt = some f → one .jseed (.jseed c sb d a) (1 + n)
      (x.headD [] :: (List.range n).map fun k => List.replicate od.cls.lanes (if k = 0 then f.one else 0))) ∧
    (∀ m : BitVec 3, one (.jext false m.toNat) (.jext c sb d a false m) (1 + n)
      (x.getD m.toNat [] :: List.replicate n (List.replicate od.cls.lanes 0))) ∧
    (∀ m : BitVec 3, LaneOperands s ⟨.jset m.toNat, sb, d, a, none⟩ od oa ob →
      exec (.jset c sb d a m) s = .next (issues s s.me slot (n + 1)
        [(1 + n, .bytes (od.off + m.toNat * od.plane) (bytesOf w (x.headD [])), .no, 0)])) ∧
    (let m := min oa.cls.lanes od.cls.lanes
     let converts := fun (op : AbOp) (i : Instr) (g : Nat → Nat → Nat) (flags : Nat → Nat → Nat) =>
       LaneOperands s ⟨op, sb, d, a, none⟩ od oa ob →
         exec i s = .next (issues s s.me slot (n + 1) [(4 + n, .bytes od.off (planeBytes w
           (build fun k j => if j < m then g k j else 0)), .no, joined (n + 1) m flags)])
     (∀ (t : Bool) (e f : Fmt), oa.cls.fmt = some e → od.cls.fmt = some f →
       let r := fun (k j : Nat) => roundExact f t (exactSum [prod [e.decode (at' x k j)]]) 1
       let same := fun (k j : Nat) => e = f ∧ e.isSnan (at' x k j) = false
       converts (.cvtFf t) (.cvtFf c sb d a t) (fun k j => if same k j then at' x k j else (r k j).bits)
         (fun k j => if same k j then 0 else rowFlags k (r k j).flags)) ∧
     (∀ (t : Bool) (kc : BitVec 5) (e : Fmt) (kd : Kind), oa.cls.fmt = some e →
       (kc.toNat = 31 ∧ kd = .int32 ∨ Kind.ofCode kc.toNat = some kd) →
       ∃ r g : Nat → Nat → Nat, (∀ k j, ∃ v : Int, ToCode t kd k (e.decode (at' x k j)) v (g k j) ∧ r k j = (v % 2 ^ w).toNat) ∧
         converts (.cvtFi t kc.toNat) (.cvtFi c sb d a t kc) r g) ∧
     (∀ f : Fmt, od.cls.fmt = some f →
       let r := fun (k j : Nat) => rsum f [prod [.int (sext 32 (at' x k j))]]
       converts .cvtIf (.cvtIf c sb d a) (fun k j => (r k j).bits) (fun k j => rowFlags k (r k j).flags)) ∧
     (∀ (kc : BitVec 5) (kd : Kind), Kind.ofCode kc.toNat = some kd →
       converts (.cvtCi kc.toNat) (.cvtCi c sb d a kc) (fun k j => (codeOf kd (at' x k j) % 2 ^ 32).toNat) (fun _ _ => 0)))

namespace Sys2Proof.Claims

/-- The terms of a sum over i from `lo` to `hi`. -/
def terms (lo hi : Nat) (t : Nat → Term) : List Term := (List.range (hi + 1 - lo)).map fun i => t (lo + i)

/-- A rounded value divided by another, rounded again (R70's coefficients of a quotient). -/
def quot (f : Fmt) (r : Rnd) (d : Fp) : Rnd := ⟨(fpDiv f (f.decode r.bits) d).bits, r.flags ||| (fpDiv f (f.decode r.bits) d).flags⟩

end Sys2Proof.Claims

/-- R69 to R72, R182, R183, R184, R189 and R55, at every jet order, lane by lane: coefficient k of VADD to VFNMA and VSQRT to VCOS
is formed from the operands' coefficients and from those before it as R70 gives it, one rounding each, with its flags in row k; VMIN
and VMAX take the whole jet that plane 0 chooses (a NaN in a higher plane passes: log 66), VRMAX and VRMIN that of the first lane with the
greatest or least plane 0; the compares, VRSUM and JEXT.F; and their latencies. -/
def Obligations.FloatLanes : Prop :=
  ∀ (c sb : Bool) (d a b : BitVec 8) (od oa ob : Opnd) (f : Fmt) (s : State), oa.cls.fmt = some f →
    let n := s.me.snapOrder
    let l := oa.cls.lanes
    let x := s.me.readPlanes oa
    let y := s.me.readPlanes ob
    let z := s.me.readPlanes od
    let slot := if sb then 3 else 2
    let at' := fun (ps : List (List Nat)) (k j : Nat) => (ps.getD k []).getD j 0
    let A := fun (j k : Nat) => f.decode (at' x k j)
    let B := fun (j k : Nat) => f.decode (at' y k j)
    let D := fun (j k : Nat) => f.decode (at' z k j)
    let lands := fun (op : AbOp) (i : Instr) (second : Option (BitVec 8)) (lat : Nat) (bits : Nat → Nat → Nat) (flags : Nat) =>
      LaneOperands s ⟨op, sb, d, a, second⟩ od oa ob →
        exec i s = .next (issues s s.me slot (n + 1) [(lat, .bytes od.off (planeBytes od.cls.width
          ((List.range (n + 1)).map fun k => (List.range l).map (bits k))), .no, flags)])
    let jets := fun (op : AbOp) (i : Instr) (second : Option (BitVec 8)) (lat : Nat) (r : Nat → Nat → Rnd) =>
      lands op i second lat (fun k j => (r j k).bits) (joined (n + 1) l fun k j => rowFlags k (r j k).flags)
    let two := fun (op : AbOp) (i : Instr) (lat : Nat) (r : Nat → Nat → Rnd) => jets op i (some b) lat r
    -- a jet whose coefficient k above 0 `next` forms from those before it
    let grows := fun (op : AbOp) (i : Instr) (second : Option (BitVec 8)) (lat : Nat) (first : Nat → Rnd)
        (next : Nat → (Nat → Fp) → Nat → Rnd) =>
      ∃ r : Nat → Nat → Rnd, (∀ j, r j 0 = first j ∧ ∀ k, 0 < k → r j k = next j (fun i => f.decode (r j i).bits) k) ∧
        jets op i second lat r
    -- a jet formed with a second one, whose flags count below order n
    let coupled := fun (op : AbOp) (i : Instr) (lat : Nat) (r u : Nat → Nat → Rnd) =>
      lands op i none lat (fun k j => (r j k).bits)
        (joined (n + 1) l fun k j => rowFlags k (r j k).flags ||| if k < n then rowFlags k (u j k).flags else 0)
    let key := fpKey f true
    let picks := fun (op : AbOp) (i : Instr) (second : Nat → Nat → Prop) [∀ u v, Decidable (second u v)] =>
      lands op i (some b) (2 + n)
        (fun k j =>
          let p := at' x 0 j
          let q := at' y 0 j
          if f.isNan p = true ∧ f.isNan q = true then f.nan else if f.isNan p = true then at' y k j
          else if f.isNan q = true then at' x k j else if second p q then at' y k j else at' x k j)
        (joined 1 l fun _ j => if f.isNan (at' x 0 j) = true ∧ f.isNan (at' y 0 j) = true ∧
          (f.isSnan (at' x 0 j) = true ∨ f.isSnan (at' y 0 j) = true) then 16 else 0)
    let compares := fun (op : AbOp) (i : Instr) (p : Nat → Nat → Prop) [∀ u v, Decidable (p u v)] (quiet : Bool) =>
      lands op i (some b) (2 + n)
        (fun k j => if k = 0 ∧ f.isNan (at' x 0 j) = false ∧ f.isNan (at' y 0 j) = false ∧ p (at' x 0 j) (at' y 0 j)
          then 2 ^ od.cls.width - 1 else 0)
        (joined 1 l fun _ j => if f.isSnan (at' x 0 j) = true ∨ f.isSnan (at' y 0 j) = true ∨
          (quiet = true ∧ (f.isNan (at' x 0 j) = true ∨ f.isNan (at' y 0 j) = true)) then 16 else 0)
    let reduces := fun (op : AbOp) (i : Instr) (better : Nat → Nat → Prop) =>
      (∀ m, m < l → f.isNan (at' x 0 m) = false →
        (∀ j, j < l → f.isNan (at' x 0 j) = false → ¬better (at' x 0 j) (at' x 0 m) ∧ (j < m → better (at' x 0 m) (at' x 0 j))) →
        lands op i none (6 + n) (fun k _ => at' x k m) 0) ∧
      ((∀ j, j < l → f.isNan (at' x 0 j) = true) →
        lands op i none (6 + n) (fun _ _ => f.nan) (joined 1 l fun _ j => if f.isSnan (at' x 0 j) = true then 16 else 0))
    two .add (.vadd c sb d a b) (4 + n) (fun j k => rsum f [prod [A j k], prod [B j k]]) ∧
    two .sub (.vsub c sb d a b) (4 + n) (fun j k => rsum f [prod [A j k], prod [(B j k).flip]]) ∧
    two .mul (.vmul c sb d a b) (4 + n) (fun j k => rsum f (terms 0 k fun i => prod [A j i, B j (k - i)])) ∧
    two .fma (.vfma c sb d a b) (4 + n) (fun j k => rsum f (prod [D j k] :: terms 0 k fun i => prod [A j i, B j (k - i)])) ∧
    two .fnma (.vfnma c sb d a b) (4 + n)
      (fun j k => rsum f (prod [D j k] :: terms 0 k fun i => prod [(A j i).flip, B j (k - i)])) ∧
    grows .div (.vdiv c sb d a b) (some b) (14 + 14 * n) (fun j => fpDiv f (A j 0) (B j 0)) (fun j C k =>
      quot f (rsum f (prod [A j k] :: terms 1 k fun i => prod [(B j i).flip, C (k - i)])) (B j 0)) ∧
    grows .rcp (.vrcp c sb d a) none (10 + 14 * n) (fun j => fpDiv f (.int 1) (A j 0)) (fun j C k =>
      quot f (rsum f (terms 1 k fun i => prod [(A j i).flip, C (k - i)])) (A j 0)) ∧
    grows .sqrt (.vsqrt c sb d a) none (14 + 14 * n) (fun j => fpSqrt f (A j 0)) (fun j C k =>
      quot f (rsum f (prod [A j k] :: terms 1 (k - 1) fun i => prod [(C i).flip, C (k - i)])) ((C 0).times 2)) ∧
    grows .rsqrt (.vrsqrt c sb d a) none (10 + 14 * n) (fun j => fpRsqrt f (A j 0)) (fun j C k =>
      quot f (rsum f (terms 1 k fun i => prod [.fin true (2 * k - i) (-1), A j i, C (k - i)])) ((A j 0).times k)) ∧
    grows .exp (.vexp c sb d a) none (18 + 6 * n) (fun j => fpExp f (A j 0)) (fun j C k =>
      rsumDiv f (terms 1 k fun i => prod [.int i, A j i, C (k - i)]) k) ∧
    grows .log (.vlog c sb d a) none (18 + 14 * n) (fun j => fpLog f (A j 0)) (fun j C k =>
      quot f (rsumDiv f (prod [.int k, A j k] :: terms 1 (k - 1) fun i => prod [.int (-(i : Int)), C i, A j (k - i)]) k) (A j 0)) ∧
    (∃ r u : Nat → Nat → Rnd, (∀ j k, let C := fun i => f.decode (r j i).bits
        r j k = (if k = 0 then fpTanh f (A j 0)
          else rsumDiv f (terms 1 k fun i => prod [.int i, A j i, f.decode (u j (k - i)).bits]) k) ∧
        u j k = rsum f ((if k = 0 then [prod [.int 1]] else []) ++ terms 0 k fun i => prod [(C i).flip, C (k - i)])) ∧
      coupled .tanh (.vtanh c sb d a) (18 + 6 * n) r u) ∧
    (∃ r u : Nat → Nat → Rnd, (∀ j k, let C := fun i => f.decode (r j i).bits
        r j k = (if k = 0 then fpSigm f (A j 0)
          else rsumDiv f (terms 1 k fun i => prod [.int i, A j i, f.decode (u j (k - i)).bits]) k) ∧
        u j k = rsum f (prod [C k] :: terms 0 k fun i => prod [(C i).flip, C (k - i)])) ∧
      coupled .sigm (.vsigm c sb d a) (18 + 6 * n) r u) ∧
    (∃ r u : Nat → Nat → Rnd, (∀ j k,
        r j k = (if k = 0 then fpTrig f false (A j 0)
          else rsumDiv f (terms 1 k fun i => prod [.int i, A j i, f.decode (u j (k - i)).bits]) k) ∧
        u j k = (if k = 0 then fpTrig f true (A j 0)
          else rsumDiv f (terms 1 k fun i => prod [.int (-(i : Int)), A j i, f.decode (r j (k - i)).bits]) k)) ∧
      coupled .sin (.vsin c sb d a) (18 + 6 * n) r u ∧ coupled .cos (.vcos c sb d a) (18 + 6 * n) u r) ∧
    picks .min (.vmin c sb d a b) (fun p q => key q < key p) ∧ picks .max (.vmax c sb d a b) (fun p q => key p < key q) ∧
    reduces .rmax (.vrmax c sb d a) (fun p q => key q < key p) ∧ reduces .rmin (.vrmin c sb d a) (fun p q => key p < key q) ∧
    compares .cmpeq (.vcmpeq c sb d a b) (fun p q => fpKey f false p = fpKey f false q) false ∧
    compares .cmplt (.vcmplt c sb d a b) (fun p q => fpKey f false p < fpKey f false q) true ∧
    compares .cmple (.vcmple c sb d a b) (fun p q => fpKey f false p ≤ fpKey f false q) true ∧
    (let r := fun k => rsum f ((List.range l).map fun j => prod [A j k])
     lands .rsum (.vrsum c sb d a) none (6 + n) (fun k _ => (r k).bits) (joined (n + 1) 1 fun k _ => rowFlags k (r k).flags)) ∧
    (∀ m : BitVec 3, let r := fun j => rsum f [prod [.int m.toNat.factorial, A j m.toNat]]
      lands (.jext true m.toNat) (.jext c sb d a true m) none (4 + n) (fun k j => if k = 0 then (r j).bits else 0)
        (joined 1 l fun _ j => (r j).flags))

/-- R54, R51 and R52: a value that a format holds exactly rounds to itself with no flag, toward zero as to nearest even (a
subnormal of BF16 apart, which R52 flushes); and of two finite values that no format change touches, the one rounding of their
exact sum does not depend on their order. -/
def Obligations.RoundingKeepsExactValues : Prop :=
  (∀ (f : Fmt) (tz : Bool) (x : Nat), x < 2 ^ f.width → (f.decode x).isNan = false →
    (f = .bf16 → x % 2 ^ f.frac = 0 ∨ x / 2 ^ f.frac % 2 ^ f.ebits ≠ 0) → fpToFp tz f (f.decode x) = ⟨x, 0⟩) ∧
  (∀ (f : Fmt) (x y : Fp), rsum f [prod [x], prod [y]] = rsum f [prod [y], prod [x]])

namespace Sys2Proof.Claims

/-- The group at hand waits one more clock cycle for a resource (R237), with nothing performed. -/
def stalls (s : State) : State := s.setMe { s.me with stall := s.me.stall + 1 }

/-- A scratch operand that R196 admits: aligned, in plain scratch or in the window of a bank in SCRATCH mode. -/
def operandIn (c : Core) (a n align : Nat) : Prop :=
  a % align = 0 ∧ (a + n ≤ 0x40000 ∨ ∃ b : BitVec 5, (c.bank b).compute = false ∧ 0x40000 + 0x3000 * b.toNat ≤ a ∧
    a + n ≤ 0x40000 + 0x3000 * b.toNat + 0x3000)

/-- A data queue that holds `size` bytes for one pop (R197). -/
def holds (c : Core) (q : BitVec 3) (size : Nat) : Prop :=
  (c.q q).en = true ∧ (c.q q).use = 0 ∧ (c.q q).esz ≤ size ∧ size ≤ (c.q q).occ * (c.q q).esz

/-- The queue without its oldest `size` bytes. -/
def popped (c : Core) (q : BitVec 3) (size : Nat) : Core :=
  let w := c.q q
  let k := size / w.esz
  { c with qcw := c.qcw.set q.toNat (w.put (w.occ - k) w.tail ((w.head + k) % w.depth)) }

/-- The oldest `size` bytes of a queue, element by element around the end of its storage (R42). -/
def front (c : Core) (q : BitVec 3) (size : Nat) : List Byte :=
  let w := c.q q
  (List.range (size / w.esz)).flatMap fun k => memRead c.scratch (w.base + (w.head + k) % w.depth * w.esz) w.esz

end Sys2Proof.Claims

namespace Sys2Proof.Claims

/-- The bits of weight `i` of column `j` of a bank's active half: bit t at row t × K + i (R198). -/
def cell (c : Core) (b : BitVec 5) (j i : Nat) : Nat :=
  let x := c.bank b
  let col := memNat c.scratch (0x40000 + 0x3000 * b.toNat + (if x.active then 0x1800 else 0) + 96 * j) 96
  ((List.range x.ps).map fun t => 2 ^ t * (col / 2 ^ (t * (768 / x.ps) + i) % 2)).sum

/-- What those bits stand for (R48, R198). -/
def weighs (c : Core) (b : BitVec 5) (j i : Nat) : Int :=
  let x := c.bank b
  let v := cell c b j i
  if x.ternary then (if v = 1 then 1 else if v = 3 then -1 else 0) else if x.signed then (BitVec.ofNat x.ps v).toInt else v

/-- QuantCode of R63: a code and its flags. -/
def QuantOf (x s : Fp) (z : Int) (kd : Kind) (row : Nat) (v : Int) (flags : Nat) : Prop :=
  let invalid := v = 0 ∧ flags = rowFlags row 16
  match x, s with
  | .nan _, _ => invalid
  | _, .nan _ => invalid
  | _, .inf _ => invalid
  | .inf neg, .fin sneg a _ =>
    if sneg = true ∨ a = 0 then invalid else v = (if neg then kd.lo else kd.hi) ∧ flags = 2 ^ 40
  | .fin neg m e, .fin sneg a b =>
    if sneg = true ∨ a = 0 then invalid
    else
      let t := fraction neg m (e - b)
      ∃ q, Rounds false (t.1 + z * (t.2 * a : Nat)) (t.2 * a) q ∧ Clamped kd row (q * (t.2 * a : Nat) = t.1 + z * (t.2 * a : Nat)) q v flags

/-- The largest and smallest of a plane's FP32 lanes, or a NaN of it (R213). -/
def Extremes (xs : List Nat) (mx mn : Nat) : Prop :=
  let key := fpKey .fp32 false
  ((∃ u ∈ xs, Fmt.fp32.isNan u = true) → mx ∈ xs ∧ mn = mx ∧ Fmt.fp32.isNan mx = true) ∧
  ((∀ u ∈ xs, Fmt.fp32.isNan u = false) → mx ∈ xs ∧ mn ∈ xs ∧ ∀ u ∈ xs, key mn ≤ key u ∧ key u ≤ key mx)

/-- Whether an FP32 word is a finite value. -/
def finite (u : Nat) : Prop := u / 2 ^ 23 % 2 ^ 8 ≠ 255

/-- The scale of a plane above 0 (R213). -/
def PlaneScale (kd : Kind) (k mx mn scale flags : Nat) : Prop :=
  let big := max (mx % 2 ^ 31) (mn % 2 ^ 31)
  let r := fpDiv .fp32 (Fmt.fp32.decode big) (.int kd.hi)
  (finite mx ∧ finite mn → (big = 0 → scale = 0x3F800000 ∧ flags = 0) ∧ (big ≠ 0 → scale = r.bits ∧ flags = rowFlags k r.flags)) ∧
  (¬(finite mx ∧ finite mn) → scale = 0x3F800000 ∧ flags = rowFlags k 16)

/-- The zero point of an affine channel (R64): -mn / s rounded and clamped; with a scale that rounded to 0 the spec gives no value
(log 9), and with one that overflowed it is 0. -/
def ZeroPoint (kd : Kind) (mn scale : Nat) (z : Int) (sat : Nat) : Prop :=
  match Fmt.fp32.decode mn, Fmt.fp32.decode scale with
  | .fin neg m e, .fin _ a b =>
    if a = 0 then kd.lo ≤ z ∧ z ≤ kd.hi ∧ (sat = 0 ∨ sat = 2 ^ 40)
    else
      let t := fraction (!neg) m (e - b)
      ∃ q, Rounds false t.1 (t.2 * a) q ∧ z = max kd.lo (min kd.hi q) ∧ (z = q → sat = 0) ∧ (z ≠ q → sat = 2 ^ 40)
  | _, _ => z = 0 ∧ sat = 0

/-- QuantParams of R64 for plane 0: the scale, the zero point and the flags. -/
def QuantParamsOf (kd : Kind) (mx mn scale : Nat) (z : Int) (flags : Nat) : Prop :=
  let key := fpKey .fp32 false
  let affine := ∃ m, kd = .uint m
  let sym := fun (u : Nat) => fpDiv .fp32 (Fmt.fp32.decode u) (.int kd.hi)
  (¬(finite mx ∧ finite mn) → scale = 0x3F800000 ∧ z = 0 ∧ flags = 16) ∧
  (finite mx ∧ finite mn →
    (key mx = key mn → z = 0 ∧ (mx % 2 ^ 31 = 0 → scale = 0x3F800000 ∧ flags = 2 ^ 41) ∧
      (mx % 2 ^ 31 ≠ 0 → scale = (sym (mx % 2 ^ 31)).bits ∧ flags = 2 ^ 41 + (sym (mx % 2 ^ 31)).flags)) ∧
    (key mx ≠ key mn → ¬affine → let r := sym (max (mx % 2 ^ 31) (mn % 2 ^ 31))
      z = 0 ∧ scale = r.bits ∧ flags = r.flags) ∧
    (key mx ≠ key mn → affine →
      let r := rsumDiv .fp32 [prod [Fmt.fp32.decode mx], prod [(Fmt.fp32.decode mn).flip]] kd.hi.toNat
      scale = r.bits ∧ ∃ sat, ZeroPoint kd mn scale z sat ∧ flags = r.flags + sat))

end Sys2Proof.Claims

/-- R198 to R203 and R206 to R213, with R60 and R63 to R65: the words of the M slot. CIM.SWAP and CIM.SWAPW exchange the halves of a full
bank, which then is STALE with count 0; on a bank that is not full the first traps and the second waits, and on one in SCRATCH mode
both raise the bank-mode trap. A CIM.PASS lands on each of its names, in each column and plane, the exact sum over its banks of their
weights times the activation codes, with nv where a TERNARY bank holds a cell 0b10. ACC.CLR, ACC.CVT.F32, ACC.CVT.I32, LUT.BUILD,
LUT.ACC, OUTL, RSC, QNT and QPAR land their results, taking from their queue what they read: RSC each column times its scales, rounded
once; QNT each lane's code and QPAR the record of scales and zero point as R63, R64 and R213 give them. A pass traps on the first bank
of its set that is in SCRATCH mode or of another kind (which one the record names is the model's choice, log 75), and on operands
that R199 and R200 refuse; a scratch operand that R196 refuses traps, one across two bank windows as one across two rows (log 8, the
model's choice); a queue that R197 refuses traps, and one that does not hold the whole pop makes the group wait (R196, R197, R202). -/
def Obligations.MatrixWords : Prop :=
  ∀ (c : Bool) (b : BitVec 5) (acc : BitVec 4) (d v : BitVec 7) (q : BitVec 3) (i t : BitVec 4) (o ov : Opnd) (s : State),
    let n := s.me.snapOrder
    let x := s.me.bank b
    let at' := fun (r : BitVec 4) => (s.me.ix r).toNat % 2 ^ 20
    let one := fun (k : Core) (lat occ : Nat) (w : LandVal) (cls : LatClass) (flags : Nat) =>
      Host.Outcome.next (issues s k 4 occ [(lat, w, cls, flags)])
    let planes := fun (l : Nat) (f : Nat → Nat → Nat) => (List.range (n + 1)).map fun k => (List.range l).map (f k)
    let col := fun (k j : Nat) => (BitVec.ofNat (8 * o.cls.wq) ((s.me.readPlane o k).getD j 0)).toInt
    let lane := fun (k j : Nat) => (s.me.readPlane ov k).getD j 0
    let accOk := s.me.accOf acc.toNat = .ok o
    let vecOk := s.me.nameOf d.toNat (· == .vec) = .ok ov
    let int8Ok := s.me.nameOf v.toNat (· == .int8) = .ok ov
    (x.compute = true → x.fill = 2 →
      let next := s.setMe { s.me with
        banks := s.me.banks.set b.toNat { x with active := !x.active, fill := 3, count := 0 }, occ := { s.me.occ with m := 2 } }
      exec (.cimSwap c b) s = .next next ∧ exec (.cimSwapw c b) s = .next next) ∧
    (x.compute = true → x.fill ≠ 2 → exec (.cimSwapw c b) s = .next (stalls s) ∧
      (s.me.run = .running → exec (.cimSwap c b) s = .next (groupTrapped s 7 4 b.toNat x.status))) ∧
    (x.compute = false → s.me.run = .running →
      exec (.cimSwap c b) s = .next (groupTrapped s 6 4 b.toNat x.status) ∧
      exec (.cimSwapw c b) s = .next (groupTrapped s 6 4 b.toNat x.status)) ∧
    (∀ (lc p : BitVec 3) (ovw ns sg : Bool),
      let C := 2 ^ lc.toNat
      let G := if ns then min C 16 else 1
      let D := C / G
      let K := 768 / x.ps
      let E := if ov.cls = .int4 then 512 else 256
      let bits := p.toNat + 1
      let bank := fun (e : Nat) => BitVec.ofNat 5 (b.toNat + e)
      lc.toNat ≤ 5 → b.toNat % C = 0 → (∀ e, e < C → (s.me.bank (bank e)).compute = true ∧ (s.me.bank (bank e)).kind = x.kind ∧
        (s.me.bank (bank e)).ps = x.ps ∧ (x.ternary = true → x.ps = 2)) →
      (ns = false → C ≤ 4) → acc.toNat + G ≤ 16 → s.me.nameOf v.toNat (fun k => k == .int8 || k == .int4) = .ok ov → accOk →
      (ov.cls = .int4 → bits ≤ 4) → oneView s.me.snapViews 2 v.toNat ((D * K + E - 1) / E) = true →
      oneView s.me.snapViews 3 acc.toNat G = true →
      let code := fun (k e : Nat) =>
        let u := (elemsOf ov.cls.width (memRead s.me.regs (ov.off + e / E * ov.size + k * 256) 256)).getD (e % E) 0 % 2 ^ bits
        if sg then (BitVec.ofNat bits u).toInt else (u : Int)
      let bad := (List.range C).any fun e => (s.me.bank (bank e)).ternary && (List.range 64).any fun j =>
        (List.range 384).any fun r => cell s.me (bank e) j r == 2
      exec (.cimPass c b lc v p acc ovw ns sg) s = .next (issuesFrom s s.me 4 ((n + 1) * bits) (some (b.toNat, C))
        ((List.range G).map fun g => ((n + 1) * bits + 6,
          .sums (BitVec.ofNat 4 (acc.toNat + g)) (o.off + g * o.size) o.cls.wq ovw
            ((List.range (n + 1)).flatMap fun k => (List.range 64).map fun j =>
              ((List.range D).map fun e => ((List.range K).map fun r =>
                weighs s.me (bank (e * G + g)) j r * code k (e * K + r)).sum).sum),
          if G = 1 ∧ o.cls.wq = 4 then .int32 else .no, if g = 0 ∧ bad = true then 16 else 0)))) ∧
    (∀ (lc p : BitVec 3) (ovw ns sg : Bool), s.me.run = .running →
      let pass := Instr.cimPass c b lc v p acc ovw ns sg
      let bank := fun (e : Nat) => BitVec.ofNat 5 (b.toNat + e)
      let fits := fun (e : Nat) => (s.me.bank (bank e)).compute = true ∧ (s.me.bank (bank e)).kind = x.kind
      (∀ e, e < 2 ^ lc.toNat → (∀ f, f < e → fits f) → ¬fits e →
        exec pass s = .next (groupTrapped s 6 6 (bank e).toNat (s.me.bank (bank e)).status)) ∧
      (let C := 2 ^ lc.toNat
       let G := if ns then min C 16 else 1
       let E := if ov.cls = .int4 then 512 else 256
       let claimed := oneView s.me.snapViews 2 v.toNat ((C / G * (768 / x.ps) + E - 1) / E) = true ∧
         oneView s.me.snapViews 3 acc.toNat (min G (16 - acc.toNat)) = true
       (∀ e, e < C → fits e) → s.me.nameOf v.toNat (fun k => k == .int8 || k == .int4) = .ok ov → accOk →
         (¬claimed → exec pass s = .next (groupTrapped s 2 6 3 s.me.groupAddr.toNat)) ∧
         (claimed → (ns = false ∧ 4 < C) ∨ 16 < acc.toNat + G ∨ (ov.cls = .int4 ∧ 4 < p.toNat + 1) →
           exec pass s = .next (groupTrapped s 2 6 11 s.me.groupAddr.toNat)))) ∧
    (s.me.run = .running →
      let traps := fun (w : Instr) (cause d0 d1 : Nat) => exec w s = .next (groupTrapped s cause 4 d0 d1)
      let operand := fun (w : Instr) (a size : Nat) =>
        (a % 16 ≠ 0 → traps w 5 a size) ∧
        (a % 16 = 0 → (a < 0x40000 ∧ 0x40000 < a + size) ∨ 0xA0000 ≤ a ∨
            (∃ m : BitVec 5, 0x40000 + 0x3000 * m.toNat ≤ a ∧ a < 0x43000 + 0x3000 * m.toNat ∧ 0x43000 + 0x3000 * m.toNat < a + size) →
          traps w 4 a size) ∧
        (∀ m : BitVec 5, a % 16 = 0 → 0x40000 + 0x3000 * m.toNat ≤ a → a + size ≤ 0x43000 + 0x3000 * m.toNat →
          (s.me.bank m).compute = true → traps w 6 m.toNat (s.me.bank m).status)
      (int8Ok → operand (.lutBuild c v i) (at' i) 16) ∧
      (vecOk → accOk → operand (.rsc c d acc t q) (at' t) 260) ∧
      (s.me.nameOf v.toNat (· == .vec) = .ok ov → s.me.nameOf d.toNat (fun k => k == .int8 || k == .int4) = .ok o →
        operand (.qnt c d v i) (at' i) 48) ∧
      (∀ kc : BitVec 5, s.me.nameOf v.toNat (· == .vec) = .ok ov → operand (.qpar c v i kc) (at' i) 48) ∧
      (let queue := fun (w : Instr) (size : Nat) =>
         let k := s.me.q q
         (k.en = false ∨ k.use ≠ 0 ∨ size < k.esz → traps w 9 q.toNat 0) ∧
         (k.en = true → k.use = 0 → k.esz ≤ size → k.occ * k.esz < size → exec w s = .next (stalls s))
       (accOk → queue (.lutAcc c acc q t) 128) ∧ (accOk → int8Ok → queue (.outl c acc v q) 16) ∧
       (vecOk → accOk → operandIn s.me (at' t) 260 16 → (s.me.ix t).toNat / 2 ^ 20 % 2 = 0 → queue (.rsc c d acc t q) 64))) ∧
    (accOk → exec (.accClr c acc) s =
      one s.me 1 1 (.sums acc o.off o.cls.wq true (List.replicate (64 * o.planes) 0)) (if o.cls.wq = 4 then .int32 else .no) 0) ∧
    (vecOk → accOk →
      let r := fun (k j : Nat) => rsum .fp32 [prod [.int (col k j)]]
      let m := fun (k j : Nat) => max (-(2 ^ 31)) (min (2 ^ 31 - 1) (col k j))
      exec (.accCvtF32 c d acc) s = one s.me (4 + n) (n + 1) (.bytes ov.off (planeBytes 32 (planes 64 fun k j => (r k j).bits))) .fp32
        (joined (n + 1) 64 fun k j => rowFlags k (r k j).flags) ∧
      exec (.accCvtI32 c d acc) s = one s.me (4 + n) (n + 1)
        (.bytes ov.off (planeBytes 32 (planes 64 fun k j => (m k j % 2 ^ 32).toNat))) .int32
        (joined (n + 1) 64 fun k j => if m k j = col k j then 0 else 2 ^ 40)) ∧
    (int8Ok → operandIn s.me (at' i) 16 16 →
      exec (.lutBuild c v i) s = one s.me 6 4 (.bytes 0x7800
        ((((s.me.readPlane ov 0).drop (64 * ((s.me.ix i).toNat / 2 ^ 20 % 4))).take 64).flatMap fun u =>
          (memRead s.me.scratch (at' i) 16).flatMap fun w => toBytes 2 (wrapInt 16 (sext 8 w.toNat * sext 8 u)))) .no 0) ∧
    (accOk → holds s.me q 128 →
      let nib := elemsOf 4 (front s.me q 128)
      exec (.lutAcc c acc q t) s = one (popped s.me q 128) 3 1 (.sums acc o.off o.cls.wq false
        ((List.range 64).map fun j => ((List.range 4).map fun m => sext 16 (memNat s.me.regs
          (0x7800 + 32 * (4 * ((s.me.ix t).toNat % 16) + m) + 2 * nib.getD (4 * j + m) 0) 2)).sum))
        (if o.cls.wq = 4 then .int32 else .no) 0) ∧
    (accOk → int8Ok → holds s.me q 16 →
      exec (.outl c acc v q) s = one (popped s.me q 16) 3 1 (.sums acc o.off o.cls.wq false
        ((List.range 64).map fun j => ((elemsOf 32 (front s.me q 16)).map fun w =>
          if w / 2 ^ 24 % 2 ^ 6 = j then sext 16 (w % 2 ^ 16) * sext 8 ((s.me.readPlane ov 0).getD (w / 2 ^ 16 % 2 ^ 8) 0)
          else 0).sum))
        (if o.cls.wq = 4 then .int32 else .no) 0) ∧
    (vecOk → accOk → operandIn s.me (at' t) 260 16 →
      let f := Fmt.fp32.decode
      let scaled := fun (e : Nat → Nat) (k j : Nat) => if e j = 255 then (⟨0x7FC00000, 16⟩ : Rnd) else
        rsum .fp32 [prod [f (memNat s.me.scratch (at' t + 4 * j) 4), f (memNat s.me.scratch (at' t + 256) 4),
          .fin false 1 ((e j : Int) - 127), .int (col k j)]]
      let done := fun (k : Core) (e : Nat → Nat) =>
        one k (5 + n) (n + 1) (.bytes ov.off (planeBytes 32 (planes 64 fun p j => (scaled e p j).bits))) .fp32
          (joined (n + 1) 64 fun p j => rowFlags p (scaled e p j).flags)
      ((s.me.ix t).toNat / 2 ^ 20 % 2 = 1 → exec (.rsc c d acc t q) s = done s.me fun _ => 127) ∧
      ((s.me.ix t).toNat / 2 ^ 20 % 2 = 0 → holds s.me q 64 →
        exec (.rsc c d acc t q) s = done (popped s.me q 64) fun k => ((front s.me q 64).getD k 0).toNat)) ∧
    (s.me.nameOf v.toNat (· == .vec) = .ok ov → s.me.nameOf d.toNat (fun k => k == .int8 || k == .int4) = .ok o →
      operandIn s.me (at' i) 48 16 →
      let w := o.cls.width
      let quarter := (s.me.ix i).toNat / 2 ^ 20 % 8 % (32 / w)
      let legal := fun (kd : Kind) => Kind.ofCode (memNat s.me.scratch (at' i + 34) 1 % 32) = some kd ∧
        (w = 4 → ∃ m, m ≤ 4 ∧ (kd = .sint m ∨ kd = .uint m))
      let lands := fun (code : Nat → Nat → Nat) (flags : Nat) => exec (.qnt c d v i) s = .next (issues s s.me 4 (n + 1)
        ((List.range (n + 1)).map fun k => (4 + n, .bytes (o.off + 256 * k + 8 * w * quarter)
          (bytesOf w ((List.range 64).map (code k))), .no, if k = 0 then flags else 0)))
      (∀ kd, legal kd → ∃ (r : Nat → Nat → Int) (g : Nat → Nat → Nat),
        (∀ k j, QuantOf (Fmt.fp32.decode (lane k j)) (Fmt.fp32.decode (memNat s.me.scratch (at' i + 4 * k) 4))
          (if k = 0 then (BitVec.ofNat 16 (memNat s.me.scratch (at' i + 32) 2)).toInt else 0) kd k (r k j) (g k j)) ∧
        lands (fun k j => (r k j % 2 ^ w).toNat) (joined (n + 1) 64 g)) ∧
      ((∀ kd, ¬legal kd) → lands (fun _ _ => 0) 16)) ∧
    (∀ (kc : BitVec 5) (kd : Kind), kc ≠ 0 → Kind.ofCode kc.toNat = some kd → s.me.nameOf v.toNat (· == .vec) = .ok ov →
      operandIn s.me (at' i) 48 16 →
      ∃ (mx mn scale g : Nat → Nat) (z : Int), (∀ k, k ≤ n → Extremes (s.me.readPlane ov k) (mx k) (mn k)) ∧
        QuantParamsOf kd (mx 0) (mn 0) (scale 0) z (g 0) ∧
        (∀ k, 0 < k → k ≤ n → PlaneScale kd k (mx k) (mn k) (scale k) (g k)) ∧
        exec (.qpar c v i kc) s = one s.me (8 + n) (n + 1) (.scratch (at' i)
          (((List.range 8).flatMap fun k => toBytes 4 (if k ≤ n then scale k else 0x3F800000)) ++ toBytes 2 (z % 2 ^ 16).toNat ++
            [BitVec.ofNat 8 kc.toNat] ++ List.replicate 13 0)) .no (joined (n + 1) 1 fun k _ => g k))

/-- R216 to R218, R239 and R229: the words of the I slot on index registers complete with their results, a shift by y mod 32, an
immediate sign-extended; IPOPC counts 1 bits; ICMPADV advances the halves of its pair register; IGET reads a loop index or
loop.ofs; AQPUSH appends its index to the address queue, drops null, waits on a full queue, and traps on a queue word that
AQ.REMAP has not set. -/
def Obligations.IndexWords : Prop :=
  ∀ (c : Bool) (d a b : BitVec 4) (m : BitVec 13) (e : BitVec 21) (q : BitVec 3) (s : State),
    let x := (s.me.ix a).toNat
    let y := (s.me.ix b).toNat
    let z := (s.me.ix d).toNat
    let w := (m.toInt % 2 ^ 32).toNat
    let lands := fun (i : Instr) (lat v : Nat) =>
      exec i s = .next (issues s s.me 1 1 [(lat, .index d (BitVec.ofNat 32 v), .no, 0)])
    lands (.iadd c d a b) 1 (x + y) ∧ lands (.isub c d a b) 1 (x + 2 ^ 32 - y) ∧
    lands (.ishl c d a b) 1 (x * 2 ^ (y % 32)) ∧ lands (.ishr c d a b) 1 (x / 2 ^ (y % 32)) ∧
    lands (.iand c d a b) 1 (Nat.land x y) ∧ lands (.ior c d a b) 1 (Nat.lor x y) ∧ lands (.imul c d a b) 2 (x * y) ∧
    lands (.iaddi c d a m) 1 (x + w) ∧ lands (.isubi c d a m) 1 (x + 2 ^ 32 - w) ∧
    lands (.ishli c d a m) 1 (x * 2 ^ (w % 32)) ∧ lands (.ishri c d a m) 1 (x / 2 ^ (w % 32)) ∧
    lands (.iandi c d a m) 1 (Nat.land x w) ∧ lands (.iori c d a m) 1 (Nat.lor x w) ∧ lands (.imuli c d a m) 2 (x * w) ∧
    lands (.ipopc c d a) 1 (((List.range 32).map fun k => x / 2 ^ k % 2).sum) ∧
    lands (.ili c d e) 1 (e.toInt % 2 ^ 32).toNat ∧
    (let null := 2 ^ 32 - 1
     let both := x = null ∧ y = null
     lands (.icmpadv c d a b) 1
       ((if ¬both ∧ x ≤ y then (z % 2 ^ 15 + 1) % 2 ^ 15 else z % 2 ^ 15) +
        (if ¬both ∧ y ≤ x then (z / 2 ^ 15 % 2 ^ 15 + 1) % 2 ^ 15 else z / 2 ^ 15 % 2 ^ 15) * 2 ^ 15 +
        (if ¬both ∧ x = y then 2 ^ 31 else 0))) ∧
    (∀ r, s.me.loopRun = some r → (q.toNat ≤ 5 → lands (.iget c d q) 1 ((loopIdx r.c.counts r.iter).getD q.toNat 0)) ∧
      (q.toNat = 6 → lands (.iget c d q) 1 (loopOfs r.c r.iter).toNat)) ∧
    (let k := s.me.q q
     let legal := k.en = true ∧ k.use = 0 ∧ (s.me.remap[q.toNat]).isSome = true
     (legal → x ≠ 2 ^ 32 - 1 → s.me.aq.length < 64 → ∀ r, s.me.loopRun = some r →
       exec (.aqpush c a q) s =
         .next (issues s { s.me with
           aq := s.me.aq ++ [⟨s.me.ix a, q, r.recordAddr s.me.groupAddr, r.c.pkey, r.c.stamp, false⟩] } 1 1 [])) ∧
     (legal → x = 2 ^ 32 - 1 → exec (.aqpush c a q) s = .next (issues s s.me 1 1 [])) ∧
     (legal → x ≠ 2 ^ 32 - 1 → 64 ≤ s.me.aq.length → exec (.aqpush c a q) s = .next (stalls s)) ∧
     (s.me.run = .running → ¬legal → exec (.aqpush c a q) s = .next (groupTrapped s 9 1 q.toNat 0)))

namespace Sys2Proof.Claims

/-- A stream word's landings on a core that has taken what it pops: streams, then index registers (R222 to R228). -/
def walksFrom (s : State) (k : Core) (lat : Nat) (zs : List (BitVec 3 × Stream)) (is : List (BitVec 4 × BitVec 32)) : State :=
  let c := zs.foldl (fun (c : Core) p => { c with streams := c.streams.set p.1.toNat { c.stream p.1 with w := false } }) k
  issues s c 1 1 ((zs.map fun p => (lat, LandVal.stream p.1 { p.2 with w := false }, LatClass.no, 0)) ++
    is.map fun p => (lat, LandVal.index p.1 p.2, LatClass.no, 0))

def walks (s : State) := walksFrom s s.me

/-- A dense stream (R220): open, of kind 0, its end and size below null, its positions from its origin; unless it is done, at a position before its
end, its coordinate the position's distance from the origin. -/
structure DenseStream (x : Stream) : Prop where
  opened : x.isOpen = true
  kind : x.kind = 0
  src : x.src = false
  span : x.endPos.toNat = x.org.toNat + x.size.toNat
  inside : x.done = false → x.org.toNat ≤ x.pos.toNat ∧ x.pos.toNat < x.endPos.toNat ∧ x.crd = x.pos - x.org
  ended : x.done = true → x.pos = x.endPos ∧ x.crd = BitVec.allOnes 32

/-- The set bits of the bitmap of a fibre of size `n` at `a`, ascending (R220). -/
def fibreBits (c : Core) (a n : Nat) : List Nat :=
  (List.range (64 * ((n + 63) / 64))).filter fun b => memNat c.scratch (a + 8 * (b / 64)) 8 / 2 ^ (b % 64) % 2 == 1

/-- The bitmap of a fibre lies in plain scratch. -/
def bitmapIn (a n : Nat) : Prop := a % 8 = 0 ∧ a + 8 * ((n + 63) / 64) ≤ 0x40000

/-- The coordinate at position `q` of a stream's fibre (R220): of a queue-fed level the queue's oldest element. -/
def CoordAt (c : Core) (x : Stream) (q v : Nat) : Prop :=
  if x.kind = 0 then v = q - x.org.toNat
  else if x.kind = 2 then
    bitmapIn x.abase.toNat x.size.toNat ∧ (∀ b ∈ fibreBits c x.abase.toNat x.size.toNat, b < x.size.toNat) ∧
    (fibreBits c x.abase.toNat x.size.toNat)[q - x.org.toNat]? = some v
  else if x.src then
    let k := c.q x.qw
    k.esz = 4 ∧ 0 < k.occ ∧ v = memNat c.scratch (k.base + k.head * 4) 4
  else x.abase.toNat % 4 = 0 ∧ x.abase.toNat + 4 * q + 4 ≤ 0x40000 ∧ v = memNat c.scratch (x.abase.toNat + 4 * q) 4

/-- The core once a coordinate is taken: a queue-fed level pops it (R228). -/
def took (c : Core) (x : Stream) : Core := if x.src = true ∧ x.kind ≠ 0 ∧ x.kind ≠ 2 then popped c x.qw 4 else c

/-- One step of a stream (R225): the stream a position on, and the core with what the step pops. -/
def Steps (c : Core) (x x' : Stream) (c' : Core) : Prop :=
  x.isOpen = true ∧ x.done = false ∧ x.pos.toNat + 1 < 2 ^ 32 ∧
  ((x.pos.toNat + 1 = x.endPos.toNat ∧ x' = { x with pos := x.endPos, done := true, crd := BitVec.allOnes 32 } ∧ c' = c) ∨
   (x.pos.toNat + 1 ≠ x.endPos.toNat ∧ ∃ v, CoordAt c x (x.pos.toNat + 1) v ∧ (1 ≤ x.kind.toNat → x.kind ≠ 2 → v < x.size.toNat) ∧
     (x.kind = 1 → x.crd.toNat < v) ∧ x' = { x with pos := x.pos + 1, crd := BitVec.ofNat 32 v } ∧ c' = took c x))

/-- A level of a tensor descriptor at `d` that R219 admits: its kind, its refill queue, its size, its position and coordinate arrays. -/
structure LevelAt (c : Core) (d l kind : Nat) (q : Option (BitVec 3)) (n pb ab : Nat) : Prop where
  header : 0 < memNat c.scratch d 16 ∧ memNat c.scratch d 16 ≤ 8 ∧ l < memNat c.scratch d 16
  record : memNat c.scratch (d + 16 + 32 * l) 32 =
    n + kind * 2 ^ 62 + (q.elim 0 fun q => 2 ^ 61 + q.toNat * 2 ^ 58) + pb * 2 ^ 64 + ab * 2 ^ 128
  fields : kind < 4 ∧ 0 < n ∧ n < 2 ^ 32 ∧ pb < 2 ^ 20 ∧ ab < 2 ^ 20 ∧ (q.isSome = true → kind = 1)
  arrays : (if kind = 1 ∨ kind = 2 then pb % 4 = 0 else pb = 0) ∧
    (if kind = 2 then ab % 8 = 0 else if kind = 3 ∨ (kind = 1 ∧ q = none) then ab % 4 = 0 else ab = 0)

/-- The header and the record of a level lie in plain scratch, aligned. -/
def levelIn (d l : Nat) : Prop := d % 16 = 0 ∧ d + 16 + 32 * l + 32 ≤ 0x40000

/-- An opening of level `l` of the descriptor at `d` under parent position `p` (R220, R224): the stream it gives, and the core with the
coordinate it pops. -/
def Opens (c : Core) (z : BitVec 3) (d l p : Nat) (x : Stream) (c' : Core) : Prop :=
  levelIn d l ∧ ∃ kind q n pb ab, LevelAt c d l kind q n pb ab ∧
    let lo := if kind = 0 then p * n else if kind = 3 then p else memNat c.scratch (pb + 4 * p) 4
    let hi := if kind = 0 then p * n + n else if kind = 3 then p + 1 else memNat c.scratch (pb + 4 * (p + 1)) 4
    let base := if kind = 2 then ab + 8 * (p * ((n + 63) / 64)) else ab
    ((kind = 1 ∨ kind = 2) → pb + 4 * (p + 2) ≤ 0x40000) ∧ lo ≤ hi ∧ hi < 2 ^ 32 - 1 ∧
    (∀ k, q = some k → (c.q k).en = true ∧ (c.q k).use = 2 ∧ (c.q k).esz = 4 ∧
      ∀ y, y ≠ z → ¬((c.stream y).isOpen = true ∧ (c.stream y).src = true ∧ (c.stream y).qw = k)) ∧
    (kind = 2 → bitmapIn base n ∧ (fibreBits c base n).length = hi - lo ∧ ∀ b ∈ fibreBits c base n, b < n) ∧
    let at' := fun (crd : BitVec 32) => Stream.mk true (lo == hi) false false (BitVec.ofNat 2 kind) (BitVec.ofNat 3 l) q.isSome (q.getD 0)
      (BitVec.ofNat 20 d) (BitVec.ofNat 20 base) crd (BitVec.ofNat 32 lo) (BitVec.ofNat 32 hi) (BitVec.ofNat 32 n)
      (BitVec.allOnes 32) (BitVec.allOnes 32) (BitVec.ofNat 32 lo)
    (lo = hi → x = at' (BitVec.allOnes 32) ∧ c' = c) ∧
    (lo < hi → ∃ v, v < n ∧ CoordAt c (at' 0) lo v ∧ x = at' (BitVec.ofNat 32 v) ∧ c' = took c (at' 0))

end Sys2Proof.Claims

/-- R219 to R228 on fibres of every kind. ZINIT opens a level under position 0 and ZDOWN the next level under its parent's position, at
the fibre's first coordinate; ZNEXT steps, and does nothing at the end; ZSKIP goes to the first coordinate not below its bound;
ZISECT and ZUNION step one or both of two streams and give the positions matched; ZCRD and ZPOS read a stream. A step of a
queue-fed stream pops its coordinate, and waits with w set while the queue has none. A word on a closed stream raises the
stream-state trap; a step to a coordinate that is too great or does not ascend, to a bitmap with a bit past its size, and an opening of a
level whose positions or whose descriptor R219 to R221 refuse raise the malformed-coordinate trap with the cause and position. -/
def Obligations.StreamWords : Prop :=
  ∀ (c : Bool) (i : BitVec 4) (z y : BitVec 3) (l : BitVec 3) (m2 : BitVec 2) (s : State),
    let x := s.me.stream z
    let w := s.me.stream y
    let null : BitVec 32 := BitVec.allOnes 32
    let odd : BitVec 4 := i ||| 1
    let d := (s.me.ix i).toNat % 2 ^ 20
    let malformed := fun (i : Instr) (lvl cause pos : Nat) => s.me.run = .running →
      exec i s = .next (groupTrapped s 18 1 (z.toNat + lvl * 2 ^ 8 + cause * 2 ^ 16) pos)
    let settled := x.isOpen = true → x.src = true → x.done = true
    (settled →
      (∀ x' k, Opens s.me z d l.toNat 0 x' k → exec (.zinit c i z l) s = .next (walksFrom s k 3 [(z, x')] [])) ∧
      (∀ x' k, w.isOpen = true → w.done = false → w.lvl.toNat + 1 < memNat s.me.scratch w.desc.toNat 16 →
        Opens s.me z w.desc.toNat (w.lvl.toNat + 1) w.pos.toNat x' k →
        exec (.zdown c z y) s = .next (walksFrom s k 3 [(z, x')] [])) ∧
      (levelIn d l.toNat → (∀ kind q n pb ab, ¬LevelAt s.me d l.toNat kind q n pb ab) → malformed (.zinit c i z l) l.toNat 5 0) ∧
      (∀ kind n pb ab, levelIn d l.toNat → LevelAt s.me d l.toNat kind none n pb ab → kind = 1 ∨ kind = 2 → pb + 8 ≤ 0x40000 →
        let lo := memNat s.me.scratch pb 4
        let hi := memNat s.me.scratch (pb + 4) 4
        (hi < lo → malformed (.zinit c i z l) l.toNat 2 0) ∧
        (lo ≤ hi → kind = 2 → bitmapIn ab n → ((fibreBits s.me ab n).filter (· < n)).length ≠ hi - lo →
          malformed (.zinit c i z l) l.toNat 2 0) ∧
        (lo ≤ hi → kind = 1 → hi = 2 ^ 32 - 1 → malformed (.zinit c i z l) l.toNat 4 0))) ∧
    (x.isOpen = true →
      (∀ x' k, Steps s.me x x' k → exec (.znext c z) s = .next (walksFrom s k 1 [(z, x')] [])) ∧
      (x.done = true → exec (.znext c z) s = .next (walks s 1 [] [])) ∧
      (x.done = false → x.pos.toNat + 1 < x.endPos.toNat →
        let next := x.pos.toNat + 1
        (x.kind = 1 → x.src = true → (s.me.q x.qw).occ = 0 →
          exec (.znext c z) s = .next (s.setMe { s.me with streams := s.me.streams.set z.toNat { x with w := true }, stall := s.me.stall + 1 })) ∧
        (x.kind = 1 ∨ (x.kind = 3 ∧ x.src = false) → ∀ v, CoordAt s.me x next v →
          (x.size.toNat ≤ v → malformed (.znext c z) x.lvl.toNat 1 next) ∧
          (x.kind = 1 → v < x.size.toNat → v ≤ x.crd.toNat → malformed (.znext c z) x.lvl.toNat 0 next)) ∧
        (x.kind = 2 → x.src = false → bitmapIn x.abase.toNat x.size.toNat →
          (∃ b ∈ fibreBits s.me x.abase.toNat x.size.toNat, x.size.toNat ≤ b) → malformed (.znext c z) x.lvl.toNat 3 next))) ∧
    (x.isOpen = true → x.done = true ∨ (s.me.ix i).toNat ≤ x.crd.toNat → exec (.zskip c i z) s = .next (walks s 3 [] [])) ∧
    (DenseStream x → x.done = false → x.crd.toNat < (s.me.ix i).toNat →
      ((s.me.ix i).toNat < x.size.toNat →
        exec (.zskip c i z) s = .next (walks s 3 [(z, { x with pos := x.org + s.me.ix i, crd := s.me.ix i })] [])) ∧
      (x.size.toNat ≤ (s.me.ix i).toNat →
        exec (.zskip c i z) s = .next (walks s 3 [(z, { x with pos := x.endPos, done := true, crd := null })] []))) ∧
    (x.isOpen = true → x.done = false → x.kind = 1 → x.src = false → x.crd.toNat < (s.me.ix i).toNat → ∀ C : Nat → Nat,
      C x.pos.toNat = x.crd.toNat →
      (∀ q, x.pos.toNat < q → q < x.endPos.toNat → CoordAt s.me x q (C q) ∧ C q < x.size.toNat ∧ C (q - 1) < C q) →
      (∀ q, x.pos.toNat < q → q < x.endPos.toNat → C (q - 1) < (s.me.ix i).toNat → (s.me.ix i).toNat ≤ C q →
        exec (.zskip c i z) s = .next (walks s 3 [(z, { x with pos := BitVec.ofNat 32 q, crd := BitVec.ofNat 32 (C q) })] [])) ∧
      (x.pos.toNat < x.endPos.toNat → C (x.endPos.toNat - 1) < (s.me.ix i).toNat →
        exec (.zskip c i z) s = .next (walks s 3 [(z, { x with pos := x.endPos, done := true, crd := null })] []))) ∧
    (i.toNat % 2 = 0 → z ≠ y → x.isOpen = true → w.isOpen = true → (x.done = true → x.crd = null) → (w.done = true → w.crd = null) →
      let off := fun (v : Stream) => { v with m := false, mpos := null, mcrd := null }
      let on := fun (v : Stream) (k : BitVec 32) => { v with m := true, mpos := v.pos, mcrd := k }
      let miss := fun (v : Stream) (k : BitVec 32) => { v with m := false, mpos := null, mcrd := k }
      (x.done = true ∨ w.done = true → exec (.zisect c i z y) s = .next (walks s 1 [] [(i, null), (odd, null)])) ∧
      (∀ x' w' k k', x.crd = w.crd → Steps s.me (on x x.crd) x' k → Steps k (on w x.crd) w' k' →
        exec (.zisect c i z y) s = .next (walksFrom s k' 1 [(z, x'), (y, w')] [(i, x.pos), (odd, w.pos)])) ∧
      (∀ x' k, w.done = false → x.crd.toNat < w.crd.toNat → Steps s.me (off x) x' k →
        exec (.zisect c i z y) s = .next (walksFrom s k 1 [(z, x'), (y, off w)] [(i, null), (odd, null)])) ∧
      (∀ w' k, x.done = false → w.crd.toNat < x.crd.toNat → Steps s.me (off w) w' k →
        exec (.zisect c i z y) s = .next (walksFrom s k 1 [(z, off x), (y, w')] [(i, null), (odd, null)])) ∧
      (x.done = true → w.done = true → exec (.zunion c i z y) s = .next (walks s 1 [] [(i, null), (odd, null)])) ∧
      (∀ x' w' k k', x.crd = w.crd → x.crd ≠ null → Steps s.me (on x x.crd) x' k → Steps k (on w x.crd) w' k' →
        exec (.zunion c i z y) s = .next (walksFrom s k' 1 [(z, x'), (y, w')] [(i, x.pos), (odd, w.pos)])) ∧
      (∀ x' k, x.crd.toNat < w.crd.toNat → Steps s.me (on x x.crd) x' k →
        exec (.zunion c i z y) s = .next (walksFrom s k 1 [(z, x'), (y, miss w x.crd)] [(i, x.pos), (odd, null)])) ∧
      (∀ w' k, w.crd.toNat < x.crd.toNat → Steps s.me (on w w.crd) w' k →
        exec (.zunion c i z y) s = .next (walksFrom s k 1 [(z, miss x w.crd), (y, w')] [(i, null), (odd, w.pos)]))) ∧
    (x.isOpen = true →
      exec (.zcrd c i z false) s = .next (walks s 1 [] [(i, x.crd)]) ∧ exec (.zcrd c i z true) s = .next (walks s 1 [] [(i, x.mcrd)]) ∧
      exec (.zpos c i z m2) s =
        .next (walks s 1 [] [(i, if m2 = 0 then x.pos else if m2 = 1 then x.mpos else if m2 = 2 then x.endPos else x.org)])) ∧
    (s.me.run = .running → x.isOpen = false →
      let stops := fun (i : Instr) => exec i s = .next (groupTrapped s 17 1 z.toNat 0)
      stops (.znext c z) ∧ stops (.zskip c i z) ∧ stops (.zcrd c i z false) ∧ stops (.zpos c i z m2) ∧ stops (.zdown c y z) ∧
      (i.toNat % 2 = 0 → stops (.zisect c i z y) ∧ stops (.zunion c i z y)))

/-- R232 to R236 and R115: the words of the X slot. XLD lands a name's bytes from scratch and XST stores them; DQPOP takes them
from a data queue and DQPEEK leaves them there; PPOP takes the oldest parameter; XMV copies a name of the same size; FSET and
FCLR set and clear a flag, FSET being a release; FTST and FRD read a flag and a half of fp.flags; NOP does nothing. A missing
element or parameter waits. An operand of XLD or XST that lies outside scratch, or in more than one row of it, in an unmapped
address or in the control page traps, as does one that is not aligned, and one in the window of a bank in COMPUTE mode. That an
extent across two bank windows counts as one across two rows, and so raises the scratch-range trap, is the model's choice (log 8,
DEDUCED: R75 prints the windows as one row). -/
def Obligations.MoveWords : Prop :=
  ∀ (c h : Bool) (nm m : BitVec 8) (a d f : BitVec 4) (q : BitVec 3) (k : BitVec 13) (o r : Opnd) (x : Nat) (s : State),
    let rows := (o.size + 255) / 256
    let bit : BitVec 16 := 1 <<< f.toNat
    let index := fun (i : Instr) (core : Core) (v : Nat) =>
      exec i s = .next (issues s core 5 1 [(1, .index d (BitVec.ofNat 32 v), .no, 0)])
    exec .nop s = .next s ∧
    (codeName s.me.snapViews s.me.snapOrder nm = some o →
      (((s.me.ix a).toNat : Int) + 16 * k.toInt = x → operandIn s.me x o.size 16 →
        exec (.xld c nm a k) s = .next (issues s s.me 5 rows [(2 + rows, .bytes o.off (memRead s.me.scratch x o.size), .no, 0)]) ∧
        ∃ t, exec (.xst c nm a k) s = .next t ∧ { t with cores := s.cores, seq := s.seq } = s ∧
          (∀ j, j ≠ s.cur → t.core j = s.core j) ∧
          (unawaited s s.cur x o.size → memRead t.me.scratch x o.size = memRead s.me.regs o.off o.size) ∧
          (∀ y, y < x ∨ x + o.size ≤ y → unawaited s s.cur x o.size → memGet t.me.scratch y = memGet s.me.scratch y) ∧
          { t.me with scratch := s.me.scratch, dirty := s.me.dirty } = { s.me with occ := { s.me.occ with x := rows } }) ∧
      (s.me.run = .running →
        let address := ((s.me.ix a).toNat : Int) + 16 * k.toInt
        let traps := fun (cause d0 d1 : Nat) =>
          exec (.xld c nm a k) s = .next (groupTrapped s cause 5 d0 d1) ∧ exec (.xst c nm a k) s = .next (groupTrapped s cause 5 d0 d1)
        (address < 0 ∨ 2 ^ 20 ≤ address → traps 4 (address % 2 ^ 64).toNat o.size) ∧
        (address = x → x < 2 ^ 20 → x % 16 ≠ 0 → traps 5 x o.size) ∧
        (address = x → x < 2 ^ 20 → x % 16 = 0 → (x < 0x40000 ∧ 0x40000 < x + o.size) ∨ 0xA0000 ≤ x ∨
            (∃ b : BitVec 5, 0x40000 + 0x3000 * b.toNat ≤ x ∧ x < 0x43000 + 0x3000 * b.toNat ∧ 0x43000 + 0x3000 * b.toNat < x + o.size) →
          traps 4 x o.size) ∧
        (∀ b : BitVec 5, address = x → x % 16 = 0 → 0x40000 + 0x3000 * b.toNat ≤ x → x + o.size ≤ 0x43000 + 0x3000 * b.toNat →
          0 < o.size → (s.me.bank b).compute = true → traps 6 b.toNat (s.me.bank b).status)) ∧
      (holds s.me q o.size → s.me.feeds q = false →
        let lands := [(2 + rows, LandVal.bytes o.off (front s.me q o.size), LatClass.no, 0)]
        exec (.dqpop c nm q) s = .next (issues s (popped s.me q o.size) 5 rows lands) ∧
        exec (.dqpeek c nm q) s = .next (issues s s.me 5 rows lands)) ∧
      ((s.me.q q).en = true → (s.me.q q).use = 0 → (s.me.q q).esz ≤ o.size → (s.me.q q).occ * (s.me.q q).esz < o.size →
        s.me.feeds q = false → exec (.dqpop c nm q) s = .next (stalls s) ∧ exec (.dqpeek c nm q) s = .next (stalls s)) ∧
      (m.toNat ≠ 144 → codeName s.me.snapViews s.me.snapOrder m = some r → r.size = o.size →
        exec (.xmv c nm m) s = .next (issues s s.me 5 rows [(1 + rows, .bytes o.off (memRead s.me.regs r.off r.size), .no, 0)])) ∧
      (s.me.run = .running → m.toNat ≠ 144 → codeName s.me.snapViews s.me.snapOrder m = some r → r.size ≠ o.size →
        exec (.xmv c nm m) s = .next (groupTrapped s 2 6 11 s.me.groupAddr.toNat))) ∧
    (∀ v rest, s.me.paramq = v :: rest → index (.ppop c d) { s.me with paramq := rest } (v.toNat % 2 ^ 32)) ∧
    (s.me.paramq = [] → s.me.paramOvf.getLsbD 3 = false → exec (.ppop c d) s = .next (stalls s)) ∧
    (let u := s.me
     exec (.xFset c f) s = .next (issues s ({ u with flags := u.flags ||| bit }.release 1) 5 1 []) ∧
     exec (.xFclr c f) s = .next (issues s { u with flags := u.flags &&& ~~~bit } 5 1 [])) ∧
    index (.ftst c d f) s.me (if s.me.flags.getLsbD f.toNat then 1 else 0) ∧
    index (.frd c d h) s.me (if h then s.me.fpFlags.toNat / 2 ^ 32 else s.me.fpFlags.toNat % 2 ^ 32)

namespace Sys2Proof.Claims

/-- The exact sum that lands in column `i` of an accumulator (R61). -/
def sumAt (c : Core) (off wq : Nat) (ovw : Bool) (v : List Int) (i : Nat) : Int :=
  (if ovw then 0 else sext (8 * wq) (memNat c.regs (off + i * wq) wq)) + v.getD i 0

/-- A value saturated to the range of a column of `wq` bytes (R61). -/
def clamped (wq : Nat) (x : Int) : Int := max (-2 ^ (8 * wq - 1)) (min x (2 ^ (8 * wq - 1) - 1))

/-- Whether a result saturates column `i` as it lands (R61). -/
def saturates (c : Core) (v : LandVal) (i : Nat) : Bool :=
  match v with
  | .sums _ off wq ovw x => decide (i < x.length ∧ clamped wq (sumAt c off wq ovw x i) ≠ sumAt c off wq ovw x i)
  | _ => false

/-- The flags that a result sets as it lands: its own, and aov where a column saturates (R56, R58, R61). -/
def landFlags (c : Core) (l : Landing) : Word64 :=
  match l.v with
  | .sums _ _ _ _ x => if (List.range x.length).any (saturates c l.v) then l.flags ||| BitVec.ofNat 64 (2 ^ 42) else l.flags
  | _ => l.flags

/-- An accumulator's overflow masks with those of a result's columns that saturate (R56, R61). -/
def masksWith (c d : Core) (v : LandVal) : Prop :=
  ∀ (a : Fin 16) (j : Nat), d.accOvf[a].getLsbD j = (c.accOvf[a].getLsbD j ||
    (match v with
     | .sums acc _ _ _ x => acc.toNat == a.val && (List.range x.length).any fun i => i % 64 == j && saturates c v i
     | _ => false))

/-- What the core `c` holds once a result has landed, and that it holds all else as before (R240): register-space bytes, the sums of
an accumulator's columns (R61), an index register, a stream register, or a record in scratch (R196). -/
def hasLanded (s : State) (k : CoreId) (v : LandVal) (c d : Core) : Prop :=
  (∀ r, d.ix r = match v with | .index q x => if r = q then x else c.ix r | _ => c.ix r) ∧
  (∀ r, d.stream r = match v with | .stream q x => if r = q then x else c.stream r | _ => c.stream r) ∧
  (match v with
   | .scratch a b => unawaited s k a b.length → memRead d.scratch a b.length = b ∧
      ∀ y, y < a ∨ a + b.length ≤ y → memGet d.scratch y = memGet c.scratch y
   | _ => d.scratch = c.scratch) ∧
  (match v with
   | .bytes o b => memRead d.regs o b.length = b ∧ ∀ y, y < o ∨ o + b.length ≤ y → memGet d.regs y = memGet c.regs y
   | .sums _ o wq ovw x =>
      (∀ i < x.length, memRead d.regs (o + i * wq) wq = intBytes wq (clamped wq (sumAt c o wq ovw x i))) ∧
      ∀ y, y < o ∨ o + x.length * wq ≤ y → memGet d.regs y = memGet c.regs y
   | _ => d.regs = c.regs) ∧
  masksWith c d v

/-- The slot, coded as eng of R339, of a word that waits for a queue, a bank or room (R237, R340). -/
def waitSlot (i : Instr) : Nat :=
  match i with
  | .ppop _ _ | .dqpop _ _ _ | .dqpeek _ _ _ => 5
  | .aqpush _ _ _ | .zinit _ _ _ _ | .znext _ _ | .zskip _ _ _ | .zisect _ _ _ _ | .zunion _ _ _ _ | .zdown _ _ _ | .zcrd _ _ _ _
  | .zpos _ _ _ _ => 1
  | _ => 4

end Sys2Proof.Claims

/-- R240, R244, R57, R61, R237, R45 and R28: the vector stream's cycles on a core by itself. In a cycle of an idle stream the results
that are due land with their flags, be it in the register space, an accumulator, an index or stream register or scratch, and the
others come a cycle nearer; where one of them has a flag that fp.trapen enables, nothing lands, and the arithmetic trap names its
group. A group that waited issues once its resource is there, and the stream moves to the next group; a group that lacks its
resource waits, and at 2^20 cycles the queue-stall trap ends the task, naming the slot of the word that waits and what it waits for;
an instruction-cache fill lets its stream go on. -/
def Obligations.VectorCycles : Prop :=
  ∀ (k : CoreId) (r : LoopRun) (word : Word32) (p : BitVec 4) (s : State),
    let c := s.core k
    exec (.instructionCacheFill k true) s = .next (s.setCore k { c with missVs := false }) ∧
    exec (.instructionCacheFill k false) s = .next (s.setCore k { c with missCp := false }) ∧
    (aloneRuns c →
      (c.loopRun = none → c.zeroing = none → (∀ l ∈ c.landing, l.d = 0 → l.flags &&& c.fpTrapen = 0 ∧ ∃ o v, l.v = .bytes o v) →
        ∃ t, exec (.resultLanding k) s = .next t ∧ onlyCore s k t ∧
          (t.core k).landing = (c.landing.filter fun l => decide (l.d ≠ 0)).map (fun l => { l with d := l.d - 1 }) ∧
          (∀ l o v, c.landing = [l] → l.d = 0 → l.v = .bytes o v →
            memRead (t.core k).regs o v.length = v ∧ (∀ y, y < o ∨ o + v.length ≤ y → memGet (t.core k).regs y = memGet c.regs y) ∧
            (t.core k).fpFlags = c.fpFlags ||| l.flags) ∧
          (t.core k).occ = ⟨c.occ.i - 1, c.occ.a - 1, c.occ.b - 1, c.occ.m - 1, c.occ.x - 1⟩ ∧
          (t.core k).scratch = c.scratch ∧ (t.core k).idx = c.idx) ∧
      (∀ l, c.loopRun = none → c.zeroing = none → c.landing = [l] → l.d = 0 → landFlags c l &&& c.fpTrapen = 0 →
        (∀ a o wq ovw x, l.v = .sums a o wq ovw x → 0 < wq) →
        ∃ t, exec (.resultLanding k) s = .next t ∧ (∀ j, j ≠ k → t.core j = s.core j) ∧ t.dram = s.dram ∧
          (t.core k).landing = [] ∧ (t.core k).fpFlags = c.fpFlags ||| landFlags c l ∧ hasLanded s k l.v c (t.core k)) ∧
      (∀ l rest o, c.loopRun = none → c.zeroing = none → c.landing = l :: rest → l.d = 0 → landFlags c l &&& c.fpTrapen ≠ 0 →
        (∀ x ∈ rest, x.pass = none ∧ (x.d = 0 → landFlags c x &&& c.fpTrapen = 0)) → l.src = some o →
        (∀ x ∈ l :: rest, ∀ a o wq ovw y, x.v = .sums a o wq ovw y → 0 < wq) →
        ∃ t rec, exec (.resultLanding k) s = .next t ∧ onlyCore s k t ∧ (t.core k).run = .stopping rec ∧ rec.cause = 20 ∧
          rec.src = 1 ∧ rec.eng = o.slot ∧ rec.grp = o.grp ∧ rec.cmd = o.cmd ∧ rec.d0 = landFlags c l &&& c.fpTrapen ∧
          (t.core k).fpFlags = c.fpFlags ||| landFlags c l ∧ masksWith c (t.core k) l.v ∧ (t.core k).regs = c.regs ∧
          (t.core k).scratch = c.scratch ∧ (t.core k).idx = c.idx ∧ (t.core k).streams = c.streams) ∧
      (∀ x next, c.loopRun = some r → r.zpf = none → c.zeroing = none → c.landing = [] → c.gatherFaults = [] → 0 < c.stall →
        s.nextGroup k r = ⟨[(r.off, word)], none, none, next⟩ →
        c.checkGroup r.c.start.toNat ⟨[(r.off, word)], none, none, next⟩ = .ok [x] →
        (s.wf = true → encodeVector x.i ≠ [] → c.operandState [x] = .ok none →
          ∃ t, exec x.i { s with cur := k } = .next t ∧
            exec (.stalledGroupIssue k) s = .next (advance { t.modCore k (·.landLate 0) with cur := s.cur } k r next)) ∧
        (∀ want, vword x.i c = .error (.lack want) →
          (c.stall + 1 < 2 ^ 20 → ∃ t, exec (.stalledGroupIssue k) s = .next t ∧ onlyCore s k t ∧
            (t.core k).stall = c.stall + 1 ∧ (t.core k).run = .running ∧ (t.core k).loopRun = some r ∧ (t.core k).landing = []) ∧
          (c.stall + 1 = 2 ^ 20 → ∃ t rec, exec (.queueStall k) s = .next t ∧ (t.core k).run = .stopping rec ∧ rec.cause = 8 ∧
            rec.src = 1 ∧ rec.eng = BitVec.ofNat 4 (waitSlot x.i) ∧
            (∀ q, want = .dataQ q → rec.d0 = BitVec.ofNat 64 q.toNat) ∧ (want = .addrQ → rec.d0 = 8) ∧
            (∀ q, want = .refill q → rec.d0 = BitVec.ofNat 64 (16 + q.toNat)) ∧
            (∀ b, want = .bank b → rec.d0 = BitVec.ofNat 64 (24 + 256 * b.toNat))))) ∧
      (c.loopRun = some r → r.zpf = none → r.buf = some [word, 0x7A000000, 0x7A000000] → r.off = 0 → r.iter + 1 = r.c.total → c.landing = [] →
        c.occ = ⟨0, 0, 0, 0, 0⟩ → c.gatherFaults = [] → c.cmdq = [] → r.c.len = 1 →
        decodeVector word.toNat = .ok (.ppop false p) → word.getLsbD 31 = false → 0 < c.stall →
        let waits := c.paramq = [] ∧ c.paramOvf.getLsbD 3 = false
        (∀ v rest, c.paramq = v :: rest →
          ∃ t, exec (.stalledGroupIssue k) s = .next t ∧ (t.core k).paramq = rest ∧ (t.core k).loopRun = none ∧ (t.core k).stall = 0 ∧
            (t.core k).landing.map (fun l => (l.d, l.v)) = [(0, .index p (BitVec.ofNat 32 v.toNat))] ∧
            ∀ j, j ≠ k → t.core j = s.core j) ∧
        (waits → c.stall + 1 < 2 ^ 20 →
          ∃ t, exec (.stalledGroupIssue k) s = .next t ∧ (t.core k).stall = c.stall + 1 ∧ (t.core k).run = .running ∧
            (t.core k).loopRun = some r ∧ (t.core k).landing = []) ∧
        (waits → c.stall + 1 = 2 ^ 20 →
          ∃ t rec, exec (.queueStall k) s = .next t ∧ (t.core k).run = .stopping rec ∧ rec.cause = 8 ∧ rec.eng = 5 ∧ rec.src = 1 ∧
            rec.d0 = 32 ∧ rec.grp = r.c.start)))

/-! ## Tasks, launches and cairns at base camp -/

namespace Sys2Proof.Claims

/-- The card's report of a register write that it refuses (R375, R360): an entry in the device error log, and nothing else of the
cores, the contexts, the cairns, the launches or memory. -/
def loggedOnly (s : State) (o : Host.Outcome State Fault Refusal) : Prop :=
  ∃ t, o = .next t ∧ t.fleet.logHead = s.fleet.logHead + 1 ∧ t.cores = s.cores ∧ t.ctxs = s.ctxs ∧ t.sched = s.sched ∧
    t.dram = s.dram ∧ t.lanes = s.lanes ∧ t.vm = s.vm

end Sys2Proof.Claims

namespace Sys2Proof.Claims

/-- A core that has been restored from an image (R352, R356, R222, R36): its registers are those of the fixed block, its banks those of
their status words, its streams those of their five words; with no command in the image it runs none. -/
def RestoredFrom (m : Image) (c : Core) : Prop :=
  let x := fun o n => natAt m.bytes (64 + o) n
  c.run = .running ∧ c.wait = .no ∧ c.tags = [] ∧ c.elems = [] ∧
  (∀ r : BitVec 5, r ≠ 0 → c.gr r = BitVec.ofNat 64 (x (8 * r.toNat) 8)) ∧ c.pc = BitVec.ofNat 64 (x 0x100 8) ∧
  c.cmdIdx = BitVec.ofNat 32 (x 0x108 4) ∧ c.jetOrder = BitVec.ofNat 3 (x 0x110 8) ∧ c.fpFlags = BitVec.ofNat 64 (x 0x118 8) ∧
  c.fpTrapen = BitVec.ofNat 64 (x 0x120 8) ∧ c.paramOvf = BitVec.ofNat 64 (x 0x128 8) ∧
  c.ctxPkey = BitVec.ofNat 64 (x 0x130 8) ∧ (∀ v : Fin 8, c.views[v] = BitVec.ofNat 64 (x (0x140 + 8 * v.val) 8)) ∧
  (∀ i : BitVec 4, c.ix i = BitVec.ofNat 32 (x (0x180 + 4 * i.toNat) 4)) ∧ c.flags = BitVec.ofNat 16 (x 0x1C0 2) ∧
  c.occ = ⟨x 0x1C2 1, x 0x1C3 1, x 0x1C4 1, x 0x1C5 1, x 0x1C6 1⟩ ∧
  c.paramq = (List.range (x 0x1C8 8 % 64)).map (fun i => BitVec.ofNat 64 (x (0x1D0 + 8 * i) 8)) ∧
  (∀ z : BitVec 3, c.stream z = streamOf fun i => x (0x250 + 40 * z.toNat + 8 * i) 8) ∧
  (∀ a : Fin 16, c.accOvf[a] = BitVec.ofNat 64 (x (0x390 + 8 * a.val) 8)) ∧
  (∀ b : BitVec 5, c.bank b = bankOf (x (0x410 + 4 * b.toNat) 4)) ∧
  (∀ q : BitVec 3, c.q q = ⟨BitVec.ofNat 64 (x (0x490 + 16 * q.toNat) 8), BitVec.ofNat 64 (x (0x498 + 16 * q.toNat) 8)⟩) ∧
  (∀ b : BitVec 6, (c.bar b).mask = BitVec.ofNat 64 (x (0x510 + 16 * b.toNat) 8) ∧
    (c.bar b).gen = BitVec.ofNat 16 (x (0x518 + 16 * b.toNat) 2) ∧ (c.bar b).count = x (0x518 + 16 * b.toNat) 8 / 2 ^ 16 % 2 ^ 7 ∧
    (c.bar b).init = (x (0x518 + 16 * b.toNat) 8).testBit 23 ∧ (c.bar b).arrived = (x (0x518 + 16 * b.toNat) 8).testBit 24) ∧
  c.aq.length = natAt m.bytes 44 2 ∧ c.landing.length = natAt m.bytes 42 2 ∧
  (natAt m.bytes 6 1 / 2 % 2 = 1 → c.loopRun = none ∧ c.cmdq.length = natAt m.bytes 40 2)

/-- Whether one queue of a die ranks before another (R313): by effective level, then lifted before not lifted, then of two lifted the
larger native level. -/
def ranksBefore (a b : Queue) (p q : Nat) : Prop :=
  a.eff < b.eff ∨ (a.eff = b.eff ∧ a.eff < p ∧ (q ≤ b.eff ∨ q < p))

/-- The task that a record names. -/
def taskOf (r : ContRec) : Task := ⟨r.ctx, r.launch, r.tile, r.prio, r.j, r.parent, r.slot⟩

end Sys2Proof.Claims

/-- R313, R314, R21, R346 to R350, R356, R357 and R338: an idle core takes the record at the head of that queue of its die which
ranks first by R313 among those that hold any, and the others age; where its die has none it may take one of another die's, from a
launch that lets it (R314). It takes one while the scheduler and the die are ready (R360) and the card is neither in bivouac nor on its way there (R367; before the
first pop after a wake is over is log 44), and starts its task: pc, g1 and g2 from the record, all else at its start, its storage kept
only after a task of the same context. The record of a saved task is restored from its image, register by register; an image that fails its
check kills the context with why 2 (R345). A request is taken at a pre-emption point; a stopped and drained task is written to an
image, and its resumption record goes to the head of its queue. A rope's group at the head of a queue (log 34) is restored on seats of its
shape, each member at its position, in a rope again; without one, nothing happens. A task that has run its limit is stopped with
cause 25, a cancelled one that waits in RTREE for its limit waits no more (R172, R317; log 69), a cancelled task that has drained frees its core and counts as failed at its parent, and a faulted one, its record
written, leaves its launch's cairns expecting one less (R316). -/
def Obligations.CoresTakeAndReturnTasks : Prop :=
  ∀ (k : CoreId) (s : State),
    let c := s.core k
    let die := k.toNat / 64
    (∀ p r rest, p < 32 → c.run = .idle → s.fw.ready.getLsbD (7 + die) = true → s.fw.ready.getLsbD (3 + die) = true →
      s.fw.ready.getLsbD 14 = true → s.fleet.slpState = 0 → (s.queue die p).recs = r :: rest →
      (∀ q < 32, q ≠ p → (s.queue die q).recs = [] ∨ ranksBefore (s.queue die p) (s.queue die q) p q) → r.rs = false →
      ∃ u : State, exec (.taskPop k) s = .next u.firstPop.requests ∧ (u.queue die p).recs = rest ∧ (u.queue die p).eff = p ∧
        (u.queue die p).age = 0 ∧ (∀ q < 32, q ≠ p → (u.queue die q).recs = (s.queue die q).recs ∧
          ((s.queue die q).recs ≠ [] → let due := s.sched.age.toNat ≤ (s.queue die q).age
            (u.queue die q).age = (if due then 0 else (s.queue die q).age + 1) ∧
            (u.queue die q).eff = if due then (s.queue die q).eff - 1 else (s.queue die q).eff)) ∧
        (u.core k).run = .running ∧ (u.core k).pc = r.code ∧ (u.core k).gr 1 = r.frame ∧ (u.core k).gr 2 = r.tile.zeroExtend 64 ∧
        (∀ g : BitVec 5, g ≠ 1 → g ≠ 2 → (u.core k).gr g = 0) ∧ (u.core k).task.ctx = r.ctx ∧ (u.core k).task.launch = r.launch ∧
        (u.core k).task.tile = r.tile ∧ (u.core k).task.prio = r.prio ∧ (u.core k).jetOrder = 0 ∧ (u.core k).fpFlags = 0 ∧
        (u.core k).fpTrapen = 0 ∧ (u.core k).paramOvf = 0 ∧ (u.core k).flags = 0 ∧ (u.core k).cmdIdx = 0 ∧ (u.core k).wait = .no ∧
        (u.core k).idx = Vector.replicate 16 0 ∧ (u.core k).views = Vector.replicate 8 0 ∧
        (u.core k).ctxPkey = (s.ctx r.ctx).vmPkey ∧ (u.core k).banks = Vector.replicate 32 Bank.reset ∧
        (c.prevCtx = some r.ctx → (u.core k).scratch = c.scratch ∧ (u.core k).regs = c.regs) ∧
        (c.prevCtx ≠ some r.ctx → (u.core k).scratch = [] ∧ (u.core k).regs = []) ∧ ∀ j, j ≠ k → u.core j = s.core j) ∧
    (∀ p r rest, p < 32 → c.run = .idle → s.fw.ready.getLsbD (7 + die) = true → s.fw.ready.getLsbD (3 + die) = true →
      s.fw.ready.getLsbD 14 = true → s.fleet.slpState = 0 → (s.queue die p).recs = r :: rest →
      (∀ q < 32, q ≠ p → (s.queue die q).recs = []) → r.rs = true →
      (∀ m, s.imageOf r = some m → imageRope m.bytes = none → (m.restore c.fresh s.issued).isSome = true →
        ∃ u : State, exec (.taskPop k) s = .next u.firstPop.requests ∧ (u.queue die p).recs = rest ∧ RestoredFrom m (u.core k) ∧
          (u.core k).task = taskOf r ∧ (u.core k).us = r.us ∧ (u.core k).wdLimit = r.limit ∧ (u.core k).rope = none ∧
          (∀ a, a.addr = m.addr → a ∉ u.sched.images) ∧ ∀ j, j ≠ k → u.core j = s.core j) ∧
      (∀ m, s.imageOf r = some m → imageRope m.bytes = none → imageHeadOk m.bytes = false → (s.ctx r.ctx).dead = false →
        ∃ u : State, exec (.taskPop k) s = .next u.firstPop.requests ∧ (u.ctx r.ctx).dead = true ∧ (u.ctx r.ctx).why = 2)) ∧
    (∀ d p r rest, d < 4 → d ≠ die → p < 32 → c.run = .idle → s.fw.ready.getLsbD (7 + die) = true →
      s.fw.ready.getLsbD (3 + die) = true → s.fw.ready.getLsbD 14 = true → s.fleet.slpState = 0 → (s.queue d p).recs = r :: rest →
      (∀ e < 4, ∀ q < 32, e ≠ d ∨ q ≠ p → (s.queue e q).recs = []) → r.rs = false →
      (s.spOf r = true → ∃ u : State, exec (.taskPop k) s = .next u.firstPop.requests ∧ (u.queue d p).recs = rest ∧
        (u.core k).run = .running ∧ (u.core k).pc = r.code ∧ (u.core k).task.tile = r.tile) ∧
      (s.spOf r = false → exec (.taskPop k) s = .next s)) ∧
    (c.run ≠ .idle ∨ s.fw.ready.getLsbD 14 = false → exec (.taskPop k) s = .next s) ∧
    (∀ p m ks, p < 32 → (∀ q < 32, q ≠ p → (s.queue die q).recs = []) → (s.queue die p).recs.head?.bind s.ropeRec = some m →
      s.ropeSeats k m = some ks →
      let group := s.ropeGroup m 0 (s.queue die p).recs
      let rope : Rope := ⟨ks.foldl (fun a j => a ||| BitVec.ofNat 64 (2 ^ (j.toNat % 64))) 0, false⟩
      ∃ u : State, exec (.ropeGroupRestore k) s = .next u.firstPop.requests ∧
        u = group.foldl (fun s x => restoreTask s (ks.getD x.2 k) x.1 (some rope)) (takeHead s die p group.length) ∧
        ((∀ x ∈ group, x.2 < ks.length ∧ ∃ im, s.imageOf x.1 = some im ∧ (im.restore c.fresh s.issued).isSome = true) →
          (group.map fun x => x.1.frame).Nodup →
          (u.queue die p).recs = (s.queue die p).recs.drop group.length ∧
          ∀ x ∈ group, ∀ im j, s.imageOf x.1 = some im → ks[x.2]? = some j →
            RestoredFrom im (u.core j) ∧ (u.core j).task = taskOf x.1 ∧ (u.core j).rope = some rope)) ∧
    ((∀ q < 32, (s.queue die q).recs.head?.bind s.ropeRec = none) → exec (.ropeGroupRestore k) s = .next s) ∧
    (s.fleet.slpState ≠ 1 → c.rope = none → c.preemptReq = true → c.run = .running → (∀ a b d, c.wait ≠ .rtree a b d) →
      ∃ t, exec (.preemption k) s = .next t ∧ (t.core k).run = .preempting ∧ (t.core k).wait = .no ∧ (t.core k).preemptReq = false ∧
        (t.core k).pc = c.pc ∧ (t.core k).g = c.g ∧ ∀ j, j ≠ k → t.core j = s.core j) ∧
    (c.preemptReq = false ∨ s.fleet.slpState = 1 → exec (.preemption k) s = .next s) ∧
    (c.rope = none → c.run = .preempting → c.zeroing = none → c.loopRun = none → c.tags = [] → c.elems = [] →
      (∀ e ∈ c.aq, e.begun = false) → c.gatherFaults = [] →
      ∃ (u : State) (m : Image) (r : ContRec), exec (.saveImageWrite k) s = .next u.requests ∧
        u.sched.images = s.sched.images ++ [m] ∧ m.ctx = c.task.ctx ∧ m.bytes = c.image k (s.joinSlot c.task.slot) ∧
        r.rs = true ∧ r.frame = m.addr ∧ r.code = c.pc ∧ r.prio = c.task.prio ∧ r.launch = c.task.launch ∧ r.us = c.us ∧
        (u.queue (((s.launchOf k).map (·.die)).getD die) c.task.prio.toNat).recs =
          r :: (s.queue (((s.launchOf k).map (·.die)).getD die) c.task.prio.toNat).recs ∧ (u.core k).run = .idle) ∧
    (c.rope = none → c.run ≠ .preempting → exec (.saveImageWrite k) s = .next s) ∧
    (c.run = .running → c.wdLimit ≠ 0 → c.wdLimit.toNat ≤ c.us →
      ∃ t r, exec (.taskWatchdog k) s = .next t ∧ (t.core k).run = .stopping r ∧ r.cause = 25 ∧ r.src = 3 ∧ r.d1 = BitVec.ofNat 64 c.us ∧
        ∀ j, j ≠ k → t.core j = s.core j) ∧
    (c.wdLimit = 0 ∨ c.us < c.wdLimit.toNat → exec (.taskWatchdog k) s = .next s) ∧
    (c.run = .cancelling → c.wdLimit ≠ 0 → c.wdLimit.toNat ≤ c.us →
      (∀ q d e, c.wait = .rtree q d e → ∃ t, exec (.taskWatchdog k) s = .next t ∧ t.core k = { c with wait := .no } ∧
        t.dram = s.dram ∧ ∀ j, j ≠ k → t.core j = s.core j) ∧
      ((∀ q d e, c.wait ≠ .rtree q d e) → exec (.taskWatchdog k) s = .next s)) ∧
    (c.run = .cancelling → c.tags = [] → c.elems = [] → c.zeroing = none → (∀ e ∈ c.aq, e.begun = false) →
      (∀ a b d, c.wait ≠ .rtree a b d) →
      ∃ t, exec (.taskFaultEnd k) s = .next t ∧ (t.core k).run = .idle ∧ (t.core k).scratch = c.scratch ∧ (t.core k).regs = c.regs ∧
        (c.task.joined = true → (t.joinSlot c.task.parent).count = (s.joinSlot c.task.parent).count - 1 ∧
          (t.joinSlot c.task.parent).failed = (s.joinSlot c.task.parent).failed + 1) ∧ t.dram = s.dram) ∧
    (c.run = .recorded → s.ringBusy k = true → exec (.taskFaultEnd k) s = .next s) ∧
    (∀ r, c.run = .stopping r → c.tags = [] → c.elems = [] → c.zeroing = none → (∀ e ∈ c.aq, e.begun = false) →
      (∀ w ∈ s.sched.ringOut, w.ctx ≠ c.task.ctx) → (s.ctx c.task.ctx).fltCfg.getLsbD 63 = false →
      (s.ctx c.task.ctx).fltLost.toNat < 2 ^ 32 - 1 →
      (s.launchOfTask c.task = none → ∃ u : State, exec (.taskFaultEnd k) s = .next u.requests ∧ (u.core k).run = .idle ∧
        (u.core k).scratch = c.scratch ∧ (u.ctx c.task.ctx).fltLost = (s.ctx c.task.ctx).fltLost + 1) ∧
      (∀ l, s.launchOfTask c.task = some l → l.isCancelled = false → l.cairns.Nodup →
        ∃ u : State, exec (.taskFaultEnd k) s = .next u.sweep.requests ∧ (u.core k).run = .idle ∧
          ∀ n ∈ l.cairns, u.cairn n =
            if n = l.lc ∨ n ∉ l.past then { s.cairn n with exp := (s.cairn n).exp - 1, flt := true } else s.cairn n))

/-- R355, R36 and R222: what a save image holds reads back: a block of 1 KiB from its code, whatever follows it; a bank from its
status word; and a stream register from its five words. -/
def Obligations.SavedFormsReadBack : Prop :=
  (∀ (v rest : List Byte), v.length = 1024 → decodeBlock 129 128 (codeBlock v ++ rest) = some (v, rest)) ∧
  (∀ b : Bank, bankOf b.status = b) ∧
  (∀ x : Stream, streamOf (fun i => x.words.getD i 0) = x)

namespace Sys2Proof.Claims

/-- The words of a launch record that R307 admits: reserved fields zero, every field within its limits; of a record with zpf = 1 the
vector region's length alone is held to them (log 37). -/
def goodFields (w : Nat → Nat) : Prop :=
  let clen := w 2 % 2 ^ 32
  let vlen := w 2 / 2 ^ 32
  let ndep := w 7 / 2 ^ 16 % 2 ^ 3
  let dep := fun (i : Nat) => [w 7 / 2 ^ 32 % 2 ^ 16, w 7 / 2 ^ 48, w 8 % 2 ^ 16, w 8 / 2 ^ 16 % 2 ^ 16].getD i 0
  let extent := fun (i : Nat) => w 5 / 2 ^ (16 * i) % 2 ^ 16
  let flag := fun (i : Nat) => w 6 / 2 ^ i % 2 = 1
  (w 0 < 2 ^ 57 ∧ w 1 < 2 ^ 57 ∧ w 3 < 2 ^ 32 ∧ w 5 < 2 ^ 48 ∧ w 6 / 2 ^ 59 % 2 = 0 ∧ w 6 / 2 ^ 5 % 2 ^ 52 = 0 ∧
    w 7 / 2 ^ 19 % 2 ^ 13 = 0 ∧ w 7 / 2 ^ 10 % 2 ^ 6 = 0 ∧ w 8 < 2 ^ 32 ∧ w 9 < 2 ^ 60 ∧ w 9 / 2 ^ 44 % 2 ^ 4 = 0 ∧
    w 9 / 2 ^ 28 % 2 ^ 4 = 0 ∧ w 9 / 2 ^ 12 % 2 ^ 4 = 0 ∧ w 10 < 2 ^ 57 ∧ w 11 < 2 ^ 57 ∧ w 12 < 2 ^ 9 ∧
    w 13 = 0 ∧ w 14 = 0 ∧ w 15 = 0) ∧
  (w 0 % 64 = 0 ∧ clen % 12 = 0 ∧ 12 ≤ clen ∧ clen ≤ 16777212 ∧ vlen % 12 = 0 ∧ vlen ≤ 16777212 ∧
    (¬flag 57 → w 1 % 64 = 0 ∧ (vlen = 0 ↔ w 1 = 0)) ∧ w 3 % 12 = 0 ∧ w 3 < clen) ∧
  (∀ i < 3, 1 ≤ extent i) ∧ extent 0 * extent 1 * extent 2 ≤ 2 ^ 40 ∧ (flag 60 → flag 61) ∧ (flag 61 → flag 62) ∧
  ndep ≤ 4 ∧ (∀ i < 4, ndep ≤ i → dep i = 0) ∧ w 10 % 8 = 0 ∧ (¬flag 63 → w 10 = 0) ∧ w 11 % 16 = 0 ∧ w 12 ≤ 256

/-- Lease entry `i` of a table, as R309 admits it. -/
def goodLease (tb : List Byte) (pv : Bool) (i : Nat) : Prop :=
  let w := natAt tb (16 * i) 8
  let len := natAt tb (16 * i + 8) 8
  let base := w % 2 ^ 57
  w / 2 ^ 62 ≠ 0 ∧ w / 2 ^ 57 % 2 ^ 4 = 0 ∧ 1 ≤ len ∧ len < 2 ^ 48 ∧ (w / 2 ^ 61 % 2 = 1 → pv = true) ∧
    (base + len ≤ 2 ^ 56 ∨ (2 ^ 56 ≤ base ∧ base + len ≤ 2 ^ 57))

/-- The earlier records of a context's graph that its cairn still counts. -/
def inGraph (s : State) (n : CtxId) (gc : BitVec 12) (x : Launch) : Prop :=
  x ∈ s.sched.launches ∧ x.ctx = n ∧ x.gc = gc ∧ gc ∉ x.past

/-- A launch record that passes the checks of R308, with its lease table. -/
def goodRecord (s : State) (n : CtxId) (w : Nat → Nat) (tb : List Byte) : Prop :=
  let l := launchOfRecord n w []
  let named := fun (c : BitVec 12) (level : Nat) => (s.cairn c).state = .opened ∧ (s.cairn c).ctx = n ∧ (s.cairn c).level.toNat = level
  goodFields w ∧ (∀ i < w 12, goodLease tb (s.ctx n).pv i) ∧
  named l.lc 0 ∧ (named l.gc 1 ∧ named l.pc 2 ∧ named l.jc 3) ∧
  (s.cairn l.gc).closing = false ∧ (s.cairn l.pc).closing = false ∧ (s.cairn l.jc).closing = false ∧
  (∀ x, inGraph s n l.gc x → x.node < l.node) ∧ (∀ d ∈ l.deps, ∃ x, inGraph s n l.gc x ∧ x.node = d) ∧
  (l.cond = true → ∃ i < w 12, let base := natAt tb (16 * i) 8
    base / 2 ^ 61 % 2 = 0 ∧ base % 2 ^ 57 ≤ w 10 ∧ w 10 + 8 ≤ base % 2 ^ 57 + natAt tb (16 * i + 8) 8)

end Sys2Proof.Claims

/-- R287, R288, R304, R307 to R311, R253, R255 and R317: base camp reads the record at the head of a submission queue; drops it
where a cairn that it names is cancelled, or, with an entry in the error log, where its launch cairn is not open or has been named
before; fails it where a check of R308 does, with flt in every cairn of the context that it names (log 51); and keeps it otherwise,
with its leases, its counter lowered by the predecessors that are complete already, or failed with cause 5 where one of them has
failed or was cancelled. It reads nothing from an empty, disabled, stopped or dead queue, nor before the scheduler or the page's memory is
ready (R360) or in bivouac (R369), and stops a queue whose record it cannot read, with vector 64. Clearing the stop discards what was not
read. A launch is numbered and counted when it is released (log 51). A resident and finalised launch is expanded: one record for
each tile as far as there is room, and its four cairns expecting them. A container is finalised or fails its launch. A cancelled cairn
whose tasks have stopped becomes cancelled. The statement rests on log 55 (base camp reads device leaves only), log 61 (DEDUCED: a
read that is refused leaves its walks' a and d bits, walkMarks), log 71 (which record a predecessor's number names), log 37 (vcode's
checks with zpf = 1) and log 51. -/
def Obligations.Launches : Prop :=
  ∀ (n : CtxId) (lc : BitVec 12) (s : State),
    let x := s.ctx n
    let at' := x.sqBase.toNat / 2 ^ 12 % 2 ^ 45 * 4096 + 128 * (x.sqHead.toNat % 2 ^ (x.sqCfg.toNat % 2 ^ 5))
    let runs := x.cfg.getLsbD 63 = true ∧ x.dead = false ∧ x.sqStop = false ∧ x.sqHead ≠ x.sqTail ∧ s.fw.ready.getLsbD 14 = true ∧
      s.fleet.slpState.toNat < 2 ∧ s.awaitsMemory n at' = false
    (¬runs → exec (.submissionRead n) s = .next s) ∧
    (runs → hxRead s n at' 128 = none → ∃ v : State, exec (.submissionRead n) s = .next (v.msix 64) ∧ (v.ctx n).sqStop = true ∧
      (v.ctx n).sqCode = 3 ∧ (v.ctx n).sqHead = x.sqHead ∧ v.ports = s.ports ∧ v.sched = s.sched ∧ v.cores = s.cores) ∧
    (∀ b u, runs → hxRead s n at' 128 = some (b, u) → u.sched = s.sched → u.ctx n = x →
      let w := fun i => natAt b (8 * i) 8
      let c : BitVec 12 := BitVec.ofNat 12 (w 9)
      let closed := (s.cairn c).state ≠ .opened ∨ (s.cairn c).ctx ≠ n ∨ (s.cairn c).level ≠ 0
      let twice := (s.cairn c).named = true ∨ s.live c ≠ none
      ((∃ d ∈ recordCairns w, (s.cairn d).ctx = n ∧ ((s.cairn d).state = .cancelled ∨
          ((s.cairn d).cancel = true ∧ (s.cairn d).state ≠ .free))) →
        ∃ t, exec (.submissionRead n) s = .next t ∧ (t.ctx n).sqHead = x.sqHead + 1 ∧ t.sched.launches = s.sched.launches ∧
          t.fleet.logHead = u.fleet.logHead) ∧
      ((∀ d ∈ recordCairns w, (s.cairn d).ctx = n → (s.cairn d).state ≠ .cancelled ∧
          ((s.cairn d).cancel = false ∨ (s.cairn d).state = .free)) →
        (closed ∨ twice → ∃ t, exec (.submissionRead n) s = .next t ∧ (t.ctx n).sqHead = x.sqHead + 1 ∧
          t.sched.launches = s.sched.launches ∧ t.fleet.logHead = u.fleet.logHead + 1 ∧
          ∀ d, (t.cairn d).state = (s.cairn d).state ∧ (d ∈ recordCairns w → (s.cairn d).ctx = n → (s.cairn d).state ≠ .free →
            (t.cairn d).named = true)) ∧
        (¬closed → ¬twice →
          let u' := nameCairns (u.setCtx n { x with sqHead := x.sqHead + 1 }) n w
          let len := 16 * min (w 12 % 2 ^ 9) 256
          let read := fun (tb : List Byte) => (len = 0 ∧ tb = []) ∨ (len ≠ 0 ∧ ∃ v, hxRead u' n (w 11 % 2 ^ 57) len = some (tb, v))
          (∀ tb, read tb → goodRecord s n w tb →
            let l := launchOfRecord n w ((List.range (w 12)).map (leaseAt tb))
            let pred := fun (d : Nat) => s.sched.launches.find? fun y => y.ctx == n && y.gc == l.gc && !y.past.contains l.gc && y.node == d
            let met := (l.deps.filter fun d => (pred d).any fun y => y.ended == some true).length
            let lost := ∃ d ∈ l.deps, ∃ y, pred d = some y ∧ (y.ended = some false ∨ y.isCancelled = true)
            (¬lost → ∃ v : State, exec (.submissionRead n) s = .next v.sweep ∧ (v.ctx n).sqHead = x.sqHead + 1 ∧
              v.sched.launches = s.sched.launches ++ [{ l with join := l.deps.length - met }] ∧ (v.cairn c).named = true ∧
              (v.cairn l.gc).closing = l.cg ∧ (v.cairn l.pc).closing = l.cp ∧ (v.cairn l.jc).closing = l.cj) ∧
            (lost → ∃ v : State, exec (.submissionRead n) s = .next v.sweep ∧
              v.sched.launches = s.sched.launches ++ [{ l with join := l.deps.length - met, phase := .failed, pins := [] }] ∧
              (v.cairn c).state = .closed ∧ (v.cairn c).flt = true ∧ (v.cairn c).cause = 5 ∧
              ∀ d ∈ [l.gc, l.pc, l.jc], (v.cairn d).flt = true)) ∧
          ((∀ tb, read tb → ¬goodRecord s n w tb) →
            let l := launchOfRecord n w []
            ∃ (v : State) (ls : List Lease), exec (.submissionRead n) s = .next v.sweep ∧ (v.ctx n).sqHead = x.sqHead + 1 ∧
              v.sched.launches = s.sched.launches ++ [{ launchOfRecord n w ls with phase := .failed, join := 1 }] ∧
              (∀ d ∈ [l.gc, l.pc, l.jc], (s.cairn d).ctx = n → (s.cairn d).state ≠ .free → (v.cairn d).flt = true) ∧
              (l.lc ≠ l.gc → l.lc ≠ l.pc → l.lc ≠ l.jc →
                (v.cairn c).state = .closed ∧ (v.cairn c).flt = true ∧ (v.cairn c).cause = 1))))) ∧
    (s.fw.ready.getLsbD 14 = true →
      exec (.sqStopClear n) s = .next (s.setCtx n { x with sqStop := false, sqCode := 0, sqTail := x.sqHead })) ∧
    (s.fw.ready.getLsbD 14 = false → loggedOnly s (exec (.sqStopClear n) s)) ∧
    (∀ l, s.live lc = some l → l.cond = false → l.leases = [] →
      ∃ m, (releaseLaunch s l).live lc = some m ∧ m.lid.toNat = l.ctx.toNat * 2 ^ 26 + (s.ctx l.ctx).released.toNat ∧
        m.phase = .residency 0 0 false ∧ ((releaseLaunch s l).ctx l.ctx).released = (s.ctx l.ctx).released + 1) ∧
    (∀ l, s.progress.live lc = some l → l.isResident = true → l.isFinalised = true → s.progress.isHeld l = false →
      s.progress.fleet.slpState.toNat < 2 → l.cairns.Nodup →
      let p := s.progress
      let tiles := l.extent.toNat % 2 ^ 16 * (l.extent.toNat / 2 ^ 16 % 2 ^ 16) * (l.extent.toNat / 2 ^ 32)
      ∃ (v : State) (m : Launch), exec (.launchExpansion lc) s = .next v.sweep ∧ v.live lc = some m ∧ m.started = true ∧
        m.lid = l.lid ∧ (v.ctx l.ctx).released = (p.ctx l.ctx).released ∧
        (∀ d ∈ l.cairns, (v.cairn d).exp = (p.cairn d).exp + BitVec.ofNat 48 tiles) ∧ (v.cairn lc).state = .closed ∧
        (v.queue m.die (p.capped l.ctx l.prio).toNat).recs = (p.queue m.die (p.capped l.ctx l.prio).toNat).recs ++
          (List.range (min p.roomLeft tiles)).map fun i => {
            prio := p.capped l.ctx l.prio, j := false, rs := false, code := BitVec.ofNat 64 (l.cbase + l.entry), frame := l.frame
            tile := tileOf l.extent i, launch := m.lid, parent := 0, ctx := l.ctx, slot := 0, us := 0, limit := 0 }) ∧
    (s.progress.live lc = none → exec (.launchExpansion lc) s = .next s.progress) ∧
    (∀ l, s.live lc = some l → l.isZpf = true → l.isResident = true → l.isFinalised = false → s.fw.ready.getLsbD 15 = true →
      s.fleet.slpState.toNat < 2 → (∀ b u, hxRead s l.ctx l.cbase l.clen = some (b, u) → u.sched = s.sched →
        (∀ z, finaliseZpf b u.fw.ver = some z → ∃ t m, exec (.finalise lc) s = .next t ∧ t.live lc = some m ∧ m.zpf = some z ∧
          m.isFinalised = true ∧ m.isResident = true ∧ m.clen = z.ctl.length) ∧
        (finaliseZpf b u.fw.ver = none → exec (.finalise lc) s = .next (failLaunch u lc 3).sweep)) ∧
      (hxRead s l.ctx l.cbase l.clen = none →
        exec (.finalise lc) s = .next (failLaunch (s.walkMarks l.ctx l.cbase l.clen false) lc 3).sweep)) ∧
    (s.live lc = none → exec (.finalise lc) s = .next s) ∧
    (s.cancelReady lc = false → exec (.launchCancelled lc) s = .next s) ∧
    (s.cancelReady lc = true → ∃ v : State, exec (.launchCancelled lc) s = .next v.sweep ∧ (v.cairn lc).state = .cancelled ∧
      v.cores = s.cores)

/-- R304, R358, R357, R345 and R360: writing a cairn's word arms it, frees it or cancels it where its state allows, and is otherwise
dropped with an entry in the error log, as is any such write before the scheduler is ready and a kill before the firmware runs (R360: which
bit of dev.ready gates which page is log 32); a killed context is dead and draining with its cores freed, their registers and banks
at their reset values (R37), and its drain ends once nothing of it is under way; a stop that lasts beyond wd.stop kills the context. -/
def Obligations.CairnsAndContexts : Prop :=
  ∀ (c : BitVec 12) (v : Word64) (n : CtxId) (k : CoreId) (s : State),
    let x := s.cairn c
    let m : CtxId := BitVec.ofNat 6 (v.toNat / 2 ^ 54)
    let ready := s.fw.ready.getLsbD 14 = true
    let idle := x.state ≠ .opened ∧ x.state ≠ .closed
    (ready → idle → (s.ctx m).cfg.getLsbD 63 = true →
      ∃ t, exec (.cairnArm c v) s = .next t ∧ t.cores = s.cores ∧ t.ctxs = s.ctxs ∧
        t.cairn c = ⟨v.getLsbD 62, BitVec.ofNat 2 (v.toNat / 2 ^ 60), m, .opened, false, false, 0, 0, 0, false, false, false⟩ ∧
        ∀ d, d ≠ c → t.cairn d = s.cairn d) ∧
    (¬idle ∨ (s.ctx m).cfg.getLsbD 63 = false ∨ ¬ready → loggedOnly s (exec (.cairnArm c v) s)) ∧
    (let free := x.state = .complete ∨ x.state = .cancelled ∨ (x.state = .opened ∧ x.exp = 0 ∧ x.named = false)
     (ready → free → ∃ t, exec (.cairnFree c v) s = .next t ∧ t.cores = s.cores ∧ (t.cairn c).state = .free ∧
        ∀ d, d ≠ c → t.cairn d = s.cairn d) ∧
     (¬free ∨ ¬ready → loggedOnly s (exec (.cairnFree c v) s))) ∧
    (ready → (s.ctx x.ctx).cfg.getLsbD 63 = true →
      (¬idle → ∃ u : State, exec (.cairnCancel c) s = .next u.sweep ∧ (u.cairn c).cancel = true) ∧
      (idle → exec (.cairnCancel c) s = .next s)) ∧
    ((s.ctx x.ctx).cfg.getLsbD 63 = false ∨ ¬ready → loggedOnly s (exec (.cairnCancel c) s)) ∧
    (s.fw.ready.getLsbD 1 = true → (s.ctx n).dead = false →
      ∃ t, exec (.ctxKill n) s = .next t ∧ (t.ctx n).dead = true ∧ (t.ctx n).drain = true ∧ (t.ctx n).why = 4 ∧
        ∀ j, (s.core j).run ≠ .idle → (s.core j).task.ctx = n → (t.core j).run = .idle ∧ (t.core j).g = Vector.replicate 32 0 ∧
          (t.core j).banks = Vector.replicate 32 Bank.reset ∧ (t.core j).rope = none) ∧
    (s.fw.ready.getLsbD 1 = true → (s.ctx n).dead = true → exec (.ctxKill n) s = .next s) ∧
    (s.fw.ready.getLsbD 1 = false → loggedOnly s (exec (.ctxKill n) s)) ∧
    ((s.ctx n).dead = true → (s.ctx n).drain = true → s.draining n = false →
      ∃ t, exec (.contextDrainDone n) s = .next t ∧ t.ctx n = { s.ctx n with drain := false } ∧ t.dram = s.dram ∧
        ∀ a : Fin 8, (t.ports.apertures[a]).cfg.toNat / 2 ^ 48 % 2 ^ 6 = n.toNat → (t.ports.apertures[a]).cfg.getLsbD 63 = false) ∧
    ((s.ctx n).dead = false ∨ (s.ctx n).drain = false ∨ s.draining n = true → exec (.contextDrainDone n) s = .next s) ∧
    (∀ r, (s.core k).run = .stopping r →
      (max s.sched.wdStop.toNat 1 ≤ (s.core k).stopUs → (s.core k).elems ≠ [] → (s.ctx (s.core k).task.ctx).dead = false →
        ∃ t, exec (.stopWatchdog k) s = .next t ∧ (t.ctx (s.core k).task.ctx).dead = true ∧ (t.ctx (s.core k).task.ctx).why = 1 ∧
          (t.core k).run = .idle) ∧
      ((s.core k).stopUs < max s.sched.wdStop.toNat 1 → exec (.stopWatchdog k) s = .next s)) ∧
    ((s.core k).run = .running ∨ (s.core k).run = .idle → exec (.stopWatchdog k) s = .next s)


/-! ## The host port, translation, the peer ports -/

namespace Sys2Proof.Claims

/-- An access of the host that the card cannot serve (R291): an entry in the error log; the first message out, if any, is as given;
no core, no byte of memory, no queue and no aperture changes. -/
def unserved (s : State) (o : Host.Outcome State Fault Refusal) (m : List OutMsg) : Prop :=
  ∃ (t : State) (rest : List OutMsg), o = .next t ∧ t.ports.out = s.ports.out ++ m ++ rest ∧
    t.fleet.logHead = s.fleet.logHead + 1 ∧ t.cores = s.cores ∧ t.ctxs = s.ctxs ∧ t.dram = s.dram ∧
    t.ports.apertures = s.ports.apertures

end Sys2Proof.Claims

/-- R286, R288, R290, R291, R283, R358, R360 and R376: a context's configuration, its tail and an aperture are written where
their rules allow, and otherwise the write is dropped and logged; a tail that moves back or past the queue stops it; a tail that
takes effect leaves or wakes the card from bivouac. An inbound access in an aperture reaches scratch or device memory of its
context; a dead context's reads are zeros; any other is refused and logged; an AtomicOp is unsupported. A vector that its table
entry masks becomes pending; any other sends the entry's message. Which writes bivouac entry loses is open (R102, log 64), and that
every tail write that takes effect is a wake or an abort is log 44. The statement rests also on log 6 (PRESUMED: the MSI-X table's
layout is that of PCIe), log 35 (4-byte writes), log 55 (an inbound access reaches device leaves only), log 61 (an access that is
refused or poisoned sets bits a and d on the leaves that it has walked: `walkMarks`, `touch`) and log 25 (which leaf base camp's TLB
gives after a change is a free choice: the f of `devPieces`); there the clauses are the model's choice. -/
def Obligations.HostRequests : Prop :=
  ∀ (n : CtxId) (v : Word64) (w : BitVec 32) (ap : BitVec 3) (reg : BitVec 2) (off : BitVec 39) (len : Nat) (data : List Byte)
    (s : State),
    let x := s.ctx n
    let sched := s.fw.ready.getLsbD 14 = true
    let other := v.toNat % 2 ^ 20 ≠ x.cfg.toNat % 2 ^ 20 ∨ v.getLsbD 61 ≠ x.cfg.getLsbD 61
    let slots := 2 ^ (x.sqCfg.toNat % 2 ^ 5)
    (∀ vec : Nat, vec < 72 →
      let masked := (memGet s.ports.msix (16 * vec + 12)).getLsbD 0 = true
      (masked → ∃ t, s.msix vec = t ∧ t.ports.out = s.ports.out ∧ t.cores = s.cores ∧ t.dram = s.dram ∧
        ∀ a b, b < 8 → (memGet t.ports.msix a).getLsbD b =
          ((memGet s.ports.msix a).getLsbD b || decide (a = 0x800 + vec / 8 ∧ b = vec % 8))) ∧
      (¬masked → s.msix vec =
        s.send (.msix vec (memNat s.ports.msix (16 * vec) 8) (memNat s.ports.msix (16 * vec + 8) 4)))) ∧
    let allowed :=
      (v.getLsbD 63 = true → (x.cfg.getLsbD 63 = true → ¬other) ∧
        (v.getLsbD 61 = true → s.pasidTaken n (v.toNat % 2 ^ 20) = false) ∧ 4 ≤ slots ∧ slots ≤ 65536) ∧
      (v.getLsbD 63 = false → x.dead = true → x.drain = false) ∧
      (v.getLsbD 63 = false → x.dead = false → x.cfg.getLsbD 63 = true → ¬other ∧ s.ctxHolds n = false)
    (sched → allowed → exec (.ctxCfgWrite n v) s = .next (s.setCtx n { x with
      cfg := v &&& 0xE0000000000FFFFF, dead := x.dead && v.getLsbD 63
      why := if x.dead = true ∧ v.getLsbD 63 = false then 0 else x.why })) ∧
    (¬sched ∨ ¬allowed → loggedOnly s (exec (.ctxCfgWrite n v) s)) ∧
    (let takes := sched ∧ x.cfg.getLsbD 63 = true ∧ x.sqStop = false ∧ x.dead = false ∧ s.healthState ≠ 2
     (¬takes → loggedOnly s (exec (.sqTailWrite n w) s)) ∧
     (takes → 2 ^ 31 ≤ (w - x.sqTail).toNat →
       exec (.sqTailWrite n w) s = .next ((s.setCtx n { x with sqStop := true, sqCode := 2 }).msix 64)) ∧
     (takes → (w - x.sqTail).toNat < 2 ^ 31 → slots < (w - x.sqHead).toNat →
       exec (.sqTailWrite n w) s = .next ((s.setCtx n { x with sqStop := true, sqCode := 1 }).msix 64)) ∧
     (takes → (w - x.sqTail).toNat < 2 ^ 31 → (w - x.sqHead).toNat ≤ slots →
       ∃ t, exec (.sqTailWrite n w) s = .next t ∧ t.ctx n = { x with sqTail := w } ∧ t.cores = s.cores ∧
         (s.fleet.slpState ≠ 1 → t.dram = s.dram) ∧ mayLose s t ∧
         t.fleet.slpState = (if s.fleet.slpState = 1 then 0 else if s.fleet.slpState = 2 then 3 else s.fleet.slpState))) ∧
    (let named : CtxId := BitVec.ofNat 6 (v.toNat / 2 ^ 48)
     let takes := s.fw.ready.getLsbD 1 = true ∧ (reg = 0 → v.getLsbD 63 = true → (s.ctx named).cfg.getLsbD 63 = true)
     (¬takes → loggedOnly s (exec (.apertureWrite ap reg v) s)) ∧
     (takes → ∃ t a, exec (.apertureWrite ap reg v) s = .next t ∧
       t = { s with ports := { s.ports with apertures := s.ports.apertures.set ap.toNat a } } ∧
       a.cfg = (if reg = 0 then v &&& 0xE03FFF0000000000 else s.ports.apertures[ap.toNat].cfg) ∧
       a.win = (if reg = 1 then v &&& 0x0000007FFFE00000 else s.ports.apertures[ap.toNat].win) ∧
       a.len = (if reg = 2 then v &&& 0x0000007FFFE00000 else s.ports.apertures[ap.toNat].len) ∧
       a.va = (if reg = 3 then v &&& 0x01FFFFFFFFE00000 else s.ports.apertures[ap.toNat].va))) ∧
    exec (.inboundAtomicop off) s = .next (s.send .unsupportedRequest) ∧
    (0 < len → off.toNat % 4096 + len ≤ 4096 →
      (s.fleet.slpState = 2 ∨ s.apertureAt off.toNat = none → unserved s (exec (.inboundRead off len) s) [.completerAbort]) ∧
      (∀ a o, s.fleet.slpState ≠ 2 → s.apertureAt off.toNat = some (a, o) →
        let n : CtxId := BitVec.ofNat 6 (a.cfg.toNat / 2 ^ 48)
        let c := s.core (BitVec.ofNat 8 (a.cfg.toNat / 2 ^ 40))
        let va := a.va.toNat / 2 ^ 21 % 2 ^ 36 * 2 ^ 21 + o
        let reach := o + len ≤ 0x40000 ∧ c.run ≠ .idle ∧ c.run ≠ .dead ∧ c.task.ctx = n
        ((s.ctx n).dead = true → exec (.inboundRead off len) s = .next (s.send (.readDone (List.replicate len 0) false))) ∧
        ((s.ctx n).dead = false → a.cfg.getLsbD 62 = true → reach →
          exec (.inboundRead off len) s = .next (s.send (.readDone (memRead c.scratch o len) false))) ∧
        ((s.ctx n).dead = false → a.cfg.getLsbD 62 = true → ¬reach →
          unserved s (exec (.inboundRead off len) s) [.completerAbort]) ∧
        ((s.ctx n).dead = false → a.cfg.getLsbD 62 = false → s.devPieces n va len false = none →
          unserved (s.walkMarks n va len false) (exec (.inboundRead off len) s) [.completerAbort]) ∧
        (∀ f, (s.ctx n).dead = false → a.cfg.getLsbD 62 = false → s.devPieces n va len false = some [(f, va, len)] →
          (unwatched s n → s.poisoned (f.pa va) len = false →
            ∃ t, exec (.inboundRead off len) s = .next t ∧
              t.ports.out = s.ports.out ++ [.readDone (memRead s.dram (f.pa va) len) false] ∧ t.cores = s.cores ∧
              t.ctxs = s.ctxs ∧ t.sched = s.sched ∧ t.dram = if f.ea = heldAt then s.dram else (s.touch f false).dram) ∧
          (s.poisoned (f.pa va) len = true → ∃ t b, exec (.inboundRead off len) s = .next t ∧
            t.ports.out = s.ports.out ++ [.readDone b true] ∧ t.cores = s.cores ∧
            t.dram = if f.ea = heldAt then s.dram else (s.touch f false).dram)))) ∧
    (len = 0 ∨ 4096 < off.toNat % 4096 + len → exec (.inboundRead off len) s = .next s) ∧
    (0 < data.length → off.toNat % 4096 + data.length ≤ 4096 →
      (s.fleet.slpState = 2 ∨ s.apertureAt off.toNat = none → unserved s (exec (.inboundWrite off data) s) []) ∧
      (∀ a o, s.fleet.slpState ≠ 2 → s.apertureAt off.toNat = some (a, o) →
        let n : CtxId := BitVec.ofNat 6 (a.cfg.toNat / 2 ^ 48)
        let k : CoreId := BitVec.ofNat 8 (a.cfg.toNat / 2 ^ 40)
        let c := s.core k
        let va := a.va.toNat / 2 ^ 21 % 2 ^ 36 * 2 ^ 21 + o
        let reach := o + data.length ≤ 0x40000 ∧ c.run ≠ .idle ∧ c.run ≠ .dead ∧ c.task.ctx = n
        ((s.ctx n).dead = true → exec (.inboundWrite off data) s = .next s) ∧
        ((s.ctx n).dead = false → a.cfg.getLsbD 61 = false → unserved s (exec (.inboundWrite off data) s) []) ∧
        ((s.ctx n).dead = false → a.cfg.getLsbD 61 = true → a.cfg.getLsbD 62 = true → reach →
          ∃ t, exec (.inboundWrite off data) s = .next t ∧ (t.core k).scratch = memWrite c.scratch o data ∧
            (t.core k).regs = c.regs ∧ (∀ j, j ≠ k → t.core j = s.core j) ∧ t.dram = s.dram) ∧
        ((s.ctx n).dead = false → a.cfg.getLsbD 61 = true → a.cfg.getLsbD 62 = true → ¬reach →
          unserved s (exec (.inboundWrite off data) s) []) ∧
        ((s.ctx n).dead = false → a.cfg.getLsbD 61 = true → a.cfg.getLsbD 62 = false →
          s.devPieces n va data.length true = none →
          unserved (s.walkMarks n va data.length true) (exec (.inboundWrite off data) s) []) ∧
        (∀ f, (s.ctx n).dead = false → a.cfg.getLsbD 61 = true → a.cfg.getLsbD 62 = false → unwatched s n →
          s.devPieces n va data.length true = some [(f, va, data.length)] →
          ∃ t, exec (.inboundWrite off data) s = .next t ∧ t.ports.out = s.ports.out ∧ t.cores = s.cores ∧ t.ctxs = s.ctxs ∧
            t.sched = s.sched ∧
            t.dram = memWrite (if f.ea = heldAt then s.dram else (s.touch f true).dram) (f.pa va) data))) ∧
    (data.length = 0 ∨ 4096 < off.toNat % 4096 + data.length → exec (.inboundWrite off data) s = .next s)

/-- R292, R293, R294, R295 and R358: an answer from the host reaches the command that waits for it: read bytes, a translation
held in the core's TLB, a page request's fate; a refused translation faults the command. An invalidate takes the range's entries
from every TLB, and its completion goes out when no command uses them any more. What answers nothing outstanding, or a dead
context, changes nothing; a translation of pages that an invalidate has come for meanwhile, or that one not yet completed names, is
discarded, and asked for again once that is done (R294). A base camp record under way (R345) is apart from its context's death. The statement rests on
log 31 (what the host answers is an operand), log 39 (a completion without the permission asked for sends a page request) and log
46 (invalidate requests past 32 outstanding are ignored). -/
def Obligations.HostAnswers : Prop :=
  ∀ (req : Nat) (data : List Byte) (res : AtsResult) (idx : BitVec 9) (code : PrgCode) (itag : BitVec 5) (pasid : BitVec 20)
    (va size : Word64) (k : CoreId) (tag : BitVec 7) (s : State),
    let c := s.core k
    ((∀ r ∈ s.ports.reads, r.req ≠ req) → exec (.hostReadCompletion req data) s = .next s) ∧
    (∀ r, s.ports.reads.find? (·.req == req) = some r →
      let u : State := { s with ports := { s.ports with reads := s.ports.reads.filter (·.req != req) } }
      ((s.ctx r.ctx).dead = true → (∀ n, r.who ≠ .ring n) → exec (.hostReadCompletion req data) s = .next u) ∧
      (∀ n, r.who = .ring n → exec (.hostReadCompletion req data) s = .next (ringEnd u n true)) ∧
      (∀ t, (s.ctx r.ctx).dead = false → r.who = .tag k tag → c.tag tag.toNat = some t →
        (∀ x, t.phase ≠ .flushing req → t.sent.find? (·.req == req) = some x →
          exec (.hostReadCompletion req data) s = .next (u.setCore k (c.setTag tag.toNat (some { t with
            sent := t.sent.filter (·.req != req), got := t.got ++ [(x.off, data)] })))) ∧
        (t.phase = .flushing req → ∃ v : State, exec (.hostReadCompletion req data) s = .next v ∧
          (v.core k).tag tag.toNat = some { t with owed := 0, phase := .finished } ∧ v.dram = s.dram ∧
          v.ports.reads = u.ports.reads)) ∧
      (∀ m, (s.ctx r.ctx).dead = false → r.who = .drain k m →
        exec (.hostReadCompletion req data) s = .next (u.setCore k { c with hostWrites := c.hostWrites - m }))) ∧
    ((∀ a ∈ s.ports.ats, a.req ≠ req) → exec (.atsTranslationCompletion req res) s = .next s) ∧
    (∀ a, s.ports.ats.find? (·.req == req) = some a →
      let u : State := { s with ports := { s.ports with ats := s.ports.ats.filter (·.req != req) } }
      let granted : Nat := match res with
        | .granted lsz _ _ _ direct => if direct = true then 1 else 2 ^ (min (max lsz 12) 30 - 12)
        | .refused => 1
      let first := a.vpn / granted * granted
      let meets := fun (lo hi : Nat) => lo ≤ first + granted - 1 ∧ first ≤ hi
      ((s.ctx a.ctx).dead = true → (∀ n, a.who ≠ .ring n) → exec (.atsTranslationCompletion req res) s = .next u) ∧
      ((s.ctx a.ctx).dead = false → ((∃ x ∈ a.since, meets x.1 x.2) ∨ ∃ x ∈ s.ports.invs, x.ctx = some a.ctx ∧ meets x.lo x.hi) →
        ∃ t, exec (.atsTranslationCompletion req res) s = .next t ∧ t.cores = s.cores ∧ t.dram = s.dram ∧ t.vm = s.vm ∧
          t.ports.ats = u.ports.ats ∧ t.ports.prgs = s.ports.prgs ∧
          t.ports.invs = s.ports.invs.map fun x =>
            if x.ctx = some a.ctx ∧ meets x.lo x.hi then { x with late := x.late ++ [a.vpn] } else x) ∧
      ((∀ x ∈ a.since, ¬meets x.1 x.2) → (∀ x ∈ s.ports.invs, x.ctx = some a.ctx → ¬meets x.lo x.hi) →
        (s.ctx a.ctx).dead = false → a.who = .tag k tag →
        (∀ lsz hpa r w (direct : Bool), res = .granted lsz hpa r w direct →
          ((a.r = true → r = true) → (a.w = true → w = true) →
            let pages := if direct = true then 1 else 2 ^ (min (max lsz 12) 30 - 12)
            ∃ t x, exec (.atsTranslationCompletion req res) s = .next t ∧ t.ports = u.ports ∧ x ∈ (t.core k).tlb ∧ x.ctx = a.ctx ∧
              x.vpn ≤ a.vpn ∧ a.vpn < x.vpn + pages ∧ x.vpn % pages = 0 ∧ x.pages = pages ∧ x.hr = r ∧ x.hw = w ∧
              (direct = true → x.leaf = .host none) ∧
              (direct = false → x.leaf = .host (some (hpa.toNat / (4096 * pages) * (4096 * pages)))) ∧
              (∀ j, j ≠ k → t.core j = s.core j) ∧ t.dram = s.dram) ∧
          ((a.r = true ∧ r = false) ∨ (a.w = true ∧ w = false) →
            (s.ports.priOn = true → ∃ t p, exec (.atsTranslationCompletion req res) s = .next t ∧ p ∈ t.ports.prgs ∧
              p.ctx = a.ctx ∧ p.vpn = a.vpn ∧ p.r = a.r ∧ p.w = a.w ∧ p.who = a.who ∧ t.cores = s.cores) ∧
            (∀ t, s.ports.priOn = false → c.tag tag.toNat = some t → t.phase = .issued →
              exec (.atsTranslationCompletion req res) s =
                .next (copyFault u k tag.toNat t (fTrans 6 (u.byteIn k t a.vpn)))))) ∧
        (∀ t, res = .refused → c.tag tag.toNat = some t → t.phase = .issued →
          exec (.atsTranslationCompletion req res) s = .next (copyFault u k tag.toNat t (fTrans 3 (u.byteIn k t a.vpn)))))) ∧
    ((∀ p ∈ s.ports.prgs, p.idx ≠ some idx) → loggedOnly s (exec (.prgResponse idx code) s)) ∧
    (∀ p, s.ports.prgs.find? (·.idx == some idx) = some p → (s.ctx p.ctx).dead = false → p.who = .tag k tag →
      (code = .success → ∃ t x, exec (.prgResponse idx code) s = .next t ∧ x ∈ t.ports.ats ∧ x.ctx = p.ctx ∧ x.vpn = p.vpn ∧
        x.r = p.r ∧ x.w = p.w ∧ x.who = p.who ∧ x.since = [] ∧ t.cores = s.cores) ∧
      (∀ t, code = .invalidRequest → c.tag tag.toNat = some t → t.phase = .issued →
        ∃ u : State, u.cores = s.cores ∧ u.dram = s.dram ∧ ∃ v : State, exec (.prgResponse idx code) s = .next v ∧
          v.core k = (copyFault u k tag.toNat t (fTrans 4 (u.byteIn k t p.vpn))).core k)) ∧
    (∀ p, s.ports.prgs.find? (·.idx == some idx) = some p → (s.ctx p.ctx).dead = true → p.who = .tag k tag →
      ∃ t, exec (.prgResponse idx code) s = .next t ∧ t.cores = s.cores ∧ t.dram = s.dram ∧ t.ports.priOn = s.ports.priOn ∧
        ∀ q ∈ t.ports.prgs, ∃ q' ∈ s.ports.prgs, q'.ctx = q.ctx ∧ q'.vpn = q.vpn ∧ q'.who = q.who) ∧
    (∀ p, s.ports.prgs.find? (·.idx == some idx) = some p → (s.ctx p.ctx).dead = false →
      (∀ p ∈ s.ports.prgs, ∃ j m, p.who = .tag j m) → code = .responseFailure →
      ∃ t, exec (.prgResponse idx code) s = .next t ∧ t.ports.prgs = [] ∧ t.ports.priOn = false) ∧
    (let lo := va.toNat / 4096
     let hi := (va.toNat + max size.toNat 1 - 1) / 4096
     (32 ≤ s.ports.invs.length → exec (.atsInvalidateRequest itag pasid va size) s = .next s) ∧
     (s.ports.invs.length < 32 →
       (s.ctxOfPasid pasid = none → exec (.atsInvalidateRequest itag pasid va size) s =
         .next { s with ports := { s.ports with invs := s.ports.invs ++ [⟨itag, none, lo, hi, [], []⟩] } }) ∧
       (∀ m, s.ctxOfPasid pasid = some m → ∃ t, exec (.atsInvalidateRequest itag pasid va size) s = .next t ∧
         t.ports.invs = s.ports.invs ++ [⟨itag, some m, lo, hi, s.usersOf m lo hi, []⟩] ∧
         (∀ j, (t.core j).tlb = (s.core j).tlb.filter fun x => !x.within m lo hi) ∧
         t.vm.tlb = (s.vm.tlb.filter fun x => !x.within m lo hi) ∧
         (∀ x ∈ t.ports.ats, x.ctx = m → (lo, hi) ∈ x.since) ∧ t.dram = s.dram))) ∧
    (s.ports.invs = [] → exec .invalidationCompletion s = .next s) ∧
    (∀ x rest, s.ports.invs = x :: rest →
      ((∃ u ∈ x.users, s.stillUses u = true) → exec .invalidationCompletion s = .next s) ∧
      ((∀ u ∈ x.users, s.stillUses u = false) → exec .invalidationCompletion s =
        .next ({ s with ports := { s.ports with invs := rest } }.send (.invalidateDone x.itag)).progress))

/-- R327, R330, R333, R334, R335 and R360: a write of vm.cmd starts an invalidate, a page-out or a page-in, or ends at once
where its range is none; it is dropped and logged while one runs. A page-out copies a page of device memory to a free slot and
then, if its leaf still has the value read, leaves a flash leaf, and else frees the slot and stops; a page-in fills a free frame from the page's slot and leaves a device leaf; both pass over pages already
there and stop at any other leaf. A command that has ended is not busy. A frame pushed joins its die's free list; a read of
vm.ret pops one. In bivouac, and while the card wakes, a page command waits (R368, R369); a page-in waits for a die whose memory is
not ready (R360, log 32). Which frame is popped and which slot is free is open (log 4); what a page move meets while flash is not
ready, and a full return list, are log 54. -/
def Obligations.TranslationCommands : Prop :=
  ∀ (v : Word64) (die : BitVec 2) (s : State),
    let fw := s.fw.ready.getLsbD 1 = true
    let n : CtxId := BitVec.ofNat 6 (v.toNat / 2 ^ 56)
    let lo := s.vm.base.toNat / 4096 % 2 ^ 45
    let pages := s.vm.npg.toNat
    let hi := lo + pages - 1
    let good := pages ≠ 0 ∧ canonical ((lo * 4096 : Nat) : Int) (pages * 4096) = true
    let flash := s.fw.ready.getLsbD 11 = true
    (¬fw ∨ s.vm.busy ≠ none →
      loggedOnly s (exec (.vmInvalidate (some v)) s) ∧ loggedOnly s (exec (.vmPageOut (some v)) s) ∧
      loggedOnly s (exec (.vmPageIn (some v)) s)) ∧
    (fw → s.vm.busy = none → ¬good →
      exec (.vmInvalidate (some v)) s = .next { s with vm := { s.vm with op := 0, ctx := n, st := 4 } } ∧
      exec (.vmPageOut (some v)) s = .next { s with vm := { s.vm with op := 1, ctx := n, st := 4 } } ∧
      exec (.vmPageIn (some v)) s = .next { s with vm := { s.vm with op := 2, ctx := n, st := 4 } }) ∧
    (fw → s.vm.busy = none → good →
      (∃ t, exec (.vmInvalidate (some v)) s = .next t ∧ t.vm.busy = some ⟨0, n, lo, hi, s.usersOf n lo hi, none, none, none⟩ ∧
        (∀ j, (t.core j).tlb = (s.core j).tlb.filter fun x => !x.within n lo hi) ∧
        t.vm.tlb = (s.vm.tlb.filter fun x => !x.within n lo hi) ∧ t.dram = s.dram) ∧
      exec (.vmPageOut (some v)) s =
        .next { s with vm := { s.vm with op := 1, ctx := n, busy := some ⟨1, n, lo, hi, [], none, none, none⟩ } } ∧
      exec (.vmPageIn (some v)) s =
        .next { s with vm := { s.vm with op := 2, ctx := n, busy := some ⟨2, n, lo, hi, [], none, none, none⟩ } }) ∧
    exec (.vmInvalidate none) s = .next s ∧
    (∀ r : VmRun, s.vm.busy = some r → r.st = none → r.frame = none → 2 ≤ s.fleet.slpState.toNat →
      exec (.vmPageOut none) s = .next s ∧ exec (.vmPageIn none) s = .next s) ∧
    (∀ r : VmRun, s.vm.busy = some r → r.st = none → r.lo ≤ r.hi → r.frame = none → s.fleet.slpState.toNat < 2 →
      let goOn := fun (x : VmRun) => ({ s with vm := { s.vm with busy := some x } } : State)
      (∀ f, s.walk r.ctx (r.lo * 4096) = some f → r.op = 1 → r.taken = none → flash →
        (pteType f.e = 3 → exec (.vmPageOut none) s = .next (goOn { r with lo := r.lo + 1 })) ∧
        (pteType f.e ≠ 3 → pteType f.e ≠ 2 ∨ f.lvl ≠ 0 → exec (.vmPageOut none) s = .next (goOn { r with st := some 2 })) ∧
        (pteType f.e = 2 → f.lvl = 0 → s.pinned r.ctx r.lo = true ∨ s.migrating r.ctx r.lo = true →
          exec (.vmPageOut none) s = .next (goOn { r with st := some 1 })) ∧
        (pteType f.e = 2 → f.lvl = 0 → s.pinned r.ctx r.lo = false → s.migrating r.ctx r.lo = false →
          (s.freeSlot = none → exec (.vmPageOut none) s = .next (goOn { r with st := some 3 })) ∧
          (∀ i, s.freeSlot = some i → ∃ t, exec (.vmPageOut none) s = .next t ∧
            t.slot i = some ⟨false, r.ctx, r.lo, s.frameBytes (pteAddr f.e / 4096), s.framePoison (pteAddr f.e / 4096)⟩ ∧
            t.vm.busy = some { r with taken := some (i, f.ea, f.e) } ∧ t.dram = s.dram ∧ t.cores = s.cores))) ∧
      (∀ i ea e, r.op = 1 → r.taken = some (i, ea, e) →
        (memNat s.dram ea 8 = e → ∃ t, exec (.vmPageOut none) s = .next t ∧ t.slots = s.slots ∧
          t.dram = memWrite s.dram ea (toBytes 8 (leafWith 3 (homeDie (pteAddr e) * 2 ^ 31 + i) e)) ∧
          t.vm.busy = some { r with users := s.usersOf r.ctx r.lo r.lo, frame := some (pteAddr e / 4096), taken := none } ∧
          ∀ j, (t.core j).tlb = (s.core j).tlb.filter fun x => !x.within r.ctx r.lo r.lo) ∧
        (memNat s.dram ea 8 ≠ e → ∃ t, exec (.vmPageOut none) s = .next t ∧
          t.vm.busy = some { r with st := some 2, taken := none } ∧ t.slot i = none ∧
          (∀ j, j ≠ i → t.slot j = s.slot j) ∧ t.dram = s.dram ∧ t.cores = s.cores)) ∧
      (s.walk r.ctx (r.lo * 4096) = none → r.op = 1 → r.taken = none → flash →
        exec (.vmPageOut none) s = .next (goOn { r with st := some 2 })) ∧
      (∀ f, s.walk r.ctx (r.lo * 4096) = some f → r.op = 2 →
        (pteType f.e = 2 → exec (.vmPageIn none) s = .next (goOn { r with lo := r.lo + 1 })) ∧
        (pteType f.e ≠ 2 → pteType f.e ≠ 3 → exec (.vmPageIn none) s = .next (goOn { r with st := some 2 })) ∧
        (pteType f.e = 3 → ¬flash ∨ s.fw.ready.getLsbD (3 + pteDie f.e) = false ∨ (s.freeList (pteDie f.e) = [] ∧
            ∀ x, s.slot (pteSlot f.e) = some x → x.bad = false) → exec (.vmPageIn none) s = .next s) ∧
        (∀ x, pteType f.e = 3 → flash → s.fw.ready.getLsbD (3 + pteDie f.e) = true → s.slot (pteSlot f.e) = some x → x.ctx = r.ctx → x.vpn = r.lo → x.bad = false →
          s.freeList (pteDie f.e) ≠ [] → Memory.wf s.dram = true →
          ∃ t fr, exec (.vmPageIn none) s = .next t ∧ fr ∈ s.freeList (pteDie f.e) ∧
            t.vm.busy = some { r with lo := r.lo + 1 } ∧ t.freeList (pteDie f.e) = (s.freeList (pteDie f.e)).erase fr ∧
            t.slot (pteSlot f.e) = none ∧ memRead t.dram f.ea 8 = toBytes 8 (leafWith 2 fr f.e) ∧
            ∀ a, a < f.ea ∨ f.ea + 8 ≤ a → memGet t.dram a =
              if a / 4096 = fr then memGet x.bytes (a % 4096) else memGet s.dram a))) ∧
    (∀ (r : VmRun) fr, s.vm.busy = some r → r.op = 1 → r.st = none → r.frame = some fr →
      ((∀ u ∈ r.users, s.stillUses u = false) → s.vm.ret.length < 65535 →
        ∃ t, exec (.vmPageOut none) s = .next t ∧ t.vm.ret = s.vm.ret ++ [fr] ∧
          t.vm.busy = some { r with frame := none, users := [], lo := r.lo + 1 } ∧ t.dram = s.dram ∧ t.cores = s.cores) ∧
      ((∃ u ∈ r.users, s.stillUses u = true) ∨ 65535 ≤ s.vm.ret.length → exec (.vmPageOut none) s = .next s)) ∧
    (s.vm.busy = none → exec .vmCommandDone s = .next s) ∧
    (∀ r : VmRun, s.vm.busy = some r →
      (∀ e, r.st = some e → exec .vmCommandDone s = .next { s with vm := { s.vm with
        busy := none, st := e, base := BitVec.ofNat 64 (r.lo * 4096), npg := BitVec.ofNat 32 (r.hi + 1 - r.lo) } }) ∧
      (r.st = none → r.op = 0 →
        ((∀ u ∈ r.users, s.stillUses u = false) → exec .vmCommandDone s = .next { s with vm := { s.vm with busy := none, st := 0 } }) ∧
        ((∃ u ∈ r.users, s.stillUses u = true) → exec .vmCommandDone s = .next s)) ∧
      (r.st = none → r.op ≠ 0 →
        (r.hi < r.lo → r.frame = none → exec .vmCommandDone s = .next { s with vm := { s.vm with busy := none, st := 0 } }) ∧
        (r.lo ≤ r.hi ∨ r.frame ≠ none → exec .vmCommandDone s = .next s))) ∧
    (let fr := v.toNat / 4096 % 2 ^ 27
     let list := s.freeList die.toNat
     let takes := fw ∧ homeDie (fr * 4096) = die.toNat ∧ frameRefused s.fw.ready (fr * 4096) = false ∧ list.length < 65535
     (¬takes → loggedOnly s (exec (.vmFreePush die v) s)) ∧
     (takes → ∃ u : State, exec (.vmFreePush die v) s = .next (vmStep u.progress) ∧ u.freeList die.toNat = list ++ [fr] ∧
       (∀ d, d ≠ die.toNat → u.freeList d = s.freeList d) ∧ u.cores = s.cores ∧ u.dram = s.dram)) ∧
    (let starved := if s.vmStarved = true then 2 ^ 62 else 0
     (¬fw → exec .vmRetRead s = .next (s.send (.readDone (List.replicate 8 0) false))) ∧
     (fw → s.vm.ret = [] → exec .vmRetRead s = .next (s.send (.readDone (toBytes 8 starved) false))) ∧
     (fw → s.vm.ret ≠ [] → ∃ u fr, fr ∈ s.vm.ret ∧ u.vm.ret = s.vm.ret.erase fr ∧ u.cores = s.cores ∧ u.dram = s.dram ∧
       exec .vmRetRead s = .next ((vmStep (unholdFrame u).progress).send
         (.readDone (toBytes 8 (2 ^ 63 + starved + fr * 4096)) false))))

namespace Sys2Proof.Claims

/-- A port without its link (R299): nothing to replay, to send, or taken in part; sequence numbers and credits start again. -/
def cutPort (p : Peer) : Peer :=
  { p with
    up := false, fseq := 0, expect := 0, nakSent := false, replay := [], resends := 0, sinceAck := 0, downUs := 0
    reqCredits := 0, rspCredits := 0, owedReq := 0, owedRsp := 0, reqOut := [], rspOut := [], rxReq := [], rxRsp := [], ackDue := 0 }

/-- A port with nothing to send, and room in its replay buffer. -/
def clearPort (p : Peer) : Prop := p.reqOut = [] ∧ p.rspOut = [] ∧ p.replay.length + 1 < 512

/-- A flit that a port sends, and what it carries (R298): its crc is right, and it keeps it until an ack. -/
def sends (s : State) (pt : Bool) (t : State) (f : PeerFlit) (vc ak : Nat) (payload : List Byte) : Prop :=
  t.ports.out = s.ports.out ++ [.flit pt f] ∧ flitOk f = true ∧ f.fseq = (s.peer pt).fseq ∧ f.vc = BitVec.ofNat 2 vc ∧
  f.ak = BitVec.ofNat 2 ak ∧ f.payload = payload ∧ (t.peer pt).fseq = (s.peer pt).fseq + 1 ∧ f ∈ (t.peer pt).replay

/-- The messages that fit the fields of their header. -/
def wellSized (m : PeerMsg) : Prop :=
  match m with
  | .command _ _ _ _ (.read _ len) => len ≤ 4096
  | .command _ _ _ _ (.write _ d) => d.length ≤ 4096
  | .command _ _ _ _ (.atom _ aop size v cmp) => aop < 256 ∧ size < 256 ∧ v < 2 ^ 64 ∧ cmp < 2 ^ 64
  | .response _ _ d => d.length ≤ 4096

/-- The copy fault of an outcome other than ok (R297, R343): fault and sub. -/
def outcomeFault (st : PeerStatus) : Nat × Nat :=
  match st with
  | .ok => (0, 0) | .isolation => (4, 1) | .translation => (5, 0) | .permission => (5, 2) | .pkey => (7, 0)
  | .poison => (15, 0) | .unsupported => (13, 0)

end Sys2Proof.Claims

/-- R297 to R302, R343 and R360: a port whose link is up accepts the flit it expects, frees what the flit acknowledges, answers
a command with one response and hands a response's bytes, or its fault, to the command that waits; it answers any other flit with
one nak. A request or a response goes only with a credit of its channel and while the replay buffer has room. Flits and commands
without an answer in time are sent again, and eight times in vain retrains the link; a link that comes up sends every waiting
command again; a port that does not come up fails. That a message is cut into payloads and put together again is the model's
layout (log 7, DESIGN CHOICE), as is the number of credits with which a link comes up. The outcomes of a far command rest on log 55
(it reaches device leaves, an atomic's host page excepted), log 61 (a refused or poisoned one sets bits a and d on the leaves that it
has walked) and log 25 (which leaf base camp's TLB gives after a change); there the clauses are the model's choice. -/
def Obligations.PeerLinks : Prop :=
  ∀ (port : BitVec 1) (flit : PeerFlit) (cseq : BitVec 32) (s : State),
    let pt := port == 1
    let p := s.peer pt
    let ready := s.fw.ready.getLsbD (12 + port.toNat) = true
    let good := flitOk flit = true ∧ flit.fseq = p.expect
    let noRecord := s.sched.ringOut = []
    let zeros : List Byte := List.replicate 240 0
    (∀ m, wellSized m → ((msgPayloads m).foldl (fun g b => gatherMsg g.2 b) (none, [])) = (some m, []) ∧
      (∀ b ∈ msgPayloads m, b.length = 240) ∧ 240 * ((msgPayloads m).length - 1) < (msgBytes m).length ∧
      (msgBytes m).length ≤ 240 * (msgPayloads m).length) ∧
    (let q := (pump s pt).peer pt
     q.replay.length ≤ max 512 p.replay.length ∧ p.reqOut.length + q.reqCredits = q.reqOut.length + p.reqCredits ∧
     p.rspOut.length + q.rspCredits = q.rspOut.length + p.rspCredits ∧ (pump s (!pt)).peer pt = p) ∧
    (p.up = false → exec (.peerFlitReceive port flit) s = .next s) ∧
    (p.up = true → ¬good →
      (p.nakSent = true → exec (.peerFlitReceive port flit) s = .next s) ∧
      (p.nakSent = false → clearPort p → ∃ t f, exec (.peerFlitReceive port flit) s = .next t ∧ sends s pt t f 2 2 zeros ∧
        f.aseq = p.expect - 1 ∧ (t.peer pt).nakSent = true ∧ (t.peer pt).expect = p.expect ∧ t.cores = s.cores ∧
        t.dram = s.dram)) ∧
    (p.up = true → good → noRecord → 2 ≤ flit.vc.toNat → flit.ak ≠ 2 →
      let acked := if flit.ak = 1 then p.replay.filter (fun g => decide (2048 ≤ (flit.aseq - g.fseq).toNat)) else p.replay
      (clearPort p →
        ∃ t f, exec (.peerFlitReceive port flit) s = .next t ∧ sends s pt t f 2 1 zeros ∧ f.aseq = flit.fseq ∧
          (t.peer pt).expect = p.expect + 1 ∧ (t.peer pt).nakSent = false ∧ (t.peer pt).replay = acked ++ [f] ∧
          (t.peer pt).reqCredits = p.reqCredits + flit.reqCredits.toNat ∧
          (t.peer pt).rspCredits = p.rspCredits + flit.rspCredits.toNat ∧ t.cores = s.cores ∧ t.dram = s.dram) ∧
      (∀ b, p.rspOut = [] → p.reqOut = [b] → p.replay.length + 1 < 512 → b.length = 240 →
        let may := 0 < p.reqCredits + flit.reqCredits.toNat
        ∃ t f, exec (.peerFlitReceive port flit) s = .next t ∧ f.aseq = flit.fseq ∧ t.cores = s.cores ∧ t.dram = s.dram ∧
          (may → sends s pt t f 0 1 b ∧ (t.peer pt).reqOut = [] ∧
            (t.peer pt).reqCredits + 1 = p.reqCredits + flit.reqCredits.toNat) ∧
          (¬may → sends s pt t f 2 1 zeros ∧ (t.peer pt).reqOut = [b]))) ∧
    (p.up = true → good → flit.ak = 0 → flit.vc.toNat ≤ 1 →
      let held := if flit.vc = 0 then p.rxReq else p.rxRsp
      let b := held ++ flit.payload
      b.length < 48 + msgData b → clearPort p → noRecord →
        ∃ t f, exec (.peerFlitReceive port flit) s = .next t ∧ sends s pt t f 2 1 zeros ∧ t.cores = s.cores ∧ t.dram = s.dram ∧
          (flit.vc = 0 → (t.peer pt).rxReq = b) ∧ (flit.vc = 1 → (t.peer pt).rxRsp = b)) ∧
    (∀ cq lw n far op, p.up = true → good → flit.ak = 0 → flit.vc = 0 → p.rxReq = [] → 48 + msgData flit.payload ≤ 240 →
      msgOf flit.payload = .command cq lw n far op → clearPort p → noRecord → 0 < p.rspCredits + flit.rspCredits.toNat →
      let live := fun (m : PeerKept) => decide ((m.cseq - lw).toNat < 2 ^ 31)
      let answers := fun (t : State) (m : PeerMsg) =>
        ∃ f, exec (.peerFlitReceive port flit) s = .next t ∧ (∀ b, msgPayloads m = [b] → sends s pt t f 1 1 b) ∧
          f.aseq = flit.fseq ∧ ⟨cq, m⟩ ∈ (t.peer pt).kept ∧ t.cores = s.cores
      (∀ m st d, p.kept.find? (fun m => live m && m.cseq == cq) = some m → m.msg = .response cq st d → (∃ b, msgPayloads m.msg = [b]) →
        ∃ t, answers t m.msg ∧ t.dram = s.dram) ∧
      (p.kept.find? (fun m => live m && m.cseq == cq) = none →
        (p.far far ≠ some n → ∃ t, answers t (.response cq .isolation []) ∧ t.dram = s.dram) ∧
        (p.far far = some n → (s.ctx far).dead = true →
          (∀ va len, op = .read va len → len ≤ 192 → ∃ t, answers t (.response cq .ok (List.replicate len 0)) ∧ t.dram = s.dram) ∧
          (∀ va data, op = .write va data → ∃ t, answers t (.response cq .ok []) ∧ t.dram = s.dram)) ∧
        (p.far far = some n → (s.ctx far).dead = false →
          (∀ va len, op = .read va len → 0 < len → va.toNat % 4096 + len ≤ 4096 →
            ((∀ f, s.campLeaf far va.toNat = some f → pteType f.e ≠ 2) →
              ∃ t, answers t (.response cq .translation []) ∧ t.dram = (s.walkMarks far va.toNat len false).dram) ∧
            (∀ f, s.campLeaf far va.toNat = some f → pteType f.e = 2 → pteR f.e = false →
              ∃ t, answers t (.response cq .permission []) ∧ t.dram = (s.walkMarks far va.toNat len false).dram) ∧
            (∀ f, s.campLeaf far va.toNat = some f → pteType f.e = 2 → pteR f.e = true →
              (s.poisoned (f.pa va.toNat) len = true →
                ∃ t, answers t (.response cq .poison []) ∧ t.dram = if f.ea = heldAt then s.dram else (s.touch f false).dram) ∧
              (s.poisoned (f.pa va.toNat) len = false → unwatched s far → len ≤ 192 →
                ∃ t, answers t (.response cq .ok (memRead s.dram (f.pa va.toNat) len)) ∧
                  t.dram = if f.ea = heldAt then s.dram else (s.touch f false).dram))) ∧
          (∀ va data, op = .write va data → 0 < data.length → va.toNat % 4096 + data.length ≤ 4096 →
            (∀ f, s.campLeaf far va.toNat = some f → pteType f.e = 2 → pteW f.e = true → unwatched s far →
              ∃ t, answers t (.response cq .ok []) ∧
                t.dram = memWrite (if f.ea = heldAt then s.dram else (s.touch f true).dram) (f.pa va.toNat) data ∧
                (s.fleet.slpState ≠ 1 → ∀ u ∈ t.unsaved, u.addr < f.pa va.toNat ∨ f.pa va.toNat + data.length ≤ u.addr)) ∧
            (∀ f, s.campLeaf far va.toNat = some f → pteType f.e = 2 → pteW f.e = false →
              ∃ t, answers t (.response cq .permission []) ∧ t.dram = (s.walkMarks far va.toNat data.length true).dram)) ∧
          (∀ va aop v cmp f, op = .atom va aop 8 v cmp → va.toNat % 8 = 0 → s.campLeaf far va.toNat = some f →
            pteType f.e = 5 → pteR f.e = true → pteW f.e = true →
              ∃ t, answers t (.response cq .unsupported []))))) ∧
    (∀ cq data st c k tag t x, p.up = true → good → noRecord → flit.ak = 0 → flit.vc = 1 → p.rxRsp = [] →
      48 + msgData flit.payload ≤ 240 → msgOf flit.payload = .response cq st data →
      p.waiting.find? (·.cseq == cq) = some c → (s.ctx c.ctx).dead = false → c.who = .tag k tag →
      (s.core k).tag tag.toNat = some t → t.sent.find? (·.req == c.req) = some x →
      (∀ va n, st = .ok → c.op = .read va n →
        (data.length = n → ∃ u, exec (.peerFlitReceive port flit) s = .next u ∧ (u.core k).tag tag.toNat = some { t with
          sent := t.sent.filter (·.req != c.req), got := t.got ++ [(x.off, data)] } ∧
          (u.peer pt).waiting = p.waiting.filter (·.cseq != cq) ∧ ∀ j, j ≠ k → u.core j = s.core j) ∧
        (data.length ≠ n → ∃ u, exec (.peerFlitReceive port flit) s = .next u ∧ u.cores = s.cores ∧
          (u.peer pt).waiting = p.waiting)) ∧
      (st ≠ .ok → ∃ u v : State, exec (.peerFlitReceive port flit) s = .next u ∧ v.cores = s.cores ∧ v.ctxs = s.ctxs ∧
        (u.core k) = (answerFault v k tag.toNat t
          ⟨(outcomeFault st).1, (outcomeFault st).2, some (match c.op with
            | .read va _ => va.toNat | .write va _ => va.toNat | .atom va _ _ _ _ => va.toNat)⟩).core k)) ∧
    (p.up = false ∨ p.sinceAck < 4 ∨ p.replay = [] → exec (.peerReplayTimeout port) s = .next s) ∧
    (p.up = true → 4 ≤ p.sinceAck → p.replay ≠ [] →
      (p.resends < 8 → ∃ t, exec (.peerReplayTimeout port) s = .next t ∧ t.ports.out = s.ports.out ++ p.replay.map (.flit pt) ∧
        t.peer pt = { p with resends := p.resends + 1, sinceAck := 0 } ∧ t.cores = s.cores ∧ t.dram = s.dram) ∧
      (8 ≤ p.resends → exec (.peerReplayTimeout port) s = .next (s.setPeer pt { cutPort p with trains := p.trains + 1 }))) ∧
    ((∀ c ∈ p.waiting, c.cseq ≠ cseq) → exec (.peerCommandTimeout port cseq) s = .next s) ∧
    (∀ c, p.waiting.find? (·.cseq == cseq) = some c →
      (p.up = false ∨ c.us < 1000 → exec (.peerCommandTimeout port cseq) s = .next s) ∧
      (∀ b, p.up = true → 1000 ≤ c.us → clearPort p → 0 < p.reqCredits →
        msgPayloads (.command c.cseq p.lowWater c.ctx c.far c.op) = [b] →
        ∃ t f, exec (.peerCommandTimeout port cseq) s = .next t ∧ sends s pt t f 0 p.ackDue.toNat b ∧
          (t.peer pt).reqCredits + 1 = p.reqCredits ∧ t.cores = s.cores ∧ t.dram = s.dram)) ∧
    (p.up = false → p.failed = false → ready → noRecord → ∃ t, exec (.peerLinkUp port) s = .next t ∧
      (t.peer pt).up = true ∧ (t.peer pt).waiting.map (·.cseq) = p.waiting.map (·.cseq) ∧ t.cores = s.cores ∧ t.dram = s.dram ∧
      (p.waiting = [] → t = s.setPeer pt { cutPort p with
        up := true, reqCredits := Config.peerCredits + 1, rspCredits := Config.peerCredits + 1 }) ∧
      (∀ c b, p.waiting = [c] → msgPayloads (.command c.cseq c.cseq c.ctx c.far c.op) = [b] →
        ∃ f, t.ports.out = s.ports.out ++ [.flit pt f] ∧ f.vc = 0 ∧ f.fseq = 0 ∧ f.payload = b)) ∧
    (p.up = true ∨ p.failed = true ∨ ¬ready → exec (.peerLinkUp port) s = .next s ∧ exec (.peerPortFailed port) s = .next s) ∧
    (p.up = false → p.failed = false → ready →
      (p.downUs < 100000 → exec (.peerPortFailed port) s = .next s) ∧
      (100000 ≤ p.downUs →
        let dead := (s.setPeer pt { cutPort p with failed := true, waiting := [] }).msix 65
        (p.waiting = [] → noRecord → exec (.peerPortFailed port) s = .next dead) ∧
        (∀ c k tag t, p.waiting = [c] → (s.ctx c.ctx).dead = false → c.who = .tag k tag → (s.core k).tag tag.toNat = some t →
          (∃ x ∈ t.sent, x.req = c.req) → exec (.peerPortFailed port) s =
            .next (answerFault dead k tag.toNat t ⟨4, 2, some (match c.op with
              | .read va _ => va.toNat | .write va _ => va.toNat | .atom va _ _ _ _ => va.toNat)⟩).rings))) ∧
    (¬ready → loggedOnly s (exec (.peerFailedClear port) s)) ∧
    (ready → p.failed = true → exec (.peerFailedClear port) s = .next (s.setPeer pt { p with failed := false, downUs := 0 })) ∧
    (ready → p.failed = false → exec (.peerFailedClear port) s = .next s)


/-! ## Firmware, sleep, power, errors, the register window -/

/-- R361 to R365, R377 to R379 and R360: a cold reset and a loss of power leave what the NAND holds and nothing of the cores,
the contexts or memory; a step of bring-up that has come due sets its ready bit or counts a failure; a firmware image runs where
it passes the checks of R363. Recovery and update read their image from the host and end with the code of what they found; an update
erases the region once its image has passed the checks, and a loss of power from then until the new image has been written leaves
none; the identity answers an SPDM request once the security engine is ready. The codes and bodies of SPDM are DMTF's (log 19,
PRESUMED); what a cold reset keeps and the reset values the manual does not state are log 6; a go while one is under way is log 41. -/
def Obligations.FirmwareAndIdentity : Prop :=
  ∀ (k : BitVec 4) (r : StepResult) (v : Word64) (b : List Byte) (req : SpdmRequest) (u : UpdResult) (s : State),
    let f := s.fw
    let x := s.boot k
    let start := fun (y : BootStep) (j : Nat) =>
      let alt := 3 ≤ j ∧ j ≠ 14
      (⟨y.bad, decide (alt ∧ y.fails = 1), decide (alt ∧ 2 ≤ y.fails.toNat), false, y.fails, false⟩ : BootStep)
    let restarted := fun (t : State) => t.cores = [] ∧ t.ctxs = [] ∧ t.dram = [] ∧ t.sched = Sched.reset ∧ t.vm = Vm.reset ∧
      t.fleet = Fleet.reset ∧ t.lanes = [] ∧ t.slots = s.slots ∧ t.fw.ready = 0 ∧ t.fw.minsvn = f.minsvn ∧ t.fw.fatal = f.fatal ∧
      t.ports.prgs = [] ∧ t.ports.reads = [] ∧ ∀ j, t.boot j = start (s.boot j) j.toNat
    (∃ t, exec .coldReset s = .next t ∧ restarted t ∧ t.fw.nand = f.nand) ∧
    (∃ t, exec .powerLoss s = .next t ∧ restarted t ∧ t.fw.nand = f.nand ∧ t.fw.updBusy = false ∧ t.fw.updWrite = none) ∧
    (x.ended = true ∨ x.skip = true ∨ s.mayRun k.toNat = false ∨ s.fleet.slpState = 2 → exec (.bringupStep k r) s = .next s) ∧
    (x.ended = false → x.skip = false → s.mayRun k.toNat = true → s.fleet.slpState ≠ 2 →
      ∃ t, exec (.bringupStep k r) s = .next t ∧ (t.boot k).ended = true ∧ (∀ j, j ≠ k → t.boot j = s.boot j) ∧
        t.cores = s.cores ∧ t.dram = s.dram ∧
        (let ok := if k = 1 then r.ok && (match f.nand with | some b => imageWhy b f.minsvn == 0 | none => false)
           else if 3 ≤ k.toNat ∧ k.toNat ≤ 6 then r.channels == 0xFFF else r.ok
         (ok = true → t.fw.ready = (f.ready ||| BitVec.ofNat 16 (2 ^ k.toNat)) ∧ (t.boot k).fails = 0 ∧ (t.boot k).bad = false) ∧
         (ok = false → t.fw.ready = f.ready ∧ (t.boot k).fails.toNat = min 255 (x.fails.toNat + 1) ∧ (t.boot k).bad = true) ∧
         (k = 1 → ok = true → t.fw.state = 1 ∧ ∀ b, f.nand = some b → t.fw.svn = imageSvn b ∧ t.fw.image = b.take (imageLen b)) ∧
         (k = 1 → ok = false → t.fw.state = 2))) ∧
    (∃ t, exec (.bootStepClear k) s = .next t ∧ t.boot k = { x with fails := 0 } ∧ (∀ j, j ≠ k → t.boot j = s.boot j) ∧
      t.fw.ready = f.ready ∧ t.cores = s.cores) ∧
    (let len : BitVec 26 := BitVec.ofNat 26 v.toNat
     (f.recBusy = true → loggedOnly s (exec (.recoveryLoad v) s)) ∧
     (f.recBusy = false → f.state ≠ 2 →
       exec (.recoveryLoad v) s = .next { s with fw := { f with recLen := len, recSt := 6 } }) ∧
     (f.recBusy = false → f.state = 2 → exec (.recoveryLoad v) s = .next
       ({ s with fw := { f with recLen := len, recBusy := true } }.send
         (.firmwareRead (f.recBase.toNat / 4096 * 4096) len.toNat))) ∧
     (f.recBusy = false → exec (.recoveryLoadDone none) s = .next s ∧ exec (.recoveryLoadDone (some b)) s = .next s) ∧
     (f.recBusy = true →
       exec (.recoveryLoadDone none) s = .next { s with fw := { f with recBusy := false, recSt := 7 } } ∧
       (hostImageWhy b f.recLen f.minsvn ≠ 0 → exec (.recoveryLoadDone (some b)) s = .next { s with fw := { f with
         recBusy := false, recSt := BitVec.ofNat 6 (hostImageWhy b f.recLen f.minsvn) } }) ∧
       (hostImageWhy b f.recLen f.minsvn = 0 → ∃ t, exec (.recoveryLoadDone (some b)) s = .next t ∧
         t.fw = { f with
           recBusy := false, recSt := 0, state := 3, svn := imageSvn b, ver := BitVec.ofNat 64 (natAt b 16 8)
           image := b.take (imageLen b), ready := f.ready ||| 2 } ∧ t.cores = s.cores ∧ t.dram = s.dram)) ∧
     (let fw := f.ready.getLsbD 1 = true
      let may := (f.state = 1 ∨ f.state = 3) ∧ f.ready.getLsbD 11 = true ∧ f.updBusy = false
      let fits := ∃ b, f.nand = some b ∧ f.svn.toNat ≤ (imageSvn b).toNat
      (¬fw → loggedOnly s (exec (.updWriteImage v) s) ∧ loggedOnly s (exec (.updRaiseMinimum v) s)) ∧
      (fw → ¬may → exec (.updWriteImage v) s = .next { s with fw := { f with updLen := len, updSt := 6 } }) ∧
      (fw → may → exec (.updWriteImage v) s = .next
        ({ s with fw := { f with updLen := len, updBusy := true } }.send
          (.firmwareRead (f.updBase.toNat / 4096 * 4096) len.toNat))) ∧
      (fw → f.state = 1 → fits → exec (.updRaiseMinimum v) s =
        .next { s with fw := { f with updLen := len, minsvn := f.svn, updSt := 0 } }) ∧
      (fw → f.state ≠ 1 ∨ ¬fits → exec (.updRaiseMinimum v) s = .next { s with fw := { f with updLen := len, updSt := 6 } }))) ∧
    (f.updBusy = false → exec (.updWriteDone u) s = .next s) ∧
    (f.updBusy = true →
      (∀ img, f.updWrite = some img →
        (u.nandOk = true → exec (.updWriteDone u) s =
          .next { s with fw := { f with updBusy := false, updSt := 0, nand := some img, updWrite := none } }) ∧
        (u.nandOk = false → exec (.updWriteDone u) s =
          .next { s with fw := { f with updBusy := false, updSt := 8, nand := none, updWrite := none } })) ∧
      (f.updWrite = none → u.image = none → exec (.updWriteDone u) s = .next { s with fw := { f with updBusy := false, updSt := 7 } }) ∧
      (f.updWrite = none → u.image = some b →
        (hostImageWhy b f.updLen f.minsvn ≠ 0 → exec (.updWriteDone u) s = .next { s with fw := { f with
          updBusy := false, updSt := BitVec.ofNat 5 (hostImageWhy b f.updLen f.minsvn) } }) ∧
        (hostImageWhy b f.updLen f.minsvn = 0 → exec (.updWriteDone u) s =
          .next { s with fw := { f with nand := none, updWrite := some (b.take (imageLen b)) } }))) ∧
    (f.ready.getLsbD 2 = false → ∃ c, exec (.spdmRequest req) s = .next (s.send (.spdmError c))) ∧
    (f.ready.getLsbD 2 = true →
      (∃ c, exec (.spdmRequest .negotiateAlgorithms) s = .next (s.send (.spdm c (toBytes 4 0x80 ++ toBytes 4 0x02)))) ∧
      (∃ c, exec (.spdmRequest .getDigests) s = .next (s.send (.spdm c (sha384 Config.certificates)))) ∧
      (∃ c, exec (.spdmRequest (.getCertificate 0)) s = .next (s.send (.spdm c Config.certificates))) ∧
      (∀ i, i ≠ 0 → ∃ c, exec (.spdmRequest (.getCertificate i)) s = .next (s.send (.spdmError c))) ∧
      (∀ nonce, ∃ c, exec (.spdmRequest (.getMeasurements 2 nonce)) s = .next
        (s.send (.spdm c (sha384 f.image ++ Config.identitySign (nonce ++ sha384 f.image))))) ∧
      (∀ nonce, ∃ c, exec (.spdmRequest (.getMeasurements 4 nonce)) s = .next
        (s.send (.spdm c (f.boot.toList.map (·.fails) ++ Config.identitySign (nonce ++ f.boot.toList.map (·.fails)))))) ∧
      (∀ i nonce, 5 < i → i ≠ 255 → ∃ c, exec (.spdmRequest (.getMeasurements i nonce)) s = .next (s.send (.spdmError c))))

/-- R15, R16, R102, R366 to R376, R359, R360, R363, R283 to R285, R4 and R5: an entry to bivouac, aborted or not, may lose writes to
device memory that were not durable, and no others; sleep is entered and left from the states that allow it, its steps wait for what
they name, and an entry that has not drained within its limit is aborted; no counter counts while every die is off. Once in a
millisecond an evaluation of the power manager sets each die's clock from the cap's grant, lowers a hot die's, powers off every die at
110 degrees, keeps what it measured, and counts the window that has ended; power is at or below 600 W always, and from the second one after a write of pwr.cap, power is at or below the cap unless every die that runs is at 475 MHz. An
error corrected is counted and logged, a cached entry that fails is discarded, and an error that is not corrected poisons its unit,
marks its slot, zeroes an idle core's block, or kills the context whose storage it struck; one of base camp's own is fatal. A register reads as its bits stand, and as zero while its function is
not ready; a write reaches its RW bits alone, one of a half that is read-only is ignored, and one of another size, or of a function
that is not ready, is dropped and logged. The statement rests on log 32 and log 35 (register blocks, 4-byte writes), log 33 and log
44 (what bivouac drops, and when its steps act), log 43 (the block of an uncorrected error, the entry a parity failure discards), log 57 and log 63 (a measurement that
the power manager does not let come about changes nothing; which window an evaluation ends) and log 64 (which writes are lost is
open). -/
def Obligations.FleetAndRegisters : Prop :=
  ∀ (m : PowerSample) (pa : BitVec 39) (k : CoreId) (block : Nat) (slot : BitVec 31) (off : BitVec 24) (size : Nat) (v : Word64)
    (n : CtxId) (s : State),
    let f := s.fleet
    let one : Word64 := if s.fw.ready.toNat / 2 ^ 7 % 2 ^ 4 = 0 then 0 else 1
    let idle := s.allIdle = true
    let aborted := fun (t : State) => t.fleet = { f with slpState := 0, slpCode := 2 } ∧ mayLose s t ∧ t.cores = s.cores ∧
      t.ctxs = s.ctxs ∧ t.sched = s.sched ∧ t.fw = s.fw ∧ t.ports = s.ports
    let inTime := f.slpDrained = true ∨ f.slpUs < max f.slpTo.toNat 1 * 1000
    (f.slpState = 0 → exec .slpEnter s = .next { s with fleet := { f with
      slpState := 1, slpUs := 0, slpDrained := false } }) ∧
    (f.slpState ≠ 0 → exec .slpEnter s = .next { s with fleet := { f with slpCode := 3 } }) ∧
    (f.slpState = 2 → ∃ t, exec .slpWake s = .next t ∧ t.fleet = { f with slpState := 3, slpUs := 0, slpWaking := true, slpWakeUs := 0 } ∧ t.cores = s.cores ∧
      t.dram = s.dram ∧ t.fw.ready = s.fw.ready) ∧
    (f.slpState ≠ 2 → exec .slpWake s = .next { s with fleet := { f with slpCode := 3 } }) ∧
    (f.slpState = 1 → idle ∨ f.slpDrained = true → inTime → s.fw.updBusy = false → ∃ t, exec .bivouacEntryDrained s = .next t ∧ t.fleet.slpState = 2 ∧
      t.fw.ready = s.fw.ready &&& 0x4007 ∧ (∀ p, (t.peer p).up = false) ∧ (∀ j, (t.core j).scratch = [] ∧ (t.core j).regs = [] ∧
        (t.core j).run = .idle ∧ (t.core j).relScopes = (s.core j).relScopes) ∧ mayLose s t ∧ t.unsaved = [] ∧ t.sched = s.sched ∧ t.ctxs = s.ctxs) ∧
    (f.slpState = 1 → idle ∨ f.slpDrained = true → inTime → s.fw.updBusy = true →
      exec .bivouacEntryDrained s = .next { s with fleet := { f with slpDrained := true } }) ∧
    (f.slpState = 1 → idle → ¬inTime → ∃ t, exec .bivouacEntryDrained s = .next t ∧ aborted t) ∧
    (f.slpState ≠ 1 ∨ (¬idle ∧ f.slpDrained = false) → exec .bivouacEntryDrained s = .next s) ∧
    (f.slpState = 1 → ¬inTime → ∃ t, exec .bivouacEntryTimeout s = .next t ∧ aborted t) ∧
    (f.slpState ≠ 1 ∨ inTime → exec .bivouacEntryTimeout s = .next s) ∧
    (let up := s.fw.ready.getLsbD 14 = true ∧ ∃ d < 4, s.fw.ready.getLsbD (7 + d) = true ∧ s.fw.ready.getLsbD (3 + d) = true
     (f.slpState = 3 → up → exec .wakeDone s = .next { s with fleet := { f with slpState := 0, slpCode := 4 } }.progress) ∧
     (f.slpState ≠ 3 ∨ ¬up → exec .wakeDone s = .next s)) ∧
    (let runs := fun (d : Fin 4) => s.fw.ready.getLsbD (7 + d.val) = true
     let cap := min (max f.cap.toNat 150) 600 * 1000
     let grant := fun (d : Fin 4) => 475 + (min (max (m.capGrant[d]).toNat 475) 1900 - 475) / 25 * 25
     let slowest := fun (clk : Vector (BitVec 16) 4) => ∀ d : Fin 4, runs d → clk[d] = 475
     let holds := m.mw.toNat ≤ 600000 ∧
       (m.mw.toNat ≤ cap ∨ slowest f.clk ∨ (f.capEvals = 0 ∧ ∃ d, runs d ∧ grant d < (f.clk[d]).toNat))
     let comes := f.evalUs + 1000 ≤ f.us ∧ holds
     (¬comes → exec (.powerEvaluation m) s = .next s) ∧
     (comes → (∀ d : Fin 4, (m.temp[d]).toNat < 110) → ∃ t, exec (.powerEvaluation m) s = .next t ∧ t.fleet.mw = m.mw ∧
      t.fleet.temps = m.temp ∧ t.fleet.bc = m.bc ∧ t.cores = s.cores ∧ t.dram = s.dram ∧ t.fw = s.fw ∧
      t.fleet.evalUs = f.us ∧ t.fleet.capEvals = f.capEvals + 1 ∧
      (t.fleet.hlthWhy.getLsbD 3 = true ↔ (∃ d, runs d) ∧ slowest t.fleet.clk ∧ cap < m.mw.toNat) ∧
      t.fleet.cnt[0] = f.cnt[0] + (if (∃ d, runs d ∧ (f.capClk[d]).toNat < 1900) then 1 else 0) ∧
      t.fleet.cnt[1] = f.cnt[1] + (if (∃ d, runs d ∧ (f.thermal[d]).toNat < 1900) then 1 else 0) ∧
      ∀ d : Fin 4,
        (s.fw.ready.getLsbD (7 + d.val) = false → t.fleet.clk[d] = 0) ∧
        (s.fw.ready.getLsbD (7 + d.val) = true → (t.fleet.capClk[d]).toNat = grant d) ∧
        (s.fw.ready.getLsbD (7 + d.val) = true → (m.temp[d]).toNat < 95 → f.thermal[d] = 1900 →
          (t.fleet.clk[d]).toNat = grant d) ∧
        (s.fw.ready.getLsbD (7 + d.val) = true → 100 ≤ (m.temp[d]).toNat →
          (t.fleet.clk[d]).toNat ≤ max 475 ((f.clk[d]).toNat - 25))) ∧
     (comes → ∃ t, exec (.powerEvaluation m) s = .next t ∧ t.dram = s.dram ∧
        (∀ i, t.fw.ready.getLsbD i =
          (s.fw.ready.getLsbD i && !decide (∃ d : Fin 4, i = 7 + d.val ∧ 110 ≤ (m.temp[d]).toNat))) ∧
        ∀ d : Fin 4, runs d → 110 ≤ (m.temp[d]).toNat → t.fleet.clk[d] = 0 ∧
          ∀ j : CoreId, j.toNat / 64 = d.val → (s.core j).run = .running → ∃ r, (t.core j).run = .stopping r ∧ r.cause = 25)) ∧
    (let ready := s.fw.ready.getLsbD (3 + pa.toNat / 2 ^ 33 / 12) = true
     (f.scr = 0 ∨ ¬ready → ∀ r, exec (.scrub pa r) s = .next s) ∧
     exec (.scrub pa .clean) s = .next s ∧
     (f.scr ≠ 0 → ready →
       (∃ t, exec (.scrub pa .corrected) s = .next t ∧ t.fleet.cnt[2] = f.cnt[2] + one ∧ t.fleet.logHead = f.logHead + 1 ∧
         t.poison = s.poison ∧ t.dram = s.dram) ∧
       (∃ t, exec (.scrub pa .uncorrected) s = .next t ∧ t.fleet.cnt[4] = f.cnt[4] + one ∧ t.fleet.logHead = f.logHead + 1 ∧
         pa.toNat / 64 ∈ t.poison ∧ t.dram = s.dram))) ∧
    (∃ t, exec (.storageError (.dram pa) false) s = .next t ∧ pa.toNat / 64 ∈ t.poison ∧ t.fleet.cnt[4] = f.cnt[4] + one ∧
      t.cores = s.cores ∧ t.dram = s.dram) ∧
    (∃ t, exec (.storageError (.coreSram k block) true) s = .next t ∧ t.fleet.cnt[3] = f.cnt[3] + one ∧ t.cores = s.cores ∧
      t.fleet.logHead = f.logHead + 1) ∧
    (∀ b, ∃ t, exec (.storageError (.coreCache k) b) s = .next t ∧ t.fleet.cnt[3] = f.cnt[3] + one ∧
      t.fleet.logHead = f.logHead + 1 ∧ t.dram = s.dram ∧ (∀ x ∈ (t.core k).tlb, x ∈ (s.core k).tlb) ∧
      (t.core k).loopRun.map (fun r => { r with buf := none }) = (s.core k).loopRun.map (fun r => { r with buf := none }) ∧
      t.core k = { s.core k with tlb := (t.core k).tlb, loopRun := (t.core k).loopRun } ∧ ∀ j, j ≠ k → t.core j = s.core j) ∧
    (block < 672 → (s.core k).run ≠ .idle → (s.ctx (s.core k).task.ctx).dead = false →
      ∃ t, exec (.storageError (.coreSram k block) false) s = .next t ∧ (t.core k).run = .idle ∧
        (t.ctx (s.core k).task.ctx).dead = true ∧ (t.ctx (s.core k).task.ctx).why = 3) ∧
    (∀ x, s.slot slot.toNat = some x → ∃ t, exec (.storageError (.nandSlot slot) false) s = .next t ∧
      t.slot slot.toNat = some { x with bad := true } ∧ t.cores = s.cores ∧ t.dram = s.dram) ∧
    (∃ t, exec (.storageError .nandFirmware false) s = .next t ∧ t.fw.nand = none ∧ t.cores = s.cores) ∧
    (block < 672 → (s.core k).run = .idle → s.wf = true →
      let old := if block < 32 then (s.core k).regs else (s.core k).scratch
      let at_ := if block < 32 then block else block - 32
      ∃ t mem, exec (.storageError (.coreSram k block) false) s = .next t ∧ t.fleet.logHead = f.logHead + 1 ∧
        t.fleet.cnt[4] = f.cnt[4] + one ∧ t.dram = s.dram ∧ (∀ j, j ≠ k → t.core j = s.core j) ∧
        t.core k = (if block < 32 then { s.core k with regs := mem } else { s.core k with scratch := mem }) ∧
        ∀ a, memGet mem a = if a / 1024 = at_ then 0 else memGet old a) ∧
    (∀ b, ∃ t, exec (.storageError .campTlb b) s = .next t ∧ t.fleet.cnt[3] = f.cnt[3] + one ∧ t.fleet.logHead = f.logHead + 1 ∧
      (∀ x ∈ t.vm.tlb, x ∈ s.vm.tlb) ∧ t.vm = { s.vm with tlb := t.vm.tlb } ∧ t.cores = s.cores ∧ t.dram = s.dram) ∧
    (∀ l b, ∃ t, exec (.storageError (.laneTable l) b) s = .next t ∧ t.fleet.cnt[3] = f.cnt[3] + one ∧
      t.fleet.logHead = f.logHead + 1 ∧ t.lanes = s.lanes ∧ t.cores = s.cores ∧ t.dram = s.dram) ∧
    (∃ t, exec (.storageError .baseCamp true) s = .next t ∧ t.fleet.cnt[3] = f.cnt[3] + one ∧ t.fleet.logHead = f.logHead + 1 ∧
      t.cores = s.cores ∧ t.dram = s.dram) ∧
    (∃ t, exec (.storageError .baseCamp false) s = .next t ∧ t.fleet.cnt[4] = f.cnt[4] + one ∧ t.fleet.logHead = f.logHead + 1 ∧
      t.fleet.hlthWhy.getLsbD 5 = true ∧ t.healthState = 2 ∧ t.cores = s.cores ∧ t.dram = s.dram) ∧
    (∀ a,
      (∃ t, exec (.storageError (.saveImage a) true) s = .next t ∧ t.fleet.logHead = f.logHead + 1 ∧ t.fleet.cnt = f.cnt ∧
        t.sched = s.sched ∧ t.ctxs = s.ctxs ∧ t.cores = s.cores ∧ t.dram = s.dram) ∧
      (∀ x, s.sched.images.find? (·.addr == a) = some x → (s.ctx x.ctx).dead = false →
        ∃ t, exec (.storageError (.saveImage a) false) s = .next t ∧ (t.ctx x.ctx).dead = true ∧ (t.ctx x.ctx).why = 2)) ∧
    (∃ t, exec (.storageError (.nandSlot slot) true) s = .next t ∧ t.fleet.logHead = f.logHead + 1 ∧ t.fleet.cnt = f.cnt ∧
      t.slots = s.slots ∧ t.cores = s.cores ∧ t.dram = s.dram) ∧
    (∃ t, exec (.storageError .nandFirmware true) s = .next t ∧ t.fleet.logHead = f.logHead + 1 ∧ t.fleet.cnt = f.cnt ∧
      t.fw = s.fw ∧ t.cores = s.cores ∧ t.dram = s.dram) ∧
    (let host := s.fw.ready.getLsbD 0 = true
     let o := off.toNat
     let aligned := (size = 4 ∨ size = 8) ∧ o % size = 0
     let served := s.fw.state = 2 → o / 8 * 8 < 0x1000
     let fn := s.fw.ready.getLsbD (readyOf (o / 8 * 8)) = true ∧ served
     (¬host → exec (.registerWrite off size v) s = .next s ∧ exec (.registerWindowRead off size) s = .next s) ∧
     (host → ¬aligned → loggedOnly s (exec (.registerWrite off size v) s) ∧
       unserved s (exec (.registerWindowRead off size) s) [.completerAbort]) ∧
     (host → aligned → ¬fn → loggedOnly s (exec (.registerWrite off size v) s) ∧
       exec (.registerWindowRead off size) s = .next (s.send (.readDone (List.replicate size 0) false))) ∧
     (host → aligned → fn → o / 8 * 8 ≠ 0x81040 → exec (.registerWindowRead off size) s =
       .next (s.send (.readDone (toBytes size (regValue s (o / 8 * 8) / 2 ^ (o % 8 * 8))) false))) ∧
     (∀ vec : Nat, host → served → o = 0x1008 + 16 * vec → vec < 72 → Memory.wf s.ports.msix = true →
       let put : State := { s with ports := { s.ports with msix := memWrite s.ports.msix (16 * vec + 8) (toBytes 8 v.toNat) } }
       let pending := (memGet s.ports.msix (0x800 + vec / 8)).getLsbD (vec % 8) = true
       (v.getLsbD 32 = true ∨ ¬pending → exec (.registerWrite off 8 v) s = .next put) ∧
       (v.getLsbD 32 = false → pending → ∃ t, exec (.registerWrite off 8 v) s = .next t ∧ t.ports.out = s.ports.out ++
         [.msix vec (memNat s.ports.msix (16 * vec) 8) (v.toNat % 2 ^ 32)] ∧
         (memGet t.ports.msix (0x800 + vec / 8)).getLsbD (vec % 8) = false ∧ t.cores = s.cores)) ∧
     (∀ c : BitVec 12, host → s.fw.ready.getLsbD 14 = true → served →
       (o = 0x60000 + 32 * c.toNat → exec (.registerWrite off 4 v) s = .next s) ∧
       (o = 0x1001C + 0x100 * n.toNat → exec (.registerWrite off 4 v) s = .next s)) ∧
     (host → s.fw.ready.getLsbD 1 = true → served →
       (o = 0xC0034 + 0x40 * n.toNat → exec (.registerWrite off 4 v) s = .next s) ∧
       (o = 0xD0000 → exec (.registerWrite off 8 v) s =
         .next { s with sched := { s.sched with wdStop := BitVec.ofNat 32 v.toNat } }) ∧
       (o = 0x80008 + 0x40 * n.toNat → exec (.registerWrite off 8 v) s = .next (s.setCtx n { s.ctx n with vmPkey := v })) ∧
       (o = 0xC0030 + 0x40 * n.toNat → exec (.registerWrite off 8 v) s =
         .next (s.setCtx n { s.ctx n with wdTask := BitVec.ofNat 32 v.toNat })) ∧
       (o = 0x100200 → exec (.registerWrite off 8 v) s = .next { s with fleet := { f with cap := BitVec.ofNat 16 v.toNat, capEvals := 0 } }) ∧
       (o = 0x101010 → exec (.registerWrite off 8 v) s = .next { s with fleet := { f with logSev := BitVec.ofNat 2 v.toNat } }) ∧
       (0x140000 ≤ o → o % 8 = 0 → exec (.registerWrite off 8 v) s = .next s)) ∧
     (host → s.fw.ready.getLsbD 14 = true → served →
       (o = 0x10008 + 0x100 * n.toNat → exec (.registerWrite off 8 v) s =
         .next (if (s.ctx n).cfg.getLsbD 63 = true then s else s.setCtx n { s.ctx n with sqBase := v &&& 0x01FFFFFFFFFFF000 })) ∧
       (o = 0x40100 + 8 * n.toNat → exec (.registerWrite off 8 v) s =
         .next (s.setCtx n { s.ctx n with pcap := BitVec.ofNat 5 v.toNat }))))

/-! ## Fetch and decode, the invariant, reset -/

/-- R104, R106, R134 and R119: where a core's control processor is not waiting, its turn at the head of the agenda runs the
instruction that the words at its PC decode to, or at a pad word the one that follows (the fetch); at words that decode to none
it takes the illegal-instruction trap, and outside the launch's code the fetch trap. R27, R122 and R240: a turn of a core's
vector sequencer issues the group at hand: where it is one word that passes its checks, the core is as that word's own step
leaves it, after a landing cycle in which nothing is due, and the loop command moves to the next group. -/
def Obligations.StepRunsDecoded : Prop :=
  ∀ (k : CoreId) (rest : List Turn) (s : State),
    let u : State := { s with agenda := rest }
    let c := s.core k
    (s.agenda = .cp k :: rest → c.run = .running → c.missCp = false → c.wait = .no →
      (∀ w ws i r, s.ctlWords k c.pc.toNat 3 = w :: ws → decodeControl (w :: ws) = .ok (i, r) →
        step s = exec i { u.setCore k c with cur := k }) ∧
      (∀ pc i, s.fetch k = .insn pc i → step s = exec i { u.setCore k { c with pc := pc } with cur := k }) ∧
      (∀ pc w, s.fetch k = .illegal pc w →
        step s = .next (cpTrap { u.setCore k { c with pc := pc } with cur := k } ⟨1, 0, w.toNat, pc.toNat⟩)) ∧
      (∀ pc, s.fetch k = .outside pc → step s = .next (cpTrap { u with cur := k } ⟨3, 0, pc.toNat, c.pcFrom.toNat⟩))) ∧
    (∀ (r : LoopRun) (w : Word32) (next : Nat) (x : GWord), s.agenda = .vs k :: rest → s.wf = true → c.run = .running →
      c.missVs = false → c.rope = none → c.zeroing = none → c.gatherFaults = [] → c.due = [] → c.loopRun = some r → r.zpf = none →
      parseGroup (s.bodyWord c r) r.words (r.words + 1) r.off 0 0 [] = ⟨[(r.off, w)], none, none, next⟩ →
      c.checkGroup r.c.start.toNat ⟨[(r.off, w)], none, none, next⟩ = .ok [x] → encodeVector x.i ≠ [] →
      c.operandState [x] = .ok none →
      ∃ t, exec x.i { u with cur := k } = .next t ∧
        step s = .next (advance { t.modCore k (·.landLate 0) with cur := s.cur } k r next))

/-- R104 to R119 and R126 to R180: words written out bit by bit from the encodings of the spec decode to their instructions: of
the control stream's core set, its commands, and each slot of the vector stream. -/
def Obligations.EncodedWords : Prop :=
  decodeControl [0x02321400] = .ok (.add 3 4 5 false, []) ∧
  decodeControl [0x2463E010] = .ok (.ld 6 7 3 ⟨16, .none⟩, []) ∧
  decodeControl [0x16747FFD] = .ok (.bne 7 8 (-3), []) ∧
  decodeControl [0x84503000, 0x7C000008] = .ok (.addi 5 0 ⟨0x3000, .one 8⟩, []) ∧
  decodeControl [0x40429800] = .ok (.cpy 4 5 6, []) ∧
  decodeControl [0x4E74A800] = .ok (.syncArm 7 9 10, []) ∧
  decodeControl [0x508A0000] = .ok (.barArrive 5, []) ∧
  decodeControl [0x2C500440] = .ok (.srd 5 0x011, []) ∧
  decodeVector 0x82010203 = .ok (.vadd true false 1 2 3) ∧
  decodeVector 0x42305215 = .ok (.cimPass false 3 0 20 4 2 true false true) ∧
  decodeVector 0x50068A00 = .ok (.iadd false 3 4 5) ∧
  decodeVector 0x64012400 = .ok (.dqpop false 9 1) ∧
  decodeVector 0x7C000000 = .ok .nop

/-- R104, R108, R109, R117 and the encodings of 05 to 15: every well-formed instruction's words decode to it, with every operand
at every value its encoding admits, in the stream it belongs to. -/
def Obligations.EveryInstructionDecodesBack : Prop := ∀ i : Instr, Laws.RoundTrip.Statement i

namespace Sys2Proof.Claims

/-- The rows of the event tables that write scratch, the register space or device memory: landings and stores of the vector stream,
CIM.MODE's zeroing, the copy engine's commands and atomics, gathers and scatters, answers from the host, inbound writes and paging. -/
def writesMemory (i : Instr) : Bool :=
  match i with
  | .resultLanding .. | .stalledGroupIssue .. | .queueStall .. | .cimModePerform .. | .cimModeZeroingEnd ..
  | .copyStart .. | .copyArrival .. | .copyComplete .. | .cpyxBlock .. | .laneTableCheck .. | .atomPerform ..
  | .gatherElement .. | .scatterElement .. | .hostReadCompletion .. | .inboundRead .. | .inboundWrite ..
  | .vmPageOut .. | .vmPageIn .. => true
  | _ => false

end Sys2Proof.Claims

/-- Every instruction word, of the control stream and of the vector stream, and every event that writes memory (landings, copies and
atomics, gathers and scatters, inbound accesses, paging), keeps the canonical form of the card's tables and memories (log 5): equal
contents stay equal data. -/
def Obligations.InstructionsKeepCanonicalForm : Prop :=
  ∀ (i : Instr) (s t : State), encode i ≠ [] ∨ writesMemory i = true → s.wf = true → exec i s = .next t → t.wf = true

/-- R5, R21, R36, R37, R286, R303, R315, R357, R359, R366, R371, R374 and R375: after a cold reset the card is in canonical form;
no core has a task, every bank is in SCRATCH mode, EMPTY with H0 active, and every barrier uninitialised; no context is enabled, no
cairn armed, no launch read, nothing ready; the registers with a stated reset value hold it. That a core which has had no task since
the reset already holds what R21 gives at a task's start is the model's choice (log 3, DESIGN CHOICE), as are the canonical form of
tables (log 5) and the values of log 6. -/
def Obligations.ResetState : Prop :=
  let s := State.reset
  s.wf = true ∧
  (∀ k, (s.core k).run = .idle ∧ (∀ b, (s.core k).bank b = ⟨false, false, 0, false, false, false, 0, 0⟩) ∧
    (∀ b, ((s.core k).bar b).init = false) ∧ (s.core k).held = [] ∧ (∀ g, (s.core k).gr g = 0)) ∧
  (∀ n, (s.ctx n).cfg = 0 ∧ (s.ctx n).dead = false) ∧ (∀ c, s.cairn c = Cairn.reset) ∧ s.sched.launches = [] ∧ s.fw.ready = 0 ∧
  s.sched.wdStop = 100000 ∧ s.sched.age = 255 ∧ s.sched.pe = false ∧ s.sched.pgap = 4 ∧ s.fleet.slpState = 0 ∧
  s.fleet.slpTo = 1000 ∧ s.fleet.cap = 600 ∧ s.fleet.scr = 24 ∧ s.fleet.logSev = 2 ∧ s.fleet.logHead = 0 ∧ s.fleet.logTail = 0
end

