-- ==== Sys2Proof/Laws/State.lean ====
section
/-! SUPPORT. What each shared update of the state and of a core leaves as it was: one lemma per field per update. -/

namespace Sys2Proof.Machine

/-! ## Updates of the state -/

@[simp] theorem State.setCore_ctxs (s : State) (k : CoreId) (x : Core) : (s.setCore k x).ctxs = s.ctxs := rfl
@[simp] theorem State.setCore_sched (s : State) (k : CoreId) (x : Core) : (s.setCore k x).sched = s.sched := rfl
@[simp] theorem State.setCore_ports (s : State) (k : CoreId) (x : Core) : (s.setCore k x).ports = s.ports := rfl
@[simp] theorem State.setCore_vm (s : State) (k : CoreId) (x : Core) : (s.setCore k x).vm = s.vm := rfl
@[simp] theorem State.setCore_fw (s : State) (k : CoreId) (x : Core) : (s.setCore k x).fw = s.fw := rfl
@[simp] theorem State.setCore_fleet (s : State) (k : CoreId) (x : Core) : (s.setCore k x).fleet = s.fleet := rfl
@[simp] theorem State.setCore_lanes (s : State) (k : CoreId) (x : Core) : (s.setCore k x).lanes = s.lanes := rfl
@[simp] theorem State.setCore_dram (s : State) (k : CoreId) (x : Core) : (s.setCore k x).dram = s.dram := rfl
@[simp] theorem State.setCore_poison (s : State) (k : CoreId) (x : Core) : (s.setCore k x).poison = s.poison := rfl
@[simp] theorem State.setCore_unsaved (s : State) (k : CoreId) (x : Core) : (s.setCore k x).unsaved = s.unsaved := rfl
@[simp] theorem State.setCore_slots (s : State) (k : CoreId) (x : Core) : (s.setCore k x).slots = s.slots := rfl
@[simp] theorem State.setCore_issued (s : State) (k : CoreId) (x : Core) : (s.setCore k x).issued = s.issued := rfl
@[simp] theorem State.setCore_cur (s : State) (k : CoreId) (x : Core) : (s.setCore k x).cur = s.cur := rfl
@[simp] theorem State.setCore_agenda (s : State) (k : CoreId) (x : Core) : (s.setCore k x).agenda = s.agenda := rfl
@[simp] theorem State.setCore_rr (s : State) (k : CoreId) (x : Core) : (s.setCore k x).rr = s.rr := rfl
@[simp] theorem State.setCore_seq (s : State) (k : CoreId) (x : Core) : (s.setCore k x).seq = s.seq := rfl

@[simp] theorem State.setMe_ctxs (s : State) (x : Core) : (s.setMe x).ctxs = s.ctxs := rfl
@[simp] theorem State.setMe_sched (s : State) (x : Core) : (s.setMe x).sched = s.sched := rfl
@[simp] theorem State.setMe_ports (s : State) (x : Core) : (s.setMe x).ports = s.ports := rfl
@[simp] theorem State.setMe_vm (s : State) (x : Core) : (s.setMe x).vm = s.vm := rfl
@[simp] theorem State.setMe_fw (s : State) (x : Core) : (s.setMe x).fw = s.fw := rfl
@[simp] theorem State.setMe_fleet (s : State) (x : Core) : (s.setMe x).fleet = s.fleet := rfl
@[simp] theorem State.setMe_lanes (s : State) (x : Core) : (s.setMe x).lanes = s.lanes := rfl
@[simp] theorem State.setMe_dram (s : State) (x : Core) : (s.setMe x).dram = s.dram := rfl
@[simp] theorem State.setMe_poison (s : State) (x : Core) : (s.setMe x).poison = s.poison := rfl
@[simp] theorem State.setMe_unsaved (s : State) (x : Core) : (s.setMe x).unsaved = s.unsaved := rfl
@[simp] theorem State.setMe_slots (s : State) (x : Core) : (s.setMe x).slots = s.slots := rfl
@[simp] theorem State.setMe_issued (s : State) (x : Core) : (s.setMe x).issued = s.issued := rfl
@[simp] theorem State.setMe_cur (s : State) (x : Core) : (s.setMe x).cur = s.cur := rfl
@[simp] theorem State.setMe_agenda (s : State) (x : Core) : (s.setMe x).agenda = s.agenda := rfl
@[simp] theorem State.setMe_rr (s : State) (x : Core) : (s.setMe x).rr = s.rr := rfl
@[simp] theorem State.setMe_seq (s : State) (x : Core) : (s.setMe x).seq = s.seq := rfl

@[simp] theorem State.modCore_ctxs (s : State) (k : CoreId) (f : Core → Core) : (s.modCore k f).ctxs = s.ctxs := rfl
@[simp] theorem State.modCore_sched (s : State) (k : CoreId) (f : Core → Core) : (s.modCore k f).sched = s.sched := rfl
@[simp] theorem State.modCore_ports (s : State) (k : CoreId) (f : Core → Core) : (s.modCore k f).ports = s.ports := rfl
@[simp] theorem State.modCore_vm (s : State) (k : CoreId) (f : Core → Core) : (s.modCore k f).vm = s.vm := rfl
@[simp] theorem State.modCore_fw (s : State) (k : CoreId) (f : Core → Core) : (s.modCore k f).fw = s.fw := rfl
@[simp] theorem State.modCore_fleet (s : State) (k : CoreId) (f : Core → Core) : (s.modCore k f).fleet = s.fleet := rfl
@[simp] theorem State.modCore_lanes (s : State) (k : CoreId) (f : Core → Core) : (s.modCore k f).lanes = s.lanes := rfl
@[simp] theorem State.modCore_dram (s : State) (k : CoreId) (f : Core → Core) : (s.modCore k f).dram = s.dram := rfl
@[simp] theorem State.modCore_poison (s : State) (k : CoreId) (f : Core → Core) : (s.modCore k f).poison = s.poison := rfl
@[simp] theorem State.modCore_unsaved (s : State) (k : CoreId) (f : Core → Core) : (s.modCore k f).unsaved = s.unsaved := rfl
@[simp] theorem State.modCore_slots (s : State) (k : CoreId) (f : Core → Core) : (s.modCore k f).slots = s.slots := rfl
@[simp] theorem State.modCore_issued (s : State) (k : CoreId) (f : Core → Core) : (s.modCore k f).issued = s.issued := rfl
@[simp] theorem State.modCore_cur (s : State) (k : CoreId) (f : Core → Core) : (s.modCore k f).cur = s.cur := rfl
@[simp] theorem State.modCore_agenda (s : State) (k : CoreId) (f : Core → Core) : (s.modCore k f).agenda = s.agenda := rfl
@[simp] theorem State.modCore_rr (s : State) (k : CoreId) (f : Core → Core) : (s.modCore k f).rr = s.rr := rfl
@[simp] theorem State.modCore_seq (s : State) (k : CoreId) (f : Core → Core) : (s.modCore k f).seq = s.seq := rfl

@[simp] theorem State.setCtx_cores (s : State) (n : CtxId) (x : Ctx) : (s.setCtx n x).cores = s.cores := rfl
@[simp] theorem State.setCtx_sched (s : State) (n : CtxId) (x : Ctx) : (s.setCtx n x).sched = s.sched := rfl
@[simp] theorem State.setCtx_ports (s : State) (n : CtxId) (x : Ctx) : (s.setCtx n x).ports = s.ports := rfl
@[simp] theorem State.setCtx_vm (s : State) (n : CtxId) (x : Ctx) : (s.setCtx n x).vm = s.vm := rfl
@[simp] theorem State.setCtx_fw (s : State) (n : CtxId) (x : Ctx) : (s.setCtx n x).fw = s.fw := rfl
@[simp] theorem State.setCtx_fleet (s : State) (n : CtxId) (x : Ctx) : (s.setCtx n x).fleet = s.fleet := rfl
@[simp] theorem State.setCtx_lanes (s : State) (n : CtxId) (x : Ctx) : (s.setCtx n x).lanes = s.lanes := rfl
@[simp] theorem State.setCtx_dram (s : State) (n : CtxId) (x : Ctx) : (s.setCtx n x).dram = s.dram := rfl
@[simp] theorem State.setCtx_poison (s : State) (n : CtxId) (x : Ctx) : (s.setCtx n x).poison = s.poison := rfl
@[simp] theorem State.setCtx_unsaved (s : State) (n : CtxId) (x : Ctx) : (s.setCtx n x).unsaved = s.unsaved := rfl
@[simp] theorem State.setCtx_slots (s : State) (n : CtxId) (x : Ctx) : (s.setCtx n x).slots = s.slots := rfl
@[simp] theorem State.setCtx_issued (s : State) (n : CtxId) (x : Ctx) : (s.setCtx n x).issued = s.issued := rfl
@[simp] theorem State.setCtx_cur (s : State) (n : CtxId) (x : Ctx) : (s.setCtx n x).cur = s.cur := rfl
@[simp] theorem State.setCtx_agenda (s : State) (n : CtxId) (x : Ctx) : (s.setCtx n x).agenda = s.agenda := rfl
@[simp] theorem State.setCtx_rr (s : State) (n : CtxId) (x : Ctx) : (s.setCtx n x).rr = s.rr := rfl
@[simp] theorem State.setCtx_seq (s : State) (n : CtxId) (x : Ctx) : (s.setCtx n x).seq = s.seq := rfl

@[simp] theorem State.send_cores (s : State) (m : OutMsg) : (s.send m).cores = s.cores := rfl
@[simp] theorem State.send_ctxs (s : State) (m : OutMsg) : (s.send m).ctxs = s.ctxs := rfl
@[simp] theorem State.send_sched (s : State) (m : OutMsg) : (s.send m).sched = s.sched := rfl
@[simp] theorem State.send_vm (s : State) (m : OutMsg) : (s.send m).vm = s.vm := rfl
@[simp] theorem State.send_fw (s : State) (m : OutMsg) : (s.send m).fw = s.fw := rfl
@[simp] theorem State.send_fleet (s : State) (m : OutMsg) : (s.send m).fleet = s.fleet := rfl
@[simp] theorem State.send_lanes (s : State) (m : OutMsg) : (s.send m).lanes = s.lanes := rfl
@[simp] theorem State.send_dram (s : State) (m : OutMsg) : (s.send m).dram = s.dram := rfl
@[simp] theorem State.send_poison (s : State) (m : OutMsg) : (s.send m).poison = s.poison := rfl
@[simp] theorem State.send_unsaved (s : State) (m : OutMsg) : (s.send m).unsaved = s.unsaved := rfl
@[simp] theorem State.send_slots (s : State) (m : OutMsg) : (s.send m).slots = s.slots := rfl
@[simp] theorem State.send_issued (s : State) (m : OutMsg) : (s.send m).issued = s.issued := rfl
@[simp] theorem State.send_cur (s : State) (m : OutMsg) : (s.send m).cur = s.cur := rfl
@[simp] theorem State.send_agenda (s : State) (m : OutMsg) : (s.send m).agenda = s.agenda := rfl
@[simp] theorem State.send_rr (s : State) (m : OutMsg) : (s.send m).rr = s.rr := rfl
@[simp] theorem State.send_seq (s : State) (m : OutMsg) : (s.send m).seq = s.seq := rfl

/-! ## Updates of a core -/

@[simp] theorem Core.setG_run (c : Core) (r : BitVec 5) (v : Word64) : (c.setG r v).run = c.run := by unfold Core.setG; split <;> rfl
@[simp] theorem Core.setG_task (c : Core) (r : BitVec 5) (v : Word64) : (c.setG r v).task = c.task := by unfold Core.setG; split <;> rfl
@[simp] theorem Core.setG_pc (c : Core) (r : BitVec 5) (v : Word64) : (c.setG r v).pc = c.pc := by unfold Core.setG; split <;> rfl
@[simp] theorem Core.setG_pcFrom (c : Core) (r : BitVec 5) (v : Word64) : (c.setG r v).pcFrom = c.pcFrom := by unfold Core.setG; split <;> rfl
@[simp] theorem Core.setG_wait (c : Core) (r : BitVec 5) (v : Word64) : (c.setG r v).wait = c.wait := by unfold Core.setG; split <;> rfl
@[simp] theorem Core.setG_cmdIdx (c : Core) (r : BitVec 5) (v : Word64) : (c.setG r v).cmdIdx = c.cmdIdx := by unfold Core.setG; split <;> rfl
@[simp] theorem Core.setG_jetOrder (c : Core) (r : BitVec 5) (v : Word64) : (c.setG r v).jetOrder = c.jetOrder := by unfold Core.setG; split <;> rfl
@[simp] theorem Core.setG_fpFlags (c : Core) (r : BitVec 5) (v : Word64) : (c.setG r v).fpFlags = c.fpFlags := by unfold Core.setG; split <;> rfl
@[simp] theorem Core.setG_fpTrapen (c : Core) (r : BitVec 5) (v : Word64) : (c.setG r v).fpTrapen = c.fpTrapen := by unfold Core.setG; split <;> rfl
@[simp] theorem Core.setG_paramOvf (c : Core) (r : BitVec 5) (v : Word64) : (c.setG r v).paramOvf = c.paramOvf := by unfold Core.setG; split <;> rfl
@[simp] theorem Core.setG_ctxPkey (c : Core) (r : BitVec 5) (v : Word64) : (c.setG r v).ctxPkey = c.ctxPkey := by unfold Core.setG; split <;> rfl
@[simp] theorem Core.setG_views (c : Core) (r : BitVec 5) (v : Word64) : (c.setG r v).views = c.views := by unfold Core.setG; split <;> rfl
@[simp] theorem Core.setG_idx (c : Core) (r : BitVec 5) (v : Word64) : (c.setG r v).idx = c.idx := by unfold Core.setG; split <;> rfl
@[simp] theorem Core.setG_streams (c : Core) (r : BitVec 5) (v : Word64) : (c.setG r v).streams = c.streams := by unfold Core.setG; split <;> rfl
@[simp] theorem Core.setG_flags (c : Core) (r : BitVec 5) (v : Word64) : (c.setG r v).flags = c.flags := by unfold Core.setG; split <;> rfl
@[simp] theorem Core.setG_accOvf (c : Core) (r : BitVec 5) (v : Word64) : (c.setG r v).accOvf = c.accOvf := by unfold Core.setG; split <;> rfl
@[simp] theorem Core.setG_banks (c : Core) (r : BitVec 5) (v : Word64) : (c.setG r v).banks = c.banks := by unfold Core.setG; split <;> rfl
@[simp] theorem Core.setG_scratch (c : Core) (r : BitVec 5) (v : Word64) : (c.setG r v).scratch = c.scratch := by unfold Core.setG; split <;> rfl
@[simp] theorem Core.setG_regs (c : Core) (r : BitVec 5) (v : Word64) : (c.setG r v).regs = c.regs := by unfold Core.setG; split <;> rfl
@[simp] theorem Core.setG_qcw (c : Core) (r : BitVec 5) (v : Word64) : (c.setG r v).qcw = c.qcw := by unfold Core.setG; split <;> rfl
@[simp] theorem Core.setG_remap (c : Core) (r : BitVec 5) (v : Word64) : (c.setG r v).remap = c.remap := by unfold Core.setG; split <;> rfl
@[simp] theorem Core.setG_cmdq (c : Core) (r : BitVec 5) (v : Word64) : (c.setG r v).cmdq = c.cmdq := by unfold Core.setG; split <;> rfl
@[simp] theorem Core.setG_loopRun (c : Core) (r : BitVec 5) (v : Word64) : (c.setG r v).loopRun = c.loopRun := by unfold Core.setG; split <;> rfl
@[simp] theorem Core.setG_zeroing (c : Core) (r : BitVec 5) (v : Word64) : (c.setG r v).zeroing = c.zeroing := by unfold Core.setG; split <;> rfl
@[simp] theorem Core.setG_paramq (c : Core) (r : BitVec 5) (v : Word64) : (c.setG r v).paramq = c.paramq := by unfold Core.setG; split <;> rfl
@[simp] theorem Core.setG_aq (c : Core) (r : BitVec 5) (v : Word64) : (c.setG r v).aq = c.aq := by unfold Core.setG; split <;> rfl
@[simp] theorem Core.setG_elems (c : Core) (r : BitVec 5) (v : Word64) : (c.setG r v).elems = c.elems := by unfold Core.setG; split <;> rfl
@[simp] theorem Core.setG_landing (c : Core) (r : BitVec 5) (v : Word64) : (c.setG r v).landing = c.landing := by unfold Core.setG; split <;> rfl
@[simp] theorem Core.setG_occ (c : Core) (r : BitVec 5) (v : Word64) : (c.setG r v).occ = c.occ := by unfold Core.setG; split <;> rfl
@[simp] theorem Core.setG_stall (c : Core) (r : BitVec 5) (v : Word64) : (c.setG r v).stall = c.stall := by unfold Core.setG; split <;> rfl
@[simp] theorem Core.setG_hostWrites (c : Core) (r : BitVec 5) (v : Word64) : (c.setG r v).hostWrites = c.hostWrites := by unfold Core.setG; split <;> rfl
@[simp] theorem Core.setG_hostPage (c : Core) (r : BitVec 5) (v : Word64) : (c.setG r v).hostPage = c.hostPage := by unfold Core.setG; split <;> rfl
@[simp] theorem Core.setG_gatherFaults (c : Core) (r : BitVec 5) (v : Word64) : (c.setG r v).gatherFaults = c.gatherFaults := by unfold Core.setG; split <;> rfl
@[simp] theorem Core.setG_tags (c : Core) (r : BitVec 5) (v : Word64) : (c.setG r v).tags = c.tags := by unfold Core.setG; split <;> rfl
@[simp] theorem Core.setG_bars (c : Core) (r : BitVec 5) (v : Word64) : (c.setG r v).bars = c.bars := by unfold Core.setG; split <;> rfl
@[simp] theorem Core.setG_held (c : Core) (r : BitVec 5) (v : Word64) : (c.setG r v).held = c.held := by unfold Core.setG; split <;> rfl
@[simp] theorem Core.setG_rope (c : Core) (r : BitVec 5) (v : Word64) : (c.setG r v).rope = c.rope := by unfold Core.setG; split <;> rfl
@[simp] theorem Core.setG_tlb (c : Core) (r : BitVec 5) (v : Word64) : (c.setG r v).tlb = c.tlb := by unfold Core.setG; split <;> rfl
@[simp] theorem Core.setG_dirty (c : Core) (r : BitVec 5) (v : Word64) : (c.setG r v).dirty = c.dirty := by unfold Core.setG; split <;> rfl
@[simp] theorem Core.setG_prevCtx (c : Core) (r : BitVec 5) (v : Word64) : (c.setG r v).prevCtx = c.prevCtx := by unfold Core.setG; split <;> rfl
@[simp] theorem Core.setG_ivl (c : Core) (r : BitVec 5) (v : Word64) : (c.setG r v).ivl = c.ivl := by unfold Core.setG; split <;> rfl
@[simp] theorem Core.setG_relScopes (c : Core) (r : BitVec 5) (v : Word64) : (c.setG r v).relScopes = c.relScopes := by unfold Core.setG; split <;> rfl
@[simp] theorem Core.setG_missCp (c : Core) (r : BitVec 5) (v : Word64) : (c.setG r v).missCp = c.missCp := by unfold Core.setG; split <;> rfl
@[simp] theorem Core.setG_missVs (c : Core) (r : BitVec 5) (v : Word64) : (c.setG r v).missVs = c.missVs := by unfold Core.setG; split <;> rfl
@[simp] theorem Core.setG_us (c : Core) (r : BitVec 5) (v : Word64) : (c.setG r v).us = c.us := by unfold Core.setG; split <;> rfl
@[simp] theorem Core.setG_stopUs (c : Core) (r : BitVec 5) (v : Word64) : (c.setG r v).stopUs = c.stopUs := by unfold Core.setG; split <;> rfl
@[simp] theorem Core.setG_wdLimit (c : Core) (r : BitVec 5) (v : Word64) : (c.setG r v).wdLimit = c.wdLimit := by unfold Core.setG; split <;> rfl
@[simp] theorem Core.setG_preemptReq (c : Core) (r : BitVec 5) (v : Word64) : (c.setG r v).preemptReq = c.preemptReq := by unfold Core.setG; split <;> rfl

@[simp] theorem Core.adv_run (c : Core) (n : Nat) : (c.adv n).run = c.run := rfl
@[simp] theorem Core.adv_task (c : Core) (n : Nat) : (c.adv n).task = c.task := rfl
@[simp] theorem Core.adv_g (c : Core) (n : Nat) : (c.adv n).g = c.g := rfl
@[simp] theorem Core.adv_wait (c : Core) (n : Nat) : (c.adv n).wait = c.wait := rfl
@[simp] theorem Core.adv_cmdIdx (c : Core) (n : Nat) : (c.adv n).cmdIdx = c.cmdIdx := rfl
@[simp] theorem Core.adv_jetOrder (c : Core) (n : Nat) : (c.adv n).jetOrder = c.jetOrder := rfl
@[simp] theorem Core.adv_fpFlags (c : Core) (n : Nat) : (c.adv n).fpFlags = c.fpFlags := rfl
@[simp] theorem Core.adv_fpTrapen (c : Core) (n : Nat) : (c.adv n).fpTrapen = c.fpTrapen := rfl
@[simp] theorem Core.adv_paramOvf (c : Core) (n : Nat) : (c.adv n).paramOvf = c.paramOvf := rfl
@[simp] theorem Core.adv_ctxPkey (c : Core) (n : Nat) : (c.adv n).ctxPkey = c.ctxPkey := rfl
@[simp] theorem Core.adv_views (c : Core) (n : Nat) : (c.adv n).views = c.views := rfl
@[simp] theorem Core.adv_idx (c : Core) (n : Nat) : (c.adv n).idx = c.idx := rfl
@[simp] theorem Core.adv_streams (c : Core) (n : Nat) : (c.adv n).streams = c.streams := rfl
@[simp] theorem Core.adv_flags (c : Core) (n : Nat) : (c.adv n).flags = c.flags := rfl
@[simp] theorem Core.adv_accOvf (c : Core) (n : Nat) : (c.adv n).accOvf = c.accOvf := rfl
@[simp] theorem Core.adv_banks (c : Core) (n : Nat) : (c.adv n).banks = c.banks := rfl
@[simp] theorem Core.adv_scratch (c : Core) (n : Nat) : (c.adv n).scratch = c.scratch := rfl
@[simp] theorem Core.adv_regs (c : Core) (n : Nat) : (c.adv n).regs = c.regs := rfl
@[simp] theorem Core.adv_qcw (c : Core) (n : Nat) : (c.adv n).qcw = c.qcw := rfl
@[simp] theorem Core.adv_remap (c : Core) (n : Nat) : (c.adv n).remap = c.remap := rfl
@[simp] theorem Core.adv_cmdq (c : Core) (n : Nat) : (c.adv n).cmdq = c.cmdq := rfl
@[simp] theorem Core.adv_loopRun (c : Core) (n : Nat) : (c.adv n).loopRun = c.loopRun := rfl
@[simp] theorem Core.adv_zeroing (c : Core) (n : Nat) : (c.adv n).zeroing = c.zeroing := rfl
@[simp] theorem Core.adv_paramq (c : Core) (n : Nat) : (c.adv n).paramq = c.paramq := rfl
@[simp] theorem Core.adv_aq (c : Core) (n : Nat) : (c.adv n).aq = c.aq := rfl
@[simp] theorem Core.adv_elems (c : Core) (n : Nat) : (c.adv n).elems = c.elems := rfl
@[simp] theorem Core.adv_landing (c : Core) (n : Nat) : (c.adv n).landing = c.landing := rfl
@[simp] theorem Core.adv_occ (c : Core) (n : Nat) : (c.adv n).occ = c.occ := rfl
@[simp] theorem Core.adv_stall (c : Core) (n : Nat) : (c.adv n).stall = c.stall := rfl
@[simp] theorem Core.adv_hostWrites (c : Core) (n : Nat) : (c.adv n).hostWrites = c.hostWrites := rfl
@[simp] theorem Core.adv_hostPage (c : Core) (n : Nat) : (c.adv n).hostPage = c.hostPage := rfl
@[simp] theorem Core.adv_gatherFaults (c : Core) (n : Nat) : (c.adv n).gatherFaults = c.gatherFaults := rfl
@[simp] theorem Core.adv_tags (c : Core) (n : Nat) : (c.adv n).tags = c.tags := rfl
@[simp] theorem Core.adv_bars (c : Core) (n : Nat) : (c.adv n).bars = c.bars := rfl
@[simp] theorem Core.adv_held (c : Core) (n : Nat) : (c.adv n).held = c.held := rfl
@[simp] theorem Core.adv_rope (c : Core) (n : Nat) : (c.adv n).rope = c.rope := rfl
@[simp] theorem Core.adv_tlb (c : Core) (n : Nat) : (c.adv n).tlb = c.tlb := rfl
@[simp] theorem Core.adv_dirty (c : Core) (n : Nat) : (c.adv n).dirty = c.dirty := rfl
@[simp] theorem Core.adv_prevCtx (c : Core) (n : Nat) : (c.adv n).prevCtx = c.prevCtx := rfl
@[simp] theorem Core.adv_ivl (c : Core) (n : Nat) : (c.adv n).ivl = c.ivl := rfl
@[simp] theorem Core.adv_relScopes (c : Core) (n : Nat) : (c.adv n).relScopes = c.relScopes := rfl
@[simp] theorem Core.adv_missCp (c : Core) (n : Nat) : (c.adv n).missCp = c.missCp := rfl
@[simp] theorem Core.adv_missVs (c : Core) (n : Nat) : (c.adv n).missVs = c.missVs := rfl
@[simp] theorem Core.adv_us (c : Core) (n : Nat) : (c.adv n).us = c.us := rfl
@[simp] theorem Core.adv_stopUs (c : Core) (n : Nat) : (c.adv n).stopUs = c.stopUs := rfl
@[simp] theorem Core.adv_wdLimit (c : Core) (n : Nat) : (c.adv n).wdLimit = c.wdLimit := rfl
@[simp] theorem Core.adv_preemptReq (c : Core) (n : Nat) : (c.adv n).preemptReq = c.preemptReq := rfl

@[simp] theorem Core.goto_run (c : Core) (a : Word64) : (c.goto a).run = c.run := rfl
@[simp] theorem Core.goto_task (c : Core) (a : Word64) : (c.goto a).task = c.task := rfl
@[simp] theorem Core.goto_g (c : Core) (a : Word64) : (c.goto a).g = c.g := rfl
@[simp] theorem Core.goto_wait (c : Core) (a : Word64) : (c.goto a).wait = c.wait := rfl
@[simp] theorem Core.goto_cmdIdx (c : Core) (a : Word64) : (c.goto a).cmdIdx = c.cmdIdx := rfl
@[simp] theorem Core.goto_jetOrder (c : Core) (a : Word64) : (c.goto a).jetOrder = c.jetOrder := rfl
@[simp] theorem Core.goto_fpFlags (c : Core) (a : Word64) : (c.goto a).fpFlags = c.fpFlags := rfl
@[simp] theorem Core.goto_fpTrapen (c : Core) (a : Word64) : (c.goto a).fpTrapen = c.fpTrapen := rfl
@[simp] theorem Core.goto_paramOvf (c : Core) (a : Word64) : (c.goto a).paramOvf = c.paramOvf := rfl
@[simp] theorem Core.goto_ctxPkey (c : Core) (a : Word64) : (c.goto a).ctxPkey = c.ctxPkey := rfl
@[simp] theorem Core.goto_views (c : Core) (a : Word64) : (c.goto a).views = c.views := rfl
@[simp] theorem Core.goto_idx (c : Core) (a : Word64) : (c.goto a).idx = c.idx := rfl
@[simp] theorem Core.goto_streams (c : Core) (a : Word64) : (c.goto a).streams = c.streams := rfl
@[simp] theorem Core.goto_flags (c : Core) (a : Word64) : (c.goto a).flags = c.flags := rfl
@[simp] theorem Core.goto_accOvf (c : Core) (a : Word64) : (c.goto a).accOvf = c.accOvf := rfl
@[simp] theorem Core.goto_banks (c : Core) (a : Word64) : (c.goto a).banks = c.banks := rfl
@[simp] theorem Core.goto_scratch (c : Core) (a : Word64) : (c.goto a).scratch = c.scratch := rfl
@[simp] theorem Core.goto_regs (c : Core) (a : Word64) : (c.goto a).regs = c.regs := rfl
@[simp] theorem Core.goto_qcw (c : Core) (a : Word64) : (c.goto a).qcw = c.qcw := rfl
@[simp] theorem Core.goto_remap (c : Core) (a : Word64) : (c.goto a).remap = c.remap := rfl
@[simp] theorem Core.goto_cmdq (c : Core) (a : Word64) : (c.goto a).cmdq = c.cmdq := rfl
@[simp] theorem Core.goto_loopRun (c : Core) (a : Word64) : (c.goto a).loopRun = c.loopRun := rfl
@[simp] theorem Core.goto_zeroing (c : Core) (a : Word64) : (c.goto a).zeroing = c.zeroing := rfl
@[simp] theorem Core.goto_paramq (c : Core) (a : Word64) : (c.goto a).paramq = c.paramq := rfl
@[simp] theorem Core.goto_aq (c : Core) (a : Word64) : (c.goto a).aq = c.aq := rfl
@[simp] theorem Core.goto_elems (c : Core) (a : Word64) : (c.goto a).elems = c.elems := rfl
@[simp] theorem Core.goto_landing (c : Core) (a : Word64) : (c.goto a).landing = c.landing := rfl
@[simp] theorem Core.goto_occ (c : Core) (a : Word64) : (c.goto a).occ = c.occ := rfl
@[simp] theorem Core.goto_stall (c : Core) (a : Word64) : (c.goto a).stall = c.stall := rfl
@[simp] theorem Core.goto_hostWrites (c : Core) (a : Word64) : (c.goto a).hostWrites = c.hostWrites := rfl
@[simp] theorem Core.goto_hostPage (c : Core) (a : Word64) : (c.goto a).hostPage = c.hostPage := rfl
@[simp] theorem Core.goto_gatherFaults (c : Core) (a : Word64) : (c.goto a).gatherFaults = c.gatherFaults := rfl
@[simp] theorem Core.goto_tags (c : Core) (a : Word64) : (c.goto a).tags = c.tags := rfl
@[simp] theorem Core.goto_bars (c : Core) (a : Word64) : (c.goto a).bars = c.bars := rfl
@[simp] theorem Core.goto_held (c : Core) (a : Word64) : (c.goto a).held = c.held := rfl
@[simp] theorem Core.goto_rope (c : Core) (a : Word64) : (c.goto a).rope = c.rope := rfl
@[simp] theorem Core.goto_tlb (c : Core) (a : Word64) : (c.goto a).tlb = c.tlb := rfl
@[simp] theorem Core.goto_dirty (c : Core) (a : Word64) : (c.goto a).dirty = c.dirty := rfl
@[simp] theorem Core.goto_prevCtx (c : Core) (a : Word64) : (c.goto a).prevCtx = c.prevCtx := rfl
@[simp] theorem Core.goto_ivl (c : Core) (a : Word64) : (c.goto a).ivl = c.ivl := rfl
@[simp] theorem Core.goto_relScopes (c : Core) (a : Word64) : (c.goto a).relScopes = c.relScopes := rfl
@[simp] theorem Core.goto_missCp (c : Core) (a : Word64) : (c.goto a).missCp = c.missCp := rfl
@[simp] theorem Core.goto_missVs (c : Core) (a : Word64) : (c.goto a).missVs = c.missVs := rfl
@[simp] theorem Core.goto_us (c : Core) (a : Word64) : (c.goto a).us = c.us := rfl
@[simp] theorem Core.goto_stopUs (c : Core) (a : Word64) : (c.goto a).stopUs = c.stopUs := rfl
@[simp] theorem Core.goto_wdLimit (c : Core) (a : Word64) : (c.goto a).wdLimit = c.wdLimit := rfl
@[simp] theorem Core.goto_preemptReq (c : Core) (a : Word64) : (c.goto a).preemptReq = c.preemptReq := rfl

@[simp] theorem Core.setTag_run (c : Core) (n : Nat) (t : Option Tag) : (c.setTag n t).run = c.run := rfl
@[simp] theorem Core.setTag_task (c : Core) (n : Nat) (t : Option Tag) : (c.setTag n t).task = c.task := rfl
@[simp] theorem Core.setTag_g (c : Core) (n : Nat) (t : Option Tag) : (c.setTag n t).g = c.g := rfl
@[simp] theorem Core.setTag_pc (c : Core) (n : Nat) (t : Option Tag) : (c.setTag n t).pc = c.pc := rfl
@[simp] theorem Core.setTag_pcFrom (c : Core) (n : Nat) (t : Option Tag) : (c.setTag n t).pcFrom = c.pcFrom := rfl
@[simp] theorem Core.setTag_wait (c : Core) (n : Nat) (t : Option Tag) : (c.setTag n t).wait = c.wait := rfl
@[simp] theorem Core.setTag_cmdIdx (c : Core) (n : Nat) (t : Option Tag) : (c.setTag n t).cmdIdx = c.cmdIdx := rfl
@[simp] theorem Core.setTag_jetOrder (c : Core) (n : Nat) (t : Option Tag) : (c.setTag n t).jetOrder = c.jetOrder := rfl
@[simp] theorem Core.setTag_fpFlags (c : Core) (n : Nat) (t : Option Tag) : (c.setTag n t).fpFlags = c.fpFlags := rfl
@[simp] theorem Core.setTag_fpTrapen (c : Core) (n : Nat) (t : Option Tag) : (c.setTag n t).fpTrapen = c.fpTrapen := rfl
@[simp] theorem Core.setTag_paramOvf (c : Core) (n : Nat) (t : Option Tag) : (c.setTag n t).paramOvf = c.paramOvf := rfl
@[simp] theorem Core.setTag_ctxPkey (c : Core) (n : Nat) (t : Option Tag) : (c.setTag n t).ctxPkey = c.ctxPkey := rfl
@[simp] theorem Core.setTag_views (c : Core) (n : Nat) (t : Option Tag) : (c.setTag n t).views = c.views := rfl
@[simp] theorem Core.setTag_idx (c : Core) (n : Nat) (t : Option Tag) : (c.setTag n t).idx = c.idx := rfl
@[simp] theorem Core.setTag_streams (c : Core) (n : Nat) (t : Option Tag) : (c.setTag n t).streams = c.streams := rfl
@[simp] theorem Core.setTag_flags (c : Core) (n : Nat) (t : Option Tag) : (c.setTag n t).flags = c.flags := rfl
@[simp] theorem Core.setTag_accOvf (c : Core) (n : Nat) (t : Option Tag) : (c.setTag n t).accOvf = c.accOvf := rfl
@[simp] theorem Core.setTag_banks (c : Core) (n : Nat) (t : Option Tag) : (c.setTag n t).banks = c.banks := rfl
@[simp] theorem Core.setTag_scratch (c : Core) (n : Nat) (t : Option Tag) : (c.setTag n t).scratch = c.scratch := rfl
@[simp] theorem Core.setTag_regs (c : Core) (n : Nat) (t : Option Tag) : (c.setTag n t).regs = c.regs := rfl
@[simp] theorem Core.setTag_qcw (c : Core) (n : Nat) (t : Option Tag) : (c.setTag n t).qcw = c.qcw := rfl
@[simp] theorem Core.setTag_remap (c : Core) (n : Nat) (t : Option Tag) : (c.setTag n t).remap = c.remap := rfl
@[simp] theorem Core.setTag_cmdq (c : Core) (n : Nat) (t : Option Tag) : (c.setTag n t).cmdq = c.cmdq := rfl
@[simp] theorem Core.setTag_loopRun (c : Core) (n : Nat) (t : Option Tag) : (c.setTag n t).loopRun = c.loopRun := rfl
@[simp] theorem Core.setTag_zeroing (c : Core) (n : Nat) (t : Option Tag) : (c.setTag n t).zeroing = c.zeroing := rfl
@[simp] theorem Core.setTag_paramq (c : Core) (n : Nat) (t : Option Tag) : (c.setTag n t).paramq = c.paramq := rfl
@[simp] theorem Core.setTag_aq (c : Core) (n : Nat) (t : Option Tag) : (c.setTag n t).aq = c.aq := rfl
@[simp] theorem Core.setTag_elems (c : Core) (n : Nat) (t : Option Tag) : (c.setTag n t).elems = c.elems := rfl
@[simp] theorem Core.setTag_landing (c : Core) (n : Nat) (t : Option Tag) : (c.setTag n t).landing = c.landing := rfl
@[simp] theorem Core.setTag_occ (c : Core) (n : Nat) (t : Option Tag) : (c.setTag n t).occ = c.occ := rfl
@[simp] theorem Core.setTag_stall (c : Core) (n : Nat) (t : Option Tag) : (c.setTag n t).stall = c.stall := rfl
@[simp] theorem Core.setTag_hostWrites (c : Core) (n : Nat) (t : Option Tag) : (c.setTag n t).hostWrites = c.hostWrites := rfl
@[simp] theorem Core.setTag_hostPage (c : Core) (n : Nat) (t : Option Tag) : (c.setTag n t).hostPage = c.hostPage := rfl
@[simp] theorem Core.setTag_gatherFaults (c : Core) (n : Nat) (t : Option Tag) : (c.setTag n t).gatherFaults = c.gatherFaults := rfl
@[simp] theorem Core.setTag_bars (c : Core) (n : Nat) (t : Option Tag) : (c.setTag n t).bars = c.bars := rfl
@[simp] theorem Core.setTag_held (c : Core) (n : Nat) (t : Option Tag) : (c.setTag n t).held = c.held := rfl
@[simp] theorem Core.setTag_rope (c : Core) (n : Nat) (t : Option Tag) : (c.setTag n t).rope = c.rope := rfl
@[simp] theorem Core.setTag_tlb (c : Core) (n : Nat) (t : Option Tag) : (c.setTag n t).tlb = c.tlb := rfl
@[simp] theorem Core.setTag_dirty (c : Core) (n : Nat) (t : Option Tag) : (c.setTag n t).dirty = c.dirty := rfl
@[simp] theorem Core.setTag_prevCtx (c : Core) (n : Nat) (t : Option Tag) : (c.setTag n t).prevCtx = c.prevCtx := rfl
@[simp] theorem Core.setTag_ivl (c : Core) (n : Nat) (t : Option Tag) : (c.setTag n t).ivl = c.ivl := rfl
@[simp] theorem Core.setTag_relScopes (c : Core) (n : Nat) (t : Option Tag) : (c.setTag n t).relScopes = c.relScopes := rfl
@[simp] theorem Core.setTag_missCp (c : Core) (n : Nat) (t : Option Tag) : (c.setTag n t).missCp = c.missCp := rfl
@[simp] theorem Core.setTag_missVs (c : Core) (n : Nat) (t : Option Tag) : (c.setTag n t).missVs = c.missVs := rfl
@[simp] theorem Core.setTag_us (c : Core) (n : Nat) (t : Option Tag) : (c.setTag n t).us = c.us := rfl
@[simp] theorem Core.setTag_stopUs (c : Core) (n : Nat) (t : Option Tag) : (c.setTag n t).stopUs = c.stopUs := rfl
@[simp] theorem Core.setTag_wdLimit (c : Core) (n : Nat) (t : Option Tag) : (c.setTag n t).wdLimit = c.wdLimit := rfl
@[simp] theorem Core.setTag_preemptReq (c : Core) (n : Nat) (t : Option Tag) : (c.setTag n t).preemptReq = c.preemptReq := rfl

@[simp] theorem Core.setQ_run (c : Core) (n : BitVec 3) (q : Qcw) : (c.setQ n q).run = c.run := rfl
@[simp] theorem Core.setQ_task (c : Core) (n : BitVec 3) (q : Qcw) : (c.setQ n q).task = c.task := rfl
@[simp] theorem Core.setQ_g (c : Core) (n : BitVec 3) (q : Qcw) : (c.setQ n q).g = c.g := rfl
@[simp] theorem Core.setQ_pc (c : Core) (n : BitVec 3) (q : Qcw) : (c.setQ n q).pc = c.pc := rfl
@[simp] theorem Core.setQ_pcFrom (c : Core) (n : BitVec 3) (q : Qcw) : (c.setQ n q).pcFrom = c.pcFrom := rfl
@[simp] theorem Core.setQ_wait (c : Core) (n : BitVec 3) (q : Qcw) : (c.setQ n q).wait = c.wait := rfl
@[simp] theorem Core.setQ_cmdIdx (c : Core) (n : BitVec 3) (q : Qcw) : (c.setQ n q).cmdIdx = c.cmdIdx := rfl
@[simp] theorem Core.setQ_jetOrder (c : Core) (n : BitVec 3) (q : Qcw) : (c.setQ n q).jetOrder = c.jetOrder := rfl
@[simp] theorem Core.setQ_fpFlags (c : Core) (n : BitVec 3) (q : Qcw) : (c.setQ n q).fpFlags = c.fpFlags := rfl
@[simp] theorem Core.setQ_fpTrapen (c : Core) (n : BitVec 3) (q : Qcw) : (c.setQ n q).fpTrapen = c.fpTrapen := rfl
@[simp] theorem Core.setQ_paramOvf (c : Core) (n : BitVec 3) (q : Qcw) : (c.setQ n q).paramOvf = c.paramOvf := rfl
@[simp] theorem Core.setQ_ctxPkey (c : Core) (n : BitVec 3) (q : Qcw) : (c.setQ n q).ctxPkey = c.ctxPkey := rfl
@[simp] theorem Core.setQ_views (c : Core) (n : BitVec 3) (q : Qcw) : (c.setQ n q).views = c.views := rfl
@[simp] theorem Core.setQ_idx (c : Core) (n : BitVec 3) (q : Qcw) : (c.setQ n q).idx = c.idx := rfl
@[simp] theorem Core.setQ_streams (c : Core) (n : BitVec 3) (q : Qcw) : (c.setQ n q).streams = c.streams := rfl
@[simp] theorem Core.setQ_flags (c : Core) (n : BitVec 3) (q : Qcw) : (c.setQ n q).flags = c.flags := rfl
@[simp] theorem Core.setQ_accOvf (c : Core) (n : BitVec 3) (q : Qcw) : (c.setQ n q).accOvf = c.accOvf := rfl
@[simp] theorem Core.setQ_banks (c : Core) (n : BitVec 3) (q : Qcw) : (c.setQ n q).banks = c.banks := rfl
@[simp] theorem Core.setQ_scratch (c : Core) (n : BitVec 3) (q : Qcw) : (c.setQ n q).scratch = c.scratch := rfl
@[simp] theorem Core.setQ_regs (c : Core) (n : BitVec 3) (q : Qcw) : (c.setQ n q).regs = c.regs := rfl
@[simp] theorem Core.setQ_remap (c : Core) (n : BitVec 3) (q : Qcw) : (c.setQ n q).remap = c.remap := rfl
@[simp] theorem Core.setQ_cmdq (c : Core) (n : BitVec 3) (q : Qcw) : (c.setQ n q).cmdq = c.cmdq := rfl
@[simp] theorem Core.setQ_loopRun (c : Core) (n : BitVec 3) (q : Qcw) : (c.setQ n q).loopRun = c.loopRun := rfl
@[simp] theorem Core.setQ_zeroing (c : Core) (n : BitVec 3) (q : Qcw) : (c.setQ n q).zeroing = c.zeroing := rfl
@[simp] theorem Core.setQ_paramq (c : Core) (n : BitVec 3) (q : Qcw) : (c.setQ n q).paramq = c.paramq := rfl
@[simp] theorem Core.setQ_aq (c : Core) (n : BitVec 3) (q : Qcw) : (c.setQ n q).aq = c.aq := rfl
@[simp] theorem Core.setQ_elems (c : Core) (n : BitVec 3) (q : Qcw) : (c.setQ n q).elems = c.elems := rfl
@[simp] theorem Core.setQ_landing (c : Core) (n : BitVec 3) (q : Qcw) : (c.setQ n q).landing = c.landing := rfl
@[simp] theorem Core.setQ_occ (c : Core) (n : BitVec 3) (q : Qcw) : (c.setQ n q).occ = c.occ := rfl
@[simp] theorem Core.setQ_stall (c : Core) (n : BitVec 3) (q : Qcw) : (c.setQ n q).stall = c.stall := rfl
@[simp] theorem Core.setQ_hostWrites (c : Core) (n : BitVec 3) (q : Qcw) : (c.setQ n q).hostWrites = c.hostWrites := rfl
@[simp] theorem Core.setQ_hostPage (c : Core) (n : BitVec 3) (q : Qcw) : (c.setQ n q).hostPage = c.hostPage := rfl
@[simp] theorem Core.setQ_gatherFaults (c : Core) (n : BitVec 3) (q : Qcw) : (c.setQ n q).gatherFaults = c.gatherFaults := rfl
@[simp] theorem Core.setQ_tags (c : Core) (n : BitVec 3) (q : Qcw) : (c.setQ n q).tags = c.tags := rfl
@[simp] theorem Core.setQ_bars (c : Core) (n : BitVec 3) (q : Qcw) : (c.setQ n q).bars = c.bars := rfl
@[simp] theorem Core.setQ_held (c : Core) (n : BitVec 3) (q : Qcw) : (c.setQ n q).held = c.held := rfl
@[simp] theorem Core.setQ_rope (c : Core) (n : BitVec 3) (q : Qcw) : (c.setQ n q).rope = c.rope := rfl
@[simp] theorem Core.setQ_tlb (c : Core) (n : BitVec 3) (q : Qcw) : (c.setQ n q).tlb = c.tlb := rfl
@[simp] theorem Core.setQ_dirty (c : Core) (n : BitVec 3) (q : Qcw) : (c.setQ n q).dirty = c.dirty := rfl
@[simp] theorem Core.setQ_prevCtx (c : Core) (n : BitVec 3) (q : Qcw) : (c.setQ n q).prevCtx = c.prevCtx := rfl
@[simp] theorem Core.setQ_ivl (c : Core) (n : BitVec 3) (q : Qcw) : (c.setQ n q).ivl = c.ivl := rfl
@[simp] theorem Core.setQ_relScopes (c : Core) (n : BitVec 3) (q : Qcw) : (c.setQ n q).relScopes = c.relScopes := rfl
@[simp] theorem Core.setQ_missCp (c : Core) (n : BitVec 3) (q : Qcw) : (c.setQ n q).missCp = c.missCp := rfl
@[simp] theorem Core.setQ_missVs (c : Core) (n : BitVec 3) (q : Qcw) : (c.setQ n q).missVs = c.missVs := rfl
@[simp] theorem Core.setQ_us (c : Core) (n : BitVec 3) (q : Qcw) : (c.setQ n q).us = c.us := rfl
@[simp] theorem Core.setQ_stopUs (c : Core) (n : BitVec 3) (q : Qcw) : (c.setQ n q).stopUs = c.stopUs := rfl
@[simp] theorem Core.setQ_wdLimit (c : Core) (n : BitVec 3) (q : Qcw) : (c.setQ n q).wdLimit = c.wdLimit := rfl
@[simp] theorem Core.setQ_preemptReq (c : Core) (n : BitVec 3) (q : Qcw) : (c.setQ n q).preemptReq = c.preemptReq := rfl

@[simp] theorem Core.setBank_run (c : Core) (n : BitVec 5) (b : Bank) : (c.setBank n b).run = c.run := rfl
@[simp] theorem Core.setBank_task (c : Core) (n : BitVec 5) (b : Bank) : (c.setBank n b).task = c.task := rfl
@[simp] theorem Core.setBank_g (c : Core) (n : BitVec 5) (b : Bank) : (c.setBank n b).g = c.g := rfl
@[simp] theorem Core.setBank_pc (c : Core) (n : BitVec 5) (b : Bank) : (c.setBank n b).pc = c.pc := rfl
@[simp] theorem Core.setBank_pcFrom (c : Core) (n : BitVec 5) (b : Bank) : (c.setBank n b).pcFrom = c.pcFrom := rfl
@[simp] theorem Core.setBank_wait (c : Core) (n : BitVec 5) (b : Bank) : (c.setBank n b).wait = c.wait := rfl
@[simp] theorem Core.setBank_cmdIdx (c : Core) (n : BitVec 5) (b : Bank) : (c.setBank n b).cmdIdx = c.cmdIdx := rfl
@[simp] theorem Core.setBank_jetOrder (c : Core) (n : BitVec 5) (b : Bank) : (c.setBank n b).jetOrder = c.jetOrder := rfl
@[simp] theorem Core.setBank_fpFlags (c : Core) (n : BitVec 5) (b : Bank) : (c.setBank n b).fpFlags = c.fpFlags := rfl
@[simp] theorem Core.setBank_fpTrapen (c : Core) (n : BitVec 5) (b : Bank) : (c.setBank n b).fpTrapen = c.fpTrapen := rfl
@[simp] theorem Core.setBank_paramOvf (c : Core) (n : BitVec 5) (b : Bank) : (c.setBank n b).paramOvf = c.paramOvf := rfl
@[simp] theorem Core.setBank_ctxPkey (c : Core) (n : BitVec 5) (b : Bank) : (c.setBank n b).ctxPkey = c.ctxPkey := rfl
@[simp] theorem Core.setBank_views (c : Core) (n : BitVec 5) (b : Bank) : (c.setBank n b).views = c.views := rfl
@[simp] theorem Core.setBank_idx (c : Core) (n : BitVec 5) (b : Bank) : (c.setBank n b).idx = c.idx := rfl
@[simp] theorem Core.setBank_streams (c : Core) (n : BitVec 5) (b : Bank) : (c.setBank n b).streams = c.streams := rfl
@[simp] theorem Core.setBank_flags (c : Core) (n : BitVec 5) (b : Bank) : (c.setBank n b).flags = c.flags := rfl
@[simp] theorem Core.setBank_accOvf (c : Core) (n : BitVec 5) (b : Bank) : (c.setBank n b).accOvf = c.accOvf := rfl
@[simp] theorem Core.setBank_scratch (c : Core) (n : BitVec 5) (b : Bank) : (c.setBank n b).scratch = c.scratch := rfl
@[simp] theorem Core.setBank_regs (c : Core) (n : BitVec 5) (b : Bank) : (c.setBank n b).regs = c.regs := rfl
@[simp] theorem Core.setBank_qcw (c : Core) (n : BitVec 5) (b : Bank) : (c.setBank n b).qcw = c.qcw := rfl
@[simp] theorem Core.setBank_remap (c : Core) (n : BitVec 5) (b : Bank) : (c.setBank n b).remap = c.remap := rfl
@[simp] theorem Core.setBank_cmdq (c : Core) (n : BitVec 5) (b : Bank) : (c.setBank n b).cmdq = c.cmdq := rfl
@[simp] theorem Core.setBank_loopRun (c : Core) (n : BitVec 5) (b : Bank) : (c.setBank n b).loopRun = c.loopRun := rfl
@[simp] theorem Core.setBank_zeroing (c : Core) (n : BitVec 5) (b : Bank) : (c.setBank n b).zeroing = c.zeroing := rfl
@[simp] theorem Core.setBank_paramq (c : Core) (n : BitVec 5) (b : Bank) : (c.setBank n b).paramq = c.paramq := rfl
@[simp] theorem Core.setBank_aq (c : Core) (n : BitVec 5) (b : Bank) : (c.setBank n b).aq = c.aq := rfl
@[simp] theorem Core.setBank_elems (c : Core) (n : BitVec 5) (b : Bank) : (c.setBank n b).elems = c.elems := rfl
@[simp] theorem Core.setBank_landing (c : Core) (n : BitVec 5) (b : Bank) : (c.setBank n b).landing = c.landing := rfl
@[simp] theorem Core.setBank_occ (c : Core) (n : BitVec 5) (b : Bank) : (c.setBank n b).occ = c.occ := rfl
@[simp] theorem Core.setBank_stall (c : Core) (n : BitVec 5) (b : Bank) : (c.setBank n b).stall = c.stall := rfl
@[simp] theorem Core.setBank_hostWrites (c : Core) (n : BitVec 5) (b : Bank) : (c.setBank n b).hostWrites = c.hostWrites := rfl
@[simp] theorem Core.setBank_hostPage (c : Core) (n : BitVec 5) (b : Bank) : (c.setBank n b).hostPage = c.hostPage := rfl
@[simp] theorem Core.setBank_gatherFaults (c : Core) (n : BitVec 5) (b : Bank) : (c.setBank n b).gatherFaults = c.gatherFaults := rfl
@[simp] theorem Core.setBank_tags (c : Core) (n : BitVec 5) (b : Bank) : (c.setBank n b).tags = c.tags := rfl
@[simp] theorem Core.setBank_bars (c : Core) (n : BitVec 5) (b : Bank) : (c.setBank n b).bars = c.bars := rfl
@[simp] theorem Core.setBank_held (c : Core) (n : BitVec 5) (b : Bank) : (c.setBank n b).held = c.held := rfl
@[simp] theorem Core.setBank_rope (c : Core) (n : BitVec 5) (b : Bank) : (c.setBank n b).rope = c.rope := rfl
@[simp] theorem Core.setBank_tlb (c : Core) (n : BitVec 5) (b : Bank) : (c.setBank n b).tlb = c.tlb := rfl
@[simp] theorem Core.setBank_dirty (c : Core) (n : BitVec 5) (b : Bank) : (c.setBank n b).dirty = c.dirty := rfl
@[simp] theorem Core.setBank_prevCtx (c : Core) (n : BitVec 5) (b : Bank) : (c.setBank n b).prevCtx = c.prevCtx := rfl
@[simp] theorem Core.setBank_ivl (c : Core) (n : BitVec 5) (b : Bank) : (c.setBank n b).ivl = c.ivl := rfl
@[simp] theorem Core.setBank_relScopes (c : Core) (n : BitVec 5) (b : Bank) : (c.setBank n b).relScopes = c.relScopes := rfl
@[simp] theorem Core.setBank_missCp (c : Core) (n : BitVec 5) (b : Bank) : (c.setBank n b).missCp = c.missCp := rfl
@[simp] theorem Core.setBank_missVs (c : Core) (n : BitVec 5) (b : Bank) : (c.setBank n b).missVs = c.missVs := rfl
@[simp] theorem Core.setBank_us (c : Core) (n : BitVec 5) (b : Bank) : (c.setBank n b).us = c.us := rfl
@[simp] theorem Core.setBank_stopUs (c : Core) (n : BitVec 5) (b : Bank) : (c.setBank n b).stopUs = c.stopUs := rfl
@[simp] theorem Core.setBank_wdLimit (c : Core) (n : BitVec 5) (b : Bank) : (c.setBank n b).wdLimit = c.wdLimit := rfl
@[simp] theorem Core.setBank_preemptReq (c : Core) (n : BitVec 5) (b : Bank) : (c.setBank n b).preemptReq = c.preemptReq := rfl

@[simp] theorem Core.setBar_run (c : Core) (b : BitVec 6) (x : Barrier) : (c.setBar b x).run = c.run := rfl
@[simp] theorem Core.setBar_task (c : Core) (b : BitVec 6) (x : Barrier) : (c.setBar b x).task = c.task := rfl
@[simp] theorem Core.setBar_g (c : Core) (b : BitVec 6) (x : Barrier) : (c.setBar b x).g = c.g := rfl
@[simp] theorem Core.setBar_pc (c : Core) (b : BitVec 6) (x : Barrier) : (c.setBar b x).pc = c.pc := rfl
@[simp] theorem Core.setBar_pcFrom (c : Core) (b : BitVec 6) (x : Barrier) : (c.setBar b x).pcFrom = c.pcFrom := rfl
@[simp] theorem Core.setBar_wait (c : Core) (b : BitVec 6) (x : Barrier) : (c.setBar b x).wait = c.wait := rfl
@[simp] theorem Core.setBar_cmdIdx (c : Core) (b : BitVec 6) (x : Barrier) : (c.setBar b x).cmdIdx = c.cmdIdx := rfl
@[simp] theorem Core.setBar_jetOrder (c : Core) (b : BitVec 6) (x : Barrier) : (c.setBar b x).jetOrder = c.jetOrder := rfl
@[simp] theorem Core.setBar_fpFlags (c : Core) (b : BitVec 6) (x : Barrier) : (c.setBar b x).fpFlags = c.fpFlags := rfl
@[simp] theorem Core.setBar_fpTrapen (c : Core) (b : BitVec 6) (x : Barrier) : (c.setBar b x).fpTrapen = c.fpTrapen := rfl
@[simp] theorem Core.setBar_paramOvf (c : Core) (b : BitVec 6) (x : Barrier) : (c.setBar b x).paramOvf = c.paramOvf := rfl
@[simp] theorem Core.setBar_ctxPkey (c : Core) (b : BitVec 6) (x : Barrier) : (c.setBar b x).ctxPkey = c.ctxPkey := rfl
@[simp] theorem Core.setBar_views (c : Core) (b : BitVec 6) (x : Barrier) : (c.setBar b x).views = c.views := rfl
@[simp] theorem Core.setBar_idx (c : Core) (b : BitVec 6) (x : Barrier) : (c.setBar b x).idx = c.idx := rfl
@[simp] theorem Core.setBar_streams (c : Core) (b : BitVec 6) (x : Barrier) : (c.setBar b x).streams = c.streams := rfl
@[simp] theorem Core.setBar_flags (c : Core) (b : BitVec 6) (x : Barrier) : (c.setBar b x).flags = c.flags := rfl
@[simp] theorem Core.setBar_accOvf (c : Core) (b : BitVec 6) (x : Barrier) : (c.setBar b x).accOvf = c.accOvf := rfl
@[simp] theorem Core.setBar_banks (c : Core) (b : BitVec 6) (x : Barrier) : (c.setBar b x).banks = c.banks := rfl
@[simp] theorem Core.setBar_scratch (c : Core) (b : BitVec 6) (x : Barrier) : (c.setBar b x).scratch = c.scratch := rfl
@[simp] theorem Core.setBar_regs (c : Core) (b : BitVec 6) (x : Barrier) : (c.setBar b x).regs = c.regs := rfl
@[simp] theorem Core.setBar_qcw (c : Core) (b : BitVec 6) (x : Barrier) : (c.setBar b x).qcw = c.qcw := rfl
@[simp] theorem Core.setBar_remap (c : Core) (b : BitVec 6) (x : Barrier) : (c.setBar b x).remap = c.remap := rfl
@[simp] theorem Core.setBar_cmdq (c : Core) (b : BitVec 6) (x : Barrier) : (c.setBar b x).cmdq = c.cmdq := rfl
@[simp] theorem Core.setBar_loopRun (c : Core) (b : BitVec 6) (x : Barrier) : (c.setBar b x).loopRun = c.loopRun := rfl
@[simp] theorem Core.setBar_zeroing (c : Core) (b : BitVec 6) (x : Barrier) : (c.setBar b x).zeroing = c.zeroing := rfl
@[simp] theorem Core.setBar_paramq (c : Core) (b : BitVec 6) (x : Barrier) : (c.setBar b x).paramq = c.paramq := rfl
@[simp] theorem Core.setBar_aq (c : Core) (b : BitVec 6) (x : Barrier) : (c.setBar b x).aq = c.aq := rfl
@[simp] theorem Core.setBar_elems (c : Core) (b : BitVec 6) (x : Barrier) : (c.setBar b x).elems = c.elems := rfl
@[simp] theorem Core.setBar_landing (c : Core) (b : BitVec 6) (x : Barrier) : (c.setBar b x).landing = c.landing := rfl
@[simp] theorem Core.setBar_occ (c : Core) (b : BitVec 6) (x : Barrier) : (c.setBar b x).occ = c.occ := rfl
@[simp] theorem Core.setBar_stall (c : Core) (b : BitVec 6) (x : Barrier) : (c.setBar b x).stall = c.stall := rfl
@[simp] theorem Core.setBar_hostWrites (c : Core) (b : BitVec 6) (x : Barrier) : (c.setBar b x).hostWrites = c.hostWrites := rfl
@[simp] theorem Core.setBar_hostPage (c : Core) (b : BitVec 6) (x : Barrier) : (c.setBar b x).hostPage = c.hostPage := rfl
@[simp] theorem Core.setBar_gatherFaults (c : Core) (b : BitVec 6) (x : Barrier) : (c.setBar b x).gatherFaults = c.gatherFaults := rfl
@[simp] theorem Core.setBar_tags (c : Core) (b : BitVec 6) (x : Barrier) : (c.setBar b x).tags = c.tags := rfl
@[simp] theorem Core.setBar_held (c : Core) (b : BitVec 6) (x : Barrier) : (c.setBar b x).held = c.held := rfl
@[simp] theorem Core.setBar_rope (c : Core) (b : BitVec 6) (x : Barrier) : (c.setBar b x).rope = c.rope := rfl
@[simp] theorem Core.setBar_tlb (c : Core) (b : BitVec 6) (x : Barrier) : (c.setBar b x).tlb = c.tlb := rfl
@[simp] theorem Core.setBar_dirty (c : Core) (b : BitVec 6) (x : Barrier) : (c.setBar b x).dirty = c.dirty := rfl
@[simp] theorem Core.setBar_prevCtx (c : Core) (b : BitVec 6) (x : Barrier) : (c.setBar b x).prevCtx = c.prevCtx := rfl
@[simp] theorem Core.setBar_ivl (c : Core) (b : BitVec 6) (x : Barrier) : (c.setBar b x).ivl = c.ivl := rfl
@[simp] theorem Core.setBar_relScopes (c : Core) (b : BitVec 6) (x : Barrier) : (c.setBar b x).relScopes = c.relScopes := rfl
@[simp] theorem Core.setBar_missCp (c : Core) (b : BitVec 6) (x : Barrier) : (c.setBar b x).missCp = c.missCp := rfl
@[simp] theorem Core.setBar_missVs (c : Core) (b : BitVec 6) (x : Barrier) : (c.setBar b x).missVs = c.missVs := rfl
@[simp] theorem Core.setBar_us (c : Core) (b : BitVec 6) (x : Barrier) : (c.setBar b x).us = c.us := rfl
@[simp] theorem Core.setBar_stopUs (c : Core) (b : BitVec 6) (x : Barrier) : (c.setBar b x).stopUs = c.stopUs := rfl
@[simp] theorem Core.setBar_wdLimit (c : Core) (b : BitVec 6) (x : Barrier) : (c.setBar b x).wdLimit = c.wdLimit := rfl
@[simp] theorem Core.setBar_preemptReq (c : Core) (b : BitVec 6) (x : Barrier) : (c.setBar b x).preemptReq = c.preemptReq := rfl

@[simp] theorem Core.writeScratch_run (c : Core) (a : Nat) (v : List Byte) : (c.writeScratch a v).run = c.run := rfl
@[simp] theorem Core.writeScratch_task (c : Core) (a : Nat) (v : List Byte) : (c.writeScratch a v).task = c.task := rfl
@[simp] theorem Core.writeScratch_g (c : Core) (a : Nat) (v : List Byte) : (c.writeScratch a v).g = c.g := rfl
@[simp] theorem Core.writeScratch_pc (c : Core) (a : Nat) (v : List Byte) : (c.writeScratch a v).pc = c.pc := rfl
@[simp] theorem Core.writeScratch_pcFrom (c : Core) (a : Nat) (v : List Byte) : (c.writeScratch a v).pcFrom = c.pcFrom := rfl
@[simp] theorem Core.writeScratch_wait (c : Core) (a : Nat) (v : List Byte) : (c.writeScratch a v).wait = c.wait := rfl
@[simp] theorem Core.writeScratch_cmdIdx (c : Core) (a : Nat) (v : List Byte) : (c.writeScratch a v).cmdIdx = c.cmdIdx := rfl
@[simp] theorem Core.writeScratch_jetOrder (c : Core) (a : Nat) (v : List Byte) : (c.writeScratch a v).jetOrder = c.jetOrder := rfl
@[simp] theorem Core.writeScratch_fpFlags (c : Core) (a : Nat) (v : List Byte) : (c.writeScratch a v).fpFlags = c.fpFlags := rfl
@[simp] theorem Core.writeScratch_fpTrapen (c : Core) (a : Nat) (v : List Byte) : (c.writeScratch a v).fpTrapen = c.fpTrapen := rfl
@[simp] theorem Core.writeScratch_paramOvf (c : Core) (a : Nat) (v : List Byte) : (c.writeScratch a v).paramOvf = c.paramOvf := rfl
@[simp] theorem Core.writeScratch_ctxPkey (c : Core) (a : Nat) (v : List Byte) : (c.writeScratch a v).ctxPkey = c.ctxPkey := rfl
@[simp] theorem Core.writeScratch_views (c : Core) (a : Nat) (v : List Byte) : (c.writeScratch a v).views = c.views := rfl
@[simp] theorem Core.writeScratch_idx (c : Core) (a : Nat) (v : List Byte) : (c.writeScratch a v).idx = c.idx := rfl
@[simp] theorem Core.writeScratch_streams (c : Core) (a : Nat) (v : List Byte) : (c.writeScratch a v).streams = c.streams := rfl
@[simp] theorem Core.writeScratch_flags (c : Core) (a : Nat) (v : List Byte) : (c.writeScratch a v).flags = c.flags := rfl
@[simp] theorem Core.writeScratch_accOvf (c : Core) (a : Nat) (v : List Byte) : (c.writeScratch a v).accOvf = c.accOvf := rfl
@[simp] theorem Core.writeScratch_banks (c : Core) (a : Nat) (v : List Byte) : (c.writeScratch a v).banks = c.banks := rfl
@[simp] theorem Core.writeScratch_regs (c : Core) (a : Nat) (v : List Byte) : (c.writeScratch a v).regs = c.regs := rfl
@[simp] theorem Core.writeScratch_qcw (c : Core) (a : Nat) (v : List Byte) : (c.writeScratch a v).qcw = c.qcw := rfl
@[simp] theorem Core.writeScratch_remap (c : Core) (a : Nat) (v : List Byte) : (c.writeScratch a v).remap = c.remap := rfl
@[simp] theorem Core.writeScratch_cmdq (c : Core) (a : Nat) (v : List Byte) : (c.writeScratch a v).cmdq = c.cmdq := rfl
@[simp] theorem Core.writeScratch_loopRun (c : Core) (a : Nat) (v : List Byte) : (c.writeScratch a v).loopRun = c.loopRun := rfl
@[simp] theorem Core.writeScratch_zeroing (c : Core) (a : Nat) (v : List Byte) : (c.writeScratch a v).zeroing = c.zeroing := rfl
@[simp] theorem Core.writeScratch_paramq (c : Core) (a : Nat) (v : List Byte) : (c.writeScratch a v).paramq = c.paramq := rfl
@[simp] theorem Core.writeScratch_aq (c : Core) (a : Nat) (v : List Byte) : (c.writeScratch a v).aq = c.aq := rfl
@[simp] theorem Core.writeScratch_elems (c : Core) (a : Nat) (v : List Byte) : (c.writeScratch a v).elems = c.elems := rfl
@[simp] theorem Core.writeScratch_landing (c : Core) (a : Nat) (v : List Byte) : (c.writeScratch a v).landing = c.landing := rfl
@[simp] theorem Core.writeScratch_occ (c : Core) (a : Nat) (v : List Byte) : (c.writeScratch a v).occ = c.occ := rfl
@[simp] theorem Core.writeScratch_stall (c : Core) (a : Nat) (v : List Byte) : (c.writeScratch a v).stall = c.stall := rfl
@[simp] theorem Core.writeScratch_hostWrites (c : Core) (a : Nat) (v : List Byte) : (c.writeScratch a v).hostWrites = c.hostWrites := rfl
@[simp] theorem Core.writeScratch_hostPage (c : Core) (a : Nat) (v : List Byte) : (c.writeScratch a v).hostPage = c.hostPage := rfl
@[simp] theorem Core.writeScratch_gatherFaults (c : Core) (a : Nat) (v : List Byte) : (c.writeScratch a v).gatherFaults = c.gatherFaults := rfl
@[simp] theorem Core.writeScratch_tags (c : Core) (a : Nat) (v : List Byte) : (c.writeScratch a v).tags = c.tags := rfl
@[simp] theorem Core.writeScratch_bars (c : Core) (a : Nat) (v : List Byte) : (c.writeScratch a v).bars = c.bars := rfl
@[simp] theorem Core.writeScratch_held (c : Core) (a : Nat) (v : List Byte) : (c.writeScratch a v).held = c.held := rfl
@[simp] theorem Core.writeScratch_rope (c : Core) (a : Nat) (v : List Byte) : (c.writeScratch a v).rope = c.rope := rfl
@[simp] theorem Core.writeScratch_tlb (c : Core) (a : Nat) (v : List Byte) : (c.writeScratch a v).tlb = c.tlb := rfl
@[simp] theorem Core.writeScratch_prevCtx (c : Core) (a : Nat) (v : List Byte) : (c.writeScratch a v).prevCtx = c.prevCtx := rfl
@[simp] theorem Core.writeScratch_ivl (c : Core) (a : Nat) (v : List Byte) : (c.writeScratch a v).ivl = c.ivl := rfl
@[simp] theorem Core.writeScratch_relScopes (c : Core) (a : Nat) (v : List Byte) : (c.writeScratch a v).relScopes = c.relScopes := rfl
@[simp] theorem Core.writeScratch_missCp (c : Core) (a : Nat) (v : List Byte) : (c.writeScratch a v).missCp = c.missCp := rfl
@[simp] theorem Core.writeScratch_missVs (c : Core) (a : Nat) (v : List Byte) : (c.writeScratch a v).missVs = c.missVs := rfl
@[simp] theorem Core.writeScratch_us (c : Core) (a : Nat) (v : List Byte) : (c.writeScratch a v).us = c.us := rfl
@[simp] theorem Core.writeScratch_stopUs (c : Core) (a : Nat) (v : List Byte) : (c.writeScratch a v).stopUs = c.stopUs := rfl
@[simp] theorem Core.writeScratch_wdLimit (c : Core) (a : Nat) (v : List Byte) : (c.writeScratch a v).wdLimit = c.wdLimit := rfl
@[simp] theorem Core.writeScratch_preemptReq (c : Core) (a : Nat) (v : List Byte) : (c.writeScratch a v).preemptReq = c.preemptReq := rfl

@[simp] theorem Core.writeRegs_run (c : Core) (a : Nat) (v : List Byte) : (c.writeRegs a v).run = c.run := rfl
@[simp] theorem Core.writeRegs_task (c : Core) (a : Nat) (v : List Byte) : (c.writeRegs a v).task = c.task := rfl
@[simp] theorem Core.writeRegs_g (c : Core) (a : Nat) (v : List Byte) : (c.writeRegs a v).g = c.g := rfl
@[simp] theorem Core.writeRegs_pc (c : Core) (a : Nat) (v : List Byte) : (c.writeRegs a v).pc = c.pc := rfl
@[simp] theorem Core.writeRegs_pcFrom (c : Core) (a : Nat) (v : List Byte) : (c.writeRegs a v).pcFrom = c.pcFrom := rfl
@[simp] theorem Core.writeRegs_wait (c : Core) (a : Nat) (v : List Byte) : (c.writeRegs a v).wait = c.wait := rfl
@[simp] theorem Core.writeRegs_cmdIdx (c : Core) (a : Nat) (v : List Byte) : (c.writeRegs a v).cmdIdx = c.cmdIdx := rfl
@[simp] theorem Core.writeRegs_jetOrder (c : Core) (a : Nat) (v : List Byte) : (c.writeRegs a v).jetOrder = c.jetOrder := rfl
@[simp] theorem Core.writeRegs_fpFlags (c : Core) (a : Nat) (v : List Byte) : (c.writeRegs a v).fpFlags = c.fpFlags := rfl
@[simp] theorem Core.writeRegs_fpTrapen (c : Core) (a : Nat) (v : List Byte) : (c.writeRegs a v).fpTrapen = c.fpTrapen := rfl
@[simp] theorem Core.writeRegs_paramOvf (c : Core) (a : Nat) (v : List Byte) : (c.writeRegs a v).paramOvf = c.paramOvf := rfl
@[simp] theorem Core.writeRegs_ctxPkey (c : Core) (a : Nat) (v : List Byte) : (c.writeRegs a v).ctxPkey = c.ctxPkey := rfl
@[simp] theorem Core.writeRegs_views (c : Core) (a : Nat) (v : List Byte) : (c.writeRegs a v).views = c.views := rfl
@[simp] theorem Core.writeRegs_idx (c : Core) (a : Nat) (v : List Byte) : (c.writeRegs a v).idx = c.idx := rfl
@[simp] theorem Core.writeRegs_streams (c : Core) (a : Nat) (v : List Byte) : (c.writeRegs a v).streams = c.streams := rfl
@[simp] theorem Core.writeRegs_flags (c : Core) (a : Nat) (v : List Byte) : (c.writeRegs a v).flags = c.flags := rfl
@[simp] theorem Core.writeRegs_accOvf (c : Core) (a : Nat) (v : List Byte) : (c.writeRegs a v).accOvf = c.accOvf := rfl
@[simp] theorem Core.writeRegs_banks (c : Core) (a : Nat) (v : List Byte) : (c.writeRegs a v).banks = c.banks := rfl
@[simp] theorem Core.writeRegs_scratch (c : Core) (a : Nat) (v : List Byte) : (c.writeRegs a v).scratch = c.scratch := rfl
@[simp] theorem Core.writeRegs_qcw (c : Core) (a : Nat) (v : List Byte) : (c.writeRegs a v).qcw = c.qcw := rfl
@[simp] theorem Core.writeRegs_remap (c : Core) (a : Nat) (v : List Byte) : (c.writeRegs a v).remap = c.remap := rfl
@[simp] theorem Core.writeRegs_cmdq (c : Core) (a : Nat) (v : List Byte) : (c.writeRegs a v).cmdq = c.cmdq := rfl
@[simp] theorem Core.writeRegs_loopRun (c : Core) (a : Nat) (v : List Byte) : (c.writeRegs a v).loopRun = c.loopRun := rfl
@[simp] theorem Core.writeRegs_zeroing (c : Core) (a : Nat) (v : List Byte) : (c.writeRegs a v).zeroing = c.zeroing := rfl
@[simp] theorem Core.writeRegs_paramq (c : Core) (a : Nat) (v : List Byte) : (c.writeRegs a v).paramq = c.paramq := rfl
@[simp] theorem Core.writeRegs_aq (c : Core) (a : Nat) (v : List Byte) : (c.writeRegs a v).aq = c.aq := rfl
@[simp] theorem Core.writeRegs_elems (c : Core) (a : Nat) (v : List Byte) : (c.writeRegs a v).elems = c.elems := rfl
@[simp] theorem Core.writeRegs_landing (c : Core) (a : Nat) (v : List Byte) : (c.writeRegs a v).landing = c.landing := rfl
@[simp] theorem Core.writeRegs_occ (c : Core) (a : Nat) (v : List Byte) : (c.writeRegs a v).occ = c.occ := rfl
@[simp] theorem Core.writeRegs_stall (c : Core) (a : Nat) (v : List Byte) : (c.writeRegs a v).stall = c.stall := rfl
@[simp] theorem Core.writeRegs_hostWrites (c : Core) (a : Nat) (v : List Byte) : (c.writeRegs a v).hostWrites = c.hostWrites := rfl
@[simp] theorem Core.writeRegs_hostPage (c : Core) (a : Nat) (v : List Byte) : (c.writeRegs a v).hostPage = c.hostPage := rfl
@[simp] theorem Core.writeRegs_gatherFaults (c : Core) (a : Nat) (v : List Byte) : (c.writeRegs a v).gatherFaults = c.gatherFaults := rfl
@[simp] theorem Core.writeRegs_tags (c : Core) (a : Nat) (v : List Byte) : (c.writeRegs a v).tags = c.tags := rfl
@[simp] theorem Core.writeRegs_bars (c : Core) (a : Nat) (v : List Byte) : (c.writeRegs a v).bars = c.bars := rfl
@[simp] theorem Core.writeRegs_held (c : Core) (a : Nat) (v : List Byte) : (c.writeRegs a v).held = c.held := rfl
@[simp] theorem Core.writeRegs_rope (c : Core) (a : Nat) (v : List Byte) : (c.writeRegs a v).rope = c.rope := rfl
@[simp] theorem Core.writeRegs_tlb (c : Core) (a : Nat) (v : List Byte) : (c.writeRegs a v).tlb = c.tlb := rfl
@[simp] theorem Core.writeRegs_prevCtx (c : Core) (a : Nat) (v : List Byte) : (c.writeRegs a v).prevCtx = c.prevCtx := rfl
@[simp] theorem Core.writeRegs_ivl (c : Core) (a : Nat) (v : List Byte) : (c.writeRegs a v).ivl = c.ivl := rfl
@[simp] theorem Core.writeRegs_relScopes (c : Core) (a : Nat) (v : List Byte) : (c.writeRegs a v).relScopes = c.relScopes := rfl
@[simp] theorem Core.writeRegs_missCp (c : Core) (a : Nat) (v : List Byte) : (c.writeRegs a v).missCp = c.missCp := rfl
@[simp] theorem Core.writeRegs_missVs (c : Core) (a : Nat) (v : List Byte) : (c.writeRegs a v).missVs = c.missVs := rfl
@[simp] theorem Core.writeRegs_us (c : Core) (a : Nat) (v : List Byte) : (c.writeRegs a v).us = c.us := rfl
@[simp] theorem Core.writeRegs_stopUs (c : Core) (a : Nat) (v : List Byte) : (c.writeRegs a v).stopUs = c.stopUs := rfl
@[simp] theorem Core.writeRegs_wdLimit (c : Core) (a : Nat) (v : List Byte) : (c.writeRegs a v).wdLimit = c.wdLimit := rfl
@[simp] theorem Core.writeRegs_preemptReq (c : Core) (a : Nat) (v : List Byte) : (c.writeRegs a v).preemptReq = c.preemptReq := rfl

@[simp] theorem Core.release_run (c : Core) (x : BitVec 3) : (c.release x).run = c.run := rfl
@[simp] theorem Core.release_task (c : Core) (x : BitVec 3) : (c.release x).task = c.task := rfl
@[simp] theorem Core.release_g (c : Core) (x : BitVec 3) : (c.release x).g = c.g := rfl
@[simp] theorem Core.release_pc (c : Core) (x : BitVec 3) : (c.release x).pc = c.pc := rfl
@[simp] theorem Core.release_pcFrom (c : Core) (x : BitVec 3) : (c.release x).pcFrom = c.pcFrom := rfl
@[simp] theorem Core.release_wait (c : Core) (x : BitVec 3) : (c.release x).wait = c.wait := rfl
@[simp] theorem Core.release_cmdIdx (c : Core) (x : BitVec 3) : (c.release x).cmdIdx = c.cmdIdx := rfl
@[simp] theorem Core.release_jetOrder (c : Core) (x : BitVec 3) : (c.release x).jetOrder = c.jetOrder := rfl
@[simp] theorem Core.release_fpFlags (c : Core) (x : BitVec 3) : (c.release x).fpFlags = c.fpFlags := rfl
@[simp] theorem Core.release_fpTrapen (c : Core) (x : BitVec 3) : (c.release x).fpTrapen = c.fpTrapen := rfl
@[simp] theorem Core.release_paramOvf (c : Core) (x : BitVec 3) : (c.release x).paramOvf = c.paramOvf := rfl
@[simp] theorem Core.release_ctxPkey (c : Core) (x : BitVec 3) : (c.release x).ctxPkey = c.ctxPkey := rfl
@[simp] theorem Core.release_views (c : Core) (x : BitVec 3) : (c.release x).views = c.views := rfl
@[simp] theorem Core.release_idx (c : Core) (x : BitVec 3) : (c.release x).idx = c.idx := rfl
@[simp] theorem Core.release_streams (c : Core) (x : BitVec 3) : (c.release x).streams = c.streams := rfl
@[simp] theorem Core.release_flags (c : Core) (x : BitVec 3) : (c.release x).flags = c.flags := rfl
@[simp] theorem Core.release_accOvf (c : Core) (x : BitVec 3) : (c.release x).accOvf = c.accOvf := rfl
@[simp] theorem Core.release_banks (c : Core) (x : BitVec 3) : (c.release x).banks = c.banks := rfl
@[simp] theorem Core.release_scratch (c : Core) (x : BitVec 3) : (c.release x).scratch = c.scratch := rfl
@[simp] theorem Core.release_regs (c : Core) (x : BitVec 3) : (c.release x).regs = c.regs := rfl
@[simp] theorem Core.release_qcw (c : Core) (x : BitVec 3) : (c.release x).qcw = c.qcw := rfl
@[simp] theorem Core.release_remap (c : Core) (x : BitVec 3) : (c.release x).remap = c.remap := rfl
@[simp] theorem Core.release_cmdq (c : Core) (x : BitVec 3) : (c.release x).cmdq = c.cmdq := rfl
@[simp] theorem Core.release_loopRun (c : Core) (x : BitVec 3) : (c.release x).loopRun = c.loopRun := rfl
@[simp] theorem Core.release_zeroing (c : Core) (x : BitVec 3) : (c.release x).zeroing = c.zeroing := rfl
@[simp] theorem Core.release_paramq (c : Core) (x : BitVec 3) : (c.release x).paramq = c.paramq := rfl
@[simp] theorem Core.release_aq (c : Core) (x : BitVec 3) : (c.release x).aq = c.aq := rfl
@[simp] theorem Core.release_elems (c : Core) (x : BitVec 3) : (c.release x).elems = c.elems := rfl
@[simp] theorem Core.release_landing (c : Core) (x : BitVec 3) : (c.release x).landing = c.landing := rfl
@[simp] theorem Core.release_occ (c : Core) (x : BitVec 3) : (c.release x).occ = c.occ := rfl
@[simp] theorem Core.release_stall (c : Core) (x : BitVec 3) : (c.release x).stall = c.stall := rfl
@[simp] theorem Core.release_hostWrites (c : Core) (x : BitVec 3) : (c.release x).hostWrites = c.hostWrites := rfl
@[simp] theorem Core.release_hostPage (c : Core) (x : BitVec 3) : (c.release x).hostPage = c.hostPage := rfl
@[simp] theorem Core.release_gatherFaults (c : Core) (x : BitVec 3) : (c.release x).gatherFaults = c.gatherFaults := rfl
@[simp] theorem Core.release_tags (c : Core) (x : BitVec 3) : (c.release x).tags = c.tags := rfl
@[simp] theorem Core.release_bars (c : Core) (x : BitVec 3) : (c.release x).bars = c.bars := rfl
@[simp] theorem Core.release_held (c : Core) (x : BitVec 3) : (c.release x).held = c.held := rfl
@[simp] theorem Core.release_rope (c : Core) (x : BitVec 3) : (c.release x).rope = c.rope := rfl
@[simp] theorem Core.release_tlb (c : Core) (x : BitVec 3) : (c.release x).tlb = c.tlb := rfl
@[simp] theorem Core.release_dirty (c : Core) (x : BitVec 3) : (c.release x).dirty = c.dirty := rfl
@[simp] theorem Core.release_prevCtx (c : Core) (x : BitVec 3) : (c.release x).prevCtx = c.prevCtx := rfl
@[simp] theorem Core.release_missCp (c : Core) (x : BitVec 3) : (c.release x).missCp = c.missCp := rfl
@[simp] theorem Core.release_missVs (c : Core) (x : BitVec 3) : (c.release x).missVs = c.missVs := rfl
@[simp] theorem Core.release_us (c : Core) (x : BitVec 3) : (c.release x).us = c.us := rfl
@[simp] theorem Core.release_stopUs (c : Core) (x : BitVec 3) : (c.release x).stopUs = c.stopUs := rfl
@[simp] theorem Core.release_wdLimit (c : Core) (x : BitVec 3) : (c.release x).wdLimit = c.wdLimit := rfl
@[simp] theorem Core.release_preemptReq (c : Core) (x : BitVec 3) : (c.release x).preemptReq = c.preemptReq := rfl

end Sys2Proof.Machine
end

