-- ==== Sys2Proof/Laws/Memory.lean ====
section
/-! SUPPORT. Tables and memories: a read after a write, and the canonical form that every operation keeps. -/

namespace Sys2Proof.Machine

/-! ## Tables -/

theorem tabGet_tabDrop {α : Type} (d : α) : ∀ (t : Tab α) (k i : Nat), k < i → tabGet d (tabDrop t k) i = tabGet d t i
  | [], _, _, _ => rfl
  | (j, v) :: t, k, i, h => by
    by_cases hk : k < j
    · simp [tabDrop, hk]
    · have hi : ¬ i < j := by omega
      have hj : ¬ j = i := by omega
      simp [tabDrop, hk, tabGet, hi, hj, tabGet_tabDrop d t k i h]

theorem tabGet_tabDrop_le {α : Type} (d : α) : ∀ (t : Tab α) (k i : Nat), i ≤ k → tabGet d (tabDrop t k) i = d
  | [], _, _, _ => rfl
  | (j, v) :: t, k, i, h => by
    by_cases hk : k < j
    · have hi : i < j := by omega
      simp [tabDrop, hk, tabGet, hi]
    · simp [tabDrop, hk, tabGet_tabDrop_le d t k i h]

/-- A write to an entry is what is read there. -/
@[simp] theorem tabGet_tabSet_same {α : Type} [DecidableEq α] (d : α) :
    ∀ (t : Tab α) (k : Nat) (x : α), tabGet d (tabSet d t k x) k = x
  | [], k, x => by by_cases h : x = d <;> simp [tabSet, tabGet, h]
  | (j, v) :: t, k, x => by
    by_cases h1 : k < j
    · by_cases h : x = d <;> simp [tabSet, tabGet, h, h1]
    · by_cases h2 : j = k
      · by_cases h : x = d
        · subst h2; simp [tabSet, h, tabGet_tabDrop_le]
        · simp [tabSet, tabGet, h, h2]
      · simp [tabSet, tabGet, h1, h2, tabGet_tabSet_same d t k x]

/-- A write to an entry leaves every other entry as it was. -/
theorem tabGet_tabSet_ne {α : Type} [DecidableEq α] (d : α) :
    ∀ (t : Tab α) (k i : Nat) (x : α), i ≠ k → tabGet d (tabSet d t k x) i = tabGet d t i
  | [], k, i, x, h => by
    by_cases hx : x = d
    · simp [tabSet, tabGet, hx]
    · by_cases hi : i < k <;> simp [tabSet, tabGet, hx, hi, Ne.symm h]
  | (j, v) :: t, k, i, x, h => by
    by_cases h1 : k < j
    · by_cases hx : x = d
      · simp [tabSet, hx, h1]
      · by_cases hi : i < k
        · have : i < j := by omega
          simp [tabSet, tabGet, hx, h1, hi, this]
        · simp [tabSet, tabGet, hx, h1, hi, Ne.symm h]
    · by_cases h2 : j = k
      · by_cases hx : x = d
        · subst h2
          by_cases hi : i < j
          · simp [tabSet, tabGet, hx, hi, tabGet_tabDrop_le d t j i (by omega)]
          · have hji : ¬ j = i := fun e => h e.symm
            simp [tabSet, tabGet, hx, hi, hji, tabGet_tabDrop d t j i (by omega)]
        · subst h2
          by_cases hi : i < j <;> simp [tabSet, tabGet, hx, hi, Ne.symm h]
      · simp [tabSet, tabGet, h1, h2, tabGet_tabSet_ne d t k i x h]

/-- The number of a table's first entry, when it has one, is above `k`. -/
def tabAbove {α : Type} (k : Nat) : Tab α → Bool
  | [] => true
  | (j, _) :: _ => decide (k < j)

theorem tabWf_cons {α : Type} [DecidableEq α] (d : α) (j : Nat) (v : α) (t : Tab α) :
    tabWf d ((j, v) :: t) = (decide (v ≠ d) && tabAbove j t && tabWf d t) := by
  cases t with
  | nil => rfl
  | cons p t => cases p; rfl

theorem tabDrop_of_above {α : Type} {k : Nat} {t : Tab α} (h : tabAbove k t = true) : tabDrop t k = t := by
  cases t with
  | nil => rfl
  | cons p t => obtain ⟨j, v⟩ := p; simp [tabAbove] at h; simp [tabDrop, h]

theorem tabAbove_mono {α : Type} {i k : Nat} {t : Tab α} (hik : i ≤ k) (h : tabAbove k t = true) :
    tabAbove i t = true := by
  cases t with
  | nil => rfl
  | cons p t => obtain ⟨j, v⟩ := p; simp only [tabAbove, decide_eq_true_eq] at *; omega

theorem tabAbove_tabSet {α : Type} [DecidableEq α] (d : α) {i k : Nat} {x : α} {t : Tab α} (hik : i < k)
    (h : tabAbove i t = true) (w : tabWf d t = true) : tabAbove i (tabSet d t k x) = true := by
  cases t with
  | nil => by_cases hx : x = d <;> simp [tabSet, tabAbove, hx, hik]
  | cons p t =>
    obtain ⟨j, v⟩ := p
    rw [tabWf_cons] at w
    simp only [Bool.and_eq_true] at w
    have hij : i < j := by simpa [tabAbove] using h
    by_cases h1 : k < j
    · by_cases hx : x = d <;> simp [tabSet, tabAbove, hx, h1, hik, hij]
    · by_cases h2 : j = k
      · by_cases hx : x = d
        · subst h2
          simp only [tabSet, hx, if_true, Nat.lt_irrefl, if_false]
          rw [tabDrop_of_above w.1.2]
          exact tabAbove_mono (by omega) w.1.2
        · simp [tabSet, tabAbove, hx, h2, hik]
      · simp [tabSet, tabAbove, h1, h2, hij]

/-- A write keeps the canonical form of a table. -/
theorem tabWf_tabSet {α : Type} [DecidableEq α] (d : α) :
    ∀ (t : Tab α) (k : Nat) (x : α), tabWf d t = true → tabWf d (tabSet d t k x) = true
  | [], k, x, _ => by by_cases hx : x = d <;> simp [tabSet, tabWf, hx]
  | (j, v) :: t, k, x, w => by
    have w' := w
    rw [tabWf_cons] at w
    simp only [Bool.and_eq_true] at w
    by_cases h1 : k < j
    · by_cases hx : x = d
      · simp [tabSet, hx, h1, w']
      · have : tabSet d ((j, v) :: t) k x = (k, x) :: (j, v) :: t := by simp [tabSet, hx, h1]
        rw [this, tabWf_cons]
        simp [hx, tabAbove, h1, w']
    · by_cases h2 : j = k
      · by_cases hx : x = d
        · have : tabSet d ((j, v) :: t) k x = tabDrop t k := by simp [tabSet, hx, h2]
          rw [this, tabDrop_of_above (h2 ▸ w.1.2)]; exact w.2
        · have : tabSet d ((j, v) :: t) k x = (k, x) :: t := by simp [tabSet, hx, h2]
          rw [this, tabWf_cons]
          simp [hx, h2 ▸ w.1.2, w.2]
      · have : tabSet d ((j, v) :: t) k x = (j, v) :: tabSet d t k x := by simp [tabSet, h1, h2]
        rw [this, tabWf_cons]
        simp only [Bool.and_eq_true]
        exact ⟨⟨w.1.1, tabAbove_tabSet d (by omega) w.1.2 w.2⟩, tabWf_tabSet d t k x w.2⟩

/-- Writing the entry that stands changes nothing. -/
theorem tabSet_tabGet {α : Type} [DecidableEq α] (d : α) : ∀ (t : Tab α) (k : Nat), tabWf d t = true → tabSet d t k (tabGet d t k) = t
  | [], _, _ => by simp [tabSet, tabGet]
  | (j, v) :: t, k, h => by
    simp only [tabWf, Bool.and_eq_true, decide_eq_true_eq] at h
    simp only [tabSet, tabGet]
    by_cases h1 : k < j
    · simp [h1]
    · by_cases h2 : j = k
      · simp [h2, h.1.1]
      · simp [h1, h2, tabSet_tabGet d t k h.2]

theorem tabAbove_filter {α : Type} [DecidableEq α] (d : α) (p : Nat × α → Bool) {k : Nat} : ∀ {t : Tab α},
    tabAbove k t = true → tabWf d t = true → tabAbove k (t.filter p) = true
  | [], _, _ => rfl
  | (j, v) :: t, h, w => by
    rw [tabWf_cons] at w
    simp only [Bool.and_eq_true] at w
    have hkj : k < j := by simpa [tabAbove] using h
    by_cases hp : p (j, v) = true
    · simp [hp, tabAbove, hkj]
    · simp only [hp, Bool.false_eq_true, not_false_eq_true, List.filter_cons_of_neg]
      exact tabAbove_filter d p (tabAbove_mono (by omega) w.1.2) w.2

/-- Leaving entries out keeps the canonical form of a table. -/
theorem tabWf_filter {α : Type} [DecidableEq α] (d : α) (p : Nat × α → Bool) :
    ∀ (t : Tab α), tabWf d t = true → tabWf d (t.filter p) = true
  | [], _ => rfl
  | (j, v) :: t, w => by
    rw [tabWf_cons] at w
    simp only [Bool.and_eq_true] at w
    by_cases hp : p (j, v) = true
    · simp only [hp, List.filter_cons_of_pos]
      rw [tabWf_cons]
      simp only [Bool.and_eq_true]
      exact ⟨⟨w.1.1, tabAbove_filter d p w.1.2 w.2⟩, tabWf_filter d p t w.2⟩
    · simp only [hp, Bool.false_eq_true, not_false_eq_true, List.filter_cons_of_neg]
      exact tabWf_filter d p t w.2

/-! ## Memories -/

/-- A byte written is read back. -/
@[simp] theorem memGet_memSet_same (m : Mem) (a : Nat) (v : Byte) : memGet (memSet m a v) a = v :=
  tabGet_tabSet_same 0 m a v

/-- A write leaves every other byte as it was. -/
theorem memGet_memSet_ne (m : Mem) {a b : Nat} (v : Byte) (h : b ≠ a) : memGet (memSet m a v) b = memGet m b :=
  tabGet_tabSet_ne 0 m a b v h

/-- A byte's write keeps the canonical form. -/
theorem Memory.wf_memSet {m : Mem} (a : Nat) (v : Byte) (h : Memory.wf m = true) : Memory.wf (memSet m a v) = true :=
  tabWf_tabSet 0 m a v h

/-- A write of bytes keeps the canonical form. -/
theorem Memory.wf_memWrite : ∀ {m : Mem} (a : Nat) (bs : List Byte), Memory.wf m = true → Memory.wf (memWrite m a bs) = true
  | _, _, [], h => h
  | _, a, b :: bs, h => Memory.wf_memWrite (a + 1) bs (Memory.wf_memSet a b h)

/-- Zeroing keeps the canonical form. -/
theorem Memory.wf_memZero {m : Mem} (a n : Nat) (h : Memory.wf m = true) : Memory.wf (memZero m a n) = true :=
  tabWf_filter 0 _ m h

/-- An empty memory is canonical. -/
@[simp] theorem Memory.wf_nil : Memory.wf [] = true := rfl

/-- A write leaves every byte outside it as it was. -/
theorem memGet_memWrite_out : ∀ (m : Mem) (a : Nat) (bs : List Byte) (b : Nat), b < a ∨ a + bs.length ≤ b →
    memGet (memWrite m a bs) b = memGet m b
  | _, _, [], _, _ => rfl
  | m, a, x :: xs, b, h => by
    have hb : b ≠ a := by
      rcases h with h | h
      · omega
      · simp at h; omega
    have h' : b < a + 1 ∨ a + 1 + xs.length ≤ b := by
      rcases h with h | h
      · exact .inl (by omega)
      · simp at h; exact .inr (by omega)
    simp [memWrite, memGet_memWrite_out _ (a + 1) xs b h', memGet_memSet_ne _ _ hb]

/-- The bytes of a write are read back. -/
theorem memGet_memWrite_in : ∀ (m : Mem) (a : Nat) (bs : List Byte) (i : Nat), i < bs.length →
    memGet (memWrite m a bs) (a + i) = bs.getD i 0
  | _, _, [], i, h => by simp at h
  | m, a, x :: xs, 0, _ => by
    simp [memWrite, memGet_memWrite_out _ (a + 1) xs a (.inl (by omega))]
  | m, a, x :: xs, i + 1, h => by
    have hi : i < xs.length := by simpa using h
    have := memGet_memWrite_in (memSet m a x) (a + 1) xs i hi
    rw [show a + (i + 1) = a + 1 + i by omega]
    simpa [memWrite] using this

@[simp] theorem memRead_length : ∀ (m : Mem) (a n : Nat), (memRead m a n).length = n
  | _, _, 0 => rfl
  | m, a, n + 1 => by simp [memRead, memRead_length m (a + 1) n]

/-- Reading what was written gives it back. -/
theorem memRead_memWrite_same : ∀ (m : Mem) (a : Nat) (bs : List Byte), memRead (memWrite m a bs) a bs.length = bs
  | _, _, [] => rfl
  | m, a, x :: xs => by
    have h1 : memGet (memWrite (memSet m a x) (a + 1) xs) a = x := by
      rw [memGet_memWrite_out _ _ _ _ (.inl (by omega))]; simp
    simp [memRead, memWrite, h1, memRead_memWrite_same (memSet m a x) (a + 1) xs]

/-- A read outside a write reads what stood there. -/
theorem memRead_memWrite_out : ∀ (n : Nat) (m : Mem) (a : Nat) (bs : List Byte) (b : Nat),
    b + n ≤ a ∨ a + bs.length ≤ b → memRead (memWrite m a bs) b n = memRead m b n
  | 0, _, _, _, _, _ => rfl
  | n + 1, m, a, bs, b, h => by
    simp only [memRead]
    rw [memGet_memWrite_out m a bs b (by omega), memRead_memWrite_out n m a bs (b + 1) (by omega)]

end Sys2Proof.Machine
end

