-- ==== Sys2Proof/Laws/Ops.lean ====
section
/-! SUPPORT. What the shared operations do: reading the core that was written, registers, taking a trap, and the shared forms of
the control stream's core set. -/

namespace Sys2Proof.Machine

/-! ## Cores -/

/-- The core written is the core read. -/
@[simp] theorem State.core_setCore (s : State) (k : CoreId) (x : Core) : (s.setCore k x).core k = x :=
  tabGet_tabSet_same Core.reset s.cores k.toNat x

/-- A write to a core leaves every other core as it was. -/
theorem State.core_setCore_ne (s : State) {k m : CoreId} (x : Core) (h : m ≠ k) : (s.setCore k x).core m = s.core m :=
  tabGet_tabSet_ne Core.reset s.cores k.toNat m.toNat x fun e => h (BitVec.eq_of_toNat_eq e)

@[simp] theorem State.me_setMe (s : State) (x : Core) : (s.setMe x).me = x := State.core_setCore s s.cur x

@[simp] theorem State.core_cur (s : State) : s.core s.cur = s.me := rfl

/-- A write to the current core leaves every other core as it was. -/
theorem State.core_setMe_ne (s : State) {m : CoreId} (x : Core) (h : m ≠ s.cur) : (s.setMe x).core m = s.core m :=
  State.core_setCore_ne s x h

@[simp] theorem State.ctx_setCtx (s : State) (n : CtxId) (x : Ctx) : (s.setCtx n x).ctx n = x :=
  tabGet_tabSet_same Ctx.reset s.ctxs n.toNat x

theorem State.ctx_setCtx_ne (s : State) {n m : CtxId} (x : Ctx) (h : m ≠ n) : (s.setCtx n x).ctx m = s.ctx m :=
  tabGet_tabSet_ne Ctx.reset s.ctxs n.toNat m.toNat x fun e => h (BitVec.eq_of_toNat_eq e)

@[simp] theorem State.ctx_setCore (s : State) (k : CoreId) (x : Core) (n : CtxId) : (s.setCore k x).ctx n = s.ctx n := rfl

@[simp] theorem State.ctx_setMe (s : State) (x : Core) (n : CtxId) : (s.setMe x).ctx n = s.ctx n := rfl

@[simp] theorem State.core_setCtx (s : State) (n : CtxId) (x : Ctx) (k : CoreId) : (s.setCtx n x).core k = s.core k := rfl

/-- Every core at reset is Core.reset. -/
@[simp] theorem State.core_reset (k : CoreId) : State.reset.core k = Core.reset := rfl

/-! ## Registers -/

/-- g0 reads zero (R126). -/
@[simp] theorem Core.gr_zero (c : Core) : c.gr 0 = 0 := by simp [Core.gr]

/-- A write to g0 is discarded (R126). -/
@[simp] theorem Core.setG_zero (c : Core) (v : Word64) : c.setG 0 v = c := by simp [Core.setG]

/-- A register written reads as written. -/
theorem Core.gr_setG_same (c : Core) {r : BitVec 5} (v : Word64) (h : r ≠ 0) : (c.setG r v).gr r = v := by
  simp only [Core.gr, Core.setG, if_neg h, Vector.getElem_set_self]

/-- A register write leaves every other register as it was. -/
theorem Core.gr_setG_ne (c : Core) {r q : BitVec 5} (v : Word64) (h : q ≠ r) : (c.setG r v).gr q = c.gr q := by
  have hn : r.toNat ≠ q.toNat := fun e => h (BitVec.eq_of_toNat_eq e.symm)
  by_cases hr : r = 0
  · simp only [Core.setG, if_pos hr]
  · by_cases hq : q = 0
    · simp only [Core.gr, if_pos hq]
    · simp only [Core.gr, Core.setG, if_neg hr, if_neg hq]
      exact Vector.getElem_set_ne _ _ hn

@[simp] theorem Core.gr_adv (c : Core) (n : Nat) (r : BitVec 5) : (c.adv n).gr r = c.gr r := rfl

@[simp] theorem Core.gr_goto (c : Core) (a : Word64) (r : BitVec 5) : (c.goto a).gr r = c.gr r := rfl

@[simp] theorem Core.pc_adv (c : Core) (n : Nat) : (c.adv n).pc = c.pc + BitVec.ofNat 64 (4 * n) := rfl

@[simp] theorem Core.pc_goto (c : Core) (a : Word64) : (c.goto a).pc = a := rfl

/-! ## Taking a trap -/

/-- A running task that takes a trap is ending with the record; its command queue and the address-queue entries that the engine has not
begun to serve are gone, and nothing else of the core has changed (R337, R338). -/
theorem takeTrap_running (s : State) (k : CoreId) (r : TrapRec) (h : (s.core k).run = .running) :
    takeTrap s k r = s.setCore k { s.core k with
      run := .stopping r, wait := .no, cmdq := [], aq := (s.core k).aq.filter (·.begun), stopUs := 0, preemptReq := false } := by
  simp [takeTrap, h]

/-- A task already ending, and a core with none, take no trap (R337). -/
theorem takeTrap_ended (s : State) (k : CoreId) (r : TrapRec)
    (h : (s.core k).run = .idle ∨ (s.core k).run = .dead ∨ ∃ q, (s.core k).run = .stopping q) : takeTrap s k r = s := by
  rcases h with h | h | ⟨q, h⟩ <;> simp [takeTrap, h]

/-- A trap changes at most the one core. -/
theorem takeTrap_frame (s : State) (k : CoreId) (r : TrapRec) : ∃ x, takeTrap s k r = s ∨ takeTrap s k r = s.setCore k x := by
  unfold takeTrap
  dsimp only
  split
  · exact ⟨_, .inr rfl⟩
  · exact ⟨_, .inr rfl⟩
  · exact ⟨_, .inr rfl⟩
  · exact ⟨s.core k, .inl rfl⟩

@[simp] theorem takeTrap_dram (s : State) (k : CoreId) (r : TrapRec) : (takeTrap s k r).dram = s.dram := by
  obtain ⟨x, h | h⟩ := takeTrap_frame s k r <;> rw [h]; rfl

@[simp] theorem cpTrap_dram (s : State) (t : Trap) : (cpTrap s t).dram = s.dram := takeTrap_dram s s.cur _

/-! ## The control stream -/

/-- What an operation with a register result does. -/
theorem cpWrite_eq (s : State) (d : BitVec 5) (v : Word64) (n : Nat) :
    cpWrite s d v n = .next (s.setMe ((s.me.setG d v).adv n)) := rfl

/-- What a conditional branch does. -/
theorem branch_eq (s : State) (b : Bool) (i : BitVec 15) :
    branch s b i = .next (s.setMe (if b then s.me.goto (s.me.pc + i.signExtend 64 * 4) else s.me.adv 1)) := rfl

/-- An access of plain scratch that is aligned and lies in it reaches its address (R135). -/
theorem Core.lsAddr_plain (c : Core) (a n : Nat) (amo : Bool) (hn : 0 < n) (ha : a + n ≤ 0x40000) (hm : a % n = 0) :
    c.lsAddr (a : Int) n amo = .at a := by
  have h1 : ¬ ((a : Int) < 0 ∨ (2 : Int) ^ 20 < (a : Int) + (n : Int)) := by omega
  have h2 : region a = .plain := by simp [region]; omega
  simp only [Core.lsAddr, h1, if_false, Int.toNat_natCast, hm, ne_eq, not_true_eq_false, h2]

/-- What a load does: a trap, a wait, or the register written. -/
theorem load_cases (s : State) (sx : Bool) (g r : BitVec 5) (w : BitVec 2) (i : Imm 12) (again : Instr) :
    (∃ t, load s sx g r w i again = .next (cpTrap s t)) ∨ load s sx g r w i again = cpAgain s again ∨
    ∃ v, load s sx g r w i again = .next (s.setMe ((s.me.awake.setG g v).adv (immWords i))) := by
  unfold load
  dsimp only
  split
  · exact .inl ⟨_, rfl⟩
  · exact .inr (.inl rfl)
  · exact .inr (.inr ⟨_, rfl⟩)

/-- What a scratch atomic does: a trap, a wait, or a unit of scratch perhaps written and its old value in gd. -/
theorem amo_cases (op : AtomOp) (s : State) (d r t : BitVec 5) (o : BitVec 2) (x : Bool) (again : Instr) :
    (∃ u, amo op s d r t o x again = .next (cpTrap s u)) ∨ amo op s d r t o x again = cpAgain s again ∨
    ∃ c, amo op s d r t o x again = .next (s.setMe c) := by
  unfold amo
  dsimp only
  split
  · exact .inl ⟨_, rfl⟩
  · exact .inr (.inl rfl)
  · exact .inr (.inr ⟨_, rfl⟩)

/-- What a fence does: it returns, or the control processor waits. -/
theorem fence_cases (s : State) (mask : Nat) (drain : Bool) (x : BitVec 3) :
    fence s mask drain x = .next (s.setMe (s.me.awake.adv 1)) ∨
    fence s mask drain x = .next (s.setMe { s.me with wait := .fence (BitVec.ofNat 6 mask) drain x }) := by
  unfold fence
  dsimp only
  split
  · exact .inl rfl
  · exact .inr rfl

/-- A plain store that may meet a sync word writes scratch alone, and the counter of the free values (R95). -/
theorem State.spoil_frame (s : State) (k : CoreId) (a n : Nat) :
    (s.spoil k a n).dram = s.dram ∧ (s.spoil k a n).ctxs = s.ctxs ∧ (s.spoil k a n).ports = s.ports ∧
    (s.spoil k a n).sched = s.sched ∧ (s.spoil k a n).agenda = s.agenda ∧ (s.spoil k a n).cur = s.cur := by
  unfold State.spoil
  split
  · exact ⟨rfl, rfl, rfl, rfl, rfl, rfl⟩
  · rename_i ws _
    have h : ∀ (ws : List Nat) (t : State) (f : Nat → Core → Core),
        (ws.foldl (fun t w => t.modCore k (f w)) t).dram = t.dram ∧ (ws.foldl (fun t w => t.modCore k (f w)) t).ctxs = t.ctxs ∧
        (ws.foldl (fun t w => t.modCore k (f w)) t).ports = t.ports ∧ (ws.foldl (fun t w => t.modCore k (f w)) t).sched = t.sched ∧
        (ws.foldl (fun t w => t.modCore k (f w)) t).agenda = t.agenda ∧ (ws.foldl (fun t w => t.modCore k (f w)) t).cur = t.cur := by
      intro ws
      induction ws with
      | nil => intro t f; exact ⟨rfl, rfl, rfl, rfl, rfl, rfl⟩
      | cons w ws ih => intro t f; exact ih (t.modCore k (f w)) f
    exact h _ s fun w x => x.writeScratch w ((List.range 16).map fun i => Config.freeByte s.seq (w + i))

@[simp] theorem State.spoil_dram (s : State) (k : CoreId) (a n : Nat) : (s.spoil k a n).dram = s.dram := (s.spoil_frame k a n).1

@[simp] theorem State.spoilAll_dram (s : State) (k : CoreId) (xs : List (Nat × Nat)) : (s.spoilAll k xs).dram = s.dram := by
  unfold State.spoilAll
  induction xs generalizing s with
  | nil => rfl
  | cons x xs ih => exact (ih (s.spoil k x.1 x.2)).trans (s.spoil_dram k x.1 x.2)

/-- What a vector word by itself does: it issues, and a store of it may meet a sync word (R95); it waits a cycle; or it takes a
trap. -/
theorem vrun_cases (i : Instr) (s : State) :
    (∃ c, vrun i s = .next ((s.setMe c).spoilAll s.cur (s.me.xstExtent i).toList)) ∨ (∃ c, vrun i s = .next (s.setMe c)) ∨
    ∃ r, vrun i s = .next (takeTrap s s.cur r) := by
  unfold vrun
  split
  · exact .inr (.inr ⟨_, rfl⟩)
  · split
    · exact .inl ⟨_, rfl⟩
    · exact .inr (.inr ⟨_, rfl⟩)
    · exact .inr (.inl ⟨_, rfl⟩)

/-- A vector word changes no byte of device memory. -/
theorem vrun_dram (i : Instr) (s t : State) (h : vrun i s = .next t) : t.dram = s.dram := by
  rcases vrun_cases i s with ⟨c, hc⟩ | ⟨c, hc⟩ | ⟨r, hr⟩
  · rw [hc] at h; injection h with h; rw [← h]; exact State.spoilAll_dram _ _ _
  · rw [hc] at h; injection h with h; rw [← h]; rfl
  · rw [hr] at h; injection h with h; rw [← h]; simp

end Sys2Proof.Machine
end

