-- ==== Sys2Proof/Laws/Canonical.lean ====
section
/-! SUPPORT. The shared operations keep the canonical form of the card's tables and memories (log 5). -/

namespace Sys2Proof.Machine

/-! ## A core's own -/

@[simp] theorem Core.wf_reset : Core.reset.wf = true := rfl

/-- A change that leaves a core's memories, tags and barriers alone keeps its form. -/
theorem Core.wf_of_same {c d : Core} (h : c.wf = true) (hs : d.scratch = c.scratch) (hr : d.regs = c.regs) (ht : d.tags = c.tags)
    (hb : d.bars = c.bars) : d.wf = true := by
  simpa only [Core.wf, hs, hr, ht, hb] using h

theorem Core.wf_writeScratch {c : Core} (a : Nat) (v : List Byte) (h : c.wf = true) : (c.writeScratch a v).wf = true := by
  simp only [Core.wf, Bool.and_eq_true] at h ⊢
  exact ⟨⟨⟨Memory.wf_memWrite a v h.1.1.1, h.1.1.2⟩, h.1.2⟩, h.2⟩

theorem Core.wf_writeRegs {c : Core} (a : Nat) (v : List Byte) (h : c.wf = true) : (c.writeRegs a v).wf = true := by
  simp only [Core.wf, Bool.and_eq_true] at h ⊢
  exact ⟨⟨⟨h.1.1.1, Memory.wf_memWrite a v h.1.1.2⟩, h.1.2⟩, h.2⟩

theorem Core.wf_setTag {c : Core} (n : Nat) (t : Option Tag) (h : c.wf = true) : (c.setTag n t).wf = true := by
  simp only [Core.wf, Bool.and_eq_true] at h ⊢
  exact ⟨⟨h.1.1, tabWf_tabSet none _ _ _ h.1.2⟩, h.2⟩

theorem Core.wf_setBar {c : Core} (b : BitVec 6) (x : Barrier) (h : c.wf = true) : (c.setBar b x).wf = true := by
  simp only [Core.wf, Bool.and_eq_true] at h ⊢
  exact ⟨h.1, tabWf_tabSet Barrier.reset _ _ _ h.2⟩

/-- A result that lands keeps a core's form. -/
theorem Core.wf_land {c : Core} (v : LandVal) (h : c.wf = true) : (c.land v).wf = true := by
  cases v with
  | bytes o b => exact Core.wf_writeRegs o b h
  | sums a o w f x => exact Core.wf_of_same (Core.wf_writeRegs o _ h) rfl rfl rfl rfl
  | index r x => exact Core.wf_of_same h rfl rfl rfl rfl
  | stream r x => exact Core.wf_of_same h rfl rfl rfl rfl
  | scratch a b => exact Core.wf_writeScratch a b h

/-! ## The card -/

/-- The form is the form of its five tables and of every core's own. -/
theorem State.wf_iff (s : State) : s.wf = true ↔
    Memory.wf s.dram = true ∧ tabWf Core.reset s.cores = true ∧ tabWf Ctx.reset s.ctxs = true ∧ tabWf Lane.reset s.lanes = true ∧
      tabWf none s.slots = true ∧ ∀ p ∈ s.cores, p.2.wf = true := by
  simp only [State.wf, Bool.and_eq_true, List.all_eq_true]
  tauto

/-- A change that leaves those tables alone keeps the form. -/
theorem State.wf_of_same {s t : State} (h : s.wf = true) (hd : t.dram = s.dram) (hc : t.cores = s.cores) (hx : t.ctxs = s.ctxs)
    (hl : t.lanes = s.lanes) (hs : t.slots = s.slots) : t.wf = true := by
  simpa only [State.wf, hd, hc, hx, hl, hs] using h

/-- What a table gives is listed, or the default. -/
theorem tabGet_mem {α : Type} (d : α) : ∀ (t : Tab α) (k : Nat), (∃ p ∈ t, tabGet d t k = p.2) ∨ tabGet d t k = d
  | [], _ => .inr rfl
  | (j, v) :: t, k => by
    by_cases h1 : k < j
    · exact .inr (by simp [tabGet, h1])
    · by_cases h2 : j = k
      · exact .inl ⟨(j, v), by simp, by simp [tabGet, h2]⟩
      · rcases tabGet_mem d t k with ⟨p, hp, e⟩ | e
        · exact .inl ⟨p, by simp [hp], by simp [tabGet, h1, h2, e]⟩
        · exact .inr (by simp [tabGet, h1, h2, e])

theorem mem_tabDrop {α : Type} : ∀ {t : Tab α} {k : Nat} {p : Nat × α}, p ∈ tabDrop t k → p ∈ t
  | (j, v) :: t, k, p, h => by
    by_cases h1 : k < j
    · simpa [tabDrop, h1] using h
    · exact List.mem_cons_of_mem _ (mem_tabDrop (by simpa [tabDrop, h1] using h))

/-- What a table lists after a write was listed before, or is what was written. -/
theorem mem_tabSet {α : Type} [DecidableEq α] (d : α) : ∀ {t : Tab α} {k : Nat} {x : α} {p : Nat × α},
    p ∈ tabSet d t k x → p ∈ t ∨ p.2 = x
  | [], k, x, p, h => by
    by_cases hx : x = d
    · simp [tabSet, hx] at h
    · exact .inr (by simp only [tabSet, if_neg hx, List.mem_singleton] at h; rw [h])
  | (j, v) :: t, k, x, p, h => by
    by_cases h1 : k < j
    · by_cases hx : x = d
      · exact .inl (by simpa [tabSet, h1, hx] using h)
      · simp only [tabSet, if_pos h1, if_neg hx, List.mem_cons] at h
        rcases h with rfl | h
        · exact .inr rfl
        · exact .inl (by simpa using h)
    · by_cases h2 : j = k
      · by_cases hx : x = d
        · exact .inl (List.mem_cons_of_mem _ (mem_tabDrop (by simpa [tabSet, h1, h2, hx] using h)))
        · simp only [tabSet, if_neg h1, if_pos h2, if_neg hx, List.mem_cons] at h
          rcases h with rfl | h
          · exact .inr rfl
          · exact .inl (List.mem_cons_of_mem _ h)
      · simp only [tabSet, if_neg h1, if_neg h2, List.mem_cons] at h
        rcases h with rfl | h
        · exact .inl (by simp)
        · exact (mem_tabSet d h).imp (List.mem_cons_of_mem _) id

/-- Every core of a card in canonical form is. -/
theorem State.wf_core {s : State} (k : CoreId) (h : s.wf = true) : (s.core k).wf = true := by
  rcases tabGet_mem Core.reset s.cores k.toNat with ⟨p, hp, e⟩ | e
  · exact (congrArg Core.wf e).trans (((State.wf_iff s).mp h).2.2.2.2.2 p hp)
  · exact (congrArg Core.wf e).trans Core.wf_reset

theorem State.wf_setCore {s : State} (k : CoreId) {c : Core} (h : s.wf = true) (hc : c.wf = true) : (s.setCore k c).wf = true := by
  rw [State.wf_iff] at h ⊢
  exact ⟨h.1, tabWf_tabSet _ _ _ _ h.2.1, h.2.2.1, h.2.2.2.1, h.2.2.2.2.1, fun p hp =>
    (mem_tabSet _ hp).elim (h.2.2.2.2.2 p) fun e => e ▸ hc⟩

theorem State.wf_modCore {s : State} (k : CoreId) {f : Core → Core} (h : s.wf = true)
    (hf : ∀ c, c.wf = true → (f c).wf = true) : (s.modCore k f).wf = true :=
  State.wf_setCore k h (hf _ (State.wf_core k h))

theorem State.wf_setMe {s : State} {c : Core} (h : s.wf = true) (hc : c.wf = true) : (s.setMe c).wf = true :=
  State.wf_setCore s.cur h hc

theorem State.wf_me {s : State} (h : s.wf = true) : s.me.wf = true := State.wf_core s.cur h

theorem State.wf_setCtx {s : State} (n : CtxId) (x : Ctx) (h : s.wf = true) : (s.setCtx n x).wf = true := by
  rw [State.wf_iff] at h ⊢
  exact ⟨h.1, h.2.1, tabWf_tabSet _ _ _ _ h.2.2.1, h.2.2.2⟩

theorem State.wf_writePhysBy {s : State} (who : Writer) (pa : Nat) (v : List Byte) (h : s.wf = true) :
    (s.writePhysBy who pa v).wf = true := by
  rw [State.wf_iff] at h ⊢
  exact ⟨Memory.wf_memWrite pa v h.1, h.2⟩

theorem State.wf_writePhys {s : State} (pa : Nat) (v : List Byte) (h : s.wf = true) : (s.writePhys pa v).wf = true :=
  State.wf_writePhysBy .other pa v h

theorem State.wf_setPte {s : State} (ea e : Nat) (h : s.wf = true) : (s.setPte ea e).wf = true :=
  State.wf_of_same (State.wf_writePhys ea (toBytes 8 e) h) rfl rfl rfl rfl rfl

theorem State.wf_touch {s : State} (f : Found) (write : Bool) (h : s.wf = true) : (s.touch f write).wf = true := by
  unfold State.touch
  dsimp only
  split <;> split <;> first | exact State.wf_writePhys _ _ h | exact h

theorem State.wf_setSlot {s : State} (n : Nat) (x : Option Slot) (h : s.wf = true) : (s.setSlot n x).wf = true := by
  rw [State.wf_iff] at h ⊢
  exact ⟨h.1, h.2.1, h.2.2.1, h.2.2.2.1, tabWf_tabSet _ _ _ _ h.2.2.2.2.1, h.2.2.2.2.2⟩

/-- A fold of steps that each keep the form keeps it. -/
theorem State.wf_foldl {α : Type} (f : State → α → State) (hf : ∀ s x, s.wf = true → (f s x).wf = true) :
    ∀ (l : List α) (s : State), s.wf = true → (l.foldl f s).wf = true
  | [], _, h => h
  | x :: l, s, h => State.wf_foldl f hf l (f s x) (hf s x h)

/-- A trap keeps the form. -/
theorem State.wf_takeTrap {s : State} (k : CoreId) (r : TrapRec) (h : s.wf = true) : (takeTrap s k r).wf = true := by
  unfold takeTrap
  dsimp only
  split
  · exact State.wf_setCore k h (Core.wf_of_same (State.wf_core k h) rfl rfl rfl rfl)
  · exact State.wf_setCore k h (Core.wf_of_same (State.wf_core k h) rfl rfl rfl rfl)
  · exact State.wf_setCore k h (Core.wf_of_same (State.wf_core k h) rfl rfl rfl rfl)
  · exact h

end Sys2Proof.Machine
end

