-- ==== Sys2Proof/Laws/Steps.lean ====
section
/-! SUPPORT. How a step reaches an instruction: a vector word's meaning is one operation, and what a core fetches does not depend on
the turns to come. -/

namespace Sys2Proof.Machine

set_option maxRecDepth 4000 in
/-- Every vector word but NOP runs as a group of its own. -/
theorem exec_vector (i : Instr) (h : encodeVector i ≠ []) (hn : i ≠ .nop) (s : State) : exec i s = vrun i s := by
  cases i <;> first | exact absurd rfl h | exact absurd rfl hn | rfl

/-- A walk does not depend on the agenda. -/
@[simp] theorem State.walk_agenda (s : State) (l : List Turn) (n : CtxId) (a : Nat) :
    ({ s with agenda := l } : State).walk n a = s.walk n a := by
  unfold State.walk State.ctx
  with_reducible rfl

@[simp] theorem State.codeWord_agenda (s : State) (l : List Turn) (n : CtxId) (a : Nat) :
    ({ s with agenda := l } : State).codeWord n a = s.codeWord n a := by
  unfold State.codeWord
  rw [State.walk_agenda]

@[simp] theorem State.launchOf_agenda (s : State) (l : List Turn) (k : CoreId) :
    ({ s with agenda := l } : State).launchOf k = s.launchOf k := rfl

@[simp] theorem State.ctlWord_agenda (s : State) (l : List Turn) (k : CoreId) (a : Nat) :
    ({ s with agenda := l } : State).ctlWord k a = s.ctlWord k a := by
  unfold State.ctlWord
  simp only [State.launchOf_agenda, State.codeWord_agenda]

@[simp] theorem State.ctlWords_agenda (s : State) (l : List Turn) (k : CoreId) :
    ∀ n a, ({ s with agenda := l } : State).ctlWords k a n = s.ctlWords k a n
  | 0, _ => rfl
  | n + 1, a => by simp only [State.ctlWords, State.ctlWords_agenda s l k n, State.ctlWord_agenda]

@[simp] theorem fetchAt_agenda (s : State) (l : List Turn) (k : CoreId) :
    ∀ n a, fetchAt { s with agenda := l } k n a = fetchAt s k n a
  | 0, _ => rfl
  | n + 1, a => by simp only [fetchAt, fetchAt_agenda s l k n, State.ctlWords_agenda]

/-- What a core fetches does not depend on the agenda. -/
@[simp] theorem State.fetch_agenda (s : State) (l : List Turn) (k : CoreId) :
    ({ s with agenda := l } : State).fetch k = s.fetch k := fetchAt_agenda s l k _ _

/-- A step whose next turn is a control processor's runs that turn. -/
theorem step_cp (s : State) (k : CoreId) (rest : List Turn) (h : s.agenda = .cp k :: rest) :
    step s = cpTurn { s with agenda := rest } k := by
  unfold step; rw [h]; rfl

/-- A step whose next turn is a vector sequencer's runs that turn. -/
theorem step_vs (s : State) (k : CoreId) (rest : List Turn) (h : s.agenda = .vs k :: rest) :
    step s = vsTurn { s with agenda := rest } k := by
  unfold step; rw [h]; rfl

end Sys2Proof.Machine
end

