-- ==== Sys2Proof/Tests/Slice0.lean ====
section
/-! SUPPORT. Tests: words that the spec writes out, ill-formed instructions, single steps with results worked out by hand from the
rules, and for every statement with hypotheses a state and operands that meet them. -/

open Sys2Proof Sys2Proof.Machine Sys2Proof.Claims

-- One theorem at a time: evaluated side by side they take more threads than the memory limit allows.
set_option Elab.async false

namespace Sys2Proof.Tests

/-! ## Words, with the spec's own encodings -/

/-- R107 and R128: opcode 01, rd 3, rs 4, rt 5, .W in bit 9. -/
theorem test_word_add : decodeControl [0b0000001_00011_00100_00101_0_000000000] = .ok (.add 3 4 5 false, []) ∧
    decodeControl [0x02321600] = .ok (.add 3 4 5 true, []) := by decide

/-- R130 and R131, with a LIMM word (R106). -/
theorem test_word_immediates : decodeControl [0x04800002] = .ok (.addi 8 0 ⟨2, .none⟩, []) ∧
    decodeControl [0x8450010C, 0x7C00001E] = .ok (.addi 5 0 ⟨0x10C, .one 0x1E⟩, []) ∧
    decodeControl [0x06738003] = .ok (.andi 7 7 ⟨3, .none⟩, []) ∧
    decodeControl [0x1073201C] = .ok (.shri 7 6 false 28, []) := by decide

/-- R132: offset -3 in 15 bits. -/
theorem test_word_branch : decodeControl [0b0001011_00111_01000_111111111111101] = .ok (.bne 7 8 (-3), []) := by decide

/-- R135 and R137. -/
theorem test_word_memory : decodeControl [0x2463E010] = .ok (.ld 6 7 3 ⟨16, .none⟩, []) ∧
    decodeControl [0x2462C000] = .ok (.ld 6 5 2 ⟨0, .none⟩, []) ∧
    decodeControl [0x2884A828] = .ok (.amoAdd 8 9 10 2 true, []) := by decide

/-- R140: scope 1 is CORE, the masks CE = 4, CP = 1, TL = 8, VS = 2 (R78); DRAIN.DURABLE has scope 7. -/
theorem test_word_fences : decodeControl [0x2A488080] = .ok (.xfence 1 4 1, []) ∧
    decodeControl [0x2A498180] = .ok (.xfence 1 12 3, []) ∧ decodeControl [0x2A080000] = .ok (.fence 1, []) ∧
    decodeControl [0x2AB80000] = .ok (.drain 7, []) := by decide

/-- R141 and R148: fp.flags is 0x011. -/
theorem test_word_system : decodeControl [0x2C500440] = .ok (.srd 5 0x011, []) ∧
    decodeControl [0x31180000] = .ok (.fwait 3, []) := by decide

/-- R154, R165, R166, R162. -/
theorem test_word_commands : decodeControl [0x40429800] = .ok (.cpy 4 5 6, []) ∧
    decodeControl [0x4838C000] = .ok (.cimModeCompute 3 3, []) ∧ decodeControl [0x4C8A0000] = .ok (.setv 2 5, []) ∧
    decodeControl [0x4C0D0000] = .ok (.setj 6, []) ∧
    decodeControl [0x42838221] = .ok (.atomSwap 8 7 0 4 0 true, []) := by decide

/-- R169, R170, R172. -/
theorem test_word_sync : decodeControl [0x4E74A800] = .ok (.syncArm 7 9 10, []) ∧
    decodeControl [0x4E740001] = .ok (.syncWait 7 8, []) ∧ decodeControl [0x508A0000] = .ok (.barArrive 5, []) ∧
    decodeControl [0x579D6E00] = .ok (.rtreeMaxsum 25 26 27, []) := by decide

/-- R182 to R193. -/
theorem test_word_lanes : decodeVector 0x82010203 = .ok (.vadd true false 1 2 3) ∧
    decodeVector 0x87414243 = .ok (.vmul true true 65 66 67) ∧
    decodeVector 0x0B414290 = .ok (.vfma false true 65 66 144) ∧
    decodeVector 0x14070803 = .ok (.vsqrt false false 7 8) ∧ decodeVector 0x380C0D67 = .ok (.cvtFi false false 12 13 true 7) ∧
    decodeVector 0x40040000 = .ok (.jseed false false 4 0) ∧
    decodeVector 0x40100C61 = .ok (.jext false false 16 12 true 1) := by decide

/-- R199 to R213. -/
theorem test_word_matrix : decodeVector 0x42305215 = .ok (.cimPass false 3 0 20 4 2 true false true) ∧
    decodeVector 0x44030000 = .ok (.cimSwap false 3) ∧ decodeVector 0x44230000 = .ok (.cimSwapw false 3) ∧
    decodeVector 0x44440000 = .ok (.accClr false 2) ∧ decodeVector 0x44860140 = .ok (.lutBuild false 24 5) ∧
    decodeVector 0x44A45800 = .ok (.lutAcc false 2 1 6) ∧ decodeVector 0x44C46100 = .ok (.outl false 2 24 2) ∧
    decodeVector 0x44EA0948 = .ok (.rsc false 40 2 5 1) ∧ decodeVector 0x45004C28 = .ok (.qnt false 1 24 5) := by decide

/-- R216 to R228. -/
theorem test_word_index : decodeVector 0x50068A00 = .ok (.iadd false 3 4 5) ∧
    decodeVector 0x55000100 = .ok (.ili false 8 0x100) ∧ decodeVector 0x56100000 = .ok (.zinit false 8 0 0) ∧
    decodeVector 0x56124000 = .ok (.zinit false 9 1 0) ∧ decodeVector 0x56200000 = .ok (.znext false 0) ∧
    decodeVector 0x56640800 = .ok (.zisect false 2 0 1) ∧ decodeVector 0x58044000 = .ok (.aqpush false 2 1) ∧
    decodeVector 0x58068000 = .ok (.aqpush false 3 2) := by decide

/-- R232 to R236. -/
theorem test_word_move : decodeVector 0x600A4002 = .ok (.xld false 5 2 2) ∧
    decodeVector 0x64012400 = .ok (.dqpop false 9 1) ∧ decodeVector 0x64400140 = .ok (.ppop false 5) ∧
    decodeVector 0x668C0600 = .ok (.xmv false 70 3) ∧ decodeVector 0x684E6000 = .ok (.ftst false 7 3) ∧
    decodeVector 0x7C000000 = .ok .nop := by decide

/-- R119: words with a reserved field decode to nothing: opcode 0, FENCE of device scope, XFENCE to HX, SHLI.W by 32, CIM.MODE of
kind 17. -/
theorem test_word_reserved : (decodeControl [0]).isOk = false ∧ (decodeControl [0x2A100000]).isOk = false ∧
    (decodeControl [0x2A489000]).isOk = false ∧ (decodeControl [0x10101020]).isOk = false ∧
    (decodeControl [0x483C4000]).isOk = false := by decide

/-! ## Ill-formed instructions: one for each check -/

/-- R131, R135: a .W shift by 32 or more, an LDS of 8 bytes. -/
theorem test_ill_control : (Instr.shli 1 2 true 32).wellFormed = false ∧ (Instr.shri 1 2 true 63).wellFormed = false ∧
    (Instr.sari 1 2 true 32).wellFormed = false ∧ (Instr.shli 1 2 true 31).wellFormed = true ∧
    (Instr.lds 1 2 3 ⟨0, .none⟩).wellFormed = false ∧ (Instr.lds 1 2 2 ⟨0, .none⟩).wellFormed = true := by decide

/-- R140: FENCE and XFENCE at a scope above core, empty masks, a mask to HX, and DRAIN at core scope. -/
theorem test_ill_fences : (Instr.fence 2).wellFormed = false ∧ (Instr.xfence 2 1 1).wellFormed = false ∧
    (Instr.xfence 1 0 1).wellFormed = false ∧ (Instr.xfence 1 1 0).wellFormed = false ∧
    (Instr.xfence 1 1 32).wellFormed = false ∧ (Instr.xfence 1 32 31).wellFormed = true ∧
    (Instr.drain 1).wellFormed = false ∧ (Instr.drain 2).wellFormed = true := by decide

/-- R109, R110: operand codes 144 (lat) as a destination and 145 as a source, and kinds above 16. -/
theorem test_ill_operands : (Instr.vadd false false 144 0 0).wellFormed = false ∧
    (Instr.vadd false false 143 144 144).wellFormed = true ∧ (Instr.vadd false false 0 145 0).wellFormed = false ∧
    (Instr.vadd false false 0 0 145).wellFormed = false ∧ (Instr.vmov false false 0 145).wellFormed = false ∧
    (Instr.cvtFi false false 0 0 true 17).wellFormed = false ∧ (Instr.cvtFi false false 0 0 true 31).wellFormed = true ∧
    (Instr.cvtCi false false 0 0 17).wellFormed = false ∧ (Instr.cvtCi false false 0 0 31).wellFormed = false ∧
    (Instr.cimModeCompute 0 17).wellFormed = false ∧ (Instr.xld false 144 0 0).wellFormed = false ∧
    (Instr.xst false 144 0 0).wellFormed = false ∧ (Instr.dqpop false 144 0).wellFormed = false ∧
    (Instr.dqpeek false 144 0).wellFormed = false ∧ (Instr.xmv false 144 0).wellFormed = false := by decide

/-- R115, R116: CIM.PASS over 64 banks or from a bank that is no multiple of their number, QPAR of kinds 0 and 17, IGET of 7. -/
theorem test_ill_fields : (Instr.cimPass false 0 6 0 0 0 false false false).wellFormed = false ∧
    (Instr.cimPass false 2 2 0 0 0 false false false).wellFormed = false ∧
    (Instr.cimPass false 4 2 0 0 0 false false false).wellFormed = true ∧ (Instr.qpar false 0 0 0).wellFormed = false ∧
    (Instr.qpar false 0 0 17).wellFormed = false ∧ (Instr.iget false 0 7).wellFormed = false := by decide


/-! ## Single steps and values worked out by hand -/

/-- A core that runs a task, with some control registers. -/
def runs (g : List (BitVec 5 × Word64)) : Core := g.foldl (fun c p => c.setG p.1 p.2) { Core.reset with run := .running }

/-- The card with a core 0. -/
def card (c : Core) : State := { State.reset with cores := [(0, c)] }

/-- What an instruction leaves on core 0; the reset card where it does not go on. -/
def after (o : Host.Outcome State Fault Refusal) : State :=
  match o with
  | .next t => t
  | _ => State.reset

/-- The register an instruction leaves on core 0 with g2 and g3 as given. -/
def result (i : Instr) (x y : Word64) (r : BitVec 5) : Word64 := (after (exec i (card (runs [(2, x), (3, y)])))).me.gr r

/-- A copy's tag with nothing owed. -/
def tagOf (what : CopyOp) (dest src : Word64) (p : CopyPhase) (todo : List (Nat × Nat)) : Tag :=
  ⟨0, 0, 0, dest, src, false, 0, none, 0, 0, what, p, todo, [], [], [], 0, 0, [], 0, 0, 0, none, 0, false, 1⟩

/-- A loop command in progress: one packet at 0x42000, run once. -/
def body (w : Option (List Word32)) : LoopRun :=
  ⟨⟨0x42000, 1, Vector.replicate 6 1, Vector.replicate 6 0, Vector.replicate 8 0, 0, 0, 0, 0, 0⟩, 0, 0, w, none⟩

/-- The card with several cores. -/
def cards (l : List (Nat × Core)) : State := { State.reset with cores := l }

theorem test_add : result (.add 1 2 3 false) (BitVec.allOnes 64) 2 1 = 1 ∧
    result (.add 1 2 3 true) 0x7FFFFFFF 1 1 = 0xFFFFFFFF80000000 := by decide

/-- R129: the corners of division. -/
theorem test_div : result (.div 1 2 3 false) 0x8000000000000000 (BitVec.allOnes 64) 1 = 0x8000000000000000 ∧
    result (.div 1 2 3 false) 7 0 1 = BitVec.allOnes 64 ∧ result (.div 1 2 3 false) (-7) 2 1 = -3 := by decide

theorem test_rem : result (.rem 1 2 3 false) (-7) 2 1 = -1 ∧ result (.rem 1 2 3 false) 7 0 1 = 7 ∧
    result (.remu 1 2 3 true) 0xFFFFFFFF 0x10 1 = 15 := by decide

theorem test_mulhu : result (.mulhu 1 2 3) (BitVec.allOnes 64) (BitVec.allOnes 64) 1 = 0xFFFFFFFFFFFFFFFE ∧
    result (.mulh 1 2 3) (BitVec.allOnes 64) (BitVec.allOnes 64) 1 = 0 := by decide

theorem test_shifts : result (.sar 1 2 3 true) 0x80000000 33 1 = 0xFFFFFFFFC0000000 ∧
    result (.shr 1 2 3 false) 0x8000000000000000 127 1 = 1 ∧ result (.shl 1 2 3 true) 1 31 1 = 0xFFFFFFFF80000000 := by decide

/-- R126: a write to g0 is discarded. -/
theorem test_g0 : result (.addi 0 2 ⟨5, .none⟩) 1 0 0 = 0 := by decide

/-- R133: JALR reads its base before it links; and a target that is not a multiple of 4 ends the task with the fetch trap. -/
theorem test_jalr : (after (exec (.jalr 2 2 ⟨8, .none⟩) (card (runs [(2, 0x100)])))).me.pc = 0x108 ∧
    result (.jalr 2 2 ⟨8, .none⟩) 0x100 0 2 = 4 ∧
    (∃ r, (after (exec (.jalr 2 2 ⟨2, .none⟩) (card (runs [(2, 0x100)])))).me.run = .stopping r ∧ r.cause = 3 ∧ r.d0 = 0x102) := by
  refine ⟨by decide, by decide, ⟨_, rfl, by decide, by decide⟩⟩

/-- R135: the byte 0x80 at address 5, with LD and with LDS; a store's bytes lie lowest first. -/
theorem test_loads : let s := card { runs [(2, 5)] with scratch := [(5, 0x80)] }
    (after (exec (.ld 1 2 0 ⟨0, .none⟩) s)).me.gr 1 = 0x80 ∧
    (after (exec (.lds 1 2 0 ⟨0, .none⟩) s)).me.gr 1 = 0xFFFFFFFFFFFFFF80 ∧
    (after (exec (.st 3 2 2 ⟨-1, .none⟩) (card (runs [(2, 9), (3, 0x04030201)])))).me.scratch =
      [(8, 1), (9, 2), (10, 3), (11, 4)] := by decide

/-- R137: a signed minimum of words, and a CAS that does not match. -/
theorem test_amo : let s := card { runs [(1, 9), (2, 8), (3, 1)] with scratch := [(8, 0xFF), (9, 0xFF), (10, 0xFF), (11, 0xFF)] }
    (after (exec (.amoMin 1 2 3 0 false) s)).me.scratch = s.me.scratch ∧
    (after (exec (.amoMax 1 2 3 0 false) s)).me.scratch = [(8, 1)] ∧
    (after (exec (.amoCas 1 2 3 0 false) s)).me.gr 1 = 0xFFFFFFFF := by decide

/-- R95: a count that reaches its target advances the generation: 5 armed for 8, 3 more arrive. -/
theorem test_sync_add : let s := card { runs [(2, 16), (3, 3)] with scratch := [(16, 8), (23, 0x80), (24, 5)] }
    (after (exec (.syncAdd 2 3) s)).me.scratch = [(16, 8), (21, 1), (23, 0x80)] := by decide

/-- R148: FSET 3, and an FWAIT that waits. -/
theorem test_flags : (after (exec (.fset 3) (card (runs [])))).me.flags = 8 ∧
    (after (exec (.fwait 3) (card (runs [])))).me.wait = .flag 3 := by decide

/-- R146: TRAP 7 ends the task with cause 22 and its code. -/
theorem test_trap : ∃ r, (after (exec (.trap 7) (card (runs [])))).me.run = .stopping r ∧ r.cause = 22 ∧ r.d0 = 7 :=
  ⟨_, rfl, by decide, by decide⟩

/-- R288, R303: with nothing ready, arming a cairn is dropped; with the scheduler ready and context 0 enabled it opens. -/
theorem test_cairn_arm :
    let s : State := { State.reset with fw := { Firmware.reset with ready := 0x4000 }, ctxs := [(0, { Ctx.reset with cfg := 2 ^ 63 })] }
    ((after (exec (.cairnArm 5 0) s)).cairn 5).state = .opened ∧ ((after (exec (.cairnArm 5 0) State.reset)).cairn 5).state = .free := by
  decide +kernel

/-- R54: 1 + 1 = 2; 1 / 3 is 3EAAAAAB and inexact; the square root of 2 is 3FB504F3. -/
theorem test_float : (rsum .fp32 [prod [Fmt.fp32.decode 0x3F800000], prod [Fmt.fp32.decode 0x3F800000]]) = ⟨0x40000000, 0⟩ ∧
    (fpDiv .fp32 (Fmt.fp32.decode 0x3F800000) (Fmt.fp32.decode 0x40400000)).bits = 0x3EAAAAAB ∧
    (fpSqrt .fp32 (Fmt.fp32.decode 0x40000000)).bits = 0x3FB504F3 := by decide +kernel

/-- R188: e is 402DF854, which lies 8.25e-8 below e, so that its logarithm 1 - 3.04e-8 rounds to 3F7FFFFF; exp of 0 is exactly 1. -/
theorem test_exp : (fpExp .fp32 (Fmt.fp32.decode 0x3F800000)).bits = 0x402DF854 ∧
    (fpExp .fp32 (Fmt.fp32.decode 0)) = ⟨0x3F800000, 0⟩ ∧ (fpLog .fp32 (Fmt.fp32.decode 0x402DF854)).bits = 0x3F7FFFFF := by
  decide +kernel

/-- R262: lane 0 of v64 is -24 × 1.0 × 0.5 = -12.0, and lane 7 of v65 is -16 × 0.25 × 0.5 = -2.0. -/
theorem test_rescale : rescale (-24) 0x3F800000 0x3F000000 127 = ⟨0xC1400000, 0⟩ ∧
    rescale (-16) 0x3E800000 0x3F000000 127 = ⟨0xC0000000, 0⟩ := by decide +kernel

/-! ## A step -/

/-- The next step runs the word that withFetchWord places: ADD g3, g4, g5 with g4 = 40 and g5 = 2, and IADD i3, i4, i5 in a body. -/
theorem test_step_add : ((after (step ((card (runs [(4, 40), (5, 2)])).withFetchWord 32 0x02321400))).core 0).gr 3 = 42 := by
  decide +kernel

theorem test_step_iadd :
    (((after (step ((card { runs [] with idx := (Vector.replicate 16 0).set 4 40 }).withFetchWord 32 0x50068A00))).core 0).landing.map
      fun l => l.v) = [.index 3 40] := by decide +kernel

/-! ## For each statement with hypotheses, states and operands that meet them: the control stream -/

theorem witness_DivisionResults :
    (let s := card (runs [(2, 0x8000000000000000), (3, 0), (4, BitVec.allOnes 64), (5, 0x80000000), (6, 0xFFFFFFFF)])
     s.me.gr 3 = 0 ∧ (s.me.gr 2).toInt = -2 ^ 63 ∧ (s.me.gr 4).toInt = -1 ∧ (BitVec.ofNat 32 (s.me.gr 3).toNat) = 0 ∧
     (BitVec.ofNat 32 (s.me.gr 5).toNat).toInt = -2 ^ 31 ∧ (BitVec.ofNat 32 (s.me.gr 6).toNat).toInt = -1 ∧
     (s.me.gr 5 ≠ 0 ∧ ¬((s.me.gr 2).toInt = -2 ^ 63 ∧ (s.me.gr 5).toInt = -1)) ∧
     (BitVec.ofNat 32 (s.me.gr 5).toNat ≠ 0 ∧ ¬((BitVec.ofNat 32 (s.me.gr 6).toNat).toInt = -2 ^ 31 ∧
       (BitVec.ofNat 32 (s.me.gr 5).toNat).toInt = -1))) := by decide

theorem witness_ImmediateOperations : (31 : BitVec 6).toNat < 32 ∧ 32 ≤ (32 : BitVec 6).toNat := by decide

theorem witness_ConditionalBranches :
    let s := card (runs [(2, 1), (3, -1)])
    let x := s.me.gr 2
    let y := s.me.gr 3
    x = x ∧ x ≠ y ∧ ¬x.toInt < y.toInt ∧ y.toInt ≤ x.toInt ∧ y.toInt < x.toInt ∧ x.toNat < y.toNat ∧ ¬y.toNat ≤ x.toNat := by decide

theorem witness_JumpsAndLinks :
    let s := card (runs [(2, 0x100)])
    (s.me.gr 2 + imm15 ⟨4, .none⟩).toNat % 4 = 0 ∧ (s.me.gr 2 + imm15 ⟨-1, .none⟩).toNat % 4 ≠ 0 ∧ s.me.run = .running := by decide

theorem witness_ControlRegisters : (31 : BitVec 5) ≠ 0 ∧ (31 : BitVec 5) = 31 ∧ (31 : BitVec 5) ≠ 1 := by decide

theorem witness_RegisterOnlyFrame : RegisterOnly (.add 31 1 2 true) 31 ∧ RegisterOnly (.sari 0 1 true 31) 0 ∧
    RegisterOnly (.jal 1 5) 1 := ⟨.add .., .sari .., .jal ..⟩

/-- The last eight bytes of plain scratch, and both ends of the bank windows, with nothing in flight; and a sync word that a copy in
flight has for its target. -/
theorem witness_ScratchLoadsAndStores :
    let s := card (runs [(2, 0x3FFF8), (3, 0x40000), (4, 0x9FFF8)])
    let flying := card { runs [(2, 0x1FF0)] with tags := [(0, some { tagOf (.cpy 64) 0x2000000000002000 0x1000 .moving [] with t := true, target := 0x1FF0 })] }
    ((s.me.gr 2).toInt + (imm12 ⟨0, .none⟩).toInt = ((0x3FFF8 : Nat) : Int) ∧ 0x3FFF8 % 2 ^ (3 : BitVec 2).toNat = 0 ∧
      plainStorage s.me 0x3FFF8 (2 ^ (3 : BitVec 2).toNat)) ∧
    ((s.me.gr 3).toInt + (imm12 ⟨0, .none⟩).toInt = ((0x40000 : Nat) : Int) ∧
      plainStorage s.me 0x40000 (2 ^ (3 : BitVec 2).toNat)) ∧
    ((s.me.gr 4).toInt + (imm12 ⟨0, .none⟩).toInt = ((0x9FFF8 : Nat) : Int) ∧
      plainStorage s.me 0x9FFF8 (2 ^ (3 : BitVec 2).toNat)) ∧
    unawaited s s.cur 0x3FFF8 8 ∧
    (¬unawaited flying flying.cur 0x1FF0 8 ∧ unawaited flying flying.cur 0x2000 1 ∧ plainStorage flying.me 0x1FF0 8) := by
  unfold plainStorage unawaited; decide +kernel

theorem witness_ControlPage :
    let s := fun (a : Word64) => card (runs [(2, a)])
    ((s 0xF0000).me.gr 2).toNat = 0xF0000 + 0 ∧ ((s 0xF017C).me.gr 2).toNat = 0xF0000 + (0x100 + 4 * 31) ∧
    ((s 0xF0178).me.gr 2).toNat = 0xF0000 + (0x100 + 8 * 15) ∧ ((s 0xF0278).me.gr 2).toNat = 0xF0000 + (0x200 + 8 * 15) ∧
    ((s 0xF027C).me.gr 2).toNat = 0xF0000 + (0x204 + 8 * 15) ∧ ((s 0xF0278).me.gr 2).toNat = 0xF0200 + 8 * 15 ∧
    ((s 0xF0204).me.gr 2).toNat = 0xF0204 + 8 * 0 ∧
    (((s 0xF0280).me.gr 2).toNat = 0xF0000 + 0x280 ∧ 0x280 % 4 = 0 ∧ 0x280 < 0x1000) ∧
    (((s 0xF00FC).me.gr 2).toNat = 0xF0000 + 0xFC ∧ 0xFC < 0x100) ∧ ((s 0xF0FFC).me.gr 2).toNat = 0xF0000 + 0xFFC ∧
    ((s 0xF01FC).me.gr 2).toNat = 0xF0000 + 0x1FC := by decide

/-- Each trap at a boundary: below 0 and past 2^20, one byte off, the two holes' first and last units, the control page's, and a COMPUTE bank's window. -/
theorem witness_ScratchAccessTrapsAndWaits :
    let c : Core := { Core.reset with banks := (Vector.replicate 32 Bank.reset).set 31 { Bank.reset with compute := true } }
    let w : Core := { Core.reset with banks := (Vector.replicate 32 Bank.reset).set 31 { Bank.reset with busy := true } }
    (AccessTraps c 8 false (-1) 4 (BitVec.ofInt 64 (-1)).toNat 8 ∧
     AccessTraps c 8 false (2 ^ 20 - 7) 4 (BitVec.ofInt 64 (2 ^ 20 - 7)).toNat 8 ∧ AccessTraps c 8 true (4 : Nat) 5 4 8 ∧
     AccessTraps c 8 false (0xA0000 : Nat) 4 0xA0000 8 ∧ AccessTraps c 8 false (0xF1000 : Nat) 4 0xF1000 8 ∧
     AccessTraps c 1 false (0xF0FFF : Nat) 4 0xF0FFF 1 ∧ AccessTraps c 8 true (0xF0000 : Nat) 4 0xF0000 8 ∧
     AccessTraps c 8 false (0x9FFF8 : Nat) 6 (31 : BitVec 5).toNat (c.bank 31).status) ∧
    (ScratchStore (.st 1 2 3 ⟨0, .none⟩) false 0 (fun s => (s.me.gr 2).toInt + (imm12 ⟨0, .none⟩).toInt) (2 ^ (3 : BitVec 2).toNat) ∧
      (card (runs [])).me.run = .running) ∧
    (0x9D000 % 8 = 0 ∧ 0x40000 + (31 : BitVec 5).toNat * 0x3000 ≤ 0x9D000 ∧
      0x9D000 < 0x40000 + (31 : BitVec 5).toNat * 0x3000 + 0x3000 ∧ w.modePending 31 = true ∧
      ((card { w with g := w.g.set 2 0x9D000 }).me.gr 2).toInt + (imm12 ⟨0, .none⟩).toInt = ((0x9D000 : Nat) : Int)) := by
  refine ⟨⟨.range _ (by decide), .range _ (by decide), .align _ (by decide) (by decide), .hole _ (by decide) (by decide) (by decide),
    .hole _ (by decide) (by decide) (by decide), .page _ (by decide) (by decide) (by decide) (by decide),
    .page _ (by decide) (by decide) (by decide) (by decide),
    .bank _ _ (by decide) (by decide) (by decide) (by decide) (by decide)⟩, ⟨.st .., by decide⟩, by decide⟩

theorem witness_ScratchAtomics :
    let s := card (runs [(2, 0x3FFFC), (3, 0x40000)])
    ((s.me.gr 2).toInt = ((0x3FFFC : Nat) : Int) ∧ 0x3FFFC % 4 = 0 ∧ plainStorage s.me 0x3FFFC 4) ∧
    ((s.me.gr 3).toInt = ((0x40000 : Nat) : Int) ∧ 0x40000 % 8 = 0 ∧ plainStorage s.me 0x40000 8) := by unfold plainStorage; decide

/-- A core with nothing queued or under way: every fence is over. -/
theorem fence_of_nothing (c : Core) (m : Nat) (d : Bool) (h1 : c.loopRun = none) (h2 : c.landing = []) (h3 : c.cmdq = [])
    (h4 : c.tags = []) (h5 : c.aq = []) (h6 : c.elems = []) : fenceOver c m d := by
  simp [fenceOver, *]

/-- A fence that may return, one that waits for a loop command, one that waits for a copy, and a DRAIN with one write to cover. -/
theorem witness_FencesReturn :
    let s := card (runs [])
    let c : Core := runs []
    let l : LoopCmd := ⟨0, 1, Vector.replicate 6 1, Vector.replicate 6 0, Vector.replicate 8 0, 0, 0, 0, 0, 0⟩
    (fenceOver s.me 63 true ∧ s.me.hostWrites = 0) ∧ ¬fenceOver { c with cmdq := [.loop l] } 2 false ∧
    ¬fenceOver { c with tags := [(3, some (tagOf (.cpy 64) 0x2000000000002000 0x2000000000003000 .issued []))] } 63 false ∧
    (let d := { c with wait := .fence 63 true 6 }
     ((card d).core 0).wait = .fence 63 true 6 ∧ ((card d).core 0).run = .running ∧ ((card d).core 0).missCp = false ∧
       ((card d).core 0).hostWrites = 0) ∧
    (let d := { c with hostWrites := 1 }
     fenceOver (card d).me 63 true ∧ 6 ≤ (6 : BitVec 3).toNat ∧ 0 < (card d).me.hostWrites ∧
       ∀ r ∈ (card d).ports.reads, ∀ n, r.who ≠ .drain (card d).cur n) := by
  refine ⟨⟨fence_of_nothing _ _ _ rfl rfl rfl rfl rfl rfl, rfl⟩, fun h => (h.1 (by decide)).2.2 _ (List.Mem.head _), fun h => ?_,
    ⟨rfl, rfl, rfl, rfl⟩, fence_of_nothing _ _ _ rfl rfl rfl rfl rfl rfl, by decide, by decide, by simp [card, State.reset, Ports.reset]⟩
  exact absurd (h.2.1 3 _ (List.Mem.head _)) (by decide)

/-- R88, R102: a DRAIN.DURABLE of core 0 takes its write of a byte and the older write of that byte from the buffers, and
leaves a newer one and another byte's; once bivouac entry has begun it takes none. -/
theorem test_durable_supersedes :
    let us : List Unsaved := [⟨9, 1, false, .other⟩, ⟨8, 2, false, .task 0 5⟩, ⟨9, 3, true, .task 0 4⟩, ⟨8, 4, false, .task 1 3⟩, ⟨7, 5, true, .other⟩]
    let s := { State.reset with unsaved := us }
    (s.makeDurable (Unsaved.by 0 none)).unsaved = [⟨9, 1, false, .other⟩, ⟨7, 5, true, .other⟩] ∧
    ({ s with fleet := { s.fleet with slpState := 1 } }.makeDurable (Unsaved.by 0 none)).unsaved = us := by decide

/-- The writes a DRAIN.DURABLE makes durable, and one that it leaves. -/
theorem witness_FencesReturn_durable :
    let s := { State.reset with unsaved := [⟨8, 2, false, .task 0 5⟩, ⟨9, 1, false, .other⟩] }
    s.fleet.slpState ≠ 1 ∧ (⟨9, 1, false, .other⟩ : Unsaved) ∈ (s.makeDurable (Unsaved.by 0 none)).unsaved ∧
      (⟨9, 1, false, .other⟩ : Unsaved) ∈ s.unsaved ∧ ∀ v ∈ s.unsaved, v.addr = 9 → ∀ i, v.who ≠ .task 0 i := by
  refine ⟨by decide, by decide, by decide, ?_⟩
  intro v hv h i
  rcases List.mem_cons.1 hv with rfl | hv
  · exact absurd h (by decide)
  · rw [List.mem_singleton.1 hv]; exact fun h => by cases h

/-- A card whose context 0 has the debug privilege. -/
def debugged : State := { card (runs [(2, 1)]) with ctxs := [(0, { Ctx.reset with cfg := 2 ^ 62 })] }

theorem witness_SystemRegisters :
    let l := { placedLaunch with lc := 5 }
    let inLaunch : State := { card { runs [] with task := { Task.reset with launch := 9 } } with
      sched := { Sched.reset with launches := [{ l with lid := 9 }] } }
    (SystemRegister debugged (0x011 : BitVec 12).toNat 0 ∧ SystemRegister debugged (0x018 + (7 : Fin 8).val) 0 ∧
      SystemRegister debugged 0x048 0 ∧ ∃ v, SystemRegister inLaunch 0x001 v) ∧
    (WritableRegister debugged (0x012 : BitVec 12).toNat (BitVec.ofNat 64 (2 ^ 43 - 1)) debugged.me.fpTrapen
        (fun v => debugged.setMe { debugged.me with fpTrapen := v }) ∧
      ∃ rw put, WritableRegister debugged (0x044 + (3 : Fin 4).val) rw (debugged.ctx debugged.me.task.ctx).raceCtl[3] put) ∧
    (let s := card (runs [])
     let listed := fun (k : Nat) => k ≤ 0x003 ∨ (0x010 ≤ k ∧ k ≤ 0x013) ∨ (0x018 ≤ k ∧ k ≤ 0x020) ∨ (0x040 ≤ k ∧ k ≤ 0x048)
     s.me.run = .running ∧ ¬listed (0x004 : BitVec 12).toNat ∧ ¬listed (0x021 : BitVec 12).toNat ∧
       ¬listed (0x049 : BitVec 12).toNat ∧ ((1 : Fin 4) ≠ 0 ∧ (0x01F : BitVec 12).toNat ≤ 0x01F) ∧
       (0x040 ≤ (0x048 : BitVec 12).toNat ∧ (0x048 : BitVec 12).toNat ≤ 0x048 ∧ (s.ctx s.me.task.ctx).dbg = false)) := by
  refine ⟨⟨.fpFlags, .view 7, .raceLog (by decide +kernel), _, .taskExtent { placedLaunch with lc := 5, lid := 9 } (by decide +kernel)⟩,
    ⟨.fpTrapen, _, _, .raceCtl 3 (by decide +kernel)⟩, by decide +kernel⟩

/-- A queue word in use: data or parameter by its use, elements of 8 bytes, depth 4, from 0x1000. -/
def word (use occ : Nat) : Qcw := ⟨BitVec.ofNat 64 (2 ^ 63 + 3 * 2 ^ 60 + use * 2 ^ 56 + 0x1000 * 2 ^ 15 + 3), BitVec.ofNat 64 (occ * 2 ^ 32)⟩

theorem witness_ParameterOverflowRegister :
    let c : Core := { runs [(2, 9), (3, 10), (4, 2), (5, 8)] with qcw := (Vector.replicate 8 ⟨0, 0⟩).set 1 (Tests.word 1 1) }
    let s := card { c with paramOvf := 9 }
    let idle := card { c with paramOvf := 1 }
    let legal := fun (s : State) (v : Word64) => v.toNat / 8 % 2 = 1 →
      (s.me.q (BitVec.ofNat 3 (v.toNat % 8))).en = true ∧ (s.me.q (BitVec.ofNat 3 (v.toNat % 8))).use = 1
    let holds := fun (s : State) => s.me.paramOvf.toNat / 8 % 2 = 1 ∧ (s.me.q (BitVec.ofNat 3 (s.me.paramOvf.toNat % 8))).occ ≠ 0
    let loses := fun (s : State) (v : Word64) => holds s ∧ (v.toNat % 8 ≠ s.me.paramOvf.toNat % 8 ∨ v.toNat / 8 % 2 = 0)
    s.me.run = .running ∧
    -- SWR: legal and loses nothing; illegal; legal and loses an entry
    (legal s (s.me.gr 2) ∧ ¬loses s (s.me.gr 2)) ∧ ¬legal s (s.me.gr 3) ∧ (legal s (s.me.gr 4) ∧ loses s (s.me.gr 4)) ∧
    -- SSET: en set beside the queue word named before, or another word named
    (legal idle (idle.me.paramOvf ||| idle.me.gr 5) ∧ ¬loses idle (idle.me.paramOvf ||| idle.me.gr 5)) ∧
    ¬legal s (s.me.paramOvf ||| s.me.gr 4) ∧
    -- SCLR: nothing of it cleared, or en cleared with an element there
    (legal s (s.me.paramOvf &&& ~~~s.me.gr 4) ∧ ¬loses s (s.me.paramOvf &&& ~~~s.me.gr 4)) ∧
    (legal s (s.me.paramOvf &&& ~~~s.me.gr 5) ∧ loses s (s.me.paramOvf &&& ~~~s.me.gr 5)) := by decide +kernel

theorem witness_TakingATrap :
    let r : TrapRec := ⟨22, 0, 0, false, 0, 0, 0, [], 0, 0, 7, 0, []⟩
    let at' := fun (x : RunState) => ((card { Core.reset with run := x }).core 0).run = x
    at' .running ∧ at' .preempting ∧ at' .cancelling ∧ at' .idle ∧ at' .dead ∧ at' .recorded ∧ at' (.stopping r) := by decide +kernel

theorem witness_EventFlags :
    let s := card { runs [] with flags := 0x8000, wait := .flag 15 }
    s.me.flags.getLsbD (15 : BitVec 4).toNat = true ∧ s.me.flags.getLsbD (0 : BitVec 4).toNat = false ∧ (s.core 0).wait = .flag 15 ∧
      (s.core 0).run = .running ∧ (s.core 0).missCp = false := by decide

theorem witness_SoftwareTrapAndYield :
    let s := card (runs [])
    let low := card { runs [] with task := { Task.reset with prio := 9 } }
    let better := { low with sched := { Sched.reset with queues := [(queueNo 0 4, ⟨[⟨4, false, false, 0x40000, 0, 0, 0, 0, 0, 0, 0, 0⟩], 4, 0⟩)] } }
    let asked := card { runs [] with preemptReq := true }
    (s.me.run = .running ∧ s.me.preemptReq = false ∧ ∀ p < 32, (s.queue (s.cur.toNat / 64) p).recs = []) ∧
    { s with fleet := { Fleet.reset with slpState := 1 } }.fleet.slpState = 1 ∧
    (asked.fleet.slpState ≠ 1 ∧ asked.me.run = .running ∧ asked.me.wait = .no ∧ asked.me.rope = none ∧ asked.me.preemptReq = true) ∧
    (better.me.preemptReq = false ∧ (better.queue (better.cur.toNat / 64) 4).recs ≠ [] ∧
      (better.queue (better.cur.toNat / 64) 4).eff < better.me.task.prio.toNat) := by decide +kernel

/-! ## The engine, task and synchronisation commands -/

/-- A card whose core 0 runs a task of a launch with control code from 0x40000 and bodies from 0x42000 (log 20). -/
def launched (c : Core) : State := { card c with sched := { Sched.reset with launches := [placedLaunch] } }

/-- Endpoint words: device memory at 0x1000, own plain scratch at 0x2000, the shadow of bank 5. -/
def devEnd : Word64 := 0x1000
def ownEnd : Word64 := 0x2000000000002000
def shadowEnd : Word64 := 0x6000000000500000

theorem witness_CopiesIssue :
    let c := runs [(2, ownEnd), (3, shadowEnd), (4, devEnd), (5, 0x40), (6, 0xFFFF00BF), (7, 0x3FFE0), (8, 0x3FF90)]
    let s := card { c with scratch := [(0x3FF91, 6), (0x3FFE0, 16), (0x3FFEF, 1), (0x3FFF0, 8)] }
    ((95 < 96 ∧ s.me.tag 95 = none) ∧ endOk (s.me.gr 2) [0, 1, 2] = true) ∧
    (endOk (s.me.gr 3) [0, 1, 2, 3, 4] = true ∧ ctlOk (s.me.gr 5) = true) ∧ endOk (s.me.gr 3) [3] = true ∧
    (endOk (s.me.gr 2) [0, 1] = true ∧ (s.me.gr 6).toNat < 2 ^ 32 ∧ (s.me.gr 6).toNat / 2 ^ 8 % 2 ^ 8 = 0 ∧
      (s.me.gr 6).toNat % 2 ^ 8 ≤ 191 ∧ ctlOk 32768 = true ∧ (32768 : Word64).toNat % 2 ^ 40 % 8 = 0 ∧
      (32768 : Word64).toNat % 2 ^ 40 ≤ 32768) ∧
    (descAt (s.me.gr 8) 112 16 ∧ cpysFault (memRead s.me.scratch (s.me.gr 8).toNat 112) = none) ∧
    (descAt (s.me.gr 7) 32 16 ∧ cpyxFault (memRead s.me.scratch (s.me.gr 7).toNat 32) = none) := by
  unfold descAt; decide +kernel

theorem witness_AtomsIssue :
    let c := runs [(2, 0x1FF0), (3, 1), (4, 0), (5, 0x4000000000000010), (6, 0x1FF8), (7, 0x1FFC)]
    let s := card c
    let aligned := fun (r : BitVec 5) (n : Nat) => (s.me.gr r).toNat % n = 0 ∧ endOk (s.me.gr r) [0, 2] = true
    AtomForm 2 3 4 0 0 true (.atomCread 2 3 4 0 0) 11 16 ∧ AtomForm 6 3 5 4 3 true (.atomCas 6 3 5 4 3 true) 9 8 ∧
    AtomForm 7 3 4 4 3 false (.atomAdd 7 3 4 4 3 false) 0 4 ∧
    (0 < 96 ∧ s.me.tag 0 = none) ∧ (aligned 6 8 ∧ atomCtlOk (s.me.gr 5) true = true) ∧ (aligned 7 4 ∧ atomCtlOk (s.me.gr 4) false = true) ∧
    (aligned 2 16 ∧ atomCtlOk (s.me.gr 5) false = true ∧ (s.me.gr 3).toNat ≤ 1) := by
  exact ⟨.cread, .cas, .add, by decide +kernel⟩

/-- Operands that are illegal, one at a time: g2 no endpoint, g3 device memory, g4 a shadow bank, g5 a control word of length 0, g6 a
legal one, g7 a lane word and g8 one of lane 192, g9 to g12 descriptors past scratch, off 16, of no dimension and of all zeros. -/
theorem witness_CopyOperandTraps :
    let s := card (runs [(2, 0xA000000000000000), (3, devEnd), (4, shadowEnd), (5, 0), (6, 0x40), (7, 191), (8, 192),
      (9, 0xFFFF0), (10, 0x2008), (11, 0x2000), (12, 2), (13, 0x8000000000000000)])
    let w := memRead s.me.scratch (s.me.gr 11).toNat
    s.me.run = .running ∧ endOk (s.me.gr 2) [0, 1, 2, 3, 4] = false ∧ endOk (s.me.gr 3) [3] = false ∧
    (endOk (s.me.gr 3) [0, 1, 2, 3, 4] = true ∧ endOk (s.me.gr 4) [0, 1, 2] = false) ∧
    (endOk (s.me.gr 3) [0, 1, 2] = true ∧ ctlOk (s.me.gr 5) = false) ∧ endOk (s.me.gr 4) [3] = true ∧
    (¬laneWordOk (s.me.gr 8) ∧ laneWordOk (s.me.gr 7) ∧ endOk (s.me.gr 3) [0, 1] = true ∧ endOk (s.me.gr 4) [0, 1] = false ∧
      ¬laneCtlOk (s.me.gr 5) ∧ laneCtlOk (s.me.gr 6)) ∧
    (2 ^ 20 < (s.me.gr 9).toNat + 32 ∧ ((s.me.gr 10).toNat + 112 ≤ 2 ^ 20 ∧ (s.me.gr 10).toNat % 16 ≠ 0) ∧
      (descAt (s.me.gr 11) 112 16 ∧ cpysFault (w 112) = some 0) ∧ (descAt (s.me.gr 11) 32 16 ∧ cpyxFault (w 32) = some 0)) ∧
    (AtomForm 3 12 6 0 0 true (.atomCread 3 12 6 0 0) 11 16 ∧ AtomForm 4 12 6 0 0 true (.atomAdd 4 12 6 0 0 true) 0 8 ∧
      endOk (s.me.gr 4) [0, 2] = false ∧ (endOk (s.me.gr 3) [0, 2] = true ∧ (s.me.gr 3).toNat % 16 = 0) ∧
      (endOk (s.me.gr 12) [0, 2] = true ∧ (s.me.gr 12).toNat % 8 ≠ 0) ∧ atomCtlOk (s.me.gr 2) false = false ∧
      atomCtlOk (s.me.gr 0) false = true ∧ 1 < (s.me.gr 12).toNat) := by
  refine ⟨by decide +kernel, by decide +kernel, by decide +kernel, by decide +kernel, by decide +kernel, by decide +kernel, ?_, ?_, .cread, .add, ?_⟩ <;>
    first | (unfold laneWordOk laneCtlOk; decide +kernel) | (unfold descAt; decide +kernel) | decide +kernel

/-- Every copy tag taken, with a legal command of each form. -/
theorem witness_CopyOperandTraps_full :
    let c := runs [(2, ownEnd), (3, shadowEnd), (4, devEnd), (5, 0x40), (6, 191), (7, 0x3FFE0), (8, 0x3FF90)]
    let s := card { c with
      scratch := [(0x3FF91, 6), (0x3FFE0, 16), (0x3FFEF, 1), (0x3FFF0, 8)]
      tags := (List.range 96).map fun n => (n, some { tagOf (.cpy 1) 0 0 .issued [] with order := n }) }
    ¬freeTag s ∧ CopyCommand s 2 4 5 (.cpy 2 4 5) ∧ CopyCommand s 3 4 5 (.cimFill 3 4 5) ∧ CopyCommand s 6 2 5 (.laneLoad 6 2 5) ∧
      CopyCommand s 3 2 8 (.cpys 3 2 8) ∧ CopyCommand s 3 2 7 (.cpyx 3 2 7) ∧ CopyCommand s 4 2 0 (.atomFadd 4 2 0 0 0) := by
  refine ⟨fun ⟨n, h, h2⟩ => ?_, .cpy ?_ ?_ ?_, .cimFill ?_ ?_ ?_, .laneLoad ?_ ?_ ?_, .cpys ?_ ?_ ?_ ?_, .cpyx ?_ ?_ ?_ ?_,
    .atom 0 0 false _ 10 16 .fadd ?_ ?_ ?_ (fun h => absurd h (by decide))⟩
  · revert h2; revert n; decide +kernel
  all_goals first | decide +kernel | (unfold laneWordOk; decide +kernel) | (unfold laneCtlOk; decide +kernel) | (unfold descAt; decide +kernel)

/-- A core with bank 31 in COMPUTE mode and addresses that the read of a descriptor does not reach: g20 outside scratch, g21 off its
boundary, g22 in the hole, g23 at the end of plain scratch, g24 at the end of window 1, g25 in the window of bank 31. -/
def strays (g : List (BitVec 5 × Word64)) : Core :=
  { runs (g ++ [(20, 0x100000), (21, 0x2004), (22, 0xA0000), (23, 0x3FFF0), (24, 0x45FF0), (25, 0x9FF00)]) with
    banks := (Vector.replicate 32 Bank.reset).set 31 { Bank.reset with compute := true } }

theorem witness_CopyOperandTraps_descriptors :
    let s := card (strays [(3, devEnd)])
    let traps := fun (n : Nat) (r : BitVec 5) (cause : Nat) => DescTraps s.me n 16 (s.me.gr r).toNat cause (s.me.gr r).toNat n
    s.me.run = .running ∧ endOk (s.me.gr 3) [0, 1, 2, 3, 4] = true ∧ endOk (s.me.gr 3) [0, 1, 2] = true ∧
    traps 112 20 4 ∧ traps 32 21 5 ∧ traps 112 22 4 ∧ traps 32 23 4 ∧ traps 32 24 4 ∧
    DescTraps s.me 112 16 (s.me.gr 25).toNat 6 (31 : BitVec 5).toNat (s.me.bank 31).status := by
  refine ⟨by decide +kernel, by decide +kernel, by decide +kernel, .range _ ?_, .align _ ?_ ?_, .hole _ ?_ ?_ ?_, .plainEnd _ ?_ ?_ ?_ ?_,
    .windowEnd _ 1 ?_ ?_ ?_ ?_ ?_, .bank _ 31 ?_ ?_ ?_ ?_ ?_ ?_⟩ <;> decide +kernel

theorem witness_WaitsForRoomEnd :
    let s := fun w => card { runs [(2, devEnd), (3, ownEnd), (4, 0x40), (5, 0)] with
      wait := w, cmdq := List.replicate 15 (.mode 0 false 0 0 0), paramq := List.replicate 15 0 }
    let r := fun w => ((s w).core 0).run = .running ∧ ((s w).core 0).missCp = false ∧ ((s w).core 0).wait = w
    CopyCommand (s .no) 2 3 4 (.cpy 2 3 4) ∧ CopyCommand (s .no) 2 3 5 (.atomAdd 2 3 5 0 0 true) ∧
    r (.again (.atomAdd 2 3 5 0 0 true)) ∧ r (.again (.cpy 2 3 4)) ∧ (95 < 96 ∧ (s .no).me.tag 95 = none) ∧
    (r (.again (.cimModeScratch 31)) ∧ ((s .no).core 0).cmdq.length < 16 ∧ ((s .no).core 0).rope = none) ∧
    r (.again (.cimModeCompute 31 16)) ∧ r (.again (.loop 2 3 4)) ∧
    (r (.again (.ppush 2)) ∧ ((s .no).core 0).paramq.length < 16 ∧ ((s .no).core 0).paramOvf.getLsbD 3 = false) := by
  exact ⟨.cpy (by decide +kernel) (by decide +kernel) (by decide +kernel),
    .atom 0 0 true _ 0 8 .add (by decide +kernel) (by decide +kernel) (by decide +kernel) (fun h => absurd h (by decide)), by decide +kernel⟩

/-- A core alone, the leader of a rope of cores 0 and 1, a nest of six levels, full queues, and a finalised kernel that names no body. -/
theorem witness_CommandQueueEntries :
    let one := toBytes 8 (2 ^ 32 + 65536)
    let c := runs [(2, 0x40000), (3, 0), (4, 0x1000), (5, 0x3FFD0)]
    let m := memWrite [] 0x3FFD0 (one ++ one ++ one ++ one ++ one ++ one)
    let s := launched { c with cmdq := List.replicate 15 (.mode 0 false 0 0 0), scratch := m }
    let full := launched { c with cmdq := List.replicate 16 (.mode 0 false 0 0 0), paramq := List.replicate 16 0, scratch := m }
    let led := { cards [(0, { c with rope := some ⟨3, false⟩ }), (1, { c with rope := some ⟨3, false⟩ })] with cur := 0 }
    let inBank : Qcw := ⟨BitVec.ofNat 64 (2 ^ 63 + 3 * 2 ^ 60 + 0x40000 * 2 ^ 15 + 3), 0⟩
    let blocked := card { runs [] with qcw := (Vector.replicate 8 ⟨0, 0⟩).set 7 inBank }
    let zpf : State := { s with sched := { Sched.reset with launches := [{ placedLaunch with zpf := some ⟨[], 0, []⟩ }] } }
    let level := fun d => memNat m (0x3FFD0 + 8 * d) 8
    (s.me.rope = none ∧ led.me.rope ≠ none ∧ led.leader led.cur = led.cur) ∧
    (∀ t ∈ [s, full, zpf], t.bodyOk (t.me.gr 2).toNat ((t.me.gr 3).toNat % 2 ^ 12 + 1) = true ∧
      viewFault t.me.views t.me.jetOrder.toNat = none) ∧ (s.me.gr 3).toNat < 2 ^ 12 ∧
    ((s.me.gr 4).toNat / 2 ^ 12 = 1 ∧ descAt (s.me.gr 5) 48 8 ∧
      ∀ d < 6, level d / 2 ^ 17 % 2 ^ 15 = 0 ∧ 1 ≤ level d % 2 ^ 17 ∧ level d % 2 ^ 17 ≤ 65536) ∧
    (s.zpfUndeclared (s.me.gr 2) 1 = false ∧ full.zpfUndeclared (full.me.gr 2) 1 = false ∧ zpf.zpfUndeclared (zpf.me.gr 2) 1 = true) ∧
    (s.me.cmdq.length < 16 ∧ ¬full.me.cmdq.length < 16) ∧ (∀ n : BitVec 3, (s.me.q n).inBank 31 = false) ∧
    (blocked.me.run = .running ∧ ∃ n : BitVec 3, (blocked.me.q n).inBank 0 = true) ∧
    (s.me.paramq.length < 16 ∧ s.me.paramOvf.getLsbD 3 = false) ∧
    (full.me.paramq.length = 16 ∧ full.me.paramOvf.getLsbD 3 = false) := by unfold descAt; decide +kernel

/-- A LOOP whose body is no packet, with a reserved bit, with a nest that cannot be read, with bad first and last levels, and with two
views that claim the same names. -/
theorem witness_CommandQueueEntries_traps :
    let one := toBytes 8 (2 ^ 32 + 65536)
    let m := memWrite [] 0x2000 (one ++ one ++ one ++ one ++ one)
    let c := { strays [(2, 0x40000), (3, 0), (4, 0x1000), (5, 0x2000), (6, 0x2008), (7, 0x40004), (8, 0x2000)] with scratch := m }
    let s := launched c
    let level := fun (x d : Nat) => memNat s.me.scratch (x + 8 * d) 8
    let bad := fun (x d : Nat) => level x d / 2 ^ 17 % 2 ^ 15 ≠ 0 ∨ level x d % 2 ^ 17 = 0 ∨ 65536 < level x d % 2 ^ 17
    let twice := launched { c with
      views := ((Vector.replicate 8 0).set 6 (2 ^ 61 + 16 * 2 ^ 43)).set 7 (2 ^ 61 + 15 * 2 ^ 51 + 2 ^ 43 + 0x4000) }
    (s.me.run = .running ∧ s.me.rope = none ∧ s.bodyOk (s.me.gr 7).toNat 1 = false ∧ s.bodyOk (s.me.gr 2).toNat 1 = true) ∧
    (2 ^ 13 ≤ (s.me.gr 8).toNat ∧ s.bodyOk (s.me.gr 2).toNat ((s.me.gr 8).toNat % 2 ^ 12 + 1) = true) ∧
    ((s.me.gr 4).toNat / 2 ^ 12 = 1 ∧ DescTraps s.me 48 8 (s.me.gr 20).toNat 4 (s.me.gr 20).toNat 48) ∧
    (descAt (s.me.gr 5) 48 8 ∧ bad 0x2000 5 ∧ ∀ e < 5, ¬bad 0x2000 e) ∧
    (twice.bodyOk (twice.me.gr 2).toNat 1 = true ∧ (twice.me.gr 3).toNat < 2 ^ 12 ∧
      viewFault twice.me.views twice.me.jetOrder.toNat = some (6 : Fin 8).val) := by
  refine ⟨by decide +kernel, by decide +kernel, ⟨by decide +kernel, .range _ (by decide +kernel)⟩, ⟨by unfold descAt; decide +kernel,
    by decide +kernel, by decide +kernel⟩, by decide +kernel⟩

theorem witness_ViewsAndJetOrder :
    let s := card (runs [(2, 7), (3, 8), (4, 0x8000)])
    (s.me.gr 2).toNat / 2 ^ 15 % 2 ^ 23 = 0 ∧ (s.me.gr 2).toNat ≤ 7 ∧ s.me.run = .running ∧
      (s.me.gr 4).toNat / 2 ^ 15 % 2 ^ 23 ≠ 0 ∧ 7 < (s.me.gr 3).toNat := by decide

theorem witness_QueueControlWords :
    let w := Tests.word 0 0
    let c : Core := { runs [(2, w.w0), (3, w.w1), (4, 0), (5, devEnd), (6, 2 ^ 52), (7, shadowEnd), (8, 2 ^ 63)] with
      qcw := (Vector.replicate 8 ⟨0, 0⟩).set 7 w }
    let s := card { c with wait := .quiet 7 2 3 }
    let busy := card { c with cmdq := [.mode 0 false 0 0 0] }
    (s.me.quiet 7 = true ∧ s.me.qcwFault 7 ⟨s.me.gr 2, s.me.gr 3⟩ = none) ∧ busy.me.quiet 7 = false ∧
    (s.me.run = .running ∧ s.me.qcwFault 7 ⟨s.me.gr 8, s.me.gr 8⟩ = some ⟨9, 0, 7, 0⟩) ∧
    ((s.core 0).wait = .quiet 7 2 3 ∧ (s.core 0).run = .running ∧ (s.core 0).missCp = false ∧ (s.core 0).quiet 7 = true ∧
      (s.core 0).qcwFault 7 ⟨(s.core 0).gr 2, (s.core 0).gr 3⟩ = none) ∧
    ((s.me.q 7).en = true ∧ (s.me.q 7).use = 0 ∧ remapOk (s.me.gr 4) = true ∧ endOk (s.me.gr 5) [0, 2] = true) ∧
    (s.me.q 0).en = false ∧ remapOk (s.me.gr 6) = false ∧ endOk (s.me.gr 7) [0, 2] = false := by decide +kernel

/-- A sync word in the last 16 bytes of plain scratch, armed for 1,540 bytes at generation 65,535 with 1,539 counted. -/
theorem witness_SyncWords :
    let m := memWrite [] 0x3FFF0 (toBytes 8 (2 ^ 63 + 65535 * 2 ^ 40 + 1540) ++ toBytes 8 1539)
    let c : Core := { runs [(2, 0x3FFF0), (3, 65534), (4, 65535), (5, 2 ^ 40 - 1)] with scratch := m, wait := .sync 2 3 }
    let s := card c
    let bad := card { runs [(2, 0x40000), (3, 0xFFFF8), (4, 24), (5, 32), (6, 2 ^ 40), (7, 0x3FFF0)] with scratch := [(39, 0x40), (0x3FFFF, 0x80)] }
    ((s.me.gr 2).toNat = 0x3FFF0 ∧ 0x3FFF0 % 16 = 0 ∧ 0x3FFF0 + 16 ≤ 0x40000 ∧ SyncWord s.me 0x3FFF0 true 65535 1540 1539) ∧
    ((s.me.gr 5).toNat < 2 ^ 40 ∧ (s.me.gr 5).toNat ≠ 0 ∧ (1540 : Nat) ≠ 0) ∧ (s.me.gr 0).toNat = 0 ∧
    (1 ≤ (65535 + 2 ^ 16 - (s.me.gr 3).toNat % 2 ^ 16) % 2 ^ 16 ∧ (65535 + 2 ^ 16 - (s.me.gr 3).toNat % 2 ^ 16) % 2 ^ 16 ≤ 32767) ∧
    (65535 + 2 ^ 16 - (s.me.gr 4).toNat % 2 ^ 16) % 2 ^ 16 = 0 ∧
    ((0 : CoreId) = s.cur ∧ s.me.wait = .sync 2 3 ∧ s.me.run = .running ∧ s.me.missCp = false) ∧
    (bad.me.run = .running ∧ (bad.me.gr 0).toNat < 2 ^ 40 ∧ 2 ^ 20 < (bad.me.gr 3).toNat + 16 ∧
      ((bad.me.gr 4).toNat + 16 ≤ 2 ^ 20 ∧ (bad.me.gr 4).toNat % 16 ≠ 0) ∧
      ((bad.me.gr 2).toNat + 16 ≤ 2 ^ 20 ∧ (bad.me.gr 2).toNat % 16 = 0 ∧ 0x40000 < (bad.me.gr 2).toNat + 16) ∧
      ((bad.me.gr 5).toNat % 16 = 0 ∧ memNat bad.me.scratch (bad.me.gr 5).toNat 8 / 2 ^ 56 % 2 ^ 7 ≠ 0) ∧
      ((bad.me.gr 7).toNat % 16 = 0 ∧ memNat bad.me.scratch ((bad.me.gr 7).toNat + 8) 8 / 2 ^ 40 ≠ 0) ∧ 2 ^ 40 ≤ (bad.me.gr 6).toNat) := by
  refine ⟨⟨by decide, by decide, by decide, ⟨by decide +kernel, by decide +kernel, by decide, by decide, by decide⟩⟩, ?_⟩
  decide +kernel

/-! ## Barriers, ropes, trees, tasks, the copy engine's events -/

theorem witness_BarrierCommands :
    let c := runs [(2, 3)]
    let bar := fun (x : Barrier) (w : CpWait) => card { c with bars := [(63, x)], wait := w }
    let one : Barrier := ⟨true, 3, 0, 5, false, 5, true, 0⟩
    let last : Barrier := ⟨true, 3, 1, 5, false, 4, true, 2⟩
    (((card c).me.gr 2).getLsbD ((card c).cur.toNat % 64) = true ∧ ((card c).me.bar 63).arrived = false ∧ (card c).me.held = []) ∧
    (((bar one .no).me.bar 63).init = true ∧ ((bar one .no).me.bar 63).arrived = false ∧ one.count + 1 < members one.mask) ∧
    members last.mask ≤ last.count + 1 ∧
    (last.init = true ∧ last.since = true ∧ last.gen ≠ last.genAt) ∧ one.gen = one.genAt ∧
    (((bar last (.bar 63)).core 0).wait = .bar 63 ∧ ((bar last (.bar 63)).core 0).run = .running ∧
      ((bar last (.bar 63)).core 0).missCp = false ∧ (((bar last (.bar 63)).core 0).bar 63).gen ≠ 4) ∧
    (let a : Arrival := ⟨63, 3, 0, 1, 0⟩
     let s := fun (x : Core) (ctx : CtxId) => ({ card x with sched := { Sched.reset with arrivals := [{ a with ctx := ctx }] } } : State)
     (s (bar one .no).me 0).sched.arrivals[0]? = some a ∧ (bar one .no).me.run ≠ .idle ∧ (bar one .no).me.task.ctx = a.ctx ∧
       one.mask = a.mask ∧ one.who.getLsbD (a.src.toNat % 64) = false ∧
       ({ last with who := 1 } : Barrier).who.getLsbD (a.src.toNat % 64) = false ∧
       ((s Core.reset 0).core 0).run = .idle ∧ ((s c 0).core 0).bar 63 = Barrier.reset ∧ Barrier.reset.init = false ∧
       ((s c 1).core 0).task.ctx ≠ 1 ∧ ({ one with mask := 7 } : Barrier).mask ≠ a.mask) := by decide +kernel

/-- An arrival that a barrier not yet initialised has held, and one at a core without a task, whose last one was of its context. -/
theorem witness_BarrierCommands_held :
    let a : Arrival := ⟨63, 3, 0, 1, 0⟩
    let s := card { runs [(2, 3)] with held := [a] }
    let one : Barrier := ⟨true, 3, 0, 5, false, 5, true, 0⟩
    let u : State := { card { Core.reset with prevCtx := some 0, bars := [(63, one)] } with sched := { Sched.reset with arrivals := [a] } }
    ((s.me.gr 2).getLsbD (s.cur.toNat % 64) = true ∧ (s.me.bar 63).arrived = false ∧
      (∀ h ∈ s.me.held.filter (fun h => h.bar == 63 && h.ctx == s.me.task.ctx), h.mask = s.me.gr 2) ∧
      (s.me.held.map fun (h : Arrival) => h.src.toNat % 64).Nodup ∧ s.me.held.length < members (s.me.gr 2)) ∧
    (u.sched.arrivals[0]? = some a ∧ (u.core 0).run = .idle ∧ (u.core 0).prevCtx = some a.ctx ∧ one.mask = a.mask ∧
      one.who.getLsbD (a.src.toNat % 64) = false ∧ ((u.core 0).bar 62).init = false) := by decide +kernel

theorem witness_BarrierAndRopeTraps :
    let s := { cards [(0, { runs [] with rope := some ⟨3, false⟩ }), (1, { runs [(2, 1)] with rope := some ⟨3, false⟩, bars := [(0, ⟨true, 3, 1, 0, true, 0, true, 2⟩)] })] with cur := 1 }
    let alone := { cards [(1, runs [(2, 1), (3, 7)])] with cur := 1 }
    let fresh := card { runs [] with bars := [(0, ⟨true, 3, 0, 0, false, 0, false, 0⟩)] }
    s.me.run = .running ∧ (s.me.gr 2).getLsbD (s.cur.toNat % 64) = false ∧
    (alone.me.run = .running ∧ (alone.me.gr 2).getLsbD (alone.cur.toNat % 64) = false ∧ alone.me.rope = none ∧
      (alone.me.gr 3).getLsbD (alone.cur.toNat % 64) = true ∧ ropeShape (alone.me.gr 3) = false) ∧
    ((fresh.me.bar 0).init = true ∧ (fresh.me.bar 0).since = false) ∧
    ((s.me.gr 2).getLsbD (s.cur.toNat % 64) = false ∧ (({ s with cur := 0 } : State).me.gr 0).getLsbD 0 = false) ∧
    (s.me.bar 63).init = false ∧ ((s.me.bar 0).init = true ∧ (s.me.bar 0).arrived = true) ∧
    (s.me.rope.isSome = true ∧ s.leader s.cur ≠ s.cur) := by decide +kernel

theorem witness_RopesFormAndEnd :
    let m : Word64 := 3
    let two := fun (w : CpWait) (r : Option Rope) => cards [(0, { runs [(2, 3)] with wait := w, rope := r }), (1, { runs [] with wait := w, rope := r })]
    let ready := fun (s : State) (w : CpWait) => (s.core 0).wait = w ∧ (s.core 0).run = .running ∧ (s.core 0).missCp = false
    (let s := two .no none
     s.me.rope = none ∧ (s.me.gr 2).getLsbD (s.cur.toNat % 64) = true ∧ ropeShape (s.me.gr 2) = true) ∧
    (let s := two (.rope m) none
     (s.core 0).wait = .rope m ∧ ∀ j ∈ maskCores (dieOf 0) m, (s.core j).run = .running ∧ (s.core j).missCp = false ∧
       (s.core j).wait = .rope m ∧ (s.core j).task.ctx = (s.core 0).task.ctx ∧ (s.core j).cmdq = []) ∧
    (let s := two .no (some ⟨3, false⟩)
     s.me.rope = some ⟨3, false⟩ ∧ s.leader s.cur = s.cur) ∧
    (let s := two .unrope (some ⟨3, false⟩)
     (s.core 0).rope = some ⟨3, false⟩ ∧ ready s .unrope ∧ (s.core 0).cmdq = [] ∧ (0 : CoreId) ∈ maskCores (dieOf 0) 3 ∧
       ∃ j ∈ maskCores (dieOf 0) 3, j ≠ 0 ∧ (s.core j).rope.map (fun q => q.mask) = some 3) ∧
    (let s := card { runs [] with wait := .unrope, rope := some ⟨3, false⟩, cmdq := [.mode 0 false 0 0 0] }
     (s.core 0).rope = some ⟨3, false⟩ ∧ (s.core 0).wait = .unrope ∧ (s.core 0).cmdq ≠ []) ∧
    (let s := two .rejoin (some ⟨3, true⟩)
     (s.core 0).rope = some ⟨3, true⟩ ∧ ready s .rejoin ∧ ∀ j ∈ maskCores (dieOf 0) 3, (s.core j).rope = some ⟨3, true⟩) := by
  decide +kernel

theorem witness_ReductionTrees :
    (let words : List Word64 := [3, 0, 0, 0, 0x701, 0, 0, 0]
     let tree := fun (op : BitVec 2) (d : List Word64) => (⟨0, 7, op, d, 1, treeNodes d 2, []⟩ : RTree)
     let s := fun (ts : List RTree) => { card { runs [(2, 0x3FE00), (3, 0x3FFC0)] with
       scratch := memWrite [] 0x3FFC0 (words.flatMap fun w => toBytes 8 w.toNat) } with sched := { Sched.reset with trees := ts } }
     let m := fun i => memNat (s []).me.scratch (((s []).me.gr 3).toNat + 8 * i) 8
     let id : BitVec 16 := BitVec.ofNat 16 (m 4 / 2 ^ 8)
     descAt ((s []).me.gr 3) 64 64 ∧ treeFault ((List.range 8).map m) (s []).cur = none ∧ descAt ((s []).me.gr 2) 512 256 ∧
       (s []).tree (s []).me.task.ctx id = none ∧
       (let t := tree 1 words
        (s [t]).tree (s [t]).me.task.ctx id = some t ∧ t.op.toNat = 1 ∧ t.desc = (List.range 8).map (fun j => BitVec.ofNat 64 (m j)) ∧
          ∀ x ∈ t.nodes, x.leaf = some (s [t]).cur → x.value = none)) ∧
    (let v : List Byte := List.replicate 256 0
     let leaf : CoreId → RNode := fun k => ⟨[], some k, false, some v, 0⟩
     let root : RNode := ⟨[0, 1], none, true, none, 0⟩
     let t0 : RTree := ⟨0, 7, 1, [3, 0, 0, 0], 1, [leaf 0, leaf 1, root], []⟩
     let t1 : RTree := { t0 with nodes := [leaf 0, leaf 1, { root with value := some v }] }
     let s := fun t => ({ card { runs [] with wait := .rtree 7 0x3FF00 256 } with sched := { Sched.reset with trees := [t] } } : State)
     (s t0).tree t0.ctx 7 = some t0 ∧ t0.nodes[2]? = some root ∧ root.value = none ∧ root.kids ≠ [] ∧
       root.kids.map (fun i => (t0.nodes[i]?).bind (·.value)) = [v, v].map some ∧ (∀ u ∈ [v, v], u.length = ([v, v].headD []).length) ∧
       (s t1).tree t1.ctx 7 = some t1 ∧ ((s t1).core 0).wait = .rtree 7 0x3FF00 256 ∧ ((s t1).core 0).task.ctx = t1.ctx ∧
       ((s t1).core 0).run = .running ∧ ((s t1).core 0).missCp = false ∧ t1.nodes.getLast?.bind (·.value) = some v ∧ v.length = 256) ∧
    (let kids := [[List.replicate 64 0x3F800000], [List.replicate 64 0x40000000]]
     63 < 64 ∧ 0 < (kids.headD []).length ∧ (∃ x ∈ kids.map fun x => (x.getD 0 []).getD 63 0, Fmt.fp32.isNan x = false)) := by
  unfold descAt; decide +kernel

/-- Contributions of the trees' commands whose operand or descriptor cannot be read, and descriptors that R172 refuses: no tree, a
reserved word, and a set of members without the core. -/
theorem witness_ReductionTrees_traps :
    let put := fun (m : Mem) (a : Nat) (ws : List Nat) => memWrite m a (ws.flatMap (toBytes 8))
    let s := card { strays [(2, 0x3FE00), (3, 0x1000), (4, 0x1040), (5, 0x1080)] with
      scratch := put (put (put [] 0x1000 [3, 0, 0, 0, 0, 0, 0, 0]) 0x1040 [3, 0, 0, 0, 0x701, 0, 0, 1]) 0x1080 [2, 2, 0, 0, 0x701, 0, 0, 0] }
    let m := fun (r : BitVec 5) i => memNat s.me.scratch ((s.me.gr r).toNat + 8 * i) 8
    let word4 := fun (r : BitVec 5) => m r 4 / 2 ^ 24 ≠ 0 ∨ m r 4 / 2 ^ 4 % 2 ^ 4 ≠ 0 ∨ m r 4 % 2 ^ 4 = 0
    s.me.run = .running ∧ descAt (s.me.gr 2) 512 256 ∧ descAt (s.me.gr 3) 64 64 ∧ descAt (s.me.gr 4) 64 64 ∧ descAt (s.me.gr 5) 64 64 ∧
    DescTraps s.me 256 256 (s.me.gr 20).toNat 4 (s.me.gr 20).toNat 256 ∧ DescTraps s.me 64 64 (s.me.gr 21).toNat 5 (s.me.gr 21).toNat 64 ∧
    DescTraps s.me 256 256 (s.me.gr 25).toNat 6 (31 : BitVec 5).toNat (s.me.bank 31).status ∧
    word4 3 ∧ (¬word4 4 ∧ m 4 7 ≠ 0 ∧ ∀ v, 5 ≤ v → v < 7 → m 4 v = 0) ∧
    (¬word4 5 ∧ m 5 5 = 0 ∧ m 5 6 = 0 ∧ m 5 7 = 0 ∧ m 5 (s.cur.toNat / 64) / 2 ^ (s.cur.toNat % 64) % 2 = 0) := by
  refine ⟨by decide +kernel, by unfold descAt; decide +kernel, by unfold descAt; decide +kernel, by unfold descAt; decide +kernel,
    by unfold descAt; decide +kernel, .range _ (by decide +kernel), .align _ (by decide +kernel) (by decide +kernel),
    .bank _ 31 ?_ ?_ ?_ ?_ ?_ ?_, by decide +kernel, ⟨by decide +kernel, by decide +kernel, ?_⟩, by decide +kernel⟩
  iterate 6 decide +kernel
  intro v h1 h2
  obtain rfl | rfl : v = 5 ∨ v = 6 := by omega
  all_goals decide +kernel

/-- A node of a tree: 1 and 2 sum to 3, 2 is their maximum, and the paired sum of 1 beside 1 and 1 beside 2 is exp(-1) + 1, which is
1.36787944 (R73). -/
theorem test_tree :
    let value := fun (op : Nat) (kids : List (List (List Nat))) => (treeCombine op kids).1.map (·.headD 0)
    value 0 [[[0x3F800000]], [[0x40000000]]] = [0x40400000] ∧ value 1 [[[0x3F800000]], [[0x40000000]]] = [0x40000000] ∧
    value 2 [[[0x3F800000], [0x3F800000]], [[0x40000000], [0x3F800000]]] = [0x40000000, 0x3FAF16AC] := by decide +kernel

/-- Whether a core's task has nothing left to do: what DONE waits for. -/
def nothingLeft (s : State) (k : CoreId) : Bool :=
  let c := s.core k
  c.cmdq == [] && c.loopRun == none && c.landing == [] && c.tags == [] && c.elems == [] && c.zeroing == none && c.aq == [] &&
    c.gatherFaults == [] && !s.ringBusy k

theorem witness_SpawnAndJoin :
    (let s := launched (runs [(2, 0x40000), (4, 31 * 2 ^ 59 + 2 ^ 58)])
     s.spawnAt s.cur (s.me.gr 2).toNat = true ∧ (s.me.gr 4).toNat / 2 ^ 48 % 2 ^ 10 = 0) ∧
    (let q : SpawnReq := ⟨9, ⟨31, true, false, 0x40000, 0, 0, 0, 0, 0, 0, 0, 0⟩⟩
     let l := { placedLaunch with lc := 0, gc := 1, pc := 2, jc := 3 }
     let s : State := { card { runs [] with wait := .spawn 9 } with sched := { Sched.reset with launches := [l], spawns := [q] } }
     (s.core 0).wait = .spawn q.id ∧ (s.core 0).run = .running ∧ (s.core 0).missCp = false ∧
       s.sched.spawns.find? (fun x => x.id == q.id) = some q ∧ s.launchOf 0 = some l ∧ l.isCancelled = false ∧ s.roomLeft ≠ 0 ∧
       l.cairns.Nodup ∧ q.r.j = true) ∧
    ((card (runs [])).joinSlot (card (runs [])).me.task.slot).count = 0 ∧
    (let s : State := { card { runs [] with wait := .join 2 } with sched := { Sched.reset with joins := [(0, ⟨1, 0⟩)] } }
     (s.joinSlot s.me.task.slot).count ≠ 0) ∧
    (let s := card { runs [] with wait := .join 2 }
     (s.core 0).wait = .join 2 ∧ (s.core 0).run = .running ∧ (s.core 0).missCp = false ∧
       (s.joinSlot (s.core 0).task.slot).count = 0) := by decide +kernel

/-- A SPAWN of no packet of its launch, and one whose spawn word has a reserved bit. -/
theorem witness_SpawnAndJoin_traps :
    let s := launched (runs [(2, 0x40004), (3, 0x40000), (4, 2 ^ 48)])
    s.me.run = .running ∧ s.spawnAt s.cur (s.me.gr 2).toNat = false ∧ s.spawnAt s.cur (s.me.gr 3).toNat = true ∧
      (s.me.gr 4).toNat / 2 ^ 48 % 2 ^ 10 ≠ 0 ∧ s.launchOf s.cur = some placedLaunch ∧ placedLaunch.zpf = none := by decide +kernel

theorem witness_TasksEnd :
    let l := { placedLaunch with lc := 0, gc := 1, pc := 2, jc := 3 }
    let s : State := { card { runs [(2, 3), (3, 4)] with wait := .done } with sched := { Sched.reset with launches := [l] } }
    let e : AqEntry := ⟨0, 0, 0, 0, 0, false⟩
    let b := card { runs [] with cmdq := [.mode 0 false 0 0 0], loopRun := some (body none), landing := [⟨0, .index 0 0, .no, 0, none, none⟩]
                                 tags := [(95, some (tagOf (.cpy 1) 0 0 .issued []))], elems := [⟨e, false, [], []⟩]
                                 zeroing := some ⟨0, false, 0, 9, 0⟩, aq := [e], gatherFaults := [(⟨24, 0, 0, 0⟩, 0, 0)] }
    let writing : State := { card (runs []) with sched := { Sched.reset with ringOut := [⟨0, List.replicate 128 0, 0, 0, none⟩] } }
    (s.me.rope = none ∧ nothingLeft s s.cur = true) ∧
    (s.launchOfTask s.me.task = some l ∧ l.isCancelled = false ∧ l.cairns.Nodup) ∧
    (card (runs [])).launchOfTask (card (runs [])).me.task = none ∧
    (b.me.rope = none ∧ b.me.cmdq ≠ [] ∧ b.me.loopRun ≠ none ∧ b.me.landing ≠ [] ∧ b.me.tag 95 ≠ none ∧ b.me.elems ≠ [] ∧
      b.me.zeroing ≠ none ∧ b.me.aq ≠ [] ∧ b.me.gatherFaults ≠ []) ∧ writing.ringBusy writing.cur = true ∧
    ((s.core 0).wait = .done ∧ (s.core 0).run = .running ∧ (s.core 0).missCp = false ∧ nothingLeft s 0 = true) ∧
    ((s.me.gr 2).toNat ≤ 3 ∧ s.launchOf s.cur = some l) ∧ 3 < (s.me.gr 3).toNat := by decide +kernel

/-- A graph that is open, of one launch that two cores run, one of them waiting for a tree. -/
theorem witness_TasksEnd_cancel :
    let l := { placedLaunch with lc := 9, gc := 10, pc := 11, jc := 12 }
    let opened := fun (lvl : BitVec 2) => (⟨false, lvl, 0, .opened, false, false, 1, 0, 0, false, false, true⟩ : Cairn)
    let s : State := { cards [(0, runs [(2, 1)]), (1, { runs [] with wait := .rtree 7 0 0 })] with
      sched := { Sched.reset with launches := [l], cairns := [(9, opened 0), (10, opened 1), (11, opened 2), (12, opened 3)] } }
    (s.me.gr 2).toNat ≤ 3 ∧ s.launchOf s.cur = some l ∧ s.me.run = .running ∧ (s.cairn 10).state = .opened ∧ s.live 9 = some l ∧
      l.ctx = (s.cairn 10).ctx ∧ l.cairnAt (s.cairn 10).level = 10 ∧ (10 : BitVec 12) ∉ l.past ∧ l.isCancelled = false ∧
      (s.cairn 9).state ≠ .complete ∧ l.started = true ∧ (s.core 1).task.launch = l.lid ∧ (s.core 1).task.ctx = l.ctx ∧
      (∀ x y z, (s.core 0).wait ≠ .rtree x y z) ∧ (s.core 1).wait = .rtree 7 0 0 := by
  have h0 : (cards [(0, runs [(2, 1)]), (1, { runs [] with wait := .rtree 7 0 0 })] |>.core 0).wait = .no := by decide +kernel
  refine ⟨by decide +kernel, by decide +kernel, by decide +kernel, by decide +kernel, by decide +kernel, by decide +kernel, by decide +kernel,
    by decide +kernel, by decide +kernel, by decide +kernel, by decide +kernel, by decide +kernel, by decide +kernel, ?_, by decide +kernel⟩
  intro x y z h
  exact nomatch h0.symm.trans h

/-- A copy of core 0 between extents of its plain scratch: one to start, one whose source leaves its row, one that moves, one that has
finished. -/
theorem witness_CopiesMove :
    let s := fun t => card { runs [] with tags := [(95, some t)] }
    let ok := fun (t : Tag) (a len : Nat) => ((s t).core 0).tag (95 : BitVec 7).toNat = some t ∧ t.what = .cpy len ∧ 0 < len ∧
      endOf 0 t.src = .scratch 0 a ∧ endOf 0 t.dest = .scratch 0 0x2000 ∧ a < 0x40000 ∧ 0x2000 + len ≤ 0x40000 ∧ quietTag t
    let ze : Word64 := ownEnd
    let t1 := tagOf (.cpy 64) ze 0x200000000003FFC0 .issued []
    let t2 := tagOf (.cpy 65) ze 0x200000000003FFC0 .issued []
    let t3 := tagOf (.cpy 64) ze 0x200000000003FFC0 .moving [(0, 64)]
    let t4 := tagOf (.cpy 64) ze 0x200000000003FFC0 .finished []
    (ok t1 0x3FFC0 64 ∧ t1.phase = .issued ∧ 0x3FFC0 + 64 ≤ 0x40000) ∧
    (ok t2 0x3FFC0 65 ∧ t2.phase = .issued ∧ 0x40000 < 0x3FFC0 + 65 ∧ ((s t2).core 0).run = .running) ∧
    (ok t3 0x3FFC0 64 ∧ t3.phase = .moving ∧ t3.todo = [(0, 64)] ∧ t3.moved = 0 ∧ unawaited (s t3) 0 0x2000 64) ∧
    (ok t4 0x3FFC0 64 ∧ t4.phase = .finished ∧ t4.nblk = 0) := by unfold quietTag unawaited; decide +kernel

theorem witness_CopiesMove_order : ∀ m u, (m, some u) ∈ [((95 : Nat), some (tagOf (.cpy 64) ownEnd ownEnd .issued []))] →
      (tagOf (.cpy 64) ownEnd ownEnd .issued []).order ≤ u.order :=
  fun m u h => by simp only [List.mem_singleton, Prod.mk.injEq, Option.some.injEq] at h; rw [h.2]

/-- The same with a completion target: a sync word of the core, armed for 64 bytes. -/
theorem witness_CopiesMove_target :
    let t := { tagOf (.cpy 64) ownEnd 0x200000000003FFC0 .moving [(0, 64)] with t := true, target := 0x1FF0 }
    let s := card { runs [] with tags := [(95, some t)], scratch := memWrite [] 0x1FF0 (toBytes 8 (2 ^ 63 + 2 ^ 40 + 64)) }
    movesAll s 0 95 t 64 ∧ t.got = [] ∧ endOf 0 t.src = .scratch 0 0x3FFC0 ∧ endOf 0 t.dest = .scratch 0 0x2000 ∧
      unawaited s 0 0x2000 64 ∧ t.t = true ∧ t.target.toNat + 16 ≤ 0x2000 ∧ SyncWord (s.core 0) 0x1FF0 true 1 64 0 := by
  exact ⟨by unfold movesAll; decide +kernel, by decide, by decide, by decide, by unfold unawaited; decide +kernel, by decide, by decide,
    by decide +kernel, by decide +kernel, by decide, by decide, by decide⟩

/-- A page of the translations a command holds: its last byte is the last of device address 0x1FFF. -/
def pageOf (leaf : Leaf) : Trans := ⟨0, 1, 1, leaf, true, true, 31, true, true⟩

/-- A peer port with its link up and context 0 bound to context 4 of the far card. -/
def bound : Peer := { Peer.reset with up := true, expect := 9, bind := [(0, 2 ^ 63 + 4)], reqCredits := 64, rspCredits := 64 }

/-- A copy of the last 64 bytes of a page of device memory, of host memory and of a peer's, to and from scratch. -/
theorem witness_CopiesMove_pages :
    let dev : Word64 := 0x1FC0
    let from' := fun (x : Trans) (got : List (Nat × List Byte)) =>
      { tagOf (.cpy 64) ownEnd dev .moving [(0, 64)] with trans := [x], got := got }
    let into := fun (x : Trans) => { tagOf (.cpy 64) dev ownEnd .moving [(0, 64)] with trans := [x] }
    let s := fun t => { card { runs [] with tags := [(95, some t)] } with ports := { Ports.reset with peers := Ports.reset.peers.set 1 bound } }
    let data : List Byte := List.replicate 64 7
    let ok := fun (t : Tag) (x : Trans) => movesAll (s t) 0 95 t 64 ∧ t.t = false ∧ holdsPage (s t) 0 t 0x1FC0 64 x ∧
      unawaited (s t) 0 0x2000 64 ∧ unwatched (s t) 0 ∧ (s t).poisoned (5 * 4096 + 0x1FC0 % 4096) 64 = false ∧
      ((s t).peer true).failed = false ∧ ((s t).peer true).far 0 = some 4 ∧ ((s t).peer true).room 1 = true
    endOf 0 ownEnd = .scratch 0 0x2000 ∧ endOf 0 dev = .dev 0x1FC0 ∧ 0x2000 + 64 ≤ 0x40000 ∧
    (0 : Word64).getLsbD (2 * (31 : BitVec 5).toNat + 1) = false ∧ data.length = 64 ∧
    ok (from' (pageOf (.device 5)) []) (pageOf (.device 5)) ∧ ok (from' (pageOf (.host (some 0x5000))) []) (pageOf (.host (some 0x5000))) ∧
    ok (from' (pageOf (.peer true)) []) (pageOf (.peer true)) ∧ ok (from' (pageOf (.host none)) [(0, data)]) (pageOf (.host none)) ∧
    ok (into (pageOf (.device 5))) (pageOf (.device 5)) ∧ ok (into (pageOf (.host none))) (pageOf (.host none)) ∧
    ok (into (pageOf (.peer true))) (pageOf (.peer true)) := by
  refine ⟨by decide, by decide, by decide, by decide, by decide, ?_, ?_, ?_, ?_, ?_, ?_, ?_⟩ <;>
    (unfold movesAll holdsPage unawaited unwatched; decide +kernel)

theorem witness_CopiesMove_quiet : quietTag (tagOf (.cpy 64) ownEnd ownEnd .finished []) := ⟨rfl, rfl, rfl, rfl, rfl⟩

/-- Atoms on the last unit of a row, its own and another core's, and on device memory: a CAS that agrees and one that does not, a
cell addend of each class, and a cell read. -/
theorem witness_AtomsPerform :
    let atom := fun aop sz v cmp res => CopyOp.atom aop sz 4 2 v cmp res
    let own := fun op => tagOf op 0x400000000003FFF0 0 .moving []
    let far := fun op => tagOf op 0x400000000013FFF0 0 .moving []
    let dev := fun op => { tagOf op 0x1FF0 0 .moving [] with trans := [pageOf (.device 5)] }
    let s := fun t => cards [(0, { runs [] with tags := [(0, some t)] }), (1, runs [])]
    let ok := fun (t : Tag) => ((s t).core 0).tag (0 : BitVec 7).toNat = some t ∧ t.phase = .moving ∧ quietTag t
    (∀ op ∈ [atom 9 8 7 0 none, atom 9 4 7 1 (some 0x100), atom 10 16 0x3F800000 0 none, atom 10 16 0x7FC00000 0 none,
        atom 11 16 0 0 (some 0x100), atom 11 16 1 0 (some 0x100)], ok (own op) ∧ ok (far op) ∧ ok (dev op)) ∧
    endOf 0 (own (.cpy 1)).dest = .scratch 0 0x3FFF0 ∧ endOf 0 (far (.cpy 1)).dest = .scratch 1 0x3FFF0 ∧
    endOf 0 (dev (.cpy 1)).dest = .dev 0x1FF0 ∧ 0x3FFF0 + 16 ≤ 0x40000 ∧ 0x100 + 16 ≤ 0x3FFF0 ∧
    (let u := s (dev (atom 0 8 1 0 none))
     (u.core 1).run = .running ∧ (u.core 1).task.ctx = (u.core 0).task.ctx ∧
       holdsPage u 0 (dev (atom 0 8 1 0 none)) 0x1FF0 16 (pageOf (.device 5)) ∧ unwatched u 0 ∧ u.poisoned (5 * 4096 + 0xFF0) 16 = false) := by
  unfold quietTag holdsPage unwatched; decide +kernel

/-- A lane table of one state of one-bit codes: 0 stands for the byte 0x41, 1 for 0x42. -/
def bitTable : List Byte := toBytes 8 (2 ^ 33 + 1) ++ toBytes 4 (2 ^ 28) ++ toBytes 4 0 ++ toBytes 8 (2 ^ 48 + 2 ^ 46 + 0x41 * 2 ^ 16) ++
  toBytes 8 (2 ^ 48 + 2 ^ 46 + 0x42 * 2 ^ 16)

/-- A block of R158: its header and its payload. -/
def block (method outLen crc : Nat) (payload : List Byte) : List Byte :=
  toBytes 4 payload.length ++ toBytes 4 outLen ++ toBytes 4 crc ++ toBytes 4 method ++ payload

/-- R159: the bits 1, 0, 1 stand for 0x42, 0x41, 0x42. -/
theorem witness_LanesServe_decodes : BlockOut bitTable 1 3 [5] [0x42, 0x41, 0x42] ∧ BlockOut [] 0 3 [1, 2, 3] [1, 2, 3] := by
  refine ⟨.inr ⟨rfl, ?_⟩, .inl ⟨rfl, rfl, rfl⟩⟩
  refine .step 0 0 0 1 0 1 (2 ^ 48 + 2 ^ 46 + 0x42 * 2 ^ 16) [] _ (by decide) (by decide) (by decide) (by decide) (by decide) (by decide) (by decide) ?_
  refine .step 1 0 1 1 0 1 (2 ^ 48 + 2 ^ 46 + 0x41 * 2 ^ 16) _ _ (by decide) (by decide) (by decide) (by decide) (by decide) (by decide) (by decide) ?_
  refine .step 2 0 2 1 0 1 (2 ^ 48 + 2 ^ 46 + 0x42 * 2 ^ 16) _ _ (by decide) (by decide) (by decide) (by decide) (by decide) (by decide) (by decide) ?_
  exact .all _ _ _ _ (by decide)

/-- Lane 191 with a transform whose table is there, with one whose table is not, with one past its end, with one at a block, and with
a table to load, good and bad. -/
theorem witness_LanesServe :
    let x : LaneTable := ⟨bitTable, 0, 5⟩
    let t := fun tag => tagOf (.cpyx 19 1 tag 191 3) ownEnd 0x2000000000003000 .inLane []
    let s := fun (t : Tag) (table : Option LaneTable) (served : Bool) (m : Mem) =>
      ({ card { runs [] with tags := [(0, some t)], scratch := m } with lanes := [(191, ⟨table, [(0, 0)], served⟩)] } : State)
    let head := fun (t : Tag) (s : State) => (tabGet Lane.reset s.lanes (191 : BitVec 8).toNat).order = (0, 0) :: [] ∧
      (s.core 0).tag (0 : BitVec 7).toNat = some t ∧ s.wf = true
    let quiet := fun (t : Tag) => t.sent = [] ∧ t.owed = 0 ∧ t.t = false ∧ t.got = [] ∧ t.held = []
    (head (t 5) (s (t 5) (some x) false []) ∧ x.ctx = ((s (t 5) (some x) false []).core 0).task.ctx ∧ x.tag = 5) ∧
    (head (t 6) (s (t 6) (some x) false []) ∧ x.tag ≠ 6 ∧ ((s (t 6) (some x) false []).core 0).run = .running) ∧
    (let e := { t 5 with blkSrc := 32 }
     head e (s e (some x) true []) ∧ e.todo = [] ∧ quiet e ∧ 19 ≤ e.blkSrc) ∧
    (let m := memWrite [] 0x3FFE0 bitTable
     let l := tagOf (.laneLoad 191 5 32) 0 0x200000000003FFE0 .inLane []
     head l (s l none false m) ∧ endOf 0 l.src = .scratch 0 0x3FFE0 ∧ 0x3FFE0 + 32 ≤ 0x40000 ∧ quiet l ∧
       tableOk (memRead m 0x3FFE0 32) = true ∧ head l (s l none false []) ∧ tableOk (memRead [] 0x3FFE0 32) = false ∧ l.moved = 0) := by
  decide +kernel

/-- The blocks of a transform from 0x3000 to 0x2000: a payload as it is, whose checksum agrees (R158: CRC-32C of "123" is 107B2FB2), one
whose checksum is wrong, one whose ratio is, and a method that is none. -/
theorem witness_LanesServe_blocks :
    let t := tagOf (.cpyx 19 1 5 191 4) ownEnd 0x2000000000003000 .inLane []
    let c := fun (b : List Byte) => ({ runs [] with tags := [(0, some t)], scratch := memWrite [] 0x3000 b } : Core)
    let f := fun (b : List Byte) => (memNat (c b).scratch 0x3000 4, memNat (c b).scratch 0x3004 4, memNat (c b).scratch 0x3008 4,
      memNat (c b).scratch 0x300C 1, memNat (c b).scratch 0x300D 3, memRead (c b).scratch 0x3010 3)
    endOf 0 t.src = .scratch 0 0x3000 ∧ endOf 0 t.dest = .scratch 0 0x2000 ∧ 0x3000 + 19 ≤ 0x40000 ∧ t.blkSrc = 0 ∧ t.nblk = 0 ∧
    unawaited (card (c [])) 0 0x2000 3 ∧ t.status = 0 ∧
    (f (block 0 3 0x107B2FB2 [0x31, 0x32, 0x33]) = (3, 3, 0x107B2FB2, 0, 0, [0x31, 0x32, 0x33]) ∧
      crc32c [0x31, 0x32, 0x33] = 0x107B2FB2 ∧ 3 ≤ 1 * 3 ∧ 0 + 3 ≤ 4) ∧
    f (block 0 3 7 [0x31, 0x32, 0x33]) = (3, 3, 7, 0, 0, [0x31, 0x32, 0x33]) ∧
    (f (block 1 4 7 [0x31, 0x32, 0x33]) = (3, 4, 7, 1, 0, [0x31, 0x32, 0x33]) ∧ 1 * 3 < 4) ∧
    f (block 2 3 7 [0x31, 0x32, 0x33]) = (3, 3, 7, 2, 0, [0x31, 0x32, 0x33]) := by
  refine ⟨?_, ?_, ?_, ?_, ?_, ?_, ?_, ?_, ?_, ?_, ?_⟩ <;> first | decide +kernel | (unfold unawaited; decide +kernel)

/-- A checksum that is wrong: every output of a raw block is its payload. -/
theorem witness_LanesServe_checksum : crc32c [0x31, 0x32, 0x33] ≠ 7 ∧ ∀ out, BlockOut [] 0 3 [0x31, 0x32, 0x33] out → crc32c out ≠ 7 := by
  have hc : crc32c [0x31, 0x32, 0x33] ≠ 7 := by decide +kernel
  refine ⟨hc, ?_⟩
  rintro out (⟨-, -, rfl⟩ | ⟨h, -⟩)
  · exact hc
  · exact absurd h (by decide)

theorem witness_GathersAndScatters :
    let e : AqEntry := ⟨4, 7, 0, 0, 9, false⟩
    let acq := tagOf (.atom 8 8 4 1 0 0 none) 0x4000000000003FF0 0 .moving []
    let s := fun (w : Qcw) (word : Word64) => card { runs [] with
      aq := [e], qcw := (Vector.replicate 8 ⟨0, 0⟩).set 7 w, remap := (Vector.replicate 8 none).set 7 (some ⟨word, ownEnd⟩)
      tags := [(3, some { acq with order := 9 })] }
    let ok := fun (s : State) (word : Word64) =>
      let c := s.core 0
      let w := c.q 7
      c.aq.find? (fun f => f.qw == 7) = some e ∧ c.remap.get (7 : Fin 8) = some ⟨word, ownEnd⟩ ∧ c.elems = [] ∧ c.run = .running ∧
      c.gatherFaults = [] ∧ endOf 0 ownEnd = .scratch 0 0x2000 ∧ word.toNat / 2 ^ 62 = 0 ∧
      0x2000 + e.index.toNat * w.esz + w.esz ≤ 0x40000 ∧ w.base + w.depth * w.esz ≤ 0x40000 ∧ w.tail < w.depth ∧
      w.head < w.depth ∧ w.occ ≤ w.depth
    (ok (s (Tests.word 0 3) 0) 0 ∧ (0 : Word64).getLsbD 61 = false ∧ ((s (Tests.word 0 3) 0).core 0 |>.q 7).occ < 4) ∧
    (ok (s (Tests.word 0 1) (2 ^ 61)) (2 ^ 61) ∧ (2 ^ 61 : Word64).getLsbD 61 = true ∧
      0 < ((s (Tests.word 0 1) (2 ^ 61)).core 0 |>.q 7).occ ∧ unawaited (s (Tests.word 0 1) (2 ^ 61)) 0 0x2020 8) ∧
    (((s (Tests.word 0 1) 0).core 0).tags = [(3, some { acq with order := 9 })] ∧ e.stamp ≤ ({ acq with order := 9 } : Tag).order) := by
  refine ⟨by decide +kernel, ⟨by decide +kernel, by decide +kernel, by decide +kernel, by unfold unawaited; decide +kernel⟩, by decide +kernel⟩

/-- A loop command to begin, a CIM.MODE to begin, one that a pass on the bank holds, one that an older copy into the bank holds, and one
that ends. -/
theorem witness_VectorCommandsBegin :
    let c := runs []
    let l : LoopCmd := ⟨0, 1, Vector.replicate 6 1, Vector.replicate 6 0, Vector.replicate 8 0, 0, 0, 0, 0, 0⟩
    let m := { c with cmdq := [.mode 31 true 16 0 7] }
    let pass : Landing := ⟨3, .sums 0 0 32 false [], .no, 0, none, some (30, 2)⟩
    let fill := { tagOf (.cimFill 96) 0x6000000001F00000 ownEnd .moving [] with order := 6 }
    let filled := { m with tags := [(95, some fill)] }
    (aloneRuns { c with cmdq := [.loop l] } ∧ c.loopRun = none ∧ c.zeroing = none ∧ c.landing = [] ∧ c.occ = ⟨0, 0, 0, 0, 0⟩) ∧
    (aloneRuns m ∧ m.landing = [] ∧ m.tags = [] ∧ (card m).cores = [(0, m)]) ∧
    (pass.pass = some (30, 2) ∧ 30 ≤ (31 : BitVec 5).toNat ∧ (31 : BitVec 5).toNat < 30 + 2) ∧
    (filled.tags = [(95, some fill)] ∧ fill.order < 7 ∧ filled.destBank 0 fill = some (0, 31) ∧ fill.phase ≠ .finished) ∧
    (aloneRuns { c with zeroing := some ⟨31, true, 16, 0, 7⟩ } ∧ Memory.wf c.scratch = true) := by unfold aloneRuns; decide +kernel

/-! ## The vector stream -/

/-- A view register: kind, fmt, first name, names, W / 8, base (R30). -/
def view (kind fmt first count wq base : Nat) : Word64 :=
  BitVec.ofNat 64 (kind * 2 ^ 61 + fmt * 2 ^ 58 + first * 2 ^ 51 + count * 2 ^ 43 + wq * 2 ^ 38 + base)

/-- A core with v0-v15 in cluster 0, v32-v47 in cluster 1, packed INT8 names v64-v67, accumulators a0-a3 of W = 32, and BF16
names v80-v81 in cluster 0. -/
def lanes : Core := { runs [] with views := #v[view 1 0 0 16 0 0, view 1 0 32 16 0 0x4000, view 2 0 64 4 0 0x5000, view 3 0 0 4 4 0x6000,
  view 2 2 80 2 0 0x2000, 0, 0, 0] }

theorem witness_LaneWords :
    let s := card lanes
    let op := fun (n : Nat) => (⟨256 * n, 256, 1, .vec⟩ : Opnd)
    LaneOperands s ⟨.add, false, 0, 1, some 15⟩ (op 0) (op 1) (op 15) ∧
    LaneOperands s ⟨.jset 0, false, 2, 3, none⟩ (op 2) (op 3) (op 3) ∧
    (s.me.run = .running ∧ (codeName s.me.snapViews s.me.snapOrder 32).map (clusterOk false) = some false) ∧
    ((16 : BitVec 8).toNat ≠ 144 ∧ codeName s.me.snapViews s.me.snapOrder 16 = none ∧
      ∀ o, s.me.source 1 = some o ∨ s.me.source 2 = some o → clusterOk false o = true) ∧
    (codeName s.me.snapViews s.me.snapOrder 0 = some (op 0) ∧ (op 0).cls = .vec ∧ (144 : BitVec 8).toNat = 144 ∧
      s.me.latOpnd = none ∧ clusterOk false (op 0) = true) := by
  refine ⟨⟨by decide +kernel, by decide +kernel, by decide +kernel, by decide +kernel, by decide +kernel, by decide +kernel⟩,
    ⟨by decide +kernel, by decide +kernel, by decide +kernel, by decide +kernel, by decide +kernel, by decide +kernel⟩,
    by decide +kernel, ⟨by decide, by decide +kernel, fun o h => ?_⟩, by decide +kernel⟩
  have h1 : (card lanes).me.source 1 = some ⟨256, 256, 1, .vec⟩ := by decide +kernel
  have h2 : (card lanes).me.source 2 = some ⟨512, 256, 1, .vec⟩ := by decide +kernel
  rw [h1, h2] at h
  rcases h with h | h <;> injection h with h <;> subst h <;> decide

/-- The operand hypotheses of the lane statements, by operation: whatever the operands are, of two vector names and a packed one; and for
the conversions between each pair of classes, in cluster 0 or 1. -/
theorem witness_LaneValues :
    let s := card lanes
    let op := fun (n : Nat) => (⟨256 * n, 256, 1, .vec⟩ : Opnd)
    let half : Opnd := ⟨0x2000, 256, 1, .bf16⟩
    let code : Opnd := ⟨0x5000, 256, 1, .int8⟩
    let far : Opnd := ⟨0x4100, 256, 1, .vec⟩
    let two := fun (k : AbOp) => LaneOperands s ⟨k, false, 0, 1, some 2⟩ (op 0) (op 1) (op 2)
    let one := fun (k : AbOp) => LaneOperands s ⟨k, false, 0, 1, none⟩ (op 0) (op 1) (op 1)
    two .iadd ∧ two .sar ∧ two .icmplt ∧ two .csgn ∧ two .sel ∧ two .perm ∧ two .and ∧ one .mov ∧ one .neg ∧ one (.bcast 63) ∧
    one .risum ∧ one .jseed ∧ (op 1).cls.fmt = some .fp32 ∧ one (.jext false 0) ∧ one (.jset 0) ∧
    LaneOperands s ⟨.cvtFf true, false, 80, 1, none⟩ half (op 1) (op 1) ∧ LaneOperands s ⟨.cvtFf false, false, 81, 80, none⟩
      ⟨0x2100, 256, 1, .bf16⟩ half half ∧ one (.cvtFi true 31) ∧ LaneOperands s ⟨.cvtFi false 3, true, 64, 33, none⟩ code far far ∧
    LaneOperands s ⟨.cvtIf, false, 80, 1, none⟩ half (op 1) (op 1) ∧ LaneOperands s ⟨.cvtCi 3, true, 33, 64, none⟩ far code code ∧
    half.cls.fmt = some .bf16 ∧ Kind.ofCode (3 : BitVec 5).toNat = some (.sint 4) := by
  refine ⟨?_, ?_, ?_, ?_, ?_, ?_, ?_, ?_, ?_, ?_, ?_, ?_, by decide, ?_, ?_, ?_, ?_, ?_, ?_, ?_, ?_, by decide, by decide⟩ <;>
    exact ⟨by decide +kernel, by decide +kernel, by decide +kernel, by decide +kernel, by decide +kernel, by decide +kernel⟩

/-- At order 0, of vector and packed names; at order 2, where a name holds three planes; and lanes of which lane 3 is the greatest. -/
theorem witness_FloatLanes :
    let s := card lanes
    let jet := card { lanes with jetOrder := 2 }
    let op := fun (n : Nat) => (⟨256 * n, 256, 1, .vec⟩ : Opnd)
    let half := fun (n : Nat) => (⟨0x2000 + 256 * n, 256, 1, .bf16⟩ : Opnd)
    let high := fun (n : Nat) => (⟨768 * n, 256, 3, .vec⟩ : Opnd)
    let two := fun (k : AbOp) => LaneOperands s ⟨k, false, 0, 1, some 2⟩ (op 0) (op 1) (op 2)
    let one := fun (k : AbOp) => LaneOperands s ⟨k, false, 80, 81, none⟩ (half 0) (half 1) (half 1)
    let two' := fun (k : AbOp) => LaneOperands jet ⟨k, false, 0, 1, some 2⟩ (high 0) (high 1) (high 2)
    let one' := fun (k : AbOp) => LaneOperands jet ⟨k, false, 0, 1, none⟩ (high 0) (high 1) (high 1)
    let x := fun (j : Nat) => ((card { lanes with regs := memWrite [] 268 (toBytes 4 0x3F800000) }).me.readPlanes (op 1) |>.headD []).getD j 0
    s.me.snapOrder = 0 ∧ jet.me.snapOrder = 2 ∧ (op 1).cls.fmt = some .fp32 ∧ (half 1).cls.fmt = some .bf16 ∧
    (∀ m ∈ [3], m < 64 ∧ Fmt.fp32.isNan (x m) = false ∧
      ∀ j < 64, Fmt.fp32.isNan (x j) = false ∧ ¬fpKey .fp32 true (x m) < fpKey .fp32 true (x j) ∧
        (j < m → fpKey .fp32 true (x j) < fpKey .fp32 true (x m))) ∧
    two .add ∧ two .fma ∧ two .cmple ∧ two .div ∧ two .min ∧ one .sqrt ∧ one .sin ∧ one .rsum ∧ one (.jext true 0) ∧ one .rmax ∧
    two' .mul ∧ two' .fnma ∧ two' .div ∧ two' .max ∧ two' .cmplt ∧ one' .exp ∧ one' .tanh ∧ one' .cos ∧ one' .rmin ∧ one' (.jext true 2) := by
  refine ⟨by decide +kernel, by decide +kernel, by decide, by decide, by decide +kernel, ?_, ?_, ?_, ?_, ?_, ?_, ?_, ?_, ?_, ?_, ?_, ?_, ?_, ?_, ?_,
    ?_, ?_, ?_, ?_, ?_⟩ <;>
    exact ⟨by decide +kernel, by decide +kernel, by decide +kernel, by decide +kernel, by decide +kernel, by decide +kernel⟩

theorem witness_RoundingKeepsExactValues : 0x7F7FFFFF < 2 ^ Fmt.fp32.width ∧ (Fmt.fp32.decode 0x7F7FFFFF).isNan = false ∧
    0x0080 < 2 ^ Fmt.bf16.width ∧ (Fmt.bf16.decode 0x0080).isNan = false ∧ 0x0080 / 2 ^ Fmt.bf16.frac % 2 ^ Fmt.bf16.ebits ≠ 0 := by
  decide +kernel

/-- A core with vector names v0-v15, INT8 names v64-v67, INT4 names v68-v71, accumulators a0-a15 of W = 32, and all banks alike. -/
def matrix (b : Bank) (n : BitVec 3) : Core := { runs [] with
  views := #v[view 1 0 0 4 0 0, view 2 0 64 4 0 0x2000, view 2 1 68 4 0 0x3000, view 3 0 0 16 4 0x4000, 0, 0, 0, 0]
  jetOrder := n, banks := Vector.replicate 32 b }

/-- What a CIM.PASS over 2^lc banks from b on names from v at acc asks of its operands, as MatrixWords states it. -/
def passes' (s : State) (b lc v p acc : Nat) (ns : Bool) (o ov : Opnd) : Prop :=
  let x := s.me.bank (BitVec.ofNat 5 b)
  let C := 2 ^ lc
  let G := if ns then min C 16 else 1
  let E := if ov.cls = .int4 then 512 else 256
  (lc ≤ 5 ∧ b % C = 0) ∧ (∀ e < C, (s.me.bank (BitVec.ofNat 5 (b + e))).compute = true ∧ (s.me.bank (BitVec.ofNat 5 (b + e))).kind = x.kind ∧
    (s.me.bank (BitVec.ofNat 5 (b + e))).ps = x.ps ∧ (x.ternary = true → x.ps = 2)) ∧
  (ns = false → C ≤ 4) ∧ acc + G ≤ 16 ∧ s.me.nameOf v (fun k => k == .int8 || k == .int4) = .ok ov ∧ s.me.accOf acc = .ok o ∧
  (ov.cls = .int4 → p + 1 ≤ 4) ∧ oneView s.me.snapViews 2 v ((C / G * (768 / x.ps) + E - 1) / E) = true ∧
  oneView s.me.snapViews 3 acc G = true

/-- Passes over one bank and over four, over sixteen of 32 banks side by side, on INT4 names, of ternary weights and at jet order 1. -/
theorem witness_MatrixWords_passes :
    let signed : Bank := { Bank.reset with compute := true, fill := 3, signed := true, wbits := 7 }
    let ternary : Bank := { Bank.reset with compute := true, fill := 3, ternary := true, wbits := 1 }
    let acc := fun (n planes : Nat) => (⟨0x4000 + 256 * planes * n, 256, planes, .acc 4⟩ : Opnd)
    passes' (card (matrix signed 0)) 31 0 64 7 15 false (acc 15 1) ⟨0x2000, 256, 1, .int8⟩ ∧
    passes' (card (matrix signed 0)) 28 2 65 7 0 false (acc 0 1) ⟨0x2100, 256, 1, .int8⟩ ∧
    passes' (card (matrix signed 0)) 0 5 64 0 0 true (acc 0 1) ⟨0x2000, 256, 1, .int8⟩ ∧
    passes' (card (matrix signed 0)) 0 0 71 3 0 false (acc 0 1) ⟨0x3300, 256, 1, .int4⟩ ∧
    passes' (card (matrix ternary 0)) 0 0 66 7 0 false (acc 0 1) ⟨0x2200, 256, 1, .int8⟩ ∧
    passes' (card (matrix signed 1)) 0 0 64 7 1 false (acc 1 2) ⟨0x2000, 256, 2, .int8⟩ := by
  refine ⟨?_, ?_, ?_, ?_, ?_, ?_⟩ <;> (unfold passes'; decide +kernel)

theorem witness_MatrixWords :
    let q := fun (esz occ : Nat) => (⟨BitVec.ofNat 64 (2 ^ 63 + esz * 2 ^ 60 + 0x1000 * 2 ^ 15 + 15), BitVec.ofNat 64 (occ * 2 ^ 32)⟩ : Qcw)
    let full : Bank := { Bank.reset with compute := true, fill := 2, count := 6144, signed := true, wbits := 7 }
    let c : Core := { lanes with
      banks := ((Vector.replicate 32 Bank.reset).set 31 full).set 30 { full with fill := 1 }
      idx := (((((Vector.replicate 16 0).set 1 0x3FFF0).set 2 0x3FEF0).set 3 0x3FFD0).set 4 (BitVec.ofNat 32 (2 ^ 20 + 0x3FEF0))).set 5 0x40000
      scratch := [(0x3FF12, 31), (0x3FFF2, 3)]
      qcw := (Vector.replicate 8 ⟨0, 0⟩).set 1 (q 4 16) }
    let s := card c
    let vec := fun (k : Cls) => k == .vec
    let at' := fun (r : BitVec 4) => (s.me.ix r).toNat % 2 ^ 20
    (∃ o, s.me.accOf (3 : BitVec 4).toNat = .ok o) ∧ (∃ o, s.me.nameOf (15 : BitVec 7).toNat vec = .ok o) ∧
    (∃ o, s.me.nameOf (64 : BitVec 7).toNat (· == .int8) = .ok o) ∧
    ((s.me.bank 31).compute = true ∧ (s.me.bank 31).fill = 2) ∧ ((s.me.bank 30).compute = true ∧ (s.me.bank 30).fill ≠ 2) ∧
    ((s.me.bank 0).compute = false ∧ s.me.run = .running) ∧ s.me.snapOrder = 0 ∧
    operandIn s.me (at' 1) 16 16 ∧ operandIn s.me (at' 2) 260 16 ∧ operandIn s.me (at' 3) 48 16 ∧ operandIn s.me (at' 5) 260 16 ∧
    (s.me.ix 2).toNat / 2 ^ 20 % 2 = 0 ∧ (s.me.ix 4).toNat / 2 ^ 20 % 2 = 1 ∧
    Kind.ofCode (memNat s.me.scratch (at' 3 + 34) 1 % 32) = some (.sint 4) ∧ Kind.ofCode (memNat s.me.scratch (at' 2 + 34) 1 % 32) = none ∧
    Kind.ofCode (8 : BitVec 5).toNat = some (.uint 1) ∧ (∀ n ∈ [128, 64, 16], holds s.me 1 n) := by
  refine ⟨⟨_, rfl⟩, ⟨_, rfl⟩, ⟨_, rfl⟩, by decide +kernel, by decide +kernel, by decide +kernel, by decide +kernel, ?_, ?_, ?_, ?_, by decide +kernel,
    by decide +kernel, by decide +kernel, by decide +kernel, by decide +kernel, ?_⟩
  · exact ⟨by decide +kernel, .inl (by decide +kernel)⟩
  · exact ⟨by decide +kernel, .inl (by decide +kernel)⟩
  · exact ⟨by decide +kernel, .inl (by decide +kernel)⟩
  · exact ⟨by decide +kernel, .inr ⟨0, by decide +kernel, by decide +kernel, by decide +kernel⟩⟩
  · unfold holds; decide +kernel

/-- Scratch operands that R196 refuses at the ends of their ranges, queues that R197 refuses or that lack a byte of the pop, and passes
over banks in SCRATCH mode, of another kind, on names that no view claims, and against the last check of R199. -/
theorem witness_MatrixWords_traps :
    let q := fun (en use esz occ : Nat) =>
      (⟨BitVec.ofNat 64 (en * 2 ^ 63 + esz * 2 ^ 60 + use * 2 ^ 56 + 0x1000 * 2 ^ 15 + 15), BitVec.ofNat 64 (occ * 2 ^ 32)⟩ : Qcw)
    let ix := fun (l : List Nat) => Vector.ofFn fun (i : Fin 16) => BitVec.ofNat 32 (l.getD i.val 0)
    let c : Core := { lanes with
      banks := (Vector.replicate 32 Bank.reset).set 31 { Bank.reset with compute := true }
      idx := ix [0x3FFF1, 0x3FFF0, 0xA0000, 0xFFFF0, 0x45FF0, 0x9D000, 0x9FFD0, 0x9FFF0, 0x9FEF0, 0x3FEF0]
      qcw := #v[q 0 0 4 15, q 1 1 4 15, q 1 15 0 15, q 1 0 7 15, q 1 0 2 31, q 1 0 4 7, q 1 0 0 0, q 1 0 2 3] }
    let s := card c
    let at' := fun (r : BitVec 4) => (s.me.ix r).toNat % 2 ^ 20
    let lies := fun (m a size : Nat) => 0x40000 + 0x3000 * m ≤ a ∧ a + size ≤ 0x43000 + 0x3000 * m
    let lacks := fun (n : BitVec 3) (size : Nat) => (s.me.q n).en = true ∧ (s.me.q n).use = 0 ∧ (s.me.q n).esz ≤ size ∧
      (s.me.q n).occ * (s.me.q n).esz < size
    s.me.run = .running ∧ (∃ o, s.me.accOf (3 : BitVec 4).toNat = .ok o) ∧ (∃ o, s.me.nameOf (64 : BitVec 7).toNat (· == .int8) = .ok o) ∧
    (∃ o, s.me.nameOf (15 : BitVec 7).toNat (· == .vec) = .ok o) ∧
    at' 0 % 16 ≠ 0 ∧ (at' 1 % 16 = 0 ∧ at' 1 < 0x40000 ∧ 0x40000 < at' 1 + 48) ∧ (at' 2 % 16 = 0 ∧ 0xA0000 ≤ at' 2) ∧ 0xA0000 ≤ at' 3 ∧
    (at' 4 % 16 = 0 ∧ 0x40000 + 0x3000 * (1 : BitVec 5).toNat ≤ at' 4 ∧ at' 4 < 0x43000 + 0x3000 * (1 : BitVec 5).toNat ∧
      0x43000 + 0x3000 * (1 : BitVec 5).toNat < at' 4 + 48) ∧
    ((s.me.bank 31).compute = true ∧ lies 31 (at' 5) 16 ∧ lies 31 (at' 5) 260 ∧ lies 31 (at' 6) 48 ∧ lies 31 (at' 7) 16 ∧ ¬lies 31 (at' 8) 288 ∧
      at' 8 % 16 = 0 ∧ lies 31 (at' 8) 260) ∧
    ((s.me.q 0).en = false ∧ (s.me.q 1).use ≠ 0 ∧ (s.me.q 2).use ≠ 0 ∧ 64 < (s.me.q 3).esz ∧ 16 < (s.me.q 3).esz) ∧
    (lacks 4 128 ∧ lacks 5 128 ∧ lacks 6 16 ∧ lacks 7 16 ∧ lacks 7 64) ∧
    operandIn s.me (at' 9) 260 16 ∧ (s.me.ix 9).toNat / 2 ^ 20 % 2 = 0 := by
  refine ⟨by decide +kernel, ⟨_, rfl⟩, ⟨_, rfl⟩, ⟨_, rfl⟩, by decide +kernel, by decide +kernel, by decide +kernel, by decide +kernel,
    by decide +kernel, by decide +kernel, by decide +kernel, by decide +kernel, ⟨by decide +kernel, .inl (by decide +kernel)⟩, by decide +kernel⟩

theorem witness_MatrixWords_refused :
    let on : Bank := { Bank.reset with compute := true, wbits := 7 }
    let core := fun (l : List (Nat × Bank)) => { matrix on 0 with
      banks := l.foldl (fun v p => v.set! p.1 p.2) (Vector.replicate 32 on) }
    let s := fun (l : List (Nat × Bank)) => card (core l)
    let fits := fun (l : List (Nat × Bank)) (b e : Nat) => ((s l).me.bank (BitVec.ofNat 5 (b + e))).compute = true ∧
      ((s l).me.bank (BitVec.ofNat 5 (b + e))).kind = ((s l).me.bank (BitVec.ofNat 5 b)).kind
    let other : Bank := { on with ternary := true, wbits := 1 }
    let claimed := fun (v acc C G E : Nat) => oneView (s []).me.snapViews 2 v ((C / G * (768 / on.ps) + E - 1) / E) = true ∧
      oneView (s []).me.snapViews 3 acc (min G (16 - acc)) = true
    (¬fits [(0, Bank.reset)] 0 0 ∧ ¬fits [(31, Bank.reset)] 0 31 ∧ ∀ f < 31, fits [(31, Bank.reset)] 0 f) ∧
    (¬fits [(3, other)] 2 1 ∧ fits [(3, other)] 2 0) ∧
    (∀ e < 32, fits [] 0 e) ∧ (∃ o, (s []).me.accOf 15 = .ok o) ∧ (∃ o, (s []).me.accOf 0 = .ok o) ∧
    (∃ o, (s []).me.nameOf 67 (fun k => k == .int8 || k == .int4) = .ok o ∧ o.cls = .int8) ∧
    (∃ o, (s []).me.nameOf 71 (fun k => k == .int8 || k == .int4) = .ok o ∧ o.cls = .int4) ∧
    (¬claimed 67 0 4 1 256 ∧ claimed 67 0 1 1 256 ∧ claimed 71 0 1 1 512 ∧ claimed 64 15 2 2 256 ∧ claimed 64 0 8 8 256 ∧
      16 < (15 : BitVec 4).toNat + 2 ∧ 4 < 2 ^ (3 : BitVec 3).toNat ∧ 4 < (4 : BitVec 3).toNat + 1) := by
  refine ⟨by decide +kernel, by decide +kernel, by decide +kernel, ⟨_, rfl⟩, ⟨_, rfl⟩, ⟨_, rfl, by decide +kernel⟩, ⟨_, rfl, by decide +kernel⟩,
    by decide +kernel⟩

theorem witness_IndexWords :
    let c : Core := { runs [] with
      loopRun := some (body none), idx := (Vector.replicate 16 5).set 1 (BitVec.allOnes 32)
      qcw := (Vector.replicate 8 ⟨0, 0⟩).set 7 (Tests.word 0 0), remap := (Vector.replicate 8 none).set 7 (some ⟨0, devEnd⟩)
      aq := List.replicate 63 ⟨0, 7, 0, 0, 0, false⟩ }
    let s := card c
    let full := card { c with aq := List.replicate 64 ⟨0, 7, 0, 0, 0, false⟩ }
    (s.me.loopRun = some (body none) ∧ (5 : BitVec 3).toNat ≤ 5 ∧ (6 : BitVec 3).toNat = 6) ∧
    ((s.me.q 7).en = true ∧ (s.me.q 7).use = 0 ∧ (s.me.remap[(7 : BitVec 3).toNat]).isSome = true) ∧
    ((s.me.ix 0).toNat ≠ 2 ^ 32 - 1 ∧ s.me.aq.length < 64) ∧ (s.me.ix 1).toNat = 2 ^ 32 - 1 ∧ 64 ≤ full.me.aq.length ∧
    (s.me.run = .running ∧ (s.me.q 0).en = false) := by decide +kernel

/-- A dense fibre of positions 12 to 15 of origin 12, at a position or at its end. -/
def fibre (pos : Nat) : Stream :=
  ⟨true, decide (pos = 16), false, false, 0, 0, false, 0, 0x1000, 0, if pos = 16 then BitVec.allOnes 32 else BitVec.ofNat 32 (pos - 12),
    BitVec.ofNat 32 pos, 16, 4, 0, 0, 12⟩

theorem fibre_dense : DenseStream (fibre 12) ∧ DenseStream (fibre 15) ∧ DenseStream (fibre 16) := by
  refine ⟨⟨?_, ?_, ?_, ?_, ?_, ?_⟩, ⟨?_, ?_, ?_, ?_, ?_, ?_⟩, ⟨?_, ?_, ?_, ?_, ?_, ?_⟩⟩ <;> decide

/-- An open stream that is not done: kind, level, refill queue, descriptor, array, coordinate, position, end, size, origin (R222). -/
def walking (kind lvl : Nat) (q : Option (BitVec 3)) (desc abase crd pos last size org : Nat) : Stream :=
  ⟨true, false, false, false, BitVec.ofNat 2 kind, BitVec.ofNat 3 lvl, q.isSome, q.getD 0, BitVec.ofNat 20 desc, BitVec.ofNat 20 abase,
    BitVec.ofNat 32 crd, BitVec.ofNat 32 pos, BitVec.ofNat 32 last, BitVec.ofNat 32 size, BitVec.allOnes 32, BitVec.allOnes 32, BitVec.ofNat 32 org⟩

/-- Scratch with tensors: at 0x1000 a compressed level of 8 over a dense one of 4 and a singleton one of 9; at 0x1100 a bitmap level of
70; at 0x1200 a compressed level fed by queue 2, whose elements are 2 and 3. The compressed fibre is 1, 4, 6, the bitmap one 1 and 65. The layout is R219's. -/
def tensors : Mem :=
  [(0x1000, 3), (0x1010, 8), (0x1017, 0x40), (0x1019, 0x20), (0x1021, 0x21), (0x1030, 4), (0x1050, 9), (0x1057, 0xC0), (0x1061, 0x22),
    (0x1100, 1), (0x1110, 0x46), (0x1117, 0x80), (0x1119, 0x23), (0x1121, 0x24), (0x1200, 1), (0x1210, 8), (0x1217, 0x68),
    (0x1219, 0x20), (0x2004, 3), (0x2100, 1), (0x2104, 4), (0x2108, 6), (0x2200, 5), (0x2304, 2), (0x2400, 2), (0x2408, 2), (0x2500, 2),
    (0x2504, 3)]

/-- A core with those tensors and walks of them. -/
def walker (occ : Nat) : Core := { runs [] with
  scratch := tensors
  qcw := (Vector.replicate 8 ⟨0, 0⟩).set 2 ⟨BitVec.ofNat 64 (2 ^ 63 + 2 * 2 ^ 60 + 2 * 2 ^ 56 + 0x2500 * 2 ^ 15 + 3), BitVec.ofNat 64 (occ * 2 ^ 32)⟩ }

/-- A level is opened at its first coordinate, of each kind, the queue-fed one from its queue, and an empty one. -/
theorem witness_StreamWords_opens :
    let c := walker 2
    Opens c 0 0x1000 0 0 (walking 1 0 none 0x1000 0x2100 1 0 3 8 0) c ∧ Opens c 0 0x1000 1 2 (walking 0 1 none 0x1000 0 0 8 12 4 8) c ∧
    Opens c 0 0x1000 2 0 (walking 3 2 none 0x1000 0x2200 5 0 1 9 0) c ∧ Opens c 0 0x1100 0 0 (walking 2 0 none 0x1100 0x2400 1 0 2 70 0) c ∧
    Opens c 0 0x1200 0 0 (walking 1 0 (some 2) 0x1200 0 2 0 3 8 0) (popped c 2 4) ∧
    Opens { c with scratch := memWrite tensors 0x2004 [0] } 0 0x1000 0 0
      { walking 1 0 none 0x1000 0x2100 (2 ^ 32 - 1) 0 0 8 0 with done := true } { c with scratch := memWrite tensors 0x2004 [0] } := by
  refine ⟨⟨by unfold levelIn; decide, 1, none, 8, 0x2000, 0x2100, ⟨by decide +kernel, by decide +kernel, by decide, by decide⟩, by decide, by decide +kernel, by decide +kernel,
      by simp, fun h => absurd h (by decide), fun h => absurd h (by decide +kernel), fun _ => ⟨1, by decide, by unfold CoordAt bitmapIn; decide +kernel, by decide +kernel, rfl⟩⟩,
    ⟨by unfold levelIn; decide, 0, none, 4, 0, 0, ⟨by decide +kernel, by decide +kernel, by decide, by decide⟩, by decide, by decide +kernel, by decide +kernel,
      by simp, fun h => absurd h (by decide), fun h => absurd h (by decide +kernel), fun _ => ⟨0, by decide, by unfold CoordAt bitmapIn; decide +kernel, by decide +kernel, rfl⟩⟩,
    ⟨by unfold levelIn; decide, 3, none, 9, 0, 0x2200, ⟨by decide +kernel, by decide +kernel, by decide, by decide⟩, by decide, by decide +kernel, by decide +kernel,
      by simp, fun h => absurd h (by decide), fun h => absurd h (by decide +kernel), fun _ => ⟨5, by decide, by unfold CoordAt bitmapIn; decide +kernel, by decide +kernel, rfl⟩⟩,
    ⟨by unfold levelIn; decide, 2, none, 70, 0x2300, 0x2400, ⟨by decide +kernel, by decide +kernel, by decide, by decide⟩, by decide, by decide +kernel, by decide +kernel,
      by simp, fun _ => by unfold bitmapIn; decide +kernel, fun h => absurd h (by decide +kernel), fun _ => ⟨1, by decide, by unfold CoordAt bitmapIn; decide +kernel, by decide +kernel, rfl⟩⟩,
    ⟨by unfold levelIn; decide, 1, some 2, 8, 0x2000, 0, ⟨by decide +kernel, by decide +kernel, by decide, by decide⟩, by decide, by decide +kernel, by decide +kernel,
      fun k hk => by cases hk; decide +kernel, fun h => absurd h (by decide), fun h => absurd h (by decide +kernel),
      fun _ => ⟨2, by decide, by unfold CoordAt bitmapIn; decide +kernel, by decide +kernel, rfl⟩⟩,
    ⟨by unfold levelIn; decide, 1, none, 8, 0x2000, 0x2100, ⟨by decide +kernel, by decide +kernel, by decide, by decide⟩, by decide, by decide +kernel, by decide +kernel,
      by simp, fun h => absurd h (by decide), fun _ => ⟨by decide +kernel, rfl⟩, fun h => absurd h (by decide +kernel)⟩⟩

/-- A step of a fibre of each kind, and one to the end. -/
theorem witness_StreamWords_steps :
    let c := walker 2
    Steps c (walking 0 1 none 0x1000 0 0 8 12 4 8) (walking 0 1 none 0x1000 0 1 9 12 4 8) c ∧
    Steps c (walking 1 0 none 0x1000 0x2100 1 0 3 8 0) (walking 1 0 none 0x1000 0x2100 4 1 3 8 0) c ∧
    Steps c (walking 2 0 none 0x1100 0x2400 1 0 2 70 0) (walking 2 0 none 0x1100 0x2400 65 1 2 70 0) c ∧
    Steps c (walking 1 0 (some 2) 0x1200 0 1 0 3 8 0) (walking 1 0 (some 2) 0x1200 0 2 1 3 8 0) (popped c 2 4) ∧
    Steps c (walking 3 2 none 0x1000 0x2200 5 0 1 9 0) { walking 3 2 none 0x1000 0x2200 (2 ^ 32 - 1) 1 1 9 0 with done := true } c := by
  refine ⟨⟨by decide, by decide, by decide, .inr ⟨by decide, 1, ?_⟩⟩, ⟨by decide, by decide, by decide, .inr ⟨by decide, 4, ?_⟩⟩,
    ⟨by decide, by decide, by decide, .inr ⟨by decide, 65, ?_⟩⟩, ⟨by decide, by decide, by decide, .inr ⟨by decide, 2, ?_⟩⟩,
    ⟨by decide, by decide, by decide, .inl (by decide +kernel)⟩⟩ <;>
    exact ⟨by unfold CoordAt bitmapIn; decide +kernel, by decide, by decide, by decide, rfl⟩

/-- What the other clauses on streams ask: a dense fibre and its ends, a compressed one, two streams, closed ones, a refill queue that is
empty, and descriptors and fibres that R219 to R221 refuse. -/
theorem witness_StreamWords :
    let c : Core := { walker 0 with
      streams := ((((Vector.replicate 8 Stream.closed).set 1 (fibre 12)).set 2 (fibre 15)).set 3 (fibre 16)).set 4 (walking 1 0 none 0x1000 0x2100 1 0 3 8 0)
      idx := ((Vector.replicate 16 0).set 1 0x1000).set 2 2 |>.set 3 4 |>.set 4 5 |>.set 5 7 }
    let s := card c
    let C := fun (q : Nat) => if q = 0 then 1 else if q = 1 then 4 else 6
    ((s.me.stream 0).isOpen = false ∧ s.me.run = .running) ∧
    ((s.me.stream 1).isOpen = true ∧ (s.me.stream 1).done = false ∧ (s.me.stream 4).lvl.toNat + 1 < memNat s.me.scratch (s.me.stream 4).desc.toNat 16) ∧
    (DenseStream (s.me.stream 1) ∧ DenseStream (s.me.stream 2) ∧ DenseStream (s.me.stream 3) ∧ (s.me.stream 3).done = true) ∧
    ((s.me.ix 0).toNat ≤ (s.me.stream 1).crd.toNat ∧
      ((s.me.stream 1).crd.toNat < (s.me.ix 2).toNat ∧ (s.me.ix 2).toNat < (s.me.stream 1).size.toNat) ∧
      (s.me.stream 1).size.toNat ≤ (s.me.ix 3).toNat) ∧
    (let x := s.me.stream 4
     x.kind = 1 ∧ x.src = false ∧ x.crd.toNat < (s.me.ix 4).toNat ∧ C x.pos.toNat = x.crd.toNat ∧
       (C (2 - 1) < (s.me.ix 4).toNat ∧ (s.me.ix 4).toNat ≤ C 2) ∧ C (x.endPos.toNat - 1) < (s.me.ix 5).toNat) ∧
    ((4 : BitVec 4).toNat % 2 = 0 ∧ (1 : BitVec 3) ≠ 2 ∧ (s.me.stream 1).crd.toNat < (s.me.stream 2).crd.toNat ∧
      ((s.me.stream 3).done = true ∧ (s.me.stream 3).crd = BitVec.allOnes 32 ∧ (s.me.stream 1).crd.toNat < (s.me.stream 3).crd.toNat)) ∧
    ((card { c with streams := (c.streams).set 4 (fibre 12) }).me.stream 4).crd = (s.me.stream 1).crd ∧
    (let x := walking 1 0 (some 2) 0x1200 0 1 0 3 8 0
     x.pos.toNat + 1 < x.endPos.toNat ∧ x.kind = 1 ∧ x.src = true ∧ (s.me.q x.qw).occ = 0) := by
  refine ⟨by decide +kernel, by decide +kernel, ⟨fibre_dense.1, fibre_dense.2.1, fibre_dense.2.2, by decide⟩, by decide +kernel,
    ⟨by decide +kernel, by decide +kernel, by decide +kernel, by decide +kernel, by decide +kernel, by decide +kernel⟩, by decide +kernel,
    by decide +kernel, by decide +kernel⟩

/-- The coordinates of the compressed fibre, past its first. -/
theorem witness_StreamWords_fibre :
    let x := walking 1 0 none 0x1000 0x2100 1 0 3 8 0
    (CoordAt (walker 0) x 1 4 ∧ 4 < x.size.toNat ∧ 1 < 4) ∧ CoordAt (walker 0) x 2 6 ∧ 6 < x.size.toNat ∧ x.endPos.toNat = 3 := by
  unfold CoordAt bitmapIn; decide +kernel

/-- Levels and fibres that are malformed, by cause: 5 no level; 2 positions that descend, and a bitmap with another number of bits; 4 a
fibre that ends at null; 1 a coordinate of the size; 0 one that does not ascend; 3 a bit past the size. -/
theorem witness_StreamWords_malformed :
    let c := walker 2
    let on := fun (a : Nat) (b : List Byte) => { c with scratch := memWrite tensors a b }
    let at' := fun (a lo hi : Nat) => memNat (on a (toBytes 4 lo ++ toBytes 4 hi)).scratch a 4 = lo ∧
      memNat (on a (toBytes 4 lo ++ toBytes 4 hi)).scratch (a + 4) 4 = hi
    let x := walking 1 0 none 0x1000 0x2100 4 0 3 8 0
    let b := walking 2 0 none 0x1100 0x2400 1 0 2 65 0
    (levelIn 0x3000 0 ∧ memNat c.scratch 0x3000 16 = 0) ∧
    (at' 0x2000 3 2 ∧ at' 0x2000 0 (2 ^ 32 - 1) ∧ at' 0x2300 0 3) ∧ LevelAt c 0x1000 0 1 none 8 0x2000 0x2100 ∧
    LevelAt c 0x1100 0 2 none 70 0x2300 0x2400 ∧ levelIn 0x1100 0 ∧ bitmapIn 0x2400 70 ∧
    ((fibreBits c 0x2400 70).filter (· < 70)).length ≠ 3 - 0 ∧
    (x.pos.toNat + 1 < x.endPos.toNat ∧ CoordAt (on 0x2104 (toBytes 4 8)) x 1 8 ∧ x.size.toNat ≤ 8 ∧ CoordAt c x 1 4 ∧
      4 < x.size.toNat ∧ 4 ≤ x.crd.toNat) ∧
    (b.pos.toNat + 1 < b.endPos.toNat ∧ bitmapIn b.abase.toNat b.size.toNat ∧
      ∃ v ∈ fibreBits c b.abase.toNat b.size.toNat, b.size.toNat ≤ v) := by
  refine ⟨⟨by unfold levelIn; decide, by decide +kernel⟩, by decide +kernel, ⟨by decide +kernel, by decide +kernel, by decide, by decide⟩,
    ⟨by decide +kernel, by decide +kernel, by decide, by decide⟩, by unfold levelIn; decide, by unfold bitmapIn; decide, by decide +kernel, ?_, ?_⟩
  · unfold CoordAt bitmapIn; decide +kernel
  · unfold bitmapIn; decide +kernel

/-- Operands in plain scratch, in a SCRATCH bank's window and at each boundary of what traps; queues and names of every size. -/
theorem witness_MoveWords :
    let q := fun (occ : Nat) => (⟨BitVec.ofNat 64 (2 ^ 63 + 6 * 2 ^ 60 + 0x1000 * 2 ^ 15 + 3), BitVec.ofNat 64 (occ * 2 ^ 32)⟩ : Qcw)
    let c : Core := { lanes with
      idx := ((((Vector.replicate 16 0).set 1 0x3FF00).set 2 0xFFFFF).set 3 0x42F00).set 4 0x100000 |>.set 5 0x3FF10 |>.set 6 0xA0000 |>.set 7
        0x45F10 |>.set 8 0x9FF00
      qcw := ((Vector.replicate 8 ⟨0, 0⟩).set 7 (q 4)).set 6 (q 3)
      banks := (Vector.replicate 32 Bank.reset).set 31 { Bank.reset with compute := true }
      views := lanes.views.set 3 (view 3 0 0 4 8 0x6000)
      paramq := [7] }
    let s := card c
    let o : Opnd := ⟨0, 256, 1, .vec⟩
    let at' := fun (r : BitVec 4) (k : BitVec 13) => ((s.me.ix r).toNat : Int) + 16 * k.toInt
    codeName s.me.snapViews s.me.snapOrder 0 = some o ∧
    (at' 1 0 = (0x3FF00 : Nat) ∧ operandIn s.me 0x3FF00 o.size 16) ∧ (at' 3 0 = (0x42F00 : Nat) ∧ operandIn s.me 0x42F00 o.size 16) ∧
    unawaited s s.cur 0x3FF00 o.size ∧
    (s.me.run = .running ∧ at' 0 (-1) < 0 ∧ 2 ^ 20 ≤ at' 4 0) ∧ (at' 2 0 = (0xFFFFF : Nat) ∧ 0xFFFFF < 2 ^ 20 ∧ 0xFFFFF % 16 ≠ 0) ∧
    (at' 5 0 = (0x3FF10 : Nat) ∧ 0x3FF10 % 16 = 0 ∧ 0x40000 < 0x3FF10 + o.size) ∧ at' 6 0 = (0xA0000 : Nat) ∧
    (at' 7 0 = (0x45F10 : Nat) ∧ 0x40000 + 0x3000 * (1 : BitVec 5).toNat ≤ 0x45F10 ∧ 0x45F10 < 0x43000 + 0x3000 * (1 : BitVec 5).toNat ∧
      0x43000 + 0x3000 * (1 : BitVec 5).toNat < 0x45F10 + o.size) ∧
    (at' 8 0 = (0x9FF00 : Nat) ∧ 0x40000 + 0x3000 * (31 : BitVec 5).toNat ≤ 0x9FF00 ∧ 0x9FF00 + o.size ≤ 0x43000 + 0x3000 * (31 : BitVec 5).toNat ∧
      0 < o.size ∧ (s.me.bank 31).compute = true) ∧
    (holds s.me 7 o.size ∧ s.me.feeds 7 = false) ∧
    ((s.me.q 6).en = true ∧ (s.me.q 6).use = 0 ∧ (s.me.q 6).esz ≤ o.size ∧ (s.me.q 6).occ * (s.me.q 6).esz < o.size ∧
      s.me.feeds 6 = false) ∧
    ((1 : BitVec 8).toNat ≠ 144 ∧ codeName s.me.snapViews s.me.snapOrder 1 = some ⟨256, 256, 1, .vec⟩) ∧
    ((131 : BitVec 8).toNat ≠ 144 ∧ (codeName s.me.snapViews s.me.snapOrder 131).map Opnd.size = some 512) ∧
    s.me.paramq = [7] ∧ ((card lanes).me.paramq = [] ∧ (card lanes).me.paramOvf.getLsbD 3 = false) := by
  refine ⟨by decide +kernel, ⟨by decide +kernel, by decide, .inl (by decide)⟩,
    ⟨by decide +kernel, by decide, .inr ⟨0, by decide +kernel, by decide, by decide⟩⟩, by unfold unawaited; decide +kernel, by decide +kernel, by decide +kernel,
    by decide +kernel, by decide +kernel, by decide +kernel, by decide +kernel, ⟨by unfold holds; decide +kernel, by decide +kernel⟩, by decide +kernel,
    by decide +kernel, by decide +kernel, by decide +kernel, by decide +kernel⟩

theorem witness_VectorCycles :
    let ppop : Word32 := 0x64400140
    let r := body (some [ppop, 0x7A000000, 0x7A000000])
    let c := fun (n : Nat) (p : List Word64) => ({ runs [] with loopRun := some r, stall := n, paramq := p } : Core)
    let ok := fun (c : Core) => aloneRuns c ∧ c.loopRun = some r ∧ r.zpf = none ∧ r.buf = some [ppop, 0x7A000000, 0x7A000000] ∧ r.off = 0 ∧
      r.iter + 1 = r.c.total ∧ c.landing = [] ∧ c.occ = ⟨0, 0, 0, 0, 0⟩ ∧ c.gatherFaults = [] ∧ c.cmdq = [] ∧ r.c.len = 1 ∧
      decodeVector ppop.toNat = .ok (.ppop false 5) ∧ ppop.getLsbD 31 = false ∧ 0 < c.stall
    (ok (c 1 [7]) ∧ (c 1 [7]).paramq = [7]) ∧ (ok (c (2 ^ 20 - 2) []) ∧ (c (2 ^ 20 - 2) []).stall + 1 < 2 ^ 20 ∧
      (c (2 ^ 20 - 2) []).paramOvf.getLsbD 3 = false) ∧ (ok (c (2 ^ 20 - 1) []) ∧ (c (2 ^ 20 - 1) []).stall + 1 = 2 ^ 20) ∧
    (let l : Landing := ⟨0, .bytes 0x7FFF [1], .no, 0, none, none⟩
     let d : Core := { runs [] with landing := [l] }
     aloneRuns d ∧ d.loopRun = none ∧ d.zeroing = none ∧ d.landing = [l] ∧ l.d = 0 ∧ l.flags &&& d.fpTrapen = 0 ∧ l.v = .bytes 0x7FFF [1]) := by
  unfold aloneRuns; refine ⟨⟨?_, by decide⟩, ⟨?_, by decide, by decide⟩, ⟨?_, by decide⟩, by decide +kernel⟩ <;>
    exact ⟨by decide +kernel, by decide, by decide, by decide, by decide, by decide, by decide, by decide, by decide, by decide, by decide,
      by decide +kernel, by decide, by decide⟩

/-- One result of each kind, due on a core with nothing else: sums that saturate the last column and an accumulator that they
overwrite, an index and a stream register, QPAR's record at the end of scratch; then two of which the first has a flag that traps. -/
theorem witness_VectorCycles_landings :
    let l := fun (v : LandVal) (f : Word64) => (⟨0, v, .no, f, some ⟨7, 3, 0, (body none).c, 4, false⟩, none⟩ : Landing)
    let c := fun (ls : List Landing) => ({ runs [] with landing := ls, fpTrapen := 16, regs := [(0x43FF, 0x7F)] } : Core)
    let one := fun (v : LandVal) => ((card (c [l v 0])).core 0).loopRun = none ∧ (c [l v 0]).zeroing = none ∧ (l v 0).d = 0 ∧
      landFlags (c [l v 0]) (l v 0) &&& (c [l v 0]).fpTrapen = 0 ∧ aloneRuns (c [l v 0])
    let sums := fun (ovw : Bool) => LandVal.sums 0 0x4000 16 ovw (List.replicate 63 1 ++ [2 ^ 127 - 1])
    (one (sums false) ∧ saturates (c []) (sums false) 63 = true ∧ saturates (c []) (sums false) 62 = false) ∧
    (one (sums true) ∧ saturates (c []) (sums true) 63 = false) ∧ one (.index 15 7) ∧ one (.stream 7 .closed) ∧
    (one (.scratch 0x3FFD0 (List.replicate 48 1)) ∧ unawaited (card (c [l (.scratch 0x3FFD0 (List.replicate 48 1)) 0])) 0 0x3FFD0 48) ∧
    (let a := l (.index 1 2) 16; let b := l (.bytes 0 [1]) 1
     landFlags (c [a, b]) a &&& (c [a, b]).fpTrapen ≠ 0 ∧ b.pass = none ∧ landFlags (c [a, b]) b &&& (c [a, b]).fpTrapen = 0 ∧
       a.src = some ⟨7, 3, 0, (body none).c, 4, false⟩ ∧ aloneRuns (c [a, b])) := by
  unfold aloneRuns unawaited; decide +kernel

/-- An AQPUSH that waited and has room, and, at the last cycles before the trap, one that has none, a LUT.ACC of a queue that is short
and a CIM.SWAPW of a bank that is not full. -/
theorem witness_VectorCycles_stalled :
    let q := fun (esz occ : Nat) => (⟨BitVec.ofNat 64 (2 ^ 63 + esz * 2 ^ 60 + 0x1000 * 2 ^ 15 + 15), BitVec.ofNat 64 (occ * 2 ^ 32)⟩ : Qcw)
    let r := fun (w : Word32) => { body none with c := { (body none).c with views := lanes.views }, buf := some [w, 0x7A000000, 0x7A000000] }
    let c := fun (w : Word32) (n : Nat) (aq : Nat) => ({ lanes with
      loopRun := some (r w), stall := n
      aq := List.replicate aq ⟨0, 0, 0, 0, 0, false⟩, qcw := (Vector.replicate 8 ⟨0, 0⟩).set 1 (q 4 7), remap := (Vector.replicate 8 none).set 1 (some ⟨0, ownEnd⟩)
      banks := (Vector.replicate 32 Bank.reset).set 31 { Bank.reset with compute := true } } : Core)
    let push : Word32 := 0x58064000
    let acc := encodeVector (.lutAcc false 3 1 2)
    let swap : Word32 := 0x443F0000
    let lacks := fun (i : Instr) (c : Core) (x : Wanted) => (match vword i c with | .error e => some e | .ok _ => none) = some (.lack x)
    let waited := fun (w : Word32) (n aq : Nat) (i : Instr) => (card (c w n aq)).nextGroup 0 (r w) = ⟨[((r w).off, w)], none, none, 1⟩ ∧
      (r w).zpf = none ∧ (c w n aq).zeroing = none ∧ (c w n aq).landing = [] ∧ (c w n aq).gatherFaults = [] ∧ 0 < (c w n aq).stall ∧
      aloneRuns (c w n aq) ∧ ((c w n aq).checkGroup (r w).c.start.toNat ⟨[(0, w)], none, none, 1⟩).toOption.map (·.map (·.i)) = some [i]
    (waited push 1 63 (.aqpush false 3 1) ∧ (card (c push 1 63)).wf = true ∧ encodeVector (.aqpush false 3 1) ≠ [] ∧
      ((c push 1 63).checkGroup 0x42000 ⟨[(0, push)], none, none, 1⟩ >>= (c push 1 63).operandState).toOption = some none) ∧
    (waited push (2 ^ 20 - 2) 64 (.aqpush false 3 1) ∧ lacks (.aqpush false 3 1) (c push (2 ^ 20 - 2) 64) .addrQ) ∧
    (waited (BitVec.ofNat 32 (acc.headD 0)) (2 ^ 20 - 1) 0 (.lutAcc false 3 1 2) ∧
      lacks (.lutAcc false 3 1 2) (c (BitVec.ofNat 32 (acc.headD 0)) (2 ^ 20 - 1) 0) (.dataQ 1)) ∧
    (waited swap (2 ^ 20 - 1) 0 (.cimSwapw false 31) ∧ lacks (.cimSwapw false 31) (c swap (2 ^ 20 - 1) 0) (.bank 31)) := by
  unfold aloneRuns
  refine ⟨⟨?_, by decide +kernel, by decide +kernel, by decide +kernel⟩, ⟨?_, ?_⟩, ⟨?_, ?_⟩, ?_, ?_⟩
  all_goals first | exact ⟨by decide +kernel, by decide +kernel, by decide +kernel, by decide +kernel, by decide +kernel, by decide +kernel,
    by decide +kernel, by decide +kernel⟩ | decide +kernel

/-! ## Base camp: tasks, launches, cairns -/

/-- The card with its functions ready, and context 0 enabled with the first GiB of memory mapped onto itself. -/
def mapped : State :=
  let s := State.reset.withFetchWord 32 0x02321400
  { s with fw := { s.fw with ready := 0xFFFF }, cores := [], sched := Sched.reset, agenda := [] }

theorem witness_CoresTakeAndReturnTasks :
    let r : ContRec := ⟨31, false, false, 0x40000, 0, 0, 0, 0, 0, 0, 0, 0⟩
    let up := { State.reset with fw := { Firmware.reset with ready := 0xFFFF } }
    let queued := { up with sched := { Sched.reset with queues := [(queueNo 0 31, ⟨[r], 31, 0⟩)] } }
    let pre := card { runs [] with run := .preempting, aq := [⟨0, 0, 0, 0, 0, false⟩] }
    let l := { placedLaunch with lc := 0, gc := 1, pc := 2, jc := 3 }
    let stop : TrapRec := ⟨22, 0, 0, false, 0, 0, 0, [], 0, 0, 7, 0, []⟩
    let s : State := { card { runs [] with run := .stopping stop } with sched := { Sched.reset with launches := [l] } }
    let recorded : State := { card { runs [] with run := .recorded } with sched := { Sched.reset with ringOut := [⟨0, List.replicate 128 0, 0, 0, some 7⟩] } }
    (31 < 32 ∧ (queued.core 0).run = .idle ∧ queued.fw.ready.getLsbD 7 = true ∧ queued.fw.ready.getLsbD 3 = true ∧
      queued.fw.ready.getLsbD 14 = true ∧ queued.fleet.slpState = 0 ∧ (queued.queue 0 31).recs = r :: [] ∧
      (∀ q < 32, q ≠ 31 → (queued.queue 0 q).recs = []) ∧ r.rs = false ∧ (queued.core 0).prevCtx ≠ some r.ctx ∧
      ({ Core.reset with prevCtx := some 0 } : Core).prevCtx = some r.ctx) ∧
    ((card (runs [])).core 0).run ≠ .idle ∧ State.reset.fw.ready.getLsbD 14 = false ∧
    (∀ q < 32, (up.queue 0 q).recs = []) ∧
    (let c : Core := { runs [] with preemptReq := true }
     up.fleet.slpState ≠ 1 ∧ c.rope = none ∧ c.preemptReq = true ∧ c.run = .running ∧ c.wait = .no) ∧ (runs []).preemptReq = false ∧
    (let c := pre.core 0
     c.rope = none ∧ c.run = .preempting ∧ c.zeroing = none ∧ c.loopRun = none ∧ c.tags = [] ∧ c.elems = [] ∧ c.gatherFaults = [] ∧
       ∀ e ∈ c.aq, e.begun = false) ∧
    (let c : Core := { runs [] with wdLimit := 9, us := 9 }
     c.run = .running ∧ c.wdLimit ≠ 0 ∧ c.wdLimit.toNat ≤ c.us ∧ ({ c with us := 8 } : Core).us < c.wdLimit.toNat) ∧
    (let c : Core := { runs [] with run := .cancelling, task := { Task.reset with joined := true } }
     c.run = .cancelling ∧ c.tags = [] ∧ c.elems = [] ∧ c.zeroing = none ∧ c.wait = .no ∧ c.task.joined = true ∧ c.aq = []) ∧
    ((recorded.core 0).run = .recorded ∧ recorded.ringBusy 0 = true) ∧
    ((s.core 0).run = .stopping stop ∧ (s.core 0).tags = [] ∧ (s.core 0).elems = [] ∧ (s.core 0).zeroing = none ∧ (s.core 0).aq = [] ∧
      s.sched.ringOut = [] ∧ (s.ctx (s.core 0).task.ctx).fltCfg.getLsbD 63 = false ∧ (s.ctx (s.core 0).task.ctx).fltLost.toNat < 2 ^ 32 - 1 ∧
      s.launchOfTask (s.core 0).task = some l ∧ l.isCancelled = false ∧ l.cairns.Nodup ∧
      (card (runs [])).launchOfTask Task.reset = none) := by decide +kernel

/-- Several queues of one die with records: of two at level 5 and lifted the native level 7 wins, over that which is not lifted; and
level 8 ranks last. A record on another die only, from a launch that lets it go and from one that does not; and a cancelled task that
waits for a tree at its limit. -/
theorem witness_CoresTakeAndReturnTasks_choice :
    let r : ContRec := ⟨31, false, false, 0x40000, 0, 0, 0, 0, 0, 0, 0, 0⟩
    let s := fun (qs : List (Nat × Queue)) (sp : Bool) => ({ State.reset with
      fw := { Firmware.reset with ready := 0xFFFF }
      sched := { Sched.reset with queues := qs, launches := [{ placedLaunch with sp := sp }] } } : State)
    let u := s [(queueNo 0 5, ⟨[r], 5, 3⟩), (queueNo 0 6, ⟨[r], 5, 999⟩), (queueNo 0 7, ⟨[r], 5, 0⟩), (queueNo 0 8, ⟨[r], 8, 0⟩)] false
    let away := s [(queueNo 3 31, ⟨[r], 31, 0⟩)]
    let c : Core := { runs [] with run := .cancelling, wait := .rtree 1 0 0, wdLimit := 9, us := 9 }
    ((u.core 0).run = .idle ∧ u.fw.ready.getLsbD 7 = true ∧ u.fw.ready.getLsbD 3 = true ∧ u.fw.ready.getLsbD 14 = true ∧
      u.fleet.slpState = 0 ∧ (u.queue 0 7).recs = [r] ∧
      ∀ q < 32, q ≠ 7 → (u.queue 0 q).recs = [] ∨ ranksBefore (u.queue 0 7) (u.queue 0 q) 7 q) ∧
    (∀ sp, ((away sp).queue 3 31).recs = [r] ∧ ((∀ e < 4, ∀ q < 32, e ≠ 3 ∨ q ≠ 31 → ((away sp).queue e q).recs = []) ∧
      (away sp).spOf r = sp)) ∧
    (c.run = .cancelling ∧ c.wdLimit ≠ 0 ∧ c.wdLimit.toNat ≤ c.us ∧ c.wait = .rtree 1 0 0 ∧ ({ c with wait := .no } : Core).wait = .no) := by
  unfold ranksBefore
  refine ⟨⟨by decide +kernel, by decide +kernel, by decide +kernel, by decide +kernel, by decide +kernel, by decide +kernel, ?_⟩, ?_, by decide +kernel⟩
  · decide +kernel
  · intro sp
    cases sp <;> exact ⟨by decide +kernel, by decide +kernel, by decide +kernel⟩

/-- The save image (R351) of a task whose registers are all zero, with nothing under way; `lead` follows the checksum, and is such that the
checksum's register is zero after it. -/
def blank (flags : Byte) (lead : List Byte) : List Byte :=
  [0x5A, 0x53, 0x49, 0, 1, 0, flags, 0, 0xA0, 0x0A, 0, 0, 0xFF, 0xFF, 0xFF, 0xFF] ++ (lead ++ List.replicate (2704 - lead.length) 0)

theorem crc_zeros (n : Nat) : (List.replicate n (0 : Byte)).foldl (crcByte 0x82F63B78) 0 = 0 := by
  induction n with
  | zero => rfl
  | succ n ih => rw [List.replicate_succ, List.foldl_cons, show crcByte 0x82F63B78 0 0 = 0 by decide, ih]

theorem blank_ok (flags : Byte) (lead : List Byte) (h : lead.foldl (crcByte 0x82F63B78) 0xFFFFFFFF = 0) (hl : lead.length ≤ 2704) :
    imageHeadOk (blank flags lead) = true := by
  have hd : (blank flags lead).drop 16 = lead ++ List.replicate (2704 - lead.length) 0 := rfl
  have hn : (blank flags lead).length = 2720 := by simp [blank]; omega
  have hc : crc32c ((blank flags lead).drop 16) = 0xFFFFFFFF := by rw [hd, crc32c, List.foldl_append, h, crc_zeros]; rfl
  rw [imageHeadOk, hn, hc]
  rfl

/-- A saved task whose record is at the head of its queue, with an image that passes its check and with one that fails it. -/
theorem witness_CoresTakeAndReturnTasks_saved :
    let r : ContRec := ⟨5, false, true, 0x40000, 0x5000, 0, 0, 0, 0, 0, 0, 0⟩
    let m := fun (b : List Byte) => (⟨0x5000, 0, 0, b, Vector.replicate 8 none, [], [], [], 0, 0, (none, 0)⟩ : Image)
    let s := fun (b : List Byte) => ({ State.reset with
      fw := { Firmware.reset with ready := 0xFFFF }
      sched := { Sched.reset with queues := [(queueNo 0 5, ⟨[r], 5, 0⟩)], images := [m b] } } : State)
    let b := blank 2 [0xFF, 0xFF, 0xFF, 0xFF]
    (r.rs = true ∧ ((s []).queue 0 5).recs = [r] ∧ ∀ q < 32, q ≠ 5 → ((s []).queue 0 q).recs = []) ∧
    ((s b).imageOf r = some (m b) ∧ imageRope b = none ∧ ((m b).restore ((s b).core 0).fresh (s b).issued).isSome = true) ∧
    ((s []).imageOf r = some (m []) ∧ imageRope [] = none ∧ imageHeadOk [] = false ∧ ((s []).ctx r.ctx).dead = false) := by
  refine ⟨by decide +kernel, ⟨by rfl, by decide +kernel, ?_⟩, by decide +kernel⟩
  simp only [Image.restore, blank_ok 2 [0xFF, 0xFF, 0xFF, 0xFF] (by decide) (by decide)]
  decide +kernel

/-- A rope's group of two at the head of a queue, and the seats 0 and 1 for it. -/
theorem witness_CoresTakeAndReturnTasks_rope :
    let lead : List Byte := [3, 0, 0, 0, 0, 0, 0, 0, 0x1C, 0xCA, 0x93, 0xA8]
    let m := fun (a : Word64) (flags : Byte) => (⟨a, 0, 0, blank flags lead, Vector.replicate 8 none, [], [], [], 0, 0, (none, 0)⟩ : Image)
    let r := fun (a : Word64) => (⟨5, false, true, 0x40000, a, 0, 0, 0, 0, 0, 0, 0⟩ : ContRec)
    let s : State := { State.reset with
      fw := { Firmware.reset with ready := 0xFFFF }
      sched := { Sched.reset with
        queues := [(queueNo 0 5, ⟨[r 0x5000, r 0x6000], 5, 0⟩)], images := [m 0x5000 3, m 0x6000 7] } }
    (∀ q < 32, q ≠ 5 → (s.queue 0 q).recs = []) ∧ (s.queue 0 5).recs.head?.bind s.ropeRec = some 3 ∧
      s.ropeSeats 0 3 = some [0, 1] ∧ s.ropeGroup 3 0 (s.queue 0 5).recs = [(r 0x5000, 0), (r 0x6000, 1)] ∧
      (s.imageOf (r 0x5000) = some (m 0x5000 3) ∧ ((m 0x5000 3).restore (s.core 0).fresh s.issued).isSome = true) ∧
      (s.imageOf (r 0x6000) = some (m 0x6000 7) ∧ ((m 0x6000 7).restore (s.core 0).fresh s.issued).isSome = true) := by
  refine ⟨by decide +kernel, by decide +kernel, by decide +kernel, by decide +kernel, ⟨by rfl, ?_⟩, ⟨by rfl, ?_⟩⟩
  · simp only [Image.restore, blank_ok 3 [3, 0, 0, 0, 0, 0, 0, 0, 0x1C, 0xCA, 0x93, 0xA8] (by decide +kernel) (by decide)]
    decide +kernel
  · simp only [Image.restore, blank_ok 7 [3, 0, 0, 0, 0, 0, 0, 0, 0x1C, 0xCA, 0x93, 0xA8] (by decide +kernel) (by decide)]
    decide +kernel

theorem witness_SavedFormsReadBack : (List.replicate 1024 (7 : Byte)).length = 1024 := List.length_replicate

/-- A queue with one record at 0x50000: launch cairn 9, graph 10, phase 11, job 12, one packet of code at 0x40000, 1 × 1 × 1 tiles. -/
theorem witness_Launches :
    let rec9 := fun (w13 : Nat) => toBytes 8 0x40000 ++ toBytes 8 0 ++ toBytes 8 12 ++ toBytes 8 0 ++ toBytes 8 0 ++
      toBytes 8 (2 ^ 32 + 2 ^ 16 + 1) ++ toBytes 8 5 ++ toBytes 8 0 ++ toBytes 8 0 ++
      toBytes 8 (12 * 2 ^ 48 + 11 * 2 ^ 32 + 10 * 2 ^ 16 + 9) ++ toBytes 8 0 ++ toBytes 8 0 ++ toBytes 8 0 ++ toBytes 8 w13 ++
      toBytes 8 0 ++ toBytes 8 0
    let opened := fun (lvl : BitVec 2) => (⟨false, lvl, 0, .opened, false, false, 0, 0, 0, false, false, false⟩ : Cairn)
    let x : Ctx := { mapped.ctx 0 with sqBase := 0x50000, sqCfg := 2, sqTail := 1 }
    let s := fun (m : State) (w13 : Nat) => ({ m with
      ctxs := [(0, { m.ctx 0 with sqBase := 0x50000, sqCfg := 2, sqTail := 1 })], dram := memWrite m.dram 0x50000 (rec9 w13)
      sched := { Sched.reset with cairns := [(9, opened 0), (10, opened 1), (11, opened 2), (12, opened 3)] } } : State)
    let a := s mapped 0
    let w := fun (b : List Byte) i => natAt b (8 * i) 8
    let runs' := fun (s : State) => (s.ctx 0).cfg.getLsbD 63 = true ∧ (s.ctx 0).dead = false ∧ (s.ctx 0).sqStop = false ∧
      (s.ctx 0).sqHead ≠ (s.ctx 0).sqTail ∧ s.fw.ready.getLsbD 14 = true ∧ s.fleet.slpState.toNat < 2 ∧ s.awaitsMemory 0 0x50000 = false
    let far := { a with ctxs := [(0, { x with sqBase := 2 ^ 40 })] }
    ¬runs' State.reset ∧ runs' a ∧
    ((far.ctx 0).cfg.getLsbD 63 = true ∧ far.awaitsMemory 0 (2 ^ 40) = false ∧ (hxRead far 0 (2 ^ 40) 128).isNone = true) ∧
    ((hxRead a 0 0x50000 128).map fun p => (p.1, decide (p.2.sched = a.sched), decide (p.2.ctx 0 = a.ctx 0))) =
      some (rec9 0, true, true) ∧
    ((recordCairns (w (rec9 0))).all fun d => (a.cairn d).state != .cancelled && !(a.cairn d).cancel) = true ∧
    ((a.cairn 9).state = .opened ∧ (a.cairn 9).ctx = 0 ∧ (a.cairn 9).level = 0 ∧ a.live 9 = none ∧ w (rec9 0) 12 % 2 ^ 9 = 0) ∧
    (recordOk a 0 (w (rec9 0)) (some []) (launchOfRecord 0 (w (rec9 0)) []) = true ∧
      (launchOfRecord 0 (w (rec9 0)) []).deps = []) ∧
    (let l := launchOfRecord 0 (w (rec9 1)) []
     w (rec9 1) 13 ≠ 0 ∧ l.lc ≠ l.gc ∧ l.lc ≠ l.pc ∧ l.lc ≠ l.jc ∧
       ∀ d ∈ [l.gc, l.pc, l.jc], (a.cairn d).ctx = 0 ∧ (a.cairn d).state ≠ .free) ∧
    (let shut := { a with sched := { Sched.reset with cairns := [(9, { opened 0 with state := .closed })] } }
     (shut.cairn 9).state ≠ .opened ∧ (shut.cairn 9).ctx = 0 ∧ (shut.cairn 9).state ≠ .free ∧ runs' shut) := by decide +kernel

/-- A record with a lease table at 0x52000 and a predecessor that has ended, that has failed, and that has been cancelled; its launch
cairn named before; a cairn of it cancelled; and a field of it wrong, or a lease without a permission. -/
theorem witness_Launches_records :
    let record := fun (w2 w6 w7 : Nat) => [0x40000, 0, w2, 0, 0, 2 ^ 32 + 2 ^ 16 + 1, w6, w7, 0, 12 * 2 ^ 48 + 11 * 2 ^ 32 + 10 * 2 ^ 16 + 9,
      0x40000, 0x52000, 1, 0, 0, 0].flatMap (toBytes 8)
    let b := record 12 (2 ^ 63 + 2 ^ 62 + 5) (7 * 2 ^ 32 + 2 ^ 16 + 9)
    let lease := toBytes 8 (2 ^ 62 + 0x40000) ++ toBytes 8 8
    let opened := fun (lvl : BitVec 2) => (⟨false, lvl, 0, .opened, false, false, 0, 0, 0, false, false, false⟩ : Cairn)
    let cairns := [(9, opened 0), (10, opened 1), (11, opened 2), (12, opened 3)]
    let before : Launch := { placedLaunch with lc := 8, gc := 10, node := 7 }
    let s := fun (b tb : List Byte) (x : Launch) (cs : List (Nat × Cairn)) => ({ mapped with
      ctxs := [(0, { mapped.ctx 0 with sqBase := 0x50000, sqCfg := 2, sqTail := 1 })]
      dram := memWrite (memWrite mapped.dram 0x50000 b) 0x52000 tb
      sched := { Sched.reset with launches := [x], cairns := cs } } : State)
    let w := fun (b : List Byte) i => natAt b (8 * i) 8
    let named := fun (s : State) (b : List Byte) => nameCairns (s.setCtx 0 { s.ctx 0 with sqHead := 1 }) 0 (w b)
    let tableOf := fun (s : State) (b : List Byte) => (hxRead (named s b) 0 (w b 11 % 2 ^ 57) 16).map (·.1)
    let good := s b lease before cairns
    let reads := fun (s : State) (b : List Byte) => (hxRead s 0 0x50000 128).map (fun p => (p.1, decide (p.2.sched = s.sched))) = some (b, true)
    let pred := fun (s : State) => s.sched.launches.find? fun y => y.ctx == 0 && y.gc == 10 && !y.past.contains 10 && y.node == 7
    (reads good b ∧ tableOf good b = some lease ∧ goodFields (w b) ∧ goodLease lease (good.ctx 0).pv 0 ∧ w b 12 = 1 ∧
      recordOk good 0 (w b) (some lease) (launchOfRecord 0 (w b) [leaseAt lease 0]) = true ∧ (launchOfRecord 0 (w b) []).deps = [7] ∧
      pred good = some before ∧ before.ended = none ∧ before.isCancelled = false ∧ (good.cairn 9).named = false ∧ good.live 9 = none) ∧
    (pred (s b lease { before with ended := some true } cairns)).map (·.ended) = some (some true) ∧
    (pred (s b lease { before with ended := some false } cairns)).map (·.ended) = some (some false) ∧
    (pred (s b lease { before with phase := .cancelled } cairns)).map (·.isCancelled) = some true ∧
    ((s b lease before [(9, { opened 0 with named := true })]).cairn 9).named = true ∧
    ((s b lease before [(9, opened 0), (11, { opened 2 with state := .cancelled })]).cairn 11).state = .cancelled ∧
    ((s b lease before [(9, opened 0), (12, { opened 3 with cancel := true })]).cairn 12).cancel = true ∧
    (let x := record 12 (2 ^ 60 + 5) (7 * 2 ^ 32 + 2 ^ 16 + 9); reads (s x lease before cairns) x ∧ ¬goodFields (w x)) ∧
    (let x := record 13 5 (7 * 2 ^ 32 + 2 ^ 16 + 9); reads (s x lease before cairns) x ∧ ¬goodFields (w x)) ∧
    (let tb := toBytes 8 0x40000 ++ toBytes 8 8; tableOf (s b tb before cairns) b = some tb ∧ ¬goodLease tb (good.ctx 0).pv 0) ∧
    (tableOf (s b lease before cairns) b = some lease ∧ ¬∃ x, inGraph (s b lease before cairns) 0 10 x ∧ x.node = 6) := by
  refine ⟨⟨by decide +kernel, by decide +kernel, by unfold goodFields; decide +kernel, by unfold goodLease; decide +kernel, by decide +kernel,
    by decide +kernel, by decide +kernel, by decide +kernel, by decide +kernel, by decide +kernel, by decide +kernel, by decide +kernel⟩,
    by decide +kernel, by decide +kernel, by decide +kernel, by decide +kernel, by decide +kernel, by decide +kernel,
    ⟨by decide +kernel, by unfold goodFields; decide +kernel⟩, ⟨by decide +kernel, by unfold goodFields; decide +kernel⟩,
    ⟨by decide +kernel, by unfold goodLease; decide +kernel⟩, by decide +kernel, ?_⟩
  rintro ⟨x, hx, hn⟩
  simp [inGraph] at hx
  obtain ⟨rfl, -⟩ := hx
  exact absurd hn (by decide)

/-- A launch that is resident, one whose container, without bodies, is to be finalised, one that it fails, and a cairn to cancel. -/
theorem witness_Launches_progress :
    let l := { placedLaunch with lc := 9, gc := 10, pc := 11, jc := 12, phase := .residency 0 0 false, started := false }
    let z := { l with isZpf := true, cbase := 0x50000, clen := 64 }
    let sec := fun (t : Nat) => toBytes 4 t ++ toBytes 4 0 ++ toBytes 4 0 ++ toBytes 4 0
    let form := toBytes 4 0x0046505A ++ toBytes 2 1 ++ toBytes 2 3 ++ toBytes 8 0 ++ sec 1 ++ sec 2 ++ sec 3
    let s := fun (l : Launch) (m : List Byte) => ({ mapped with
      dram := memWrite mapped.dram 0x50000 m
      sched := { Sched.reset with launches := [l], cairns := [(9, ⟨false, 0, 0, .opened, false, false, 0, 0, 0, false, false, true⟩)] } } : State)
    let c : State := { mapped with sched := { Sched.reset with cairns := [(9, ⟨false, 0, 0, .opened, false, false, 0, 0, 0, true, false, false⟩)] } }
    ((s l []).progress.live 9 = some l ∧ l.isResident = true ∧ l.isFinalised = true ∧ (s l []).progress.isHeld l = false ∧
      (s l []).progress.fleet.slpState.toNat < 2 ∧ l.cairns.Nodup) ∧ mapped.progress.live 9 = none ∧
    ((s z form).live 9 = some z ∧ z.isZpf = true ∧ z.isResident = true ∧ z.isFinalised = false ∧ (s z form).fw.ready.getLsbD 15 = true) ∧
    (((hxRead (s z form) 0 0x50000 64).map fun p => (p.1, decide (p.2.sched = (s z form).sched))) = some (form, true) ∧
      (finaliseZpf form 0).isSome = true ∧ (finaliseZpf (List.replicate 64 0) 0).isNone = true) ∧
    (hxRead (s { z with cbase := 2 ^ 40 } form) 0 (2 ^ 40) 64).isNone = true ∧ mapped.live 9 = none ∧ mapped.fleet.slpState.toNat < 2 ∧
    (let n := { l with phase := .waiting }
     (s n []).live 9 = some n ∧ n.cond = false ∧ n.leases = []) ∧
    (mapped.cancelReady 9 = false ∧ c.cancelReady 9 = true) := by decide +kernel

theorem witness_CairnsAndContexts :
    let cairn := fun (st : CairnState) => (⟨false, 0, 0, st, false, false, 0, 0, 0, false, false, false⟩ : Cairn)
    let s := fun (st : CairnState) => ({ mapped with sched := { Sched.reset with cairns := [(9, cairn st)] } } : State)
    let x := fun (dead drain : Bool) => ({ mapped with ctxs := [(0, { mapped.ctx 0 with dead := dead, drain := drain })] } : State)
    let stop : TrapRec := ⟨22, 0, 0, false, 0, 0, 0, [], 0, 0, 7, 0, []⟩
    let e : ElemWait := ⟨⟨0, 0, 0, 0, 0, true⟩, false, [⟨0, 0, 8, false⟩], []⟩
    let hang := fun (n : Nat) => card { runs [] with run := .stopping stop, stopUs := n, elems := [e] }
    (mapped.fw.ready.getLsbD 14 = true ∧ (mapped.cairn 9).state = .free ∧ (mapped.ctx (BitVec.ofNat 6 ((0 : Word64).toNat / 2 ^ 54))).cfg.getLsbD 63 = true) ∧
    (State.reset.fw.ready.getLsbD 14 = false ∧ (State.reset.ctx 0).cfg.getLsbD 63 = false ∧ (s .opened |>.cairn 9).state = .opened) ∧
    ((s .complete |>.cairn 9).state = .complete ∧ (s .cancelled |>.cairn 9).state = .cancelled ∧
      ((s .opened |>.cairn 9).exp = 0 ∧ (s .opened |>.cairn 9).named = false)) ∧
    ((s .opened).ctx (s .opened |>.cairn 9).ctx).cfg.getLsbD 63 = true ∧
    (mapped.fw.ready.getLsbD 1 = true ∧ (mapped.ctx 0).dead = false ∧ ((x true true).ctx 0).dead = true ∧
      State.reset.fw.ready.getLsbD 1 = false) ∧
    (((x true true).ctx 0).drain = true ∧ (x true true).draining 0 = false) ∧
    ((hang 100000).core 0).run = .stopping stop ∧ (max (hang 100000).sched.wdStop.toNat 1 ≤ ((hang 100000).core 0).stopUs ∧
      ((hang 100000).core 0).elems ≠ [] ∧ ((hang 100000).ctx ((hang 100000).core 0).task.ctx).dead = false) ∧
    ((hang 99999).core 0).stopUs < max (hang 99999).sched.wdStop.toNat 1 ∧
    (((card (runs [])).core 0).run = .running ∧ (State.reset.core 0).run = .idle) := by decide +kernel

/-! ## The host port, translation, peers -/

/-- An aperture at the bottom of the window: 2 MiB, writable, into context 0's memory or core 0's scratch. -/
def aperture (scratch : Bool) : Aperture :=
  ⟨BitVec.ofNat 64 (2 ^ 63 + (if scratch then 2 ^ 62 else 0) + 2 ^ 61), 0, 0x200000, 0⟩

theorem witness_HostRequests :
    let idle := { mapped with ctxs := [(0, { mapped.ctx 0 with cfg := 0 })] }
    let with' := fun (x : Ctx) => ({ mapped with ctxs := [(0, x)] } : State)
    let x := { mapped.ctx 0 with sqCfg := 2 }
    let ap := fun (a : Aperture) (k : Core) => ({ mapped with cores := [(0, k)], ports := { mapped.ports with apertures := mapped.ports.apertures.set 0 a } } : State)
    let dead := { ap (aperture false) Core.reset with ctxs := [(0, { mapped.ctx 0 with dead := true })] }
    let bad := { ap (aperture false) Core.reset with poison := [0] }
    let asleep := { mapped with fleet := { Fleet.reset with slpState := 2 } }
    -- the MSI-X table: the last vector masked, as a reset leaves it, and not masked
    ((memGet State.reset.ports.msix (16 * 71 + 12)).getLsbD 0 = true ∧
      ({ mapped with ports := { Ports.reset with msix := [] } } : State).ports.msix = [] ∧ (memGet [] (16 * 71 + 12)).getLsbD 0 = false) ∧
    -- ctx.cfg: enabling with 4 slots, disabling, and a change of pasid while enabled
    (mapped.fw.ready.getLsbD 14 = true ∧ ((with' { x with cfg := 0 }).ctx 0).cfg.getLsbD 63 = false ∧
      (with' x).pasidTaken 0 0 = false ∧ 4 ≤ 2 ^ (x.sqCfg.toNat % 2 ^ 5) ∧ 2 ^ (x.sqCfg.toNat % 2 ^ 5) ≤ 65536) ∧
    ((with' x).ctxHolds 0 = false ∧ (0 : Word64).getLsbD 63 = false ∧ (x.cfg.getLsbD 63 = true ∧ (5 : Word64).toNat % 2 ^ 20 ≠ x.cfg.toNat % 2 ^ 20)) ∧
    -- sq.tail
    (x.cfg.getLsbD 63 = true ∧ x.sqStop = false ∧ x.dead = false ∧ (with' x).healthState ≠ 2 ∧ (idle.ctx 0).cfg.getLsbD 63 = false) ∧
    (2 ^ 31 ≤ ((0x80000000 : BitVec 32) - x.sqTail).toNat ∧ ((5 : BitVec 32) - x.sqTail).toNat < 2 ^ 31 ∧
      2 ^ (x.sqCfg.toNat % 2 ^ 5) < ((5 : BitVec 32) - x.sqHead).toNat ∧ ((4 : BitVec 32) - x.sqHead).toNat ≤ 2 ^ (x.sqCfg.toNat % 2 ^ 5)) ∧
    (mapped.fleet.slpState ≠ 1 ∧ asleep.fleet.slpState = 2) ∧
    (mapped.fw.ready.getLsbD 1 = true ∧ (mapped.ctx (BitVec.ofNat 6 ((2 ^ 63 : Word64).toNat / 2 ^ 48))).cfg.getLsbD 63 = true) ∧
    -- inbound accesses
    (0 < 1 ∧ (4095 : BitVec 39).toNat % 4096 + 1 ≤ 4096 ∧ 4096 < (4095 : BitVec 39).toNat % 4096 + 2) ∧
    ((ap (aperture false) Core.reset).apertureAt 0x1FFFFF = some (aperture false, 0x1FFFFF) ∧
      (ap (aperture false) Core.reset).apertureAt 0x200000 = none) ∧
    ((dead.ctx 0).dead = true ∧ dead.apertureAt 0 = some (aperture false, 0)) ∧
    ((aperture true).cfg.getLsbD 62 = true ∧ (aperture true).cfg.getLsbD 61 = true ∧ 0x3FFFF + 1 ≤ 0x40000 ∧
      ((ap (aperture true) (runs [])).core 0).run = .running ∧ ((ap (aperture true) (runs [])).core 0).task.ctx = 0) ∧
    ((ap (aperture true) Core.reset).core 0).run = .idle ∧
    ((aperture false).cfg.getLsbD 62 = false ∧ mapped.devPieces 0 0x40000000 1 false = none ∧
      ((mapped.devPieces 0 0x3FFFFFFF 1 false).map fun l => l.map fun p => (p.2.1, p.2.2, p.1.pa p.2.1, decide (p.1.ea = heldAt))) =
        some [(0x3FFFFFFF, 1, 0x3FFFFFFF, false)] ∧ (mapped.devPieces 0 0x3FFFFFFF 1 true).isSome = true ∧
      mapped.poisoned 0x3FFFFFFF 1 = false ∧ bad.poisoned 0 1 = true ∧ (bad.devPieces 0 0 1 false).isSome = true) ∧
    ({ aperture false with cfg := 2 ^ 63 } : Aperture).cfg.getLsbD 61 = false ∧ unwatched mapped 0 := by
  refine ⟨?_, ?_, ?_, ?_, ?_, ?_, ?_, ?_, ?_, ?_, ?_, ?_, ?_, ?_, ?_⟩ <;> first | decide +kernel | (unfold unwatched; decide +kernel)

theorem witness_HostAnswers :
    let t := fun (p : CopyPhase) (sent : List Sent) => { tagOf (.cpy 64) ownEnd devEnd p [] with sent := sent }
    let who : Waiter := .tag 0 5
    let s := fun (t : Tag) (p : Ports) => ({ mapped with cores := [(0, { runs [] with tags := [(5, some t)] })], ports := p } : State)
    let reads := fun (w : Waiter) => ({ Ports.reset with reads := [⟨7, 0, w⟩] } : Ports)
    let ask := fun (since : List (Nat × Nat)) => (⟨7, 0, 1, true, true, who, since⟩ : AtsReq)
    let ats := fun (since : List (Nat × Nat)) => ({ Ports.reset with ats := [ask since] } : Ports)
    let prgs := { Ports.reset with prgs := [⟨some 3, 0, 1, true, false, who⟩] }
    let dying := fun (p : Ports) => ({ s (t .issued []) p with ctxs := [(0, { mapped.ctx 0 with dead := true })] } : State)
    -- a read's answer: for nothing, for a dead context, for its fault ring, for a copy, for a flush, for a DRAIN
    (∀ r ∈ mapped.ports.reads, r.req ≠ 7) ∧ ((dying (reads who)).ctx 0).dead = true ∧
    ((reads who).reads.find? (·.req == 7) = some ⟨7, 0, who⟩ ∧ (∀ n, who ≠ .ring n) ∧
      (reads (.ring 0)).reads.find? (·.req == 7) = some ⟨7, 0, .ring 0⟩ ∧
      ((s (t .moving [⟨7, 0, 64, false⟩]) (reads who)).ctx 0).dead = false ∧
      ((s (t .moving [⟨7, 0, 64, false⟩]) (reads who)).core 0).tag 5 = some (t .moving [⟨7, 0, 64, false⟩]) ∧
      (t .moving [⟨7, 0, 64, false⟩]).phase ≠ .flushing 7 ∧
      (t .moving [⟨7, 0, 64, false⟩]).sent.find? (·.req == 7) = some ⟨7, 0, 64, false⟩) ∧
    ((s (t (.flushing 7) []) (reads who)).core 0).tag 5 = some (t (.flushing 7) []) ∧
    (reads (.drain 0 3)).reads.find? (·.req == 7) = some ⟨7, 0, .drain 0 3⟩ ∧
    -- a translation: for nothing, for a dead context, after an invalidate of its last or of other pages, granted or refused
    (∀ a ∈ mapped.ports.ats, a.req ≠ 7) ∧ (ats []).ats.find? (·.req == 7) = some (ask []) ∧ ((dying (ats [])).ctx 0).dead = true ∧
    (∃ x ∈ (ask [(511, 511)]).since, x.1 ≤ 1 / 512 * 512 + 512 - 1 ∧ 1 / 512 * 512 ≤ x.2) ∧
    (∀ x ∈ (ask [(512, 600)]).since, ¬(x.1 ≤ 1 / 512 * 512 + 512 - 1 ∧ 1 / 512 * 512 ≤ x.2)) ∧
    ((s (t .issued []) (ats [])).ctx 0).dead = false ∧ (ats []).priOn = true ∧
    (((s (t .issued []) { ats [] with priOn := false }).core 0).tag 5 = some (t .issued []) ∧ (t .issued []).phase = .issued) ∧
    -- a page request's answer: for nothing, for a copy, for a dead context
    ((∀ p ∈ mapped.ports.prgs, p.idx ≠ some 3) ∧ prgs.prgs.find? (·.idx == some 3) = some ⟨some 3, 0, 1, true, false, who⟩ ∧
      (∀ p ∈ prgs.prgs, ∃ j m, p.who = .tag j m) ∧ ((s (t .issued []) prgs).ctx 0).dead = false ∧ ((dying prgs).ctx 0).dead = true) ∧
    -- an invalidate: the 33rd, of no context, of context 0; one that is still in use, and one that is not
    (32 ≤ (List.replicate 32 (⟨0, none, 0, 0, [], []⟩ : AtsInv)).length ∧ mapped.ports.invs.length < 32 ∧ mapped.ctxOfPasid 5 = none ∧
      ({ mapped with ctxs := [(0, { mapped.ctx 0 with cfg := 0xA000000000000005 })] } : State).ctxOfPasid 5 = some 0) ∧
    (mapped.ports.invs = [] ∧ (s (t .issued []) Ports.reset).stillUses (.tag 0 5 1) = true ∧
      (s (t .finished []) Ports.reset).stillUses (.tag 0 5 1) = false) := by
  refine ⟨by decide +kernel, by decide +kernel, ⟨by decide, ?_, ?_⟩, ?_⟩
  · intro n; exact nofun
  · decide +kernel
  refine ⟨by decide +kernel, by decide, by decide +kernel, by decide, by decide +kernel, by decide, by decide, by decide +kernel, by decide,
    by decide +kernel, ⟨by decide +kernel, by decide, ?_, by decide +kernel⟩, by decide +kernel, by decide +kernel⟩
  intro p hp
  exact ⟨0, 5, by rw [List.mem_singleton.mp hp]⟩

/-- A translation of page 1 by a grant of 512 pages, while an invalidate of context 0 is not yet completed: of the grant's last page,
of the page after it, and of that last page in another context. -/
theorem witness_HostAnswers_pending :
    let a : AtsReq := ⟨7, 0, 1, true, true, .tag 0 5, []⟩
    let s := fun (n : CtxId) (p : Nat) => ({ mapped with ports := { Ports.reset with
      ats := [a], invs := [⟨3, some n, p, p, [.tag 0 5 1], []⟩] } } : State)
    let meets := fun (lo hi : Nat) => lo ≤ 1 / 512 * 512 + 512 - 1 ∧ 1 / 512 * 512 ≤ hi
    (∀ n p, (s n p).ports.ats.find? (·.req == 7) = some a) ∧ ((s 0 0).ctx a.ctx).dead = false ∧ a.since = [] ∧
    (∃ x ∈ (s 0 511).ports.invs, x.ctx = some a.ctx ∧ meets x.lo x.hi) ∧
    (∀ x ∈ (s 0 512).ports.invs, x.ctx = some a.ctx → ¬meets x.lo x.hi) ∧
    (∀ x ∈ (s 1 511).ports.invs, x.ctx = some a.ctx → ¬meets x.lo x.hi) :=
  ⟨fun _ _ => rfl, by decide +kernel, rfl, by decide +kernel, by decide +kernel, by decide +kernel⟩

/-- Some slot is free while none is held, whichever it is. -/
theorem free_slot_of_none (s : State) (h : s.slots = []) : s.freeSlot.isSome = true := by
  simp [State.freeSlot, freeSlotFrom, h, State.slot, tabGet, slotCount]

theorem witness_TranslationCommands :
    let s := { mapped with vm := { Vm.reset with base := 0x50000, npg := 1 } }
    let lo := 0x50
    let run : BitVec 2 → VmRun := fun op => ⟨op, 0, lo, lo, [], none, none, none⟩
    let on := fun (r : VmRun) (m : Mem) => ({ mapped with vm := { Vm.reset with busy := some r }, dram := m } : State)
    -- the page 0x50 with a leaf of its own below the table at 0x13000
    let table := fun (e : Nat) => memWrite (memWrite (memWrite mapped.dram 0x12000 (toBytes 8 (tableEntry 0x13))) 0x13000
      (toBytes 8 (tableEntry 0x14))) 0x14280 (toBytes 8 e)
    let dev := leafWith 2 0x60 leafEntry
    let flash := leafWith 3 9 leafEntry
    let peer := leafWith 4 0 leafEntry
    let held := fun (r : VmRun) => ({ on r (table flash) with slots := [(9, some ⟨false, 0, lo, [], []⟩)], vm := { Vm.reset with busy := some r, free := [(0, [0x70])] } } : State)
    let entry := fun (s : State) => (s.walk 0 (lo * 4096)).map fun f => (pteType f.e, f.lvl)
    let user := fun (p : CopyPhase) => ({ mapped with cores := [(0, { runs [] with tags := [(5, some (tagOf (.cpy 64) ownEnd devEnd p []))] })] } : State)
    (State.reset.fw.ready.getLsbD 1 = false ∧ (on (run 1) []).vm.busy ≠ none) ∧
    (mapped.fw.ready.getLsbD 1 = true ∧ mapped.vm.busy = none ∧ mapped.vm.npg.toNat = 0) ∧
    (s.vm.npg.toNat ≠ 0 ∧ canonical ((lo * 4096 : Nat) : Int) (1 * 4096) = true) ∧
    2 ≤ ({ on (run 1) [] with fleet := { Fleet.reset with slpState := 2 } } : State).fleet.slpState.toNat ∧
    ((run 1).st = none ∧ (run 1).lo ≤ (run 1).hi ∧ (run 1).frame = none ∧ mapped.fw.ready.getLsbD 11 = true ∧
      mapped.fleet.slpState.toNat < 2) ∧
    (entry (on (run 1) (table dev)) = some (2, 0) ∧ (on (run 1) (table dev)).pinned 0 lo = false ∧
      (on (run 1) (table dev)).migrating 0 lo = false ∧
      ({ on (run 1) (table dev) with sched := { Sched.reset with migs := [⟨0, 0, 0, 0, [], none⟩] } } : State).migrating 0 lo = true) ∧
    entry (on (run 1) (table flash)) = some (3, 0) ∧ entry (on (run 1) (table peer)) = some (4, 0) ∧ entry (on (run 1) (table 0)) = none ∧
    ((held (run 2)).slot (pteSlot flash) = some ⟨false, 0, lo, [], []⟩ ∧ (held (run 2)).freeList (pteDie flash) ≠ [] ∧
      (held (run 2)).fw.ready.getLsbD (3 + pteDie flash) = true ∧ Memory.wf (held (run 2)).dram = true) ∧
    ((on (run 2) (table flash)).freeList (pteDie flash) = [] ∧ (on (run 2) (table flash)).slot (pteSlot flash) = none) ∧
    ({ on (run 2) (table flash) with fw := { Firmware.reset with ready := 0x7FF } } : State).fw.ready.getLsbD 11 = false ∧
    ((on { run 1 with frame := some 0x60 } []).vm.busy = some { run 1 with frame := some 0x60 } ∧ mapped.vm.ret.length < 65535) ∧
    ((user .moving).stillUses (.tag 0 5 1) = true ∧ (user .finished).stillUses (.tag 0 5 1) = false) ∧
    ((on { run 1 with st := some 2 } []).vm.busy = some { run 1 with st := some 2 } ∧ (on (run 0) []).vm.busy = some (run 0)) ∧
    ({ run 1 with lo := lo + 1 }).hi < ({ run 1 with lo := lo + 1 }).lo ∧
    (homeDie (0x60 * 4096) = 0 ∧ frameRefused mapped.fw.ready (0x60 * 4096) = false ∧ (mapped.freeList 0).length < 65535 ∧
      frameRefused State.reset.fw.ready (0x60 * 4096) = true) ∧
    (mapped.vm.ret = [] ∧ ({ Vm.reset with ret := [3] } : Vm).ret ≠ []) := by decide +kernel

/-- A page-out that has copied its page to slot 9 from a leaf at 0x14280, which still has the value read, and which has been replaced. -/
theorem witness_TranslationCommands_taken :
    let e := leafWith 2 0x60 leafEntry
    let r : VmRun := ⟨1, 0, 0x50, 0x50, [], none, none, some (9, 0x14280, e)⟩
    let s := fun (w : Nat) => ({ mapped with vm := { Vm.reset with busy := some r }, dram := memWrite mapped.dram 0x14280 (toBytes 8 w) } : State)
    (∀ w, (s w).vm.busy = some r) ∧ r.st = none ∧ r.lo ≤ r.hi ∧ r.frame = none ∧ (s e).fleet.slpState.toNat < 2 ∧ r.op = 1 ∧
      r.taken = some (9, 0x14280, e) ∧ memNat (s e).dram 0x14280 8 = e ∧ memNat (s 0).dram 0x14280 8 ≠ e :=
  ⟨fun _ => rfl, rfl, by decide, rfl, by decide +kernel, rfl, rfl, by decide +kernel, by decide +kernel⟩

theorem witness_TranslationCommands_slot : ∃ i, mapped.freeSlot = some i :=
  Option.isSome_iff_exists.mp (free_slot_of_none mapped (by decide +kernel))

/-- A flit with the check its header and payload give. -/
def checked (f : PeerFlit) : PeerFlit := { f with crc := BitVec.ofNat 64 (crc64 (toBytes 8 (flitHeader f) ++ f.payload)) }

/-- A flit of a channel that the port `bound` expects, with the first payload of a message. -/
def carrying (vc : BitVec 2) (m : PeerMsg) : PeerFlit := checked ⟨9, 0, 0, vc, 0, 0, (msgPayloads m).headD [], 0⟩

/-- The card with a peer port 1. -/
def linked (p : Peer) : State := { mapped with ports := { Ports.reset with peers := Ports.reset.peers.set 1 p } }

set_option maxRecDepth 100000 in
/-- Flits that the port expects and ones it does not: control flits, with a request that waits for a credit, and the first flit of a
message that needs a second. -/
theorem witness_PeerLinks :
    let pt := (1 : BitVec 1) == 1
    let zeros : List Byte := List.replicate 240 0
    let flit : PeerFlit := checked ⟨9, 0, 1, 2, 1, 0, zeros, 0⟩
    let first := carrying 0 (.command 3 0 4 0 (.write 0 (List.replicate 193 7)))
    let later := carrying 1 (.response 3 .ok (List.replicate 193 7))
    let wait := { bound with reqOut := [zeros] }
    (wellSized (.response 3 .ok (List.replicate 4096 0)) ∧ wellSized (.command 3 0 4 0 (.read 0 4096))) ∧
    ((linked Peer.reset).peer pt).up = false ∧ ((linked bound).peer pt).up = true ∧
    (flitOk flit = true ∧ flit.fseq = ((linked bound).peer pt).expect ∧ flit.fseq ≠ ((linked { bound with expect := 8 }).peer pt).expect ∧
      flitOk { flit with crc := flit.crc + 1 } = false) ∧
    (((linked { bound with nakSent := true }).peer pt).nakSent = true ∧ bound.nakSent = false ∧ clearPort bound) ∧
    ((linked bound).sched.ringOut = [] ∧ 2 ≤ flit.vc.toNat ∧ flit.ak = 1) ∧
    (wait.rspOut = [] ∧ wait.reqOut = [zeros] ∧ wait.replay.length + 1 < 512 ∧ zeros.length = 240 ∧
      0 < wait.reqCredits + flit.reqCredits.toNat ∧
      ¬0 < ({ wait with reqCredits := 0 } : Peer).reqCredits + ({ flit with reqCredits := 0 } : PeerFlit).reqCredits.toNat) ∧
    (flitOk first = true ∧ first.fseq = bound.expect ∧ first.ak = 0 ∧ first.vc = 0 ∧
      (bound.rxReq ++ first.payload).length < 48 + msgData (bound.rxReq ++ first.payload)) ∧
    (flitOk later = true ∧ later.fseq = bound.expect ∧ later.ak = 0 ∧ later.vc = 1 ∧
      (bound.rxRsp ++ later.payload).length < 48 + msgData (bound.rxRsp ++ later.payload)) := by
  refine ⟨⟨?_, ?_⟩, ?_, ?_, ?_, ⟨?_, ?_, ?_⟩, ?_, ?_, ?_, ?_⟩ <;>
    first | decide +kernel | (unfold wellSized; decide +kernel) | (unfold clearPort; decide +kernel)

/-- A table with a leaf of its own for the page 0x50, which the first flit's far context names. -/
def leafAt50 (e : Nat) : Mem :=
  memWrite (memWrite (memWrite mapped.dram 0x12000 (toBytes 8 (tableEntry 0x13))) 0x13000 (toBytes 8 (tableEntry 0x14))) 0x14280
    (toBytes 8 e)

set_option maxRecDepth 100000 in
/-- Commands of the far card: answered before, of a context not bound here, of a dead one; reads, writes and atoms of a page that is
not mapped, of one without the permission, of one with it, poisoned or not, and of a host leaf. -/
theorem witness_PeerLinks_commands :
    let pt := (1 : BitVec 1) == 1
    let cmd := fun (far : CtxId) (op : PeerOp) => carrying 0 (.command 3 0 4 far op)
    let takes := fun (f : PeerFlit) (far : CtxId) (op : PeerOp) => flitOk f = true ∧ f.fseq = bound.expect ∧ f.ak = 0 ∧ f.vc = 0 ∧
      48 + msgData f.payload ≤ 240 ∧ msgOf f.payload = .command 3 0 4 far op
    let read : PeerOp := .read 0x50FFF 1
    let write : PeerOp := .write 0x50FFF [7]
    let atom : PeerOp := .atom 0x50FF8 0 8 1 0
    let told : PeerMsg := .response 3 .ok []
    let live := fun (m : PeerKept) => decide ((m.cseq - 0).toNat < 2 ^ 31)
    let leaf := fun (e : Nat) => ({ linked bound with dram := leafAt50 e } : State)
    let seen := fun (s : State) (va : Nat) => (s.campLeaf 0 va).map fun f => (pteType f.e, pteR f.e, pteW f.e, f.pa va, decide (f.ea = heldAt))
    (takes (cmd 0 read) 0 read ∧ takes (cmd 1 read) 1 read ∧ takes (cmd 0 write) 0 write ∧ takes (cmd 0 atom) 0 atom) ∧
    (((linked bound).peer pt).rxReq = [] ∧ clearPort bound ∧ (linked bound).sched.ringOut = [] ∧
      0 < bound.rspCredits + (cmd 0 read).rspCredits.toNat ∧ bound.kept.find? (fun m => live m && m.cseq == 3) = none) ∧
    (({ bound with kept := [⟨3, told⟩] } : Peer).kept.find? (fun m => live m && m.cseq == 3) = some ⟨3, told⟩ ∧
      (msgPayloads told).length = 1) ∧
    (((linked bound).peer pt).far 0 = some 4 ∧ ((linked bound).peer pt).far 1 ≠ some 4) ∧
    (((linked bound).ctx 0).dead = false ∧
      (({ linked bound with ctxs := [(0, { mapped.ctx 0 with dead := true })] } : State).ctx 0).dead = true) ∧
    (0 < 1 ∧ (0x50FFF : BitVec 57).toNat % 4096 + 1 ≤ 4096 ∧ (0x50FF8 : BitVec 57).toNat % 8 = 0 ∧ unwatched (linked bound) 0) ∧
    seen (leaf 0) 0x50FFF = none ∧ seen (leaf (leafWith 4 0 leafEntry)) 0x50FFF = some (4, true, true, 0xFFF, false) ∧
    seen (leaf (leafWith 2 0x60 leafEntry)) 0x50FFF = some (2, true, true, 0x60FFF, false) ∧
    seen (leaf (leafWith 2 0x60 leafEntry - 2 ^ 60 - 2 ^ 59)) 0x50FFF = some (2, false, false, 0x60FFF, false) ∧
    ((seen { leaf (leafWith 5 0 leafEntry) with ctxs := [(0, { mapped.ctx 0 with cfg := 0xA000000000000005 })] } 0x50FF8).map fun x => (x.1, x.2.1, x.2.2.1)) = some (5, true, true) ∧
    ((linked bound).poisoned 0x60FFF 1 = false ∧ ({ linked bound with poison := [0x60FC0 / 64] } : State).poisoned 0x60FFF 1 = true) ∧
    (linked bound).fleet.slpState ≠ 1 := by
  refine ⟨⟨?_, ?_, ?_, ?_⟩, ⟨?_, ?_, ?_⟩, ?_, ?_, ?_, ⟨?_, ?_, ?_, ?_⟩, ?_, ?_, ?_, ?_, ?_, ?_, ?_⟩ <;>
    first | decide +kernel | (unfold clearPort; decide +kernel) | (unfold unwatched; decide +kernel)

set_option maxRecDepth 100000 in
/-- A response with the bytes of a read, one short of a byte, and one that reports a fault; timeouts, a link that comes up with a
command waiting, and a port that fails. -/
theorem witness_PeerLinks_answers :
    let pt := (1 : BitVec 1) == 1
    let t := { tagOf (.cpy 64) ownEnd devEnd .moving [] with sent := [⟨7, 0, 64, false⟩] }
    let c : PeerCmd := ⟨3, 1000, 7, 0, 4, .read 0 64, .tag 0 5⟩
    let s := fun (p : Peer) => { linked p with cores := [(0, { runs [] with tags := [(5, some t)] })] }
    let up := s { bound with waiting := [c] }
    let down := { Peer.reset with waiting := [c], downUs := 100000 }
    let data : List Byte := List.replicate 64 7
    let rsp := fun st d => carrying 1 (.response 3 st d)
    let gives := fun (f : PeerFlit) (st : PeerStatus) (d : List Byte) => flitOk f = true ∧ f.fseq = bound.expect ∧ f.ak = 0 ∧ f.vc = 1 ∧
      48 + msgData f.payload ≤ 240 ∧ msgOf f.payload = .response 3 st d
    (gives (rsp .ok data) .ok data ∧ gives (rsp .ok [7]) .ok [7] ∧ gives (rsp .poison []) .poison [] ∧ data.length = 64) ∧
    ((up.peer pt).rxRsp = [] ∧ (up.peer pt).waiting.find? (·.cseq == 3) = some c ∧ (up.ctx c.ctx).dead = false ∧
      (up.core 0).tag (5 : BitVec 7).toNat = some t ∧ t.sent.find? (·.req == c.req) = some ⟨7, 0, 64, false⟩ ∧
      up.sched.ringOut = []) ∧
    (let again := { bound with sinceAck := 4, replay := [carrying 2 (.response 3 .ok [])] }
     again.up = true ∧ 4 ≤ again.sinceAck ∧ again.replay ≠ [] ∧ again.resends < 8 ∧ 8 ≤ ({ again with resends := 8 } : Peer).resends ∧
       bound.replay = []) ∧
    ((∀ c ∈ bound.waiting, c.cseq ≠ 3) ∧ 1000 ≤ c.us ∧ ({ c with us := 999 } : PeerCmd).us < 1000 ∧ clearPort (up.peer pt) ∧
      0 < (up.peer pt).reqCredits ∧
      (msgPayloads (.command c.cseq (up.peer pt).lowWater c.ctx c.far c.op)).length = 1) ∧
    (Peer.reset.up = false ∧ Peer.reset.failed = false ∧ mapped.fw.ready.getLsbD (12 + (1 : BitVec 1).toNat) = true ∧
      State.reset.fw.ready.getLsbD (12 + (1 : BitVec 1).toNat) = false ∧ Peer.reset.waiting = [] ∧
      (msgPayloads (.command c.cseq c.cseq c.ctx c.far c.op)).length = 1) ∧
    (Peer.reset.downUs < 100000 ∧ 100000 ≤ down.downUs ∧ down.waiting = [c] ∧ ∃ x ∈ t.sent, x.req = c.req) ∧
    (({ Peer.reset with failed := true } : Peer).failed = true) := by
  refine ⟨⟨?_, ?_, ?_, ?_⟩, ?_, ?_, ⟨?_, ?_, ?_, ?_, ?_⟩, ?_, ?_, ?_⟩ <;>
    first | decide +kernel | (unfold clearPort; decide +kernel)

/-! ## Firmware, sleep, registers, steps -/

/-- The clauses on an image that passes its checks hold of the images that the vendor's key signs: that key is an opaque constant,
so none is written out here. -/
theorem witness_FirmwareAndIdentity :
    let fw := fun (f : Firmware) => ({ State.reset with fw := f } : State)
    let up := { Firmware.reset with ready := 0xFFFF, state := 1 }
    ((State.reset.boot 0).ended = false ∧ (State.reset.boot 0).skip = false ∧ State.reset.mayRun (0 : BitVec 4).toNat = true ∧
      State.reset.fleet.slpState ≠ 2) ∧ State.reset.mayRun (1 : BitVec 4).toNat = false ∧
    (fw { up with recBusy := true }).fw.recBusy = true ∧ (State.reset.fw.recBusy = false ∧ State.reset.fw.state ≠ 2) ∧
    (fw { up with state := 2 }).fw.state = 2 ∧ hostImageWhy [] 0 0 ≠ 0 ∧
    (State.reset.fw.ready.getLsbD 1 = false ∧ (fw up).fw.ready.getLsbD 1 = true) ∧
    (((fw up).fw.state = 1 ∨ (fw up).fw.state = 3) ∧ (fw up).fw.ready.getLsbD 11 = true ∧ (fw up).fw.updBusy = false) ∧
    (let b : List Byte := [0, 0]
     (fw { up with nand := some b }).fw.nand = some b ∧ (fw up).fw.svn.toNat ≤ (imageSvn b).toNat) ∧
    (fw { up with state := 3 }).fw.state ≠ 1 ∧
    ((fw { up with updBusy := true }).fw.updBusy = true ∧ (fw { up with updBusy := true }).fw.updWrite = none ∧
      (fw { up with updBusy := true, updWrite := some [7] }).fw.updWrite = some [7]) ∧
    ((⟨some [], true⟩ : UpdResult).image = some [] ∧ (⟨none, false⟩ : UpdResult).image = none) ∧
    (State.reset.fw.ready.getLsbD 2 = false ∧ (fw up).fw.ready.getLsbD 2 = true ∧ (1 : BitVec 8) ≠ 0 ∧ (6 : BitVec 8).toNat > 5 ∧
      (254 : BitVec 8) ≠ 255) := by decide +kernel

/-- Sleep and the power manager: an entry with and without its tasks, in and out of its time, a wake, and measurements that come
about, that come too early, and that the cap does not let come. -/
theorem witness_FleetAndRegisters :
    let fl := fun (f : Fleet) => ({ mapped with fleet := f } : State)
    let entry := { Fleet.reset with slpState := 1 }
    let late := { entry with slpUs := 1000000 }
    let busy := { card (runs []) with fleet := late }
    let m : PowerSample := ⟨600000, #v[94, 94, 94, 94], 0, #v[1900, 1900, 1900, 1900]⟩
    let hot : PowerSample := { m with temp := #v[109, 110, 109, 109] }
    let now := { Fleet.reset with us := 1000, clk := #v[1900, 1900, 1900, 1900] }
    let cap := fun (f : Fleet) => min (max f.cap.toNat 150) 600 * 1000
    (mapped.fleet.slpState = 0 ∧ (fl { Fleet.reset with slpState := 2 }).fleet.slpState = 2) ∧
    (entry.slpState = 1 ∧ (fl entry).allIdle = true ∧ mapped.fw.updBusy = false ∧ entry.slpUs < max entry.slpTo.toNat 1 * 1000) ∧
    (({ entry with slpDrained := true } : Fleet).slpDrained = true ∧ ({ mapped.fw with updBusy := true } : Firmware).updBusy = true) ∧
    (busy.fleet.slpState = 1 ∧ ¬busy.allIdle = true ∧ ¬(late.slpDrained = true ∨ late.slpUs < max late.slpTo.toNat 1 * 1000)) ∧
    ((fl { Fleet.reset with slpState := 3 }).fleet.slpState = 3 ∧ mapped.fw.ready.getLsbD 14 = true ∧
      ∃ d < 4, mapped.fw.ready.getLsbD (7 + d) = true ∧ mapped.fw.ready.getLsbD (3 + d) = true) ∧
    (now.evalUs + 1000 ≤ now.us ∧ m.mw.toNat ≤ cap now ∧ ¬now.evalUs + 1000 ≤ ({ now with us := 999 } : Fleet).us ∧
      ¬({ m with mw := 600001 } : PowerSample).mw.toNat ≤ cap now ∧ ∃ d : Fin 4, now.clk[d] ≠ 475) ∧
    ((∀ d : Fin 4, (m.temp[d]).toNat < 110) ∧ (∀ d : Fin 4, State.reset.fw.ready.getLsbD (7 + d.val) = false) ∧
      (∀ d : Fin 4, mapped.fw.ready.getLsbD (7 + d.val) = true ∧ (m.temp[d]).toNat < 95 ∧ now.thermal[d] = 1900) ∧
      ∀ d : Fin 4, 100 ≤ (hot.temp[d]).toNat) ∧
    (110 ≤ (hot.temp[(1 : Fin 4)]).toNat ∧ (∀ e : Fin 4, e ≠ 1 → (hot.temp[e]).toNat < 110) ∧ hot.mw.toNat ≤ cap now) ∧
    (mapped.fleet.scr ≠ 0 ∧ (fl { Fleet.reset with scr := 0 }).fleet.scr = 0 ∧
      mapped.fw.ready.getLsbD (3 + (0x7FFFFFFFFF : BitVec 39).toNat / 2 ^ 33 / 12) = true) ∧
    (671 < 672 ∧ ((card (runs [])).core 0).run ≠ .idle ∧ ((card (runs [])).ctx ((card (runs [])).core 0).task.ctx).dead = false) ∧
    (({ mapped with slots := [(9, some ⟨false, 0, 0, [], []⟩)] } : State).slot (9 : BitVec 31).toNat = some ⟨false, 0, 0, [], []⟩) := by
  refine ⟨?_, ?_, ?_, ?_, ?_, ?_, ?_, ?_, ?_, ?_, ?_⟩ <;> decide +kernel

/-- Errors of an idle core's register space and scratch at their ends, of a save image of a context that lives, evaluations with
several dies at 110 degrees, over the cap at the lowest clock and with a grant lowered, and windows that ended below 1,900 MHz. -/
theorem witness_FleetAndRegisters_errors :
    let m : PowerSample := ⟨600000, #v[94, 94, 94, 94], 0, #v[1900, 1900, 1900, 1900]⟩
    let now := { Fleet.reset with us := 1000, clk := #v[1900, 1900, 1900, 1900] }
    let cap := fun (f : Fleet) => min (max f.cap.toNat 150) 600 * 1000
    let slow : Fleet := { now with clk := #v[475, 475, 475, 475], cap := 150, capEvals := 2 }
    let low : Fleet := { now with cap := 150 }
    let x : Image := ⟨0x5000, 0, 0, [], Vector.replicate 8 none, [], [], [], 0, 0, (none, 0)⟩
    let s : State := { mapped with sched := { Sched.reset with images := [x] } }
    ((mapped.core 255).run = .idle ∧ mapped.wf = true ∧ 31 < 32 ∧ ¬32 < 32 ∧ 671 < 672) ∧
    (s.sched.images.find? (·.addr == 0x5000) = some x ∧ (s.ctx x.ctx).dead = false) ∧
    (let hot : PowerSample := { m with temp := #v[110, 109, 110, 255] }
     now.evalUs + 1000 ≤ now.us ∧ hot.mw.toNat ≤ 600000 ∧ hot.mw.toNat ≤ cap now ∧ 110 ≤ (hot.temp[(0 : Fin 4)]).toNat ∧
       (hot.temp[(1 : Fin 4)]).toNat < 110 ∧ 110 ≤ (hot.temp[(2 : Fin 4)]).toNat ∧ 110 ≤ (hot.temp[(3 : Fin 4)]).toNat) ∧
    (cap slow = 150000 ∧ cap slow < m.mw.toNat ∧ (∀ d : Fin 4, slow.clk[d] = 475) ∧ ¬m.mw.toNat + 1 ≤ 600000) ∧
    (low.capEvals = 0 ∧ cap low < m.mw.toNat ∧
      475 + (min (max (({ m with capGrant := #v[1875, 1900, 1900, 1900] } : PowerSample).capGrant[(0 : Fin 4)]).toNat 475) 1900 - 475) / 25 * 25 <
        (low.clk[(0 : Fin 4)]).toNat) ∧
    (let f : Fleet := { now with capClk := #v[1900, 1900, 1900, 1875], thermal := #v[1875, 1900, 1900, 1900] }
     (f.capClk[(3 : Fin 4)]).toNat < 1900 ∧ (f.thermal[(0 : Fin 4)]).toNat < 1900) ∧
    ({ Fleet.reset with slpState := 2, slpUs := 9, slpWakeUs := 9 } : Fleet).slpState = 2 := by
  refine ⟨?_, ?_, ?_, ?_, ?_, ?_, ?_⟩ <;> decide +kernel

/-- The register window: a function that is ready and one that is not, the last register, a vector of the MSI-X table masked and
not, pending and not, and the read-only halves of a cairn, a tail and a counter. -/
theorem witness_FleetAndRegisters_window :
    let served := fun (s : State) (o : Nat) => s.fw.state = 2 → o / 8 * 8 < 0x1000
    let pend : State := { mapped with ports := { Ports.reset with msix := memWrite Ports.reset.msix 0x808 [0x80] } }
    (mapped.fw.ready.getLsbD 0 = true ∧ State.reset.fw.ready.getLsbD 0 = false) ∧
    (((8 : Nat) = 4 ∨ (8 : Nat) = 8) ∧ 0x13FFF8 % 8 = 0 ∧ mapped.fw.ready.getLsbD (readyOf (0x13FFF8 / 8 * 8)) = true ∧
      served mapped 0x13FFF8 ∧ 0x13FFF8 / 8 * 8 ≠ 0x81040 ∧ ¬(0x13FFFC % 8 = 0)) ∧
    ({ mapped with fw := { mapped.fw with ready := 1 } } : State).fw.ready.getLsbD (readyOf 0x10000) = false ∧
    (let bad := ({ mapped with fw := { mapped.fw with state := 2 } } : State)
     ¬served bad 0x1008 ∧ served bad 0xFF8) ∧
    ((0x1008 + 16 * 71) % 8 = 0 ∧ Memory.wf pend.ports.msix = true ∧ (2 ^ 32 : Word64).getLsbD 32 = true ∧ (7 : Word64).getLsbD 32 = false ∧
      (memGet pend.ports.msix (0x800 + 71 / 8)).getLsbD (71 % 8) = true ∧
      (memGet mapped.ports.msix (0x800 + 71 / 8)).getLsbD (71 % 8) = false) ∧
    ((0x60000 + 32 * 4095) % 4 = 0 ∧ (0x1001C + 0x100 * 63) % 4 = 0 ∧ (0xC0034 + 0x40 * 63) % 4 = 0) := by
  decide +kernel

theorem witness_StepRunsDecoded :
    let s := State.reset.withFetchWord 32 0x02321400
    let v := State.reset.withFetchWord 32 0x50068A00
    let r := body (some [0x50068A00, 0x7A000000, 0x7A000000])
    let u := { v with cores := [(0, { v.core 0 with loopRun := some r })] }
    (s.agenda = .cp 0 :: [] ∧ (s.core 0).run = .running ∧ (s.core 0).missCp = false ∧ (s.core 0).wait = .no ∧
      s.ctlWords 0 (s.core 0).pc.toNat 3 = [0x02321400, 0, 0] ∧ decodeControl [0x02321400, 0, 0] = .ok (.add 3 4 5 false, [0, 0]) ∧
      s.fetch 0 = .insn (s.core 0).pc (.add 3 4 5 false)) ∧
    (let t := s.modCore 0 fun c => { c with pc := 0x40000 + 12 }
     t.fetch 0 = .outside (0x40000 + 12)) ∧
    (let t := s.modCore 0 fun c => { c with pc := 0x40000 + 4 }
     t.fetch 0 = .illegal (0x40000 + 4) 0) ∧
    (u.agenda = .vs 0 :: [] ∧ u.wf = true ∧ (u.core 0).run = .running ∧ (u.core 0).missVs = false ∧ (u.core 0).rope = none ∧
      (u.core 0).zeroing = none ∧ (u.core 0).gatherFaults = [] ∧ (u.core 0).due = [] ∧ (u.core 0).loopRun = some r ∧ r.zpf = none ∧
      parseGroup (u.bodyWord (u.core 0) r) r.words (r.words + 1) r.off 0 0 [] = ⟨[(0, 0x50068A00)], none, none, 1⟩ ∧
      (((u.core 0).checkGroup r.c.start.toNat ⟨[(0, 0x50068A00)], none, none, 1⟩).map fun l => l.map fun x =>
        (x.i, match (u.core 0).operandState [x] with | .ok none => true | _ => false)) = .ok [(.iadd false 3 4 5, true)]) ∧ encodeVector (.iadd false 3 4 5) ≠ [] := by decide +kernel

theorem witness_EveryInstructionDecodesBack : (Instr.add 3 4 5 false).wellFormed = true ∧
    (encodeVector (.add 3 4 5 false) = [] ∧ encode (.add 3 4 5 false) ≠ []) ∧ encodeVector (.iadd false 3 4 5) = [0x50068A00] := by decide

theorem witness_InstructionsKeepCanonicalForm : encode (.add 3 4 5 false) ≠ [] ∧ (card (runs [(4, 40)])).wf = true ∧
    ∃ t, exec (.add 3 4 5 false) (card (runs [(4, 40)])) = .next t := by
  refine ⟨by decide, by decide +kernel, _, rfl⟩

/-- An inbound write, and a result that lands. -/
theorem witness_InstructionsKeepCanonicalForm_events :
    (mapped.wf = true ∧ writesMemory (.inboundWrite 0 [1]) = true ∧ ∃ t, exec (.inboundWrite 0 [1]) mapped = .next t) ∧
    (let s := card { runs [] with landing := [⟨0, .bytes 0x7FFF [1], .no, 0, none, none⟩] }
     s.wf = true ∧ writesMemory (.resultLanding 0) = true ∧ ∃ t, exec (.resultLanding 0) s = .next t) :=
  ⟨⟨by decide +kernel, rfl, _, rfl⟩, by decide +kernel, rfl, _, rfl⟩

end Sys2Proof.Tests
end

section
/-! SUPPORT. What a core does by itself keeps the canonical form of its memories, tags and barriers (log 5): the operations on its
registers, queues and banks, the words of the vector stream, and the landing of their results. -/

namespace Sys2Proof.Machine

/-! ## Folds -/

/-- A fold of changes of a core that each keep the form keeps it. -/
theorem Core.wf_foldl {α : Type} {f : Core → α → Core} (hf : ∀ c x, c.wf = true → (f c x).wf = true) :
    ∀ (l : List α) {c : Core}, c.wf = true → (l.foldl f c).wf = true
  | [], _, h => h
  | x :: l, c, h => Core.wf_foldl hf l (hf c x h)

/-! ## Registers, queues and banks -/

/-- A core's form is that of its two memories and of its two tables. -/
theorem Core.wf_iff (c : Core) : c.wf = true ↔
    Memory.wf c.scratch = true ∧ Memory.wf c.regs = true ∧ tabWf none c.tags = true ∧ tabWf Barrier.reset c.bars = true := by
  simp only [Core.wf, Bool.and_eq_true, and_assoc]

theorem Core.wf_setG {c : Core} (r : BitVec 5) (v : Word64) (h : c.wf = true) : (c.setG r v).wf = true := by
  unfold Core.setG
  split
  · exact h
  · exact h

theorem Core.wf_adv {c : Core} (n : Nat) (h : c.wf = true) : (c.adv n).wf = true := h
theorem Core.wf_goto {c : Core} (a : Word64) (h : c.wf = true) : (c.goto a).wf = true := h
theorem Core.wf_awake {c : Core} (h : c.wf = true) : c.awake.wf = true := h
theorem Core.wf_passed {c : Core} (h : c.wf = true) : c.passed.wf = true := h
theorem Core.wf_returned {c : Core} (h : c.wf = true) : c.returned.wf = true := h
theorem Core.wf_waits {c : Core} (w : CpWait) (h : c.wf = true) : (c.waits w).wf = true := h
theorem Core.wf_release {c : Core} (x : BitVec 3) (h : c.wf = true) : (c.release x).wf = true := h
theorem Core.wf_setQ {c : Core} (n : BitVec 3) (q : Qcw) (h : c.wf = true) : (c.setQ n q).wf = true := h
theorem Core.wf_setBank {c : Core} (n : BitVec 5) (b : Bank) (h : c.wf = true) : (c.setBank n b).wf = true := h
theorem Core.wf_setStream {c : Core} (z : BitVec 3) (x : Stream) (h : c.wf = true) : (c.setStream z x).wf = true := h
theorem Core.wf_beginElem {c : Core} (e : AqEntry) (h : c.wf = true) : (c.beginElem e).wf = true := h
theorem Core.wf_zeroCycle {c : Core} (h : c.wf = true) : c.zeroCycle.wf = true := h
theorem Core.wf_modeBegin {c : Core} (b : BitVec 5) (x : Bool) (k : BitVec 5) (n : Nat) (h : c.wf = true) :
    (c.modeBegin b x k n).wf = true := h

theorem Core.wf_dropElem {c : Core} (q : BitVec 3) (h : c.wf = true) : (c.dropElem q).wf = true := by
  unfold Core.dropElem
  split
  · exact h
  · exact h

theorem Core.wf_cancelTask {c : Core} (h : c.wf = true) : c.cancelTask.wf = true := by
  unfold Core.cancelTask
  split
  · exact h
  · exact h
  · exact h

/-- A bank that has been zeroed: its window is left out of scratch (R37). -/
theorem Core.wf_modeEnd {c : Core} (z : Zeroing) (h : c.wf = true) : (c.modeEnd z).wf = true := by
  obtain ⟨hs, hr, ht, hb⟩ := (Core.wf_iff c).mp h
  exact (Core.wf_iff _).mpr ⟨Memory.wf_memZero _ _ hs, hr, ht, hb⟩

/-- A core with no task holds no tags (R338). -/
theorem Core.wf_released {c : Core} (h : c.wf = true) : c.released.wf = true := by
  obtain ⟨hs, hr, _, hb⟩ := (Core.wf_iff c).mp h
  exact (Core.wf_iff _).mpr ⟨hs, hr, rfl, hb⟩

theorem Core.wf_pageStore {c : Core} (o n v : Nat) (h : c.wf = true) : (c.pageStore o n v).wf = true := by
  unfold Core.pageStore
  split
  · exact h
  · exact h

theorem Core.wf_lsWrite {c : Core} (a n v : Nat) (h : c.wf = true) : (c.lsWrite a n v).wf = true := by
  unfold Core.lsWrite
  split
  · exact Core.wf_pageStore _ _ _ h
  · exact Core.wf_writeScratch _ _ h

theorem Core.wf_arrive {c : Core} (a b : Nat) (h : c.wf = true) : (c.arrive a b).wf = true := Core.wf_writeScratch a _ h

theorem Core.wf_append (n : BitVec 3) : ∀ (fuel : Nat) {c : Core} (v : List Byte), c.wf = true →
    (c.append n fuel v).wf = true
  | 0, _, _, h => h
  | fuel + 1, c, v, h => by
    unfold Core.append
    dsimp only
    split
    · exact h
    · exact Core.wf_append n fuel _ (Core.wf_setQ n _ (Core.wf_writeScratch _ _ h))

theorem Core.wf_commit {c d : Core} {b : BitVec 5} {off : Nat} {v : List Byte} (h : c.wf = true) (hd : c.commit b off v = .ok d) :
    d.wf = true := by
  unfold Core.commit at hd
  dsimp only at hd
  split at hd
  · cases hd
  · split at hd
    · cases hd
    · injection hd with hd
      exact hd ▸ Core.wf_setBank b _ (Core.wf_writeScratch _ v h)

theorem Core.wf_refillParams : ∀ (fuel : Nat) {c : Core}, c.wf = true → (Core.refillParams fuel c).wf = true
  | 0, _, h => h
  | fuel + 1, c, h => by
    unfold Core.refillParams
    split
    · exact h
    · split
      · exact h
      · dsimp only
        split
        · exact h
        · exact Core.wf_refillParams fuel h

theorem Core.wf_unclaimed {c : Core} (r : LoopRun) (n : Nat) (h : c.wf = true) : (c.unclaimed r n).wf = true :=
  Core.wf_writeRegs 0 _ h

/-- A free change of a core (R1). -/
theorem Core.wf_wildEdit {c : Core} (n i : Nat) (h : c.wf = true) : (wildEdit n i c).wf = true := by
  unfold wildEdit
  dsimp only
  split
  case h_1 => exact Core.wf_setG _ _ h
  case h_2 => exact Core.wf_writeScratch _ _ h
  case h_3 => exact Core.wf_writeRegs _ _ h
  case h_13 => exact Core.wf_setBar _ _ h
  all_goals exact h

/-! ## Checks that answer a core -/

/-- What an issue check answers, if it answers anything, has a property. -/
def Chk.answers {α : Type} (P : α → Prop) : Chk α → Prop
  | .ok a => P a
  | .trap _ => True
  | .wait => True

/-- A chain of checks answers what its last one answers. -/
theorem Chk.answers_and {α β : Type} {P : α → Prop} {Q : β → Prop} {x : Chk α} {f : α → Chk β} (hx : x.answers P)
    (hf : ∀ a, P a → (f a).answers Q) : (x.and f).answers Q := by
  cases x with
  | ok a => exact hf a hx
  | trap t => trivial
  | wait => trivial

theorem Chk.answers_any {α : Type} (x : Chk α) : x.answers fun _ => True := by
  cases x <;> trivial

theorem Core.wf_of_enqueue {c : Core} (x : Cmd) (h : c.wf = true) : (c.enqueue x).answers fun d => d.wf = true := by
  unfold Core.enqueue
  split
  · exact h
  · trivial

theorem Core.wf_of_pushParam {c : Core} (v : Word64) (h : c.wf = true) : (c.pushParam v).answers fun d => d.wf = true := by
  unfold Core.pushParam
  dsimp only
  have hr : (Core.refillParams 16 c).wf = true := Core.wf_refillParams 16 h
  split
  · exact hr
  · split
    · trivial
    · split
      · trivial
      · exact Core.wf_append _ 1 _ hr

/-! ## What a word of the vector stream leaves in flight -/

theorem Core.wf_emitFrom {c : Core} (p : Option (Nat × Nat)) (slot lat : Nat) (v : LandVal) (cls : LatClass) (fl : Nat)
    (h : c.wf = true) : (c.emitFrom p slot lat v cls fl).wf = true := h
theorem Core.wf_emit {c : Core} (slot lat : Nat) (v : LandVal) (cls : LatClass) (fl : Nat) (h : c.wf = true) :
    (c.emit slot lat v cls fl).wf = true := h
theorem Core.wf_emitIx {c : Core} (slot lat : Nat) (d : BitVec 4) (v : BitVec 32) (h : c.wf = true) :
    (c.emitIx slot lat d v).wf = true := h
theorem Core.wf_hold {c : Core} (slot n : Nat) (h : c.wf = true) : (c.hold slot n).wf = true := h
theorem Core.wf_landLanes {c : Core} (lat occ : Nat) (v : Opnd) (cls : LatClass) (ps : List (List (Nat × Nat))) (h : c.wf = true) :
    (c.landLanes lat occ v cls ps).wf = true := h
theorem Core.wf_rscLand {c : Core} (v o : Opnd) (a : Nat) (e : List Nat) (h : c.wf = true) : (c.rscLand v o a e).wf = true := h
theorem Core.wf_abLand {c : Core} (w : AbWord) (o : AbOps) (h : c.wf = true) : (c.abLand w o).wf = true := h

theorem Core.wf_passLand {c : Core} (p : PassWord) (x y : Opnd) (h : c.wf = true) : (c.passLand p x y).wf = true :=
  Core.wf_hold _ _ (Core.wf_foldl (fun _ _ hd => Core.wf_emitFrom _ _ _ _ _ _ hd) _ h)

theorem Core.wf_zland {c : Core} (op : ZWord) (o : ZOut) (h : c.wf = true) : (c.zland op o).wf = true :=
  Core.wf_hold _ _ (Core.wf_foldl (fun _ _ hd => Core.wf_emitIx _ _ _ _ hd) _
    (Core.wf_foldl (fun _ _ hd => Core.wf_emit _ _ _ _ _ (Core.wf_setStream _ _ hd)) _ h))

theorem Core.wf_popBytes {c d : Core} {slot : Nat} {n : BitVec 3} {size : Nat} {b : List Byte} (h : c.wf = true)
    (hp : c.popBytes slot n size = .ok (b, d)) : d.wf = true := by
  unfold Core.popBytes at hp
  dsimp only at hp
  split at hp
  · cases hp
  · split at hp
    · cases hp
    · injection hp with hp
      injection hp with _ hd
      exact hd ▸ h

theorem Core.wf_popParam {c d : Core} {v : Word64} (h : c.wf = true) (hp : c.popParam = some (v, d)) : d.wf = true := by
  unfold Core.popParam at hp
  split at hp
  · cases hp; exact h
  · split at hp
    · cases hp
    · dsimp only at hp
      split at hp
      · cases hp
      · cases hp; exact h

end Sys2Proof.Machine
end

section
/-! SUPPORT. A stream instruction of the vector stream works on copies of its core that keep the canonical form (log 5): whatever its
walk gives, lands or leaves behind as it stalls (R220-R228). -/

namespace Sys2Proof.Machine

/-! ## Results of a walk -/

/-- Both cores of a walk under way are canonical. -/
def Walk.canonical (w : Walk) : Prop := w.c.wf = true ∧ w.mark.wf = true

/-- The core that a refused or stalled stream instruction leaves is canonical, if it leaves one. -/
def ZErr.canonical : ZErr → Prop
  | .trap _ => True
  | .short _ _ c => c.wf = true

/-- What a walk answers has a property, or it ends with a canonical core. -/
def zAnswers {α : Type} (P : α → Prop) : Except ZErr α → Prop
  | .ok a => P a
  | .error e => e.canonical

theorem zAnswers_bind {α β : Type} {P : α → Prop} {Q : β → Prop} {x : Except ZErr α} {f : α → Except ZErr β} (hx : zAnswers P x)
    (hf : ∀ a, P a → zAnswers Q (f a)) : zAnswers Q (x >>= f) := by
  cases x with
  | error e => exact hx
  | ok a => exact hf a hx

/-! ## Reads: they end in a trap or change nothing -/

theorem Core.zread_answers (c : Core) (a n align : Nat) : zAnswers (fun _ => True) (c.zread a n align) := by
  unfold Core.zread
  split
  · trivial
  · trivial

theorem Core.bitmapWords_answers (c : Core) : ∀ n a, zAnswers (fun _ => True) (c.bitmapWords a n)
  | 0, _ => trivial
  | n + 1, a => zAnswers_bind (c.zread_answers a 8 8) fun _ _ => zAnswers_bind (c.bitmapWords_answers n (a + 8)) fun _ _ => trivial

theorem zAnswers_ite {α : Type} {P : α → Prop} {b : Prop} [Decidable b] {x y : Except ZErr α} (hx : zAnswers P x) (hy : zAnswers P y) :
    zAnswers P (if b then x else y) := by
  split
  · exact hx
  · exact hy

/-- A check of a walk that ends in a canonical core, or goes on. -/
theorem zAnswers_guard {α : Type} {P : α → Prop} {b : Prop} [Decidable b] {e : ZErr} {f : Unit → Except ZErr α} (he : e.canonical)
    (hf : zAnswers P (f ())) : zAnswers P (if b then Except.error e >>= f else f ()) := by
  split
  · exact he
  · exact hf

theorem Core.level_answers (c : Core) (z : BitVec 3) (d l p : Nat) : zAnswers (fun _ => True) (c.level z d l p) :=
  zAnswers_bind (c.zread_answers d 16 16) fun _ _ => zAnswers_guard trivial <|
    zAnswers_bind (c.zread_answers _ 32 16) fun _ _ => zAnswers_guard trivial trivial

/-! ## Walks -/

theorem Walk.pop_answers {w : Walk} (z q : BitVec 3) (h : w.canonical) : zAnswers (fun r => r.2.canonical) (w.pop z q) := by
  obtain ⟨hc, hm⟩ := h
  unfold Walk.pop
  dsimp only
  split
  · exact hm
  · exact ⟨Core.wf_setQ q _ hc, hm⟩

theorem Walk.canonical_checkpoint {w : Walk} (z : BitVec 3) (x : Stream) (h : w.canonical) : (w.checkpoint z x).canonical :=
  ⟨h.1, Core.wf_setStream z x h.1⟩

theorem Walk.coord_answers {w : Walk} (z : BitVec 3) (x : Stream) (q : Nat) (h : w.canonical) :
    zAnswers (fun r => r.2.canonical) (w.coord z x q) := by
  unfold Walk.coord
  dsimp only
  split
  · exact h
  · split
    · refine zAnswers_bind (w.c.bitmapWords_answers _ _) fun _ _ => zAnswers_guard trivial ?_
      split
      · exact h
      · trivial
    · refine zAnswers_bind (P := fun r => r.2.canonical) ?_ fun r hr => zAnswers_guard trivial hr
      split
      · exact Walk.pop_answers z _ h
      · exact zAnswers_bind (w.c.zread_answers _ 4 4) fun _ _ => h

theorem Walk.step_answers {w : Walk} (z : BitVec 3) (x : Stream) (h : w.canonical) :
    zAnswers (fun r => r.2.canonical) (w.step z x) := by
  unfold Walk.step
  dsimp only
  split
  · exact h
  · exact zAnswers_bind (Walk.coord_answers z x _ h) fun _ hr => zAnswers_guard trivial hr

theorem Walk.skipLoop_answers (z : BitVec 3) (bound : Nat) : ∀ (fuel : Nat) {w : Walk} (x : Stream), w.canonical →
    zAnswers (fun r => r.2.canonical) (Walk.skipLoop z bound fuel w x)
  | 0, _, _, h => h
  | fuel + 1, w, x, h => by
    unfold Walk.skipLoop
    split
    · exact h
    · exact zAnswers_bind (Walk.step_answers z x h) fun _ hr =>
        Walk.skipLoop_answers z bound fuel _ (Walk.canonical_checkpoint z _ hr)

theorem Walk.probe_answers {w : Walk} (z : BitVec 3) (x : Stream) (q prev : Nat) (h : w.canonical) :
    zAnswers (fun _ => True) (w.probe z x q prev) :=
  zAnswers_bind (Walk.coord_answers z x q h) fun _ _ => zAnswers_guard trivial trivial

theorem Walk.gallop_answers {w : Walk} (z : BitVec 3) (x : Stream) (bound : Nat) (h : w.canonical) : ∀ (fuel step : Nat) (lo : Nat × Nat),
    zAnswers (fun _ => True) (w.gallop z x bound fuel step lo)
  | 0, _, _ => trivial
  | fuel + 1, step, lo => by
    unfold Walk.gallop
    dsimp only
    split
    · trivial
    · refine zAnswers_bind (Walk.probe_answers z x _ _ h) fun v _ => ?_
      split
      · trivial
      · exact Walk.gallop_answers z x bound h fuel _ _

theorem Walk.halve_answers {w : Walk} (z : BitVec 3) (x : Stream) (bound : Nat) (h : w.canonical) : ∀ (fuel : Nat) (lo : Nat × Nat) (hi : Nat),
    zAnswers (fun _ => True) (w.halve z x bound fuel lo hi)
  | 0, _, _ => trivial
  | fuel + 1, lo, hi => by
    unfold Walk.halve
    dsimp only
    split
    · trivial
    · refine zAnswers_bind (Walk.probe_answers z x _ _ h) fun v _ => ?_
      split
      · exact Walk.halve_answers z x bound h fuel _ _
      · exact Walk.halve_answers z x bound h fuel _ _

theorem Walk.skip_answers {w : Walk} (z : BitVec 3) (x : Stream) (bound : Nat) (h : w.canonical) :
    zAnswers (fun r => r.2.canonical) (w.skip z x bound) := by
  unfold Walk.skip
  dsimp only
  split
  · exact h
  · split
    · exact h
    · split
      · refine zAnswers_bind (Walk.gallop_answers z x bound h _ _ _) fun g _ =>
          zAnswers_bind (Walk.halve_answers z x bound h _ _ _) fun q _ => ?_
        split
        · exact h
        · exact zAnswers_bind (Walk.coord_answers z x q h) fun _ _ => h
      · exact Walk.skipLoop_answers z bound _ x h

theorem Walk.drain_answers (z : BitVec 3) (keep : Bool) : ∀ (fuel : Nat) {w : Walk} (x : Stream), w.canonical →
    zAnswers (fun r => r.2.canonical) (Walk.drain z keep fuel w x)
  | 0, _, _, h => h
  | fuel + 1, w, x, h => by
    unfold Walk.drain
    split
    · exact h
    · refine zAnswers_bind (Walk.pop_answers z x.qw h) fun r hr => Walk.drain_answers z keep fuel _ ?_
      split
      · exact Walk.canonical_checkpoint z _ hr
      · exact hr

/-- The last step of an opening: an empty fibre is done, and another one reads its first coordinate (R224). -/
theorem Walk.first_answers {w : Walk} (z : BitVec 3) (x : Stream) (b : Prop) [Decidable b] (q : Nat) (h : w.canonical) :
    zAnswers (fun r => r.2.canonical) (if b then pure ({ x with done := true }, w) else do
      let r ← w.coord z x q
      return ({ x with crd := BitVec.ofNat 32 r.1 }, r.2)) := by
  split
  · exact h
  · exact zAnswers_bind (Walk.coord_answers z x q h) fun _ hr => hr

theorem Walk.openAt_answers {w : Walk} (z : BitVec 3) (keep : Bool) (d l p : Nat) (h : w.canonical) :
    zAnswers (fun r => r.2.canonical) (w.openAt z keep d l p) := by
  unfold Walk.openAt
  dsimp only
  refine zAnswers_bind (P := fun r => r.2.canonical) ?_ fun dr hd =>
    zAnswers_bind (dr.2.c.level_answers z d l p) fun f _ => zAnswers_guard trivial <|
    zAnswers_bind (P := fun _ => True) ?_ fun oe _ => zAnswers_guard trivial ?_
  · split
    · exact Walk.drain_answers z keep _ _ h
    · exact h
  · split
    · trivial
    · split
      · trivial
      · exact zAnswers_bind (dr.2.c.zread_answers _ 4 4) fun _ _ => zAnswers_bind (dr.2.c.zread_answers _ 4 4) fun _ _ => trivial
  · split
    · exact zAnswers_bind (dr.2.c.bitmapWords_answers _ _) fun _ _ => zAnswers_guard trivial <|
        zAnswers_guard trivial (Walk.first_answers z _ _ _ hd)
    · exact zAnswers_guard trivial (Walk.first_answers z _ _ _ hd)

/-! ## Stream instructions -/

theorem Walk.isect_answers {w : Walk} (i : BitVec 4) (z y : BitVec 3) (a b : Stream) (h : w.canonical) :
    zAnswers (fun _ => True) (w.isect i z y a b) := by
  unfold Walk.isect
  dsimp only
  split
  · trivial
  · split
    · exact zAnswers_bind (Walk.step_answers z _ h) fun _ hr => zAnswers_bind (Walk.step_answers y _ hr) fun _ _ => trivial
    · split
      · exact zAnswers_bind (Walk.step_answers z _ h) fun _ _ => trivial
      · exact zAnswers_bind (Walk.step_answers y _ h) fun _ _ => trivial

/-- A stream that has its mark moves on, and another one stands (R226). -/
theorem Walk.stepIf_answers {w : Walk} (z : BitVec 3) (x : Stream) (m : Bool) (h : w.canonical) :
    zAnswers (fun r => r.2.canonical) (if m then w.step z x else .ok (x, w)) := by
  split
  · exact Walk.step_answers z x h
  · exact h

theorem Walk.union_answers {w : Walk} (i : BitVec 4) (z y : BitVec 3) (a b : Stream) (h : w.canonical) :
    zAnswers (fun _ => True) (w.union i z y a b) := by
  refine zAnswers_ite trivial ?_
  exact zAnswers_bind (Walk.stepIf_answers z _ _ h) fun _ hr => zAnswers_bind (Walk.stepIf_answers y _ _ hr) fun _ _ => trivial

/-- A stream instruction that stalls leaves a canonical core (R228). -/
theorem Core.zrun_answers {c : Core} (op : ZWord) (h : c.wf = true) : zAnswers (fun _ => True) (c.zrun op) := by
  have hw : Walk.canonical ⟨c, c⟩ := ⟨h, h⟩
  unfold Core.zrun
  dsimp only
  split
  case h_1 => exact zAnswers_bind (Walk.openAt_answers _ _ _ _ _ hw) fun _ _ => trivial
  case h_2 =>
    exact zAnswers_guard trivial <| zAnswers_bind (c.zread_answers _ 16 16) fun _ _ => zAnswers_guard trivial <|
      zAnswers_bind (Walk.openAt_answers _ _ _ _ _ hw) fun _ _ => trivial
  case h_3 =>
    refine zAnswers_guard trivial ?_
    split
    · trivial
    · exact zAnswers_bind (Walk.step_answers _ _ hw) fun _ _ => trivial
  case h_4 =>
    refine zAnswers_guard trivial ?_
    split
    · trivial
    · exact zAnswers_bind (Walk.skip_answers _ _ _ hw) fun _ _ => trivial
  case h_5 => exact zAnswers_guard trivial <| zAnswers_guard trivial <| Walk.isect_answers _ _ _ _ _ hw
  case h_6 => exact zAnswers_guard trivial <| zAnswers_guard trivial <| Walk.union_answers _ _ _ _ _ hw
  case h_7 => exact zAnswers_guard trivial trivial
  case h_8 => exact zAnswers_guard trivial trivial

/-- The partial effects of a stalled stream instruction keep the form (R228). -/
theorem Core.wf_zstalled {c : Core} (op : ZWord) (h : c.wf = true) : (c.zstalled op).wf = true := by
  have hz := Core.zrun_answers op h
  unfold Core.zstalled
  split
  · rename_i z k e
    rw [e] at hz
    exact Core.wf_foldl (fun _ y hd => Core.wf_setStream y _ hd) _ hz
  · exact h

theorem Core.wf_wordStalled {c : Core} (i : Instr) (h : c.wf = true) : (c.wordStalled i).wf = true := by
  unfold Core.wordStalled
  split
  · exact Core.wf_zstalled _ h
  · exact h

end Sys2Proof.Machine
end

section
/-! SUPPORT. Every word of the vector stream, and the landing of its results, keeps a core's canonical form (log 5). -/

namespace Sys2Proof.Machine

/-! ## Words -/

/-- The core that a word of the vector stream answers is canonical, if it answers one. -/
def VRes.canonical : VRes → Prop
  | .ok c => c.wf = true
  | .error _ => True

theorem canonical_passKernel {c : Core} (p : PassWord) (h : c.wf = true) : VRes.canonical (passKernel p c) := by
  unfold passKernel
  split
  · trivial
  · split
    · exact Core.wf_passLand p _ _ h
    · trivial
    · trivial

theorem canonical_swapKernel {c : Core} (w : Bool) (b : BitVec 5) (h : c.wf = true) : VRes.canonical (swapKernel w b c) := by
  unfold swapKernel
  dsimp only
  split
  · trivial
  · split
    · exact Core.wf_hold _ _ (Core.wf_setBank b _ h)
    · split
      · trivial
      · trivial

theorem canonical_clrKernel {c : Core} (a : BitVec 4) (h : c.wf = true) : VRes.canonical (clrKernel a c) := by
  unfold clrKernel
  split
  · trivial
  · exact Core.wf_hold _ _ (Core.wf_emit _ _ _ _ _ h)

theorem canonical_cvtKernel {c : Core} (x : Bool) (d : BitVec 7) (a : BitVec 4) (h : c.wf = true) :
    VRes.canonical (cvtKernel x d a c) := by
  unfold cvtKernel
  split
  · exact Core.wf_landLanes _ _ _ _ _ h
  · trivial

theorem canonical_lutKernel {c : Core} (v : BitVec 7) (i : BitVec 4) (h : c.wf = true) : VRes.canonical (lutKernel v i c) := by
  unfold lutKernel
  split
  · trivial
  · dsimp only
    split
    · trivial
    · exact Core.wf_hold _ _ (Core.wf_emit _ _ _ _ _ h)

theorem canonical_lutAccKernel {c : Core} (a : BitVec 4) (q : BitVec 3) (k : BitVec 4) (h : c.wf = true) :
    VRes.canonical (lutAccKernel a q k c) := by
  unfold lutAccKernel
  split
  · trivial
  · split
    · trivial
    · rename_i hp
      exact Core.wf_hold _ _ (Core.wf_emit _ _ _ _ _ (Core.wf_popBytes h hp))

theorem canonical_outlKernel {c : Core} (a : BitVec 4) (v : BitVec 7) (q : BitVec 3) (h : c.wf = true) :
    VRes.canonical (outlKernel a v q c) := by
  unfold outlKernel
  split
  · split
    · trivial
    · rename_i hp
      exact Core.wf_hold _ _ (Core.wf_emit _ _ _ _ _ (Core.wf_popBytes h hp))
  · trivial

theorem canonical_rscKernel {c : Core} (d : BitVec 7) (a t : BitVec 4) (q : BitVec 3) (h : c.wf = true) :
    VRes.canonical (rscKernel d a t q c) := by
  unfold rscKernel
  split
  · dsimp only
    split
    · trivial
    · split
      · exact Core.wf_rscLand _ _ _ _ h
      · split
        · trivial
        · rename_i hp
          exact Core.wf_rscLand _ _ _ _ (Core.wf_popBytes h hp)
  · trivial

theorem canonical_qntKernel {c : Core} (d v : BitVec 7) (i : BitVec 4) (h : c.wf = true) : VRes.canonical (qntKernel d v i c) := by
  unfold qntKernel
  split
  · dsimp only
    split
    · trivial
    · exact Core.wf_hold _ _ (Core.wf_foldl (fun _ _ hd => Core.wf_emit _ _ _ _ _ hd) _ h)
  · trivial

theorem canonical_qparKernel {c : Core} (v : BitVec 7) (i : BitVec 4) (k : BitVec 5) (h : c.wf = true) :
    VRes.canonical (qparKernel v i k c) := by
  unfold qparKernel
  split
  · trivial
  · dsimp only
    split
    · trivial
    · exact Core.wf_hold _ _ (Core.wf_emit _ _ _ _ _ h)

theorem canonical_zKernel {c : Core} (op : ZWord) (h : c.wf = true) : VRes.canonical (zKernel op c) := by
  unfold zKernel
  split
  · exact Core.wf_zland op _ h
  · trivial
  · trivial

theorem canonical_aqpushKernel {c : Core} (i : BitVec 4) (q : BitVec 3) (h : c.wf = true) : VRes.canonical (aqpushKernel i q c) := by
  unfold aqpushKernel
  dsimp only
  split
  · trivial
  · split
    · exact h
    · split
      · trivial
      · exact h

theorem canonical_xldKernel {c : Core} (n : BitVec 8) (a : BitVec 4) (i : BitVec 13) (h : c.wf = true) :
    VRes.canonical (xldKernel n a i c) := by
  unfold xldKernel
  split
  · trivial
  · split
    · trivial
    · exact Core.wf_hold _ _ (Core.wf_emit _ _ _ _ _ h)

theorem canonical_xstKernel {c : Core} (n : BitVec 8) (a : BitVec 4) (i : BitVec 13) (h : c.wf = true) :
    VRes.canonical (xstKernel n a i c) := by
  unfold xstKernel
  split
  · trivial
  · split
    · trivial
    · exact Core.wf_hold _ _ (Core.wf_writeScratch _ _ h)

theorem canonical_dqKernel {c : Core} (peek : Bool) (n : BitVec 8) (q : BitVec 3) (h : c.wf = true) :
    VRes.canonical (dqKernel peek n q c) := by
  unfold dqKernel
  split
  · trivial
  · split
    · trivial
    · split
      · trivial
      · rename_i hp
        refine Core.wf_hold _ _ (Core.wf_emit _ _ _ _ _ ?_)
        split
        · exact h
        · exact Core.wf_popBytes h hp

theorem canonical_ppopKernel {c : Core} (d : BitVec 4) (h : c.wf = true) : VRes.canonical (ppopKernel d c) := by
  unfold ppopKernel
  split
  · trivial
  · rename_i hp
    exact Core.wf_hold _ _ (Core.wf_emitIx _ _ _ _ (Core.wf_popParam h hp))

theorem canonical_xmvKernel {c : Core} (d v : BitVec 8) (h : c.wf = true) : VRes.canonical (xmvKernel d v c) := by
  unfold xmvKernel
  split
  · trivial
  · exact Core.wf_hold _ _ (Core.wf_emit _ _ _ _ _ h)

theorem canonical_abKernel {c : Core} (w : AbWord) (h : c.wf = true) : VRes.canonical (abKernel w c) := by
  unfold abKernel
  split
  · exact Core.wf_abLand w _ h
  · trivial

/-- Every word of the vector stream keeps its core's form. -/
theorem canonical_vword {c : Core} (i : Instr) (h : c.wf = true) : VRes.canonical (vword i c) := by
  unfold vword
  split
  case h_1 => exact canonical_passKernel _ h
  case h_2 | h_3 => exact canonical_swapKernel _ _ h
  case h_4 => exact canonical_clrKernel _ h
  case h_5 | h_6 => exact canonical_cvtKernel _ _ _ h
  case h_7 => exact canonical_lutKernel _ _ h
  case h_8 => exact canonical_lutAccKernel _ _ _ h
  case h_9 => exact canonical_outlKernel _ _ _ h
  case h_10 => exact canonical_rscKernel _ _ _ _ h
  case h_11 => exact canonical_qntKernel _ _ _ h
  case h_12 => exact canonical_qparKernel _ _ _ h
  case h_31 => exact canonical_aqpushKernel _ _ h
  case h_32 => exact canonical_xldKernel _ _ _ h
  case h_33 => exact canonical_xstKernel _ _ _ h
  case h_34 | h_35 => exact canonical_dqKernel _ _ _ h
  case h_36 => exact canonical_ppopKernel _ h
  case h_37 => exact canonical_xmvKernel _ _ h
  case h_42 =>
    split
    · exact canonical_zKernel _ h
    · exact canonical_abKernel _ h
    · exact h
  all_goals exact h

theorem Core.wf_of_vword {c d : Core} {i : Instr} (h : c.wf = true) (hd : vword i c = .ok d) : d.wf = true := by
  have hw := canonical_vword i h
  rw [hd] at hw
  exact hw

/-! ## Landings and groups -/

theorem Core.wf_landAll {c : Core} (ls : List Landing) (h : c.wf = true) : (c.landAll ls).wf = true :=
  Core.wf_foldl (fun _ l hd => Core.wf_land l.v hd) ls h

theorem Core.wf_settle {c : Core} (h : c.wf = true) : c.settle.wf = true := Core.wf_landAll c.landing h

theorem Core.wf_landEarly {c : Core} (h : c.wf = true) : c.landEarly.wf = true :=
  Core.wf_foldl (fun _ l hd => Core.wf_land l.v hd) _ h

theorem Core.wf_landLate {c : Core} (fl : Word64) (h : c.wf = true) : (c.landLate fl).wf = true :=
  Core.wf_foldl (f := fun c (l : Landing) => c.land l.v) (fun _ l hd => Core.wf_land l.v hd) _ h

theorem Core.wf_idleCycle {c : Core} (h : c.wf = true) : c.idleCycle.wf = true := Core.wf_landLate _ (Core.wf_landEarly h)

theorem Core.wf_issueWords {c : Core} (ws : List GWord) (h : c.wf = true) : (c.issueWords ws).wf = true := by
  refine Core.wf_foldl (fun d w hd => ?_) _ h
  split
  · rename_i e
    exact Core.wf_of_vword hd e
  · exact hd

/-- The core that an evaluated group leaves is canonical, if it leaves one. -/
def GEval.canonical : GEval → Prop
  | .trap _ => True
  | .lack _ _ c => c.wf = true
  | .issued c => c.wf = true

theorem Core.canonical_evalGroup {c : Core} (start : Nat) (g : Grp) (h : c.wf = true) : (c.evalGroup start g).canonical := by
  unfold Core.evalGroup
  dsimp only
  split
  · trivial
  · split
    · trivial
    · exact Core.wf_foldl (fun _ x hd => Core.wf_wordStalled x.i hd) _ h
    · exact Core.wf_landLate _ (Core.wf_issueWords _ (Core.wf_landEarly h))

end Sys2Proof.Machine
end

section
/-! SUPPORT. What base camp and the links do keeps the canonical form of the card's tables and memories (log 5): messages and the error
log, accesses in a context's space, the race detector, the fault rings, and undefined behaviour. -/

namespace Sys2Proof.Machine

/-- A choice between two cards in canonical form is one. -/
theorem State.wf_ite {b : Prop} [Decidable b] {s t : State} (hs : s.wf = true) (ht : t.wf = true) :
    (if b then s else t).wf = true := by
  split
  · exact hs
  · exact ht

/-! ## Messages, the error log, counters -/

theorem State.wf_send {s : State} (m : OutMsg) (h : s.wf = true) : (s.send m).wf = true := h
theorem State.wf_newReq {s : State} (h : s.wf = true) : s.newReq.wf = true := h
theorem State.wf_setSeq {s : State} (n : Nat) (h : s.wf = true) : State.wf { s with seq := n } = true := h
theorem State.wf_hostRead {s : State} (n : CtxId) (a : Option Nat) (va len : Nat) (w : Waiter) (h : s.wf = true) :
    (hostRead s n a va len w).wf = true := h
theorem State.wf_hostWrite {s : State} (n : CtxId) (a : Option Nat) (va : Nat) (v : List Byte) (h : s.wf = true) :
    (hostWrite s n a va v).wf = true := h
theorem State.wf_askTranslation {s : State} (n : CtxId) (vpn : Nat) (r w : Bool) (who : Waiter) (h : s.wf = true) :
    (askTranslation s n vpn r w who).wf = true := h
theorem State.wf_setPeer {s : State} (port : Bool) (p : Peer) (h : s.wf = true) : (s.setPeer port p).wf = true := h
theorem State.wf_bump {s : State} (h : s.wf = true) : s.bump.wf = true := h

theorem State.wf_pumpRun : ∀ (fuel : Nat) {s : State} (port : Bool), s.wf = true → (pumpRun fuel s port).wf = true
  | 0, _, _, h => h
  | fuel + 1, s, port, h => by
    unfold pumpRun
    dsimp only
    split
    · exact h
    · split
      · exact h
      · exact State.wf_pumpRun fuel port (State.wf_send _ (State.wf_setPeer port _ h))

theorem State.wf_sendMsg {s : State} (port : Bool) (m : PeerMsg) (h : s.wf = true) : (sendMsg s port m).wf = true :=
  State.wf_pumpRun _ port (State.wf_setPeer port _ h)

theorem State.wf_peerCommand {s : State} (port : Bool) (n far : CtxId) (op : PeerOp) (who : Waiter) (h : s.wf = true) :
    (peerCommand s port n far op who).wf = true := by
  unfold peerCommand
  dsimp only
  exact State.wf_newReq (State.wf_sendMsg port _ (State.wf_setPeer port _ h))

theorem State.wf_msix {s : State} (n : Nat) (h : s.wf = true) : (s.msix n).wf = true := State.wf_ite h h

theorem State.wf_logEntry {s : State} (sev blk : Nat) (n : Option CtxId) (d0 d1 : Nat) (h : s.wf = true) :
    (s.logEntry sev blk n d0 d1).wf = true :=
  State.wf_ite (State.wf_msix _ (State.wf_ite h h)) (State.wf_ite h h)

theorem State.wf_logFree {s : State} (blk : Nat) (n : Option CtxId) (d0 d1 : Nat) (h : s.wf = true) :
    (s.logFree blk n d0 d1).wf = true := State.wf_logEntry _ _ _ _ _ h

theorem State.wf_refuseWrite {s : State} (blk : Nat) (n : Option CtxId) (off v : Nat) (h : s.wf = true) :
    (refuseWrite s blk n off v).wf = true := State.wf_logEntry _ _ _ _ _ h

theorem State.wf_count {s : State} (i : Fin 8) (h : s.wf = true) : (s.count i).wf = true := State.wf_ite h h

theorem State.wf_makeDurable {s : State} (f : Unsaved → Bool) (h : s.wf = true) : (s.makeDurable f).wf = true := State.wf_ite h h

theorem State.wf_rename {s : State} (f : Writer → Writer) (h : s.wf = true) : (s.rename f).wf = true := h

theorem State.wf_countMove {s : State} (k : CoreId) (die va len : Nat) (h : s.wf = true) : (countMove s k die va len).wf = true := by
  unfold countMove
  split
  · exact h
  · exact State.wf_ite h h

/-! ## Accesses in a context's space -/

theorem State.wf_walked {s : State} (f : Found) (w : Bool) (h : s.wf = true) : (s.walked f w).wf = true :=
  State.wf_ite h (State.wf_touch f w h)

theorem State.wf_campUse {s : State} (n : CtxId) (va : Nat) (f : Found) (w : Bool) (h : s.wf = true) :
    (s.campUse n va f w).wf = true := by
  have hw : (s.walked f w).wf = true := State.wf_walked f w h
  unfold State.campUse
  dsimp only
  split
  · exact hw
  · exact State.wf_ite hw hw

theorem State.wf_walkPages {s : State} (n : CtxId) (vas : List Nat) (w : Bool) (h : s.wf = true) : (s.walkPages n vas w).wf = true := by
  refine List.foldlRecOn (motive := fun p : State × Bool => p.1.wf = true) vas _ h fun p hp va _ => ?_
  split
  · exact hp
  · split
    · exact State.wf_touch _ w hp
    · exact hp

theorem State.wf_walkMarks {s : State} (n : CtxId) (a len : Nat) (w : Bool) (h : s.wf = true) : (s.walkMarks n a len w).wf = true := by
  refine State.wf_ite ?_ h
  refine List.foldlRecOn (motive := fun p : State × Bool => p.1.wf = true) (pagesOf a len) _ h fun p hp x _ => ?_
  split
  · exact hp
  · split
    · exact State.wf_campUse n _ _ w hp
    · exact hp

theorem State.wf_ctxWrite {s t : State} {n : CtxId} {a : Nat} {v : List Byte} (h : s.wf = true) (ht : s.ctxWrite n a v = some t) :
    t.wf = true := by
  unfold State.ctxWrite at ht
  split at ht
  · cases ht
  · rename_i ps _
    injection ht with ht
    rw [← ht]
    exact List.foldlRecOn (motive := fun p : State × List Byte => p.1.wf = true) ps _ h fun p hp x _ =>
      State.wf_writePhys _ _ (State.wf_campUse n _ _ true hp)

theorem State.wf_ctxRead {s t : State} {n : CtxId} {a len : Nat} {b : List Byte} (h : s.wf = true)
    (ht : s.ctxRead n a len = some (b, t)) : t.wf = true := by
  unfold State.ctxRead at ht
  split at ht
  · cases ht
  · rename_i ps _
    injection ht with ht
    have hf := List.foldlRecOn (motive := fun p : List Byte × State => p.2.wf = true) ps
      (fun p x => (p.1 ++ memRead p.2.dram (x.1.pa x.2.1) x.2.2, p.2.campUse n x.2.1 x.1 false)) (b := ([], s)) h
      fun p hp x _ => State.wf_campUse n _ _ false hp
    rw [ht] at hf
    exact hf

/-- A write that is made where it is not refused. -/
theorem State.wf_ctxWrite_getD {s : State} (n : CtxId) (a : Nat) (v : List Byte) (h : s.wf = true) :
    ((s.ctxWrite n a v).getD s).wf = true := by
  cases e : s.ctxWrite n a v with
  | none => exact h
  | some t => exact State.wf_ctxWrite h e

/-! ## The race detector (R98, R99) -/

theorem State.wf_raceRecord {s : State} (n : CtxId) (va e : Nat) (b : Agent) (w : Bool) (h : s.wf = true) :
    (raceRecord s n va e b w).wf = true := by
  refine State.wf_setCtx n _ ?_
  split
  · rename_i e
    exact State.wf_ctxWrite h e
  · exact h

/-- The read of a context's memory, as a function of which no more is known than what it does to the form: a proof that takes a
`match` on a read apart goes through this, or the kernel evaluates the walk of the page table. -/
theorem State.ctxRead_opaque : ∃ R, State.ctxRead = R ∧
    ∀ {s t : State} {n : CtxId} {a len : Nat} {b : List Byte}, s.wf = true → R s n a len = some (b, t) → t.wf = true :=
  ⟨_, rfl, State.wf_ctxRead⟩
/-- The same for a write. -/
theorem State.ctxWrite_opaque : ∃ W, State.ctxWrite = W ∧
    ∀ {s t : State} {n : CtxId} {a : Nat} {v : List Byte}, s.wf = true → W s n a v = some t → t.wf = true :=
  ⟨_, rfl, State.wf_ctxWrite⟩

theorem State.wf_raceSector {s : State} (n : CtxId) (b : Agent) (va : Nat) (w : Bool) (rsc : Nat) (f : Bool) (h : s.wf = true) :
    (raceSector s n b va w rsc f).1.wf = true := by
  obtain ⟨read, hread, wf_read⟩ := State.ctxRead_opaque
  obtain ⟨write, hwrite, wf_write⟩ := State.ctxWrite_opaque
  obtain ⟨watch, hwatch⟩ : ∃ f, Ctx.watch = f := ⟨_, rfl⟩
  unfold raceSector
  rw [hread, hwrite, hwatch]
  dsimp only
  split
  · exact h
  · split
    · exact h
    · rename_i bs t e
      have ht : t.wf = true := wf_read h e
      have hr : (if t.conflicts (ofBytes bs) b = true then raceRecord t n va (ofBytes bs) b w else t).wf = true :=
          State.wf_ite (State.wf_raceRecord n va _ b w ht) ht
      split
      · exact ht
      · split
        · split
          · rename_i e
            exact wf_write hr e
          · exact hr
        · exact hr

theorem State.wf_raceAccess {s : State} (n : CtxId) (b : Agent) (va len : Nat) (w : Bool) (rsc : Nat) (f : Bool) (h : s.wf = true) :
    (raceAccess s n b va len w rsc f).1.wf = true := by
  refine List.foldlRecOn (motive := fun p : State × Option Nat => p.1.wf = true) (sectors va len) _ h fun p hp x _ => ?_
  split
  · exact hp
  · exact State.wf_raceSector n b x w rsc f hp

theorem State.wf_hxRead {s t : State} {n : CtxId} {a len : Nat} {b : List Byte} (h : s.wf = true) (ht : hxRead s n a len = some (b, t)) :
    t.wf = true := by
  unfold hxRead at ht
  split at ht
  · cases ht
  · rename_i e
    injection ht with ht
    injection ht with _ ht
    exact ht ▸ State.wf_raceAccess _ _ _ _ _ _ _ (State.wf_ctxRead h e)

/-! ## The fault rings (R345) -/

/-- The card that the start of a record's write gives is canonical. -/
def RingTry.canonical : RingTry → Prop
  | .over s => s.wf = true
  | .under s _ => s.wf = true

theorem State.wf_ringLose {s : State} (n : CtxId) (h : s.wf = true) : (ringLose s n).wf = true := State.wf_setCtx n _ h

theorem State.wf_ringDone {s : State} (w : RingWrite) (h : s.wf = true) : (ringDone s w).wf = true := by
  have hx : (s.setCtx w.ctx { s.ctx w.ctx with fltHead := (s.ctx w.ctx).fltHead + 1 }).wf = true := State.wf_setCtx _ _ h
  exact State.wf_ite (State.wf_msix _ hx) hx

theorem canonical_ringTry {s : State} (w : RingWrite) (h : s.wf = true) : (ringTry s w).canonical := by
  have lost : RingTry.canonical (.over (ringLose s w.ctx)) := State.wf_ringLose w.ctx h
  unfold ringTry
  dsimp only
  split
  · exact lost
  · split
    · exact lost
    · split
      · exact lost
      · split
        · split
          · rename_i e
            exact State.wf_ringDone w (State.wf_ctxWrite h e)
          · exact lost
        · split
          · split
            · exact State.wf_peerCommand _ _ _ _ _ (State.wf_campUse _ _ _ true h)
            · exact h
          · exact lost
        · split
          · split
            · exact State.wf_hostRead _ _ _ _ _ (State.wf_hostWrite _ _ _ _ h)
            · exact lost
          · split
            · exact h
            · exact State.wf_askTranslation _ _ _ _ _ h
        · exact lost

theorem State.wf_ringGo : ∀ (fuel : Nat) {s : State} (n : CtxId), s.wf = true → (ringGo fuel s n).wf = true
  | 0, _, _, h => h
  | fuel + 1, s, n, h => by
    unfold ringGo
    split
    · exact h
    · rename_i w _
      have hw := canonical_ringTry w h
      split
      · exact h
      · dsimp only
        split
        · rename_i e
          rw [e] at hw
          exact State.wf_ringGo fuel n hw
        · rename_i e
          rw [e] at hw
          exact hw

theorem State.wf_ringWrite {s : State} (n : CtxId) (b : List Byte) (h : s.wf = true) : (ringWrite s n b).wf = true :=
  State.wf_ringGo _ n h

theorem State.wf_writeRecord {s : State} (k : CoreId) (r : TrapRec) (h : s.wf = true) : (writeRecord s k r).wf = true :=
  State.wf_ringWrite _ _ h

theorem State.wf_ringEnd {s : State} (n : CtxId) (ok : Bool) (h : s.wf = true) : (ringEnd s n ok).wf = true := by
  unfold ringEnd
  split
  · exact h
  · exact State.wf_ringGo _ n (State.wf_ite (State.wf_ringDone _ h) (State.wf_ringLose n h))

/-! ## Undefined behaviour (R1) -/

theorem State.wf_wildCore {s : State} (k : CoreId) (h : s.wf = true) : (wildCore s k).wf = true := by
  have hc := Core.wf_foldl (f := fun c i => wildEdit s.seq (i + 1) c) (fun _ i hd => Core.wf_wildEdit s.seq (i + 1) hd)
    (List.range (Config.freeNat s.seq 0)) (State.wf_core k h)
  exact State.wf_ite (State.wf_takeTrap k _ (State.wf_setCore k h hc)) (State.wf_setCore k h hc)

theorem State.wf_wildByte {s : State} (n : CtxId) (h : s.wf = true) : (wildByte s n).wf = true := by
  unfold wildByte
  exact State.wf_setSeq _ (State.wf_ctxWrite_getD n _ _ h)

theorem State.wf_wildRace {s : State} (n : CtxId) (h : s.wf = true) : (wildRace s n).wf = true := by
  unfold wildRace
  exact State.wf_setSeq _ (State.wf_setCtx n _ h)

theorem State.wf_wild {s : State} (n : CtxId) (h : s.wf = true) : (wild s n).wf = true := by
  unfold wild
  refine State.wf_foldl _ (fun t _ ht => State.wf_wildRace n (State.wf_wildByte n ht)) _ _ (State.wf_setSeq _ ?_)
  refine State.wf_foldl _ (fun t k ht => ?_) _ _ h
  dsimp only
  split
  · exact State.wf_wildCore _ ht
  · exact ht

end Sys2Proof.Machine
end

section
/-! SUPPORT. Base camp's scheduler keeps the canonical form of the card's tables and memories (log 5): copy faults, frames, paging in
and migration, residency, cairns, cancels, and the release of a core. -/

namespace Sys2Proof.Machine

/-! ## Lanes and copy faults -/

/-- A new table of lanes in canonical form. -/
theorem State.wf_setLanes {s : State} (ls : Tab Lane) (h : s.wf = true) (hl : tabWf Lane.reset ls = true) :
    State.wf { s with lanes := ls } = true := by
  rw [State.wf_iff] at h ⊢
  obtain ⟨hd, hc, hx, _, hs⟩ := h
  exact ⟨hd, hc, hx, hl, hs⟩

theorem State.tabWf_lanes {s : State} (h : s.wf = true) : tabWf Lane.reset s.lanes = true := by
  rw [State.wf_iff] at h
  obtain ⟨_, _, _, hl, _⟩ := h
  exact hl

theorem State.wf_leaveLanes {s : State} (k : CoreId) (n : Nat) (h : s.wf = true) : (leaveLanes s k n).wf = true :=
  State.wf_setLanes _ h (List.foldlRecOn (motive := fun ls => tabWf Lane.reset ls = true) s.lanes _ (State.tabWf_lanes h)
    fun _ hl _ _ => tabWf_tabSet Lane.reset _ _ _ hl)

theorem State.wf_copyFault {s : State} (k : CoreId) (n : Nat) (t : Tag) (f : CFault) (h : s.wf = true) :
    (copyFault s k n t f).wf = true := by
  refine State.wf_leaveLanes k n (State.wf_modCore k ?_ fun c hc => Core.wf_setTag n none hc)
  split
  · exact State.wf_writeRecord k _ h
  · exact State.wf_takeTrap k _ h
  · exact State.wf_takeTrap k _ h
  · exact h

theorem State.wf_blockEnds {s : State} (k : CoreId) (n : Nat) (t : Tag) (f : CFault) (h : s.wf = true) :
    (blockEnds s k n t f).wf = true := State.wf_copyFault k n _ f h

/-! ## Frames, pages and translations (R327, R330, R335) -/

theorem State.wf_mapCores {s : State} {f : Core → Core} (h : s.wf = true) (hf : ∀ c, c.wf = true → (f c).wf = true) :
    (s.mapCores f).wf = true :=
  State.wf_foldl _ (fun _ k ht => State.wf_modCore (BitVec.ofNat 8 k) ht hf) _ s h

theorem State.wf_popFrame {s t : State} {die fr : Nat} (h : s.wf = true) (ht : popFrame s die = some (fr, t)) : t.wf = true := by
  unfold popFrame at ht
  dsimp only at ht
  split at ht
  · cases ht
  · injection ht with ht
    injection ht with _ ht
    exact ht ▸ h

theorem State.wf_standing {s : State} (pa len : Nat) (h : s.wf = true) : (s.standing pa len).wf = true := h

theorem State.wf_setPoison {s : State} (us : List Nat) (h : s.wf = true) : State.wf { s with poison := us } = true := h

theorem State.wf_fillFrame {s : State} (fr : Nat) (bytes : Mem) (poison : List Nat) (h : s.wf = true) :
    (fillFrame s fr bytes poison).wf = true := by
  unfold fillFrame
  exact State.wf_setPoison _ (State.wf_standing _ _ (State.wf_writePhys _ _ h))

theorem State.wf_returnFrame {s : State} (fr : Nat) (h : s.wf = true) : (returnFrame s fr).wf = true := State.wf_ite h h

theorem State.wf_dropCoreTlbs {s : State} (n : CtxId) (lo hi : Nat) (h : s.wf = true) : (dropCoreTlbs s n lo hi).wf = true :=
  State.wf_mapCores h fun _ hc => hc

theorem State.wf_dropTlbs {s : State} (n : CtxId) (lo hi : Nat) (h : s.wf = true) : (dropTlbs s n lo hi).wf = true :=
  State.wf_dropCoreTlbs n lo hi h

/-- The card that a page-in gives is canonical. -/
def PagedIn.canonical : PagedIn → Prop
  | .wait => True
  | .lost => True
  | .done s => s.wf = true

theorem canonical_pageIn {s : State} (n : CtxId) (vpn : Nat) (f : Found) (h : s.wf = true) : (pageIn s n vpn f).canonical := by
  unfold pageIn
  extract_lets held
  clear_value held
  split
  · exact trivial
  · split
    · exact trivial
    · split
      · exact trivial
      · rename_i fr t e
        have ht : t.wf = true := State.wf_popFrame h e
        refine State.wf_setPte _ _ ?_
        split
        · exact State.wf_setSlot _ none (State.wf_fillFrame _ _ _ ht)
        · exact State.wf_logEntry _ _ _ _ _ (State.wf_fillFrame _ _ _ ht)

/-! ## Migration (R336) -/

/-- The card that a step of a migration gives is canonical. -/
def Migrated.canonical : Migrated → Prop
  | .wait => True
  | .stop s => s.wf = true
  | .copied s _ => s.wf = true
  | .done s => s.wf = true

theorem State.wf_moveUnsaved {s : State} (old fr : Nat) (h : s.wf = true) : (s.moveUnsaved old fr).wf = true := h

theorem canonical_migrateCopy {s : State} (m : Migration) (h : s.wf = true) : (migrateCopy s m).canonical := by
  unfold migrateCopy
  dsimp only
  split
  · exact h
  · split
    · exact trivial
    · split
      · exact h
      · split
        · exact h
        · rename_i e
          exact State.wf_moveUnsaved _ _ (State.wf_fillFrame _ _ _ (State.wf_popFrame h e))

theorem canonical_migrateReplace {s : State} {m : Migration} {fr ea e : Nat} {r : Migrated} (h : s.wf = true)
    (hr : migrateReplace s m fr ea e = r) : r.canonical := by
  unfold migrateReplace at hr
  dsimp only at hr
  split at hr
  · exact hr ▸ h
  · rw [← hr]
    exact State.wf_returnFrame _ (State.wf_dropTlbs _ _ _ (State.wf_setPte _ _ h))

theorem canonical_migratePage {s : State} {m : Migration} {r : Migrated} (h : s.wf = true) (hr : migratePage s m = r) :
    r.canonical := by
  unfold migratePage at hr
  split at hr
  · exact hr ▸ canonical_migrateCopy m h
  · exact canonical_migrateReplace h hr

/-- Base camp's scheduler is no part of the form. -/
theorem State.wf_setSched {s : State} (x : Sched) (h : s.wf = true) : State.wf { s with sched := x } = true := h

theorem State.wf_migrateRun : ∀ (fuel : Nat) {s : State}, s.wf = true → (migrateRun fuel s).wf = true
  | 0, _, h => h
  | fuel + 1, s, h => by
    unfold migrateRun
    split
    · exact h
    · rename_i m rest _
      dsimp only
      split
      · exact State.wf_migrateRun fuel (State.wf_setSched _ h)
      · have hm := canonical_migratePage (m := m) h rfl
        split
        · exact h
        · rename_i e
          rw [e] at hm
          exact State.wf_migrateRun fuel (State.wf_setSched _ hm)
        · rename_i e
          rw [e] at hm
          exact State.wf_setSched _ hm
        · rename_i e
          rw [e] at hm
          exact State.wf_migrateRun fuel (State.wf_setSched _ hm)

theorem State.wf_migrate {s : State} (h : s.wf = true) : s.migrate.wf = true := State.wf_ite h (State.wf_migrateRun _ h)

theorem State.wf_startMigration {s : State} (p : BitVec 12) (n : CtxId) (h : s.wf = true) : (startMigration s p n).wf = true := by
  unfold startMigration
  exact State.wf_migrate (State.wf_setSched _ h)

/-! ## Cairns and launches (R303 to R311) -/

theorem State.wf_setCairn {s : State} (c : BitVec 12) (x : Cairn) (h : s.wf = true) : (s.setCairn c x).wf = true := h
theorem State.wf_modCairn {s : State} (c : BitVec 12) (f : Cairn → Cairn) (h : s.wf = true) : (s.modCairn c f).wf = true := h
theorem State.wf_modLive {s : State} (lc : BitVec 12) (f : Launch → Launch) (h : s.wf = true) : (s.modLive lc f).wf = true := h

theorem State.wf_failLaunch {s : State} (lc : BitVec 12) (cause : Nat) (h : s.wf = true) : (failLaunch s lc cause).wf = true := by
  unfold failLaunch
  split
  · exact h
  · exact State.wf_foldl _ (fun _ c ht => State.wf_modCairn c _ ht) _ _ (State.wf_modCairn _ _ (State.wf_modLive _ _ h))

theorem State.wf_skipLaunch {s : State} (lc : BitVec 12) (h : s.wf = true) : (skipLaunch s lc).wf = true :=
  State.wf_modCairn _ _ (State.wf_modLive _ _ h)

/-- The card that a lease's page gives is canonical. -/
def Resident.canonical : Resident → Prop
  | .wait s => s.wf = true
  | .failed s => s.wf = true
  | .done s => s.wf = true

theorem canonical_residentPage {s : State} (l : Launch) (e : Lease) (vpn : Nat) (h : s.wf = true) :
    (residentPage s l e vpn).canonical := by
  unfold residentPage
  dsimp only
  split
  · exact h
  · rename_i f _
    have hu : (s.campUse l.ctx (vpn * 4096) f false).wf = true := State.wf_campUse _ _ _ _ h
    split
    · split
      · exact hu
      · split
        · exact hu
        · split
          · exact hu
          · exact State.wf_askTranslation _ _ _ _ _ hu
    · split
      · split
        · exact hu
        · split
          · exact State.wf_modLive _ _ hu
          · exact hu
      · have hp := canonical_pageIn l.ctx vpn f hu
        split
        · exact hu
        · exact hu
        · rename_i e
          rw [e] at hp
          exact State.wf_modLive _ _ hp
      · exact hu
      · exact hu

theorem State.wf_residencyRun : ∀ (fuel : Nat) {s : State} (lc : BitVec 12), s.wf = true → (residencyRun fuel s lc).wf = true
  | 0, _, _, h => h
  | fuel + 1, s, lc, h => by
    unfold residencyRun
    split
    · exact h
    · rename_i l _
      split
      · split
        · exact h
        · rename_i k _ _ _ e _
          dsimp only
          split
          · exact State.wf_residencyRun fuel lc (State.wf_modLive _ _ h)
          · have hr := canonical_residentPage l e (e.pages.1 + k) h
            split
            · rename_i e
              rw [e] at hr
              exact hr
            · rename_i e
              rw [e] at hr
              exact State.wf_failLaunch lc 2 hr
            · rename_i e
              rw [e] at hr
              exact State.wf_residencyRun fuel lc (State.wf_modLive _ _ hr)
      · exact h

theorem State.wf_residencyOf {s : State} (l : Launch) (h : s.wf = true) : (s.residencyOf l).wf = true :=
  State.wf_ite h (State.wf_residencyRun _ _ h)

theorem State.wf_releaseLaunch {s : State} (l : Launch) (h : s.wf = true) : (releaseLaunch s l).wf = true := by
  obtain ⟨hx, ehx, wf_hx⟩ : ∃ R, hxRead = R ∧ ∀ {s t : State} {n : CtxId} {a len : Nat} {b : List Byte}, s.wf = true →
      R s n a len = some (b, t) → t.wf = true := ⟨_, rfl, State.wf_hxRead⟩
  unfold releaseLaunch
  rw [ehx]
  dsimp only
  have hs : (s.setCtx l.ctx { s.ctx l.ctx with released := (s.ctx l.ctx).released + 1 }).wf = true := State.wf_setCtx _ _ h
  split
  · exact State.wf_residencyOf _ (State.wf_modLive _ _ hs)
  · split
    · exact State.wf_failLaunch _ _ (State.wf_walkMarks _ _ _ _ hs)
    · rename_i e
      have ht := wf_hx hs e
      split
      · exact State.wf_skipLaunch _ ht
      · exact State.wf_residencyOf _ (State.wf_modLive _ _ ht)

theorem State.wf_endLaunch {s : State} (lc : BitVec 12) (ok : Bool) (h : s.wf = true) : (endLaunch s lc ok).wf = true := by
  unfold endLaunch
  split
  · exact h
  · refine State.wf_foldl _ (fun _ d ht => ?_) _ _ (State.wf_modLive _ _ h)
    exact State.wf_ite (State.wf_modLive _ _ ht) (State.wf_failLaunch _ _ ht)

theorem State.wf_completeCairn {s : State} (c : BitVec 12) (h : s.wf = true) : (completeCairn s c).wf = true := by
  have hc : (s.setCairn c { s.cairn c with state := .complete }).wf = true := State.wf_setCairn _ _ h
  have hs := State.wf_ite (b := (s.cairn c).level = 0) (State.wf_endLaunch c (!(s.cairn c).flt && !(s.cairn c).cnl) hc)
    (State.wf_ite (b := (s.cairn c).level = 2) (State.wf_startMigration c (s.cairn c).ctx hc) hc)
  exact State.wf_ite (State.wf_msix _ hs) hs

theorem State.wf_sweepOne {s t : State} (h : s.wf = true) (ht : sweepOne s = some t) : t.wf = true := by
  unfold sweepOne at ht
  dsimp only at ht
  split at ht
  · injection ht with ht
    exact ht ▸ State.wf_setCairn _ _ h
  · split at ht
    · injection ht with ht
      exact ht ▸ State.wf_completeCairn _ h
    · split at ht
      · injection ht with ht
        exact ht ▸ State.wf_releaseLaunch _ h
      · cases ht

theorem State.wf_sweepRun : ∀ (fuel : Nat) {s : State}, s.wf = true → (sweepRun fuel s).wf = true
  | 0, _, h => h
  | fuel + 1, s, h => by
    unfold sweepRun
    split
    · exact h
    · rename_i e
      exact State.wf_sweepRun fuel (State.wf_sweepOne h e)

theorem State.wf_sweep {s : State} (h : s.wf = true) : s.sweep.wf = true := State.wf_sweepRun _ h

theorem State.wf_countDone {s : State} (t : Task) (h : s.wf = true) : (countDone s t).wf = true := by
  unfold countDone
  split
  · exact h
  · exact State.wf_ite h (State.wf_sweep (State.wf_foldl _ (fun _ c ht => State.wf_modCairn c _ ht) _ _ h))

/-! ## Join slots, queues and cancels (R175, R313, R317) -/

theorem State.wf_setJoinSlot {s : State} (n : BitVec 16) (x : JoinSlot) (h : s.wf = true) : (s.setJoinSlot n x).wf = true := h

theorem State.wf_joinEnd {s : State} (joined : Bool) (parent : BitVec 16) (failed : Bool) (h : s.wf = true) :
    (joinEnd s joined parent failed).wf = true := State.wf_ite (State.wf_setJoinSlot _ _ h) h

theorem State.wf_setQueue {s : State} (die level : Nat) (q : Queue) (h : s.wf = true) : (s.setQueue die level q).wf = true := h

theorem State.wf_discardRecords {s : State} (p : ContRec → Bool) (h : s.wf = true) : (discardRecords s p).wf = true := by
  unfold discardRecords
  refine State.wf_setSched _ ?_
  exact State.wf_foldl _ (fun _ i ht => State.wf_ite (State.wf_setQueue _ _ _ ht) ht) _ _ h

theorem State.wf_cancelLaunch {s : State} (lc : BitVec 12) (h : s.wf = true) : (cancelLaunch s lc).wf = true := by
  unfold cancelLaunch
  split
  · exact h
  · rename_i l _
    split
    · exact h
    · dsimp only
      refine State.wf_foldl _ (fun _ c ht => State.wf_ite ht (State.wf_modCairn _ _ ht)) _ _ (State.wf_modCairn _ _ ?_)
      refine State.wf_mapCores (State.wf_setSched _ (State.wf_discardRecords _ ?_)) fun c hc => ?_
      · exact State.wf_foldl _ (fun _ r ht => State.wf_joinEnd _ _ _ ht) _ _ (State.wf_modLive _ _ h)
      · split
        · exact Core.wf_cancelTask hc
        · exact hc

theorem State.wf_cancelCairn {s : State} (c : BitVec 12) (h : s.wf = true) : (cancelCairn s c).wf = true := by
  unfold cancelCairn
  refine State.wf_sweep (State.wf_foldl _ (fun _ lc ht => State.wf_cancelLaunch lc ht) _ _ ?_)
  exact State.wf_foldl _ (fun _ c ht => State.wf_modCairn c _ ht) _ _ h

/-! ## The release of a core (R338, R22) -/

theorem State.wf_withdrawSpawn {s : State} (k : CoreId) (h : s.wf = true) : (withdrawSpawn s k).wf = true := by
  unfold withdrawSpawn
  split
  · exact State.wf_setSched _ h
  · exact h

theorem State.wf_dropFlush {s : State} (k : CoreId) (h : s.wf = true) : (dropFlush s k).wf = true := h

theorem State.wf_dropTrees {s : State} (h : s.wf = true) : (dropTrees s).wf = true := h

theorem State.wf_freeUnclaimed {s : State} (k : CoreId) (h : s.wf = true) : (freeUnclaimed s k).wf = true := by
  unfold freeUnclaimed
  split
  · rename_i r _
    exact State.wf_ite (State.wf_setSeq _ (State.wf_modCore k h fun c hc => Core.wf_unclaimed r s.seq hc)) h
  · exact h

theorem State.wf_releaseCore {s : State} (k : CoreId) (h : s.wf = true) : (releaseCore s k).wf = true := by
  unfold releaseCore
  dsimp only
  refine State.wf_dropTrees (State.wf_dropFlush k ?_)
  have hl : ∀ (l : List (Nat × Tag)) {t : State}, t.wf = true → (l.foldl (fun s p => leaveLanes s k p.1) t).wf = true :=
    fun l t ht => State.wf_foldl _ (fun _ p hs => State.wf_leaveLanes k p.1 hs) l t ht
  have hr := State.wf_rename (fun w => match w with | .task j _ => if j = k then .other else w | _ => w)
    (hl ((withdrawSpawn (freeUnclaimed s k) k).core k).liveTags (State.wf_withdrawSpawn k (State.wf_freeUnclaimed k h)))
  exact State.wf_setCore k hr (Core.wf_released (State.wf_core k hr))

theorem State.wf_donePerform {s : State} (k : CoreId) (h : s.wf = true) : (donePerform s k).wf = true :=
  State.wf_countDone _ (State.wf_joinEnd _ _ _ (State.wf_count _ (State.wf_releaseCore k
    (State.wf_modCore k h fun _ hc => Core.wf_release 4 hc))))

end Sys2Proof.Machine
end

section
/-! SUPPORT. The vector sequencer keeps the canonical form of the card's tables and memories (log 5): traps of a crew, loop commands,
groups and portable code. -/

namespace Sys2Proof.Machine

/-- A change of every core of a list keeps the form, where it keeps each core's. -/
theorem State.wf_modCores {s : State} {f : Core → Core} (l : List CoreId) (h : s.wf = true)
    (hf : ∀ c, c.wf = true → (f c).wf = true) : (l.foldl (fun s m => s.modCore m f) s).wf = true :=
  State.wf_foldl _ (fun _ k ht => State.wf_modCore k ht hf) l s h

/-! ## Stores to sync words (R95) -/

theorem State.wf_spoil {s : State} (k : CoreId) (a n : Nat) (h : s.wf = true) : (s.spoil k a n).wf = true := by
  unfold State.spoil
  split
  · exact h
  · refine State.wf_setSeq _ (State.wf_foldl _ (fun t w ht => ?_) _ _ h)
    exact State.wf_modCore k ht fun _ hc => Core.wf_writeScratch w _ hc

theorem State.wf_spoilAll {s : State} (k : CoreId) (l : List (Nat × Nat)) (h : s.wf = true) : (s.spoilAll k l).wf = true := by
  unfold State.spoilAll
  exact State.wf_foldl (fun t (x : Nat × Nat) => t.spoil k x.1 x.2) (fun _ x ht => State.wf_spoil k x.1 x.2 ht) l s h

/-! ## Traps of a crew (R44, R57) -/

theorem State.wf_crewTrap {s : State} (crew : List CoreId) (traps : List (CoreId × TrapRec)) (h : s.wf = true) :
    (crewTrap s crew traps).wf = true := by
  refine State.wf_foldl _ (fun t m ht => ?_) crew s h
  split
  · exact State.wf_takeTrap m _ ht
  · exact State.wf_takeTrap m _ ht
  · exact ht

theorem State.wf_fireTrap {s : State} (k : CoreId) (h : s.wf = true) : (fireTrap s k).wf = true := by
  unfold fireTrap
  extract_lets c fs fired c1 s1
  have hc : c1.wf = true := by
    refine Core.wf_foldl (fun d l hd => ?_) fs (State.wf_core k h)
    split
    · exact hd
    · exact hd
  have hs : s1.wf = true := State.wf_setCore k h hc
  exact State.wf_takeTrap k _ (State.wf_ite hs (State.wf_setSeq _ hs))

theorem State.wf_crewFire {s : State} (crew : List CoreId) (f : CoreId) (h : s.wf = true) : (crewFire s crew f).wf = true :=
  State.wf_foldl _ (fun _ m ht => State.wf_ite (State.wf_takeTrap m _ ht) (State.wf_fireTrap m ht)) crew s h

/-- A gather or scatter fault found. -/
theorem State.wf_gatherStop {s t : State} {crew : List CoreId} (h : s.wf = true) (ht : gatherStop s crew = some t) : t.wf = true := by
  unfold gatherStop at ht
  dsimp only at ht
  split at ht
  · cases ht
  · injection ht with ht
    exact ht ▸ State.wf_crewTrap _ _ h

/-! ## Loop commands and CIM.MODE (R27, R38) -/

theorem State.wf_beginLoop {s : State} (k : CoreId) (l : LoopCmd) (h : s.wf = true) : (beginLoop s k l).wf = true := by
  have hs := State.wf_modCore k (f := fun c => { c with cmdq := c.cmdq.drop 1 })
    (State.wf_modCores (f := fun c => { c with loopRun := some (s.loopStart k l) }) (s.crew k) h fun _ hc => hc) fun _ hc => hc
  exact State.wf_ite (State.wf_crewTrap _ _ hs) hs

theorem State.wf_advance {s : State} (k : CoreId) (r : LoopRun) (next : Nat) (h : s.wf = true) : (advance s k r next).wf = true := by
  unfold advance
  extract_lets get r' t
  have ht : t.wf = true := State.wf_modCores _ h fun _ hc => hc
  split
  · exact State.wf_ite (State.wf_beginLoop k _ ht) ht
  · exact ht

theorem State.wf_modePerform {s : State} (k : CoreId) (h : s.wf = true) : (modePerform s k).wf = true := by
  unfold modePerform
  split
  · rename_i b x kind _ stamp _ _
    refine State.wf_ite (State.wf_modCore k ?_ fun _ hc => hc) h
    exact State.wf_modCores _ h fun _ hc => Core.wf_modeBegin b x kind stamp hc
  · exact h

/-! ## Cycles -/

/-- What a crew's evaluations left is canonical. -/
theorem canonical_evals {s : State} {crew : List CoreId} {f : Core → GEval} (h : s.wf = true)
    (hf : ∀ c, c.wf = true → (f c).canonical) : ∀ p ∈ crew.map fun m => (m, f (s.core m)), p.2.canonical := by
  intro p hp
  obtain ⟨m, _, rfl⟩ := List.mem_map.mp hp
  exact hf _ (State.wf_core m h)

theorem State.wf_stallCycle {s : State} (crew : List CoreId) (evs : List (CoreId × GEval)) (h : s.wf = true)
    (he : ∀ p ∈ evs, p.2.canonical) : (stallCycle s crew evs).wf = true := by
  unfold stallCycle
  extract_lets t u
  have ht : t.wf = true := by
    refine List.foldlRecOn (motive := fun t : State => t.wf = true) evs _ h fun t ht p hp => ?_
    have hc := he p hp
    split
    · rename_i e
      rw [e] at hc
      exact State.wf_setCore _ ht hc
    · exact ht
  have hu : u.wf = true := State.wf_modCores crew ht fun _ hc => hc
  exact State.wf_ite (State.wf_crewTrap _ _ hu) hu

/-- Evaluations that issue take effect on each core, with what their stores do to sync words. -/
theorem State.wf_issues {s : State} (evs : List (CoreId × GEval)) (stores : CoreId → List (Nat × Nat)) (h : s.wf = true)
    (he : ∀ p ∈ evs, p.2.canonical) :
    (evs.foldl (fun t p => match p.2 with
      | .issued c => (t.setCore p.1 c).spoilAll p.1 (stores p.1)
      | _ => t) s).wf = true := by
  refine List.foldlRecOn (motive := fun t : State => t.wf = true) evs _ h fun t ht p hp => ?_
  have hc := he p hp
  split
  · rename_i e
    rw [e] at hc
    exact State.wf_spoilAll _ _ (State.wf_setCore _ ht hc)
  · exact ht

theorem State.wf_idleCycles {s : State} (crew : List CoreId) (h : s.wf = true) : (s.idleCycles crew).wf = true :=
  State.wf_foldl _ (fun _ m ht => State.wf_spoilAll m _ (State.wf_modCore m ht fun _ hc =>
    Core.wf_zeroCycle (Core.wf_idleCycle hc))) crew s h

theorem State.wf_groupCycle {s : State} (k : CoreId) (r : LoopRun) (h : s.wf = true) : (groupCycle s k r).wf = true := by
  unfold groupCycle
  extract_lets crew start g r' t evs traps u
  have ht : t.wf = true := State.wf_modCores crew h fun _ hc => hc
  have he : ∀ p ∈ evs, p.2.canonical := canonical_evals ht fun _ hc => Core.canonical_evalGroup start g hc
  split
  · rename_i e
    exact State.wf_gatherStop ht e
  · exact State.wf_crewFire _ _ ht
  · split
    · exact State.wf_crewTrap _ _ ht
    · split
      · exact State.wf_stallCycle _ _ ht he
      · have hu : u.wf = true := State.wf_issues evs (fun m => (t.core m).vsStores g) ht he
        exact State.wf_advance _ _ _ hu

/-- What a portable instruction comes to on a core. -/
theorem canonical_portable {c : Core} (i : Instr) (h : c.wf = true) :
    GEval.canonical (match c.wordTrap i with
      | some t => .trap t
      | none => match vword i c with
        | .error (.trap t) => .trap t
        | .error (.lack x) => .lack x (slotOf i) (c.wordStalled i)
        | .ok c' => .issued c') := by
  split
  · trivial
  · split
    · trivial
    · exact Core.wf_wordStalled i h
    · rename_i e
      exact Core.wf_of_vword h e

theorem State.wf_portableStep {s : State} (k : CoreId) (r : LoopRun) (h : s.wf = true) : (portableStep s k r).wf = true := by
  unfold portableStep
  extract_lets crew r' finish due
  have hf : ∀ t : State, t.wf = true → (finish t).wf = true := by
    intro t ht
    unfold finish
    extract_lets u v
    have hu : u.wf = true := by
      refine State.wf_foldl _ (fun x m hx => State.wf_modCore m hx fun c hc => ?_) crew t ht
      split
      · exact Core.wf_unclaimed r _ hc
      · exact hc
    have hv : v.wf = true := State.wf_ite (State.wf_setSeq _ hu) hu
    split
    · exact State.wf_ite (State.wf_beginLoop k _ hv) hv
    · exact hv
  split
  · exact hf s h
  · exact hf s h
  · exact hf s h
  · rename_i e
    exact State.wf_gatherStop h e
  · exact State.wf_crewTrap _ _ h
  · extract_lets evs traps stored u1 u2
    have he : ∀ p ∈ evs, p.2.canonical := canonical_evals h fun _ hc => canonical_portable _ hc
    have hu : u2.wf = true := State.wf_modCores crew (State.wf_issues evs stored h he) fun _ hc => hc
    split
    · exact State.wf_crewTrap _ _ h
    · split
      · exact State.wf_stallCycle _ _ h he
      · split
        · exact State.wf_crewFire _ _ hu
        · exact hf _ (State.wf_foldl _ (fun _ m ht => State.wf_spoilAll m _ (State.wf_modCore m ht fun _ hc =>
            Core.wf_settle hc)) crew _ hu)

theorem State.wf_vsCycle {s : State} (k : CoreId) (h : s.wf = true) : (vsCycle s k).wf = true := by
  unfold vsCycle
  extract_lets c crew idle
  have hi : idle.wf = true := State.wf_idleCycles crew h
  split
  · exact State.wf_setCore k h (Core.wf_zeroCycle (State.wf_core k h))
  · split
    · exact h
    · split
      · exact State.wf_ite (State.wf_portableStep k _ h) (State.wf_groupCycle k _ h)
      · split
        · exact State.wf_crewFire _ _ h
        · split
          · exact hi
          · exact State.wf_ite (State.wf_beginLoop k _ h) hi
          · exact State.wf_ite (State.wf_modePerform k h) hi
          · refine State.wf_ite ?_ hi
            cases e : gatherStop s crew with
            | none => exact hi
            | some t => exact State.wf_gatherStop h e

/-! ## Outcomes -/

/-- The card that an instruction leaves is canonical, if it leaves one. -/
def Out.canonical : Out → Prop
  | .next t => t.wf = true
  | .fault _ => True
  | .refused _ => True

theorem Out.wf_of_canonical {o : Out} {t : State} (h : o.canonical) (ho : o = .next t) : t.wf = true := by
  rw [ho] at h
  exact h

theorem canonical_ite {b : Prop} [Decidable b] {x y : Out} (hx : x.canonical) (hy : y.canonical) :
    (if b then x else y).canonical := by
  split
  · exact hx
  · exact hy

theorem canonical_vrun {s : State} (i : Instr) (h : s.wf = true) : (vrun i s).canonical := by
  unfold vrun
  split
  · exact State.wf_takeTrap _ _ h
  · split
    · rename_i e
      exact State.wf_spoilAll _ _ (State.wf_setMe h (Core.wf_of_vword (State.wf_me h) e))
    · exact State.wf_takeTrap _ _ h
    · exact State.wf_setMe h (Core.wf_wordStalled i (State.wf_me h))

end Sys2Proof.Machine
end

section
/-! SUPPORT. The copy engine keeps the canonical form of the card's tables and memories (log 5): translations, the movement of bytes,
transforms, atomics, gathers and scatters. -/

namespace Sys2Proof.Machine

/-- A command's tag takes a new value. -/
theorem State.wf_putTag {s : State} (k : CoreId) (n : Nat) (t : Option Tag) (h : s.wf = true) :
    (s.modCore k fun c => c.setTag n t).wf = true :=
  State.wf_modCore k h fun _ hc => Core.wf_setTag n t hc

/-! ## Translations (R293, R323, R329) -/

theorem State.wf_endMarks {s : State} (k : CoreId) (e : End) (rs : List Run) (r w write : Bool) (h : s.wf = true) :
    (endMarks s k e rs r w write).wf = true := by
  unfold endMarks
  split
  · exact State.wf_ite (State.wf_walkPages _ _ _ h) h
  · exact h

theorem State.wf_startMarks {s : State} (k : CoreId) (t : Tag) (h : s.wf = true) : (startMarks s k t).wf = true := by
  unfold startMarks
  extract_lets src both
  have hsrc : ∀ n, (src n).wf = true := fun n => State.wf_endMarks k _ _ _ _ _ h
  have hboth : ∀ n rs, (both n rs).wf = true := by
    intro n rs
    unfold both
    split
    · exact State.wf_endMarks k _ _ _ _ _ (hsrc n)
    · exact hsrc n
  split
  · exact State.wf_ite h (State.wf_endMarks k _ _ _ _ _ h)
  · exact hsrc _
  · exact hsrc _
  · exact hboth _ _
  · exact hboth _ _

theorem State.wf_holdLeaf {s : State} (k : CoreId) (n : CtxId) (va : Nat) (f : Found) (h : s.wf = true) :
    (s.holdLeaf k n va f).wf = true := by
  unfold State.holdLeaf
  split
  · exact h
  · exact State.wf_ite (State.wf_setSeq _ h) (State.wf_modCore k h fun _ hc => hc)

theorem Acq.wf_acquirePage {q : Acq} (k : CoreId) (n : CtxId) (who : Waiter) (r w : Bool) (x : Piece × Found) (h : q.s.wf = true) :
    (acquirePage k n who r w q x).s.wf = true := by
  unfold acquirePage
  dsimp only
  split
  · exact h
  · split
    · exact State.wf_holdLeaf _ _ _ _ (State.wf_walked _ _ h)
    · split
      · exact h
      · split
        · exact h
        · exact State.wf_holdLeaf _ _ _ _ h
    · split
      · exact h
      · split
        · exact h
        · exact State.wf_askTranslation _ _ _ _ _ h

theorem State.wf_acquire {s : State} (k : CoreId) (n : CtxId) (who : Waiter) (ts : List Trans) (a b : List (Piece × Found))
    (ra wa rb wb : Bool) (h : s.wf = true) : (acquire s k n who ts a b ra wa rb wb).s.wf = true := by
  have fold : ∀ (r w : Bool) (l : List (Piece × Found)) {q : Acq}, q.s.wf = true →
      (l.foldl (acquirePage k n who r w) q).s.wf = true := fun r w l q hq =>
    List.foldlRecOn (motive := fun q : Acq => q.s.wf = true) l _ hq fun q hq x _ => Acq.wf_acquirePage k n who r w x hq
  exact fold rb wb b (fold ra wa a h)

/-! ## Reading a source (R79, R153) -/

theorem State.wf_arriveAt {s : State} (k : CoreId) (t : Tag) (b : Nat) (h : s.wf = true) : (arriveAt s k t b).wf = true :=
  State.wf_ite h (State.wf_modCore _ h fun _ hc => Core.wf_arrive _ b hc)

theorem Mv.wf_askPiece {m : Mv} (k : CoreId) (n : Nat) (p : Piece) (h : m.s.wf = true) : (askPiece k n m p).s.wf = true := by
  unfold askPiece
  dsimp only
  split
  · exact h
  · split
    · exact h
    · split
      · exact h
      · split
        · exact h
        · split
          · exact h
          · split
            · exact h
            · exact State.wf_hostRead _ _ _ _ _ h
        · split
          · exact h
          · split
            · exact h
            · split
              · exact h
              · split
                · exact h
                · exact State.wf_peerCommand _ _ _ _ _ h

/-- An access that the race detector sees, as a function of which no more is known than what it does to the form (as
`State.ctxRead_opaque`). -/
theorem raceAccess_opaque : ∃ R, raceAccess = R ∧
    ∀ {s : State} (n : CtxId) (b : Agent) (va len : Nat) (w : Bool) (rsc : Nat) (f : Bool), s.wf = true →
      (R s n b va len w rsc f).1.wf = true :=
  ⟨_, rfl, State.wf_raceAccess⟩

theorem Mv.wf_readPiece {m : Mv} (k : CoreId) (p : Piece) (h : m.s.wf = true) : (readPiece k m p).s.wf = true := by
  obtain ⟨race, hrace, wf_race⟩ := raceAccess_opaque
  unfold readPiece
  rw [hrace]
  dsimp only
  split
  · exact h
  · split
    · split
      · exact h
      · have hr := wf_race (m.s.core k).task.ctx (.core k m.t.path) p.va p.len false 0 m.t.raceFaults h
        split
        · rename_i e
          rw [e] at hr
          exact hr
        · rename_i e
          rw [e] at hr
          exact State.wf_countMove k _ _ _ hr
    · exact h

theorem State.wf_readUnits {s : State} (k : CoreId) (n : Nat) (t : Tag) (lo hi : Nat) (h : s.wf = true) :
    (readUnits s k n t lo hi).s.wf = true := by
  unfold readUnits
  extract_lets rs
  split
  · have ha := fun ps : List Piece => List.foldlRecOn (motive := fun m : Mv => m.s.wf = true) ps (askPiece k n)
      (b := ⟨s, t, some [], none⟩) h fun _ hm p _ => Mv.wf_askPiece k n p hm
    dsimp only
    split
    · exact ha _
    · exact List.foldlRecOn (motive := fun m : Mv => m.s.wf = true) _ _ (ha _) fun _ hm p _ => Mv.wf_readPiece k p hm
  · split
    · exact h
    · exact h
  · exact h

theorem State.wf_readSrc {s : State} (k : CoreId) (n : Nat) (t : Tag) (off len : Nat) (h : s.wf = true) :
    (readSrc s k n t off len).s.wf = true := by
  unfold readSrc
  extract_lets sp m
  have hm : m.s.wf = true := by
    unfold m
    split
    · exact h
    · exact State.wf_readUnits k n t _ _ h
  clear_value m
  split
  · exact hm
  · exact hm

/-! ## Writing a destination (R154 to R156) -/

theorem Put.wf_writePiece {m : Put} (k : CoreId) (n : Nat) (cs : List (Nat × List Byte)) (p : Piece) (h : m.s.wf = true) :
    (writePiece k n cs m p).s.wf = true := by
  unfold writePiece
  dsimp only
  split
  · exact h
  · split
    · exact State.wf_countMove k _ _ _ (State.wf_writePhysBy _ _ _ h)
    · exact State.wf_hostWrite _ _ _ _ h
    · split
      · exact h
      · exact State.wf_peerCommand _ _ _ _ _ h

theorem Put.wf_writeChecks {m : Put} (k : CoreId) (n : CtxId) (p : Piece) (h : m.s.wf = true) :
    (writeChecks k n m p).s.wf = true := by
  obtain ⟨race, hrace, wf_race⟩ := raceAccess_opaque
  unfold writeChecks
  rw [hrace]
  dsimp only
  split
  · exact h
  · split
    · exact h
    · split
      · exact h
      · split
        · split
          · exact h
          · split
            · exact h
            · exact h
        · have hr := wf_race n (.core k m.t.path) p.va p.len true 0 m.t.raceFaults h
          split
          · rename_i e
            rw [e] at hr
            exact hr
          · rename_i e
            rw [e] at hr
            exact hr
        · exact h

/-- The commits of a shadow destination keep a core's form. -/
theorem Core.wf_commits {c : Core} (b : BitVec 5) (o : Nat) (cs : List (Nat × List Byte)) (rs : List Run) (h : c.wf = true) {d : Core}
    (hd : rs.foldl (fun (x : Except CFault Core) r => match x with
      | .ok c => c.commit b ((o : Int) + r.d).toNat (chunkBytes cs r.off r.len)
      | e => e) (.ok c) = .ok d) : d.wf = true := by
  have all := List.foldlRecOn (motive := fun x : Except CFault Core => ∀ d, x = .ok d → d.wf = true) rs
    (fun (x : Except CFault Core) r => match x with
      | .ok c => c.commit b ((o : Int) + r.d).toNat (chunkBytes cs r.off r.len)
      | e => e) (b := .ok c) (fun d e => by injection e with e; exact e ▸ h) fun x hx r _ d e => by
        cases x with
        | error f => exact hx d e
        | ok c' => exact Core.wf_commit (hx c' rfl) e
  exact all d hd

theorem State.wf_putDst {s : State} (k : CoreId) (n : Nat) (t : Tag) (cs : List (Nat × List Byte)) (h : s.wf = true) :
    (putDst s k n t cs).s.wf = true := by
  unfold putDst
  dsimp only
  split
  · have hc := fun ps : List Piece => List.foldlRecOn (motive := fun m : Put => m.s.wf = true) ps
      (writeChecks k (s.core k).task.ctx) (b := ⟨s, t, 0, none⟩) h fun _ hm p _ => Put.wf_writeChecks k _ p hm
    split
    · exact h
    · exact List.foldlRecOn (motive := fun m : Put => m.s.wf = true) _ _ (hc _) fun _ hm p _ => Put.wf_writePiece k n cs p hm
  · split
    · exact h
    · exact State.wf_foldl _ (fun _ r ht => State.wf_spoil _ _ _ (State.wf_modCore _ ht fun _ hc => Core.wf_writeScratch _ _ hc)) _ _ h
  · split
    · rename_i e
      exact State.wf_setCore k h (Core.wf_commits _ _ cs _ (State.wf_core k h) e)
    · exact h
  · split
    · exact h
    · exact State.wf_setCore k h (Core.wf_append _ _ _ (State.wf_core k h))

theorem State.wf_settleTag {s : State} (k : CoreId) (n : Nat) (t : Tag) (h : s.wf = true) : (settleTag s k n t).wf = true :=
  State.wf_ite (State.wf_ite (State.wf_putTag k n _ (State.wf_hostRead _ _ _ _ _ h)) (State.wf_putTag k n _ h)) (State.wf_putTag k n _ h)

end Sys2Proof.Machine
end

section
/-! SUPPORT. The events that write memory keep the canonical form of the card's tables and memories (log 5): copies, transforms, lane
tables, atomics, gathers and scatters. -/

namespace Sys2Proof.Machine

/-! ## Starts and movement (R153 to R158) -/

theorem State.wf_flushRead {s : State} (k : CoreId) (h : s.wf = true) : (flushRead s k).wf = true :=
  State.wf_ite h (State.wf_hostRead _ _ _ _ _ h)

theorem State.wf_beginCommand {s : State} (k : CoreId) (n : Nat) (t : Tag) (h : s.wf = true) : (beginCommand s k n t).wf = true := by
  unfold beginCommand
  split
  · exact State.wf_putTag k n _ (State.wf_setLanes _ h (tabWf_tabSet _ _ _ _ (State.tabWf_lanes h)))
  · exact State.wf_putTag k n _ h

theorem canonical_execCopyStart {s : State} (k : CoreId) (tag : BitVec 7) (h : s.wf = true) : (execCopyStart k tag s).canonical := by
  unfold execCopyStart
  dsimp only
  split
  · exact h
  · split
    · exact h
    · split
      · exact State.wf_flushRead k h
      · split
        · exact State.wf_copyFault _ _ _ _ (State.wf_startMarks _ _ h)
        · rename_i t _ _ _ _ a b _
          split
          · exact State.wf_startMarks _ _ h
          · have hq := State.wf_acquire k (s.core k).task.ctx (.tag k tag) t.trans a b true false (t.op.toNat == 5) t.what.writes h
            split
            · exact State.wf_copyFault _ _ _ _ hq
            · split
              · exact State.wf_putTag _ _ _ hq
              · exact State.wf_beginCommand _ _ _ hq

theorem canonical_execCopyArrival {s : State} (k : CoreId) (tag : BitVec 7) (off len : Nat) (h : s.wf = true) :
    (execCopyArrival k tag off len s).canonical := by
  unfold execCopyArrival
  extract_lets c n
  split
  · exact h
  · rename_i t _
    extract_lets rest m
    have hm : m.s.wf = true := State.wf_readSrc _ _ _ _ _ h
    clear_value m
    split
    · exact h
    · split
      · exact State.wf_copyFault _ _ _ _ hm
      · exact State.wf_putTag _ _ _ hm
      · rename_i data _ _
        extract_lets p
        have hp : p.s.wf = true := by
          unfold p
          split
          · dsimp only
            split
            · rename_i e
              exact State.wf_setCore k hm (Core.wf_commit (State.wf_core k h) e)
            · exact hm
          · exact State.wf_putDst _ _ _ _ hm
        clear_value p
        split
        · exact State.wf_copyFault _ _ _ _ hp
        · exact State.wf_settleTag _ _ _ (State.wf_setSeq _ (State.wf_arriveAt _ _ _ hp))

theorem canonical_execCopyComplete {s : State} (k : CoreId) (tag : BitVec 7) (h : s.wf = true) :
    (execCopyComplete k tag s).canonical := by
  unfold execCopyComplete
  dsimp only
  split
  · exact h
  · split
    · exact h
    · exact State.wf_putTag _ _ _ (State.wf_ite (State.wf_writeRecord _ _ h) h)

/-! ## Transforms and lane tables (R158 to R160) -/

theorem State.wf_endTransform {s : State} (k : CoreId) (n : Nat) (t : Tag) (h : s.wf = true) : (endTransform s k n t).wf = true :=
  State.wf_leaveLanes _ _ (State.wf_settleTag _ _ _ h)

theorem State.wf_commitBlock {s : State} (k : CoreId) (n : Nat) (t : Tag) (off : Nat) (data : List Byte) (h : s.wf = true) :
    (commitBlock s k n t off data).wf = true := by
  unfold commitBlock
  extract_lets take cs left p
  have hleft : ∀ (s : State) (t : Tag) (take : Nat), s.wf = true → (left s t take).wf = true :=
    fun _ _ _ hs => State.wf_putTag _ _ _ hs
  have hp : p.s.wf = true := State.wf_putDst _ _ _ _ h
  clear_value p left
  split
  · exact hleft _ _ _ h
  · split
    · exact State.wf_blockEnds _ _ _ _ hp
    · split
      · exact hleft _ _ _ hp
      · split
        · exact State.wf_putTag _ _ _ hp
        · split
          · exact State.wf_putTag _ _ _ hp
          · exact State.wf_putTag _ _ _ (State.wf_arriveAt _ _ _ hp)

theorem State.wf_nextBlock {s : State} (k : CoreId) (n : Nat) (t : Tag) (table : List Byte) (h : s.wf = true) :
    (nextBlock s k n t table).wf = true := by
  unfold nextBlock
  split
  · extract_lets va hd
    have hh : hd.s.wf = true := State.wf_readSrc _ _ _ _ _ h
    clear_value hd
    split
    · exact State.wf_endTransform _ _ _ h
    · split
      · exact State.wf_endTransform _ _ _ h
      · split
        · exact State.wf_blockEnds _ _ _ _ hh
        · exact State.wf_putTag _ _ _ hh
        · rename_i b _ _
          extract_lets inLen outLen method skip m
          have hskip : ∀ (s : State) (t : Tag) (f : CFault), s.wf = true → (skip s t f).wf = true :=
            fun _ _ _ hs => State.wf_putTag _ _ _ hs
          have hm : m.s.wf = true := State.wf_readSrc _ _ _ _ _ hh
          clear_value m skip
          split
          · exact State.wf_endTransform _ _ _ hh
          · split
            · exact hskip _ _ _ hh
            · split
              · exact State.wf_blockEnds _ _ _ _ hh
              · split
                · exact State.wf_blockEnds _ _ _ _ hm
                · exact State.wf_putTag _ _ _ hm
                · split
                  · exact hskip _ _ _ hm
                  · split
                    · exact hskip _ _ _ hm
                    · split
                      · exact State.wf_blockEnds _ _ _ _ hm
                      · split
                        · exact State.wf_putTag _ _ _ (State.wf_arriveAt _ _ _ hm)
                        · exact State.wf_commitBlock _ _ _ _ _ hm
  · exact h

theorem canonical_execCpyxBlock {s : State} (lane : BitVec 8) (h : s.wf = true) : (execCpyxBlock lane s).canonical := by
  unfold execCpyxBlock
  dsimp only
  split
  · exact h
  · split
    · exact h
    · split
      · split
        · split
          · exact State.wf_setLanes _ h (tabWf_tabSet _ _ _ _ (State.tabWf_lanes h))
          · exact State.wf_copyFault _ _ _ _ h
        · split
          · exact h
          · split
            · exact State.wf_commitBlock _ _ _ _ _ h
            · exact State.wf_nextBlock _ _ _ _ h
      · exact h

theorem canonical_execLaneTableCheck {s : State} (lane : BitVec 8) (h : s.wf = true) : (execLaneTableCheck lane s).canonical := by
  unfold execLaneTableCheck
  dsimp only
  split
  · exact h
  · split
    · exact h
    · rename_i k tag _ _ _ t _
      split
      · rename_i len _
        have hm := State.wf_readSrc k tag.toNat t 0 len h
        generalize readSrc s k tag.toNat t 0 len = m at hm ⊢
        split
        · exact State.wf_copyFault _ _ _ _ hm
        · exact State.wf_putTag _ _ _ hm
        · have put : ∀ x : Lane, State.wf { m.s with lanes := tabSet Lane.reset m.s.lanes lane.toNat x } = true :=
            fun x => State.wf_setLanes _ hm (tabWf_tabSet _ _ _ _ (State.tabWf_lanes hm))
          split
          · exact State.wf_endTransform _ _ _ (State.wf_arriveAt _ _ _ (put _))
          · exact State.wf_copyFault _ _ _ _ (put _)
      · exact h

/-! ## Atomics (R92, R162) -/

theorem State.wf_atomDurable {s : State} (k : CoreId) (t : Tag) (scope ord : Nat) (h : s.wf = true) :
    (atomDurable s k t scope ord).wf = true := State.wf_ite (State.wf_makeDurable _ h) h

theorem State.wf_atomEnd {s : State} (k : CoreId) (n : Nat) (t : Tag) (r : Nat) (h : s.wf = true) : (atomEnd s k n t r).wf = true := by
  unfold atomEnd
  split
  · refine State.wf_putTag _ _ _ (State.wf_arriveAt _ _ _ (State.wf_modCore _ (State.wf_atomDurable _ _ _ _ h) fun c hc => ?_))
    dsimp only
    split <;> split
    · exact Core.wf_release _ (Core.wf_writeScratch _ _ hc)
    · exact Core.wf_release _ hc
    · exact Core.wf_writeScratch _ _ hc
    · exact hc
  · exact h

theorem canonical_execAtomPerform {s : State} (k : CoreId) (tag : BitVec 7) (h : s.wf = true) :
    (execAtomPerform k tag s).canonical := by
  unfold execAtomPerform
  dsimp only
  split
  · exact h
  · split
    · split
      · exact h
      · split
        · split
          · split
            · split
              · exact State.wf_copyFault _ _ _ _ h
              · refine State.wf_atomEnd _ _ _ _ (State.wf_countMove _ _ _ _ ?_)
                split
                · exact State.wf_writePhysBy _ _ _ (State.wf_raceAccess _ _ _ _ _ _ _ h)
                · exact State.wf_raceAccess _ _ _ _ _ _ _ h
            · split
              · exact State.wf_copyFault _ _ _ _ h
              · split
                · exact State.wf_copyFault _ _ _ _ h
                · split
                  · exact h
                  · exact State.wf_putTag _ _ _ (State.wf_peerCommand _ _ _ _ _ h)
            · exact State.wf_copyFault _ _ _ _ h
          · exact State.wf_copyFault _ _ _ _ h
        · split
          · exact State.wf_copyFault _ _ _ _ h
          · refine State.wf_atomEnd _ _ _ _ ?_
            split
            · exact State.wf_modCore _ h fun _ hc => Core.wf_writeScratch _ _ hc
            · exact h
        · exact h
    · exact h

/-! ## Gathers and scatters (R230, R231) -/

theorem State.wf_gatherFail {s : State} (k : CoreId) (e : AqEntry) (a : Nat) (f : CFault) (h : s.wf = true) :
    (gatherFail s k e a f).wf = true := by
  refine State.wf_modCore k h fun c hc => ?_
  split
  · exact hc
  · exact hc

theorem State.wf_dropElem {s : State} (k : CoreId) (q : BitVec 3) (h : s.wf = true) : (s.modCore k (·.dropElem q)).wf = true :=
  State.wf_modCore k h fun _ hc => Core.wf_dropElem q hc

theorem State.wf_serveElem {s : State} (k : CoreId) (q : BitVec 3) (scatter : Bool)
    {go : State → AqEntry → End → List Piece → List Trans → Nat → State} (h : s.wf = true)
    (hgo : ∀ s e en ps ts n, s.wf = true → (go s e en ps ts n).wf = true) : (serveElem s k q scatter go).wf = true := by
  unfold serveElem
  extract_lets c n
  split
  · exact h
  · rename_i e r _
    extract_lets failAt fail
    have hfail : ∀ (s : State) a f, s.wf = true → (failAt s a f).wf = true :=
      fun s a f hs => State.wf_gatherFail _ _ _ _ (State.wf_dropElem _ _ hs)
    have hfail' : ∀ a f, (fail a f).wf = true := fun a f => hfail s a f h
    clear_value fail failAt
    split
    · exact hfail' _ _
    · split
      · exact hfail' _ _
      · split
        · exact hfail _ _ _ (State.wf_endMarks _ _ _ _ _ _ h)
        · rename_i ps _
          have ha := State.wf_acquire k c.task.ctx (.elem k q) [] ps [] (!scatter) scatter false false h
          dsimp only
          split
          · exact hfail _ _ _ ha
          · exact State.wf_ite (State.wf_modCore k ha fun _ hc => Core.wf_beginElem _ hc) (hgo _ _ _ _ _ _ ha)

theorem State.wf_gatherPiece {m : State × ElemWait} (k : CoreId) (q : BitVec 3) (ts : List Trans) (p : Piece) (h : m.1.wf = true) :
    (gatherPiece k q ts m p).1.wf = true := by
  unfold gatherPiece
  dsimp only
  split
  · exact State.wf_countMove _ _ _ _ (State.wf_raceAccess _ _ _ _ _ _ _ h)
  · exact State.wf_hostRead _ _ _ _ _ h
  · split
    · exact State.wf_peerCommand _ _ _ _ _ h
    · exact h
  · exact h

theorem State.wf_scatterPiece {m : State × ElemWait} (k : CoreId) (q : BitVec 3) (ts : List Trans) (v : List Byte) (p : Piece)
    (h : m.1.wf = true) : (scatterPiece k q ts v m p).1.wf = true := by
  unfold scatterPiece
  dsimp only
  split
  · exact State.wf_countMove _ _ _ _ (State.wf_writePhysBy _ _ _ (State.wf_raceAccess _ _ _ _ _ _ _ h))
  · exact State.wf_modCore k (State.wf_hostWrite _ _ _ _ h) fun _ hc => hc
  · split
    · exact State.wf_peerCommand _ _ _ _ _ h
    · exact h
  · exact h

theorem State.wf_settleElem {s : State} (k : CoreId) (q : BitVec 3) (w : ElemWait) (h : s.wf = true) :
    (settleElem s k q w).wf = true := by
  refine State.wf_modCore k h fun c hc => ?_
  dsimp only
  split
  · exact hc
  · split
    · exact hc
    · split
      · exact hc
      · exact Core.wf_append (c := { c with elems := c.elems.filter (·.entry.qw != q) }) q 1 _ hc

theorem canonical_execGatherElement {s : State} (k : CoreId) (q : BitVec 3) (h : s.wf = true) :
    (execGatherElement k q s).canonical := by
  unfold execGatherElement
  dsimp only
  split
  · exact h
  · split
    · exact State.wf_settleElem _ _ _ h
    · refine State.wf_serveElem k q false h fun t e en ps ts n ht => ?_
      have hd := State.wf_dropElem k q ht
      split
      · exact State.wf_settleElem _ _ _ hd
      · split
        · exact ht
        · split
          · exact State.wf_gatherFail _ _ _ _ hd
          · exact State.wf_settleElem _ _ _ (List.foldlRecOn (motive := fun m : State × ElemWait => m.1.wf = true) ps _ hd
              fun _ hm p _ => State.wf_gatherPiece k q ts p hm)

theorem canonical_execScatterElement {s : State} (k : CoreId) (q : BitVec 3) (h : s.wf = true) :
    (execScatterElement k q s).canonical := by
  unfold execScatterElement
  dsimp only
  split
  · exact h
  · refine State.wf_serveElem k q true h fun t e en ps ts n ht => ?_
    have htaken : ∀ x : Qcw, (t.modCore k fun c => (c.dropElem q).setQ q x).wf = true := fun x =>
      State.wf_modCore k ht fun _ hc => Core.wf_setQ q x (Core.wf_dropElem q hc)
    split
    · exact State.wf_spoil _ _ _ (State.wf_modCore _ (htaken _) fun _ hc => Core.wf_writeScratch _ _ hc)
    · split
      · exact ht
      · exact State.wf_settleElem _ _ _ (List.foldlRecOn (motive := fun m : State × ElemWait => m.1.wf = true) ps _ (htaken _)
          fun _ hm p _ => State.wf_scatterPiece k q ts _ p hm)

end Sys2Proof.Machine
end

section
/-! SUPPORT. The remaining events that write memory keep the canonical form of the card's tables and memories (log 5): the vector
stream's, paging, inbound accesses, and completions of reads of host memory. -/

namespace Sys2Proof.Machine

/-! ## The vector stream (R37, R237, R240) -/

theorem canonical_execResultLanding {s : State} (k : CoreId) (h : s.wf = true) : (execResultLanding k s).canonical := by
  unfold execResultLanding
  dsimp only
  split
  · split
    · exact State.wf_crewFire _ _ h
    · exact State.wf_idleCycles _ h
  · exact h

theorem canonical_execStalledGroupIssue {s : State} (k : CoreId) (h : s.wf = true) : (execStalledGroupIssue k s).canonical :=
  canonical_ite (State.wf_vsCycle k h) h

theorem canonical_execQueueStall {s : State} (k : CoreId) (h : s.wf = true) : (execQueueStall k s).canonical :=
  canonical_ite (State.wf_vsCycle k h) h

theorem canonical_execCimModePerform {s : State} (k : CoreId) (h : s.wf = true) : (execCimModePerform k s).canonical :=
  canonical_ite (State.wf_modePerform k h) h

theorem canonical_execCimModeZeroingEnd {s : State} (k : CoreId) (h : s.wf = true) : (execCimModeZeroingEnd k s).canonical := by
  unfold execCimModeZeroingEnd
  dsimp only
  split
  · rename_i z _
    split
    · exact h
    · split
      · exact State.wf_setCore k h (Core.wf_modeEnd z (State.wf_core k h))
      · split
        · exact State.wf_modCores _ h fun _ hc => Core.wf_modeEnd z hc
        · exact h
  · exact h

/-! ## Paging (R327 to R335) -/

/-- The translation unit is no part of the form. -/
theorem State.wf_setVm {s : State} (v : Vm) (h : s.wf = true) : State.wf { s with vm := v } = true := h

theorem State.wf_vmStart {s : State} (h : s.wf = true) : (vmStart s).wf = true := by
  unfold vmStart
  dsimp only
  split
  · exact State.wf_setVm _ h
  · split
    · exact State.wf_setVm _ (State.wf_dropTlbs _ _ _ h)
    · exact State.wf_setVm _ h

theorem State.wf_vmCmdWrite {s : State} (v : Word64) (h : s.wf = true) : (vmCmdWrite s v).wf = true := by
  unfold vmCmdWrite
  dsimp only
  split
  · exact State.wf_refuseWrite _ _ _ _ h
  · split
    · exact State.wf_vmStart (State.wf_setVm _ h)
    · exact State.wf_setVm _ h

theorem State.wf_vmStop {s : State} (r : VmRun) (st : Nat) (h : s.wf = true) : (vmStop s r st).wf = true := h
theorem State.wf_vmGoOn {s : State} (r : VmRun) (h : s.wf = true) : (vmGoOn s r).wf = true := h

theorem State.wf_pageOut {s : State} (r : VmRun) (f : Found) (h : s.wf = true) : (pageOut s r f).wf = true := by
  unfold pageOut
  split
  · exact State.wf_vmStop _ _ h
  · exact State.wf_vmGoOn _ (State.wf_setSlot _ _ (State.wf_setSeq _ h))

theorem State.wf_pageOutReplace {s : State} (r : VmRun) (slot ea e : Nat) (h : s.wf = true) :
    (pageOutReplace s r slot ea e).wf = true := by
  unfold pageOutReplace
  dsimp only
  split
  · exact State.wf_vmStop _ _ (State.wf_setSlot _ none h)
  · exact State.wf_vmGoOn _ (State.wf_dropTlbs _ _ _ (State.wf_setPte _ _ h))

theorem State.wf_pageOutStep {s : State} (r : VmRun) (h : s.wf = true) : (pageOutStep s r).wf = true := by
  unfold pageOutStep
  generalize s.walk r.ctx (r.lo * 4096) = found
  split
  · exact State.wf_ite h (State.wf_vmGoOn _ (State.wf_returnFrame _ h))
  · exact State.wf_ite h (State.wf_pageOutReplace _ _ _ _ h)
  · split
    · exact h
    · split
      · exact State.wf_vmStop _ _ h
      · split
        · exact State.wf_vmGoOn _ h
        · split
          · exact State.wf_vmStop _ _ h
          · split
            · exact State.wf_vmStop _ _ h
            · exact State.wf_pageOut _ _ h

theorem State.wf_pageInStep {s : State} (r : VmRun) (h : s.wf = true) : (pageInStep s r).wf = true := by
  unfold pageInStep
  split
  · exact h
  · split
    · exact State.wf_vmStop _ _ h
    · rename_i f _
      have hp := canonical_pageIn r.ctx r.lo f h
      split
      · exact State.wf_vmGoOn _ h
      · split
        · exact State.wf_vmStop _ _ h
        · split
          · exact h
          · exact State.wf_setSeq _ (State.wf_vmStop _ _ h)
          · rename_i e
            rw [e] at hp
            exact State.wf_vmGoOn _ hp

theorem State.wf_vmStep {s : State} (h : s.wf = true) : (vmStep s).wf = true := by
  unfold vmStep
  split
  · rename_i r _
    exact State.wf_ite h (State.wf_ite (State.wf_pageOutStep r h) (State.wf_ite (State.wf_pageInStep r h) h))
  · exact h

theorem canonical_execVmPageOut {s : State} (cmd : Option Word64) (h : s.wf = true) : (execVmPageOut cmd s).canonical := by
  cases cmd with
  | some v => exact State.wf_vmCmdWrite _ h
  | none => exact State.wf_ite (State.wf_vmStep h) h

theorem canonical_execVmPageIn {s : State} (cmd : Option Word64) (h : s.wf = true) : (execVmPageIn cmd s).canonical := by
  cases cmd with
  | some v => exact State.wf_vmCmdWrite _ h
  | none => exact State.wf_ite (State.wf_vmStep h) h

/-! ## Inbound accesses (R291) -/

theorem State.wf_readFails {s : State} (n : Option CtxId) (off : Nat) (h : s.wf = true) : (readFails s n off).wf = true :=
  State.wf_logFree _ _ _ _ (State.wf_send _ h)

theorem State.wf_writeFails {s : State} (n : Option CtxId) (off : Nat) (h : s.wf = true) : (writeFails s n off).wf = true :=
  State.wf_logFree _ _ _ _ h

theorem State.wf_inboundRead {s : State} (off len : Nat) (h : s.wf = true) : (inboundRead s off len).wf = true := by
  obtain ⟨hx, ehx, wf_hx⟩ : ∃ R, hxRead = R ∧ ∀ {s t : State} {n : CtxId} {a len : Nat} {b : List Byte}, s.wf = true →
      R s n a len = some (b, t) → t.wf = true := ⟨_, rfl, State.wf_hxRead⟩
  obtain ⟨aperture, haperture⟩ : ∃ f, State.apertureAt = f := ⟨_, rfl⟩
  obtain ⟨reach, hreach⟩ : ∃ f, State.inboundPa = f := ⟨_, rfl⟩
  unfold inboundRead
  rw [ehx, haperture, hreach]
  split
  · exact State.wf_readFails _ _ h
  · split
    · exact State.wf_readFails _ _ h
    · dsimp only
      split
      · exact State.wf_send _ h
      · split
        · split
          · exact State.wf_send _ h
          · exact State.wf_readFails _ _ h
        · split
          · exact State.wf_readFails _ _ (State.wf_walkMarks _ _ _ _ h)
          · split
            · exact State.wf_setSeq _ (State.wf_send _ (State.wf_walkMarks _ _ _ _ h))
            · split
              · rename_i e
                exact State.wf_send _ (wf_hx h e)
              · exact State.wf_readFails _ _ h

theorem State.wf_inboundWrite {s : State} (off : Nat) (data : List Byte) (h : s.wf = true) : (inboundWrite s off data).wf = true := by
  obtain ⟨write, hwrite, wf_write⟩ := State.ctxWrite_opaque
  obtain ⟨aperture, haperture⟩ : ∃ f, State.apertureAt = f := ⟨_, rfl⟩
  obtain ⟨reach, hreach⟩ : ∃ f, State.inboundPa = f := ⟨_, rfl⟩
  unfold inboundWrite
  rw [hwrite, haperture, hreach]
  split
  · exact State.wf_writeFails _ _ h
  · split
    · exact State.wf_writeFails _ _ h
    · rename_i a o _
      dsimp only
      split
      · exact h
      · split
        · exact State.wf_writeFails _ _ h
        · split
          · split
            · exact State.wf_modCore _ h fun _ hc => Core.wf_writeScratch _ _ hc
            · exact State.wf_writeFails _ _ h
          · split
            · exact State.wf_writeFails _ _ (State.wf_walkMarks _ _ _ _ h)
            · have hr := State.wf_raceAccess a.ctx (.hx false) (bits a.va 56 21 * 2 ^ 21 + o) data.length true 0 false h
              split
              · rename_i e
                exact wf_write hr e
              · exact State.wf_writeFails _ _ hr

theorem canonical_execInboundRead {s : State} (off : BitVec 39) (len : Nat) (h : s.wf = true) : (execInboundRead off len s).canonical :=
  State.wf_ite (State.wf_inboundRead _ _ h) h

theorem canonical_execInboundWrite {s : State} (off : BitVec 39) (data : List Byte) (h : s.wf = true) :
    (execInboundWrite off data s).canonical :=
  State.wf_ite (State.wf_inboundWrite _ _ h) h

/-! ## Completions of reads of host memory (R292) -/

theorem State.wf_tagGot {s : State} (k : CoreId) (n req : Nat) (data : List Byte) (h : s.wf = true) :
    (tagGot s k n req data).wf = true := by
  unfold tagGot
  split
  · exact h
  · split
    · exact h
    · exact State.wf_putTag _ _ _ h

theorem State.wf_elemGot {s : State} (k : CoreId) (q : BitVec 3) (req : Nat) (data : List Byte) (h : s.wf = true) :
    (elemGot s k q req data).wf = true := by
  unfold elemGot
  split
  · exact h
  · exact State.wf_settleElem _ _ _ h

theorem State.wf_flushDone {s : State} (k : CoreId) (n : Nat) (t : Tag) (h : s.wf = true) : (flushDone s k n t).wf = true :=
  State.wf_putTag _ _ _ (State.wf_arriveAt _ _ _ h)

/-- The requests under way are no part of the form. -/
theorem State.wf_setPorts {s : State} (p : Ports) (h : s.wf = true) : State.wf { s with ports := p } = true := h

theorem canonical_execHostReadCompletion {s : State} (req : Nat) (data : List Byte) (h : s.wf = true) :
    (execHostReadCompletion req data s).canonical := by
  unfold execHostReadCompletion
  split
  · exact h
  · extract_lets ports t
    have ht : t.wf = true := State.wf_setPorts _ h
    clear_value t
    split
    · exact State.wf_ringEnd _ _ ht
    · split
      · exact ht
      · split
        · split
          · split
            · exact State.wf_flushDone _ _ _ ht
            · exact State.wf_tagGot _ _ _ _ ht
          · exact ht
        · exact State.wf_elemGot _ _ _ _ ht
        · exact State.wf_modCore _ ht fun _ hc => hc
        · exact ht
        · exact ht
        · exact ht

end Sys2Proof.Machine
end

section
/-! SUPPORT. The instructions of the control stream keep the canonical form of the card's tables and memories (log 5). -/

namespace Sys2Proof.Machine

/-! ## Shapes that control words share -/

theorem State.wf_cpTrap {s : State} (t : Trap) (h : s.wf = true) : (cpTrap s t).wf = true := State.wf_takeTrap _ _ h

theorem canonical_cpTrap {s : State} (t : Trap) (h : s.wf = true) : Out.canonical (.next (cpTrap s t)) := State.wf_cpTrap t h

theorem canonical_cpWrite {s : State} (d : BitVec 5) (v : Word64) (n : Nat) (h : s.wf = true) : (cpWrite s d v n).canonical :=
  State.wf_setMe h (Core.wf_adv n (Core.wf_setG d v (State.wf_me h)))

theorem canonical_cpAgain {s : State} (i : Instr) (h : s.wf = true) : (cpAgain s i).canonical := State.wf_setMe h (State.wf_me h)

theorem canonical_branch {s : State} (taken : Bool) (i : BitVec 15) (h : s.wf = true) : (branch s taken i).canonical := by
  refine State.wf_setMe h ?_
  split
  · exact Core.wf_goto _ (State.wf_me h)
  · exact Core.wf_adv 1 (State.wf_me h)

theorem canonical_cmdEnd {s : State} (again : Instr) {r : Chk State} (h : s.wf = true) (hr : r.answers fun t => t.wf = true) :
    (cmdEnd s again r).canonical := by
  cases r with
  | trap t => exact canonical_cpTrap t h
  | wait => exact canonical_cpAgain again h
  | ok t => exact hr

/-- A command that completes, with a core that is canonical. -/
theorem State.wf_passed {s : State} {c : Core} (h : s.wf = true) (hc : c.wf = true) : (s.setMe c.passed).wf = true :=
  State.wf_setMe h (Core.wf_passed hc)

/-- A command that waits. -/
theorem State.wf_waits {s : State} {c : Core} (w : CpWait) (h : s.wf = true) (hc : c.wf = true) : (s.setMe (c.waits w)).wf = true :=
  State.wf_setMe h (Core.wf_waits w hc)

/-! ## Jumps, loads, stores and scratch atomics (R133 to R138) -/

theorem canonical_execJal {s : State} (d : BitVec 5) (i : BitVec 20) (h : s.wf = true) : (execJal d i s).canonical :=
  State.wf_setMe h (Core.wf_goto _ (Core.wf_setG d _ (State.wf_me h)))

theorem canonical_execJalr {s : State} (d a : BitVec 5) (i : Imm 15) (h : s.wf = true) : (execJalr d a i s).canonical :=
  canonical_ite (canonical_cpTrap _ h) (State.wf_setMe h (Core.wf_goto _ (Core.wf_setG d _ (State.wf_me h))))

theorem canonical_load {s : State} (sx : Bool) (g a : BitVec 5) (w : BitVec 2) (i : Imm 12) (again : Instr) (h : s.wf = true) :
    (load s sx g a w i again).canonical := by
  unfold load
  dsimp only
  split
  · exact canonical_cpTrap _ h
  · exact canonical_cpAgain _ h
  · exact State.wf_setMe h (Core.wf_adv _ (Core.wf_setG g _ (State.wf_me h)))

theorem canonical_execSt {s : State} (g a : BitVec 5) (w : BitVec 2) (i : Imm 12) (h : s.wf = true) : (execSt g a w i s).canonical := by
  unfold execSt
  dsimp only
  split
  · exact canonical_cpTrap _ h
  · exact canonical_cpAgain _ h
  · exact State.wf_spoil _ _ _ (State.wf_setMe h (Core.wf_adv _ (Core.wf_lsWrite _ _ _ (Core.wf_awake (State.wf_me h)))))

theorem canonical_amo {s : State} (op : AtomOp) (d a t : BitVec 5) (r : BitVec 2) (x : Bool) (again : Instr) (h : s.wf = true) :
    (amo op s d a t r x again).canonical := by
  unfold amo
  dsimp only
  split
  · exact canonical_cpTrap _ h
  · exact canonical_cpAgain _ h
  · refine State.wf_setMe h (Core.wf_adv 1 (Core.wf_setG d _ ?_))
    split <;> split
    · exact Core.wf_release 1 (Core.wf_writeScratch _ _ (Core.wf_awake (State.wf_me h)))
    · exact Core.wf_release 1 (Core.wf_awake (State.wf_me h))
    · exact Core.wf_writeScratch _ _ (Core.wf_awake (State.wf_me h))
    · exact Core.wf_awake (State.wf_me h)

/-! ## Fences, system registers, event flags and YIELD (R139 to R148) -/

theorem canonical_fence {s : State} (mask : Nat) (drain : Bool) (scope : BitVec 3) (h : s.wf = true) :
    (fence s mask drain scope).canonical :=
  canonical_ite (State.wf_setMe h (State.wf_me h)) (State.wf_setMe h (State.wf_me h))

theorem State.wf_drainDurable {s : State} (k : CoreId) (drain : Bool) (scope : BitVec 3) (h : s.wf = true) :
    (drainDurable s k drain scope).wf = true := State.wf_ite (State.wf_makeDurable _ h) h

theorem State.wf_fenceTry {s : State} (k : CoreId) (mask : BitVec 6) (drain : Bool) (scope : BitVec 3) (h : s.wf = true) :
    (fenceTry s k mask drain scope).wf = true := by
  have hw : (s.setCore k { s.core k with wait := .fence mask drain scope }).wf = true := State.wf_setCore k h (State.wf_core k h)
  refine State.wf_ite hw (State.wf_ite (State.wf_flushRead k hw) ?_)
  exact State.wf_setCore k (State.wf_drainDurable k drain scope h) (Core.wf_adv 1 (State.wf_core k h))

theorem State.wf_setSysReg {s : State} (n : Nat) (v : Word64) (h : s.wf = true) : (s.setSysReg n v).wf = true := by
  have hm := State.wf_me h
  unfold State.setSysReg
  dsimp only
  split
  · exact State.wf_setMe h hm
  · split
    · exact State.wf_setMe h hm
    · split
      · exact State.wf_setMe h hm
      · split
        · exact State.wf_setMe h hm
        · split
          · exact State.wf_setCtx _ _ h
          · split
            · exact State.wf_setCtx _ _ h
            · exact State.wf_setCtx _ _ h

theorem canonical_execSrd {s : State} (g : BitVec 5) (n : BitVec 12) (h : s.wf = true) : (execSrd g n s).canonical := by
  unfold execSrd
  split
  · exact canonical_cpTrap _ h
  · exact canonical_ite (canonical_cpTrap _ h) (canonical_cpWrite _ _ _ h)

theorem canonical_sysWrite {s : State} (op : Nat) (g : BitVec 5) (n : BitVec 12) (f : Word64 → Word64 → Word64) (h : s.wf = true) :
    (sysWrite s op g n f).canonical := by
  unfold sysWrite
  split
  · exact canonical_cpTrap _ h
  · split
    · exact canonical_cpTrap _ h
    · split
      · exact canonical_cpTrap _ h
      · dsimp only
        split
        · exact canonical_cpTrap _ h
        · have hs : ∀ v, (s.setSysReg n.toNat v).wf = true := fun v => State.wf_setSysReg n.toNat v h
          exact State.wf_setMe (hs _) (Core.wf_adv 1 (State.wf_me (hs _)))

theorem canonical_execSwr {s : State} (g : BitVec 5) (n : BitVec 12) (h : s.wf = true) : (execSwr g n s).canonical :=
  canonical_sysWrite _ _ _ _ h
theorem canonical_execSset {s : State} (g : BitVec 5) (n : BitVec 12) (h : s.wf = true) : (execSset g n s).canonical :=
  canonical_sysWrite _ _ _ _ h
theorem canonical_execSclr {s : State} (g : BitVec 5) (n : BitVec 12) (h : s.wf = true) : (execSclr g n s).canonical :=
  canonical_sysWrite _ _ _ _ h

theorem canonical_execFset {s : State} (f : BitVec 4) (h : s.wf = true) : (execFset f s).canonical :=
  State.wf_setMe h (Core.wf_adv 1 (Core.wf_release (c := { s.me with flags := s.me.flags ||| flagBit f }) 1 (State.wf_me h)))

theorem canonical_execFclr {s : State} (f : BitVec 4) (h : s.wf = true) : (execFclr f s).canonical :=
  State.wf_setMe h (State.wf_me h)

theorem canonical_execFwait {s : State} (f : BitVec 4) (h : s.wf = true) : (execFwait f s).canonical :=
  canonical_ite (State.wf_setMe h (State.wf_me h)) (State.wf_setMe h (State.wf_me h))

theorem State.wf_preemptCore {s : State} (k : CoreId) (h : s.wf = true) : (preemptCore s k).wf = true :=
  State.wf_modCore k (State.wf_withdrawSpawn k h) fun _ hc => hc

theorem State.wf_askPreempt {s : State} (k : CoreId) (h : s.wf = true) : (s.askPreempt k).wf = true :=
  State.wf_modCores _ h fun _ hc => hc

theorem canonical_execYield {s : State} (h : s.wf = true) : (execYield s).canonical := by
  have hs : (s.setMe (s.me.adv 1)).wf = true := State.wf_setMe h (Core.wf_adv 1 (State.wf_me h))
  refine canonical_ite hs (canonical_ite ?_ ?_)
  · exact State.wf_foldl _ (fun _ k ht => State.wf_preemptCore k ht) _ _ hs
  · exact State.wf_modCore _ (State.wf_askPreempt _ hs) fun _ hc => hc

/-! ## Commands of the copy engine and of the vector sequencer (R150 to R168) -/

theorem canonical_copyIssue {s : State} (again : Instr) (r : Chk CopyReq) (h : s.wf = true) : (copyIssue s again r).canonical := by
  unfold copyIssue
  split
  · exact canonical_cpTrap _ h
  · exact canonical_cpAgain _ h
  · dsimp only
    split
    · exact canonical_cpAgain _ h
    · exact State.wf_setSeq _ (State.wf_bump (State.wf_passed h (Core.wf_setTag _ _ (State.wf_me h))))

theorem canonical_execLoop {s : State} (a b c : BitVec 5) (h : s.wf = true) : (execLoop a b c s).canonical := by
  unfold execLoop
  extract_lets k w len unit r
  clear_value r
  split
  · split
    · exact State.wf_wild _ (State.wf_passed h (State.wf_me h))
    · exact canonical_cmdEnd _ h (Chk.answers_and (Core.wf_of_enqueue _ (State.wf_me h)) fun _ hc =>
        State.wf_bump (State.wf_passed h hc))
  · exact canonical_cpTrap _ h
  · exact canonical_cpAgain _ h

theorem canonical_execPpush {s : State} (a : BitVec 5) (h : s.wf = true) : (execPpush a s).canonical :=
  canonical_cmdEnd _ h (Chk.answers_and (Core.wf_of_pushParam _ (State.wf_me h)) fun _ hc => State.wf_passed h hc)

theorem canonical_cimMode {s : State} (b : BitVec 5) (x : Bool) (kind : BitVec 5) (again : Instr) (h : s.wf = true) :
    (cimMode b x kind again s).canonical :=
  canonical_cmdEnd _ h (Chk.answers_and (Chk.answers_any _) fun _ _ => Chk.answers_and (Chk.answers_any _) fun _ _ =>
    Chk.answers_and (Core.wf_of_enqueue _ (State.wf_me h)) fun _ hc => State.wf_bump (State.wf_passed h hc))

theorem canonical_execQcwSet {s : State} (q : BitVec 3) (a b : BitVec 5) (h : s.wf = true) : (execQcwSet q a b s).canonical := by
  unfold execQcwSet
  dsimp only
  split
  · exact State.wf_setMe h (State.wf_me h)
  · split
    · exact canonical_cpTrap _ h
    · exact State.wf_passed h (Core.wf_setQ q ⟨s.me.gr a, s.me.gr b⟩ (State.wf_me h))

theorem canonical_execQcwGet {s : State} (q : BitVec 3) (a b : BitVec 5) (h : s.wf = true) : (execQcwGet q a b s).canonical :=
  State.wf_passed h (Core.wf_setG b _ (Core.wf_setG a _ (State.wf_me h)))

theorem canonical_execAqRemap {s : State} (q : BitVec 3) (a b : BitVec 5) (h : s.wf = true) : (execAqRemap q a b s).canonical :=
  canonical_ite (canonical_cpTrap _ h) (canonical_ite (canonical_cpTrap _ h) (canonical_ite (canonical_cpTrap _ h)
    (State.wf_passed (c := { s.me with remap := s.me.remap.set q.toNat _ }) h (State.wf_me h))))

theorem canonical_execSetv {s : State} (v : BitVec 3) (a : BitVec 5) (h : s.wf = true) : (execSetv v a s).canonical :=
  canonical_ite (canonical_cpTrap _ h)
    (State.wf_passed (c := { s.me with views := s.me.views.set v.toNat (s.me.gr a) }) h (State.wf_me h))

theorem canonical_execSetj {s : State} (a : BitVec 5) (h : s.wf = true) : (execSetj a s).canonical :=
  canonical_ite (canonical_cpTrap _ h)
    (State.wf_passed (c := { s.me with jetOrder := (s.me.gr a).truncate 3 }) h (State.wf_me h))

/-! ## Synchronisation (R169 to R173) -/

theorem canonical_execSyncArm {s : State} (a b c : BitVec 5) (h : s.wf = true) : (execSyncArm a b c s).canonical :=
  canonical_cmdEnd _ h (Chk.answers_and (Chk.answers_any _) fun _ _ => Chk.answers_and (Chk.answers_any _) fun _ _ =>
    State.wf_passed h (Core.wf_setG c _ (Core.wf_arrive _ _ (Core.wf_writeScratch _ _ (State.wf_me h)))))

theorem canonical_execSyncAdd {s : State} (a b : BitVec 5) (h : s.wf = true) : (execSyncAdd a b s).canonical :=
  canonical_cmdEnd _ h (Chk.answers_and (Chk.answers_any _) fun _ _ => Chk.answers_and (Chk.answers_any _) fun _ _ =>
    State.wf_passed h (Core.wf_release 1 (Core.wf_arrive _ _ (State.wf_me h))))

theorem canonical_execSyncWait {s : State} (a b : BitVec 5) (h : s.wf = true) : (execSyncWait a b s).canonical := by
  unfold execSyncWait
  dsimp only
  split
  · exact canonical_cpTrap _ h
  · exact canonical_cpAgain _ h
  · exact canonical_ite (State.wf_passed h (State.wf_me h)) (State.wf_waits _ h (State.wf_me h))

theorem State.wf_countHeld {s : State} (k : CoreId) (b : BitVec 6) (h : s.wf = true) : (countHeld s k b).wf = true := by
  refine State.wf_foldl _ (fun t a ht => ?_) _ s h
  have hd : (t.modCore k fun c => { c with held := c.held.erase a }).wf = true := State.wf_modCore k ht fun _ hc => hc
  refine State.wf_ite (State.wf_ite (State.wf_setSched _ hd) ?_) ht
  exact State.wf_modCore k hd fun _ hc => Core.wf_setBar b _ hc

theorem canonical_execBarInit {s : State} (b : BitVec 6) (a : BitVec 5) (h : s.wf = true) : (execBarInit b a s).canonical := by
  have hs := State.wf_countHeld s.cur b (State.wf_passed h (Core.wf_setBar b
    { s.me.bar b with init := true, mask := s.me.gr a, count := 0, since := false, who := 0 } (State.wf_me h)))
  exact canonical_ite (canonical_cpTrap _ h) (canonical_ite (canonical_cpTrap _ h) (State.wf_ite (State.wf_wild _ hs) hs))

theorem canonical_execBarArrive {s : State} (b : BitVec 6) (h : s.wf = true) : (execBarArrive b s).canonical := by
  unfold execBarArrive
  dsimp only
  split
  · exact canonical_cpTrap _ h
  · split
    · exact canonical_cpTrap _ h
    · exact State.wf_setSched _ (State.wf_passed h (Core.wf_release 3 (Core.wf_setBar b _ (State.wf_me h))))

theorem canonical_execBarWait {s : State} (b : BitVec 6) (h : s.wf = true) : (execBarWait b s).canonical :=
  canonical_ite (canonical_cpTrap _ h) (canonical_ite (State.wf_passed h (State.wf_me h)) (State.wf_waits _ h (State.wf_me h)))

theorem canonical_execRope {s : State} (a : BitVec 5) (h : s.wf = true) : (execRope a s).canonical :=
  canonical_ite (canonical_cpTrap _ h) (canonical_ite (canonical_cpTrap _ h) (State.wf_waits _ h (State.wf_me h)))

theorem canonical_execUnrope {s : State} (h : s.wf = true) : (execUnrope s).canonical := by
  unfold execUnrope
  dsimp only
  split
  · exact State.wf_passed h (State.wf_me h)
  · exact canonical_ite (canonical_cpTrap _ h) (State.wf_waits _ h (State.wf_me h))

theorem canonical_execRejoin {s : State} (h : s.wf = true) : (execRejoin s).canonical := by
  have hc := Core.wf_release 2 (State.wf_me h)
  unfold execRejoin
  dsimp only
  split
  · exact State.wf_passed h hc
  · rename_i r _
    exact State.wf_waits (c := { s.me.release 2 with rope := some { r with rejoined := true } }) _ h hc

theorem State.wf_setTree {s : State} (t : RTree) (h : s.wf = true) : (s.setTree t).wf = true := h

theorem canonical_rtree {s : State} (op : Nat) (a b c : BitVec 5) (again : Instr) (h : s.wf = true) :
    (rtree op a b c again s).canonical := by
  unfold rtree
  extract_lets k size r n mine
  clear_value r
  split
  · exact canonical_cpTrap _ h
  · exact canonical_cpAgain _ h
  · extract_lets tid desc fresh t differ t' u one joined
    have hu : u.wf = true := State.wf_ite (State.wf_setTree _ h) (State.wf_setSched _ h)
    have hj : joined.wf = true := State.wf_waits _ hu (Core.wf_release _ (State.wf_me h))
    exact State.wf_ite hj (State.wf_wild _ (State.wf_setSeq _ (State.wf_ite hj (State.wf_passed h (State.wf_me h)))))

/-! ## Tasks (R22, R174, R175) -/

theorem canonical_execSpawn {s : State} (a b c : BitVec 5) (h : s.wf = true) : (execSpawn a b c s).canonical := by
  unfold execSpawn
  dsimp only
  split
  · exact canonical_cpTrap _ h
  · split
    · exact canonical_cpTrap _ h
    · exact State.wf_waits _ (State.wf_setSched _ h) (State.wf_me h)

theorem State.wf_joinReturn {s : State} (k : CoreId) (a : BitVec 5) (h : s.wf = true) : (joinReturn s k a).wf = true :=
  State.wf_setCore k (State.wf_setJoinSlot _ _ h) (Core.wf_returned (Core.wf_setG a _ (State.wf_core k h)))

theorem canonical_execJoin {s : State} (a : BitVec 5) (h : s.wf = true) : (execJoin a s).canonical := by
  have hs : (s.setMe (s.me.waits (.join a))).wf = true := State.wf_waits _ h (State.wf_me h)
  exact State.wf_ite (State.wf_joinReturn _ _ hs) hs

theorem canonical_execDone {s : State} (h : s.wf = true) : (execDone s).canonical := by
  have hs : (s.setMe (s.me.waits .done)).wf = true := State.wf_waits _ h (State.wf_me h)
  exact canonical_ite (canonical_cpTrap _ h) (State.wf_ite (State.wf_donePerform _ hs) hs)

theorem canonical_execCancel {s : State} (a : BitVec 5) (h : s.wf = true) : (execCancel a s).canonical := by
  unfold execCancel
  dsimp only
  split
  · exact canonical_cpTrap _ h
  · refine State.wf_modCore _ ?_ fun _ hc => Core.wf_cancelTask hc
    split
    · exact State.wf_cancelCairn _ h
    · exact h

end Sys2Proof.Machine
end

section
/-! SUPPORT. The canonical form (log 5) under every instruction word and under every event that writes memory. -/

namespace Sys2Proof.Machine

/-- The commands of the copy engine, of the vector sequencer, of synchronisation and of tasks (07), among the words of the control
stream. -/
def isCommand (i : Instr) : Bool :=
  match i with
  | .cpy .. | .cpys .. | .cpyx .. | .laneLoad .. | .cimFill .. | .atomAdd .. | .atomAnd .. | .atomOr .. | .atomXor ..
  | .atomMin .. | .atomMax .. | .atomMinu .. | .atomMaxu .. | .atomSwap .. | .atomCas .. | .atomFadd .. | .atomCread ..
  | .loop .. | .ppush .. | .cimModeScratch .. | .cimModeCompute .. | .qcwSet .. | .qcwGet .. | .aqRemap .. | .setv ..
  | .setj .. | .syncArm .. | .syncWait .. | .syncAdd .. | .barInit .. | .barArrive .. | .barWait .. | .spawn .. | .join ..
  | .done .. | .cancel .. | .rope .. | .unrope .. | .rejoin .. | .rtreeSum .. | .rtreeMax .. | .rtreeMaxsum .. => true
  | _ => false

set_option maxRecDepth 4000 in
theorem canonical_exec_command {s : State} (i : Instr) (hc : isCommand i = true) (h : s.wf = true) : Out.canonical (exec i s) := by
  cases i
  case cpy | cpys | cpyx | laneLoad | cimFill | atomAdd | atomAnd | atomOr | atomXor | atomMin | atomMax | atomMinu | atomMaxu
    | atomSwap | atomCas | atomFadd | atomCread => exact canonical_copyIssue _ _ h
  case loop => exact canonical_execLoop _ _ _ h
  case ppush => exact canonical_execPpush _ h
  case cimModeScratch => exact canonical_cimMode _ false 0 _ h
  case cimModeCompute => exact canonical_cimMode _ true _ _ h
  case qcwSet => exact canonical_execQcwSet _ _ _ h
  case qcwGet => exact canonical_execQcwGet _ _ _ h
  case aqRemap => exact canonical_execAqRemap _ _ _ h
  case setv => exact canonical_execSetv _ _ h
  case setj => exact canonical_execSetj _ h
  case syncArm => exact canonical_execSyncArm _ _ _ h
  case syncWait => exact canonical_execSyncWait _ _ h
  case syncAdd => exact canonical_execSyncAdd _ _ h
  case barInit => exact canonical_execBarInit _ _ h
  case barArrive => exact canonical_execBarArrive _ h
  case barWait => exact canonical_execBarWait _ h
  case spawn => exact canonical_execSpawn _ _ _ h
  case join => exact canonical_execJoin _ h
  case done => exact canonical_execDone h
  case cancel => exact canonical_execCancel _ h
  case rope => exact canonical_execRope _ h
  case unrope => exact canonical_execUnrope h
  case rejoin => exact canonical_execRejoin h
  case rtreeSum | rtreeMax | rtreeMaxsum => exact canonical_rtree _ _ _ _ _ h
  all_goals exact absurd hc Bool.false_ne_true

set_option maxRecDepth 4000 in
/-- Every other word of the control stream: the core set (06). -/
theorem canonical_exec_core {s : State} (i : Instr) (he : encode i ≠ []) (hv : encodeVector i = []) (hc : isCommand i = false)
    (h : s.wf = true) : Out.canonical (exec i s) := by
  cases i
  case add | sub | and | or | xor | shl | shr | sar | mul | mulh | mulhu | div | divu | rem | remu | slt | sltu | min | max | minu
    | maxu | addi | andi | ori | xori | slti | sltiu | shli | shri | sari => exact canonical_cpWrite _ _ _ h
  case beq | bne | blt | bge | bltu | bgeu => exact canonical_branch _ _ h
  case jal => exact canonical_execJal _ _ h
  case jalr => exact canonical_execJalr _ _ _ h
  case ld | lds => exact canonical_load _ _ _ _ _ _ h
  case st => exact canonical_execSt _ _ _ _ h
  case amoAdd => exact canonical_amo .add _ _ _ _ _ _ h
  case amoAnd => exact canonical_amo .and _ _ _ _ _ _ h
  case amoOr => exact canonical_amo .or _ _ _ _ _ _ h
  case amoXor => exact canonical_amo .xor _ _ _ _ _ _ h
  case amoMin => exact canonical_amo .min _ _ _ _ _ _ h
  case amoMax => exact canonical_amo .max _ _ _ _ _ _ h
  case amoMinu => exact canonical_amo .minu _ _ _ _ _ _ h
  case amoMaxu => exact canonical_amo .maxu _ _ _ _ _ _ h
  case amoSwap => exact canonical_amo .swap _ _ _ _ _ _ h
  case amoCas => exact canonical_amo .cas _ _ _ _ _ _ h
  case fence | xfence => exact canonical_fence _ _ _ h
  case drain => exact State.wf_fenceTry _ _ _ _ h
  case srd => exact canonical_execSrd _ _ h
  case swr => exact canonical_execSwr _ _ h
  case sset => exact canonical_execSset _ _ h
  case sclr => exact canonical_execSclr _ _ h
  case trap => exact canonical_cpTrap _ h
  case yield => exact canonical_execYield h
  case fset => exact canonical_execFset _ h
  case fclr => exact canonical_execFclr _ h
  case fwait => exact canonical_execFwait _ h
  all_goals cases hv
  all_goals cases hc
  all_goals exact absurd rfl he

set_option maxRecDepth 4000 in
/-- Every event that writes memory. -/
theorem canonical_exec_event {s : State} (i : Instr) (hw : Sys2Proof.Claims.writesMemory i = true) (h : s.wf = true) :
    Out.canonical (exec i s) := by
  cases i
  case resultLanding => exact canonical_execResultLanding _ h
  case stalledGroupIssue => exact canonical_execStalledGroupIssue _ h
  case queueStall => exact canonical_execQueueStall _ h
  case cimModePerform => exact canonical_execCimModePerform _ h
  case cimModeZeroingEnd => exact canonical_execCimModeZeroingEnd _ h
  case copyStart => exact canonical_execCopyStart _ _ h
  case copyArrival => exact canonical_execCopyArrival _ _ _ _ h
  case copyComplete => exact canonical_execCopyComplete _ _ h
  case cpyxBlock => exact canonical_execCpyxBlock _ h
  case laneTableCheck => exact canonical_execLaneTableCheck _ h
  case atomPerform => exact canonical_execAtomPerform _ _ h
  case gatherElement => exact canonical_execGatherElement _ _ h
  case scatterElement => exact canonical_execScatterElement _ _ h
  case hostReadCompletion => exact canonical_execHostReadCompletion _ _ h
  case inboundRead => exact canonical_execInboundRead _ _ h
  case inboundWrite => exact canonical_execInboundWrite _ _ h
  case vmPageOut => exact canonical_execVmPageOut _ h
  case vmPageIn => exact canonical_execVmPageIn _ h
  all_goals exact absurd hw Bool.false_ne_true

/-- Every word of the vector stream. -/
theorem canonical_exec_vector {s : State} (i : Instr) (hv : encodeVector i ≠ []) (h : s.wf = true) : Out.canonical (exec i s) := by
  by_cases hn : i = .nop
  · rw [hn]
    exact h
  · rw [exec_vector i hv hn s]
    exact canonical_vrun i h

end Sys2Proof.Machine

/-- Settles O59: a word of the vector stream, a word of the control stream, or an event that writes memory. -/
theorem instructionsKeepCanonicalForm : Obligations.InstructionsKeepCanonicalForm := by
  intro i s t hi hs ht
  refine Sys2Proof.Machine.Out.wf_of_canonical ?_ ht
  by_cases hv : Sys2Proof.encodeVector i = []
  · rcases hi with he | hw
    · cases hc : Sys2Proof.Machine.isCommand i with
      | true => exact Sys2Proof.Machine.canonical_exec_command i hc hs
      | false => exact Sys2Proof.Machine.canonical_exec_core i he hv hc hs
    · exact Sys2Proof.Machine.canonical_exec_event i hw hs
  · exact Sys2Proof.Machine.canonical_exec_vector i hv hs

end

section
/-! SUPPORT. A core after a cold reset (R5, R21, R37). -/

namespace Sys2Proof.Machine

@[simp] theorem Core.bank_reset (b : BitVec 5) : Core.reset.bank b = Bank.reset := Vector.getElem_replicate _

@[simp] theorem Core.gr_reset (g : BitVec 5) : Core.reset.gr g = 0 := by
  unfold Core.gr
  split
  · rfl
  · exact Vector.getElem_replicate _

end Sys2Proof.Machine

open Sys2Proof.Machine in
/-- Settles O60: no core, context or cairn is listed after a reset, so each is at its reset value. -/
theorem resetState : Obligations.ResetState := by
  have core : ∀ k, (State.reset.core k).run = .idle ∧
      (∀ b, (State.reset.core k).bank b = ⟨false, false, 0, false, false, false, 0, 0⟩) ∧
      (∀ b, ((State.reset.core k).bar b).init = false) ∧ (State.reset.core k).held = [] ∧ ∀ g, (State.reset.core k).gr g = 0 :=
    fun k => ⟨rfl, Core.bank_reset, fun _ => rfl, rfl, Core.gr_reset⟩
  exact ⟨rfl, core, fun _ => ⟨rfl, rfl⟩, fun _ => rfl, rfl, rfl, rfl, rfl, rfl, rfl, rfl, rfl, rfl, rfl, rfl, rfl, rfl⟩

end

section
/-! SUPPORT. Numbers as bytes of a memory, the traps of a running core's commands, and sync words (R94, R95, R169). -/

namespace Sys2Proof.Machine

/-! ## Numbers as bytes -/

@[simp] theorem toBytes_length : ∀ n v : Nat, (toBytes n v).length = n
  | 0, _ => rfl
  | n + 1, v => by simp [toBytes, toBytes_length n]

theorem ofBytes_lt : ∀ bs : List Byte, ofBytes bs < 256 ^ bs.length
  | [] => by simp [ofBytes]
  | b :: bs => by
    have h := ofBytes_lt bs
    have hb : b.toNat < 256 := b.isLt
    rw [ofBytes, List.length_cons, Nat.pow_succ]
    omega

theorem ofBytes_toBytes : ∀ n v : Nat, ofBytes (toBytes n v) = v % 256 ^ n
  | 0, v => by simp [toBytes, ofBytes, Nat.mod_one]
  | n + 1, v => by
    rw [toBytes, ofBytes, ofBytes_toBytes n, Nat.pow_succ', Nat.mod_mul, BitVec.toNat_ofNat]

theorem memNat_lt (m : Mem) (a n : Nat) : memNat m a n < 256 ^ n := by
  simpa [memNat] using ofBytes_lt (memRead m a n)

theorem memWrite_append : ∀ (m : Mem) (a : Nat) (xs ys : List Byte),
    memWrite m a (xs ++ ys) = memWrite (memWrite m a xs) (a + xs.length) ys
  | _, _, [], _ => rfl
  | m, a, x :: xs, ys => by
    rw [List.cons_append, memWrite, memWrite_append, memWrite, List.length_cons, show a + 1 + xs.length = a + (xs.length + 1) by omega]

/-- A number written is read back. -/
theorem memNat_memWrite_same (m : Mem) (a n v : Nat) : memNat (memWrite m a (toBytes n v)) a n = v % 256 ^ n := by
  have h := memRead_memWrite_same m a (toBytes n v)
  rw [toBytes_length] at h
  rw [memNat, h, ofBytes_toBytes]

/-- A number outside a write is as it was. -/
theorem memNat_memWrite_out (m : Mem) {a b n : Nat} {v : List Byte} (h : b + n ≤ a ∨ a + v.length ≤ b) :
    memNat (memWrite m a v) b n = memNat m b n := by
  rw [memNat, memRead_memWrite_out n m a v b h, memNat]

/-! ## Traps of the control stream (R337) -/

/-- A running core that takes a trap of the control stream. -/
theorem cpTrap_running {s : State} (h : s.me.run = .running) (cause d0 d1 : Nat) :
    cpTrap s ⟨cause, 0, d0, d1⟩ = Sys2Proof.Claims.trapped s cause d0 d1 :=
  takeTrap_running s s.cur _ h

theorem Chk.and_ok {α β : Type} (a : α) (f : α → Chk β) : (Chk.ok a).and f = f a := rfl
theorem Chk.and_trap {α β : Type} (t : Trap) (f : α → Chk β) : (Chk.trap t).and f = .trap t := rfl

theorem need_of {b : Bool} (t : Trap) (h : b = true) : need b t = .ok () := if_pos h
theorem need_of_not {b : Bool} (t : Trap) (h : b = false) : need b t = .trap t := if_neg (by simp [h])

/-- A change of the core that runs changes nothing else. -/
theorem onlyMe_setMe (s : State) (c : Core) : Sys2Proof.Claims.onlyMe s (s.setMe c) :=
  ⟨rfl, fun _ h => State.core_setMe_ne s c h⟩

/-- A core whose control stream goes on. -/
theorem Core.cpRuns_of {c : Core} (hr : c.run = .running) (hm : c.missCp = false) : c.cpRuns = true := by
  simp [Core.cpRuns, hr, hm]

end Sys2Proof.Machine
end

section
/-! SUPPORT. Sync words (R94, R95, R169): the fields of the two words, what arms and arrives at one, and the checks of its address. -/

namespace Sys2Proof.Machine

open Sys2Proof.Claims

/-! ## Fields -/

theorem syncWord0_fields {arm : Bool} {gen tgt : Nat} (hg : gen < 2 ^ 16) (ht : tgt < 2 ^ 40) :
    fld (syncWord0 arm gen tgt) 63 63 = ofBool arm ∧ fld (syncWord0 arm gen tgt) 62 56 = 0 ∧
    fld (syncWord0 arm gen tgt) 55 40 = gen ∧ fld (syncWord0 arm gen tgt) 39 0 = tgt := by
  have ha : ofBool arm ≤ 1 := by cases arm <;> decide
  simp only [fld, syncWord0]
  omega

theorem syncWord0_lt {arm : Bool} {gen tgt : Nat} (hg : gen < 2 ^ 16) (ht : tgt < 2 ^ 40) : syncWord0 arm gen tgt < 2 ^ 64 := by
  have ha : ofBool arm ≤ 1 := by cases arm <;> decide
  simp only [syncWord0]
  omega

theorem syncWord_word0 {c : Core} {x : Nat} {arm : Bool} {gen tgt count : Nat} (h : SyncWord c x arm gen tgt count) :
    c.scratchNat x 8 = syncWord0 arm gen tgt := by
  rw [Core.scratchNat, h.word0, syncWord0]
  cases arm <;> simp [ofBool]

/-- A sync word that two numbers in scratch are. -/
theorem syncWord_of_numbers {c : Core} {x : Nat} {arm : Bool} {gen tgt count : Nat} (h0 : memNat c.scratch x 8 = syncWord0 arm gen tgt)
    (h1 : memNat c.scratch (x + 8) 8 = count) (hg : gen < 2 ^ 16) (ht : tgt < 2 ^ 40) (hc : count < 2 ^ 40) :
    SyncWord c x arm gen tgt count := by
  refine ⟨?_, h1, hg, ht, hc⟩
  rw [h0, syncWord0]
  cases arm <;> simp [ofBool]

/-- A change that leaves scratch alone leaves a sync word alone. -/
theorem syncWord_of_same {c d : Core} {x : Nat} {arm : Bool} {gen tgt count : Nat} (h : SyncWord c x arm gen tgt count)
    (hd : d.scratch = c.scratch) : SyncWord d x arm gen tgt count :=
  ⟨by rw [hd]; exact h.word0, by rw [hd]; exact h.word1, h.genLt, h.targetLt, h.countLt⟩

/-! ## Arming and arriving -/

/-- A write of word 0 alone: the count stands. -/
theorem syncWord_write0 {c : Core} {x : Nat} {arm arm' : Bool} {gen tgt tgt' count : Nat} (h : SyncWord c x arm gen tgt count)
    (ht : tgt' < 2 ^ 40) : SyncWord (c.writeScratch x (toBytes 8 (syncWord0 arm' gen tgt'))) x arm' gen tgt' count := by
  refine syncWord_of_numbers ?_ ?_ h.genLt ht h.countLt
  · rw [Core.writeScratch, memNat_memWrite_same]
    exact Nat.mod_eq_of_lt (syncWord0_lt h.genLt ht)
  · rw [Core.writeScratch, memNat_memWrite_out _ (.inr (by simp)), h.word1]

/-- R95: an arrival of some bytes at a sync word. -/
theorem syncWord_arrive {c : Core} {x : Nat} {arm : Bool} {gen tgt count : Nat} (h : SyncWord c x arm gen tgt count) (b : Nat) :
    SyncWord (c.arrive x b) x arm (syncStep arm tgt gen ((count + b) % 2 ^ 40)).1 tgt (syncStep arm tgt gen ((count + b) % 2 ^ 40)).2 := by
  obtain ⟨hf1, hf2, hf3, hf4⟩ := syncWord0_fields (arm := arm) h.genLt h.targetLt
  have hc := h.countLt
  have hw1 : c.scratchNat (x + 8) 8 = count := h.word1
  have hc1 : fld count 39 0 = count := by simp only [fld]; omega
  have hc2 : fld count 63 40 = 0 := by simp only [fld]; omega
  have harm : (ofBool arm == 1) = arm := by cases arm <;> rfl
  have hn : (count + b) % 2 ^ 40 < 2 ^ 40 := Nat.mod_lt _ (by decide)
  generalize hbn : (count + b) % 2 ^ 40 = n at hn ⊢
  have hg : (syncStep arm tgt gen n).1 < 2 ^ 16 := by
    unfold syncStep
    split
    · exact Nat.mod_lt _ (by decide)
    · exact h.genLt
  have hr : (syncStep arm tgt gen n).2 < 2 ^ 40 := by
    unfold syncStep
    split
    · exact lt_of_le_of_lt (Nat.mod_le _ _) hn
    · exact hn
  have hl := syncWord0_lt (arm := arm) hg h.targetLt
  refine syncWord_of_numbers ?_ ?_ hg h.targetLt hr <;>
    rw [Core.arrive, syncWord_word0 h, hw1, hf1, hf2, hf3, hf4, hc1, hc2, harm, hbn, Core.writeScratch, memWrite_append,
      toBytes_length]
  · rw [memNat_memWrite_out _ (a := x + 8) (b := x) (n := 8) (.inl (Nat.le_refl _)), memNat_memWrite_same, Nat.zero_mul, Nat.zero_add]
    exact Nat.mod_eq_of_lt hl
  · rw [memNat_memWrite_same, Nat.zero_mul, Nat.zero_add]
    exact Nat.mod_eq_of_lt (by omega)

/-- An arrival writes the two words only. -/
theorem Core.arrive_outside (c : Core) (x b : Nat) {y : Nat} (h : y < x ∨ x + 16 ≤ y) :
    memGet (c.arrive x b).scratch y = memGet c.scratch y :=
  memGet_memWrite_out _ _ _ _ (by simpa using h)

/-! ## The checks of R169 -/

theorem Core.syncWord_ok {c : Core} {a : BitVec 5} {x gen tgt count : Nat} {arm : Bool} (hx : (c.gr a).toNat = x) (ha : x % 16 = 0)
    (he : x + 16 ≤ 0x40000) (h : SyncWord c x arm gen tgt count) : c.syncWord a = .ok (x, syncWord0 arm gen tgt) := by
  obtain ⟨-, hf, -, -⟩ := syncWord0_fields (arm := arm) h.genLt h.targetLt
  have hc := h.countLt
  have hw : fld (c.scratchNat (x + 8) 8) 63 40 = 0 := by
    rw [Core.scratchNat, h.word1, fld]
    omega
  simp only [Core.syncWord, hx, syncWord_word0 h, hf, hw]
  rw [if_neg (by omega), if_neg (by omega), if_neg (by omega), if_neg (by simp)]

/-- The traps of a sync word's address, and of its reserved bits. -/
theorem Core.syncWord_traps (c : Core) (a : BitVec 5) :
    let x := (c.gr a).toNat
    (2 ^ 20 < x + 16 → c.syncWord a = .trap ⟨4, 0, x, 16⟩) ∧
    (x + 16 ≤ 2 ^ 20 → x % 16 ≠ 0 → c.syncWord a = .trap ⟨5, 0, x, 16⟩) ∧
    (x + 16 ≤ 2 ^ 20 → x % 16 = 0 → 0x40000 < x + 16 → c.syncWord a = .trap ⟨4, 0, x, 16⟩) ∧
    (x % 16 = 0 → x + 16 ≤ 0x40000 → (memNat c.scratch x 8 / 2 ^ 56 % 2 ^ 7 ≠ 0 ∨ memNat c.scratch (x + 8) 8 / 2 ^ 40 ≠ 0) →
      c.syncWord a = .trap ⟨13, 0, x, memNat c.scratch x 8⟩) := by
  intro x
  refine ⟨fun h => ?_, fun h1 h2 => ?_, fun h1 h2 h3 => ?_, fun h1 h2 h3 => ?_⟩
  · exact if_pos h
  · exact (if_neg (by omega)).trans (if_pos h2)
  · exact (if_neg (by omega)).trans ((if_neg (by omega)).trans (if_pos h3))
  · refine (if_neg (by omega)).trans ((if_neg (by omega)).trans ((if_neg (by omega)).trans (if_pos ?_)))
    have hlt : memNat c.scratch (x + 8) 8 < 2 ^ 64 := memNat_lt c.scratch (x + 8) 8
    refine h3.imp id fun h => ?_
    show memNat c.scratch (x + 8) 8 / 2 ^ 40 % 2 ^ 24 ≠ 0
    omega

end Sys2Proof.Machine
end

section
/-! SUPPORT. The sync commands (R169). -/

namespace Sys2Proof.Machine

open Sys2Proof.Claims

section
variable {s : State} {a b : BitVec 5} {x w : Nat}

theorem exec_syncArm (c : BitVec 5) (hv : (s.me.gr b).toNat < 2 ^ 40) (hw : s.me.syncWord a = .ok (x, w)) :
    exec (.syncArm a b c) s = .next (s.setMe ((((s.me.writeScratch x (toBytes 8 (syncWord0 (decide (0 < (s.me.gr b).toNat)) (fld w 55 40)
      (s.me.gr b).toNat))).arrive x 0).setG c (BitVec.ofNat 64 (fld w 55 40))).passed)) := by
  change execSyncArm a b c s = _
  rw [execSyncArm, need_of _ (decide_eq_true hv), Chk.and_ok, hw]
  rfl

theorem exec_syncAdd (hv : (s.me.gr b).toNat < 2 ^ 40) (hw : s.me.syncWord a = .ok (x, w)) :
    exec (.syncAdd a b) s = .next (s.setMe (((s.me.arrive x (s.me.gr b).toNat).release 1).passed)) := by
  change execSyncAdd a b s = _
  rw [execSyncAdd, need_of _ (decide_eq_true hv), Chk.and_ok, hw]
  rfl

theorem exec_syncWait (hw : s.me.syncWord a = .ok (x, w)) :
    exec (.syncWait a b) s =
      .next (if genPassed (fld w 55 40) (s.me.gr b) then passes s s.me else waiting s (.sync a b)) := by
  change execSyncWait a b s = _
  rw [execSyncWait, hw]
  dsimp only
  split <;> rfl

/-- A trap of a sync word's address is the trap of every sync command. -/
theorem exec_sync_trap (c : BitVec 5) {t : Trap} (hv : (s.me.gr b).toNat < 2 ^ 40) (hw : s.me.syncWord a = .trap t) :
    exec (.syncArm a b c) s = .next (cpTrap s t) ∧ exec (.syncAdd a b) s = .next (cpTrap s t) ∧
    exec (.syncWait a b) s = .next (cpTrap s t) := by
  refine ⟨?_, ?_, ?_⟩
  · change execSyncArm a b c s = _
    rw [execSyncArm, need_of _ (decide_eq_true hv), Chk.and_ok, hw]
    rfl
  · change execSyncAdd a b s = _
    rw [execSyncAdd, need_of _ (decide_eq_true hv), Chk.and_ok, hw]
    rfl
  · change execSyncWait a b s = _
    rw [execSyncWait, hw]

/-- A count of 2^40 or more is the first thing that SYNC.ARM and SYNC.ADD refuse. -/
theorem exec_sync_count (c : BitVec 5) (hv : 2 ^ 40 ≤ (s.me.gr b).toNat) :
    exec (.syncArm a b c) s = .next (cpTrap s (fieldTrap 15)) ∧ exec (.syncAdd a b) s = .next (cpTrap s (fieldTrap 15)) := by
  have h := need_of_not (fieldTrap 15) (decide_eq_false (Nat.not_lt.mpr hv))
  constructor
  · change execSyncArm a b c s = _
    rw [execSyncArm, h]
    rfl
  · change execSyncAdd a b s = _
    rw [execSyncAdd, h]
    rfl

end

/-! ## What a command that passes leaves -/

@[simp] theorem Core.passed_pc (c : Core) : c.passed.pc = c.pc + 4 := rfl
@[simp] theorem Core.passed_cmdIdx (c : Core) : c.passed.cmdIdx = c.cmdIdx + 1 := rfl
@[simp] theorem Core.passed_ivl (c : Core) : c.passed.ivl = c.ivl := rfl
@[simp] theorem Core.passed_scratch (c : Core) : c.passed.scratch = c.scratch := rfl
@[simp] theorem Core.passed_gr (c : Core) (r : BitVec 5) : c.passed.gr r = c.gr r := rfl
@[simp] theorem Core.arrive_pc (c : Core) (x b : Nat) : (c.arrive x b).pc = c.pc := rfl
@[simp] theorem Core.arrive_cmdIdx (c : Core) (x b : Nat) : (c.arrive x b).cmdIdx = c.cmdIdx := rfl
@[simp] theorem Core.arrive_ivl (c : Core) (x b : Nat) : (c.arrive x b).ivl = c.ivl := rfl

/-! ## Generations -/

/-- How many generations lie past a number's low half-word (R169). -/
theorem genPassed_iff (gen : Nat) (v : Word64) :
    genPassed gen v = true ↔
      1 ≤ (gen + 2 ^ 16 - v.toNat % 2 ^ 16) % 2 ^ 16 ∧ (gen + 2 ^ 16 - v.toNat % 2 ^ 16) % 2 ^ 16 ≤ 32767 := by
  have hb : bits v 15 0 = v.toNat % 2 ^ 16 := by simp only [bits, fld, Nat.pow_zero, Nat.div_one, Nat.sub_zero, Nat.reduceAdd]
  simp only [genPassed, hb, Bool.and_eq_true, decide_eq_true_eq]

theorem syncWaitReturn_of {s : State} {k : CoreId} {a b : BitVec 5} (hw : (s.core k).wait = .sync a b)
    (hc : (s.core k).cpRuns = true)
    (hg : genPassed (fld ((s.core k).scratchNat ((s.core k).gr a).toNat 8) 55 40) ((s.core k).gr b) = true) :
    exec (.syncWaitReturn k) s = .next (s.setCore k (resumed (s.core k))) := by
  change execSyncWaitReturn k s = _
  rw [execSyncWaitReturn]
  simp only [hw, hc, hg, Bool.and_self, if_true]
  rfl

/-! ## A sync word in plain scratch -/

section
variable {a b c : BitVec 5} {x : Nat} {arm : Bool} {gen tgt count : Nat} {s : State}
variable (hx : (s.me.gr a).toNat = x) (ha : x % 16 = 0) (he : x + 16 ≤ 0x40000) (h : SyncWord s.me x arm gen tgt count)
include hx ha he h

/-- SYNC.ARM (R169): the word is armed or, with target 0, disarmed, and the generations that its count completes pass. -/
theorem exec_syncArm_word (hv : (s.me.gr b).toNat < 2 ^ 40) : ∃ t, exec (.syncArm a b c) s = .next t ∧
    (onlyMe s t ∧ t.me.cmdIdx = s.me.cmdIdx + 1 ∧ t.me.pc = s.me.pc + 4 ∧
      ∀ y, y < x ∨ x + 16 ≤ y → memGet t.me.scratch y = memGet s.me.scratch y) ∧
    (c ≠ 0 → t.me.gr c = BitVec.ofNat 64 gen) ∧
    SyncWord t.me x (decide (0 < (s.me.gr b).toNat))
      (syncStep (decide (0 < (s.me.gr b).toNat)) (s.me.gr b).toNat gen count).1 (s.me.gr b).toNat
      (syncStep (decide (0 < (s.me.gr b).toNat)) (s.me.gr b).toNat gen count).2 := by
  obtain ⟨-, -, hgen, -⟩ := syncWord0_fields (arm := arm) h.genLt h.targetLt
  have hword := syncWord_arrive (syncWord_write0 (arm' := decide (0 < (s.me.gr b).toNat)) h hv) 0
  rw [Nat.add_zero, Nat.mod_eq_of_lt h.countLt] at hword
  refine ⟨_, exec_syncArm c hv (Core.syncWord_ok hx ha he h), ⟨onlyMe_setMe _ _, by simp, by simp, fun y hy => ?_⟩,
    fun hc => ?_, ?_⟩
  · rw [State.me_setMe, Core.passed_scratch, Core.setG_scratch, Core.arrive_outside _ _ _ hy]
    exact memGet_memWrite_out _ _ _ _ (by simp; omega)
  · rw [State.me_setMe, Core.passed_gr, Core.gr_setG_same _ _ hc, hgen]
  · rw [hgen]
    exact syncWord_of_same hword (by rw [State.me_setMe, Core.passed_scratch, Core.setG_scratch])

/-- SYNC.ADD (R169): the bytes arrive at the word. -/
theorem exec_syncAdd_word (hv : (s.me.gr b).toNat < 2 ^ 40) : ∃ t, exec (.syncAdd a b) s = .next t ∧
    (onlyMe s t ∧ t.me.cmdIdx = s.me.cmdIdx + 1 ∧ t.me.pc = s.me.pc + 4 ∧
      ∀ y, y < x ∨ x + 16 ≤ y → memGet t.me.scratch y = memGet s.me.scratch y) ∧ t.me.ivl = s.me.ivl + 1 ∧
    SyncWord t.me x arm (syncStep arm tgt gen ((count + (s.me.gr b).toNat) % 2 ^ 40)).1 tgt
      (syncStep arm tgt gen ((count + (s.me.gr b).toNat) % 2 ^ 40)).2 := by
  have hword := syncWord_arrive h (s.me.gr b).toNat
  refine ⟨_, exec_syncAdd hv (Core.syncWord_ok hx ha he h), ⟨onlyMe_setMe _ _, by simp, by simp, fun y hy => ?_⟩, ?_, ?_⟩
  · rw [State.me_setMe, Core.passed_scratch, Core.release_scratch, Core.arrive_outside _ _ _ hy]
  · rw [State.me_setMe, Core.passed_ivl]
    rfl
  · exact syncWord_of_same hword (by rw [State.me_setMe, Core.passed_scratch, Core.release_scratch])

/-- SYNC.WAIT (R169) passes or waits by the generations past its operand. -/
theorem exec_syncWait_word : exec (.syncWait a b) s =
    .next (if genPassed gen (s.me.gr b) then passes s s.me else waiting s (.sync a b)) := by
  obtain ⟨-, -, hgen, -⟩ := syncWord0_fields (arm := arm) h.genLt h.targetLt
  rw [exec_syncWait (Core.syncWord_ok hx ha he h), hgen]

omit ha he in
/-- The wait of a running core at a sync word whose generation has passed. -/
theorem exec_syncWaitReturn_word (hw : s.me.wait = .sync a b) (hr : s.me.run = .running) (hm : s.me.missCp = false)
    (hg : genPassed gen (s.me.gr b) = true) : exec (.syncWaitReturn s.cur) s = .next (s.setMe (resumed s.me)) := by
  obtain ⟨-, -, hgen, -⟩ := syncWord0_fields (arm := arm) h.genLt h.targetLt
  refine syncWaitReturn_of hw (Core.cpRuns_of hr hm) ?_
  change genPassed (fld (s.me.scratchNat (s.me.gr a).toNat 8) 55 40) (s.me.gr b) = true
  rw [hx, syncWord_word0 h, hgen, hg]

end

end Sys2Proof.Machine

open Sys2Proof.Machine Sys2Proof.Claims in
/-- Settles O25: the numbers of the two words before and after each command, and the traps in the order of the checks. -/
theorem syncWords : Obligations.SyncWords := by
  refine ⟨fun a b c x arm gen tgt count k s hx ha he h => ?_, fun a b c s hr hv => ?_⟩
  · intro v others past
    have hpassed := genPassed_iff gen (s.me.gr b)
    refine ⟨fun hv => ?_, fun hv => ?_, fun h1 h2 => ?_, fun hp => ?_, fun hk hw hr hm h1 h2 => ?_⟩
    · obtain ⟨t, ht, ho, hg, hword⟩ := exec_syncArm_word (c := c) hx ha he h hv
      change SyncWord t.me x (decide (0 < v)) (syncStep (decide (0 < v)) v gen count).1 v (syncStep (decide (0 < v)) v gen count).2 at hword
      refine ⟨t, ht, ho, hg, fun h0 => ?_, fun h0 => ?_⟩
      · simpa [h0, syncStep] using hword
      · simpa [Nat.pos_of_ne_zero h0, syncStep, h0] using hword
    · obtain ⟨t, ht, ho, hi, hword⟩ := exec_syncAdd_word hx ha he h hv
      refine ⟨t, ht, ho, hi, fun harm h0 => ?_, fun harm => ?_⟩
      · simpa [harm, syncStep, h0] using hword
      · simpa [harm, syncStep] using hword
    · rw [exec_syncWait_word hx ha he h, if_pos (hpassed.mpr ⟨h1, h2⟩)]
    · rw [exec_syncWait_word hx ha he h, if_neg]
      rw [hpassed]
      change ¬ (1 ≤ past v ∧ past v ≤ 32767)
      omega
    · subst hk
      exact exec_syncWaitReturn_word hx h hw hr hm (hpassed.mpr ⟨h1, h2⟩)
  · intro x all
    have htraps : ∀ cause d0 d1, s.me.syncWord a = .trap ⟨cause, 0, d0, d1⟩ → all cause d0 d1 := fun cause d0 d1 h => by
      have ht := exec_sync_trap c hv h
      rwa [cpTrap_running hr] at ht
    obtain ⟨hrange, halign, hplain, hreserved⟩ := Core.syncWord_traps s.me a
    refine ⟨fun h => htraps _ _ _ (hrange h), fun h1 h2 => htraps _ _ _ (halign h1 h2),
      fun h1 h2 h3 => htraps _ _ _ (hplain h1 h2 h3), fun h1 h2 h3 => htraps _ _ _ (hreserved h1 h2 h3), fun d hd => ?_⟩
    have ht := exec_sync_count (a := a) c hd
    rwa [fieldTrap, cpTrap_running hr] at ht
end

section
/-! SUPPORT. What undefined behaviour of a context leaves alone (R1), and an entry of the device error log. -/

namespace Sys2Proof.Machine

/-! ## Bits -/

theorem bit_eq_testBit {n : Nat} (x : BitVec n) (k : Nat) : bit x k = x.toNat.testBit k := by
  rw [bit, Nat.testBit_eq_decide_div_mod_eq, beq_eq_decide]

theorem bit_eq_getLsbD {n : Nat} (x : BitVec n) (k : Nat) : bit x k = x.getLsbD k := bit_eq_testBit x k

/-- A word with one bit more. -/
theorem bit_or_twoPow (w : Word64) {i j : Nat} (h : bit w i = false) (hij : i ≠ j) : bit (w ||| BitVec.ofNat 64 (2 ^ j)) i = false := by
  rw [bit_eq_getLsbD] at h ⊢
  rw [BitVec.getLsbD_or, h, BitVec.getLsbD_ofNat, Nat.testBit_two_pow_of_ne hij.symm, Bool.and_false, Bool.or_false]

/-! ## Cores of other contexts (R1) -/

/-- No core of a context other than `n` differs. -/
def Spares (n : CtxId) (s t : State) : Prop := ∀ j, (s.core j).task.ctx ≠ n → t.core j = s.core j

theorem Spares.refl (n : CtxId) (s : State) : Spares n s s := fun _ _ => rfl

theorem Spares.trans {n : CtxId} {s t u : State} (h : Spares n s t) (h' : Spares n t u) : Spares n s u := fun j hj =>
  (h' j (by rwa [h j hj])).trans (h j hj)

theorem Spares.of_cores {n : CtxId} {s t : State} (h : t.cores = s.cores) : Spares n s t := fun j _ => by
  rw [State.core, h, State.core]

theorem spares_setCore {n : CtxId} {s : State} {k : CoreId} (x : Core) (h : (s.core k).task.ctx = n) : Spares n s (s.setCore k x) :=
  fun _ hj => State.core_setCore_ne s x fun e => hj (e ▸ h)

theorem spares_foldl {α : Type} {n : CtxId} {f : State → α → State} (h : ∀ s x, Spares n s (f s x)) (l : List α) (s : State) :
    Spares n s (l.foldl f s) :=
  List.foldlRecOn (motive := fun t => Spares n s t) l f (Spares.refl n s) fun t ht x _ => ht.trans (h t x)

theorem spares_takeTrap {n : CtxId} {s : State} {k : CoreId} (r : TrapRec) (h : (s.core k).task.ctx = n) :
    Spares n s (takeTrap s k r) := by
  obtain ⟨x, e | e⟩ := takeTrap_frame s k r <;> rw [e]
  · exact Spares.refl n s
  · exact spares_setCore x h

theorem wildEdit_task (seq i : Nat) (c : Core) : (wildEdit seq i c).task = c.task := by
  unfold wildEdit
  extract_lets
  split
  · exact Core.setG_task _ _ _
  all_goals rfl

theorem spares_wildCore {n : CtxId} {s : State} {k : CoreId} (h : (s.core k).task.ctx = n) : Spares n s (wildCore s k) := by
  unfold wildCore
  extract_lets c _ t
  have ht : Spares n s t := fun j hj => spares_setCore c h j hj
  split
  · refine ht.trans (spares_takeTrap _ ?_)
    have hc : c.task = (s.core k).task :=
      List.foldlRecOn (motive := fun x => x.task = (s.core k).task) _ _ rfl fun x hx i _ => (wildEdit_task _ _ x).trans hx
    change ((s.setCore k c).core k).task.ctx = n
    rw [State.core_setCore, hc, h]
  · exact ht

/-! ## A context's memory lies outside the cores -/

@[simp] theorem State.touch_cores (s : State) (f : Found) (w : Bool) : (s.touch f w).cores = s.cores := by
  unfold State.touch
  extract_lets
  split <;> rfl

@[simp] theorem State.walked_cores (s : State) (f : Found) (w : Bool) : (s.walked f w).cores = s.cores := by
  unfold State.walked
  split
  · rfl
  · exact State.touch_cores s f w

@[simp] theorem State.campUse_cores (s : State) (n : CtxId) (va : Nat) (f : Found) (w : Bool) :
    (s.campUse n va f w).cores = s.cores := by
  unfold State.campUse
  extract_lets t
  have ht : t.cores = s.cores := State.walked_cores s f w
  split
  · exact ht
  · split <;> exact ht

theorem State.ctxWrite_cores {s t : State} {n : CtxId} {a : Nat} {v : List Byte} (ht : s.ctxWrite n a v = some t) :
    t.cores = s.cores := by
  unfold State.ctxWrite at ht
  split at ht
  · cases ht
  · rename_i ps _
    injection ht with ht
    rw [← ht]
    exact List.foldlRecOn (motive := fun p : State × List Byte => p.1.cores = s.cores) ps _ rfl fun p hp x _ =>
      (State.campUse_cores p.1 n x.2.1 x.1 true).trans hp

/-- A write that is made where it is not refused. -/
theorem State.ctxWrite_getD_cores (s : State) (n : CtxId) (a : Nat) (v : List Byte) : ((s.ctxWrite n a v).getD s).cores = s.cores := by
  cases e : s.ctxWrite n a v with
  | none => rfl
  | some t => exact State.ctxWrite_cores e

theorem wildByte_cores (s : State) (n : CtxId) : (wildByte s n).cores = s.cores := by
  obtain ⟨write, hwrite, hcores⟩ : ∃ W, State.ctxWrite = W ∧ ∀ a v, ((W s n a v).getD s).cores = s.cores :=
    ⟨_, rfl, State.ctxWrite_getD_cores s n⟩
  unfold wildByte
  rw [hwrite]
  exact hcores _ _

theorem wildRace_cores (s : State) (n : CtxId) : (wildRace s n).cores = s.cores := rfl

/-- R1: undefined behaviour of a context changes no core of another. -/
theorem spares_wild (s : State) (n : CtxId) : Spares n s (wild s n) := by
  unfold wild
  extract_lets t
  have ht : Spares n s t := spares_foldl (fun s k => by
    dsimp only
    split
    · rename_i h
      rw [Bool.and_eq_true, beq_iff_eq] at h
      exact spares_wildCore h.2
    · exact Spares.refl n s) _ s
  refine ht.trans (Spares.trans (t := { t with seq := t.seq + 1 }) (Spares.of_cores rfl) ?_)
  exact spares_foldl (fun s _ => Spares.of_cores ((wildRace_cores _ n).trans (wildByte_cores s n))) _ _

/-! ## The device error log (R375) -/

/-- A message raised changes the ports alone. -/
theorem State.msix_frame (s : State) (n : Nat) : ∃ p, s.msix n = { s with ports := p } := by
  unfold State.msix
  split <;> exact ⟨_, rfl⟩

/-- An entry moves the log's head on, and neither a core nor base camp's tables change. -/
theorem State.logEntry_frame (s : State) (sev blk : Nat) (c : Option CtxId) (d0 d1 : Nat) :
    (s.logEntry sev blk c d0 d1).cores = s.cores ∧ (s.logEntry sev blk c d0 d1).sched = s.sched ∧
    (s.logEntry sev blk c d0 d1).fleet.logHead = s.fleet.logHead + 1 := by
  unfold State.logEntry
  extract_lets f code w0 e full lost f' t u _ v
  have hv : v.cores = s.cores ∧ v.sched = s.sched ∧ v.fleet.logHead = s.fleet.logHead + 1 := by
    by_cases h : sev = 3
    · simp only [v, if_pos h]
      exact ⟨rfl, rfl, rfl⟩
    · simp only [v, if_neg h]
      exact ⟨rfl, rfl, rfl⟩
  split
  · obtain ⟨p, hp⟩ := State.msix_frame v 66
    rw [hp]
    exact hv
  · exact hv

end Sys2Proof.Machine
end

section
/-! SUPPORT. Barriers (R43, R170): what an arrival does to one, and the arrivals held that BAR.INIT counts. -/

namespace Sys2Proof.Machine

open Sys2Proof.Claims

/-! ## The barriers of a core -/

@[simp] theorem Core.bar_setBar (c : Core) (b : BitVec 6) (x : Barrier) : (c.setBar b x).bar b = x :=
  tabGet_tabSet_same Barrier.reset _ _ _

theorem Core.bar_setBar_ne (c : Core) {b d : BitVec 6} (x : Barrier) (h : d ≠ b) : (c.setBar b x).bar d = c.bar d :=
  tabGet_tabSet_ne Barrier.reset _ _ _ _ fun e => h (BitVec.eq_of_toNat_eq e)

/-- An arrival that is not the last (R43). -/
theorem Barrier.arrive_counts {x : Barrier} (j : Nat) (h : x.count + 1 < members x.mask) :
    x.arrive j = { x with count := x.count + 1, who := x.who ||| BitVec.ofNat 64 (2 ^ j) } :=
  if_neg (Nat.not_le.mpr h)

/-- The arrival that releases a barrier (R43). -/
theorem Barrier.arrive_releases {x : Barrier} (j : Nat) (h : members x.mask ≤ x.count + 1) :
    x.arrive j = { x with count := 0, gen := x.gen + 1, arrived := false, who := 0 } :=
  if_pos h

/-! ## Arrivals held (R43) -/

/-- An arrival for barrier `b` of context `n`. -/
def Arrival.isFor (b : BitVec 6) (n : CtxId) (a : Arrival) : Bool := a.bar == b && a.ctx == n

/-- One arrival of those held, as BAR.INIT takes it (the step of `countHeld`). -/
def countOne (k : CoreId) (b : BitVec 6) (n : CtxId) (s : State) (a : Arrival) : State :=
  if a.isFor b n then
    let s := s.modCore k fun c => { c with held := c.held.erase a }
    let x := (s.core k).bar b
    if bit x.who (maskBit a.src) then { s with sched := { s.sched with arrivals := s.sched.arrivals ++ [a] } }
    else s.modCore k fun c => c.setBar b (x.arrive (maskBit a.src))
  else s

theorem countHeld_eq (s : State) (k : CoreId) (b : BitVec 6) :
    countHeld s k b = (s.core k).held.foldl (countOne k b (s.core k).task.ctx) s := rfl

theorem countOne_other {k : CoreId} {b : BitVec 6} {n : CtxId} (s : State) {a : Arrival} (h : a.isFor b n = false) :
    countOne k b n s a = s := if_neg (by simp [h])

/-- The members whose arrivals are counted, one more for each arrival of a list. -/
def whoOf (w : Word64) (hs : List Arrival) : Word64 := hs.foldl (fun w h => w ||| BitVec.ofNat 64 (2 ^ maskBit h.src)) w

/-- `t` is `s` but that barrier `b` of core `k` has counted the arrivals `hs`, and the core holds the arrivals `held`. -/
structure Counts (k : CoreId) (b : BitVec 6) (s t : State) (held hs : List Arrival) : Prop where
  card : { t with cores := s.cores } = s
  others : ∀ j, j ≠ k → t.core j = s.core j
  core : { t.core k with bars := (s.core k).bars } = { s.core k with held := held }
  bar : (t.core k).bar b =
    { (s.core k).bar b with count := ((s.core k).bar b).count + hs.length, who := whoOf ((s.core k).bar b).who hs }
  otherBars : ∀ d, d ≠ b → (t.core k).bar d = (s.core k).bar d

theorem Counts.refl (k : CoreId) (b : BitVec 6) (s : State) : Counts k b s s (s.core k).held [] :=
  ⟨rfl, fun _ _ => rfl, rfl, rfl, fun _ _ => rfl⟩

theorem Counts.held {k : CoreId} {b : BitVec 6} {s t : State} {held hs : List Arrival} (h : Counts k b s t held hs) :
    (t.core k).held = held := congrArg Core.held h.core

theorem Counts.trans {k : CoreId} {b : BitVec 6} {s t u : State} {held held' hs hs' : List Arrival} (h : Counts k b s t held hs)
    (h' : Counts k b t u held' hs') : Counts k b s u held' (hs ++ hs') where
  card := (congrArg (fun x : State => { x with cores := s.cores }) h'.card).trans h.card
  others j hj := (h'.others j hj).trans (h.others j hj)
  core := (congrArg (fun c : Core => { c with bars := (s.core k).bars }) h'.core).trans
    (congrArg (fun c : Core => { c with held := held' }) h.core)
  bar := by rw [h'.bar, h.bar, whoOf, whoOf, whoOf, List.foldl_append, List.length_append, Nat.add_assoc]
  otherBars d hd := (h'.otherBars d hd).trans (h.otherBars d hd)

/-- An arrival of a member that is not counted yet, and not the last one. -/
theorem countOne_counts {k : CoreId} {b : BitVec 6} {n : CtxId} {s : State} {a : Arrival} (h : a.isFor b n = true)
    (hw : bit ((s.core k).bar b).who (maskBit a.src) = false) (hm : ((s.core k).bar b).count + 1 < members ((s.core k).bar b).mask) :
    Counts k b s (countOne k b n s a) ((s.core k).held.erase a) [a] := by
  have he : countOne k b n s a = (s.modCore k fun c => { c with held := c.held.erase a }).setCore k
      (Core.setBar { s.core k with held := (s.core k).held.erase a } b (((s.core k).bar b).arrive (maskBit a.src))) := by
    have hc : (s.modCore k fun c => { c with held := c.held.erase a }).core k = { s.core k with held := (s.core k).held.erase a } :=
      State.core_setCore s k _
    have hb : Core.bar { s.core k with held := (s.core k).held.erase a } b = (s.core k).bar b := rfl
    rw [countOne, if_pos h]
    dsimp only
    rw [hc, hb, if_neg (by simp [hw]), State.modCore, hc]
  rw [he, Barrier.arrive_counts _ hm]
  refine ⟨rfl, fun j hj => ?_, ?_, ?_, fun d hd => ?_⟩
  · rw [State.core_setCore_ne _ _ hj, State.modCore, State.core_setCore_ne _ _ hj]
  · rw [State.core_setCore]
    rfl
  · rw [State.core_setCore, Core.bar_setBar]
    rfl
  · rw [State.core_setCore, Core.bar_setBar_ne _ _ hd]
    rfl

/-- Any arrival that is taken changes the core alone. -/
theorem countOne_core_ne {k j : CoreId} (b : BitVec 6) (n : CtxId) (s : State) (a : Arrival) (h : j ≠ k) :
    (countOne k b n s a).core j = s.core j := by
  have hc : (s.modCore k fun c => { c with held := c.held.erase a }).core j = s.core j := State.core_setCore_ne _ _ h
  unfold countOne
  extract_lets t x
  split
  · split
    · exact hc
    · exact (State.core_setCore_ne _ _ h).trans hc
  · rfl

theorem countHeld_core_ne {k j : CoreId} (s : State) (b : BitVec 6) (h : j ≠ k) : (countHeld s k b).core j = s.core j := by
  rw [countHeld_eq]
  exact List.foldlRecOn (motive := fun t => t.core j = s.core j) _ _ rfl fun t ht a _ => (countOne_core_ne b _ t a h).trans ht

theorem countHeld_none {s : State} {k : CoreId} {b : BitVec 6} (h : ∀ a ∈ (s.core k).held, a.isFor b (s.core k).task.ctx = false) :
    countHeld s k b = s := by
  rw [countHeld_eq]
  exact List.foldlRecOn (motive := fun t => t = s) _ _ rfl fun t ht a ha => by rw [countOne_other t (h a ha), ht]

/-- The arrivals held for a barrier are counted in their order, where they are of different members and the last is not among them:
what is left of the list is what is not for the barrier. -/
theorem foldl_countOne {k : CoreId} {b : BitVec 6} {n : CtxId} : ∀ (rest past : List Arrival) (s : State),
    (s.core k).held = past ++ rest → (∀ a ∈ past, a.isFor b n = false) →
    (∀ a ∈ rest.filter (·.isFor b n), bit ((s.core k).bar b).who (maskBit a.src) = false) →
    ((rest.filter (·.isFor b n)).map fun a => maskBit a.src).Nodup →
    ((s.core k).bar b).count + (rest.filter (·.isFor b n)).length < members ((s.core k).bar b).mask →
    Counts k b s (rest.foldl (countOne k b n) s) (past ++ rest.filter (fun a => !a.isFor b n)) (rest.filter (·.isFor b n))
  | [], past, s, hheld, _, _, _, _ => by
    have h := Counts.refl k b s
    rw [hheld] at h
    simpa using h
  | a :: rest, past, s, hheld, hpast, hwho, hdup, hcount => by
    cases ha : a.isFor b n with
    | false =>
      simp only [List.filter_cons, ha, Bool.false_eq_true, if_false, Bool.not_false, if_true] at hwho hdup hcount ⊢
      have h := foldl_countOne rest (past ++ [a]) s (by simpa using hheld) (by simpa [or_imp, forall_and, ha] using hpast) hwho hdup hcount
      rw [List.foldl_cons, countOne_other s ha]
      simpa using h
    | true =>
      simp only [List.filter_cons, ha, if_true, Bool.not_true, Bool.false_eq_true, if_false] at hwho hdup hcount ⊢
      rw [List.map_cons, List.nodup_cons] at hdup
      rw [List.length_cons] at hcount
      have herase : (past ++ a :: rest).erase a = past ++ rest := by
        rw [List.erase_append_right _ fun hm => by simp [hpast a hm] at ha, List.erase_cons_head]
      have hone := countOne_counts ha (hwho a (List.mem_cons_self ..)) (by omega)
      rw [hheld, herase] at hone
      refine hone.trans (foldl_countOne rest past (countOne k b n s a) hone.held hpast (fun c hc => ?_) hdup.2 ?_)
      · rw [hone.bar]
        refine bit_or_twoPow _ (hwho c (List.mem_cons_of_mem _ hc)) fun e => hdup.1 ?_
        exact e ▸ List.mem_map_of_mem hc
      · rw [hone.bar]
        simp only [List.length_singleton]
        omega

/-- BAR.INIT counts the arrivals that are held for its barrier, and holds them no more. -/
theorem countHeld_counts {s : State} {k : CoreId} {b : BitVec 6} (hwho : ((s.core k).bar b).who = 0) :
    let ours := fun a : Arrival => a.isFor b (s.core k).task.ctx
    (((s.core k).held.filter ours).map fun a => maskBit a.src).Nodup →
    ((s.core k).bar b).count + ((s.core k).held.filter ours).length < members ((s.core k).bar b).mask →
    Counts k b s (countHeld s k b) ((s.core k).held.filter fun a => !ours a) ((s.core k).held.filter ours) := by
  intro ours hdup hcount
  rw [countHeld_eq]
  refine foldl_countOne (s.core k).held [] s rfl (fun _ h => absurd h (List.not_mem_nil)) (fun a _ => ?_) hdup hcount
  rw [hwho, bit_eq_getLsbD]
  exact BitVec.getLsbD_zero

end Sys2Proof.Machine
end

section
/-! SUPPORT. The barrier commands and the arrival of a member (R43, R170). -/

namespace Sys2Proof.Machine

open Sys2Proof.Claims

/-! ## BAR.INIT -/

/-- The core after BAR.INIT, before the arrivals it holds are counted. -/
def barInited (c : Core) (b : BitVec 6) (m : Word64) : Core :=
  (c.setBar b { c.bar b with init := true, mask := m, count := 0, since := false, who := 0 }).passed

section
variable {b : BitVec 6} {a : BitVec 5} {s : State}
variable (hm : bit (s.me.gr a) (maskBit s.cur) = true) (hx : (s.me.bar b).arrived = false)
include hm hx

theorem exec_barInit : exec (.barInit b a) s = .next
    (if (s.me.held.any fun h => h.isFor b s.me.task.ctx && h.mask != s.me.gr a) then
      wild (countHeld (s.setMe (barInited s.me b (s.me.gr a))) s.cur b) s.me.task.ctx
    else countHeld (s.setMe (barInited s.me b (s.me.gr a))) s.cur b) := by
  change execBarInit b a s = _
  unfold execBarInit
  extract_lets c m x differ t u
  rw [if_neg (by simp [c, m, hm]), if_neg (by simp [c, x, hx])]
  rfl

/-- No arrival is held for the barrier. -/
theorem exec_barInit_none (hh : ∀ h ∈ s.me.held, h.isFor b s.me.task.ctx = false) :
    exec (.barInit b a) s = .next (s.setMe (barInited s.me b (s.me.gr a))) := by
  rw [exec_barInit hm hx, if_neg (by simpa using fun h hm hf => absurd hf (by simp [hh h hm])), countHeld_none]
  rw [State.setMe, State.core_setCore]
  exact hh

/-- The arrivals held for the barrier have its mask, and are of different members, and the last is not among them. -/
theorem exec_barInit_counts :
    let ours := fun h : Arrival => h.isFor b s.me.task.ctx
    let hs := s.me.held.filter ours
    (∀ h ∈ hs, h.mask = s.me.gr a) → (hs.map fun h => maskBit h.src).Nodup → hs.length < members (s.me.gr a) →
    ∃ t, exec (.barInit b a) s = .next t ∧ onlyMe s t ∧ (∀ d, d ≠ b → t.me.bar d = s.me.bar d) ∧
      { t.me with bars := s.me.bars } = resumed { s.me with held := s.me.held.filter (fun h => !ours h), cmdIdx := s.me.cmdIdx + 1 } ∧
      t.me.bar b = { s.me.bar b with
        init := true, mask := s.me.gr a, count := hs.length, since := false, who := whoOf 0 hs } := by
  intro ours hs hmask hdup hlen
  have hc : (s.setMe (barInited s.me b (s.me.gr a))).core s.cur = barInited s.me b (s.me.gr a) := State.core_setCore s _ _
  have hb : (barInited s.me b (s.me.gr a)).bar b = _ := Core.bar_setBar s.me b _
  have hcounts := countHeld_counts (s := s.setMe (barInited s.me b (s.me.gr a))) (k := s.cur) (b := b)
  rw [hc, hb] at hcounts
  obtain ⟨hcard, hothers, hcore, hbar, hother⟩ := hcounts rfl hdup (Nat.lt_of_le_of_lt (Nat.le_of_eq (Nat.zero_add _)) hlen)
  have hexec := exec_barInit hm hx
  rw [if_neg (by simpa using fun h hh ho => hmask h (List.mem_filter.mpr ⟨hh, ho⟩))] at hexec
  generalize countHeld (s.setMe (barInited s.me b (s.me.gr a))) s.cur b = t at *
  have hcur := congrArg (fun x : State => x.cur) hcard
  have hme : t.me = t.core s.cur := congrArg (fun n => t.core n) hcur
  rw [hc] at hcore hother hbar
  refine ⟨t, hexec, ⟨congrArg (fun x : State => { x with cores := s.cores }) hcard, fun j hj => ?_⟩, fun d hd => ?_, ?_, ?_⟩
  · exact (hothers j hj).trans (State.core_setMe_ne s _ hj)
  · rw [hme, hother d hd]
    exact Core.bar_setBar_ne s.me _ hd
  · rw [hme]
    exact congrArg (fun c : Core => { c with bars := s.me.bars }) hcore
  · rw [hme, hbar, hb]
    simp only [Nat.zero_add]
    rfl

/-- Whatever arrivals are held, no core of another context changes. -/
theorem exec_barInit_spares : ∃ t, exec (.barInit b a) s = .next t ∧ Spares s.me.task.ctx s t := by
  have hc : Spares s.me.task.ctx s (countHeld (s.setMe (barInited s.me b (s.me.gr a))) s.cur b) := fun j hj => by
    have hne : j ≠ s.cur := fun e => hj (e ▸ rfl)
    rw [countHeld_core_ne _ b hne, State.core_setMe_ne s _ hne]
  refine ⟨_, exec_barInit hm hx, ?_⟩
  split
  · exact hc.trans (spares_wild _ _)
  · exact hc

end

/-! ## BAR.ARRIVE and BAR.WAIT -/

/-- A barrier at which the core arrives itself. -/
def Barrier.arriveOwn (x : Barrier) (j : Nat) : Barrier :=
  ({ x with arrived := true, genAt := x.gen, since := true } : Barrier).arrive j

theorem Barrier.arriveOwn_kept (x : Barrier) (j : Nat) :
    (x.arriveOwn j).mask = x.mask ∧ (x.arriveOwn j).genAt = x.gen ∧ (x.arriveOwn j).since = true := by
  unfold Barrier.arriveOwn Barrier.arrive
  extract_lets
  split <;> exact ⟨rfl, rfl, rfl⟩

theorem Barrier.arriveOwn_counts {x : Barrier} (j : Nat) (h : x.count + 1 < members x.mask) :
    (x.arriveOwn j).arrived = true ∧ (x.arriveOwn j).count = x.count + 1 ∧ (x.arriveOwn j).gen = x.gen := by
  rw [Barrier.arriveOwn, Barrier.arrive_counts (x := { x with arrived := true, genAt := x.gen, since := true }) j h]
  exact ⟨rfl, rfl, rfl⟩

theorem Barrier.arriveOwn_releases {x : Barrier} (j : Nat) (h : members x.mask ≤ x.count + 1) :
    (x.arriveOwn j).arrived = false ∧ (x.arriveOwn j).count = 0 ∧ (x.arriveOwn j).gen = x.gen + 1 := by
  rw [Barrier.arriveOwn, Barrier.arrive_releases (x := { x with arrived := true, genAt := x.gen, since := true }) j h]
  exact ⟨rfl, rfl, rfl⟩

/-- The card after BAR.ARRIVE: the core's barrier has counted it, and an arrival is under way to each other member. -/
def barArriveState (s : State) (b : BitVec 6) : State :=
  let x := s.me.bar b
  let out : List Arrival := ((maskCores (dieOf s.cur) x.mask).filter (· != s.cur)).map fun d => ⟨b, x.mask, s.me.task.ctx, s.cur, d⟩
  { s.setMe ((s.me.setBar b (x.arriveOwn (maskBit s.cur))).release 3).passed with
    sched := { s.sched with arrivals := s.sched.arrivals ++ out } }

theorem barArriveState_me (s : State) (b : BitVec 6) :
    (barArriveState s b).me = ((s.me.setBar b ((s.me.bar b).arriveOwn (maskBit s.cur))).release 3).passed :=
  State.me_setMe s _

theorem barArriveState_bar (s : State) (b : BitVec 6) :
    (barArriveState s b).me.bar b = (s.me.bar b).arriveOwn (maskBit s.cur) := by
  rw [barArriveState_me]
  exact Core.bar_setBar s.me b _

theorem barArriveState_core_ne {s : State} (b : BitVec 6) {j : CoreId} (h : j ≠ s.cur) : (barArriveState s b).core j = s.core j :=
  State.core_setMe_ne s _ h

section
variable {b : BitVec 6} {s : State} {k : CoreId}

/-- BAR.ARRIVE by a member that has not arrived in this generation. -/
theorem exec_barArrive (hi : (s.me.bar b).init = true) (ha : (s.me.bar b).arrived = false) :
    exec (.barArrive b) s = .next (barArriveState s b) := by
  change execBarArrive b s = _
  unfold execBarArrive
  extract_lets c x x' out t
  rw [if_neg (by simp [c, x, hi]), if_neg (by simp [c, x, ha])]
  rfl

theorem exec_barWait (hi : (s.me.bar b).init = true) (hs : (s.me.bar b).since = true) : exec (.barWait b) s = .next
    (if (s.me.bar b).gen ≠ (s.me.bar b).genAt then passes s s.me else waiting s (.bar b)) := by
  change execBarWait b s = _
  unfold execBarWait
  extract_lets c x
  rw [if_neg (by simp [c, x, hi, hs])]
  by_cases h : x.gen = x.genAt
  · rw [if_neg (by simp [h]), if_neg (not_not.mpr h)]
    rfl
  · rw [if_pos (by simp [h]), if_pos h]
    rfl

theorem exec_barWaitReturn (hw : (s.core k).wait = .bar b) (hc : (s.core k).cpRuns = true)
    (hg : ((s.core k).bar b).gen ≠ ((s.core k).bar b).genAt) :
    exec (.barWaitReturn k) s = .next (s.setCore k (resumed (s.core k))) := by
  change execBarWaitReturn k s = _
  unfold execBarWaitReturn
  simp only [hw, hc, Bool.true_and, bne_iff_ne, ne_eq, hg, not_false_eq_true, if_true]
  rfl

end

/-! ## An arrival reaches its core -/

theorem Core.barsOf_iff (c : Core) (n : CtxId) :
    c.barsOf n = true ↔ if c.run = .idle then c.prevCtx = some n else c.task.ctx = n := by
  unfold Core.barsOf
  by_cases h : c.run = .idle
  · simp [h]
  · simp [h]

/-- The card once arrival `i` is no longer under way. -/
def tookArrival (s : State) (i : Nat) : State := { s with sched := { s.sched with arrivals := s.sched.arrivals.eraseIdx i } }

section
variable {i : Nat} {a : Arrival} {s : State} (hi : s.sched.arrivals[i]? = some a)
include hi

theorem exec_barrierArrivalReceive : exec (.barrierArrivalReceive i) s =
    if (s.core a.dst).run != .idle && (s.core a.dst).task.ctx != a.ctx then
      .next ((tookArrival s i).logFree blkSched (some a.ctx) a.bar.toNat a.dst.toNat)
    else if !(s.core a.dst).barsOf a.ctx || !((s.core a.dst).bar a.bar).init then
      .next ((tookArrival s i).setCore a.dst { s.core a.dst with held := (s.core a.dst).held ++ [a] })
    else if ((s.core a.dst).bar a.bar).mask != a.mask then
      .next (wild { (if Config.freeNat s.seq 0 % 2 = 0 then (tookArrival s i).setCore a.dst ((s.core a.dst).setBar a.bar
        (((s.core a.dst).bar a.bar).arrive (maskBit a.src))) else tookArrival s i) with seq := s.seq + 1 } a.ctx)
    else if bit ((s.core a.dst).bar a.bar).who (maskBit a.src) then .next s
    else .next ((tookArrival s i).setCore a.dst ((s.core a.dst).setBar a.bar
      (((s.core a.dst).bar a.bar).arrive (maskBit a.src)))) := by
  change execBarrierArrivalReceive i s = _
  unfold execBarrierArrivalReceive
  rw [hi]
  rfl

/-- A core with a task of another context drops the arrival. -/
theorem receive_drops (hr : (s.core a.dst).run ≠ .idle) (hn : (s.core a.dst).task.ctx ≠ a.ctx) :
    exec (.barrierArrivalReceive i) s = .next ((tookArrival s i).logFree blkSched (some a.ctx) a.bar.toNat a.dst.toNat) := by
  rw [exec_barrierArrivalReceive hi, if_pos (by simp [hr, hn])]

/-- An arrival that comes too early, or to an idle core of another context, is held. -/
theorem receive_holds (h : ((s.core a.dst).barsOf a.ctx = true ∧ ((s.core a.dst).bar a.bar).init = false) ∨
      ((s.core a.dst).barsOf a.ctx = false ∧ (s.core a.dst).run = .idle)) :
    exec (.barrierArrivalReceive i) s =
      .next ((tookArrival s i).setCore a.dst { s.core a.dst with held := (s.core a.dst).held ++ [a] }) := by
  rw [exec_barrierArrivalReceive hi, if_neg, if_pos]
  · rcases h with ⟨-, h⟩ | ⟨h, -⟩ <;> simp [h]
  · rcases h with ⟨h, -⟩ | ⟨-, h⟩
    · rw [Core.barsOf_iff] at h
      by_cases hr : (s.core a.dst).run = .idle
      · simp [hr]
      · rw [if_neg hr] at h
        simp [h]
    · simp [h]

section
variable (ho : (s.core a.dst).barsOf a.ctx = true) (hx : ((s.core a.dst).bar a.bar).init = true)
include ho hx

/-- The arrival reaches an initialised barrier of its context. -/
theorem receive_initialised : exec (.barrierArrivalReceive i) s =
    if ((s.core a.dst).bar a.bar).mask != a.mask then
      .next (wild { (if Config.freeNat s.seq 0 % 2 = 0 then (tookArrival s i).setCore a.dst ((s.core a.dst).setBar a.bar
        (((s.core a.dst).bar a.bar).arrive (maskBit a.src))) else tookArrival s i) with seq := s.seq + 1 } a.ctx)
    else if bit ((s.core a.dst).bar a.bar).who (maskBit a.src) then .next s
    else .next ((tookArrival s i).setCore a.dst ((s.core a.dst).setBar a.bar
      (((s.core a.dst).bar a.bar).arrive (maskBit a.src)))) := by
  rw [exec_barrierArrivalReceive hi, if_neg, if_neg (by simp [ho, hx])]
  rw [Core.barsOf_iff] at ho
  by_cases hr : (s.core a.dst).run = .idle
  · simp [hr]
  · rw [if_neg hr] at ho
    simp [ho]

theorem receive_counts (hm : ((s.core a.dst).bar a.bar).mask = a.mask)
    (hw : bit ((s.core a.dst).bar a.bar).who (maskBit a.src) = false) :
    exec (.barrierArrivalReceive i) s = .next ((tookArrival s i).setCore a.dst ((s.core a.dst).setBar a.bar
      (((s.core a.dst).bar a.bar).arrive (maskBit a.src)))) := by
  rw [receive_initialised hi ho hx, if_neg (by simp [hm]), if_neg (by simp [hw])]

/-- A member's second arrival waits. -/
theorem receive_waits (hm : ((s.core a.dst).bar a.bar).mask = a.mask)
    (hw : bit ((s.core a.dst).bar a.bar).who (maskBit a.src) = true) : exec (.barrierArrivalReceive i) s = .next s := by
  rw [receive_initialised hi ho hx, if_neg (by simp [hm]), if_pos hw]

/-- An arrival with another mask spares the other contexts' cores but the one it reaches. -/
theorem receive_differs (hm : ((s.core a.dst).bar a.bar).mask ≠ a.mask) : ∃ t, exec (.barrierArrivalReceive i) s = .next t ∧
    ∀ j, j ≠ a.dst → (s.core j).task.ctx ≠ a.ctx → t.core j = s.core j := by
  refine ⟨_, (receive_initialised hi ho hx).trans (if_pos (by simp [hm])), fun j hj hn => ?_⟩
  generalize hu : (if Config.freeNat s.seq 0 % 2 = 0 then (tookArrival s i).setCore a.dst ((s.core a.dst).setBar a.bar
    (((s.core a.dst).bar a.bar).arrive (maskBit a.src))) else tookArrival s i) = u
  have hc : ({ u with seq := s.seq + 1 } : State).core j = s.core j := by
    change u.core j = s.core j
    rw [← hu]
    split
    · exact State.core_setCore_ne _ _ hj
    · rfl
  exact (spares_wild _ a.ctx j (by rwa [hc])).trans hc

end

end

end Sys2Proof.Machine
end

section
/-! CLAIM. The barrier commands (O26). -/

open Sys2Proof.Machine Sys2Proof.Claims in
/-- Settles O26: the commands by what they do to the core's barrier, the arrivals held by induction over their list, and an arrival
received by the core it reaches. -/
theorem barrierCommands : Obligations.BarrierCommands := by
  refine ⟨fun b a k s => ?_, fun i a s hi => ?_⟩
  · intro x m
    have hbit : m.getLsbD (s.cur.toNat % 64) = true → Sys2Proof.bit m (maskBit s.cur) = true := fun h => (bit_eq_getLsbD m _).trans h
    refine ⟨fun hm hx hh => ?_, fun hm hx => exec_barInit_counts (hbit hm) hx, fun hm hx => exec_barInit_spares (hbit hm) hx,
      fun hi ha => ?_, fun hi hs hg => ?_, fun hi hs hg => ?_,
      fun hw hr hc hg => exec_barWaitReturn hw (Core.cpRuns_of hr hc) hg⟩
    · exact exec_barInit_none (hbit hm) hx fun h hmem => by
        simpa [Arrival.isFor, Bool.and_eq_false_iff, imp_iff_not_or] using hh h hmem
    · have hme := barArriveState_me s b
      obtain ⟨hmask, hgen, hsince⟩ := (s.me.bar b).arriveOwn_kept (maskBit s.cur)
      refine ⟨_, exec_barArrive hi ha, rfl, fun j hj => barArriveState_core_ne b hj, ?_⟩
      rw [barArriveState_bar]
      exact ⟨by rw [hme]; rfl, by rw [hme]; rfl, by rw [hme]; rfl, hmask, hgen, hsince, Barrier.arriveOwn_counts _,
        Barrier.arriveOwn_releases _, rfl, rfl⟩
    · rw [exec_barWait hi hs, if_pos hg]
    · rw [exec_barWait hi hs, if_neg (not_not.mpr hg)]
  · intro c x u ours
    have hours : ours ↔ c.barsOf a.ctx = true := (Core.barsOf_iff c a.ctx).symm
    have hbit : ∀ v, x.who.getLsbD (a.src.toNat % 64) = v → Sys2Proof.bit x.who (maskBit a.src) = v :=
      fun v h => (bit_eq_getLsbD x.who _).trans h
    refine ⟨fun ho hx hm hw => ⟨fun h => ?_, fun h => ?_⟩, fun ho hx hm hw => ?_, fun ho hx hm => ?_, fun h => ?_, fun ho hr => ?_⟩
    · exact (receive_counts hi (hours.mp ho) hx hm (hbit _ hw)).trans (by rw [Barrier.arrive_counts _ h]; rfl)
    · exact (receive_counts hi (hours.mp ho) hx hm (hbit _ hw)).trans (by rw [Barrier.arrive_releases _ h]; rfl)
    · exact receive_waits hi (hours.mp ho) hx hm (hbit _ hw)
    · exact receive_differs hi (hours.mp ho) hx hm
    · refine receive_holds hi (h.imp (fun h => ⟨hours.mp h.1, h.2⟩) fun h => ⟨?_, h.2⟩)
      exact Bool.eq_false_iff.mpr fun e => h.1 (hours.mpr e)
    · have hn : c.task.ctx ≠ a.ctx := fun e => ho ((if_neg hr).mpr e)
      obtain ⟨hcores, hsched, hhead⟩ := State.logEntry_frame (tookArrival s i) _ blkSched (some a.ctx)
        a.bar.toNat a.dst.toNat
      exact ⟨_, receive_drops hi hr hn, hcores, hsched, hhead⟩
end

section
/-! SUPPORT. Descriptors in scratch (R149, R135): the words of one, and what its read raises. -/

namespace Sys2Proof.Machine

open Sys2Proof.Claims

/-! ## Runs of a memory -/

theorem memRead_drop (m : Mem) : ∀ (a n k : Nat), (memRead m a n).drop k = memRead m (a + k) (n - k)
  | a, n, 0 => rfl
  | a, 0, k + 1 => by simp [memRead]
  | a, n + 1, k + 1 => by
    rw [memRead, List.drop_succ_cons, memRead_drop m (a + 1) n k, Nat.add_sub_add_right, Nat.add_assoc, Nat.add_comm 1 k]

theorem memRead_take (m : Mem) : ∀ (a n k : Nat), (memRead m a n).take k = memRead m a (min k n)
  | a, n, 0 => by simp [memRead]
  | a, 0, k + 1 => by simp [memRead]
  | a, n + 1, k + 1 => by
    rw [memRead, List.take_succ_cons, memRead_take m (a + 1) n k, Nat.add_min_add_right, memRead]

/-- A word of a descriptor of `n` words. -/
theorem dword_memRead (m : Mem) (a : Nat) {i n : Nat} (h : i < n) : dword (memRead m a (8 * n)) i = memNat m (a + 8 * i) 8 := by
  rw [dword, natAt, memRead_drop, memRead_take, memNat, Nat.min_eq_left (by omega)]

/-! ## The read of a descriptor -/

theorem region_plain {x : Nat} (h : x < 0x40000) : region x = .plain := if_pos h

theorem region_window {x : Nat} {b : BitVec 5} (h1 : 0x40000 + 0x3000 * b.toNat ≤ x) (h2 : x < 0x43000 + 0x3000 * b.toNat) :
    region x = .window b := by
  have hb := b.isLt
  have hq : (x - 0x40000) / 0x3000 = b.toNat := by omega
  rw [region, if_neg (by omega), if_pos (by omega), hq, BitVec.ofNat_toNat, BitVec.setWidth_eq]

theorem region_beyond {x : Nat} (h : 0xA0000 ≤ x) : region x = .control ∨ region x = .unmapped := by
  rw [region, if_neg (by omega), if_neg (by omega)]
  split
  · exact .inl rfl
  · exact .inr rfl

section
variable {c : Core} {a : Word64} {n align : Nat}

/-- A descriptor in plain scratch is read. -/
theorem Core.desc_ok (hn : 0 < n) (h : descAt a n align) : c.desc a n align = .ok (memRead c.scratch a.toNat n) := by
  obtain ⟨ha, he⟩ := h
  rw [Core.desc]
  rw [if_neg (by omega), if_neg (by omega), region_plain (by omega)]
  exact if_neg (by omega)

/-- What the read raises. -/
theorem Core.desc_trap {cause d0 d1 : Nat} (h : DescTraps c n align a.toNat cause d0 d1) :
    c.desc a n align = .trap ⟨cause, 0, d0, d1⟩ := by
  generalize hx : a.toNat = x at h
  rw [Core.desc, hx]
  cases h with
  | range h => exact if_pos h
  | align h1 h2 => exact (if_neg (by omega)).trans (if_pos h2)
  | hole h1 h2 h3 =>
    rw [if_neg (by omega), if_neg (by omega)]
    rcases region_beyond h3 with h | h <;> rw [h] <;> rfl
  | plainEnd h1 h2 h3 h4 =>
    rw [if_neg (by omega), if_neg (by omega), region_plain h2]
    exact if_pos h3
  | windowEnd b h1 h2 h3 h4 h5 =>
    rw [if_neg (by omega), if_neg (by omega), region_window h2 h3]
    exact if_pos (by rw [windowBase]; omega)
  | bank b h1 h2 h3 h4 h5 h6 =>
    have hb := b.isLt
    rw [if_neg (by omega), if_neg (by omega), region_window h2 h3]
    dsimp only
    rw [if_neg (by rw [windowBase]; omega), if_neg (by simp [h5]), if_pos h6]
    rfl

end

end Sys2Proof.Machine
end

section
/-! SUPPORT. Reduction trees (R172, R173): the nodes of a new tree, the trees of the card, and the checks of a descriptor. -/

namespace Sys2Proof.Machine

open Sys2Proof.Claims

/-! ## A new tree holds no value -/

/-- No node of a list has a value. -/
def NoValue (l : List RNode) : Prop := ∀ x ∈ l, x.value = none

theorem NoValue.append {l m : List RNode} (h : NoValue l) (h' : NoValue m) : NoValue (l ++ m) := fun x hx =>
  (List.mem_append.mp hx).elim (h x) (h' x)

theorem NoValue.singleton {x : RNode} (h : x.value = none) : NoValue [x] := fun y hy => by rw [List.mem_singleton.mp hy, h]

theorem treeLevel_noValue {fan : Nat} {nodes : List RNode} {level : List Nat} (h : NoValue nodes) :
    NoValue (treeLevel fan nodes level).1 := by
  unfold treeLevel
  refine List.foldlRecOn (motive := fun p : List RNode × List Nat => NoValue p.1) _ _ h fun p hp r _ => ?_
  split
  · exact hp
  · exact hp.append (NoValue.singleton rfl)

theorem treeUp_noValue {fan : Nat} : ∀ {fuel : Nat} {nodes : List RNode} {level : List Nat}, NoValue nodes →
    NoValue (treeUp fan fuel nodes level).1
  | 0, _, _, h => h
  | fuel + 1, nodes, level, h => by
    unfold treeUp
    split
    · exact h
    · exact h
    · exact treeUp_noValue (treeLevel_noValue h)

theorem treeNodes_noValue (desc : List Word64) (fan : Nat) : NoValue (treeNodes desc fan) := by
  unfold treeNodes
  extract_lets p
  have hp : NoValue p.1 := by
    refine List.foldlRecOn (motive := fun p : List RNode × List Nat => NoValue p.1) _ _ (fun _ h => absurd h List.not_mem_nil)
      fun p hp die _ => treeUp_noValue (hp.append fun x hx => ?_)
    obtain ⟨k, -, rfl⟩ := List.mem_map.mp hx
    rfl
  split
  · exact hp
  · exact hp
  · exact hp.append (NoValue.singleton rfl)

/-! ## The trees of the card -/

theorem State.tree_key {s : State} {n : CtxId} {tid : BitVec 16} {t : RTree} (h : s.tree n tid = some t) : t.ctx = n ∧ t.tid = tid := by
  have hp := List.find?_some h
  simpa using hp

/-- A tree replaced is the tree of its identifier. -/
theorem State.tree_setTree {s : State} {n : CtxId} {tid : BitVec 16} {t t' : RTree} (h : s.tree n tid = some t)
    (hn : t'.ctx = n) (ht : t'.tid = tid) : (s.setTree t').tree n tid = some t' := by
  have hkey : (fun x : RTree => x.ctx == n && x.tid == tid) ∘ (fun x => if x.ctx == t'.ctx && x.tid == t'.tid then t' else x) =
      fun x => x.ctx == n && x.tid == tid := by
    funext x
    simp only [Function.comp, hn, ht]
    split
    · rename_i hx
      simp [hn, ht, hx]
    · rfl
  obtain ⟨hn', ht'⟩ := State.tree_key h
  rw [State.tree] at h
  rw [State.tree, State.setTree, List.find?_map, hkey, h]
  simp [hn', ht', hn, ht]

/-- A tree begun is the tree of its identifier. -/
theorem State.tree_begun {s : State} {n : CtxId} {tid : BitVec 16} {t : RTree} (h : s.tree n tid = none) (hn : t.ctx = n)
    (ht : t.tid = tid) :
    State.tree { s with sched := { s.sched with trees := s.sched.trees ++ [t] } } n tid = some t := by
  rw [State.tree] at h
  rw [State.tree, List.find?_append, h]
  simp [hn, ht]

/-! ## The checks of a descriptor (R172) -/

section
variable {w : List Nat} {k : CoreId}

/-- Word 4 of a descriptor has an illegal field. -/
def badWord4 (d : Nat) : Prop := d / 2 ^ 24 ≠ 0 ∨ d / 2 ^ 4 % 2 ^ 4 ≠ 0 ∨ d % 2 ^ 4 = 0

theorem badWord4_iff {d : Nat} (h : d < 2 ^ 64) : (fld d 63 24 ≠ 0 ∨ fld d 7 4 ≠ 0 ∨ fld d 3 0 = 0) ↔ badWord4 d := by
  simp only [fld, badWord4]
  omega

theorem treeFault_word4 (hd : w.getD 4 0 < 2 ^ 64) (h : badWord4 (w.getD 4 0)) : treeFault w k = some 32 :=
  if_pos ((badWord4_iff hd).mpr h)

/-- The first of the words 5 to 7 that is not zero. -/
theorem treeFault_reserved {i : Nat} (hd : w.getD 4 0 < 2 ^ 64) (h : ¬badWord4 (w.getD 4 0)) (h5 : 5 ≤ i) (h7 : i ≤ 7)
    (hi : w.getD i 0 ≠ 0) (hj : ∀ j, 5 ≤ j → j < i → w.getD j 0 = 0) : treeFault w k = some (8 * i) := by
  have hf : [5, 6, 7].find? (fun i => decide (w.getD i 0 ≠ 0)) = some i := by
    obtain rfl | rfl | rfl : i = 5 ∨ i = 6 ∨ i = 7 := by omega
    · simp only [List.find?_cons, hi, ne_eq, not_false_eq_true, decide_true]
    · simp only [List.find?_cons, hi, hj 5 (by omega) (by omega), ne_eq, not_true_eq_false, not_false_eq_true, decide_true, decide_false]
    · simp only [List.find?_cons, hi, hj 5 (by omega) (by omega), hj 6 (by omega) (by omega), ne_eq, not_true_eq_false,
        not_false_eq_true, decide_true, decide_false]
  refine (if_neg ((badWord4_iff hd).not.mpr h)).trans ?_
  rw [hf]

/-- The core is no member, or there is one member only. -/
theorem treeFault_members (hd : w.getD 4 0 < 2 ^ 64) (h : ¬badWord4 (w.getD 4 0)) (h5 : w.getD 5 0 = 0) (h6 : w.getD 6 0 = 0)
    (h7 : w.getD 7 0 = 0)
    (hm : w.getD (dieOf k) 0 / 2 ^ maskBit k % 2 = 0 ∨ ((w.take 4).map (popCount 64)).sum < 2) : treeFault w k = some 0 := by
  have hf : [5, 6, 7].find? (fun i => decide (w.getD i 0 ≠ 0)) = none := by
    simp only [List.find?_cons, List.find?_nil, h5, h6, h7, ne_eq, not_true_eq_false, decide_false]
  refine (if_neg ((badWord4_iff hd).not.mpr h)).trans ?_
  rw [hf]
  exact if_pos hm

end

end Sys2Proof.Machine
end

section
/-! SUPPORT. The reduction-tree commands (R172): the operands they read, the tree they join, and the traps of their checks. -/

namespace Sys2Proof.Machine

open Sys2Proof.Claims

/-- The bytes of a contribution. -/
def rtreeSize (c : Core) (op : Nat) : Nat := if op = 0 then 256 * (c.jetOrder.toNat + 1) else if op = 1 then 256 else 512

theorem rtreeSize_pos (c : Core) (op : Nat) : 0 < rtreeSize c op := by
  unfold rtreeSize
  split
  · omega
  · split <;> omega

/-- The eight words of the descriptor at g[gb]. -/
def treeWords (c : Core) (b : BitVec 5) : List Nat := (List.range 8).map fun i => memNat c.scratch ((c.gr b).toNat + 8 * i) 8

theorem treeWords_dword (c : Core) (b : BitVec 5) :
    (List.range 8).map (dword (memRead c.scratch (c.gr b).toNat 64)) = treeWords c b :=
  List.map_congr_left fun _ hi => dword_memRead (n := 8) c.scratch _ (List.mem_range.mp hi)

theorem treeWords_getD (c : Core) (b : BitVec 5) {i : Nat} (h : i < 8) :
    (treeWords c b).getD i 0 = memNat c.scratch ((c.gr b).toNat + 8 * i) 8 := by
  simp [treeWords, List.getD, h]

/-- The tree a descriptor names. -/
def treeId (w : List Nat) : BitVec 16 := BitVec.ofNat 16 (fld (w.getD 4 0) 23 8)

/-- A tree as its first member begins it. -/
def freshTree (n : CtxId) (op size : Nat) (w : List Nat) : RTree :=
  ⟨n, treeId w, BitVec.ofNat 2 op, w.map (BitVec.ofNat 64), size / 256,
    treeNodes (w.map (BitVec.ofNat 64)) (fld (w.getD 4 0) 3 0 + 1), []⟩

/-- The nodes that are a core's leaf in a tree take its contribution. -/
def RTree.contribute (t : RTree) (k : CoreId) (v : List Byte) : RTree :=
  { t with nodes := t.nodes.map fun x => if x.leaf == some k then { x with value := some v } else x }

/-- A descriptor or operator unlike the tree's, or a second contribution. -/
def RTree.differs (t : RTree) (k : CoreId) (op : Nat) (w : List Nat) : Bool :=
  t.desc != w.map (BitVec.ofNat 64) || t.op.toNat != op || t.nodes.any fun x => x.leaf == some k && x.value.isSome

/-- The card with a tree begun or replaced. -/
def putTree (s : State) (n : CtxId) (tid : BitVec 16) (t : RTree) : State :=
  if (s.tree n tid).isSome then s.setTree t else { s with sched := { s.sched with trees := s.sched.trees ++ [t] } }

section
variable (s : State) (n : CtxId) (tid : BitVec 16) (t : RTree)

theorem putTree_cores : (putTree s n tid t).cores = s.cores := by
  unfold putTree
  split <;> rfl

theorem putTree_cur : (putTree s n tid t).cur = s.cur := by
  unfold putTree
  split <;> rfl

theorem putTree_tree (hn : t.ctx = n) (ht : t.tid = tid) : (putTree s n tid t).tree n tid = some t := by
  unfold putTree
  cases h : s.tree n tid with
  | none => exact State.tree_begun h hn ht
  | some t' => exact State.tree_setTree h hn ht

end

/-- The scope of a tree's release (R172): the die of its members, or all dies. -/
def treeScope (w : List Nat) : BitVec 3 := if ((w.take 4).filter (· ≠ 0)).length = 1 then 3 else 4

/-- The card after a contribution: the tree has it, and the core waits for the result at `res`. -/
def rtreeJoined (s : State) (w : List Nat) (t : RTree) (v : List Byte) (res size : Nat) : State :=
  (putTree s s.me.task.ctx (treeId w) (t.contribute s.cur v)).setMe ((s.me.release (treeScope w)).waits (.rtree (treeId w) res size))

/-- The tree that a descriptor joins, or begins. -/
def State.treeFor (s : State) (op size : Nat) (w : List Nat) : RTree :=
  (s.tree s.me.task.ctx (treeId w)).getD (freshTree s.me.task.ctx op size w)

section
variable {s : State} {op : Nat} {a b c : BitVec 5} {again : Instr}

/-! ## The operands -/

/-- The checks of the command and what they read: the contribution and the descriptor's words. -/
def rtreeRead (s : State) (op : Nat) (a b c : BitVec 5) : Chk (List Byte × List Nat) :=
  (s.me.desc (s.me.gr a) (rtreeSize s.me op) 256).and fun v =>
  (s.me.desc (s.me.gr b) 64 64).and fun d =>
  (s.me.desc (s.me.gr c) (rtreeSize s.me op) 256).and fun _ =>
  match treeFault ((List.range 8).map (dword d)) s.cur with
  | some o => .trap (descTrap o)
  | none => .ok (v, (List.range 8).map (dword d))

/-- The command by what it reads (R172). -/
theorem rtree_eq : rtree op a b c again s = match rtreeRead s op a b c with
    | .trap t => .next (cpTrap s t)
    | .wait => cpAgain s again
    | .ok (v, w) =>
      let t := s.treeFor op (rtreeSize s.me op) w
      let joined := rtreeJoined s w t v (s.me.gr c).toNat (rtreeSize s.me op)
      .next (if !t.differs s.cur op w then joined
        else wild { (if Config.freeNat s.seq 0 % 2 = 0 then joined else s.setMe s.me.passed) with seq := s.seq + 1 } s.me.task.ctx) :=
  rfl

theorem rtree_trap {t : Trap} (h : rtreeRead s op a b c = .trap t) : rtree op a b c again s = .next (cpTrap s t) := by
  rw [rtree_eq, h]

theorem rtreeRead_trap_a {cause d0 d1 : Nat} (h : DescTraps s.me (rtreeSize s.me op) 256 (s.me.gr a).toNat cause d0 d1) :
    rtreeRead s op a b c = .trap ⟨cause, 0, d0, d1⟩ := by
  rw [rtreeRead, Core.desc_trap h, Chk.and_trap]

section
variable (ha : descAt (s.me.gr a) (rtreeSize s.me op) 256)
include ha

theorem rtreeRead_trap_b {cause d0 d1 : Nat} (h : DescTraps s.me 64 64 (s.me.gr b).toNat cause d0 d1) :
    rtreeRead s op a b c = .trap ⟨cause, 0, d0, d1⟩ := by
  rw [rtreeRead, Core.desc_ok (rtreeSize_pos s.me op) ha, Chk.and_ok, Core.desc_trap h, Chk.and_trap]

variable (hb : descAt (s.me.gr b) 64 64)
include hb

theorem rtreeRead_trap_c {cause d0 d1 : Nat} (h : DescTraps s.me (rtreeSize s.me op) 256 (s.me.gr c).toNat cause d0 d1) :
    rtreeRead s op a b c = .trap ⟨cause, 0, d0, d1⟩ := by
  rw [rtreeRead, Core.desc_ok (rtreeSize_pos s.me op) ha, Chk.and_ok, Core.desc_ok (by decide) hb, Chk.and_ok, Core.desc_trap h,
    Chk.and_trap]

variable (hc : descAt (s.me.gr c) (rtreeSize s.me op) 256)
include hc

/-- The operands are read: the descriptor's fields decide. -/
theorem rtreeRead_legal : rtreeRead s op a b c = match treeFault (treeWords s.me b) s.cur with
    | some o => .trap (descTrap o)
    | none => .ok (memRead s.me.scratch (s.me.gr a).toNat (rtreeSize s.me op), treeWords s.me b) := by
  rw [rtreeRead, Core.desc_ok (rtreeSize_pos s.me op) ha, Chk.and_ok, Core.desc_ok (by decide) hb, Chk.and_ok,
    Core.desc_ok (rtreeSize_pos s.me op) hc, Chk.and_ok, treeWords_dword]

theorem rtreeRead_fault {o : Nat} (hf : treeFault (treeWords s.me b) s.cur = some o) :
    rtreeRead s op a b c = .trap (descTrap o) := by
  rw [rtreeRead_legal ha hb hc, hf]

theorem rtreeRead_ok (hf : treeFault (treeWords s.me b) s.cur = none) :
    rtreeRead s op a b c = .ok (memRead s.me.scratch (s.me.gr a).toNat (rtreeSize s.me op), treeWords s.me b) := by
  rw [rtreeRead_legal ha hb hc, hf]

end

/-! ## The contribution -/

/-- The contribution to a tree of the same descriptor and operator that has none of the core's yet. -/
theorem rtree_joins {v : List Byte} {w : List Nat} (h : rtreeRead s op a b c = .ok (v, w))
    (hd : (s.treeFor op (rtreeSize s.me op) w).differs s.cur op w = false) : rtree op a b c again s =
      .next (rtreeJoined s w (s.treeFor op (rtreeSize s.me op) w) v (s.me.gr c).toNat (rtreeSize s.me op)) := by
  rw [rtree_eq, h]
  dsimp only
  rw [if_pos (by simp [hd])]

theorem rtreeJoined_spares (s : State) (w : List Nat) (t : RTree) (v : List Byte) (res size : Nat) :
    Spares s.me.task.ctx s (rtreeJoined s w t v res size) := by
  have hp : Spares s.me.task.ctx s (putTree s s.me.task.ctx (treeId w) (t.contribute s.cur v)) :=
    Spares.of_cores (putTree_cores _ _ _ _)
  refine hp.trans (spares_setCore _ ?_)
  rw [putTree_cur, State.core, putTree_cores]
  rfl

/-- Whatever the tree is, no core of another context changes (R1). -/
theorem rtree_spares {v : List Byte} {w : List Nat} (h : rtreeRead s op a b c = .ok (v, w)) :
    ∃ t, rtree op a b c again s = .next t ∧ Spares s.me.task.ctx s t := by
  rw [rtree_eq, h]
  refine ⟨_, rfl, ?_⟩
  have hj := rtreeJoined_spares s w (s.treeFor op (rtreeSize s.me op) w) v (s.me.gr c).toNat (rtreeSize s.me op)
  split
  · exact hj
  · refine Spares.trans ?_ (spares_wild _ _)
    split
    · exact fun j => hj j
    · exact spares_setCore (k := s.cur) _ rfl

end

end Sys2Proof.Machine
end

section
/-! SUPPORT. What a reduction-tree command leaves (R172): the member that waits, and the tree. -/

namespace Sys2Proof.Machine

open Sys2Proof.Claims

/-- The member after its contribution. -/
theorem rtreeJoined_me (s : State) (w : List Nat) (t : RTree) (v : List Byte) (res size : Nat) :
    (rtreeJoined s w t v res size).me = (s.me.release (treeScope w)).waits (.rtree (treeId w) res size) :=
  State.me_setMe _ _

/-- The tree after a contribution. -/
theorem rtreeJoined_tree {s : State} {w : List Nat} {t : RTree} (v : List Byte) (res size : Nat) (hn : t.ctx = s.me.task.ctx)
    (ht : t.tid = treeId w) : (rtreeJoined s w t v res size).tree s.me.task.ctx (treeId w) = some (t.contribute s.cur v) :=
  putTree_tree s _ _ _ hn ht

/-- The nodes of a tree that had no value: those of the core have its contribution. -/
theorem RTree.contribute_values {t : RTree} (h : NoValue t.nodes) (k : CoreId) (v : List Byte) :
    (∀ x ∈ (t.contribute k v).nodes, x.leaf = some k → x.value = some v) ∧
    ∀ x ∈ (t.contribute k v).nodes, x.leaf ≠ some k → x.value = none := by
  constructor
  all_goals
    intro x hx hl
    obtain ⟨y, hy, rfl⟩ := List.mem_map.mp hx
  · have hk : (y.leaf == some k) = true := by
      by_contra hne
      rw [if_neg hne] at hl
      exact hne (beq_iff_eq.mpr hl)
    rw [if_pos hk]
  · have hk : ¬(y.leaf == some k) = true := fun he => by
      rw [if_pos he] at hl
      exact hl (beq_iff_eq.mp he)
    rw [if_neg hk]
    exact h y hy

theorem freshTree_differs {n : CtxId} {op : Nat} (size : Nat) (w : List Nat) (k : CoreId) (h : op < 3) :
    (freshTree n op size w).differs k op w = false := by
  have hop : (freshTree n op size w).op.toNat = op := Nat.mod_eq_of_lt (by omega)
  have hnone : ((freshTree n op size w).nodes.any fun x => x.leaf == some k && x.value.isSome) = false := by
    refine List.any_eq_false.mpr fun x hx => ?_
    rw [treeNodes_noValue _ _ x hx]
    simp
  rw [RTree.differs, hop, hnone]
  simp [freshTree]

theorem RTree.differs_eq_false {t : RTree} {k : CoreId} {op : Nat} {w : List Nat} (hd : t.desc = w.map (BitVec.ofNat 64))
    (ho : t.op.toNat = op) (hv : ∀ x ∈ t.nodes, x.leaf = some k → x.value = none) : t.differs k op w = false := by
  have hnone : (t.nodes.any fun x => x.leaf == some k && x.value.isSome) = false := by
    refine List.any_eq_false.mpr fun x hx => ?_
    by_cases hl : x.leaf = some k
    · simp [hv x hx hl]
    · simp [hl]
  rw [RTree.differs, hd, ho, hnone]
  simp

/-- The words of a descriptor give the identifier that the whole word 4 gives. -/
theorem treeId_treeWords (c : Core) (b : BitVec 5) :
    treeId (treeWords c b) = BitVec.ofNat 16 (memNat c.scratch ((c.gr b).toNat + 8 * 4) 8 / 2 ^ 8) := by
  rw [treeId, treeWords_getD c b (by decide)]
  refine BitVec.eq_of_toNat_eq ?_
  rw [BitVec.toNat_ofNat, BitVec.toNat_ofNat, fld]
  exact Nat.mod_mod _ _

theorem treeWords_map (c : Core) (b : BitVec 5) : (treeWords c b).map (BitVec.ofNat 64) =
    (List.range 8).map fun j => BitVec.ofNat 64 (memNat c.scratch ((c.gr b).toNat + 8 * j) 8) := List.map_map

section
variable {s : State} {op : Nat} {a b c : BitVec 5} {again : Instr}

/-- A member of a tree waits for its result. -/
def waitsInTree (s t : State) (id : BitVec 16) (res size : Nat) : Prop :=
  t.me.wait = .rtree id res size ∧ t.me.pc = s.me.pc ∧ t.me.g = s.me.g ∧ t.me.ivl = s.me.ivl + 1 ∧ t.me.cmdIdx = s.me.cmdIdx + 1

theorem rtreeJoined_waits (s : State) (w : List Nat) (t : RTree) (v : List Byte) (res size : Nat) :
    waitsInTree s (rtreeJoined s w t v res size) (treeId w) res size := by
  rw [waitsInTree, rtreeJoined_me]
  exact ⟨rfl, rfl, rfl, rfl, rfl⟩

variable (ha : descAt (s.me.gr a) (rtreeSize s.me op) 256) (hb : descAt (s.me.gr b) 64 64)
  (hc : descAt (s.me.gr c) (rtreeSize s.me op) 256) (hf : treeFault (treeWords s.me b) s.cur = none)
include ha hb hc hf

/-- The first member begins the tree. -/
theorem rtree_begins (hop : op < 3) (h : s.tree s.me.task.ctx (treeId (treeWords s.me b)) = none) :
    let v := memRead s.me.scratch (s.me.gr a).toNat (rtreeSize s.me op)
    let id := treeId (treeWords s.me b)
    ∃ t tr, rtree op a b c again s = .next t ∧ waitsInTree s t id (s.me.gr c).toNat (rtreeSize s.me op) ∧
      t.tree s.me.task.ctx id = some tr ∧ tr.op.toNat = op ∧
      (∀ x ∈ tr.nodes, x.leaf = some s.cur → x.value = some v) ∧ ∀ x ∈ tr.nodes, x.leaf ≠ some s.cur → x.value = none := by
  intro v id
  have ht : s.treeFor op (rtreeSize s.me op) (treeWords s.me b) =
      freshTree s.me.task.ctx op (rtreeSize s.me op) (treeWords s.me b) := by rw [State.treeFor, h, Option.getD_none]
  have hexec := rtree_joins (again := again) (rtreeRead_ok ha hb hc hf) (by rw [ht]; exact freshTree_differs _ _ _ hop)
  rw [ht] at hexec
  obtain ⟨hown, hother⟩ := RTree.contribute_values (t := freshTree s.me.task.ctx op (rtreeSize s.me op) (treeWords s.me b))
    (treeNodes_noValue _ _) s.cur v
  exact ⟨_, _, hexec, rtreeJoined_waits _ _ _ _ _ _, rtreeJoined_tree _ _ _ rfl rfl, Nat.mod_eq_of_lt (by omega), hown, hother⟩

/-- Another member joins it. -/
theorem rtree_joined {tr : RTree} (h : s.tree s.me.task.ctx (treeId (treeWords s.me b)) = some tr) (ho : tr.op.toNat = op)
    (hd : tr.desc = (treeWords s.me b).map (BitVec.ofNat 64)) (hv : ∀ x ∈ tr.nodes, x.leaf = some s.cur → x.value = none) :
    let v := memRead s.me.scratch (s.me.gr a).toNat (rtreeSize s.me op)
    let id := treeId (treeWords s.me b)
    ∃ t, rtree op a b c again s = .next t ∧ waitsInTree s t id (s.me.gr c).toNat (rtreeSize s.me op) ∧
      t.tree s.me.task.ctx id = some (tr.contribute s.cur v) := by
  intro v id
  have ht : s.treeFor op (rtreeSize s.me op) (treeWords s.me b) = tr := by rw [State.treeFor, h, Option.getD_some]
  have hexec := rtree_joins (again := again) (rtreeRead_ok ha hb hc hf) (by rw [ht]; exact RTree.differs_eq_false hd ho hv)
  rw [ht] at hexec
  obtain ⟨hn, hi⟩ := State.tree_key h
  exact ⟨_, hexec, rtreeJoined_waits _ _ _ _ _ _, rtreeJoined_tree _ _ _ hn hi⟩

end

/-! ## The traps of a descriptor's fields -/

section
variable {s : State} {op : Nat} {a b c : BitVec 5}
variable (ha : descAt (s.me.gr a) (rtreeSize s.me op) 256) (hb : descAt (s.me.gr b) 64 64)
  (hc : descAt (s.me.gr c) (rtreeSize s.me op) 256)
include ha hb hc

theorem rtreeRead_word4 (h : badWord4 (memNat s.me.scratch ((s.me.gr b).toNat + 8 * 4) 8)) :
    rtreeRead s op a b c = .trap (descTrap 32) := by
  have hw := treeWords_getD s.me b (i := 4) (by decide)
  exact rtreeRead_fault ha hb hc (treeFault_word4 (by rw [hw]; exact memNat_lt _ _ 8) (by rwa [hw]))

variable (h4 : ¬badWord4 (memNat s.me.scratch ((s.me.gr b).toNat + 8 * 4) 8))
include h4

theorem rtreeRead_reserved {w : Nat} (h5 : 5 ≤ w) (h7 : w ≤ 7) (hw : memNat s.me.scratch ((s.me.gr b).toNat + 8 * w) 8 ≠ 0)
    (hv : ∀ v, 5 ≤ v → v < w → memNat s.me.scratch ((s.me.gr b).toNat + 8 * v) 8 = 0) :
    rtreeRead s op a b c = .trap (descTrap (8 * w)) := by
  have hi := fun i hi => treeWords_getD s.me b (i := i) hi
  have hd := hi 4 (by decide)
  refine rtreeRead_fault ha hb hc (treeFault_reserved (by rw [hd]; exact memNat_lt _ _ 8) (by rwa [hd]) h5 h7 ?_ fun v h5 hlt => ?_)
  · rwa [hi w (by omega)]
  · rw [hi v (by omega), hv v h5 hlt]

theorem rtreeRead_members (h5 : memNat s.me.scratch ((s.me.gr b).toNat + 8 * 5) 8 = 0)
    (h6 : memNat s.me.scratch ((s.me.gr b).toNat + 8 * 6) 8 = 0) (h7 : memNat s.me.scratch ((s.me.gr b).toNat + 8 * 7) 8 = 0)
    (hm : memNat s.me.scratch ((s.me.gr b).toNat + 8 * (s.cur.toNat / 64)) 8 / 2 ^ (s.cur.toNat % 64) % 2 = 0 ∨
      ((List.range 4).map fun d => popCount 64 (memNat s.me.scratch ((s.me.gr b).toNat + 8 * d) 8)).sum < 2) :
    rtreeRead s op a b c = .trap (descTrap 0) := by
  have hi := fun i hi => treeWords_getD s.me b (i := i) hi
  have hd := hi 4 (by decide)
  have hdie : dieOf s.cur = s.cur.toNat / 64 := by
    have hlt := s.cur.isLt
    simp only [dieOf, bits, fld]
    omega
  have hdie8 : s.cur.toNat / 64 < 8 := by
    have hlt := s.cur.isLt
    omega
  refine rtreeRead_fault ha hb hc (treeFault_members (by rw [hd]; exact memNat_lt _ _ 8) (by rwa [hd]) ?_ ?_ ?_ (hm.imp ?_ ?_))
  · rw [hi 5 (by decide), h5]
  · rw [hi 6 (by decide), h6]
  · rw [hi 7 (by decide), h7]
  · intro h
    rwa [hdie, hi _ hdie8]
  · intro h
    rw [treeWords, ← List.map_take, List.map_map]
    exact h

end

end Sys2Proof.Machine
end

section
/-! SUPPORT. The nodes of a reduction tree and its result (R73, R172). -/

namespace Sys2Proof.Machine

open Sys2Proof.Claims

/-! ## A node combines its children -/

theorem filterMap_eq_of_map_eq {α β : Type} {f : α → Option β} {l : List α} {vs : List β} (h : l.map f = vs.map some) :
    l.filterMap f = vs := by
  have hid : l.filterMap f = (l.map f).filterMap id := by rw [List.filterMap_map, Function.id_comp]
  rw [hid, h, List.filterMap_map, Function.id_comp, List.filterMap_some]

theorem exec_rtreeNodeCombine {s : State} {n : CtxId} {tid : BitVec 16} {t : RTree} {node : Nat} {x : RNode} {vs : List (List Byte)}
    (ht : s.tree n tid = some t) (hx : t.nodes[node]? = some x) (hv : x.value = none) (hk : x.kids ≠ [])
    (hm : x.kids.map (fun i => (t.nodes[i]?).bind (·.value)) = vs.map some) (hl : ∀ v ∈ vs, v.length = (vs.headD []).length) :
    exec (.rtreeNodeCombine n tid node) s = .next (s.setTree { t with nodes := t.nodes.set node { x with
      value := some ((treeCombine t.op.toNat (vs.map planesOf)).1.flatMap fun p => p.flatMap (toBytes 4))
      flags := BitVec.ofNat 5 (treeCombine t.op.toNat (vs.map planesOf)).2 } }) := by
  have hlen : vs.length = x.kids.length := by simpa using (congrArg List.length hm).symm
  have heven : (vs.all fun v => v.length == (vs.headD []).length) = true :=
    List.all_eq_true.mpr fun v hmem => beq_iff_eq.mpr (hl v hmem)
  change execRtreeNodeCombine n tid node s = _
  unfold execRtreeNodeCombine
  rw [ht]
  dsimp only
  rw [hx]
  dsimp only
  rw [filterMap_eq_of_map_eq hm, if_neg (by simp [hv, hk, hlen]), heven]
  rfl

/-! ## A member takes the result -/

/-- The card once a member has taken the result: the tree knows it, and is gone with its last member. -/
def treeTaken (s : State) (t : RTree) (k : CoreId) : State :=
  let taken := t.taken ++ [k]
  let s := s.setTree { t with taken := taken }
  if ((List.range 4).flatMap (treeMembers t.desc)).all taken.contains then
    { s with sched := { s.sched with trees := s.sched.trees.filter fun x => !(x.ctx == t.ctx && x.tid == t.tid) } }
  else s

theorem treeTaken_core (s : State) (t : RTree) (k j : CoreId) : (treeTaken s t k).core j = s.core j := by
  unfold treeTaken
  extract_lets
  split <;> rfl

/-- A member with the result `v` of its tree, and the nodes' flags. -/
def Core.takesResult (c : Core) (res : Nat) (v : List Byte) (flags : BitVec 5) : Core :=
  Core.returned { c.writeScratch res v with fpFlags := c.fpFlags ||| flags.zeroExtend 64 }

theorem exec_rtreeResult {s : State} {k : CoreId} {tid : BitVec 16} {res len : Nat} {t : RTree} {v : List Byte}
    (hw : (s.core k).wait = .rtree tid res len) (ht : s.tree (s.core k).task.ctx tid = some t) (hc : (s.core k).cpRuns = true)
    (hv : t.nodes.getLast?.bind (·.value) = some v) (hl : v.length = len) :
    exec (.rtreeResult k) s = .next ((treeTaken s t k).setCore k ((s.core k).takesResult res v
      (t.nodes.foldl (fun (f : BitVec 5) (x : RNode) => f ||| x.flags) 0))) := by
  change execRtreeResult k s = _
  unfold execRtreeResult
  extract_lets c
  rw [hw]
  dsimp only
  rw [ht]
  dsimp only
  rw [hv]
  dsimp only
  rw [show c.cpRuns = true from hc, Bool.true_or, if_pos rfl, List.take_of_length_le (Nat.le_of_eq hl)]
  rfl

/-! ## The lanes of a node (R72, R73) -/

theorem getD_map_range {α : Type} {n i : Nat} (f : Nat → α) (d : α) (h : i < n) : ((List.range n).map f).getD i d = f i := by
  simp [List.getD, h]

/-- `r` is among some values, no NaN, and the greatest of those that are none. -/
def MaxOf (f : Fmt) (xs : List Nat) (r : Nat) : Prop :=
  r ∈ xs ∧ f.isNan r = false ∧ ∀ x ∈ xs, f.isNan x = false → fpKey f true x ≤ fpKey f true r

theorem MaxOf.cons_nan {f : Fmt} {x r : Nat} {xs : List Nat} (h : MaxOf f xs r) (hx : f.isNan x = true) : MaxOf f (x :: xs) r := by
  obtain ⟨hmem, hn, hmax⟩ := h
  refine ⟨List.mem_cons_of_mem _ hmem, hn, fun y hy hyn => ?_⟩
  rcases List.mem_cons.mp hy with rfl | hy
  · exact absurd hx (by simp [hyn])
  · exact hmax y hy hyn

/-- A value that another exceeds or equals may be put before it. -/
theorem MaxOf.cons_le {f : Fmt} {x y r : Nat} {xs : List Nat} (h : MaxOf f (y :: xs) r) (hy : f.isNan y = false)
    (hxy : fpKey f true x ≤ fpKey f true y) : MaxOf f (x :: y :: xs) r := by
  obtain ⟨hmem, hn, hmax⟩ := h
  refine ⟨List.mem_cons_of_mem _ hmem, hn, fun z hz hzn => ?_⟩
  rcases List.mem_cons.mp hz with rfl | hz
  · exact hxy.trans (hmax y (List.mem_cons_self ..) hy)
  · exact hmax z hz hzn

theorem MaxOf.perm {f : Fmt} {xs ys : List Nat} {r : Nat} (h : MaxOf f xs r) (hp : xs.Perm ys) : MaxOf f ys r :=
  ⟨hp.mem_iff.mp h.1, h.2.1, fun x hx => h.2.2 x (hp.mem_iff.mpr hx)⟩

section
variable {f : Fmt} {x : Nat} (xs : List Nat)

theorem pickLane_cons_nan (best : Option (List Nat)) (hx : f.isNan x = true) :
    pickLane f true ((x :: xs).map ([·])) best = pickLane f true (xs.map ([·])) best := if_pos hx

theorem pickLane_cons_first (hx : f.isNan x = false) :
    pickLane f true ((x :: xs).map ([·])) none = pickLane f true (xs.map ([·])) (some [x]) := if_neg (Bool.eq_false_iff.mp hx)

theorem pickLane_cons_greater {b : Nat} (hx : f.isNan x = false) (h : fpKey f true b < fpKey f true x) :
    pickLane f true ((x :: xs).map ([·])) (some [b]) = pickLane f true (xs.map ([·])) (some [x]) :=
  (if_neg (Bool.eq_false_iff.mp hx)).trans (congrArg (fun l => pickLane f true _ (some l)) (if_pos (decide_eq_true h)))

theorem pickLane_cons_kept {b : Nat} (hx : f.isNan x = false) (h : fpKey f true x ≤ fpKey f true b) :
    pickLane f true ((x :: xs).map ([·])) (some [b]) = pickLane f true (xs.map ([·])) (some [b]) :=
  (if_neg (Bool.eq_false_iff.mp hx)).trans
    (congrArg (fun l => pickLane f true _ (some l)) (if_neg (by simpa using h)))

end

/-- The lane picked from a first value on (R72). -/
theorem pickLane_some (f : Fmt) : ∀ (xs : List Nat) (b : Nat), f.isNan b = false →
    ∃ r, pickLane f true (xs.map ([·])) (some [b]) = some [r] ∧ MaxOf f (b :: xs) r
  | [], b, hb => ⟨b, rfl, List.mem_singleton_self b, hb, fun x hx _ => by rw [List.mem_singleton.mp hx]⟩
  | x :: xs, b, hb => by
    cases hx : f.isNan x with
    | true =>
      obtain ⟨r, hr, hmax⟩ := pickLane_some f xs b hb
      exact ⟨r, (pickLane_cons_nan xs _ hx).trans hr, (hmax.cons_nan hx).perm (List.Perm.swap ..)⟩
    | false =>
      by_cases hlt : fpKey f true b < fpKey f true x
      · obtain ⟨r, hr, hmax⟩ := pickLane_some f xs x hx
        exact ⟨r, (pickLane_cons_greater xs hx hlt).trans hr, hmax.cons_le hx (Int.le_of_lt hlt)⟩
      · have hle := Int.not_lt.mp hlt
        obtain ⟨r, hr, hmax⟩ := pickLane_some f xs b hb
        exact ⟨r, (pickLane_cons_kept xs hx hle).trans hr, (hmax.cons_le hb hle).perm (List.Perm.swap ..)⟩

/-- The lane picked of values that are all NaN is none, and otherwise the greatest of the others (R72). -/
theorem pickLane_none (f : Fmt) : ∀ xs : List Nat,
    ((∀ x ∈ xs, f.isNan x = true) ∧ pickLane f true (xs.map ([·])) none = none) ∨
    ∃ r, pickLane f true (xs.map ([·])) none = some [r] ∧ MaxOf f xs r
  | [] => .inl ⟨fun _ h => absurd h List.not_mem_nil, rfl⟩
  | x :: xs => by
    cases hx : f.isNan x with
    | true =>
      rw [pickLane_cons_nan xs _ hx]
      rcases pickLane_none f xs with ⟨hall, hp⟩ | ⟨r, hr, hmax⟩
      · exact .inl ⟨List.forall_mem_cons.mpr ⟨hx, hall⟩, hp⟩
      · exact .inr ⟨r, hr, hmax.cons_nan hx⟩
    | false =>
      rw [pickLane_cons_first xs hx]
      exact .inr (pickLane_some f xs x hx)

/-- R72's maximum of one value to a lane. -/
theorem greatest_reduceMax (xs : List Nat) : greatest xs ((reduceMax .fp32 0 true (xs.map ([·]))).1.headD 0) := by
  unfold reduceMax
  rcases pickLane_none .fp32 xs with ⟨hall, hp⟩ | ⟨r, hr, hmem, hn, hmax⟩
  · rw [hp]
    exact ⟨fun _ => rfl, fun ⟨x, hx, hn⟩ => absurd (hall x hx) (by simp [hn])⟩
  · rw [hr]
    exact ⟨fun h => absurd (h r hmem) (by simp [hn]), fun _ => ⟨hmem, hn, hmax⟩⟩

/-! ### The values of a node -/

section
variable {kids : List (List (List Nat))} {p e : Nat}

/-- Lane `e` of plane `p` of a node's children. -/
def laneOf (kids : List (List (List Nat))) (p e : Nat) : List Nat := kids.map fun x => (x.getD p []).getD e 0

/-- Lane `e` of plane `p` of a node's value. -/
def combined (op : Nat) (kids : List (List (List Nat))) (p e : Nat) : Nat := (((treeCombine op kids).1).getD p []).getD e 0

theorem combined_sum (hp : p < (kids.headD []).length) (he : e < 64) :
    combined 0 kids p e = (reduceSum .fp32 (laneOf kids p e)).bits := by
  have h : (treeCombine 0 kids).1 = (List.range (kids.headD []).length).map fun p =>
      (List.range 64).map fun e => (reduceSum .fp32 (laneOf kids p e)).bits :=
    List.map_map.trans (List.map_congr_left fun _ _ => List.map_map)
  rw [combined, h, getD_map_range _ _ hp, getD_map_range _ _ he]

/-- The maximum of a lane over the children (R72). -/
def laneMax (kids : List (List (List Nat))) (e : Nat) : Nat := (reduceMax .fp32 0 true ((laneOf kids 0 e).map ([·]))).1.headD 0

theorem combined_max (he : e < 64) : combined 1 kids 0 e = laneMax kids e := by
  have h : (treeCombine 1 kids).1 = [(List.range 64).map (laneMax kids)] := congrArg (fun l => [l]) List.map_map
  rw [combined, h, List.getD_cons_zero, getD_map_range _ _ he]

/-- The difference of two FP32 values, rounded (R73). -/
def subBits (x y : Nat) : Nat := (rsum .fp32 [prod [Fmt.fp32.decode x], prod [(Fmt.fp32.decode y).flip]]).bits

/-- The sum of a lane's pairs (R73). -/
def laneSum (kids : List (List (List Nat))) (e : Nat) : Nat :=
  (rsum .fp32 (List.zipWith
    (fun x y => prod [Fmt.fp32.decode y, Fmt.fp32.decode (fpExp .fp32 (Fmt.fp32.decode (subBits x (laneMax kids e)))).bits])
    (laneOf kids 0 e) (laneOf kids 1 e))).bits

theorem treeCombine_pair : (treeCombine 2 kids).1 = [(List.range 64).map (laneMax kids), (List.range 64).map (laneSum kids)] := by
  have hsum : ∀ e, (rsum .fp32 (List.zipWith (fun x y => prod [Fmt.fp32.decode x, Fmt.fp32.decode y.bits]) (laneOf kids 1 e)
      (((laneOf kids 0 e).map fun c => rsum .fp32 [prod [Fmt.fp32.decode c], prod [(Fmt.fp32.decode (laneMax kids e)).flip]]).map
        fun d => fpExp .fp32 (Fmt.fp32.decode d.bits)))).bits = laneSum kids e := fun e => by
    rw [List.zipWith_map_right, List.zipWith_map_right, List.zipWith_comm]
    rfl
  refine congrArg₂ (fun l m => [l, m]) List.map_map (List.map_map.trans (List.map_congr_left fun e _ => hsum e))

theorem combined_pair_max (he : e < 64) : combined 2 kids 0 e = laneMax kids e := by
  rw [combined, treeCombine_pair, List.getD_cons_zero, getD_map_range _ _ he]

theorem combined_pair_sum (he : e < 64) : combined 2 kids 1 e = laneSum kids e := by
  rw [combined, treeCombine_pair, List.getD_cons_succ, List.getD_cons_zero, getD_map_range _ _ he]

end

end Sys2Proof.Machine
end

section
/-! CLAIM. The reduction-tree commands (O29). -/

namespace Sys2Proof.Machine

open Sys2Proof.Claims

/-- The member that has the result, and the others (R172). -/
theorem rtreeResult_leaves {s : State} {k : CoreId} {tid : BitVec 16} {res len : Nat} {t : RTree} {v : List Byte}
    (hw : (s.core k).wait = .rtree tid res len) (ht : s.tree (s.core k).task.ctx tid = some t) (hc : (s.core k).cpRuns = true)
    (hv : t.nodes.getLast?.bind (·.value) = some v) (hl : v.length = len) :
    ∃ u, exec (.rtreeResult k) s = .next u ∧ memRead (u.core k).scratch res len = v ∧
      (∀ y, y < res ∨ res + len ≤ y → memGet (u.core k).scratch y = memGet (s.core k).scratch y) ∧
      (u.core k).fpFlags = (s.core k).fpFlags ||| (t.nodes.foldl (fun (f : BitVec 5) (x : RNode) => f ||| x.flags) 0).zeroExtend 64 ∧
      (u.core k).pc = (s.core k).pc + 4 ∧ (u.core k).cmdIdx = (s.core k).cmdIdx ∧ (u.core k).wait = .no ∧
      ∀ j, j ≠ k → u.core j = s.core j := by
  refine ⟨_, exec_rtreeResult hw ht hc hv hl, ?_⟩
  rw [State.core_setCore]
  subst hl
  exact ⟨memRead_memWrite_same (s.core k).scratch res v, fun y hy => memGet_memWrite_out _ _ _ _ hy, rfl, rfl, rfl, rfl,
    fun j hj => (State.core_setCore_ne _ _ hj).trans (treeTaken_core s t k j)⟩

end Sys2Proof.Machine

open Sys2Proof.Machine Sys2Proof.Claims in
/-- Settles O29: a contribution by the tree it begins or joins, the traps in the order of the checks, a node and the result by what
the model writes, and the lanes by R72's maximum and R73's sums. -/
theorem reductionTrees : Obligations.ReductionTrees := by
  intro a b c tid node res len t0 k s
  refine ⟨?_, fun hr => ?_, fun ht => ⟨fun x vs hx hv hk hm hl => ?_, fun hw hn hr hc v hv hl => ?_⟩, fun kids p e he => ?_⟩
  · intro m id goes hb hf
    have hid : treeId (treeWords s.me b) = id := treeId_treeWords s.me b
    have key : ∀ op i, op < 3 → exec i s = rtree op a b c i s → goes i op (rtreeSize s.me op) := fun op i hop hi ha hc => by
      intro v waits
      refine ⟨fun hnone => ?_, fun tr htr ho hd hv => ?_, ?_⟩
      · have h := rtree_begins (again := i) ha hb hc hf hop (by rwa [hid])
        rwa [hid, ← hi] at h
      · have h := rtree_joined (again := i) ha hb hc hf (by rwa [hid]) ho (by rw [hd, treeWords_map]) hv
        rw [hid, ← hi] at h
        simp only [RTree.contribute, beq_iff_eq] at h
        exact h
      · rw [hi]
        exact rtree_spares (rtreeRead_ok ha hb hc hf)
    exact ⟨key 0 _ (by decide) rfl, key 1 _ (by decide) rfl, key 2 _ (by decide) rfl⟩
  · intro m traps
    have key : ∀ op i, exec i s = rtree op a b c i s → traps i (rtreeSize s.me op) := fun op i hi => by
      have htrap : ∀ {cause d0 d1 : Nat}, rtreeRead s op a b c = .trap ⟨cause, 0, d0, d1⟩ →
          exec i s = .next (trapped s cause d0 d1) :=
        fun h => by rw [hi, rtree_trap h, cpTrap_running hr]
      exact ⟨fun _ _ _ h => htrap (rtreeRead_trap_a h), fun _ _ _ ha h => htrap (rtreeRead_trap_b ha h),
        fun _ _ _ ha hb h => htrap (rtreeRead_trap_c ha hb h), fun ha hb hc => ⟨fun h => htrap (rtreeRead_word4 ha hb hc h),
          fun _ h4 h5 h7 hw hv => htrap (rtreeRead_reserved ha hb hc h4 h5 h7 hw hv),
          fun h4 h5 h6 h7 hm => htrap (rtreeRead_members ha hb hc h4 h5 h6 h7 hm)⟩⟩
    exact ⟨key 0 _ rfl, key 1 _ rfl, key 2 _ rfl⟩
  · exact exec_rtreeNodeCombine ht hx hv hk hm hl
  · exact rtreeResult_leaves hw (by rwa [hn]) (Core.cpRuns_of hr hc) hv hl
  · intro lane value sub exp
    have hmax : greatest (lane 0) (laneMax kids e) := greatest_reduceMax (laneOf kids 0 e)
    have hpair : value 2 0 = laneMax kids e := combined_pair_max he
    refine ⟨fun hp => combined_sum hp he, ?_, ?_, ?_⟩
    · rwa [show value 1 0 = _ from combined_max he]
    · rwa [hpair]
    · rw [hpair]
      exact combined_pair_sum he
end
section
/-! SUPPORT. What the error log, a counter and a correction leave alone (R370, R372, R375), and the listed cores. -/

namespace Sys2Proof.Machine

/-! ## Messages and the error log -/

/-- What a message raised leaves of the ports but for what goes out and the table's pending bits (R283). -/
theorem State.msix_ports (s : State) (n : Nat) :
    ∃ p, s.msix n = { s with ports := p } ∧ p.apertures = s.ports.apertures ∧ ∃ l, p.out = s.ports.out ++ l := by
  unfold State.msix
  split
  · exact ⟨_, rfl, rfl, [], (List.append_nil _).symm⟩
  · exact ⟨_, rfl, rfl, _, rfl⟩

@[simp] theorem State.msix_cores (s : State) (n : Nat) : (s.msix n).cores = s.cores := by
  obtain ⟨p, h⟩ := s.msix_frame n; rw [h]
@[simp] theorem State.msix_ctxs (s : State) (n : Nat) : (s.msix n).ctxs = s.ctxs := by
  obtain ⟨p, h⟩ := s.msix_frame n; rw [h]

/-- An entry of the log changes the log, the ports, the fatal entries kept, and the counter of free values (R375). -/
theorem State.logEntry_eq (s : State) (sev blk : Nat) (c : Option CtxId) (d0 d1 : Nat) : ∃ (f : Fleet) (w : Firmware) (p : Ports),
    s.logEntry sev blk c d0 d1 = { s with fleet := f, fw := w, ports := p, seq := s.seq + 1 } ∧
    f.logHead = s.fleet.logHead + 1 ∧ f.cnt = s.fleet.cnt ∧ f.clk = s.fleet.clk ∧
    f.hlthWhy = (if sev = 3 then s.fleet.hlthWhy ||| BitVec.ofNat 8 (2 ^ 5) else s.fleet.hlthWhy) ∧
    w.ready = s.fw.ready ∧ (sev ≠ 3 → w = s.fw) ∧ p.apertures = s.ports.apertures ∧ ∃ l, p.out = s.ports.out ++ l := by
  unfold State.logEntry
  extract_lets f code w0 e full lost f' t u _ v
  have hv : ∃ (f : Fleet) (w : Firmware), v = { s with fleet := f, fw := w, seq := s.seq + 1 } ∧
      f.logHead = s.fleet.logHead + 1 ∧ f.cnt = s.fleet.cnt ∧ f.clk = s.fleet.clk ∧
      f.hlthWhy = (if sev = 3 then s.fleet.hlthWhy ||| BitVec.ofNat 8 (2 ^ 5) else s.fleet.hlthWhy) ∧
      w.ready = s.fw.ready ∧ (sev ≠ 3 → w = s.fw) := by
    by_cases h : sev = 3
    · simp only [v, if_pos h]
      exact ⟨_, _, rfl, rfl, rfl, rfl, rfl, rfl, fun h' => absurd h h'⟩
    · simp only [v, if_neg h]
      exact ⟨_, _, rfl, rfl, rfl, rfl, rfl, rfl, fun _ => rfl⟩
  obtain ⟨g, w, hv, h1, h2, h3, h4, h5, h6⟩ := hv
  split
  · obtain ⟨p, hp, ha, ho⟩ := State.msix_ports v 66
    rw [hp, hv]
    rw [hv] at ha ho
    exact ⟨g, w, p, rfl, h1, h2, h3, h4, h5, h6, ha, ho⟩
  · rw [hv]
    exact ⟨g, w, s.ports, rfl, h1, h2, h3, h4, h5, h6, rfl, [], (List.append_nil _).symm⟩

section
variable (s : State) (sev blk : Nat) (c : Option CtxId) (d0 d1 : Nat)

@[simp] theorem State.logEntry_cores : (s.logEntry sev blk c d0 d1).cores = s.cores := by
  obtain ⟨_, _, _, h, _⟩ := s.logEntry_eq sev blk c d0 d1; rw [h]
@[simp] theorem State.logEntry_ctxs : (s.logEntry sev blk c d0 d1).ctxs = s.ctxs := by
  obtain ⟨_, _, _, h, _⟩ := s.logEntry_eq sev blk c d0 d1; rw [h]
@[simp] theorem State.logEntry_sched : (s.logEntry sev blk c d0 d1).sched = s.sched := by
  obtain ⟨_, _, _, h, _⟩ := s.logEntry_eq sev blk c d0 d1; rw [h]
@[simp] theorem State.logEntry_vm : (s.logEntry sev blk c d0 d1).vm = s.vm := by
  obtain ⟨_, _, _, h, _⟩ := s.logEntry_eq sev blk c d0 d1; rw [h]
@[simp] theorem State.logEntry_lanes : (s.logEntry sev blk c d0 d1).lanes = s.lanes := by
  obtain ⟨_, _, _, h, _⟩ := s.logEntry_eq sev blk c d0 d1; rw [h]
@[simp] theorem State.logEntry_dram : (s.logEntry sev blk c d0 d1).dram = s.dram := by
  obtain ⟨_, _, _, h, _⟩ := s.logEntry_eq sev blk c d0 d1; rw [h]
@[simp] theorem State.logEntry_poison : (s.logEntry sev blk c d0 d1).poison = s.poison := by
  obtain ⟨_, _, _, h, _⟩ := s.logEntry_eq sev blk c d0 d1; rw [h]
@[simp] theorem State.logEntry_slots : (s.logEntry sev blk c d0 d1).slots = s.slots := by
  obtain ⟨_, _, _, h, _⟩ := s.logEntry_eq sev blk c d0 d1; rw [h]
@[simp] theorem State.logEntry_logHead : (s.logEntry sev blk c d0 d1).fleet.logHead = s.fleet.logHead + 1 := by
  obtain ⟨_, _, _, h, e, _⟩ := s.logEntry_eq sev blk c d0 d1; rw [h]; exact e
@[simp] theorem State.logEntry_cnt : (s.logEntry sev blk c d0 d1).fleet.cnt = s.fleet.cnt := by
  obtain ⟨_, _, _, h, _, e, _⟩ := s.logEntry_eq sev blk c d0 d1; rw [h]; exact e
@[simp] theorem State.logEntry_clk : (s.logEntry sev blk c d0 d1).fleet.clk = s.fleet.clk := by
  obtain ⟨_, _, _, h, _, _, e, _⟩ := s.logEntry_eq sev blk c d0 d1; rw [h]; exact e
@[simp] theorem State.logEntry_ready : (s.logEntry sev blk c d0 d1).fw.ready = s.fw.ready := by
  obtain ⟨_, _, _, h, _, _, _, _, e, _⟩ := s.logEntry_eq sev blk c d0 d1; rw [h]; exact e

variable {sev} in
theorem State.logEntry_fw (h : sev ≠ 3) : (s.logEntry sev blk c d0 d1).fw = s.fw := by
  obtain ⟨_, _, _, e, _, _, _, _, _, hw, _⟩ := s.logEntry_eq sev blk c d0 d1; rw [e]; exact hw h

/-- A fatal entry sets bit 5 of hlth.why (R376). -/
theorem State.logEntry_hlthWhy : (s.logEntry 3 blk c d0 d1).fleet.hlthWhy = s.fleet.hlthWhy ||| BitVec.ofNat 8 (2 ^ 5) := by
  obtain ⟨_, _, _, h, _, _, _, e, _⟩ := s.logEntry_eq 3 blk c d0 d1; rw [h]; exact e

/-- Of the ports, an entry changes what goes out and a pending bit at most. -/
theorem State.logEntry_out : ∃ l, (s.logEntry sev blk c d0 d1).ports.out = s.ports.out ++ l := by
  obtain ⟨_, _, _, h, _, _, _, _, _, _, _, l, e⟩ := s.logEntry_eq sev blk c d0 d1; rw [h]; exact ⟨l, e⟩
@[simp] theorem State.logEntry_apertures : (s.logEntry sev blk c d0 d1).ports.apertures = s.ports.apertures := by
  obtain ⟨_, _, _, h, _, _, _, _, _, _, e, _⟩ := s.logEntry_eq sev blk c d0 d1; rw [h]; exact e

end

/-- A refused write is an entry of the log, and nothing else of the card (R375, R360). -/
theorem refuseWrite_loggedOnly (s : State) (blk : Nat) (c : Option CtxId) (off v : Nat) :
    Claims.loggedOnly s (.next (refuseWrite s blk c off v)) := by
  unfold refuseWrite
  exact ⟨_, rfl, by simp⟩

/-! ## Counters and corrections -/

/-- What a counter of telemetry counts: one, and nothing while every die is off (R370). -/
def State.counted (s : State) : Word64 := if s.fw.ready.toNat / 2 ^ 7 % 2 ^ 4 = 0 then 0 else 1

/-- A counter counts what there is to count. -/
theorem State.count_eq (s : State) (i : Fin 8) :
    s.count i = { s with fleet := { s.fleet with cnt := s.fleet.cnt.set i (s.fleet.cnt[i] + s.counted) } } := by
  by_cases h : s.fw.ready.toNat / 2 ^ 7 % 2 ^ 4 = 0
  · have hd : s.diesOn = false := bne_eq_false_iff_eq.mpr h
    have hc : s.counted = 0 := if_pos h
    simp [State.count, hd, hc]
  · have hd : s.diesOn = true := bne_iff_ne.mpr h
    have hc : s.counted = 1 := if_neg h
    simp only [State.count, if_pos hd, hc]

section
variable (s : State) (i : Fin 8)

@[simp] theorem State.count_cores : (s.count i).cores = s.cores := by rw [s.count_eq]
@[simp] theorem State.count_ctxs : (s.count i).ctxs = s.ctxs := by rw [s.count_eq]
@[simp] theorem State.count_sched : (s.count i).sched = s.sched := by rw [s.count_eq]
@[simp] theorem State.count_vm : (s.count i).vm = s.vm := by rw [s.count_eq]
@[simp] theorem State.count_fw : (s.count i).fw = s.fw := by rw [s.count_eq]
@[simp] theorem State.count_lanes : (s.count i).lanes = s.lanes := by rw [s.count_eq]
@[simp] theorem State.count_dram : (s.count i).dram = s.dram := by rw [s.count_eq]
@[simp] theorem State.count_poison : (s.count i).poison = s.poison := by rw [s.count_eq]
@[simp] theorem State.count_slots : (s.count i).slots = s.slots := by rw [s.count_eq]
@[simp] theorem State.count_logHead : (s.count i).fleet.logHead = s.fleet.logHead := by rw [s.count_eq]
@[simp] theorem State.count_cnt : (s.count i).fleet.cnt = s.fleet.cnt.set i (s.fleet.cnt[i] + s.counted) := by rw [s.count_eq]

end

section
variable (s : State) (i : Option (Fin 8)) (blk d0 : Nat)

@[simp] theorem corrected_cores : (corrected s i blk d0).cores = s.cores := by cases i <;> simp [corrected]
@[simp] theorem corrected_ctxs : (corrected s i blk d0).ctxs = s.ctxs := by cases i <;> simp [corrected]
@[simp] theorem corrected_sched : (corrected s i blk d0).sched = s.sched := by cases i <;> simp [corrected]
@[simp] theorem corrected_vm : (corrected s i blk d0).vm = s.vm := by cases i <;> simp [corrected]
@[simp] theorem corrected_fw : (corrected s i blk d0).fw = s.fw := by cases i <;> simp [corrected, State.logEntry_fw]
@[simp] theorem corrected_lanes : (corrected s i blk d0).lanes = s.lanes := by cases i <;> simp [corrected]
@[simp] theorem corrected_dram : (corrected s i blk d0).dram = s.dram := by cases i <;> simp [corrected]
@[simp] theorem corrected_poison : (corrected s i blk d0).poison = s.poison := by cases i <;> simp [corrected]
@[simp] theorem corrected_slots : (corrected s i blk d0).slots = s.slots := by cases i <;> simp [corrected]
@[simp] theorem corrected_logHead : (corrected s i blk d0).fleet.logHead = s.fleet.logHead + 1 := by cases i <;> simp [corrected]
@[simp] theorem corrected_cnt_none : (corrected s none blk d0).fleet.cnt = s.fleet.cnt := by simp [corrected]
@[simp] theorem corrected_cnt (i : Fin 8) :
    (corrected s (some i) blk d0).fleet.cnt = s.fleet.cnt.set i (s.fleet.cnt[i] + s.counted) := by simp [corrected]

end

/-! ## The listed cores -/

theorem State.core_of_cores {s t : State} (h : t.cores = s.cores) (j : CoreId) : t.core j = s.core j := by
  rw [State.core, h, State.core]

/-- A core that has left its reset value is listed. -/
theorem State.mem_coreIds {s : State} {k : CoreId} (h : s.core k ≠ Core.reset) : k ∈ s.coreIds := by
  have key : ∀ t : Tab Core, tabGet Core.reset t k.toNat ≠ Core.reset → ∃ p ∈ t, p.1 = k.toNat := by
    intro t
    induction t with
    | nil => exact fun h => absurd rfl h
    | cons p t ih =>
      obtain ⟨j, x⟩ := p
      intro h
      by_cases hj : j = k.toNat
      · exact ⟨(j, x), List.mem_cons_self, hj⟩
      · by_cases hk : k.toNat < j
        · exact absurd (if_pos hk) h
        · rw [tabGet, if_neg hk, if_neg hj] at h
          obtain ⟨p, hp, e⟩ := ih h
          exact ⟨p, List.mem_cons_of_mem _ hp, e⟩
  obtain ⟨p, hp, e⟩ := key s.cores h
  exact List.mem_map.mpr ⟨p, hp, by rw [e, BitVec.ofNat_toNat, BitVec.setWidth_eq]⟩

/-- A change made core by core along a list of ids. -/
theorem State.core_foldl_modCore {f : Core → Core} (hf : ∀ c, f (f c) = f c) (j : CoreId) : ∀ (l : List CoreId) (s : State),
    (l.foldl (fun s k => s.modCore k f) s).core j = if j ∈ l then f (s.core j) else s.core j
  | [], s => by simp
  | k :: l, s => by
    rw [List.foldl_cons, State.core_foldl_modCore hf j l]
    by_cases h : j = k
    · subst h
      simp [State.modCore, hf]
    · simp [State.modCore, State.core_setCore_ne s _ h, h]

/-- A change of every listed core, once or more, that leaves a core at reset as it is, is a change of every core. -/
theorem State.core_mapCores {f : Core → Core} (hf : ∀ c, f (f c) = f c) (hr : f Core.reset = Core.reset) (s : State) (j : CoreId) :
    (s.mapCores f).core j = f (s.core j) := by
  have e : s.mapCores f = s.coreIds.foldl (fun s k => s.modCore k f) s := by
    unfold State.mapCores State.coreIds
    rw [List.foldl_map, List.foldl_map]
  rw [e, State.core_foldl_modCore hf]
  split
  · rfl
  · rename_i h
    rw [not_not.mp fun hc => h (State.mem_coreIds hc), hr]

/-- A change of the cores leaves the rest of the card alone. -/
theorem State.mapCores_eq (s : State) (f : Core → Core) : ∃ l, s.mapCores f = { s with cores := l } := by
  unfold State.mapCores
  refine List.foldlRecOn (motive := fun t : State => ∃ l, t = { s with cores := l }) _ _ ⟨s.cores, rfl⟩ fun t ht k _ => ?_
  obtain ⟨l, ht⟩ := ht
  rw [ht]
  exact ⟨_, rfl⟩

end Sys2Proof.Machine
end
section
/-! SUPPORT. The register window (R4, R5, R283 to R285, R360): when it serves an access, and what single registers take of a write. -/

namespace Sys2Proof.Machine

/-! ## Which access is served -/

theorem State.ready_eq (s : State) (k : Nat) : s.ready k = s.fw.ready.getLsbD k := bit_eq_getLsbD _ _

theorem windowSize_iff (o size : Nat) : windowSize o size = true ↔ (size = 4 ∨ size = 8) ∧ o % size = 0 := by
  simp [windowSize]

/-- R360, R363: the function is ready, and of a card with no verified firmware only the first page is served. -/
theorem State.serves_iff (s : State) (o : Nat) :
    s.serves o = true ↔ s.fw.ready.getLsbD (readyOf o) = true ∧ (s.fw.state = 2 → o < 0x1000) := by
  rw [State.serves, State.ready_eq]
  simp [imp_iff_not_or]

section
variable {s : State} {o size : Nat} {v : Word64}

/-! ## Writes -/

theorem windowWrite_misaligned (h : ¬((size = 4 ∨ size = 8) ∧ o % size = 0)) :
    windowWrite s o size v = refuseWrite s (blockOf o) none o v.toNat := by
  rw [← windowSize_iff, Bool.not_eq_true] at h
  simp [windowWrite, h]

theorem regWrite_unserved (h : ¬s.serves o = true) : regWrite s o v = refuseWrite s (blockOf o) none o v.toNat := by
  simp [regWrite, h]

/-- A write of 8 bytes is the register's. -/
theorem windowWrite_whole (h : o % 8 = 0) : windowWrite s o 8 v = regWrite s o v := by
  simp [windowWrite, windowSize, h]

/-- A write whose function is not ready is dropped and logged (R360). -/
theorem windowWrite_unserved (hw : (size = 4 ∨ size = 8) ∧ o % size = 0) (h : ¬s.serves (o / 8 * 8) = true) :
    ∃ o' v', windowWrite s o size v = refuseWrite s (blockOf o') none o' v' := by
  obtain ⟨rfl | rfl, ho⟩ := hw
  · simp only [windowWrite, windowSize, ho, h]
    exact ⟨_, _, regWrite_unserved h⟩
  · rw [windowWrite_whole ho]
    rw [Nat.div_mul_cancel (Nat.dvd_of_mod_eq_zero ho)] at h
    exact ⟨_, _, regWrite_unserved h⟩

/-- A write of 4 bytes to a half of which no bit acts is ignored (R5). -/
theorem windowWrite_readOnlyHalf (ho : o % 4 = 0) (h : s.serves (o / 8 * 8) = true)
    (hm : bits (BitVec.ofNat 64 (actMask (o / 8 * 8))) (o % 8 * 8 + 31) (o % 8 * 8) = 0) : windowWrite s o 4 v = s := by
  simp [windowWrite, windowSize, ho, h, hm]

/-! ## Reads -/

theorem windowRead_misaligned (h : ¬((size = 4 ∨ size = 8) ∧ o % size = 0)) :
    windowRead s o size = (s.send .completerAbort).logFree (blockOf o) none o size := by
  rw [← windowSize_iff, Bool.not_eq_true] at h
  simp [windowRead, h]

theorem toBytes_zero : ∀ n : Nat, toBytes n 0 = List.replicate n 0
  | 0 => rfl
  | n + 1 => by rw [toBytes, Nat.zero_div, toBytes_zero n]; rfl

/-- Before its function is ready a register reads as zero (R360). -/
theorem windowRead_unserved (hw : (size = 4 ∨ size = 8) ∧ o % size = 0) (h : ¬s.serves (o / 8 * 8) = true) :
    windowRead s o size = s.send (.readDone (List.replicate size 0) false) := by
  rw [← windowSize_iff] at hw
  simp [windowRead, hw, regRead, h, toBytes_zero]

theorem windowRead_served (hw : (size = 4 ∨ size = 8) ∧ o % size = 0) (h : s.serves (o / 8 * 8) = true) (ho : o / 8 * 8 ≠ 0x81040) :
    windowRead s o size = s.send (.readDone (toBytes size (regValue s (o / 8 * 8) / 2 ^ (o % 8 * 8))) false) := by
  rw [← windowSize_iff] at hw
  simp [windowRead, hw, regRead, h, ho]

end

/-! ## Blocks of registers -/

section
variable {s : State} {o : Nat} {raw : Word64}

theorem regWrite_msix (hs : s.serves o = true) (h1 : 0x1000 ≤ o) (h2 : o < 0x1480) :
    regWrite s o raw = msixWrite s (o - 0x1000) (raw &&& BitVec.ofNat 64 (regMask o)) := by
  simp (disch := omega) only [regWrite, hs, Bool.not_true, Bool.false_eq_true, if_false, if_neg, if_pos]

theorem regWrite_ctxBlock (hs : s.serves o = true) (h1 : 0x10000 ≤ o) (h2 : o < 0x14000) :
    regWrite s o raw = ctxBlockWrite s o (raw &&& BitVec.ofNat 64 (regMask o)) raw := by
  simp (disch := omega) only [regWrite, hs, Bool.not_true, Bool.false_eq_true, if_false, if_neg, if_pos]

theorem regWrite_sched (hs : s.serves o = true) (h1 : 0x40000 ≤ o) (h2 : o < 0x80000) :
    regWrite s o raw = schedWrite s o (raw &&& BitVec.ofNat 64 (regMask o)) raw := by
  simp (disch := omega) only [regWrite, hs, Bool.not_true, Bool.false_eq_true, if_false, if_neg, if_pos]

theorem regWrite_vm (hs : s.serves o = true) (h1 : 0x80000 ≤ o) (h2 : o < 0xC0000) :
    regWrite s o raw = vmWrite s o (raw &&& BitVec.ofNat 64 (regMask o)) raw := by
  simp (disch := omega) only [regWrite, hs, Bool.not_true, Bool.false_eq_true, if_false, if_neg, if_pos]

theorem regWrite_flt (hs : s.serves o = true) (h1 : 0xC0000 ≤ o) (h2 : o < 0x100000) :
    regWrite s o raw = fltWrite s o (raw &&& BitVec.ofNat 64 (regMask o)) raw := by
  simp (disch := omega) only [regWrite, hs, Bool.not_true, Bool.false_eq_true, if_false, if_neg, if_pos]

theorem regWrite_fleet (hs : s.serves o = true) (h1 : 0x100000 ≤ o) (h2 : o < 0x140000) :
    regWrite s o raw = fleetWrite s o (raw &&& BitVec.ofNat 64 (regMask o)) raw := by
  simp (disch := omega) only [regWrite, hs, Bool.not_true, Bool.false_eq_true, if_false, if_neg, if_pos]

/-- Beyond the last register a write has no effect (R4). -/
theorem regWrite_beyond (hs : s.serves o = true) (h : 0x140000 ≤ o) : regWrite s o raw = s := by
  simp (disch := omega) only [regWrite, hs, Bool.not_true, Bool.false_eq_true, if_false, if_neg]

end

theorem blockCtx_at (base size off : Nat) (n : CtxId) (h : off < size) : blockCtx (base + off + size * n.toNat) base size = n := by
  have e : (base + off + size * n.toNat - base) / size = n.toNat := by
    rw [show base + off + size * n.toNat - base = off + size * n.toNat by omega, Nat.add_mul_div_left _ _ (by omega), Nat.div_eq_of_lt h,
      Nat.zero_add]
  rw [blockCtx, e, BitVec.ofNat_toNat, BitVec.setWidth_eq]

/-! ## Single registers -/

theorem and_ones (v : Word64) : v &&& BitVec.ofNat 64 (2 ^ 64 - 1) = v := BitVec.and_allOnes

/-- The bits that a narrow register keeps of a write. -/
theorem ofNat_and_low {k : Nat} (v : Word64) (h : k ≤ 64) :
    BitVec.ofNat k (v &&& BitVec.ofNat 64 (2 ^ k - 1)).toNat = BitVec.ofNat k v.toNat := by
  have hk : 2 ^ k ≤ 2 ^ 64 := Nat.pow_le_pow_right (by decide) h
  have hp : 0 < 2 ^ k := Nat.two_pow_pos k
  refine BitVec.eq_of_toNat_eq ?_
  rw [BitVec.toNat_and, BitVec.toNat_ofNat, BitVec.toNat_ofNat, BitVec.toNat_ofNat, Nat.mod_eq_of_lt (a := 2 ^ k - 1) (by omega),
    Nat.and_two_pow_sub_one_eq_mod, Nat.mod_mod]

section
variable {s : State} {v : Word64} {n : CtxId}

theorem regWrite_vmPkey (hs : s.serves (0x80008 + 0x40 * n.toNat) = true) :
    regWrite s (0x80008 + 0x40 * n.toNat) v = s.setCtx n { s.ctx n with vmPkey := v } := by
  have hn : n.toNat < 64 := n.isLt
  have ho : (0x80008 + 0x40 * n.toNat) % 0x40 = 8 := by omega
  have hm : regMask (0x80008 + 0x40 * n.toNat) = 2 ^ 64 - 1 := by
    simp (disch := omega) only [regMask, if_neg, if_pos, ho]
  rw [regWrite_vm hs (by omega) (by omega), hm, and_ones]
  simp (disch := omega) only [vmWrite, if_pos, ho, blockCtx_at 0x80000 0x40 8 n (by decide)]

theorem regWrite_wdTask (hs : s.serves (0xC0030 + 0x40 * n.toNat) = true) :
    regWrite s (0xC0030 + 0x40 * n.toNat) v = s.setCtx n { s.ctx n with wdTask := BitVec.ofNat 32 v.toNat } := by
  have hn : n.toNat < 64 := n.isLt
  have ho : (0xC0030 + 0x40 * n.toNat) % 0x40 = 0x30 := by omega
  have hm : regMask (0xC0030 + 0x40 * n.toNat) = 2 ^ 32 - 1 := by
    simp (disch := omega) only [regMask, if_neg, if_pos, ho]
  rw [regWrite_flt hs (by omega) (by omega), hm]
  simp (disch := omega) only [fltWrite, if_neg, ho, blockCtx_at 0xC0000 0x40 0x30 n (by decide), ofNat_and_low]

theorem regWrite_sqBase (hs : s.serves (0x10008 + 0x100 * n.toNat) = true) :
    regWrite s (0x10008 + 0x100 * n.toNat) v =
      if (s.ctx n).cfg.getLsbD 63 = true then s else s.setCtx n { s.ctx n with sqBase := v &&& 0x01FFFFFFFFFFF000 } := by
  have hn : n.toNat < 64 := n.isLt
  have ho : (0x10008 + 0x100 * n.toNat) % 0x100 = 8 := by omega
  have hm : regMask (0x10008 + 0x100 * n.toNat) = 2 ^ 57 - 2 ^ 12 := by
    simp (disch := omega) only [regMask, if_neg, if_pos, ho]
  rw [regWrite_ctxBlock hs (by omega) (by omega), hm]
  simp only [ctxBlockWrite, ho, blockCtx_at 0x10000 0x100 8 n (by decide), Ctx.en, bit_eq_getLsbD]
  rfl

theorem regWrite_pcap (hs : s.serves (0x40100 + 8 * n.toNat) = true) :
    regWrite s (0x40100 + 8 * n.toNat) v = s.setCtx n { s.ctx n with pcap := BitVec.ofNat 5 v.toNat } := by
  have hn : n.toNat < 64 := n.isLt
  have hm : regMask (0x40100 + 8 * n.toNat) = 31 := by
    simp (disch := omega) only [regMask, if_neg, if_pos]
  have hw : BitVec.ofNat 5 (bits (v &&& BitVec.ofNat 64 (2 ^ 5 - 1)) 4 0) = BitVec.ofNat 5 v.toNat := by
    refine Eq.trans (BitVec.eq_of_toNat_eq ?_) (ofNat_and_low v (by decide))
    rw [bits, fld, Nat.pow_zero, Nat.div_one, BitVec.toNat_ofNat, BitVec.toNat_ofNat, Nat.mod_mod]
  rw [regWrite_sched hs (by omega) (by omega), hm, show 31 = 2 ^ 5 - 1 from rfl]
  simp (disch := omega) only [schedWrite, if_neg, if_pos, blockCtx_at 0x40100 8 0 n (by decide), hw]

theorem regWrite_wdStop (hs : s.serves 0xD0000 = true) :
    regWrite s 0xD0000 v = { s with sched := { s.sched with wdStop := BitVec.ofNat 32 v.toNat } } := by
  rw [regWrite_flt hs (by decide) (by decide), show regMask 0xD0000 = 2 ^ 32 - 1 from rfl, fltWrite, if_pos rfl,
    ofNat_and_low v (by decide)]

theorem regWrite_cap (hs : s.serves 0x100200 = true) :
    regWrite s 0x100200 v = { s with fleet := { s.fleet with cap := BitVec.ofNat 16 v.toNat, capEvals := 0 } } := by
  rw [regWrite_fleet hs (by decide) (by decide), show regMask 0x100200 = 2 ^ 16 - 1 from rfl, ← ofNat_and_low v (by decide)]
  rfl

theorem regWrite_logSev (hs : s.serves 0x101010 = true) :
    regWrite s 0x101010 v = { s with fleet := { s.fleet with logSev := BitVec.ofNat 2 v.toNat } } := by
  rw [regWrite_fleet hs (by decide) (by decide), show regMask 0x101010 = 2 ^ 2 - 1 from rfl, ← ofNat_and_low v (by decide)]
  rfl

end

/-! ## Halves of which no bit acts -/

theorem cairnCounts_readOnly (c : BitVec 12) :
    bits (BitVec.ofNat 64 (actMask ((0x60000 + 32 * c.toNat) / 8 * 8))) ((0x60000 + 32 * c.toNat) % 8 * 8 + 31)
      ((0x60000 + 32 * c.toNat) % 8 * 8) = 0 := by
  have hc : c.toNat < 4096 := c.isLt
  have ho : (0x60000 + 32 * c.toNat) / 8 * 8 = 0x60000 + 32 * c.toNat := by omega
  have hl : (0x60000 + 32 * c.toNat) % 8 = 0 := by omega
  have hz : (0x60000 + 32 * c.toNat) % 32 = 0 := by omega
  have hm : actMask (0x60000 + 32 * c.toNat) = 0x3FF * 2 ^ 54 + 2 ^ 53 := by
    simp (disch := omega) only [actMask, regMask, if_neg, if_pos, hz, and_true, if_true]
  rw [ho, hl, hm]
  decide

theorem tailHigh_readOnly (n : CtxId) :
    bits (BitVec.ofNat 64 (actMask ((0x1001C + 0x100 * n.toNat) / 8 * 8))) ((0x1001C + 0x100 * n.toNat) % 8 * 8 + 31)
      ((0x1001C + 0x100 * n.toNat) % 8 * 8) = 0 := by
  have hn : n.toNat < 64 := n.isLt
  have ho : (0x1001C + 0x100 * n.toNat) / 8 * 8 = 0x10018 + 0x100 * n.toNat := by omega
  have hl : (0x1001C + 0x100 * n.toNat) % 8 = 4 := by omega
  have hz : (0x10018 + 0x100 * n.toNat) % 0x100 = 0x18 := by omega
  have hm : actMask (0x10018 + 0x100 * n.toNat) = 2 ^ 32 - 1 := by
    simp (disch := omega) only [actMask, regMask, if_neg, if_pos, hz, Nat.add_zero]
  rw [ho, hl, hm]
  decide

theorem watchdogHigh_readOnly (n : CtxId) :
    bits (BitVec.ofNat 64 (actMask ((0xC0034 + 0x40 * n.toNat) / 8 * 8))) ((0xC0034 + 0x40 * n.toNat) % 8 * 8 + 31)
      ((0xC0034 + 0x40 * n.toNat) % 8 * 8) = 0 := by
  have hn : n.toNat < 64 := n.isLt
  have ho : (0xC0034 + 0x40 * n.toNat) / 8 * 8 = 0xC0030 + 0x40 * n.toNat := by omega
  have hl : (0xC0034 + 0x40 * n.toNat) % 8 = 4 := by omega
  have hz : (0xC0030 + 0x40 * n.toNat) % 0x40 = 0x30 := by omega
  have hm : actMask (0xC0030 + 0x40 * n.toNat) = 2 ^ 32 - 1 := by
    simp (disch := omega) only [actMask, regMask, if_neg, if_pos, hz, Nat.add_zero]
  rw [ho, hl, hm]
  decide

end Sys2Proof.Machine
end
section
/-! SUPPORT. The MSI-X table as a write leaves it (R283), and the window's two events as the host meets them (R284, R285). -/

namespace Sys2Proof.Machine

/-! ## The MSI-X table (R283) -/

theorem toBytes_add (v : Nat) : ∀ m n : Nat, toBytes (m + n) v = toBytes m v ++ toBytes n (v / 256 ^ m)
  | 0, n => by simp [toBytes]
  | m + 1, n => by
    rw [Nat.succ_add, toBytes, toBytes, toBytes_add (v / 256) m n, Nat.div_div_eq_div_mul, ← Nat.pow_succ', List.cons_append]

section
variable {s : State} {v : Word64} {vec : Nat}

/-- The card once the second half of a vector's table entry has been written. -/
def putVector (s : State) (vec : Nat) (v : Word64) : State :=
  { s with ports := { s.ports with msix := memWrite s.ports.msix (16 * vec + 8) (toBytes 8 v.toNat) } }

/-- An entry's half is its data and its mask (R283). -/
theorem putVector_split (s : State) (vec : Nat) (v : Word64) : (putVector s vec v).ports.msix =
    memWrite (memWrite s.ports.msix (16 * vec + 8) (toBytes 4 v.toNat)) (16 * vec + 12) (toBytes 4 (v.toNat / 256 ^ 4)) := by
  rw [putVector, toBytes_add v.toNat 4 4, memWrite_append, toBytes_length]

theorem putVector_masked : (putVector s vec v).msixMasked vec = v.getLsbD 32 := by
  rw [State.msixMasked, putVector_split, memNat_memWrite_same, ← bit_eq_getLsbD, bit]
  congr 1
  omega

theorem putVector_data : memNat (putVector s vec v).ports.msix (16 * vec + 8) 4 = v.toNat % 2 ^ 32 := by
  rw [putVector_split, memNat_memWrite_out _ (.inl (by omega)), memNat_memWrite_same, show 256 ^ 4 = 2 ^ 32 from rfl]

theorem putVector_addr : memNat (putVector s vec v).ports.msix (16 * vec) 8 = memNat s.ports.msix (16 * vec) 8 :=
  memNat_memWrite_out _ (.inl (by omega))

theorem putVector_pending (h : vec < 72) :
    memGet (putVector s vec v).ports.msix (0x800 + vec / 8) = memGet s.ports.msix (0x800 + vec / 8) :=
  memGet_memWrite_out _ _ _ _ (.inr (by rw [toBytes_length]; omega))

/-- The pending bit of a vector lies past every entry of the table. -/
theorem memNat_msixPend (s : State) (on : Bool) {a n : Nat} (h : a + n ≤ 0x800) :
    memNat (s.msixPend vec on).ports.msix a n = memNat s.ports.msix a n :=
  memNat_memWrite_out (v := [_]) _ (.inl (by rw [msixPending]; omega))

theorem msixPend_pending (s : State) : (memGet (s.msixPend vec false).ports.msix (0x800 + vec / 8)).getLsbD (vec % 8) = false := by
  have hv : vec % 8 < 8 := Nat.mod_lt _ (by decide)
  rw [State.msixPend, msixPending, memGet_memSet_same, if_neg (by decide), BitVec.getLsbD_and, BitVec.getLsbD_not, BitVec.getLsbD_ofNat,
    Nat.testBit_two_pow_self]
  simp [hv]

theorem msixWrite_eq (h : vec < 72) : msixWrite s (16 * vec + 8) v =
    if v.getLsbD 32 = false ∧ (memGet s.ports.msix (0x800 + vec / 8)).getLsbD (vec % 8) = true
    then ((putVector s vec v).msixPend vec false).msix vec else putVector s vec v := by
  have hn : (16 * vec + 8) / 16 = vec := by omega
  have e : msixWrite s (16 * vec + 8) v = if (!(putVector s vec v).msixMasked vec &&
      bit (memGet (putVector s vec v).ports.msix (0x800 + vec / 8)) (vec % 8)) = true
      then ((putVector s vec v).msixPend vec false).msix vec else putVector s vec v := by
    unfold msixWrite
    rw [hn]
    rfl
  rw [e, putVector_masked, putVector_pending h, bit_eq_getLsbD]
  simp

/-- A vector that a write unmasks while it is pending is sent, and pending no more. -/
theorem msixWrite_sends (h : vec < 72) (hm : v.getLsbD 32 = false) :
    let t := ((putVector s vec v).msixPend vec false).msix vec
    t.ports.out = s.ports.out ++ [.msix vec (memNat s.ports.msix (16 * vec) 8) (v.toNat % 2 ^ 32)] ∧
    (memGet t.ports.msix (0x800 + vec / 8)).getLsbD (vec % 8) = false ∧ t.cores = s.cores := by
  have hu : ((putVector s vec v).msixPend vec false).msixMasked vec = false := by
    rw [State.msixMasked, memNat_msixPend _ _ (by omega), ← State.msixMasked, putVector_masked, hm]
  rw [State.msix, if_neg (by rw [hu]; decide), memNat_msixPend _ _ (by omega), memNat_msixPend _ _ (by omega), putVector_data,
    putVector_addr]
  exact ⟨rfl, msixPend_pending _, rfl⟩

end

/-! ## The two events -/

section
variable {s : State} {off : BitVec 24} {size : Nat} {v : Word64}

theorem exec_registerWrite (h : s.fw.ready.getLsbD 0 = true) :
    exec (.registerWrite off size v) s = .next (windowWrite s off.toNat size v) := by
  rw [← State.ready_eq] at h
  exact congrArg _ (if_pos h)

theorem exec_registerWindowRead (h : s.fw.ready.getLsbD 0 = true) :
    exec (.registerWindowRead off size) s = .next (windowRead s off.toNat size) := by
  rw [← State.ready_eq] at h
  exact congrArg _ (if_pos h)

/-- Nothing answers before the host port is ready (R360). -/
theorem exec_window_notReady (h : ¬s.fw.ready.getLsbD 0 = true) :
    exec (.registerWrite off size v) s = .next s ∧ exec (.registerWindowRead off size) s = .next s := by
  rw [← State.ready_eq] at h
  exact ⟨congrArg _ (if_neg h), congrArg _ (if_neg h)⟩

theorem exec_window_misaligned (h : s.fw.ready.getLsbD 0 = true) (hw : ¬((size = 4 ∨ size = 8) ∧ off.toNat % size = 0)) :
    Claims.loggedOnly s (exec (.registerWrite off size v) s) ∧
    Claims.unserved s (exec (.registerWindowRead off size) s) [.completerAbort] := by
  rw [exec_registerWrite h, exec_registerWindowRead h, windowWrite_misaligned hw, windowRead_misaligned hw]
  refine ⟨refuseWrite_loggedOnly _ _ _ _ _, ?_⟩
  obtain ⟨rest, e⟩ := (s.send .completerAbort).logEntry_out (Config.freeNat (s.send .completerAbort).seq 1 % 4) (blockOf off.toNat) none
    off.toNat size
  exact ⟨_, rest, rfl, e, by simp [State.logFree]; rfl⟩

theorem exec_window_unserved (h : s.fw.ready.getLsbD 0 = true) (hw : (size = 4 ∨ size = 8) ∧ off.toNat % size = 0)
    (hs : ¬s.serves (off.toNat / 8 * 8) = true) :
    Claims.loggedOnly s (exec (.registerWrite off size v) s) ∧
    exec (.registerWindowRead off size) s = .next (s.send (.readDone (List.replicate size 0) false)) := by
  rw [exec_registerWrite h, exec_registerWindowRead h, windowRead_unserved hw hs]
  obtain ⟨o', v', e⟩ := windowWrite_unserved (v := v) hw hs
  rw [e]
  exact ⟨refuseWrite_loggedOnly _ _ _ _ _, rfl⟩

theorem exec_registerWrite_msix {vec : Nat} (h : s.fw.ready.getLsbD 0 = true) (hs : s.fw.state = 2 → off.toNat / 8 * 8 < 0x1000)
    (ho : off.toNat = 0x1008 + 16 * vec) (hv : vec < 72) :
    let pending := (memGet s.ports.msix (0x800 + vec / 8)).getLsbD (vec % 8) = true
    (v.getLsbD 32 = true ∨ ¬pending → exec (.registerWrite off 8 v) s = .next (putVector s vec v)) ∧
    (v.getLsbD 32 = false → pending → ∃ t, exec (.registerWrite off 8 v) s = .next t ∧ t.ports.out = s.ports.out ++
      [.msix vec (memNat s.ports.msix (16 * vec) 8) (v.toNat % 2 ^ 32)] ∧
      (memGet t.ports.msix (0x800 + vec / 8)).getLsbD (vec % 8) = false ∧ t.cores = s.cores) := by
  have hserve : s.serves off.toNat = true := by
    rw [State.serves_iff, readyOf, if_pos (by omega)]
    exact ⟨h, fun h2 => Nat.lt_of_le_of_lt (by omega) (hs h2)⟩
  have hm : regMask off.toNat = 2 ^ 64 - 1 := by
    simp (disch := omega) only [regMask, if_neg, if_pos]
  have e : exec (.registerWrite off 8 v) s = .next (msixWrite s (16 * vec + 8) v) := by
    rw [exec_registerWrite h, windowWrite_whole (by omega), regWrite_msix hserve (by omega) (by omega), hm, and_ones,
      show off.toNat - 0x1000 = 16 * vec + 8 by omega]
  rw [e, msixWrite_eq hv]
  refine ⟨fun hk => ?_, fun hk hp => ⟨_, congrArg _ (if_pos ⟨hk, hp⟩), msixWrite_sends hv hk⟩⟩
  rw [if_neg]
  rintro ⟨h32, hp⟩
  rcases hk with hk | hk
  · rw [h32] at hk
    cases hk
  · exact hk hp

end

end Sys2Proof.Machine
end
section
/-! SUPPORT. Sleep (R102, R366 to R369): which writes an entry to bivouac may lose, what bivouac drops, and when its steps act. -/

namespace Sys2Proof.Machine

/-! ## Writes that may be lost (R102) -/

/-- A unit marked poisoned, and those that were. -/
theorem mem_addPoison {l : List Nat} {u m : Nat} (h : m ∈ addPoison l u) : m ∈ l ∨ m = u := by
  unfold addPoison at h
  split at h
  · exact .inl h
  · rcases List.mem_append.mp h with h | h
    · exact .inl h
    · exact .inr (List.mem_singleton.mp h)

/-- Each byte stands or holds what stood before one of the writes, and a unit poisoned was poisoned, now or before one of them. -/
theorem loseFrom_loses (seq : Nat) : ∀ (us : List Unsaved) (i : Nat) (kept : List Nat) (m : Mem × List Nat) (left : List Unsaved),
    (∀ a, memGet (loseFrom seq us i kept m left).1.1 a = memGet m.1 a ∨
      ∃ u ∈ us, u.addr = a ∧ memGet (loseFrom seq us i kept m left).1.1 a = u.old) ∧
    ∀ x ∈ (loseFrom seq us i kept m left).1.2, x ∈ m.2 ∨ ∃ u ∈ us, u.poison = true ∧ u.addr / 64 = x
  | [], i, kept, m, left => ⟨fun _ => .inl rfl, fun _ h => .inl h⟩
  | u :: us, i, kept, m, left => by
    rw [loseFrom]
    have weaken : ∀ {i kept left}, (∀ a, memGet (loseFrom seq us i kept m left).1.1 a = memGet m.1 a ∨
        ∃ w ∈ u :: us, w.addr = a ∧ memGet (loseFrom seq us i kept m left).1.1 a = w.old) ∧
        ∀ x ∈ (loseFrom seq us i kept m left).1.2, x ∈ m.2 ∨ ∃ w ∈ u :: us, w.poison = true ∧ w.addr / 64 = x :=
        fun {i kept left} =>
      have ⟨hm, hp⟩ := loseFrom_loses seq us i kept m left
      ⟨fun a => (hm a).imp_right fun ⟨w, hw, h⟩ => ⟨w, List.mem_cons_of_mem _ hw, h⟩,
        fun x hx => (hp x hx).imp_right fun ⟨w, hw, h⟩ => ⟨w, List.mem_cons_of_mem _ hw, h⟩⟩
    split
    · exact weaken
    · split
      · exact weaken
      · obtain ⟨hm, hp⟩ := loseFrom_loses seq us (i + 1) kept
          (memSet m.1 u.addr u.old, if u.poison then addPoison m.2 (u.addr / 64) else m.2) left
        refine ⟨fun a => ?_, fun x hx => ?_⟩
        · rcases hm a with e | ⟨w, hw, h⟩
          · by_cases ha : a = u.addr
            · refine .inr ⟨u, List.mem_cons_self, ha.symm, ?_⟩
              rw [e, ha, memGet_memSet_same]
            · exact .inl (e.trans (memGet_memSet_ne _ _ ha))
          · exact .inr ⟨w, List.mem_cons_of_mem _ hw, h⟩
        · rcases hp x hx with h | ⟨w, hw, h⟩
          · split at h
            · rename_i hu
              exact (mem_addPoison h).imp_right fun e => ⟨u, List.mem_cons_self, hu, e.symm⟩
            · exact .inl h
          · exact .inr ⟨w, List.mem_cons_of_mem _ hw, h⟩

theorem mayLose_loseWrites (s : State) : Claims.mayLose s s.loseWrites := loseFrom_loses s.seq s.unsaved 0 [] (s.dram, s.poison) []

/-! ## What bivouac drops (R367) -/

/-- Bivouac leaves base camp's tables, the contexts and what it may lose of memory; every core is without power, no link is up, and the
ready bits of what is off are 0. -/
theorem bivouac_eq (s : State) : ∃ (l : Tab Core) (ls : Tab Lane), bivouac s =
    { s.loseWrites with
      cores := l, lanes := ls, unsaved := [], vm := { s.vm with tlb := [] }
      ports := { s.ports with peers := s.ports.peers.map Peer.cut }
      fleet := { s.fleet with slpState := 2, clk := Vector.replicate 4 0 }
      fw := { s.fw with ready := s.fw.ready &&& 0x4007 } } ∧
    ∀ j, (bivouac s).core j = (s.core j).unpowered := by
  obtain ⟨l, h⟩ := (clearTables s.loseWrites fun _ => true).mapCores_eq Core.unpowered
  refine ⟨l, (clearTables s.loseWrites fun _ => true).lanes, ?_, fun j => ?_⟩
  · unfold bivouac
    dsimp only
    rw [h]
    rfl
  · exact State.core_mapCores (f := Core.unpowered) (fun _ => rfl) rfl (clearTables s.loseWrites fun _ => true) j

/-! ## The steps of an entry and of a wake (R366, R367, R369) -/

section
variable {s : State}

/-- Whether an entry is within its limit: it has drained, or may drain yet (R367). -/
def Fleet.inTime (f : Fleet) : Prop := f.slpDrained = true ∨ f.slpUs < max f.slpTo.toNat 1 * 1000

/-- What an aborted entry leaves (R102, R367). -/
def Aborted (s t : State) : Prop :=
  t.fleet = { s.fleet with slpState := 0, slpCode := 2 } ∧ Claims.mayLose s t ∧ t.cores = s.cores ∧ t.ctxs = s.ctxs ∧
  t.sched = s.sched ∧ t.fw = s.fw ∧ t.ports = s.ports

theorem entryAborts_aborted (s : State) : Aborted s (entryAborts s) :=
  ⟨rfl, mayLose_loseWrites { s with fleet := { s.fleet with slpState := 0, slpCode := 2 } }, rfl, rfl, rfl, rfl, rfl⟩

theorem entryLate_iff (f : Fleet) : f.entryLate = true ↔ f.slpState = 1 ∧ ¬f.inTime := by
  unfold Fleet.entryLate Fleet.limitUs Fleet.inTime
  simp only [Bool.and_eq_true, beq_iff_eq, Bool.not_eq_true', decide_eq_true_eq, not_or,
    Bool.not_eq_true, Nat.not_lt, and_assoc]

theorem exec_slpEnter (h : s.fleet.slpState = 0) :
    exec .slpEnter s = .next { s with fleet := { s.fleet with slpState := 1, slpUs := 0, slpDrained := false } } := if_pos h

theorem exec_slpEnter_refused (h : s.fleet.slpState ≠ 0) :
    exec .slpEnter s = .next { s with fleet := { s.fleet with slpCode := 3 } } := if_neg h

theorem exec_slpWake (h : s.fleet.slpState = 2) : exec .slpWake s = .next (wake s) := if_pos h

theorem exec_slpWake_refused (h : s.fleet.slpState ≠ 2) : exec .slpWake s = .next { s with fleet := { s.fleet with slpCode := 3 } } :=
  if_neg h

/-- The second step of an entry has not ended, or no entry is under way. -/
theorem exec_entryDrained_waits (h : s.fleet.slpState ≠ 1 ∨ (¬s.allIdle = true ∧ s.fleet.slpDrained = false)) :
    exec .bivouacEntryDrained s = .next s := by
  refine if_pos ?_
  rcases h with h | ⟨hi, hd⟩
  · rw [bne_iff_ne.mpr h, Bool.true_or]
  · simp [hi, hd]

theorem exec_entryDrained_due (h : s.fleet.slpState = 1) (hd : s.allIdle = true ∨ s.fleet.slpDrained = true) :
    exec .bivouacEntryDrained s = .next (if s.fleet.entryLate = true then entryAborts s
      else if s.fw.updBusy = true then { s with fleet := { s.fleet with slpDrained := true } }
      else bivouac { s with fleet := { s.fleet with slpDrained := true } }) := by
  have hc : ¬(s.fleet.slpState != 1 || !(s.fleet.slpDrained || s.allIdle)) = true := by
    rcases hd with hd | hd <;> simp [h, hd]
  refine (if_neg hc).trans ?_
  split <;> rfl

theorem exec_entryDrained_waitsForUpdate (h : s.fleet.slpState = 1) (hd : s.allIdle = true ∨ s.fleet.slpDrained = true)
    (ht : s.fleet.inTime) (hu : s.fw.updBusy = true) :
    exec .bivouacEntryDrained s = .next { s with fleet := { s.fleet with slpDrained := true } } := by
  rw [exec_entryDrained_due h hd, if_neg fun hl => ((entryLate_iff _).mp hl).2 ht, if_pos hu]

/-- Steps 3 to 5 of an entry (R367). -/
theorem exec_entryDrained_bivouac (h : s.fleet.slpState = 1) (hd : s.allIdle = true ∨ s.fleet.slpDrained = true)
    (ht : s.fleet.inTime) (hu : s.fw.updBusy = false) : ∃ t, exec .bivouacEntryDrained s = .next t ∧ t.fleet.slpState = 2 ∧
      t.fw.ready = s.fw.ready &&& 0x4007 ∧ (∀ p, (t.peer p).up = false) ∧ (∀ j, (t.core j).scratch = [] ∧ (t.core j).regs = [] ∧
        (t.core j).run = .idle ∧ (t.core j).relScopes = (s.core j).relScopes) ∧ Claims.mayLose s t ∧ t.unsaved = [] ∧
      t.sched = s.sched ∧ t.ctxs = s.ctxs := by
  obtain ⟨l, ls, e, hc⟩ := bivouac_eq { s with fleet := { s.fleet with slpDrained := true } }
  refine ⟨bivouac { s with fleet := { s.fleet with slpDrained := true } }, ?_, ?_, ?_, fun p => ?_, fun j => ?_, ?_, ?_, ?_, ?_⟩
  · rw [exec_entryDrained_due h hd, if_neg fun hl => ((entryLate_iff _).mp hl).2 ht, if_neg (by rw [hu]; decide)]
  · rw [e]
  · rw [e]
  · rw [e, State.peer]
    simp [Peer.cut]
  · rw [hc]
    exact ⟨rfl, rfl, rfl, rfl⟩
  · rw [e]
    exact mayLose_loseWrites { s with fleet := { s.fleet with slpDrained := true } }
  · rw [e]
  · rw [e]
    rfl
  · rw [e]
    rfl

theorem exec_entryDrained_late (h : s.fleet.slpState = 1) (hi : s.allIdle = true) (ht : ¬s.fleet.inTime) :
    exec .bivouacEntryDrained s = .next (entryAborts s) := by
  rw [exec_entryDrained_due h (.inl hi), if_pos ((entryLate_iff _).mpr ⟨h, ht⟩)]

theorem exec_entryTimeout (h : s.fleet.slpState = 1) (ht : ¬s.fleet.inTime) :
    exec .bivouacEntryTimeout s = .next (entryAborts s) := congrArg _ (if_pos ((entryLate_iff _).mpr ⟨h, ht⟩))

theorem exec_entryTimeout_early (h : s.fleet.slpState ≠ 1 ∨ s.fleet.inTime) : exec .bivouacEntryTimeout s = .next s :=
  congrArg _ (if_neg fun hl => (not_and_not_right.mpr fun h1 => h.resolve_left (not_not.mpr h1)) ((entryLate_iff _).mp hl))

/-- What a wake waits for: the scheduler, and one die with its memory (R369). -/
theorem wakeUp_iff (s : State) : (s.ready readySch && (List.range 4).any s.dieReady) = true ↔
    s.fw.ready.getLsbD 14 = true ∧ ∃ d < 4, s.fw.ready.getLsbD (7 + d) = true ∧ s.fw.ready.getLsbD (3 + d) = true := by
  simp only [Bool.and_eq_true, List.any_eq_true, List.mem_range, State.dieReady, State.ready_eq, readySch]

theorem exec_wakeDone (h : s.fleet.slpState = 3) (hu : s.fw.ready.getLsbD 14 = true ∧
    ∃ d < 4, s.fw.ready.getLsbD (7 + d) = true ∧ s.fw.ready.getLsbD (3 + d) = true) :
    exec .wakeDone s = .next { s with fleet := { s.fleet with slpState := 0, slpCode := 4 } }.progress := by
  refine if_pos ?_
  rw [Bool.and_assoc, (wakeUp_iff s).mpr hu, Bool.and_true]
  exact decide_eq_true h

theorem exec_wakeDone_waits (h : s.fleet.slpState ≠ 3 ∨ ¬(s.fw.ready.getLsbD 14 = true ∧
    ∃ d < 4, s.fw.ready.getLsbD (7 + d) = true ∧ s.fw.ready.getLsbD (3 + d) = true)) : exec .wakeDone s = .next s := by
  refine if_neg fun hc => ?_
  rw [Bool.and_assoc, Bool.and_eq_true, wakeUp_iff] at hc
  exact h.elim (fun h => h (of_decide_eq_true hc.1)) fun h => h hc.2

end

end Sys2Proof.Machine
end
section
/-! SUPPORT. An evaluation of the power manager (R16, R371): the grants it gives each die, and what it measures and counts. -/

namespace Sys2Proof.Machine

/-! ## Elements by die -/

@[simp] theorem ofDie_val {α : Type} (v : Vector α 4) (d : Fin 4) : ofDie v d.val = v[d] := by
  simp [ofDie, Nat.mod_eq_of_lt d.isLt]

@[simp] theorem getElem_setDie_same {α : Type} (v : Vector α 4) (d : Nat) (x : α) (h : d < 4) : (setDie v d x)[d] = x := by
  simp [setDie, Nat.mod_eq_of_lt h]

theorem getElem_setDie_ne {α : Type} (v : Vector α 4) {d e : Fin 4} (x : α) (h : d ≠ e) : (setDie v e.val x)[d] = v[d] := by
  have hne : e.val ≠ d.val := fun h' => h (Fin.ext h'.symm)
  simp [setDie, Nat.mod_eq_of_lt e.isLt, Vector.getElem_set_ne, hne]

/-- What holds of some die, or of every die, of the four. -/
theorem any_dies (p : Nat → Bool) : (List.range 4).any p = true ↔ ∃ d : Fin 4, p d.val = true := by
  rw [List.any_eq_true]
  exact ⟨fun ⟨x, hx, h⟩ => ⟨⟨x, List.mem_range.mp hx⟩, h⟩, fun ⟨d, h⟩ => ⟨d.val, List.mem_range.mpr d.isLt, h⟩⟩

theorem all_dies (p : Nat → Bool) : (List.range 4).all p = true ↔ ∀ d : Fin 4, p d.val = true := by
  rw [List.all_eq_true]
  exact ⟨fun h d => h d.val (List.mem_range.mpr d.isLt), fun h x hx => h ⟨x, List.mem_range.mp hx⟩⟩

theorem State.dieRuns_eq (s : State) (d : Fin 4) : s.dieRuns d.val = s.fw.ready.getLsbD (7 + d.val) := s.ready_eq _

/-- While a die runs, the counters count (R370). -/
theorem State.counted_of_runs {s : State} {d : Fin 4} (h : s.fw.ready.getLsbD (7 + d.val) = true) : s.counted = 1 := by
  refine if_neg fun h0 => ?_
  rw [← bit_eq_getLsbD, bit, beq_iff_eq] at h
  have hd : d.val < 4 := d.isLt
  obtain e | e | e | e : d.val = 0 ∨ d.val = 1 ∨ d.val = 2 ∨ d.val = 3 := by omega
  all_goals rw [e] at h; omega

/-! ## Whether a measurement comes about (R15, R371) -/

/-- Every die that runs is at the lowest clock. -/
def Slowest (s : State) (clk : Vector (BitVec 16) 4) : Prop := ∀ d : Fin 4, s.fw.ready.getLsbD (7 + d.val) = true → clk[d] = 475

theorem allSlow_iff (s : State) : s.allSlow = true ↔ Slowest s s.fleet.clk := by
  rw [State.allSlow, all_dies, Slowest]
  refine forall_congr' fun d => ?_
  rw [State.dieRuns_eq, ofDie_val, Bool.or_eq_true, Bool.not_eq_true', beq_iff_eq, ← Bool.not_eq_true, ← imp_iff_not_or]

/-- Power is at or below the connector's limit, and at or below the cap but where no clock can go lower, or goes lower now. -/
def Holds (s : State) (m : PowerSample) : Prop :=
  m.mw.toNat ≤ 600000 ∧ (m.mw.toNat ≤ s.fleet.capMw ∨ Slowest s s.fleet.clk ∨
    (s.fleet.capEvals = 0 ∧ ∃ d : Fin 4, s.fw.ready.getLsbD (7 + d.val) = true ∧
      clockOf (m.capGrant[d]).toNat < (s.fleet.clk[d]).toNat))

theorem powerHolds_iff (s : State) (m : PowerSample) : s.powerHolds m = true ↔ Holds s m := by
  simp only [State.powerHolds, Holds, Bool.and_eq_true, Bool.or_eq_true, any_dies, allSlow_iff, State.dieRuns_eq, decide_eq_true_eq,
    beq_iff_eq, ofDie_val, or_assoc]

/-! ## One die's grants -/

theorem clockOf_le (x : Nat) : clockOf x ≤ 1900 := by
  unfold clockOf
  omega

/-- What an evaluation gives a die: no clock to one that is off; else the cap's grant, and no more than the heat allows. -/
def Granted (m : PowerSample) (s t : State) (d : Fin 4) : Prop :=
  (s.fw.ready.getLsbD (7 + d.val) = false → t.fleet.clk[d] = 0) ∧
  (s.fw.ready.getLsbD (7 + d.val) = true → (t.fleet.capClk[d]).toNat = clockOf (m.capGrant[d]).toNat) ∧
  (s.fw.ready.getLsbD (7 + d.val) = true → (m.temp[d]).toNat < 95 → s.fleet.thermal[d] = 1900 →
    (t.fleet.clk[d]).toNat = clockOf (m.capGrant[d]).toNat) ∧
  (s.fw.ready.getLsbD (7 + d.val) = true → 100 ≤ (m.temp[d]).toNat → (t.fleet.clk[d]).toNat ≤ max 475 ((s.fleet.clk[d]).toNat - 25))

/-- Two states of the card that agree about a die's clocks. -/
def SameDie (d : Fin 4) (s t : State) : Prop :=
  t.fw = s.fw ∧ t.fleet.clk[d] = s.fleet.clk[d] ∧ t.fleet.capClk[d] = s.fleet.capClk[d] ∧ t.fleet.thermal[d] = s.fleet.thermal[d]

theorem SameDie.refl (d : Fin 4) (s : State) : SameDie d s s := ⟨rfl, rfl, rfl, rfl⟩

theorem SameDie.trans {d : Fin 4} {s t u : State} (h : SameDie d s t) (h' : SameDie d t u) : SameDie d s u :=
  ⟨h'.1.trans h.1, h'.2.1.trans h.2.1, h'.2.2.1.trans h.2.2.1, h'.2.2.2.trans h.2.2.2⟩

/-- An evaluation of a die changes grants, clocks and the counter of free values alone. -/
theorem evalDie_eq (m : PowerSample) (s : State) (d : Nat) : ∃ hot th cap clk q, evalDie m s d =
    { s with fleet := { s.fleet with hot := hot, thermal := th, capClk := cap, clk := clk }, seq := q } := by
  unfold evalDie
  extract_lets
  split <;> exact ⟨_, _, _, _, _, rfl⟩

theorem evalDie_other (m : PowerSample) (s : State) {d e : Fin 4} (h : d ≠ e) : SameDie d s (evalDie m s e.val) := by
  unfold evalDie
  extract_lets
  split
  · exact ⟨rfl, getElem_setDie_ne _ _ h, getElem_setDie_ne _ _ h, rfl⟩
  · exact ⟨rfl, getElem_setDie_ne _ _ h, getElem_setDie_ne _ _ h, getElem_setDie_ne _ _ h⟩

/-- The thermal grant of a die that is not hot and has the highest clock stays there. -/
theorem thermalNext_cool (seq clk : Nat) : thermalNext seq false clk 1900 = 1900 := rfl

theorem thermalNext_hot (seq clk old : Nat) : thermalNext seq true clk old ≤ max 475 (clk - 25) := by
  unfold thermalNext
  simp only [if_true]
  omega

theorem evalDie_off {m : PowerSample} {s : State} {d : Fin 4} (h : s.fw.ready.getLsbD (7 + d.val) = false) :
    (evalDie m s d.val).fleet.clk[d] = 0 := by
  unfold evalDie
  extract_lets
  rw [State.dieRuns_eq, h]
  simp

/-- The grants of a die that runs, by whether it is hot. -/
theorem evalDie_on {m : PowerSample} {s : State} {d : Fin 4} (h : s.fw.ready.getLsbD (7 + d.val) = true) :
    let hot := if 100 ≤ (m.temp[d]).toNat then true else if (m.temp[d]).toNat < 95 then false else s.fleet.hot[d]
    let cap := clockOf (m.capGrant[d]).toNat
    (evalDie m s d.val).fleet.capClk[d] = BitVec.ofNat 16 cap ∧
    (evalDie m s d.val).fleet.clk[d] =
      BitVec.ofNat 16 (min cap (thermalNext s.seq hot (s.fleet.clk[d]).toNat (s.fleet.thermal[d]).toNat)) := by
  unfold evalDie
  simp [State.dieRuns_eq, h]

theorem evalDie_granted (m : PowerSample) (s : State) (d : Fin 4) : Granted m s (evalDie m s d.val) d := by
  have hc : clockOf (m.capGrant[d]).toNat ≤ 1900 := clockOf_le _
  refine ⟨evalDie_off, fun hr => ?_, fun hr ht hth => ?_, fun hr ht => ?_⟩
  · rw [(evalDie_on hr).1, BitVec.toNat_ofNat, Nat.mod_eq_of_lt (by omega)]
  · rw [(evalDie_on hr).2, if_neg (by omega), if_pos ht, hth, show (1900 : BitVec 16).toNat = 1900 from rfl, thermalNext_cool,
      BitVec.toNat_ofNat, Nat.min_eq_left hc, Nat.mod_eq_of_lt (by omega)]
  · rw [(evalDie_on hr).2, if_pos ht, BitVec.toNat_ofNat]
    have h := thermalNext_hot s.seq (s.fleet.clk[d]).toNat (s.fleet.thermal[d]).toNat
    exact (Nat.mod_le _ _).trans ((Nat.min_le_right _ _).trans h)

/-! ## The four dies in turn -/

theorem evalDies_eq (m : PowerSample) (l : List (Fin 4)) (s : State) : ∃ hot th cap clk q,
    l.foldl (fun s d => evalDie m s d.val) s =
      { s with fleet := { s.fleet with hot := hot, thermal := th, capClk := cap, clk := clk }, seq := q } := by
  refine List.foldlRecOn (motive := fun t : State => ∃ hot th cap clk q,
    t = { s with fleet := { s.fleet with hot := hot, thermal := th, capClk := cap, clk := clk }, seq := q }) l _
    ⟨_, _, _, _, _, rfl⟩ fun t ht d _ => ?_
  obtain ⟨_, _, _, _, _, rfl⟩ := ht
  obtain ⟨_, _, _, _, _, h⟩ := evalDie_eq m _ d.val
  exact ⟨_, _, _, _, _, h⟩

theorem evalDies_same (m : PowerSample) {d : Fin 4} {l : List (Fin 4)} (h : d ∉ l) (s : State) :
    SameDie d s (l.foldl (fun s d => evalDie m s d.val) s) :=
  List.foldlRecOn (motive := SameDie d s) l _ (SameDie.refl d s) fun t ht _ he =>
    ht.trans (evalDie_other m t fun e => h (e ▸ he))

/-- What a die is granted depends on that die alone. -/
theorem Granted.of_same {m : PowerSample} {d : Fin 4} {s s' t t' : State} (h : Granted m s' t' d) (hs : SameDie d s s')
    (ht : SameDie d t' t) : Granted m s t d := by
  unfold Granted at h ⊢
  rw [ht.2.1, ht.2.2.1]
  rwa [hs.1, hs.2.1, hs.2.2.2] at h

theorem evalDies_granted (m : PowerSample) {d : Fin 4} {l : List (Fin 4)} (hd : d ∈ l) (hl : l.Nodup) (s : State) :
    Granted m s (l.foldl (fun s d => evalDie m s d.val) s) d := by
  induction l generalizing s with
  | nil => exact absurd hd List.not_mem_nil
  | cons e l ih =>
    obtain ⟨hel, hl⟩ := List.nodup_cons.mp hl
    rw [List.foldl_cons]
    by_cases h : d = e
    · subst h
      exact (evalDie_granted m s d).of_same (SameDie.refl d s) (evalDies_same m hel _)
    · exact (ih ((List.mem_cons.mp hd).resolve_left h) hl _).of_same (evalDie_other m s h) (SameDie.refl d _)

/-! ## An evaluation, but for dies that it powers off -/

/-- The card with what is measured, and the window that ends counted (R370). -/
def measured (m : PowerSample) (s : State) : State :=
  let t := { s with fleet := { s.fleet with
    mw := m.mw, temps := m.temp, bc := m.bc, evalUs := s.fleet.us, capEvals := s.fleet.capEvals + 1 } }
  let t := if s.held fun d => (ofDie s.fleet.capClk d).toNat then t.count 0 else t
  if s.held fun d => (ofDie s.fleet.thermal d).toNat then t.count 1 else t

/-- The card with every die's grants, and whether the cap can be kept (R371, R376). -/
def judged (m : PowerSample) (s : State) : State :=
  let t := (List.finRange 4).foldl (fun s d => evalDie m s d.val) (measured m s)
  { t with fleet := { t.fleet with hlthWhy := (t.fleet.hlthWhy &&& BitVec.ofNat 8 0xF7) |||
      (if ((List.range 4).any t.dieRuns && t.allSlow && decide (t.fleet.capMw < m.mw.toNat)) = true then BitVec.ofNat 8 8 else 0) } }

/-- A die is powered off where it has reached 110 degrees (R371). -/
def cutDie (m : PowerSample) (s : State) (d : Fin 4) : State :=
  if (s.dieRuns d.val && decide (110 ≤ (ofDie m.temp d.val).toNat)) = true then powerOff s d.val (ofDie m.temp d.val).toNat else s

theorem exec_powerEvaluation (m : PowerSample) (s : State) : exec (.powerEvaluation m) s =
    if (decide (s.fleet.us < s.fleet.evalUs + windowUs) || !s.powerHolds m) = true then .next s
    else .next ((List.finRange 4).foldl (cutDie m) (judged m s)) := rfl

/-- Whether a measurement comes about (R16, R15, R371). -/
def Comes (s : State) (m : PowerSample) : Prop := s.fleet.evalUs + 1000 ≤ s.fleet.us ∧ Holds s m

theorem exec_powerEvaluation_comes {m : PowerSample} {s : State} (h : Comes s m) :
    exec (.powerEvaluation m) s = .next ((List.finRange 4).foldl (cutDie m) (judged m s)) := by
  obtain ⟨hu, hh⟩ := h
  rw [exec_powerEvaluation, if_neg]
  rw [windowUs, decide_eq_false (Nat.not_lt.mpr hu), (powerHolds_iff s m).mpr hh]
  decide

theorem exec_powerEvaluation_not {m : PowerSample} {s : State} (h : ¬Comes s m) : exec (.powerEvaluation m) s = .next s := by
  rw [exec_powerEvaluation, if_pos]
  rw [Comes, ← powerHolds_iff, not_and] at h
  by_cases hu : s.fleet.us < s.fleet.evalUs + windowUs
  · rw [decide_eq_true hu, Bool.true_or]
  · rw [eq_false_of_ne_true (h (Nat.not_lt.mp hu)), Bool.not_false, Bool.or_true]

theorem held_iff (s : State) (v : Vector (BitVec 16) 4) : (s.held fun d => (ofDie v d).toNat) = true ↔
    ∃ d : Fin 4, s.fw.ready.getLsbD (7 + d.val) = true ∧ (v[d]).toNat < 1900 := by
  simp only [State.held, any_dies, State.dieRuns_eq, ofDie_val, Bool.and_eq_true, decide_eq_true_eq]

end Sys2Proof.Machine
end
section
/-! SUPPORT. What an evaluation of the power manager leaves (R370, R371, R376), and a die that it powers off (R337, R360). -/

namespace Sys2Proof.Machine

/-! ## The window counted, and the cap judged -/

/-- A counter of the window counts where some die that runs was held below the highest clock. -/
theorem counted_of_held {s : State} {v : Vector (BitVec 16) 4} (h : (s.held fun d => (ofDie v d).toNat) = true) : s.counted = 1 := by
  obtain ⟨d, hd, _⟩ := (held_iff s v).mp h
  exact State.counted_of_runs hd

theorem State.count_if {s : State} (i : Fin 8) {b : Bool} (h : b = true → s.counted = 1) : (if b then s.count i else s) =
    { s with fleet := { s.fleet with cnt := s.fleet.cnt.set i (s.fleet.cnt[i] + if b = true then 1 else 0) } } := by
  cases b with
  | false => simp
  | true => rw [if_pos rfl, if_pos rfl, s.count_eq, h rfl]

theorem measured_eq (m : PowerSample) (s : State) : ∃ w : Vector Word64 8, measured m s = { s with fleet := { s.fleet with
      mw := m.mw, temps := m.temp, bc := m.bc, evalUs := s.fleet.us, capEvals := s.fleet.capEvals + 1, cnt := w } } ∧
    w[0] = s.fleet.cnt[0] + (if (s.held fun d => (ofDie s.fleet.capClk d).toNat) = true then 1 else 0) ∧
    w[1] = s.fleet.cnt[1] + (if (s.held fun d => (ofDie s.fleet.thermal d).toNat) = true then 1 else 0) := by
  unfold measured
  extract_lets _ t u
  have hu : u = _ := State.count_if (s := t) 0 fun h => (counted_of_held h : s.counted = 1)
  have hv := State.count_if (s := u) (b := s.held fun d => (ofDie s.fleet.thermal d).toNat) 1 fun h => by
    rw [hu]
    exact (counted_of_held h : s.counted = 1)
  have ht : t.fleet.cnt = s.fleet.cnt := rfl
  rw [hv, hu]
  exact ⟨_, rfl, by simp [ht], by simp [ht]⟩

theorem measured_same (m : PowerSample) (s : State) (d : Fin 4) : SameDie d s (measured m s) := by
  obtain ⟨c, h, _⟩ := measured_eq m s
  rw [h]
  exact SameDie.refl d s

theorem getLsbD_flag3 (w : BitVec 8) (b : Bool) :
    ((w &&& BitVec.ofNat 8 0xF7) ||| (if b = true then BitVec.ofNat 8 8 else 0)).getLsbD 3 = b := by
  cases b <;> simp

theorem judged_granted (m : PowerSample) (s : State) (d : Fin 4) : Granted m s (judged m s) d :=
  (evalDies_granted m (List.mem_finRange d) (List.nodup_finRange 4) (measured m s)).of_same (measured_same m s d) ⟨rfl, rfl, rfl, rfl⟩

/-- What the evaluation of every die leaves of the card, with the counters of the window and bit 3 of hlth.why. -/
theorem judged_eq (m : PowerSample) (s : State) : ∃ (hot : Vector Bool 4) (th cap clk : Vector (BitVec 16) 4) (w : Vector Word64 8)
    (why : BitVec 8) (q : Nat), judged m s = { s with
      fleet := { s.fleet with
        mw := m.mw, temps := m.temp, bc := m.bc, evalUs := s.fleet.us, capEvals := s.fleet.capEvals + 1, cnt := w, hot := hot
        thermal := th, capClk := cap, clk := clk, hlthWhy := why }
      seq := q } ∧
    w[0] = s.fleet.cnt[0] + (if (s.held fun d => (ofDie s.fleet.capClk d).toNat) = true then 1 else 0) ∧
    w[1] = s.fleet.cnt[1] + (if (s.held fun d => (ofDie s.fleet.thermal d).toNat) = true then 1 else 0) ∧
    (why.getLsbD 3 = true ↔ (∃ d : Fin 4, s.fw.ready.getLsbD (7 + d.val) = true) ∧ Slowest s clk ∧ s.fleet.capMw < m.mw.toNat) := by
  obtain ⟨w, hm, h0, h1⟩ := measured_eq m s
  obtain ⟨hot, th, cap, clk, q, he⟩ := evalDies_eq m (List.finRange 4) (measured m s)
  rw [hm] at he
  unfold judged
  rw [hm, he]
  refine ⟨hot, th, cap, clk, w, _, q, rfl, h0, h1, ?_⟩
  rw [getLsbD_flag3, Bool.and_eq_true, Bool.and_eq_true, any_dies, allSlow_iff, decide_eq_true_eq, and_assoc]
  simp only [State.dieRuns_eq]
  rfl

/-- An evaluation that powers no die off. -/
theorem cutDies_cool {m : PowerSample} (h : ∀ d : Fin 4, (m.temp[d]).toNat < 110) (l : List (Fin 4)) (s : State) :
    l.foldl (cutDie m) s = s :=
  List.foldlRecOn (motive := fun t => t = s) l _ rfl fun t ht d _ => by
    rw [cutDie, if_neg, ht]
    rw [Bool.and_eq_true, decide_eq_true_eq, ofDie_val]
    exact fun hc => absurd (h d) (Nat.not_lt.mpr hc.2)

/-- What an evaluation keeps and gives, where no die has reached 110 degrees. -/
theorem exec_powerEvaluation_cool {m : PowerSample} {s : State} (hc : Comes s m) (h : ∀ d : Fin 4, (m.temp[d]).toNat < 110) :
    exec (.powerEvaluation m) s = .next (judged m s) := by
  rw [exec_powerEvaluation_comes hc, cutDies_cool h]

/-! ## A die that is powered off -/

/-- A task that runs on the die stops (R337). -/
def stopOn (d : Nat) (s : State) (k : CoreId) : State :=
  let c := s.core k
  if dieOf k = d && (c.run == .running || c.run == .preempting) then takeTrap s k (c.baseRecord causeWatchdog 0 c.us) else s

/-- The card with a die's ready bit and clock at 0 (R371). -/
def unclocked (s : State) (d : Nat) : State :=
  let s := s.clearReady (2 ^ (7 + d))
  { s with fleet := { s.fleet with clk := setDie s.fleet.clk d 0 } }

theorem powerOff_eq (s : State) (d t : Nat) : powerOff s d t =
    replaceRecords (((unclocked s d).coreIds.foldl (stopOn d) (unclocked s d)).logEntry 3 blkPower none d t) d := rfl

/-- A core that stops for base camp's watchdog (R337, R340). -/
def StoppedByCamp (c : Core) : Prop := ∃ r, c.run = .stopping r ∧ r.cause = 25

theorem stopOn_other {d : Nat} {s : State} {k j : CoreId} (h : j ≠ k ∨ dieOf j ≠ d) : (stopOn d s k).core j = s.core j := by
  unfold stopOn
  extract_lets c
  split
  · rename_i hk
    have hd : dieOf k = d := of_decide_eq_true (Bool.and_eq_true_iff.mp hk).1
    have hj : j ≠ k := h.elim id fun h e => h (e ▸ hd)
    obtain ⟨x, e | e⟩ := takeTrap_frame s k (c.baseRecord causeWatchdog 0 c.us) <;> rw [e]
    exact State.core_setCore_ne s x hj
  · rfl

theorem stopOn_running {d : Nat} {s : State} {j : CoreId} (hd : dieOf j = d) (h : (s.core j).run = .running) :
    StoppedByCamp ((stopOn d s j).core j) := by
  have hc : (decide (dieOf j = d) && ((s.core j).run == .running || (s.core j).run == .preempting)) = true := by simp [hd, h]
  unfold stopOn
  rw [if_pos hc, takeTrap_running _ _ _ h, State.core_setCore]
  exact ⟨_, rfl, rfl⟩

theorem stopOn_stopped {d : Nat} {s : State} {j : CoreId} (k : CoreId) (h : StoppedByCamp (s.core j)) :
    StoppedByCamp ((stopOn d s k).core j) := by
  by_cases hk : j = k
  · subst hk
    obtain ⟨r, hr, _⟩ := id h
    have hc : ¬(decide (dieOf j = d) && ((s.core j).run == .running || (s.core j).run == .preempting)) = true := by simp [hr]
    unfold stopOn
    rwa [if_neg hc]
  · rwa [stopOn_other (.inl hk)]

theorem stopOn_all {d : Nat} {j : CoreId} (hd : dieOf j = d) {l : List CoreId} (hj : j ∈ l) (s : State)
    (h : (s.core j).run = .running) : StoppedByCamp ((l.foldl (stopOn d) s).core j) := by
  induction l generalizing s with
  | nil => exact absurd hj List.not_mem_nil
  | cons k l ih =>
    rw [List.foldl_cons]
    by_cases hk : j = k
    · subst hk
      exact List.foldlRecOn (motive := fun t : State => StoppedByCamp (t.core j)) l _ (stopOn_running hd h) fun t ht k _ =>
        stopOn_stopped k ht
    · exact ih ((List.mem_cons.mp hj).resolve_left hk) _ (by rwa [stopOn_other (.inl hk)])

/-- Stopping the tasks of a die changes cores alone. -/
theorem stopOn_eq (d : Nat) (l : List CoreId) (s : State) : ∃ cs, l.foldl (stopOn d) s = { s with cores := cs } := by
  refine List.foldlRecOn (motive := fun t : State => ∃ cs, t = { s with cores := cs }) l _ ⟨_, rfl⟩ fun t ht k _ => ?_
  obtain ⟨cs, rfl⟩ := ht
  unfold stopOn
  extract_lets c
  split
  · obtain ⟨x, e | e⟩ := takeTrap_frame { s with cores := cs } k (c.baseRecord causeWatchdog 0 c.us) <;> rw [e]
    · exact ⟨_, rfl⟩
    · exact ⟨_, rfl⟩
  · exact ⟨_, rfl⟩

/-- Records that are placed again change the scheduler's tables alone (R360). -/
theorem replaceRecords_eq (s : State) (d : Nat) : ∃ q, replaceRecords s d = { s with sched := q } := by
  unfold replaceRecords
  extract_lets ls t
  have ht : ∃ q, t = { s with sched := q } := by
    refine List.foldlRecOn (motive := fun t : State => ∃ q, t = { s with sched := q }) ls _ ⟨_, rfl⟩ fun t ht l _ => ?_
    obtain ⟨q, rfl⟩ := ht
    exact ⟨_, rfl⟩
  refine List.foldlRecOn (motive := fun t : State => ∃ q, t = { s with sched := q }) _ _ ht fun t ht p _ => ?_
  obtain ⟨q, rfl⟩ := ht
  refine List.foldlRecOn (motive := fun t : State => ∃ q, t = { s with sched := q }) _ _ ⟨_, rfl⟩ fun t ht r _ => ?_
  obtain ⟨q', rfl⟩ := ht
  exact ⟨_, rfl⟩

/-- What a die that is powered off leaves of the card, but for the cores: its ready bit and its clock are 0. -/
theorem powerOff_card (s : State) (d : Fin 4) (t : Nat) : (powerOff s d.val t).dram = s.dram ∧
    (powerOff s d.val t).fw.ready = s.fw.ready &&& ~~~(BitVec.ofNat 16 (2 ^ (7 + d.val))) ∧
    (powerOff s d.val t).fleet.clk = setDie s.fleet.clk d.val 0 := by
  obtain ⟨cs, hs⟩ := stopOn_eq d.val (unclocked s d.val).coreIds (unclocked s d.val)
  rw [powerOff_eq, hs]
  obtain ⟨q, hq⟩ := replaceRecords_eq (({ unclocked s d.val with cores := cs } : State).logEntry 3 blkPower none d.val t) d.val
  rw [hq]
  simp [unclocked, State.clearReady]

theorem powerOff_core (s : State) (d t : Nat) (j : CoreId) :
    (powerOff s d t).core j = ((unclocked s d).coreIds.foldl (stopOn d) (unclocked s d)).core j := by
  rw [powerOff_eq]
  generalize (unclocked s d).coreIds.foldl (stopOn d) (unclocked s d) = u
  obtain ⟨q, hq⟩ := replaceRecords_eq (u.logEntry 3 blkPower none d t) d
  rw [hq]
  exact State.core_of_cores (u.logEntry_cores 3 blkPower none d t) j

theorem dieOf_eq (j : CoreId) : dieOf j = j.toNat / 64 := by
  have h : j.toNat < 256 := j.isLt
  rw [dieOf, bits, fld]
  omega

theorem powerOff_core_other (s : State) {d : Nat} (t : Nat) {j : CoreId} (h : dieOf j ≠ d) : (powerOff s d t).core j = s.core j := by
  rw [powerOff_core]
  exact List.foldlRecOn (motive := fun t : State => t.core j = s.core j) _ _ rfl fun t ht k _ => (stopOn_other (.inr h)).trans ht

theorem powerOff_core_stopped {s : State} (d t : Nat) {j : CoreId} (h : StoppedByCamp (s.core j)) :
    StoppedByCamp ((powerOff s d t).core j) := by
  rw [powerOff_core]
  exact List.foldlRecOn (motive := fun t : State => StoppedByCamp (t.core j)) _ _ h fun t ht k _ => stopOn_stopped k ht

theorem powerOff_core_running {s : State} {d : Nat} (t : Nat) {j : CoreId} (hd : dieOf j = d) (h : (s.core j).run = .running) :
    StoppedByCamp ((powerOff s d t).core j) := by
  rw [powerOff_core]
  refine stopOn_all hd (State.mem_coreIds (s := unclocked s d) fun e => ?_) _ h
  have hr : (Core.reset).run = .running := e ▸ h
  cases hr

/-! ## The dies that are powered off in turn -/

section
variable {m : PowerSample} {s : State}

/-- Whether a die has reached 110 degrees. -/
def Hot (m : PowerSample) (d : Fin 4) : Prop := 110 ≤ (m.temp[d]).toNat

theorem cutDie_hot {d : Fin 4} (hr : s.fw.ready.getLsbD (7 + d.val) = true) (h : Hot m d) :
    cutDie m s d = powerOff s d.val (ofDie m.temp d.val).toNat := by
  refine if_pos ?_
  rw [Bool.and_eq_true, State.dieRuns_eq, decide_eq_true_eq, ofDie_val]
  exact ⟨hr, h⟩

/-- A die is powered off, or nothing changes, since it is off or not hot enough. -/
theorem cutDie_cases (m : PowerSample) (s : State) (d : Fin 4) :
    (cutDie m s d = powerOff s d.val (ofDie m.temp d.val).toNat ∧ Hot m d) ∨
    (cutDie m s d = s ∧ (s.fw.ready.getLsbD (7 + d.val) = false ∨ ¬Hot m d)) := by
  by_cases hr : s.fw.ready.getLsbD (7 + d.val) = true
  · by_cases h : Hot m d
    · exact .inl ⟨cutDie_hot hr h, h⟩
    · refine .inr ⟨if_neg fun hc => h ?_, .inr h⟩
      rw [Bool.and_eq_true, decide_eq_true_eq, ofDie_val] at hc
      exact hc.2
  · refine .inr ⟨if_neg fun hc => hr ?_, .inl (eq_false_of_ne_true hr)⟩
    rw [Bool.and_eq_true, State.dieRuns_eq] at hc
    exact hc.1

theorem cutDie_dram (m : PowerSample) (s : State) (d : Fin 4) : (cutDie m s d).dram = s.dram := by
  obtain ⟨e, _⟩ | ⟨e, _⟩ := cutDie_cases m s d <;> rw [e]
  exact (powerOff_card s d _).1

/-- The ready bits that are left. -/
theorem cutDie_ready (m : PowerSample) (s : State) (d : Fin 4) (i : Nat) : (cutDie m s d).fw.ready.getLsbD i = true ↔
    s.fw.ready.getLsbD i = true ∧ ¬(i = 7 + d.val ∧ Hot m d) := by
  obtain ⟨e, h⟩ | ⟨e, h⟩ := cutDie_cases m s d
  · have hd : d.val < 4 := d.isLt
    rw [e, (powerOff_card s d _).2.1, BitVec.getLsbD_and, BitVec.getLsbD_not, BitVec.getLsbD_ofNat, Nat.testBit_two_pow]
    by_cases hi : 7 + d.val = i
    · simp [hi.symm, h, show 7 + d.val < 16 by omega]
    · have hlt : s.fw.ready.getLsbD i = true → i < 16 := BitVec.lt_of_getLsbD
      simp only [hi, decide_false, Bool.and_false, Bool.not_false, Bool.and_true, Bool.and_eq_true, decide_eq_true_eq, Ne.symm hi,
        false_and, not_false_eq_true, and_true]
      exact ⟨And.left, fun h => ⟨h, hlt h⟩⟩
  · rw [e]
    refine ⟨fun hs => ⟨hs, fun hi => ?_⟩, And.left⟩
    rw [← hi.1, hs] at h
    exact h.elim Bool.noConfusion fun h => h hi.2

theorem cutDie_clk_zero {d : Fin 4} (e : Fin 4) (h : s.fleet.clk[d] = 0) : (cutDie m s e).fleet.clk[d] = 0 := by
  obtain ⟨e', _⟩ | ⟨e', _⟩ := cutDie_cases m s e <;> rw [e']
  · rw [(powerOff_card s e _).2.2]
    by_cases hd : d = e
    · subst hd
      exact getElem_setDie_same _ _ _ d.isLt
    · rwa [getElem_setDie_ne _ _ hd]
  · exact h

theorem cutDie_core_stopped {j : CoreId} (e : Fin 4) (h : StoppedByCamp (s.core j)) : StoppedByCamp ((cutDie m s e).core j) := by
  obtain ⟨e', _⟩ | ⟨e', _⟩ := cutDie_cases m s e <;> rw [e']
  · exact powerOff_core_stopped _ _ h
  · exact h

theorem cutDie_core_other (m : PowerSample) (s : State) {e : Fin 4} {j : CoreId} (h : dieOf j ≠ e.val) :
    (cutDie m s e).core j = s.core j := by
  obtain ⟨e', _⟩ | ⟨e', _⟩ := cutDie_cases m s e <;> rw [e']
  exact powerOff_core_other s _ h

theorem cutDies_dram (m : PowerSample) (l : List (Fin 4)) (s : State) : (l.foldl (cutDie m) s).dram = s.dram :=
  List.foldlRecOn (motive := fun t : State => t.dram = s.dram) l _ rfl fun t ht d _ => (cutDie_dram m t d).trans ht

theorem cutDies_ready (m : PowerSample) (i : Nat) : ∀ (l : List (Fin 4)) (s : State), (l.foldl (cutDie m) s).fw.ready.getLsbD i = true ↔
    s.fw.ready.getLsbD i = true ∧ ¬∃ d ∈ l, i = 7 + d.val ∧ Hot m d
  | [], s => by simp
  | d :: l, s => by
    rw [List.foldl_cons, cutDies_ready m i l, cutDie_ready]
    simp only [List.mem_cons, exists_eq_or_imp, not_or, and_assoc]

/-- A die that runs and has reached 110 degrees has no clock, and its tasks stop. -/
theorem cutDies_hot {d : Fin 4} {l : List (Fin 4)} (hd : d ∈ l) (s : State) (hr : s.fw.ready.getLsbD (7 + d.val) = true) (h : Hot m d) :
    (l.foldl (cutDie m) s).fleet.clk[d] = 0 ∧ ∀ j : CoreId, dieOf j = d.val → (s.core j).run = .running →
      StoppedByCamp ((l.foldl (cutDie m) s).core j) := by
  induction l generalizing s with
  | nil => exact absurd hd List.not_mem_nil
  | cons e l ih =>
    rw [List.foldl_cons]
    by_cases hde : d = e
    · subst hde
      have hclk : (cutDie m s d).fleet.clk[d] = 0 := by
        rw [cutDie_hot hr h, (powerOff_card s d _).2.2]
        exact getElem_setDie_same _ _ _ d.isLt
      refine ⟨List.foldlRecOn (motive := fun t : State => t.fleet.clk[d] = 0) l _ hclk fun t ht e _ => cutDie_clk_zero e ht,
        fun j hj hrun => List.foldlRecOn (motive := fun t : State => StoppedByCamp (t.core j)) l _ ?_ fun t ht e _ =>
          cutDie_core_stopped e ht⟩
      rw [cutDie_hot hr h]
      exact powerOff_core_running _ hj hrun
    · have hne : d.val ≠ e.val := fun h => hde (Fin.ext h)
      obtain ⟨hclk, hcores⟩ := ih ((List.mem_cons.mp hd).resolve_left hde) (cutDie m s e)
        ((cutDie_ready m s e _).mpr ⟨hr, fun he => hne (by omega)⟩)
      exact ⟨hclk, fun j hj hrun => hcores j hj (by rwa [cutDie_core_other m s (hj ▸ hne)])⟩

end

end Sys2Proof.Machine
end
section
/-! SUPPORT. The death of a context (R338, R345, R358): what a trap record on its way leaves alone, and the release of its cores. -/

namespace Sys2Proof.Machine

theorem State.ctx_of_ctxs {s t : State} (h : t.ctxs = s.ctxs) (n : CtxId) : t.ctx n = s.ctx n := by
  rw [State.ctx, h, State.ctx]

/-! ## A record changes no core (R345) -/

theorem pumpRun_cores : ∀ (fuel : Nat) (s : State) (port : Bool), (pumpRun fuel s port).cores = s.cores
  | 0, _, _ => rfl
  | fuel + 1, s, port => by
    unfold pumpRun
    dsimp only
    split
    · rfl
    · split
      · rfl
      · exact pumpRun_cores fuel _ port

theorem peerCommand_cores (s : State) (port : Bool) (n far : CtxId) (op : PeerOp) (who : Waiter) :
    (peerCommand s port n far op who).cores = s.cores := pumpRun_cores _ _ port

/-- The card as the start of a record's write leaves it. -/
def RingTry.state : RingTry → State
  | .over s => s
  | .under s _ => s

theorem ringDone_cores (s : State) (w : RingWrite) : (ringDone s w).cores = s.cores := by
  unfold ringDone
  extract_lets x t
  split
  · exact t.msix_cores _
  · rfl

theorem ringTry_cores (s : State) (w : RingWrite) : (ringTry s w).state.cores = s.cores := by
  unfold ringTry
  extract_lets n b x a lost
  have hl : lost.state.cores = s.cores := rfl
  split
  · exact hl
  · split
    · exact hl
    · split
      · exact hl
      · split
        · split
          · rename_i e
            exact (ringDone_cores _ w).trans (State.ctxWrite_cores e)
          · exact hl
        · extract_lets p
          split
          · split
            · exact (peerCommand_cores _ _ _ _ _ _).trans (State.campUse_cores _ _ _ _ _)
            · rfl
          · exact hl
        · split
          · split
            · rfl
            · exact hl
          · split <;> rfl
        · exact hl

theorem ringGo_cores : ∀ (fuel : Nat) (s : State) (n : CtxId), (ringGo fuel s n).cores = s.cores
  | 0, _, _ => rfl
  | fuel + 1, s, n => by
    unfold ringGo
    split
    · rfl
    · rename_i w _
      have hw := ringTry_cores s w
      split
      · rfl
      · dsimp only
        split
        · rename_i e
          rw [e] at hw
          exact (ringGo_cores fuel _ n).trans hw
        · rename_i e
          rw [e] at hw
          exact hw

theorem ringWrite_cores (s : State) (n : CtxId) (b : List Byte) : (ringWrite s n b).cores = s.cores := ringGo_cores _ _ n

/-! ## The release of a core (R338) -/

theorem freeUnclaimed_core_ne (s : State) {k j : CoreId} (h : j ≠ k) : (freeUnclaimed s k).core j = s.core j := by
  unfold freeUnclaimed
  split
  · split
    · exact State.core_setCore_ne s _ h
    · rfl
  · rfl

theorem freeUnclaimed_ctxs (s : State) (k : CoreId) : (freeUnclaimed s k).ctxs = s.ctxs := by
  unfold freeUnclaimed
  split
  · split <;> rfl
  · rfl

theorem withdrawSpawn_eq (s : State) (k : CoreId) : ∃ q, withdrawSpawn s k = { s with sched := q } := by
  unfold withdrawSpawn
  split <;> exact ⟨_, rfl⟩

theorem leaveLanes_eq (k : CoreId) (l : List (Nat × Tag)) (s : State) :
    ∃ ls, l.foldl (fun s p => leaveLanes s k p.1) s = { s with lanes := ls } := by
  refine List.foldlRecOn (motive := fun t : State => ∃ ls, t = { s with lanes := ls }) l _ ⟨_, rfl⟩ fun t ht p _ => ?_
  obtain ⟨ls, rfl⟩ := ht
  exact ⟨_, rfl⟩

theorem releaseCore_frame (s : State) (k : CoreId) :
    (releaseCore s k).ctxs = s.ctxs ∧ ∀ j, j ≠ k → (releaseCore s k).core j = s.core j := by
  unfold releaseCore
  extract_lets t u v
  obtain ⟨q, ht⟩ := withdrawSpawn_eq (freeUnclaimed s k) k
  obtain ⟨ls, hu⟩ := leaveLanes_eq k (t.core k).liveTags t
  have hv : v = { u with unsaved := v.unsaved } := rfl
  have hvt : v.ctxs = s.ctxs ∧ ∀ j, j ≠ k → v.core j = s.core j := by
    rw [hv, show u = _ from hu, show t = _ from ht]
    exact ⟨freeUnclaimed_ctxs s k, fun j hj => freeUnclaimed_core_ne s hj⟩
  exact ⟨hvt.1, fun j hj => (State.core_setCore_ne v _ hj).trans (hvt.2 j hj)⟩

/-- A core of a context that dies is released, and its registers take their reset values (R358, R37). -/
def dieOn (n : CtxId) (s : State) (k : CoreId) : State :=
  if (s.core k).run != .idle && (s.core k).task.ctx == n then (releaseCore s k).modCore k Core.fresh else s

theorem dieOn_ctxs (n : CtxId) (s : State) (k : CoreId) : (dieOn n s k).ctxs = s.ctxs := by
  unfold dieOn
  split
  · exact (releaseCore_frame s k).1
  · rfl

theorem dieOn_other {n : CtxId} {s : State} {k j : CoreId} (h : j ≠ k) : (dieOn n s k).core j = s.core j := by
  unfold dieOn
  split
  · exact (State.core_setCore_ne _ _ h).trans ((releaseCore_frame s k).2 j h)
  · rfl

theorem dieOn_idle {n : CtxId} {s : State} {k : CoreId} (h : (s.core k).run = .idle ∨ (s.core k).task.ctx = n) :
    ((dieOn n s k).core k).run = .idle := by
  unfold dieOn
  split
  · rw [State.modCore, State.core_setCore]
    rfl
  · rename_i hc
    rw [Bool.and_eq_true, bne_iff_ne, beq_iff_eq, not_and'] at hc
    exact h.elim id fun h => not_not.mp (hc h)

/-! ## The death of a context (R358) -/

/-- Records and images that are dropped are the scheduler's. -/
theorem discardRecords_eq (s : State) (p : ContRec → Bool) : ∃ q, discardRecords s p = { s with sched := q } := by
  unfold discardRecords
  extract_lets gone t
  have ht : ∃ q, t = { s with sched := q } := by
    refine List.foldlRecOn (motive := fun t : State => ∃ q, t = { s with sched := q }) _ _ ⟨_, rfl⟩ fun t ht i _ => ?_
    obtain ⟨q, rfl⟩ := ht
    extract_lets
    split <;> exact ⟨_, rfl⟩
  obtain ⟨q, ht⟩ := ht
  rw [ht]
  exact ⟨_, rfl⟩

theorem foldl_modCairn_eq {α : Type} (c : α → BitVec 12) (f : Cairn → Cairn) (l : List α) (s : State) :
    ∃ q, l.foldl (fun s p => s.modCairn (c p) f) s = { s with sched := q } := by
  refine List.foldlRecOn (motive := fun t : State => ∃ q, t = { s with sched := q }) l _ ⟨_, rfl⟩ fun t ht p _ => ?_
  obtain ⟨q, rfl⟩ := ht
  exact ⟨_, rfl⟩

@[simp] theorem State.modLaunches_cores (s : State) (p : Launch → Bool) (f : Launch → Launch) :
    (s.modLaunches p f).cores = s.cores := rfl
@[simp] theorem State.modLaunches_ctxs (s : State) (p : Launch → Bool) (f : Launch → Launch) : (s.modLaunches p f).ctxs = s.ctxs := rfl

theorem State.ctx_putSched (s : State) (q : Sched) (n : CtxId) : ({ s with sched := q } : State).ctx n = s.ctx n := rfl
theorem State.core_putSched (s : State) (q : Sched) (k : CoreId) : ({ s with sched := q } : State).core k = s.core k := rfl

/-- A core along a list of ids, where the change of another core leaves it alone. -/
theorem core_foldl_idle {f : State → CoreId → State} {n : CtxId} {k : CoreId} (other : ∀ s j, k ≠ j → (f s j).core k = s.core k)
    (own : ∀ s, (s.core k).run = .idle ∨ (s.core k).task.ctx = n → ((f s k).core k).run = .idle)
    {l : List CoreId} (hk : k ∈ l) (s : State) (h : (s.core k).task.ctx = n) : ((l.foldl f s).core k).run = .idle := by
  induction l generalizing s with
  | nil => exact absurd hk List.not_mem_nil
  | cons j l ih =>
    rw [List.foldl_cons]
    by_cases hj : k = j
    · subst hj
      refine List.foldlRecOn (motive := fun t : State => (t.core k).run = .idle) l _ (own s (.inr h)) fun t ht j _ => ?_
      by_cases hj : k = j
      · subst hj
        exact own t (.inl ht)
      · rwa [other t j hj]
    · exact ih ((List.mem_cons.mp hk).resolve_left hj) _ (by rwa [other s j hj])

/-- What a death leaves of its context's registers, and a core of the context without its task. -/
theorem ctxDie_dead {s : State} {n : CtxId} (why : Nat) (h : (s.ctx n).dead = false) :
    ((ctxDie s n why).ctx n).dead = true ∧ ((ctxDie s n why).ctx n).why = BitVec.ofNat 8 why ∧
    ∀ k, (s.core k).run ≠ .idle → (s.core k).task.ctx = n → ((ctxDie s n why).core k).run = .idle := by
  unfold ctxDie
  rw [if_neg (by rw [h]; decide)]
  extract_lets r _ written x marked raised released dropped kept _ swept _ answered ended open_
  obtain ⟨q, hq⟩ := foldl_modCairn_eq (fun p : Nat × Cairn => BitVec.ofNat 12 p.1)
    (fun x => { x with state := .cancelled, flt := true }) open_ ended
  obtain ⟨l, hkept⟩ := dropped.mapCores_eq fun c => { c with held := c.held.filter fun a => a.ctx != n }
  obtain ⟨q', hdropped⟩ := discardRecords_eq released fun r => r.ctx == n
  have hreleased : released.ctxs = raised.ctxs :=
    List.foldlRecOn (motive := fun t : State => t.ctxs = raised.ctxs) _ _ rfl fun t ht k _ => (dieOn_ctxs n t k).trans ht
  have hctxs : ended.ctxs = marked.ctxs := calc
    ended.ctxs = kept.ctxs := by simp only [ended, State.modLaunches_ctxs, answered, swept]
    _ = dropped.ctxs := by rw [show kept = _ from hkept]
    _ = released.ctxs := by rw [show dropped = _ from hdropped]
    _ = raised.ctxs := hreleased
    _ = marked.ctxs := marked.msix_ctxs _
  have hdead : (marked.ctx n).dead = true := by rw [State.ctx_setCtx]
  have hwhy : (marked.ctx n).why = BitVec.ofNat 8 why := by rw [State.ctx_setCtx]
  have hended : ended.cores = kept.cores := by simp only [ended, State.modLaunches_cores, answered, swept]
  rw [hq]
  rw [State.ctx_putSched, State.ctx_of_ctxs hctxs]
  refine ⟨hdead, hwhy, fun k hk hn => ?_⟩
  rw [State.core_putSched]
  have hraised : raised.core k = s.core k :=
    State.core_of_cores ((marked.msix_cores _).trans (ringWrite_cores s n _)) k
  have hlisted : k ∈ raised.coreIds := State.mem_coreIds fun e => hk (by rw [← hraised, e]; rfl)
  have hidle : (released.core k).run = .idle :=
    core_foldl_idle (f := dieOn n) (fun s _ hj => dieOn_other hj) (fun s => dieOn_idle) hlisted raised (by rw [hraised, hn])
  have hmapped : kept.core k = { dropped.core k with held := (dropped.core k).held.filter fun a => a.ctx != n } :=
    State.core_mapCores (f := fun c => { c with held := c.held.filter fun a => a.ctx != n }) (fun c => by simp) rfl dropped k
  calc (ended.core k).run = (kept.core k).run := by rw [State.core_of_cores hended]
    _ = (dropped.core k).run := by rw [hmapped]
    _ = (released.core k).run := by rw [show dropped = _ from hdropped, State.core_putSched]
    _ = .idle := hidle

end Sys2Proof.Machine
end
section
/-! SUPPORT. What the host sees of an evaluation of the power manager (R371), and what an error of storage leaves (R372 to R374). -/

namespace Sys2Proof.Machine

/-! ## Evaluations (R371) -/

section
variable {m : PowerSample} {s : State}

/-- An evaluation of a card none of whose dies has reached 110 degrees. -/
theorem exec_powerEvaluation_grants (hc : Comes s m) (h : ∀ d : Fin 4, (m.temp[d]).toNat < 110) :
    ∃ t, exec (.powerEvaluation m) s = .next t ∧ t.fleet.mw = m.mw ∧
      t.fleet.temps = m.temp ∧ t.fleet.bc = m.bc ∧ t.cores = s.cores ∧ t.dram = s.dram ∧ t.fw = s.fw ∧
      t.fleet.evalUs = s.fleet.us ∧ t.fleet.capEvals = s.fleet.capEvals + 1 ∧
      (t.fleet.hlthWhy.getLsbD 3 = true ↔ (∃ d : Fin 4, s.fw.ready.getLsbD (7 + d.val) = true) ∧ Slowest s t.fleet.clk ∧
        s.fleet.capMw < m.mw.toNat) ∧
      t.fleet.cnt[0] = s.fleet.cnt[0] +
        (if (∃ d : Fin 4, s.fw.ready.getLsbD (7 + d.val) = true ∧ (s.fleet.capClk[d]).toNat < 1900) then 1 else 0) ∧
      t.fleet.cnt[1] = s.fleet.cnt[1] +
        (if (∃ d : Fin 4, s.fw.ready.getLsbD (7 + d.val) = true ∧ (s.fleet.thermal[d]).toNat < 1900) then 1 else 0) ∧
      ∀ d : Fin 4, Granted m s t d := by
  obtain ⟨hot, th, cap, clk, w, why, q, e, h0, h1, hwhy⟩ := judged_eq m s
  have hg := judged_granted m s
  rw [e] at hg
  exact ⟨_, (exec_powerEvaluation_cool hc h).trans (congrArg _ e), rfl, rfl, rfl, rfl, rfl, rfl, rfl, rfl, hwhy,
    h0.trans (congrArg _ (if_congr (held_iff s _) rfl rfl)), h1.trans (congrArg _ (if_congr (held_iff s _) rfl rfl)), hg⟩

/-- An evaluation powers off the dies that have reached 110 degrees. -/
theorem exec_powerEvaluation_cuts (hc : Comes s m) : ∃ t, exec (.powerEvaluation m) s = .next t ∧ t.dram = s.dram ∧
    (∀ i, t.fw.ready.getLsbD i = true ↔ s.fw.ready.getLsbD i = true ∧ ¬∃ d : Fin 4, i = 7 + d.val ∧ Hot m d) ∧
    ∀ d : Fin 4, s.fw.ready.getLsbD (7 + d.val) = true → Hot m d → t.fleet.clk[d] = 0 ∧
      ∀ j : CoreId, dieOf j = d.val → (s.core j).run = .running → StoppedByCamp (t.core j) := by
  obtain ⟨hot, th, cap, clk, w, why, q, e, _⟩ := judged_eq m s
  refine ⟨_, exec_powerEvaluation_comes hc, ?_, fun i => ?_, fun d hr hh => ?_⟩
  · rw [cutDies_dram, e]
  · rw [cutDies_ready, e]
    simp only [List.mem_finRange, true_and]
  · rw [e]
    exact cutDies_hot (List.mem_finRange d) _ hr hh

end

/-! ## Units, slots and images (R373, R374) -/

section
variable (s : State)

theorem poisonUnit_eq (pa : Nat) : ∃ l, poisonUnit s pa = { s with poison := l } ∧ pa / 64 ∈ l := by
  unfold poisonUnit
  split
  · rename_i h
    exact ⟨s.poison, rfl, List.contains_iff_mem.mp h⟩
  · exact ⟨_, rfl, List.mem_append_right _ List.mem_cons_self⟩

/-- Whether the patrol scrubber reads a unit (R374). -/
theorem scrubReads_iff (pa : BitVec 39) : (s.fleet.scr = 0 || !memReady s.fw.ready (homeDie pa.toNat)) = true ↔
    s.fleet.scr = 0 ∨ ¬s.fw.ready.getLsbD (3 + pa.toNat / 2 ^ 33 / 12) = true := by
  rw [memReady, homeDie, bit_eq_getLsbD]
  simp

theorem exec_scrub_idle {pa : BitVec 39} (h : s.fleet.scr = 0 ∨ ¬s.fw.ready.getLsbD (3 + pa.toNat / 2 ^ 33 / 12) = true)
    (r : ScrubResult) : exec (.scrub pa r) s = .next s := if_pos ((scrubReads_iff s pa).mpr h)

theorem exec_scrub_clean (pa : BitVec 39) : exec (.scrub pa .clean) s = .next s := by
  change execScrub pa .clean s = _
  unfold execScrub
  split <;> rfl

theorem exec_scrub_corrected {pa : BitVec 39} (h0 : s.fleet.scr ≠ 0) (h : s.fw.ready.getLsbD (3 + pa.toNat / 2 ^ 33 / 12) = true) :
    exec (.scrub pa .corrected) s = .next (corrected s (some 2) blkMem pa.toNat) :=
  if_neg fun hc => ((scrubReads_iff s pa).mp hc).elim h0 fun hn => hn h

theorem exec_scrub_uncorrected {pa : BitVec 39} (h0 : s.fleet.scr ≠ 0) (h : s.fw.ready.getLsbD (3 + pa.toNat / 2 ^ 33 / 12) = true) :
    exec (.scrub pa .uncorrected) s = .next ((poisonUnit (s.count 4) pa.toNat).logEntry 2 blkMem none pa.toNat 0) :=
  if_neg fun hc => ((scrubReads_iff s pa).mp hc).elim h0 fun hn => hn h

theorem exec_scrub_poisons {pa : BitVec 39} (h0 : s.fleet.scr ≠ 0) (h : s.fw.ready.getLsbD (3 + pa.toNat / 2 ^ 33 / 12) = true) :
    ∃ t, exec (.scrub pa .uncorrected) s = .next t ∧ t.fleet.cnt[4] = s.fleet.cnt[4] + s.counted ∧
      t.fleet.logHead = s.fleet.logHead + 1 ∧ pa.toNat / 64 ∈ t.poison ∧ t.dram = s.dram := by
  obtain ⟨l, e, hl⟩ := poisonUnit_eq (s.count 4) pa.toNat
  rw [exec_scrub_uncorrected s h0 h, e]
  exact ⟨_, rfl, by simp, by simp, by simpa using hl, by simp⟩

theorem exec_dramError (pa : BitVec 39) : ∃ t, exec (.storageError (.dram pa) false) s = .next t ∧ pa.toNat / 64 ∈ t.poison ∧
    t.fleet.cnt[4] = s.fleet.cnt[4] + s.counted ∧ t.cores = s.cores ∧ t.dram = s.dram := by
  obtain ⟨l, e, hl⟩ := poisonUnit_eq (s.count 4) pa.toNat
  have he : exec (.storageError (.dram pa) false) s = .next (poisonUnit (s.count 4) pa.toNat) := rfl
  rw [he, e]
  exact ⟨_, rfl, hl, by simp, by simp, by simp⟩

theorem exec_slotError {slot : BitVec 31} {x : Slot} (h : s.slot slot.toNat = some x) : ∃ t,
    exec (.storageError (.nandSlot slot) false) s = .next t ∧ t.slot slot.toNat = some { x with bad := true } ∧
    t.cores = s.cores ∧ t.dram = s.dram := by
  have h' : (s.count 4).slot slot.toNat = some x := by rwa [State.slot, State.count_slots]
  have e : exec (.storageError (.nandSlot slot) false) s = .next ((s.count 4).setSlot slot.toNat (some { x with bad := true })) := by
    change Host.Outcome.next (uncorrected (s.count 4) (.nandSlot slot)) = _
    simp only [uncorrected, h']
  exact ⟨_, e, tabGet_tabSet_same none _ _ _, s.count_cores 4, s.count_dram 4⟩

/-- An image that an uncorrected error strikes: its context dies (R372). -/
theorem exec_imageError {a : Word64} {x : Image} (h : s.sched.images.find? (·.addr == a) = some x) (hd : (s.ctx x.ctx).dead = false) :
    ∃ t, exec (.storageError (.saveImage a) false) s = .next t ∧ (t.ctx x.ctx).dead = true ∧ (t.ctx x.ctx).why = 2 := by
  have e : exec (.storageError (.saveImage a) false) s = .next (ctxDie (s.count 4) x.ctx whyImage) := by
    change Host.Outcome.next (uncorrected (s.count 4) (.saveImage a)) = _
    simp only [uncorrected, State.count_sched, h]
  obtain ⟨hdead, hwhy, _⟩ := ctxDie_dead (s := s.count 4) (n := x.ctx) whyImage (by rwa [State.ctx_of_ctxs (s.count_ctxs 4)])
  exact ⟨_, e, hdead, hwhy⟩

/-! ## A core's storage and what is cached (R372) -/

/-- The block of a core with a task: the task's context dies. -/
theorem exec_sramError_running {k : CoreId} {block : Nat} (hb : block < 672) (hr : (s.core k).run ≠ .idle)
    (hd : (s.ctx (s.core k).task.ctx).dead = false) :
    ∃ t, exec (.storageError (.coreSram k block) false) s = .next t ∧ (t.core k).run = .idle ∧
      (t.ctx (s.core k).task.ctx).dead = true ∧ (t.ctx (s.core k).task.ctx).why = 3 := by
  have hcore : (s.count 4).core k = s.core k := State.core_of_cores (s.count_cores 4) k
  have e : exec (.storageError (.coreSram k block) false) s = .next (ctxDie (s.count 4) (s.core k).task.ctx whyError) := by
    change Host.Outcome.next (coreError (s.count 4) k block) = _
    unfold coreError
    rw [if_neg (by omega), hcore, if_pos (bne_iff_ne.mpr hr)]
  obtain ⟨hdead, hwhy, hidle⟩ := ctxDie_dead (s := s.count 4) (n := (s.core k).task.ctx) whyError
    (by rwa [State.ctx_of_ctxs (s.count_ctxs 4)])
  exact ⟨_, e, hidle k (by rwa [hcore]) (by rw [hcore]), hdead, hwhy⟩

theorem memGet_zeroBlock (m : Mem) (b a : Nat) :
    memGet (memWrite m (1024 * b) (List.replicate 1024 0)) a = if a / 1024 = b then 0 else memGet m a := by
  by_cases h : a / 1024 = b
  · obtain ⟨i, hi, rfl⟩ : ∃ i, i < 1024 ∧ a = 1024 * b + i := ⟨a % 1024, Nat.mod_lt _ (by decide), by omega⟩
    rw [if_pos h, memGet_memWrite_in _ _ _ _ (by rwa [List.length_replicate]), List.getD_eq_getElem?_getD, List.getElem?_replicate,
      if_pos hi, Option.getD_some]
  · rw [if_neg h, memGet_memWrite_out _ _ _ _ (by rw [List.length_replicate]; omega)]

/-- A block of a core zeroed, of its register space or of its scratch (R354). -/
theorem Core.setBlock_zero (c : Core) (b : Nat) : ∃ mem, c.setBlock b (List.replicate 1024 0) =
      (if b < 32 then { c with regs := mem } else { c with scratch := mem }) ∧
    ∀ a, memGet mem a = if a / 1024 = (if b < 32 then b else b - 32) then 0 else memGet (if b < 32 then c.regs else c.scratch) a := by
  unfold Core.setBlock
  by_cases h : b < 32
  · exact ⟨memWrite c.regs (1024 * b) (List.replicate 1024 0), by rw [if_pos h, if_pos h], fun a => by
      rw [if_pos h, if_pos h, memGet_zeroBlock]⟩
  · exact ⟨memWrite c.scratch (1024 * (b - 32)) (List.replicate 1024 0), by rw [if_neg h, if_neg h], fun a => by
      rw [if_neg h, if_neg h, memGet_zeroBlock]⟩

/-- The block of a core without a task is zeroed, and the error logged. -/
theorem exec_sramError_idle {k : CoreId} {block : Nat} (hb : block < 672) (hr : (s.core k).run = .idle) :
    ∃ t mem, exec (.storageError (.coreSram k block) false) s = .next t ∧ t.fleet.logHead = s.fleet.logHead + 1 ∧
      t.fleet.cnt[4] = s.fleet.cnt[4] + s.counted ∧ t.dram = s.dram ∧ (∀ j, j ≠ k → t.core j = s.core j) ∧
      t.core k = (if block < 32 then { s.core k with regs := mem } else { s.core k with scratch := mem }) ∧
      ∀ a, memGet mem a = if a / 1024 = (if block < 32 then block else block - 32) then 0
        else memGet (if block < 32 then (s.core k).regs else (s.core k).scratch) a := by
  have hcore : ∀ j, (s.count 4).core j = s.core j := State.core_of_cores (s.count_cores 4)
  obtain ⟨mem, hset, hmem⟩ := (s.core k).setBlock_zero block
  have e : exec (.storageError (.coreSram k block) false) s = .next (((s.count 4).setCore k
      ((s.core k).setBlock block (List.replicate 1024 0))).logEntry 2 blkSram none k.toNat block) := by
    change Host.Outcome.next (coreError (s.count 4) k block) = _
    unfold coreError
    rw [if_neg (by omega), State.modCore, hcore, if_neg (by rw [hr]; decide)]
  generalize (s.core k).setBlock block (List.replicate 1024 0) = c at e hset
  rw [e]
  have hlog := State.core_of_cores (((s.count 4).setCore k c).logEntry_cores 2 blkSram none k.toNat block)
  refine ⟨_, mem, rfl, by simp, by simp, by simp, fun j hj => ?_, ?_, hmem⟩
  · rw [hlog, State.core_setCore_ne _ _ hj, hcore]
  · rw [hlog, State.core_setCore, hset]

/-- What a parity failure discards of a core: an entry of its TLB, or its loop buffer, or a line of its instruction cache. -/
theorem discardCached_eq (k : CoreId) : ∃ (l : List Trans) (r : Option LoopRun), discardCached s k =
      { s.setCore k { s.core k with tlb := l, loopRun := r } with seq := s.seq + 1 } ∧ (∀ x ∈ l, x ∈ (s.core k).tlb) ∧
    r.map (fun r => { r with buf := none }) = (s.core k).loopRun.map fun r => { r with buf := none } := by
  unfold discardCached
  extract_lets c d
  have hd : ∃ (l : List Trans) (r : Option LoopRun), d = { c with tlb := l, loopRun := r } ∧ (∀ x ∈ l, x ∈ c.tlb) ∧
      r.map (fun r => { r with buf := none }) = c.loopRun.map fun r => { r with buf := none } := by
    unfold d
    split
    · exact ⟨_, c.loopRun, rfl, fun x hx => List.mem_of_mem_eraseIdx hx, rfl⟩
    · refine ⟨c.tlb, _, rfl, fun x hx => hx, ?_⟩
      rw [Option.map_map]
      rfl
    · exact ⟨c.tlb, c.loopRun, rfl, fun x hx => hx, rfl⟩
  obtain ⟨l, r, hd, hl, hr⟩ := hd
  exact ⟨l, r, congrArg (fun x => ({ s.setCore k x with seq := s.seq + 1 } : State)) hd, hl, hr⟩

end

end Sys2Proof.Machine
end
section
/-! SUPPORT. The clauses of the register window (R284, R285, R360) and of errors that are counted and logged alone (R372), each as the
host meets it. -/

namespace Sys2Proof.Machine

/-! ## Errors that are counted and logged (R372) -/

section
variable (s : State)

/-- A cached entry that fails is discarded, and counts as corrected. -/
theorem exec_coreCacheError (k : CoreId) (b : Bool) : exec (.storageError (.coreCache k) b) s =
    .next (corrected (discardCached s k) (some 3) blkSram k.toNat) := by
  cases b <;> rfl

theorem exec_coreCacheError_discards (k : CoreId) (b : Bool) : ∃ t, exec (.storageError (.coreCache k) b) s = .next t ∧
    t.fleet.cnt[3] = s.fleet.cnt[3] + s.counted ∧ t.fleet.logHead = s.fleet.logHead + 1 ∧ t.dram = s.dram ∧
    (∀ x ∈ (t.core k).tlb, x ∈ (s.core k).tlb) ∧
    (t.core k).loopRun.map (fun r => { r with buf := none }) = (s.core k).loopRun.map (fun r => { r with buf := none }) ∧
    t.core k = { s.core k with tlb := (t.core k).tlb, loopRun := (t.core k).loopRun } ∧ ∀ j, j ≠ k → t.core j = s.core j := by
  obtain ⟨l, r, e, hl, hr⟩ := discardCached_eq s k
  rw [exec_coreCacheError, e]
  generalize hx : ({ s.core k with tlb := l, loopRun := r } : Core) = x
  generalize hu : ({ s.setCore k x with seq := s.seq + 1 } : State) = u
  have hcore : ∀ j, (corrected u (some 3) blkSram k.toNat).core j = (s.setCore k x).core j := fun j => by
    rw [State.core_of_cores (corrected_cores _ _ _ _), ← hu]
    rfl
  have hk : (corrected u (some 3) blkSram k.toNat).core k = x := by rw [hcore, State.core_setCore]
  have hf : u.fleet = s.fleet ∧ u.fw = s.fw ∧ u.dram = s.dram := by
    rw [← hu]
    exact ⟨rfl, rfl, rfl⟩
  obtain ⟨hf, hw, hd⟩ := hf
  refine ⟨_, rfl, ?_, ?_, ?_, ?_, ?_, ?_, fun j hj => ?_⟩
  · simp [State.counted, hf, hw]
  · simp [hf]
  · simp [hd]
  · rw [hk, ← hx]
    exact hl
  · rw [hk, ← hx]
    exact hr
  · rw [hk, ← hx]
  · rw [hcore, State.core_setCore_ne _ _ hj]

theorem exec_campTlbError (b : Bool) : exec (.storageError .campTlb b) s =
    .next (corrected (discardCampTlb s) (some 3) blkTrans 0) := by
  cases b <;> rfl

theorem exec_campTlbError_discards (b : Bool) : ∃ t, exec (.storageError .campTlb b) s = .next t ∧
    t.fleet.cnt[3] = s.fleet.cnt[3] + s.counted ∧ t.fleet.logHead = s.fleet.logHead + 1 ∧
    (∀ x ∈ t.vm.tlb, x ∈ s.vm.tlb) ∧ t.vm = { s.vm with tlb := t.vm.tlb } ∧ t.cores = s.cores ∧ t.dram = s.dram := by
  refine ⟨_, exec_campTlbError s b, ?_, ?_, ?_, ?_, ?_, ?_⟩
  · simp [State.counted, discardCampTlb]
  · simp [discardCampTlb]
  · rw [corrected_vm]
    exact fun x hx => List.mem_of_mem_eraseIdx hx
  · rw [corrected_vm]
    rfl
  · simp [discardCampTlb]
  · simp [discardCampTlb]

theorem exec_laneTableError (l : BitVec 8) (b : Bool) : exec (.storageError (.laneTable l) b) s =
    .next (corrected s (some 3) blkSram l.toNat) := by
  cases b <;> rfl

/-- Bit 5 of hlth.why says that the card has failed (R376). -/
theorem healthState_failed (h : s.fleet.hlthWhy.getLsbD 5 = true) : s.healthState = 2 := by
  have hw : s.healthWhy.testBit 5 = true := by
    rw [State.healthWhy, Nat.testBit_or, Nat.testBit_or, BitVec.testBit_toNat, h, Bool.true_or, Bool.true_or]
  rw [Nat.testBit_eq_decide_div_mod_eq, decide_eq_true_eq] at hw
  exact if_pos (by omega)

/-- One of base camp's own is fatal (R372, R376). -/
theorem exec_baseCampError_fatal : ∃ t, exec (.storageError .baseCamp false) s = .next t ∧
    t.fleet.cnt[4] = s.fleet.cnt[4] + s.counted ∧ t.fleet.logHead = s.fleet.logHead + 1 ∧
    t.fleet.hlthWhy.getLsbD 5 = true ∧ t.healthState = 2 ∧ t.cores = s.cores ∧ t.dram = s.dram := by
  have e : exec (.storageError .baseCamp false) s = .next ((s.count 4).logEntry 3 blkSram none 0 0) := rfl
  have h5 : ((s.count 4).logEntry 3 blkSram none 0 0).fleet.hlthWhy.getLsbD 5 = true := by
    rw [State.logEntry_hlthWhy, BitVec.getLsbD_or, Bool.or_eq_true]
    exact .inr (by decide)
  exact ⟨_, e, by simp, by simp, h5, healthState_failed _ h5, by simp, by simp⟩

end

/-! ## The register window -/

section
variable {s : State} {off : BitVec 24} {v : Word64}

/-- A write of a whole register that is served. -/
theorem exec_registerWrite_whole (h : s.fw.ready.getLsbD 0 = true) (ho : off.toNat % 8 = 0) :
    exec (.registerWrite off 8 v) s = .next (regWrite s off.toNat v) := by
  rw [exec_registerWrite h, windowWrite_whole ho]

/-- A write of a half of which no bit acts (R5). -/
theorem exec_registerWrite_readOnly (h : s.fw.ready.getLsbD 0 = true) (ho : off.toNat % 4 = 0)
    (hs : s.serves (off.toNat / 8 * 8) = true)
    (hm : bits (BitVec.ofNat 64 (actMask (off.toNat / 8 * 8))) (off.toNat % 8 * 8 + 31) (off.toNat % 8 * 8) = 0) :
    exec (.registerWrite off 4 v) s = .next s := by
  rw [exec_registerWrite h, windowWrite_readOnlyHalf ho hs hm]

/-- Which registers the scheduler serves (R285, R360). -/
theorem serves_sched {o : Nat} (hr : s.fw.ready.getLsbD 14 = true) (hv : s.fw.state = 2 → off.toNat / 8 * 8 < 0x1000)
    (ho : o = off.toNat / 8 * 8) (h : (0x10000 ≤ o ∧ o < 0x20000) ∨ (0x40000 ≤ o ∧ o < 0x80000)) : s.serves o = true := by
  rw [State.serves_iff]
  refine ⟨?_, fun h2 => ho ▸ hv h2⟩
  have e : readyOf o = 14 := by
    obtain ⟨h1, h2⟩ | ⟨h1, h2⟩ := h <;> simp (disch := omega) only [readyOf, if_pos, if_neg, readySch]
  rw [e]
  exact hr

/-- Which registers the firmware serves. -/
theorem serves_fw {o : Nat} (hr : s.fw.ready.getLsbD 1 = true) (hv : s.fw.state = 2 → off.toNat / 8 * 8 < 0x1000)
    (ho : o = off.toNat / 8 * 8) (h : 0x80000 ≤ o) : s.serves o = true := by
  rw [State.serves_iff]
  refine ⟨?_, fun h2 => ho ▸ hv h2⟩
  have e : readyOf o = 1 := by simp (disch := omega) only [readyOf, if_neg, readyFw]
  rw [e]
  exact hr

/-- A write of a whole register of the scheduler. -/
theorem exec_registerWrite_sched {o : Nat} {t : State} (h : s.fw.ready.getLsbD 0 = true) (hr : s.fw.ready.getLsbD 14 = true)
    (hv : s.fw.state = 2 → off.toNat / 8 * 8 < 0x1000) (ho : off.toNat = o) (h8 : o % 8 = 0)
    (hb : (0x10000 ≤ o ∧ o < 0x20000) ∨ (0x40000 ≤ o ∧ o < 0x80000)) (hw : s.serves o = true → regWrite s o v = t) :
    exec (.registerWrite off 8 v) s = .next t := by
  subst ho
  rw [exec_registerWrite_whole h h8, hw (serves_sched hr hv (by omega) hb)]

/-- A write of a whole register of the firmware. -/
theorem exec_registerWrite_fw {o : Nat} {t : State} (h : s.fw.ready.getLsbD 0 = true) (hr : s.fw.ready.getLsbD 1 = true)
    (hv : s.fw.state = 2 → off.toNat / 8 * 8 < 0x1000) (ho : off.toNat = o) (h8 : o % 8 = 0) (hb : 0x80000 ≤ o)
    (hw : s.serves o = true → regWrite s o v = t) : exec (.registerWrite off 8 v) s = .next t := by
  subst ho
  rw [exec_registerWrite_whole h h8, hw (serves_fw hr hv (by omega) hb)]

end

end Sys2Proof.Machine

open Sys2Proof.Machine in
/-- Settles O55: an entry by the writes that it may lose, the steps by what they wait for, an evaluation die by die along the four, an
error by what its kind of storage leaves, and the window by the function that a register belongs to and the bits of which a write acts. -/
theorem fleetAndRegisters : Obligations.FleetAndRegisters := by
  intro m pa k block slot off size v n s
  refine ⟨exec_slpEnter, exec_slpEnter_refused, fun h => ⟨_, exec_slpWake h, rfl, rfl, rfl, rfl⟩, exec_slpWake_refused,
    exec_entryDrained_bivouac, exec_entryDrained_waitsForUpdate,
    fun h hi ht => ⟨_, exec_entryDrained_late h hi ht, entryAborts_aborted s⟩,
    exec_entryDrained_waits, fun h ht => ⟨_, exec_entryTimeout h ht, entryAborts_aborted s⟩, exec_entryTimeout_early,
    ⟨exec_wakeDone, exec_wakeDone_waits⟩, ⟨exec_powerEvaluation_not, exec_powerEvaluation_grants, fun hc => ?_⟩,
    ⟨exec_scrub_idle s, exec_scrub_clean s pa, fun h0 h => ⟨⟨_, exec_scrub_corrected s h0 h, ?_⟩, exec_scrub_poisons s h0 h⟩⟩,
    exec_dramError s pa, ⟨_, rfl, ?_⟩, exec_coreCacheError_discards s k, exec_sramError_running s, fun x h => exec_slotError s h,
    ⟨_, rfl, rfl, s.count_cores 4⟩, fun hb hr _ => exec_sramError_idle s hb hr, exec_campTlbError_discards s,
    fun l b => ⟨_, exec_laneTableError s l b, ?_⟩, ⟨_, rfl, ?_⟩, exec_baseCampError_fatal s,
    fun a => ⟨⟨_, rfl, ?_⟩, fun x h hd => exec_imageError s h hd⟩, ⟨_, rfl, ?_⟩, ⟨_, rfl, ?_⟩,
    exec_window_notReady, exec_window_misaligned, fun h hw hfn => exec_window_unserved h hw (hfn ∘ (State.serves_iff _ _).mp),
    fun h hw hfn ho => ?_, fun vec h hs ho hv _ => exec_registerWrite_msix h hs ho hv, fun c h hr hs => ⟨fun ho => ?_, fun ho => ?_⟩,
    fun h hr hs => ⟨fun ho => ?_, fun ho => ?_, fun ho => ?_, fun ho => ?_, fun ho => ?_, fun ho => ?_, fun ho h8 => ?_⟩,
    fun h hr hs => ⟨fun ho => ?_, fun ho => ?_⟩⟩
  · obtain ⟨t, e, hdram, hr, hd⟩ := exec_powerEvaluation_cuts hc
    refine ⟨t, e, hdram, fun i => ?_, fun d h hh => ?_⟩
    · rw [Bool.eq_iff_iff, hr]
      simp [Hot]
    · obtain ⟨hclk, hstop⟩ := hd d h hh
      exact ⟨hclk, fun j hj => hstop j ((dieOf_eq j).trans hj)⟩
  -- A correction adds one entry to the log, and one to its counter where it has one.
  iterate 7 · simp [State.counted]
  · exact (exec_registerWindowRead h).trans (congrArg _ (windowRead_served hw ((State.serves_iff _ _).mpr hfn) ho))
  · exact exec_registerWrite_readOnly h (by omega) (serves_sched hr hs rfl (by omega)) (ho ▸ cairnCounts_readOnly c)
  · exact exec_registerWrite_readOnly h (by omega) (serves_sched hr hs rfl (by omega)) (ho ▸ tailHigh_readOnly n)
  · exact exec_registerWrite_readOnly h (by omega) (serves_fw hr hs rfl (by omega)) (ho ▸ watchdogHigh_readOnly n)
  · exact exec_registerWrite_fw h hr hs ho (by omega) (by omega) regWrite_wdStop
  · exact exec_registerWrite_fw h hr hs ho (by omega) (by omega) regWrite_vmPkey
  · exact exec_registerWrite_fw h hr hs ho (by omega) (by omega) regWrite_wdTask
  · exact exec_registerWrite_fw h hr hs ho (by omega) (by omega) regWrite_cap
  · exact exec_registerWrite_fw h hr hs ho (by omega) (by omega) regWrite_logSev
  · exact exec_registerWrite_fw h hr hs rfl h8 (by omega) fun hs => regWrite_beyond hs ho
  · exact exec_registerWrite_sched h hr hs ho (by omega) (by omega) regWrite_sqBase
  · exact exec_registerWrite_sched h hr hs ho (by omega) (by omega) regWrite_pcap
end

section
/-! SUPPORT. Exact values (R51, R54, R55): what a sum of terms is, and that the one rounding leaves a value of the format as it is. -/

namespace Sys2Proof.Machine

/-! ## Formats -/

theorem Fmt.width_eq (f : Fmt) : f.width = f.ebits + f.frac + 1 := by cases f <;> rfl

theorem Fmt.sign_eq (f : Fmt) : f.sign = 2 ^ f.ebits * 2 ^ f.frac := by cases f <;> rfl


/-- A bit pattern is its sign, its exponent field and its fraction (R51). -/
theorem Fmt.bits_eq (f : Fmt) {x : Nat} (h : x < 2 ^ f.width) :
    (if (x / f.sign % 2 == 1) = true then f.sign else 0) + (x / 2 ^ f.frac % 2 ^ f.ebits * 2 ^ f.frac + x % 2 ^ f.frac) = x := by
  have hlow : x % f.sign = x / 2 ^ f.frac % 2 ^ f.ebits * 2 ^ f.frac + x % 2 ^ f.frac := by
    rw [f.sign_eq, Nat.mul_comm, Nat.mod_mul]; ring
  have hs : 0 < f.sign := by rw [f.sign_eq]; positivity
  have htop : x / f.sign < 2 := Nat.div_lt_of_lt_mul (by rw [f.width_eq] at h; rw [f.sign_eq]; rw [pow_succ, pow_add] at h; exact h)
  rw [← hlow]
  conv_rhs => rw [← Nat.div_add_mod x f.sign]
  obtain h0 | h1 : x / f.sign = 0 ∨ x / f.sign = 1 := Nat.le_one_iff_eq_zero_or_eq_one.mp (Nat.lt_succ_iff.mp htop)
  · simp [h0]
  · simp [h1]

section
variable (f : Fmt) {x : Nat}

theorem Fmt.decode_special (h : x / 2 ^ f.frac % 2 ^ f.ebits = 2 ^ f.ebits - 1) : f.decode x =
    if x % 2 ^ f.frac = 0 then .inf (x / f.sign % 2 == 1) else .nan (x % 2 ^ f.frac / 2 ^ (f.frac - 1) % 2 == 0) := if_pos h

theorem Fmt.decode_subnormal (h : x / 2 ^ f.frac % 2 ^ f.ebits = 0) :
    f.decode x = .fin (x / f.sign % 2 == 1) (x % 2 ^ f.frac) (1 - f.bias - f.frac) :=
  (if_neg (by rw [h]; cases f <;> decide)).trans (if_pos h)

theorem Fmt.decode_normal (h : x / 2 ^ f.frac % 2 ^ f.ebits ≠ 2 ^ f.ebits - 1) (h0 : x / 2 ^ f.frac % 2 ^ f.ebits ≠ 0) :
    f.decode x = .fin (x / f.sign % 2 == 1) (x % 2 ^ f.frac + 2 ^ f.frac)
      ((x / 2 ^ f.frac % 2 ^ f.ebits : Nat) - f.bias - f.frac) :=
  (if_neg h).trans (if_neg h0)

end

/-! ## Rounding -/

/-- A magnitude of at most `frac + 1` bits whose exponent is the one that a format would round it to is kept (R54). -/
theorem roundAbs_kept (f : Fmt) (tz neg : Bool) {q : Nat} {e : Int} (hq : q ≠ 0) (he : 1 - f.bias - f.frac ≤ e)
    (hlow : Nat.log2 q ≤ f.frac) (hat : 1 - f.bias - f.frac < e → Nat.log2 q = f.frac)
    (hinf : (e - (1 - f.bias - f.frac)).toNat * 2 ^ f.frac + q < f.inf)
    (hsub : f = .bf16 → 2 ^ f.frac ≤ (e - (1 - f.bias - f.frac)).toNat * 2 ^ f.frac + q) :
    roundAbs f tz neg q e false = ⟨(if neg then f.sign else 0) + ((e - (1 - f.bias - f.frac)).toNat * 2 ^ f.frac + q), 0⟩ := by
  have hqe : max ((Nat.log2 q : Int) + 1 - 1 + e - f.frac) (1 - f.bias - f.frac) = e := by
    rcases eq_or_lt_of_le he with h | h
    · omega
    · have := hat h; omega
  simp only [roundAbs, hq, ↓reduceIte, hqe, le_refl, sub_self, Int.toNat_zero, pow_zero, Nat.mul_one, Bool.and_false, Bool.false_eq_true, Nat.add_zero]
  rw [if_neg (by omega), if_neg (by rintro ⟨hf, -, h⟩; exact absurd (hsub hf) (by omega))]

/-! ## Sums of one and of two terms -/

theorem exactSum_single (neg : Bool) (m : Nat) (e : Int) :
    exactSum [.val neg m e] = .val (neg && m == 0) ((if neg then -1 else 1) * (m : Int)) e := by
  simp [exactSum]

theorem exactSum_pair_comm (a b : Term) : exactSum [a, b] = exactSum [b, a] := by
  cases a <;> cases b <;> simp [exactSum, Bool.or_comm, Bool.and_comm, min_comm, add_comm]

/-- What a format change gives for a finite value: its one rounding, and zero with its sign (R54, R60). -/
theorem fpToFp_fin (tz : Bool) (f : Fmt) (neg : Bool) (m : Nat) (e : Int) : fpToFp tz f (.fin neg m e) =
    if m = 0 then ⟨if neg then f.sign else 0, 0⟩ else roundAbs f tz neg m e false := by
  have hterm : (Fp.fin neg m e).term = .val neg m e := by simp [Fp.term, prod, Fp.isNan, Fp.isInf, Fp.neg]
  rw [fpToFp, hterm, exactSum_single]
  by_cases hm : m = 0
  · simp [roundExact, hm]
  · have : 0 < m := Nat.pos_of_ne_zero hm
    have hneg : decide ((if neg then -1 else 1) * (m : Int) < 0) = neg := by cases neg <;> simp; omega
    have habs : ((if neg then -1 else 1) * (m : Int)).natAbs = m := by cases neg <;> simp
    simp only [roundExact, ↓reduceIte, hneg, habs, if_neg hm]
    rw [if_neg (by cases neg <;> simpa using hm)]

theorem fpToFp_inf (tz : Bool) (f : Fmt) (neg : Bool) :
    fpToFp tz f (.inf neg) = ⟨(if neg then f.sign else 0) + f.inf, 0⟩ := by
  cases neg <;> simp [fpToFp, Fp.term, prod, Fp.isNan, Fp.isInf, Fp.isZero, Fp.neg, exactSum, roundExact]

/-! ## A format's own values round to themselves -/

/-- Subnormals and zeros (R52). -/
theorem fpToFp_subnormal (tz : Bool) (f : Fmt) (neg : Bool) {fr : Nat} (h : fr < 2 ^ f.frac) (hb : f = .bf16 → fr = 0) :
    fpToFp tz f (.fin neg fr (1 - f.bias - f.frac)) = ⟨(if neg then f.sign else 0) + fr, 0⟩ := by
  rw [fpToFp_fin]
  split
  · next h0 => simp [h0]
  · next h0 =>
    have hlog : Nat.log2 fr < f.frac := (Nat.log2_lt h0).mpr h
    have hinf : 2 ^ f.frac ≤ f.inf := Nat.le_mul_of_pos_left _ (by cases f <;> decide)
    rw [roundAbs_kept f tz neg h0 le_rfl hlog.le (fun hlt => absurd hlt (lt_irrefl _)) (by simpa using lt_of_lt_of_le h hinf)
      (fun hf => absurd (hb hf) h0)]
    simp

theorem fpToFp_normal (tz : Bool) (f : Fmt) (neg : Bool) {ex fr : Nat} (hpos : 0 < ex) (hex : ex < 2 ^ f.ebits - 1)
    (h : fr < 2 ^ f.frac) : fpToFp tz f (.fin neg (fr + 2 ^ f.frac) (ex - f.bias - f.frac)) =
      ⟨(if neg then f.sign else 0) + (ex * 2 ^ f.frac + fr), 0⟩ := by
  have hlog : Nat.log2 (fr + 2 ^ f.frac) = f.frac :=
    (Nat.log2_eq_iff (by positivity)).mpr ⟨by omega, by rw [pow_succ]; omega⟩
  have hexp : (((ex : Int) - f.bias - f.frac) - (1 - f.bias - f.frac)).toNat = ex - 1 := by omega
  have hmag : (ex - 1) * 2 ^ f.frac + (fr + 2 ^ f.frac) = ex * 2 ^ f.frac + fr := by
    obtain ⟨k, rfl⟩ : ∃ k, ex = k + 1 := ⟨ex - 1, by omega⟩
    rw [Nat.add_sub_cancel]; ring
  have hinf : ex * 2 ^ f.frac + fr < f.inf := calc
    ex * 2 ^ f.frac + fr < (ex + 1) * 2 ^ f.frac := by rw [Nat.succ_mul]; omega
    _ ≤ f.inf := Nat.mul_le_mul_right _ hex
  have hsub : 2 ^ f.frac ≤ ex * 2 ^ f.frac + fr := le_trans (Nat.le_mul_of_pos_left _ hpos) (Nat.le_add_right _ _)
  rw [fpToFp_fin, if_neg (by positivity), roundAbs_kept f tz neg (by positivity) (by omega) hlog.le (fun _ => hlog)
    (by rw [hexp, hmag]; exact hinf) (fun _ => by rw [hexp, hmag]; exact hsub), hexp, hmag]

theorem fpToFp_decode (f : Fmt) (tz : Bool) {x : Nat} (hx : x < 2 ^ f.width) (hn : (f.decode x).isNan = false)
    (hb : f = .bf16 → x % 2 ^ f.frac = 0 ∨ x / 2 ^ f.frac % 2 ^ f.ebits ≠ 0) : fpToFp tz f (f.decode x) = ⟨x, 0⟩ := by
  have hfr : x % 2 ^ f.frac < 2 ^ f.frac := Nat.mod_lt _ (by positivity)
  have hex : x / 2 ^ f.frac % 2 ^ f.ebits < 2 ^ f.ebits := Nat.mod_lt _ (by positivity)
  have hbits := f.bits_eq hx
  by_cases htop : x / 2 ^ f.frac % 2 ^ f.ebits = 2 ^ f.ebits - 1
  · rw [f.decode_special htop] at hn ⊢
    by_cases h0 : x % 2 ^ f.frac = 0
    · rw [if_pos h0, fpToFp_inf]
      rw [h0, htop] at hbits
      exact congrArg (Rnd.mk · 0) hbits
    · rw [if_neg h0] at hn
      exact absurd hn Bool.noConfusion
  · by_cases h0 : x / 2 ^ f.frac % 2 ^ f.ebits = 0
    · rw [f.decode_subnormal h0, fpToFp_subnormal tz f _ hfr fun hf => (hb hf).resolve_right (fun h => h h0)]
      rw [h0, Nat.zero_mul, Nat.zero_add] at hbits
      exact congrArg (Rnd.mk · 0) hbits
    · rw [f.decode_normal htop h0, fpToFp_normal tz f _ (Nat.pos_of_ne_zero h0) (by omega) hfr]
      exact congrArg (Rnd.mk · 0) hbits

end Sys2Proof.Machine

open Sys2Proof.Machine in
/-- Settles O40: a value of the format has its fraction in place for the exponent the rounding picks, so nothing is shifted out; and the
exact sum of two terms is symmetric. -/
theorem roundingKeepsExactValues : Obligations.RoundingKeepsExactValues :=
  ⟨fun f tz _ hx hn hb => fpToFp_decode f tz hx hn hb, fun f x y => by rw [rsum, exactSum_pair_comm, rsum]⟩
end

section
/-! SUPPORT. Two's complement numbers, the nearest integer to a fraction, and what an atomic makes of its unit (R67, R68, R137, R162). -/

namespace Sys2Proof.Machine

open Sys2Proof.Claims

/-! ## Numbers -/

theorem sext_eq_toInt (n v : Nat) : sext n v = (BitVec.ofNat n v).toInt := by
  simp [sext, BitVec.toInt]

theorem wrapInt_cast (w : Nat) (v : Int) : (wrapInt w v : Int) = v % 2 ^ w :=
  Int.toNat_of_nonneg (Int.emod_nonneg v (by positivity))

theorem wrapInt_lt (w : Nat) (v : Int) : wrapInt w v < 2 ^ w := by
  have := Int.emod_lt_of_pos v (show (0 : Int) < 2 ^ w by positivity)
  rw [← wrapInt_cast] at this
  exact_mod_cast this

/-! ## Rounding a fraction to an integer (R8) -/

/-- The integer nearest to `n / d`, ties to the even one. -/
def nearest (n d : Nat) : Nat :=
  if d < 2 * (n % d) ∨ 2 * (n % d) = d ∧ n / d % 2 = 1 then n / d + 1 else n / d

/-- It is within half of the fraction, and even where it is exactly half away. -/
theorem nearest_spec (n : Nat) {d : Nat} (hd : 0 < d) : 2 * (nearest n d * d) ≤ 2 * n + d ∧ 2 * n ≤ 2 * (nearest n d * d) + d ∧
    (2 * (nearest n d * d) = 2 * n + d ∨ 2 * n = 2 * (nearest n d * d) + d → nearest n d % 2 = 0) := by
  have hn := Nat.div_add_mod n d
  have hr := Nat.mod_lt n hd
  unfold nearest
  split
  · rw [Nat.add_mul, Nat.one_mul, Nat.mul_comm (n / d)]
    omega
  · rw [Nat.mul_comm (n / d)]
    omega

theorem roundInt_nearest (neg : Bool) (num den : Nat) (e : Int) : (roundInt false neg num den e).1 =
    (if neg then -1 else 1) * (nearest (num * 2 ^ e.toNat) (den * 2 ^ (-e).toNat) : Int) := by
  have hn : (if 0 ≤ e then num * 2 ^ e.toNat else num) = num * 2 ^ e.toNat := by
    split
    · rfl
    · next h => rw [Int.toNat_of_nonpos (by omega), pow_zero, Nat.mul_one]
  have hd : (if 0 ≤ e then den else den * 2 ^ (-e).toNat) = den * 2 ^ (-e).toNat := by
    split
    · next h => rw [Int.toNat_of_nonpos (by omega), pow_zero, Nat.mul_one]
    · rfl
  unfold roundInt nearest
  simp only [hn, hd, Bool.not_false, Bool.true_and, Bool.or_eq_true, Bool.and_eq_true, decide_eq_true_eq, beq_iff_eq]
  cases neg
  · simp
  · simp only [↓reduceIte]
    split <;> push_cast <;> ring

theorem nearest_one (n : Nat) : nearest n 1 = n := by simp [nearest, Nat.mod_one]

/-! ## Cells (R67, R68) -/

theorem cellAdd_sum (v x : Nat) : CellSum v x (cellAdd v x).1 (cellAdd v x).2 := by
  unfold CellSum cellAdd
  cases hx : Fmt.fp32.decode x with
  | nan b => exact ⟨rfl, rfl⟩
  | inf neg => exact ⟨by rw [wrapInt_cast]; cases neg <;> rfl, rfl⟩
  | fin neg m e =>
    dsimp only
    by_cases hbig : 0 ≤ e ∧ 2 ^ 48 < m * 2 ^ e.toNat
    · have hb : (decide (2 ^ 48 < m * 2 ^ e.toNat) && decide (0 ≤ e)) = true := by rw [decide_eq_true hbig.1, decide_eq_true hbig.2]; rfl
      rw [if_pos hbig, if_pos hb]
      exact ⟨wrapInt_cast _ _, rfl⟩
    · have hb : ¬(decide (2 ^ 48 < m * 2 ^ e.toNat) && decide (0 ≤ e)) = true := by
        rw [Bool.and_eq_true, decide_eq_true_eq, decide_eq_true_eq]
        exact fun h => hbig h.symm
      rw [if_neg hbig, if_neg hb, roundInt_nearest]
      split
      · next he =>
        rw [Int.toNat_of_nonpos (by omega : -(e + 48) ≤ 0), pow_zero, Nat.mul_one, nearest_one]
        refine ⟨?_, rfl⟩
        rw [wrapInt_cast]
        push_cast
        rw [mul_assoc]
      · next he =>
        refine ⟨nearest m (2 ^ (-(e + 48)).toNat), ?_, rfl, ?_⟩
        · rw [Int.toNat_of_nonpos (by omega : e + 48 ≤ 0), pow_zero, Nat.mul_one, Nat.one_mul, wrapInt_cast]
        · obtain ⟨hle, hge, htie⟩ := nearest_spec m (Nat.two_pow_pos (-(e + 48)).toNat)
          simp only [Nat.mul_assoc]
          exact ⟨hle, hge, htie⟩

theorem cellAdd_lt {v : Nat} (x : Nat) (h : v < 2 ^ 128) : (cellAdd v x).1 < 2 ^ 128 := by
  unfold cellAdd
  cases Fmt.fp32.decode x with
  | nan b => exact h
  | inf neg => exact wrapInt_lt _ _
  | fin neg m e =>
    dsimp only
    split <;> exact wrapInt_lt _ _

theorem prod_fin (neg : Bool) (m : Nat) (e : Int) : prod [.fin neg m e] = .val neg m e := by
  simp [prod, Fp.isNan, Fp.isInf, Fp.neg]

theorem cellAdd_status_le (v x : Nat) : (cellAdd v x).2 ≤ 2 := by
  unfold cellAdd
  cases Fmt.fp32.decode x with
  | nan b => exact le_rfl
  | inf neg => exact Nat.le_succ 1
  | fin neg m e =>
    dsimp only
    split
    · exact Nat.le_succ 1
    · exact Nat.zero_le 2

theorem cellFp32_eq (v : Nat) : cellFp32 v =
    let x := (BitVec.ofNat 128 v).toInt
    (rsum .fp32 [prod [.fin (decide (x < 0)) x.natAbs (-48)]]).bits := by
  have hr := fpToFp_fin false .fp32 (decide (sext 128 v < 0)) (sext 128 v).natAbs (-48)
  dsimp only
  rw [← sext_eq_toInt, cellFp32, rsum]
  rw [fpToFp, Fp.term] at hr
  rw [hr]
  split
  · next h0 => simp [roundAbs, Int.natAbs_eq_zero.mp h0]
  · rfl

/-! ## The step of an atomic (R162) -/

theorem atomStep_value (aop n v cmp old : Nat) : AtomValue aop n v cmp old (atomStep aop n v cmp old).1 (atomStep aop n v cmp old).2 := by
  refine ⟨fun h => ?_, ?_, ?_, ?_, ?_, ?_, ?_, ?_, ?_, ?_, ?_, ?_, ?_⟩
  · rw [atomStep, if_neg (by omega), if_neg (by omega)]
  iterate 4 · rintro rfl; rfl
  · rintro rfl
    simp only [← sext_eq_toInt]
    rfl
  · rintro rfl
    simp only [← sext_eq_toInt]
    rfl
  · rintro rfl
    refine congrArg some ?_
    rw [Nat.min_comm, Nat.min_def]
    split <;> split <;> omega
  · rintro rfl
    refine congrArg some ?_
    rw [Nat.max_def]
    split <;> split <;> omega
  iterate 2 · rintro rfl; rfl
  · rintro rfl
    exact ⟨_, rfl, cellAdd_sum old (v % 2 ^ 32)⟩
  · rintro rfl
    refine ⟨rfl, ?_⟩
    dsimp only
    rw [← cellFp32_eq]
    rfl

/-! ## Their sizes -/

theorem roundAbs_lt (f : Fmt) (tz neg : Bool) (q : Nat) (e : Int) (sticky : Bool) : (roundAbs f tz neg q e sticky).bits < 2 ^ f.width := by
  have hs : f.sign + f.inf < 2 ^ f.width := by cases f <;> decide
  simp only [roundAbs, apply_ite Rnd.bits]
  split_ifs <;> omega

theorem cellFp32_lt (v : Nat) : cellFp32 v < 2 ^ 32 := roundAbs_lt .fp32 _ _ _ _ _

theorem atomStep_new_lt {aop n v cmp old x : Nat} (hn : aop = 10 → n = 16) (ho : old < 2 ^ (8 * n))
    (h : (atomStep aop n v cmp old).1 = some x) : x < 2 ^ (8 * n) := by
  have hv : v % 2 ^ (8 * n) < 2 ^ (8 * n) := Nat.mod_lt _ (by positivity)
  unfold atomStep at h
  split at h
  · next h10 =>
    rw [hn h10] at ho ⊢
    exact Option.some.inj h ▸ cellAdd_lt _ ho
  · split at h
    · exact absurd h (by simp)
    · dsimp only at h
      cases hop : atomOp aop <;> rw [hop] at h <;> simp only [AtomOp.result] at h
      case cas =>
        split at h
        · exact Option.some.inj h ▸ hv
        · exact absurd h (by simp)
      all_goals rw [← Option.some.inj h]
      case add => exact Nat.mod_lt _ (by positivity)
      case and => exact lt_of_le_of_lt Nat.and_le_left ho
      case or => exact Nat.or_lt_two_pow ho hv
      case xor => exact Nat.xor_lt_two_pow ho hv
      case swap => exact hv
      all_goals split <;> assumption

theorem atomStep_result_lt {aop n v cmp old : Nat} (ha : aop ≤ 11) (hn : n ≤ if 10 ≤ aop then 16 else 8) (ho : old < 2 ^ (8 * n)) :
    (atomStep aop n v cmp old).2 < 2 ^ (8 * resultSize aop v) := by
  have hsize : 8 ≤ resultSize aop v := by unfold resultSize; split <;> decide
  have hpow : 2 ^ 64 ≤ 2 ^ (8 * resultSize aop v) := Nat.pow_le_pow_right (by decide) (by omega)
  unfold atomStep
  split
  · have hstatus := cellAdd_status_le old (v % 2 ^ 32)
    dsimp only
    omega
  · split
    · next h11 =>
      dsimp only
      split
      · next hv =>
        rw [if_pos (by omega)] at hn
        rw [resultSize, if_pos ⟨h11, hv⟩]
        exact lt_of_lt_of_le ho (Nat.pow_le_pow_right (by decide) (by omega))
      · have hbits := cellFp32_lt old
        omega
    · rw [if_neg (by omega)] at hn
      exact lt_of_lt_of_le ho (le_trans (Nat.pow_le_pow_right (by decide) (by omega)) hpow)

/-! ## The end of an atomic -/

/-- What an atomic leaves on its core besides its tag: its result where it has an address, and its release (R90). -/
def Core.atomTakes (c : Core) (ord scope : Nat) (res : Option Nat) (result : List Byte) : Core :=
  let c := match res with | some a => c.writeScratch a result | none => c
  if 2 ≤ ord then c.release (BitVec.ofNat 3 scope) else c

section
variable (c : Core) (ord scope : Nat) (res : Option Nat) (result : List Byte)

theorem Core.atomTakes_scratch : (c.atomTakes ord scope res result).scratch =
    match res with | some a => memWrite c.scratch a result | none => c.scratch := by
  unfold Core.atomTakes
  cases res <;> dsimp only <;> split <;> rfl

theorem Core.atomTakes_ivl : (c.atomTakes ord scope res result).ivl = if 2 ≤ ord then c.ivl + 1 else c.ivl := by
  unfold Core.atomTakes
  cases res <;> dsimp only <;> split <;> rfl

end

@[simp] theorem State.core_modCore (s : State) (k : CoreId) (f : Core → Core) : (s.modCore k f).core k = f (s.core k) :=
  State.core_setCore s k _

theorem State.core_modCore_ne (s : State) {k j : CoreId} (f : Core → Core) (h : j ≠ k) : (s.modCore k f).core j = s.core j :=
  State.core_setCore_ne s _ h

@[simp] theorem Core.tag_setTag (c : Core) (n : Nat) (t : Option Tag) : (c.setTag n t).tag n = t := tabGet_tabSet_same none _ _ _

theorem atomDurable_same (s : State) (k : CoreId) (t : Tag) (scope ord : Nat) :
    (atomDurable s k t scope ord).cores = s.cores ∧ (atomDurable s k t scope ord).dram = s.dram := by
  unfold atomDurable State.makeDurable
  split
  · split <;> exact ⟨rfl, rfl⟩
  · exact ⟨rfl, rfl⟩

section
variable {s : State} {k : CoreId} {n : Nat} {t : Tag} {aop sz scope ord v cmp : Nat} {res : Option Nat} {result : Nat}
variable (hw : t.what = .atom aop sz scope ord v cmp res) (ht : t.t = false)
include hw ht

theorem atomEnd_eq : atomEnd s k n t result =
    ((atomDurable s k t scope ord).modCore k (·.atomTakes ord scope res (toBytes (resultSize aop v) result))).modCore k
      (·.setTag n (some { t with moved := t.what.total, phase := .finished, todo := [] })) := by
  unfold atomEnd
  rw [hw]
  simp only [arriveAt, ht, Bool.not_false, ↓reduceIte]
  rfl

theorem atomEnd_core : (atomEnd s k n t result).core k =
    ((s.core k).atomTakes ord scope res (toBytes (resultSize aop v) result)).setTag n
      (some { t with moved := t.what.total, phase := .finished, todo := [] }) := by
  rw [atomEnd_eq hw ht, State.core_modCore, State.core_modCore, State.core_of_cores (atomDurable_same s k t scope ord).1]

theorem atomEnd_core_ne {j : CoreId} (hj : j ≠ k) : (atomEnd s k n t result).core j = s.core j := by
  rw [atomEnd_eq hw ht, State.core_modCore_ne _ _ hj, State.core_modCore_ne _ _ hj,
    State.core_of_cores (atomDurable_same s k t scope ord).1]

theorem atomEnd_dram : (atomEnd s k n t result).dram = s.dram := by
  rw [atomEnd_eq hw ht]
  exact (atomDurable_same s k t scope ord).2

theorem atomEnd_finished : ∃ t', ((atomEnd s k n t result).core k).tag n = some t' ∧ t'.phase = .finished := by
  rw [atomEnd_core hw ht, Core.tag_setTag]
  exact ⟨_, rfl, rfl⟩

theorem atomEnd_ivl : ((atomEnd s k n t result).core k).ivl = if 2 ≤ ord then (s.core k).ivl + 1 else (s.core k).ivl := by
  rw [atomEnd_core hw ht]
  exact Core.atomTakes_ivl _ _ _ _ _

theorem atomEnd_result (hr : result < 2 ^ (8 * resultSize aop v)) (d : Nat) (hd : res = some d) :
    memNat ((atomEnd s k n t result).core k).scratch d (resultSize aop v) = result := by
  rw [atomEnd_core hw ht]
  show memNat (Core.atomTakes _ _ _ _ _).scratch d _ = _
  rw [Core.atomTakes_scratch, hd, memNat_memWrite_same, show (256 : Nat) = 2 ^ 8 from rfl, ← pow_mul, Nat.mod_eq_of_lt hr]

/-- The result's bytes are all that an end writes of any scratch. -/
theorem atomEnd_outside (j : CoreId) (y : Nat) (hy : ∀ d, res = some d → j = k → y < d ∨ d + resultSize aop v ≤ y) :
    memGet ((atomEnd s k n t result).core j).scratch y = memGet (s.core j).scratch y := by
  by_cases hj : j = k
  · subst hj
    rw [atomEnd_core hw ht]
    show memGet (Core.atomTakes _ _ _ _ _).scratch y = _
    rw [Core.atomTakes_scratch]
    cases res with
    | none => rfl
    | some d => exact memGet_memWrite_out _ _ _ _ (by rw [toBytes_length]; exact hy d rfl rfl)
  · rw [atomEnd_core_ne hw ht hj]

end

theorem memRead_congr {m m' : Mem} : ∀ (a n : Nat), (∀ y, a ≤ y → y < a + n → memGet m y = memGet m' y) → memRead m a n = memRead m' a n
  | _, 0, _ => rfl
  | a, n + 1, h => by
    rw [memRead, memRead, h a le_rfl (by omega), memRead_congr (a + 1) n fun y h1 h2 => h y (by omega) (by omega)]

theorem memNat_congr {m m' : Mem} {a n : Nat} (h : ∀ y, a ≤ y → y < a + n → memGet m y = memGet m' y) : memNat m a n = memNat m' a n :=
  congrArg ofBytes (memRead_congr a n h)

/-! ## The unit of an atomic: in scratch, in device memory -/

theorem scratchCheck_plain {s : State} {k c : CoreId} {a n : Nat} (hn : 0 < n) (ha : a + n ≤ 0x40000)
    (hc : c = k ∨ ((s.core c).run = .running ∧ (s.core c).task.ctx = (s.core k).task.ctx)) :
    scratchCheck s k c a [⟨0, 0, n⟩] = none := by
  have hextent : (s.core c).extent a n = none := by rw [Core.extent, region_plain (by omega)]; exact if_pos ha
  have hown : (c ≠ k && !(s.core c).runsFor (s.core k).task.ctx) = false := by
    rcases hc with rfl | ⟨hrun, hctx⟩
    · simp
    · simp [Core.runsFor, hrun, hctx]
  have hhull : hull [⟨0, 0, n⟩] = (0, (n : Int)) := by simp [hull]
  simp only [scratchCheck, hhull, add_zero, sub_zero, Int.toNat_natCast, hextent, hown]
  rw [if_neg (by omega)]
  rfl

/-- An extent in no region of the race detector is not recorded (R98). -/
theorem raceAccess_unwatched {s : State} {n : CtxId} (h : unwatched s n) (b : Agent) (va len : Nat) (wr : Bool) (rsc : Nat) (f : Bool) :
    (raceAccess s n b va len wr rsc f).1 = s := by
  have hwatch (a : Nat) : (s.ctx n).watch a = none := by
    refine List.find?_eq_none.mpr fun i hi => ?_
    have hoff := h (i % 4) (Nat.mod_lt _ (by decide))
    simp only [bit_eq_getLsbD, hoff, Bool.false_and, Bool.false_eq_true, not_false_eq_true]
  have hsector (a : Nat) : raceSector s n b a wr rsc f = (s, false) := by simp only [raceSector, hwatch]
  exact congrArg Prod.fst (List.foldl_fixed' (fun a => by simp only [hsector]; rfl) _)

theorem countMove_same (s : State) (k : CoreId) (die va len : Nat) :
    (countMove s k die va len).cores = s.cores ∧ (countMove s k die va len).dram = s.dram := by
  unfold countMove
  split
  · exact ⟨rfl, rfl⟩
  · dsimp only
    split <;> exact ⟨rfl, rfl⟩

/-- A unit of a core's scratch that takes a new value, where there is one. -/
def State.putUnit (s : State) (c : CoreId) (a sz : Nat) (new : Option Nat) : State :=
  match new with
  | some w => s.modCore c fun x => x.writeScratch a (toBytes sz w)
  | none => s

/-- A unit of device memory that takes a new value, where there is one. -/
def State.putDeviceUnit (s : State) (who : Writer) (pa sz : Nat) (new : Option Nat) : State :=
  match new with
  | some w => s.writePhysBy who pa (toBytes sz w)
  | none => s

section
variable {s : State} {c : CoreId} {a sz : Nat} {new : Option Nat}

theorem putUnit_dram : (s.putUnit c a sz new).dram = s.dram := by cases new <;> rfl

theorem putUnit_ivl (j : CoreId) : ((s.putUnit c a sz new).core j).ivl = (s.core j).ivl := by
  cases new with
  | none => rfl
  | some w =>
    show ((s.modCore c _).core j).ivl = _
    by_cases hj : j = c
    · subst hj
      rw [State.core_modCore]
      rfl
    · rw [State.core_modCore_ne s _ hj]

theorem putUnit_unit (h : ∀ w, new = some w → w < 2 ^ (8 * sz)) :
    memNat ((s.putUnit c a sz new).core c).scratch a sz = new.getD (memNat (s.core c).scratch a sz) := by
  cases new with
  | none => rfl
  | some w =>
    show memNat ((s.modCore c _).core c).scratch a sz = w
    rw [State.core_modCore, Core.writeScratch, memNat_memWrite_same, show (256 : Nat) = 2 ^ 8 from rfl, ← pow_mul,
      Nat.mod_eq_of_lt (h w rfl)]

theorem putUnit_outside (j : CoreId) (y : Nat) (h : j = c → y < a ∨ a + sz ≤ y) :
    memGet ((s.putUnit c a sz new).core j).scratch y = memGet (s.core j).scratch y := by
  cases new with
  | none => rfl
  | some w =>
    show memGet ((s.modCore c _).core j).scratch y = _
    by_cases hj : j = c
    · subst hj
      rw [State.core_modCore]
      exact memGet_memWrite_out _ _ _ _ (by rw [toBytes_length]; exact h rfl)
    · rw [State.core_modCore_ne s _ hj]

variable {who : Writer}

theorem putDeviceUnit_cores : (s.putDeviceUnit who a sz new).cores = s.cores := by cases new <;> rfl

theorem putDeviceUnit_unit (h : ∀ w, new = some w → w < 2 ^ (8 * sz)) :
    memNat (s.putDeviceUnit who a sz new).dram a sz = new.getD (memNat s.dram a sz) := by
  cases new with
  | none => rfl
  | some w =>
    show memNat (memWrite s.dram a _) a sz = w
    rw [memNat_memWrite_same, show (256 : Nat) = 2 ^ 8 from rfl, ← pow_mul, Nat.mod_eq_of_lt (h w rfl)]

theorem putDeviceUnit_outside (y : Nat) (h : y < a ∨ a + sz ≤ y) :
    memGet (s.putDeviceUnit who a sz new).dram y = memGet s.dram y := by
  cases new with
  | none => rfl
  | some w => exact memGet_memWrite_out _ _ _ _ (by rw [toBytes_length]; exact h)

end

/-! ## ATOM_PERFORM (R92) -/

section
variable {s : State} {k : CoreId} {n : BitVec 7} {t : Tag} {aop sz scope ord v cmp : Nat} {res : Option Nat}
variable (htag : (s.core k).tag n.toNat = some t) (hw : t.what = .atom aop sz scope ord v cmp res) (hp : t.phase = .moving)
  (hs : t.sent = [])
include htag hw hp hs

theorem exec_atomPerform_scratch {c : CoreId} {a : Nat} (hd : endOf k t.dest = .scratch c a)
    (hc : scratchCheck s k c a [⟨0, 0, sz⟩] = none) :
    exec (.atomPerform k n) s =
      let r := atomStep aop sz v cmp (memNat (s.core c).scratch a sz)
      .next (atomEnd (s.putUnit c a sz r.1) k n.toNat t r.2) := by
  show execAtomPerform k n s = _
  unfold execAtomPerform
  simp only [htag, hp, hw, hs, hd, hc, ne_eq, not_true_eq_false, ↓reduceIte]
  rfl

theorem exec_atomPerform_device {va fr : Nat} {x : Trans} (hd : endOf k t.dest = .dev va) (hx : holdsPage s k t va sz x)
    (hl : x.leaf = .device fr) (hu : unwatched s (s.core k).task.ctx) (hpo : s.poisoned (fr * 4096 + va % 4096) sz = false) :
    exec (.atomPerform k n) s =
      let pa := fr * 4096 + va % 4096
      let r := atomStep aop sz v cmp (memNat s.dram pa sz)
      .next (atomEnd (countMove (s.putDeviceUnit (.task k t.order) pa sz r.1) k (dieOf k) va sz) k n.toNat t r.2) := by
  obtain ⟨htrans, hctx, hvpn, hpages, -⟩ := hx
  have hfind : findTrans t.trans (s.core k).task.ctx (va / 4096) false false = some x := by
    simp [findTrans, htrans, hctx, hvpn, hpages, hl]
  show execAtomPerform k n s = _
  unfold execAtomPerform
  simp only [htag, hp, hw, hs, hd, hfind, hl, hpo, ne_eq, not_true_eq_false, Bool.false_eq_true, ↓reduceIte,
    raceAccess_unwatched hu]
  rfl

end

end Sys2Proof.Machine
end

section
/-! CLAIM. An ATOM performs on its unit (O33). -/

open Sys2Proof.Machine Sys2Proof.Claims in
/-- Settles O33: the unit takes the value of the atomic's step, and what ends the command touches nothing but its core's result, release
and tag. -/
theorem atomsPerform : Obligations.AtomsPerform := by
  intro k c n t a aop sz sc ord v cmp res s htag hw hp ⟨hsent, _, ht, _, _⟩ haop hsz size ends outside
  have hsize : sz = 4 ∨ sz = 8 ∨ sz = 16 := by rw [hsz]; split_ifs <;> simp
  have h10 : aop = 10 → sz = 16 := fun h => by rw [hsz, if_pos (by omega)]
  have hbig : sz ≤ if 10 ≤ aop then 16 else 8 := by split_ifs at hsz ⊢ <;> omega
  -- The step's value and result fit their places, whatever stands in the unit.
  have hfits (m : Mem) (p : Nat) : memNat m p sz < 2 ^ (8 * sz) := by
    rw [pow_mul]
    exact memNat_lt m p sz
  have hnew (old : Nat) (ho : old < 2 ^ (8 * sz)) (w : Nat) (h : (atomStep aop sz v cmp old).1 = some w) : w < 2 ^ (8 * sz) :=
    atomStep_new_lt h10 ho h
  have hends (u : State) (old : Nat) (ho : old < 2 ^ (8 * sz)) (hivl : (u.core k).ivl = (s.core k).ivl)
      (he : exec (.atomPerform k n) s = .next (atomEnd u k n.toNat t (atomStep aop sz v cmp old).2)) :
      ends (atomEnd u k n.toNat t (atomStep aop sz v cmp old).2) (atomStep aop sz v cmp old).2 :=
    ⟨he, atomEnd_finished hw ht, by rw [atomEnd_ivl hw ht, hivl], atomEnd_result hw ht (atomStep_result_lt haop hbig ho)⟩
  refine ⟨?_, ?_⟩
  · intro hd ha hc hapart old
    have he := exec_atomPerform_scratch htag hw hp hsent hd (scratchCheck_plain (by omega) ha hc)
    refine ⟨_, (atomStep aop sz v cmp old).1, _, atomStep_value aop sz v cmp old, hends _ old (hfits _ _) (putUnit_ivl k) he, ?_,
      fun j y hj hy => ?_, ?_⟩
    · rw [memNat_congr fun y hy hy' => atomEnd_outside hw ht c y fun d hres hck => ?_, putUnit_unit (hnew old (hfits _ _))]
      exact (hapart d hres hck).imp (lt_of_lt_of_le hy') hy.trans'
    · rw [atomEnd_outside hw ht j y hj, putUnit_outside j y hy]
    · rw [atomEnd_dram hw ht, putUnit_dram]
  · intro va fr x hd hx hl hu hpo pa old
    have he := exec_atomPerform_device htag hw hp hsent hd hx hl hu hpo
    obtain ⟨hcores, hdram⟩ := countMove_same (s.putDeviceUnit (.task k t.order) pa sz (atomStep aop sz v cmp old).1) k (dieOf k) va sz
    have hcore (j : Sys2Proof.CoreId) := State.core_of_cores (hcores.trans putDeviceUnit_cores) j
    refine ⟨_, (atomStep aop sz v cmp old).1, _, atomStep_value aop sz v cmp old, hends _ old (hfits _ _) (by rw [hcore]) he, ?_,
      fun y hy => ?_, fun j y hj => ?_⟩
    · rw [atomEnd_dram hw ht, hdram, putDeviceUnit_unit (hnew old (hfits _ _))]
    · rw [atomEnd_dram hw ht, hdram, putDeviceUnit_outside y hy]
    · rw [atomEnd_outside hw ht j y hj, hcore]
end

section
/-! SUPPORT. Words of the A and B slots (R177 to R193): how a legal one issues, and the planes that its operands hold. -/

namespace Sys2Proof.Machine

open Sys2Proof.Claims

/-! ## A legal word issues -/

/-- An A or B word is a vector word of its own kernel, no pass and no store. -/
theorem abWord_run {i : Instr} {w : AbWord} (h : abWord i = some w) (s : State) : exec i s = vrun i s ∧
    s.me.wordInfo i = s.me.abInfo w ∧ vword i s.me = abKernel w s.me ∧ passWord i = none ∧ s.me.xstExtent i = none := by
  cases i <;> cases h <;> exact ⟨rfl, rfl, rfl, rfl, rfl⟩

/-- A word that passes its checks and stores nothing leaves the core as its kernel does. -/
theorem vrun_ok {i : Instr} {s : State} {c : Core} (ht : s.me.wordTrap i = none) (hv : vword i s.me = .ok c)
    (hx : s.me.xstExtent i = none) : vrun i s = .next (s.setMe c) := by
  simp only [vrun, ht, hv, hx]
  rfl

theorem abCheck_ok {s : State} {w : AbWord} {d a b : Opnd} (h : LaneOperands s w d a b) : s.me.abCheck w = .ok ⟨d, a, b⟩ := by
  obtain ⟨hd, ha, hb, ⟨hcd, hca, hcb⟩, hclass, hown⟩ := h
  simp [Core.abCheck, hd, ha, hb, hcd, hca, hcb, latGuesses, hclass, hown]

theorem exec_abWord {i : Instr} {s : State} {w : AbWord} {d a b : Opnd} (hi : abWord i = some w) (h : LaneOperands s w d a b) :
    exec i s = .next (s.setMe (s.me.abLand w ⟨d, a, b⟩)) := by
  obtain ⟨hrun, hinfo, hword, hpass, hx⟩ := abWord_run hi s
  have hcheck := abCheck_ok h
  have htrap : s.me.wordTrap i = none := by simp only [Core.wordTrap, hpass, hinfo, Core.abInfo, hcheck]; rfl
  rw [hrun]
  refine vrun_ok htrap ?_ hx
  rw [hword, abKernel, hcheck]

/-- The result of a word that lands whole (R193, R243). -/
theorem abLand_whole {s : State} {w : AbWord} (o : AbOps) (h : ∀ k, w.op ≠ .jset k) :
    let n := s.me.snapOrder
    let r := abResult w.op n o (s.me.readPlanes o.d) (s.me.readPlanes o.a) (s.me.readPlanes o.b)
    s.setMe (s.me.abLand w o) = issues s s.me (if w.s then 3 else 2) (n + 1)
      [(w.op.latency n, .bytes o.d.off (planeBytes o.d.cls.width r.1), .no, r.2)] := by
  have hland : s.me.abLand w o = (s.me.emit w.slot (w.op.latency s.me.snapOrder) (.bytes o.d.off (planeBytes o.d.cls.width
      (abResult w.op s.me.snapOrder o (s.me.readPlanes o.d) (s.me.readPlanes o.a) (s.me.readPlanes o.b)).1)) .no
      (abResult w.op s.me.snapOrder o (s.me.readPlanes o.d) (s.me.readPlanes o.a) (s.me.readPlanes o.b)).2).hold w.slot
        (s.me.snapOrder + 1) := by
    unfold Core.abLand AbOp.writeRange
    cases hop : w.op
    case jset k => exact absurd hop (h k)
    all_goals rfl
  rw [hland]
  rfl

/-! ## Planes -/

/-- The planes of an operand of `l` lanes at jet order `n`. -/
def PlanesOf (n l : Nat) (ps : List (List Nat)) : Prop := ps.length = n + 1 ∧ ∀ p ∈ ps, p.length = l

theorem vecName_shape {views : Vector Word64 8} {n name : Nat} {o : Opnd} (h : vecName views n name = some o) :
    o.plane = 256 ∧ o.planes = n + 1 := by
  obtain ⟨v, -, hv⟩ := List.exists_of_findSome?_eq_some h
  split at hv
  · cases hv
    exact ⟨rfl, rfl⟩
  · cases hv

theorem accName_cls {views : Vector Word64 8} {n name : Nat} {o : Opnd} (h : accName views n name = some o) : o.cls.fmt = none := by
  obtain ⟨v, -, hv⟩ := List.exists_of_findSome?_eq_some h
  split at hv
  · cases hv
    rfl
  · cases hv

theorem codeName_shape {views : Vector Word64 8} {n : Nat} {code : BitVec 8} {o : Opnd} {f : Fmt} (h : codeName views n code = some o)
    (hf : o.cls.fmt = some f) : o.plane = 256 ∧ o.planes = n + 1 := by
  unfold codeName at h
  split at h
  · exact vecName_shape h
  · split at h
    · rw [accName_cls h] at hf
      cases hf
    · cases h

theorem latOpnd_shape {c : Core} {o : Opnd} (h : c.latOpnd = some o) : o.plane = 256 ∧ o.planes = c.snapOrder + 1 := by
  unfold Core.latOpnd at h
  split at h
  · cases h
    exact ⟨rfl, rfl⟩
  · cases h

theorem source_shape {c : Core} {code : BitVec 8} {o : Opnd} {f : Fmt} (h : c.source code = some o) (hf : o.cls.fmt = some f) :
    o.plane = 256 ∧ o.planes = c.snapOrder + 1 := by
  unfold Core.source at h
  split at h
  · exact latOpnd_shape h
  · exact codeName_shape h hf

/-- A plane of a floating-point class holds one number a lane (R31, R177). -/
theorem elemsOf_lanes {k : Cls} {f : Fmt} {b : List Byte} (hf : k.fmt = some f) (hb : b.length = 256) :
    (elemsOf k.width b).length = k.lanes := by
  cases k <;> simp [Cls.fmt] at hf <;> simp [elemsOf, Cls.width, Cls.lanes, hb]

theorem readPlanes_planes {c : Core} {o : Opnd} {f : Fmt} {n : Nat} (hf : o.cls.fmt = some f) (h : o.plane = 256 ∧ o.planes = n + 1) :
    PlanesOf n o.cls.lanes (c.readPlanes o) := by
  obtain ⟨hplane, hplanes⟩ := h
  refine ⟨by simp [Core.readPlanes, hplanes], fun p hp => ?_⟩
  obtain ⟨k, -, rfl⟩ := List.mem_map.mp hp
  exact elemsOf_lanes hf (by rw [memRead_length, hplane])

theorem lanes_of_fmt {x y : Cls} {f : Fmt} (hx : x.fmt = some f) (hy : y.fmt = some f) : y.lanes = x.lanes := by
  have hlanes (k : Cls) (h : k.fmt = some f) : k.lanes = if f = .fp32 then 64 else 128 := by
    unfold Cls.fmt at h
    split at h <;> cases h <;> rfl
  rw [hlanes x hx, hlanes y hy]

theorem sameFmt_fmt {x y : Cls} (h : sameFmt x y = true) : x.fmt = y.fmt := by
  simp only [sameFmt, Bool.and_eq_true, beq_iff_eq] at h
  exact h.2

/-! ## Lists by their places -/

theorem eq_map_getD {α : Type} (d : α) (l : List α) : l = (List.range l.length).map (l.getD · d) := by
  refine List.ext_getElem (by simp) fun i hi _ => ?_
  simp [List.getD, hi]

theorem map_range_zipIdx {α : Type} (g : Nat → α) (n : Nat) : ((List.range n).map g).zipIdx = (List.range n).map fun k => (g k, k) := by
  refine List.ext_getElem (by simp) fun i hi _ => ?_
  simp

/-- The jet of lane `j`: its coefficients. -/
def laneAt (ps : List (List Nat)) (j : Nat) : List Nat := ps.map (·.getD j 0)

@[simp] theorem laneAt_getD (ps : List (List Nat)) (j k : Nat) : (laneAt ps j).getD k 0 = (ps.getD k []).getD j 0 := by
  simp only [laneAt, List.getD_eq_getElem?_getD, List.getElem?_map]
  cases ps[k]? <;> simp

theorem laneAt_headD (ps : List (List Nat)) (j : Nat) : (laneAt ps j).headD 0 = (ps.getD 0 []).getD j 0 := by
  cases ps <;> simp [laneAt]

@[simp] theorem co_laneAt (f : Fmt) (ps : List (List Nat)) (j k : Nat) : co f (laneAt ps j) k = f.decode ((ps.getD k []).getD j 0) := by
  rw [co, laneAt_getD]

theorem lanesOf_eq {l : Nat} : ∀ {ps : List (List Nat)}, (∀ p ∈ ps, p.length = l) → lanesOf l ps = (List.range l).map (laneAt ps)
  | [], _ => by rw [show laneAt [] = fun _ => [] from rfl, List.map_const', List.length_range]; rfl
  | p :: ps, h => by
    have hp : p = (List.range l).map (p.getD · 0) := h p (List.mem_cons_self ..) ▸ eq_map_getD 0 p
    show List.zipWith List.cons p (lanesOf l ps) = _
    rw [lanesOf_eq fun q hq => h q (List.mem_cons_of_mem _ hq)]
    conv_lhs => rw [hp]
    rw [List.zipWith_map, List.zipWith_self]
    rfl

/-- Planes from the lanes' jets. -/
theorem lanesOf_jets {n l : Nat} (bits : Nat → Nat → Nat) : lanesOf n ((List.range l).map fun j => (List.range n).map fun k => bits k j) =
    (List.range n).map fun k => (List.range l).map (bits k) := by
  rw [lanesOf_eq fun p hp => by obtain ⟨j, -, rfl⟩ := List.mem_map.mp hp; simp]
  refine List.map_congr_left fun k hk => ?_
  rw [laneAt, List.map_map]
  refine List.map_congr_left fun j _ => ?_
  exact getD_map_range (fun k => bits k j) 0 (List.mem_range.mp hk)

theorem plane_eq {n l k : Nat} {ps : List (List Nat)} (h : PlanesOf n l ps) (hk : k < n + 1) :
    ps.getD k [] = (List.range l).map ((ps.getD k []).getD · 0) := by
  obtain ⟨hlen, hl⟩ := h
  have hmem : ps.getD k [] ∈ ps := by
    rw [← hlen] at hk
    rw [List.getD_eq_getElem _ _ hk]
    exact List.getElem_mem hk
  exact hl _ hmem ▸ eq_map_getD 0 (ps.getD k [])

theorem laneAt_eq {n l : Nat} {ps : List (List Nat)} (h : PlanesOf n l ps) (j : Nat) :
    laneAt ps j = (List.range (n + 1)).map fun k => (ps.getD k []).getD j 0 := by
  conv_lhs => rw [laneAt, eq_map_getD [] ps, h.1, List.map_map]
  rfl

end Sys2Proof.Machine
end

section
/-! SUPPORT. The flags of lanes and coefficients joined (R57), and jets whose coefficients are formed in order (R69, R70). -/

namespace Sys2Proof.Machine

open Sys2Proof.Claims

/-! ## Flags joined -/

section
variable {α : Type} (g : α → Nat)

theorem testBit_orFold (l : List α) (u b : Nat) :
    (l.foldl (fun u x => u ||| g x) u).testBit b = (u.testBit b || l.any fun x => (g x).testBit b) := by
  induction l generalizing u with
  | nil => simp
  | cons x l ih => simp [ih, Bool.or_assoc]

theorem orFold_start (l : List α) (u : Nat) : l.foldl (fun u x => u ||| g x) u = u ||| l.foldl (fun u x => u ||| g x) 0 := by
  refine Nat.eq_of_testBit_eq fun b => ?_
  simp [testBit_orFold]

theorem orFold_ite (p : α → Prop) [DecidablePred p] (c : Nat) (l : List α) :
    l.foldl (fun u x => u ||| if p x then c else 0) 0 = if ∃ x ∈ l, p x then c else 0 := by
  refine Nat.eq_of_testBit_eq fun b => ?_
  rw [testBit_orFold, Bool.eq_iff_iff]
  by_cases h : ∃ x ∈ l, p x
  · obtain ⟨x, hx, hp⟩ := h
    rw [if_pos ⟨x, hx, hp⟩]
    simp only [Nat.zero_testBit, Bool.false_or, List.any_eq_true]
    refine ⟨fun ⟨y, _, hb⟩ => ?_, fun hb => ⟨x, hx, by rwa [if_pos hp]⟩⟩
    split at hb
    · exact hb
    · simp at hb
  · rw [if_neg h]
    simp only [Nat.zero_testBit, Bool.false_or, List.any_eq_true, Bool.false_eq_true, iff_false]
    rintro ⟨y, hy, hb⟩
    rw [if_neg fun hp => h ⟨y, hy, hp⟩] at hb
    simp at hb

end

theorem testBit_joined (n l : Nat) (g : Nat → Nat → Nat) (b : Nat) :
    (joined n l g).testBit b = (List.range n).any fun k => (List.range l).any fun j => (g k j).testBit b := by
  have hinner : joined n l g = (List.range n).foldl (fun u k => u ||| (List.range l).foldl (fun u j => u ||| g k j) 0) 0 :=
    congrArg (fun f => (List.range n).foldl f 0) (funext fun u => funext fun k => orFold_start (g k) _ u)
  rw [hinner, testBit_orFold]
  simp [testBit_orFold]

/-- Lane by lane is plane by plane. -/
theorem joined_lanes (n l : Nat) (g : Nat → Nat → Nat) :
    (List.range l).foldl (fun u j => u ||| (List.range n).foldl (fun u k => u ||| g k j) 0) 0 = joined n l g := by
  refine Nat.eq_of_testBit_eq fun b => ?_
  rw [testBit_joined, testBit_orFold, Bool.eq_iff_iff]
  simp only [testBit_orFold, Nat.zero_testBit, Bool.false_or, List.any_eq_true]
  exact ⟨fun ⟨j, hj, k, hk, h⟩ => ⟨k, hk, j, hj, h⟩, fun ⟨k, hk, j, hj, h⟩ => ⟨j, hj, k, hk, h⟩⟩

theorem joined_one (l : Nat) (g : Nat → Nat → Nat) : joined 1 l g = (List.range l).foldl (fun u j => u ||| g 0 j) 0 := rfl

/-! ## Jets whose coefficients stand for themselves -/

/-- The bits of the first coefficients that `step` forms. -/
def jetBits (step : Nat → List Nat → Rnd) : Nat → List Nat
  | 0 => []
  | k + 1 => jetBits step k ++ [(step k (jetBits step k)).bits]

/-- Coefficient `k` of the jet that `step` forms. -/
def jetRnd (step : Nat → List Nat → Rnd) (k : Nat) : Rnd := step k (jetBits step k)

/-- A jet of order `n` with coefficients `r`, and the flags of each in its row (R56, R69). -/
def jetOf (n : Nat) (r : Nat → Rnd) : JetR :=
  ((List.range (n + 1)).map fun k => (r k).bits, (List.range (n + 1)).foldl (fun u k => u ||| rowFlags k (r k).flags) 0)

section
variable (step : Nat → List Nat → Rnd)

theorem jetBits_eq : ∀ k, jetBits step k = (List.range k).map fun i => (jetRnd step i).bits
  | 0 => rfl
  | k + 1 => by rw [List.range_succ, List.map_append, ← jetBits_eq k]; rfl

theorem co_jetBits (f : Fmt) {k i : Nat} (h : i < k) : co f (jetBits step k) i = f.decode (jetRnd step i).bits := by
  rw [co, jetBits_eq, getD_map_range _ _ h]

theorem jetGo_eq : ∀ fuel k u, jetGo step fuel k (jetBits step k) u =
    (jetBits step (k + fuel), (List.range fuel).foldl (fun u i => u ||| rowFlags (k + i) (jetRnd step (k + i)).flags) u)
  | 0, _, _ => rfl
  | fuel + 1, k, u => by
    have ih := jetGo_eq fuel (k + 1) (u ||| rowFlags k (jetRnd step k).flags)
    rw [List.range_succ_eq_map, List.foldl_cons, List.foldl_map]
    simp only [Nat.add_right_comm k _ 1, Nat.succ_eq_add_one, ← Nat.add_assoc, Nat.add_zero] at ih ⊢
    exact ih

theorem jet_eq (n : Nat) : jet n step = jetOf n (jetRnd step) := by
  have h := jetGo_eq step (n + 1) 0 0
  simp only [Nat.zero_add] at h
  rw [jet, jetOf, ← jetBits_eq]
  exact h

end

/-! ## Jets that grow from their own coefficients (R70) -/

/-- A step that forms coefficient 0 by `first` and the others by `next` from those before. -/
def grown (f : Fmt) (first : Rnd) (next : (Nat → Fp) → Nat → Rnd) (k : Nat) (c : List Nat) : Rnd :=
  if k = 0 then first else next (co f c) k

theorem jetRnd_grown_zero (f : Fmt) (first : Rnd) (next : (Nat → Fp) → Nat → Rnd) : jetRnd (grown f first next) 0 = first := rfl

/-- Whether coefficient `k` asks for none of its own jet but those before it. -/
def Below (next : (Nat → Fp) → Nat → Rnd) : Prop := ∀ k C C', 0 < k → (∀ i, i < k → C i = C' i) → next C k = next C' k

theorem jetRnd_grown {f : Fmt} {first : Rnd} {next : (Nat → Fp) → Nat → Rnd} (h : Below next) {k : Nat} (hk : 0 < k) :
    jetRnd (grown f first next) k = next (fun i => f.decode (jetRnd (grown f first next) i).bits) k :=
  (if_neg hk.ne').trans (h k _ _ hk fun _ hi => co_jetBits _ f hi)

theorem terms_congr {lo hi : Nat} {t t' : Nat → Term} (h : ∀ i, lo ≤ i → i ≤ hi → t i = t' i) : terms lo hi t = terms lo hi t' :=
  List.map_congr_left fun i hi => h _ (Nat.le_add_right ..) (by have := List.mem_range.mp hi; omega)

/-! ## Two jets that grow together (R70) -/

/-- The bits of the first coefficients of two jets: `p` forms a coefficient of the first from those of the second before it, `q` one of
the second from those of the first up to it. -/
def pairBits (f : Fmt) (p q : (Nat → Fp) → Nat → Rnd) : Nat → List Nat × List Nat
  | 0 => ([], [])
  | k + 1 =>
    let b := pairBits f p q k
    let c := b.1 ++ [(p (co f b.2) k).bits]
    (c, b.2 ++ [(q (co f c) k).bits])

/-- Coefficient `k` of the first jet of a pair, and of the second. -/
def pairFst (f : Fmt) (p q : (Nat → Fp) → Nat → Rnd) (k : Nat) : Rnd := p (co f (pairBits f p q k).2) k
def pairSnd (f : Fmt) (p q : (Nat → Fp) → Nat → Rnd) (k : Nat) : Rnd := q (co f (pairBits f p q (k + 1)).1) k

/-- The flags that coefficient `k` of a jet named `r` with a partner `u` sets: the partner counts below order `n`. -/
def pairFlags (n : Nat) (r u : Nat → Rnd) (k : Nat) : Nat :=
  rowFlags k (r k).flags ||| if k < n then rowFlags k (u k).flags else 0

/-- A jet of order `n` formed with a partner. -/
def pairJet (n : Nat) (r u : Nat → Rnd) : JetR :=
  ((List.range (n + 1)).map fun k => (r k).bits, (List.range (n + 1)).foldl (fun x k => x ||| pairFlags n r u k) 0)

section
variable (f : Fmt) (p q : (Nat → Fp) → Nat → Rnd)

theorem pairBits_eq : ∀ k, pairBits f p q k =
    ((List.range k).map fun i => (pairFst f p q i).bits, (List.range k).map fun i => (pairSnd f p q i).bits)
  | 0 => rfl
  | k + 1 => by
    have hfst : (pairBits f p q (k + 1)).1 = (pairBits f p q k).1 ++ [(pairFst f p q k).bits] := rfl
    have hsnd : (pairBits f p q (k + 1)).2 = (pairBits f p q k).2 ++ [(pairSnd f p q k).bits] := rfl
    rw [← Prod.mk.eta (p := pairBits f p q (k + 1)), hfst, hsnd, pairBits_eq k, List.range_succ, List.map_append, List.map_append]
    rfl

theorem co_pairBits_fst {k i : Nat} (h : i < k) : co f (pairBits f p q k).1 i = f.decode (pairFst f p q i).bits := by
  rw [co, pairBits_eq, getD_map_range _ _ h]

theorem co_pairBits_snd {k i : Nat} (h : i < k) : co f (pairBits f p q k).2 i = f.decode (pairSnd f p q i).bits := by
  rw [co, pairBits_eq, getD_map_range _ _ h]

variable {p q}

theorem pairFst_eq (hp : ∀ k C C', (∀ i, i < k → C i = C' i) → p C k = p C' k) (k : Nat) :
    pairFst f p q k = p (fun i => f.decode (pairSnd f p q i).bits) k := hp k _ _ fun _ hi => co_pairBits_snd f p q hi

theorem pairSnd_eq (hq : ∀ k C C', (∀ i, i ≤ k → C i = C' i) → q C k = q C' k) (k : Nat) :
    pairSnd f p q k = q (fun i => f.decode (pairFst f p q i).bits) k :=
  hq k _ _ fun _ hi => co_pairBits_fst f p q (Nat.lt_succ_of_le hi)

end

/-- The flags of the coefficients below `k` of a jet formed with a partner. -/
def pairFlagsBelow (n : Nat) (r u : Nat → Rnd) (k : Nat) : Nat := (List.range k).foldl (fun x i => x ||| pairFlags n r u i) 0

theorem pairFlagsBelow_succ (n : Nat) (r u : Nat → Rnd) (k : Nat) :
    pairFlagsBelow n r u (k + 1) = pairFlagsBelow n r u k ||| pairFlags n r u k := by
  rw [pairFlagsBelow, List.range_succ, List.foldl_append]
  rfl

section
variable {f : Fmt} {n : Nat} {p q : (Nat → Fp) → Nat → Rnd}

theorem pairJet_eq : pairJet n (pairFst f p q) (pairSnd f p q) =
    ((pairBits f p q (n + 1)).1, pairFlagsBelow n (pairFst f p q) (pairSnd f p q) (n + 1)) := by
  rw [pairBits_eq]
  rfl

/-- What one turn of a pair's loop answers: at the last coefficient the whole jet, and before it the loop's next turn. -/
theorem pair_turn {k fuel : Nat} {go : JetR} (hk : k + (fuel + 1) = n + 1)
    (h : k < n → go = pairJet n (pairFst f p q) (pairSnd f p q)) :
    (if k < n then go else ((pairBits f p q (k + 1)).1, pairFlagsBelow n (pairFst f p q) (pairSnd f p q) k |||
      rowFlags k (pairFst f p q k).flags)) = pairJet n (pairFst f p q) (pairSnd f p q) := by
  split
  · next hlt => exact h hlt
  · next hlt =>
    obtain rfl : k = n := by omega
    rw [pairJet_eq, pairFlagsBelow_succ, pairFlags, if_neg hlt, Nat.or_zero]

theorem pairFlagsBelow_turn {r u : Nat → Rnd} {k : Nat} (h : k < n) :
    pairFlagsBelow n r u k ||| rowFlags k (r k).flags ||| rowFlags k (u k).flags = pairFlagsBelow n r u (k + 1) := by
  rw [pairFlagsBelow_succ, pairFlags, if_pos h, Nat.or_assoc]

/-- The coefficient of a jet that R70 forms from a partner's: the value at 0, and above it a sum divided by the place. -/
def partnered (f : Fmt) (base : Rnd) (neg : Bool) (A : Nat → Fp) (U : Nat → Fp) (k : Nat) : Rnd :=
  if k = 0 then base else rsumDiv f (terms 1 k fun i => prod [.int (if neg then -(i : Int) else i), A i, U (k - i)]) k

theorem partnered_below (f : Fmt) (base : Rnd) (neg : Bool) (A : Nat → Fp) (k : Nat) (C C' : Nat → Fp) (h : ∀ i, i < k → C i = C' i) :
    partnered f base neg A C k = partnered f base neg A C' k := by
  unfold partnered
  split
  · rfl
  · rw [terms_congr fun i h1 h2 => by rw [h (k - i) (by omega)]]

/-- The loop of tanh and sigmoid (R70). -/
theorem auxGo_eq {base : Rnd} {a : List Nat} {aux : Nat → List Nat → Rnd} (haux : ∀ k c, aux k c = q (co f c) k)
    (hp : p = partnered f base false (co f a)) : ∀ fuel k, k + fuel = n + 1 → 0 < fuel →
    auxGo f n base aux a fuel k (pairBits f p q k).1 (pairBits f p q k).2 (pairFlagsBelow n (pairFst f p q) (pairSnd f p q) k) =
      pairJet n (pairFst f p q) (pairSnd f p q)
  | 0, _, _, h => absurd h (lt_irrefl 0)
  | fuel + 1, k, hk, _ => by
    refine Eq.trans ?_ (pair_turn hk fun hlt => auxGo_eq haux hp fuel (k + 1) (by omega) (by omega))
    subst hp
    simp only [auxGo, haux]
    split
    · next hlt =>
      rw [← pairFlagsBelow_turn hlt]
      rfl
    · rfl

theorem trigGo_turn {cosine : Bool} {a : List Nat} (hp : p = partnered f (fpTrig f cosine (co f a 0)) cosine (co f a))
    (hq : q = partnered f (fpTrig f (!cosine) (co f a 0)) (!cosine) (co f a)) (fuel k : Nat) (x y : List Nat) (fl : Nat) :
    trigGo f n cosine a (fuel + 1) k x y fl =
      let r := p (co f y) k
      let u := q (co f x) k
      if k < n then trigGo f n cosine a fuel (k + 1) (x ++ [r.bits]) (y ++ [u.bits])
        (fl ||| rowFlags k r.flags ||| rowFlags k u.flags)
      else (x ++ [r.bits], fl ||| rowFlags k r.flags) := by
  subst hp hq
  rfl

/-- The loop of the sine and the cosine (R70): the partner asks for nothing of the coefficient just formed. -/
theorem trigGo_eq {cosine : Bool} {a : List Nat} (hp : p = partnered f (fpTrig f cosine (co f a 0)) cosine (co f a))
    (hq : q = partnered f (fpTrig f (!cosine) (co f a 0)) (!cosine) (co f a)) : ∀ fuel k, k + fuel = n + 1 → 0 < fuel →
    trigGo f n cosine a fuel k (pairBits f p q k).1 (pairBits f p q k).2 (pairFlagsBelow n (pairFst f p q) (pairSnd f p q) k) =
      pairJet n (pairFst f p q) (pairSnd f p q)
  | 0, _, _, h => absurd h (lt_irrefl 0)
  | fuel + 1, k, hk, _ => by
    refine Eq.trans ?_ (pair_turn hk fun hlt => trigGo_eq hp hq fuel (k + 1) (by omega) (by omega))
    have hsnd : q (co f (pairBits f p q k).1) k = pairSnd f p q k := by
      rw [pairSnd_eq f fun m C C' h => hq ▸ partnered_below f _ _ _ m C C' fun i hi => h i hi.le]
      exact hq ▸ partnered_below f _ _ _ k _ _ fun i hi => co_pairBits_fst f _ _ hi
    simp only [trigGo_turn hp hq, hsnd]
    split
    · next hlt =>
      rw [← pairFlagsBelow_turn hlt]
      rfl
    · rfl

theorem jetTrig_eq {cosine : Bool} {a : List Nat} (hp : p = partnered f (fpTrig f cosine (co f a 0)) cosine (co f a))
    (hq : q = partnered f (fpTrig f (!cosine) (co f a 0)) (!cosine) (co f a)) :
    jetTrig f n cosine a = pairJet n (pairFst f p q) (pairSnd f p q) := trigGo_eq hp hq (n + 1) 0 (Nat.zero_add _) (Nat.succ_pos n)

/-- Two jets that each ask for those before alone are the same pair in either order. -/
theorem pair_swap (hp : ∀ k C C', (∀ i, i < k → C i = C' i) → p C k = p C' k)
    (hq : ∀ k C C', (∀ i, i < k → C i = C' i) → q C k = q C' k) (k : Nat) :
    pairFst f q p k = pairSnd f p q k ∧ pairSnd f q p k = pairFst f p q k := by
  induction k using Nat.strong_induction_on with
  | _ k ih =>
    constructor
    · rw [pairFst_eq f hq, pairSnd_eq f fun k C C' h => hq k C C' fun i hi => h i hi.le]
      exact hq k _ _ fun i hi => by rw [(ih i hi).2]
    · rw [pairFst_eq f hp, pairSnd_eq f fun k C C' h => hp k C C' fun i hi => h i hi.le]
      exact hp k _ _ fun i hi => by rw [(ih i hi).1]

end

/-- The auxiliary jets of tanh, 1 less the square, and of sigmoid, the jet less its square. -/
def tanhAux (f : Fmt) (C : Nat → Fp) (k : Nat) : Rnd :=
  rsum f ((if k = 0 then [prod [.int 1]] else []) ++ terms 0 k fun i => prod [(C i).flip, C (k - i)])
def sigmAux (f : Fmt) (C : Nat → Fp) (k : Nat) : Rnd := rsum f (prod [C k] :: terms 0 k fun i => prod [(C i).flip, C (k - i)])

theorem tanhAux_upTo (f : Fmt) (k : Nat) (C C' : Nat → Fp) (h : ∀ i, i ≤ k → C i = C' i) : tanhAux f C k = tanhAux f C' k := by
  rw [tanhAux, terms_congr fun i _ hi => by rw [h i hi, h (k - i) (by omega)], tanhAux]

theorem sigmAux_upTo (f : Fmt) (k : Nat) (C C' : Nat → Fp) (h : ∀ i, i ≤ k → C i = C' i) : sigmAux f C k = sigmAux f C' k := by
  rw [sigmAux, terms_congr fun i _ hi => by rw [h i hi, h (k - i) (by omega)], h k le_rfl, sigmAux]

theorem jetTanh_eq (f : Fmt) (n : Nat) (a : List Nat) :
    let p := partnered f (fpTanh f (co f a 0)) false (co f a)
    jetTanh f n a = pairJet n (pairFst f p (tanhAux f)) (pairSnd f p (tanhAux f)) :=
  auxGo_eq (fun k c => by rw [tanhAux]; split <;> rfl) rfl (n + 1) 0 (Nat.zero_add _) (Nat.succ_pos n)

theorem jetSigm_eq (f : Fmt) (n : Nat) (a : List Nat) :
    let p := partnered f (fpSigm f (co f a 0)) false (co f a)
    jetSigm f n a = pairJet n (pairFst f p (sigmAux f)) (pairSnd f p (sigmAux f)) :=
  auxGo_eq (q := sigmAux f) (fun _ _ => rfl) rfl (n + 1) 0 (Nat.zero_add _) (Nat.succ_pos n)

end Sys2Proof.Machine
end

section
/-! SUPPORT. Reductions over lanes (R72): which lane is picked. -/

namespace Sys2Proof.Machine

open Sys2Proof.Claims

/-- Whether `u` is picked before `v` (R72). -/
def beats (f : Fmt) (isMax : Bool) (u v : Nat) : Prop := if isMax then fpKey f true v < fpKey f true u else fpKey f true u < fpKey f true v

section
variable {f : Fmt} {isMax : Bool} {x : List Nat} {xs : List (List Nat)}

theorem pickLane_skip (best : Option (List Nat)) (hx : f.isNan (x.headD 0) = true) :
    pickLane f isMax (x :: xs) best = pickLane f isMax xs best := if_pos hx

theorem pickLane_start (hx : f.isNan (x.headD 0) = false) : pickLane f isMax (x :: xs) none = pickLane f isMax xs (some x) :=
  if_neg (Bool.eq_false_iff.mp hx)

theorem pickLane_replace {b : List Nat} (hx : f.isNan (x.headD 0) = false) (h : beats f isMax (x.headD 0) (b.headD 0)) :
    pickLane f isMax (x :: xs) (some b) = pickLane f isMax xs (some x) := by
  refine (if_neg (Bool.eq_false_iff.mp hx)).trans (congrArg (fun l => pickLane f isMax xs (some l)) (if_pos ?_))
  cases isMax <;> exact decide_eq_true h

theorem pickLane_keep {b : List Nat} (hx : f.isNan (x.headD 0) = false) (h : ¬beats f isMax (x.headD 0) (b.headD 0)) :
    pickLane f isMax (x :: xs) (some b) = pickLane f isMax xs (some b) := by
  refine (if_neg (Bool.eq_false_iff.mp hx)).trans (congrArg (fun l => pickLane f isMax xs (some l)) (if_neg ?_))
  cases isMax <;> simpa [beats] using h

end

section
variable {f : Fmt} {isMax : Bool} {b : List Nat}

/-- A lane that none of the rest beats stays. -/
theorem pickLane_kept : ∀ {post : List (List Nat)},
    (∀ x ∈ post, f.isNan (x.headD 0) = false → ¬beats f isMax (x.headD 0) (b.headD 0)) → pickLane f isMax post (some b) = some b
  | [], _ => rfl
  | x :: post, h => by
    have ih := pickLane_kept fun y hy => h y (List.mem_cons_of_mem _ hy)
    cases hx : f.isNan (x.headD 0) with
    | true => rw [pickLane_skip _ hx, ih]
    | false => rw [pickLane_keep hx (h x (List.mem_cons_self ..) hx), ih]

/-- A lane that beats all before it and that none after it beats is the one picked. -/
theorem pickLane_picks (hb : f.isNan (b.headD 0) = false) {post : List (List Nat)}
    (hpost : ∀ x ∈ post, f.isNan (x.headD 0) = false → ¬beats f isMax (x.headD 0) (b.headD 0)) :
    ∀ (pre : List (List Nat)) (best : Option (List Nat)),
      (∀ x ∈ pre, f.isNan (x.headD 0) = false → beats f isMax (b.headD 0) (x.headD 0)) →
      (∀ x, best = some x → beats f isMax (b.headD 0) (x.headD 0)) → pickLane f isMax (pre ++ b :: post) best = some b
  | [], none, _, _ => by rw [List.nil_append, pickLane_start hb, pickLane_kept hpost]
  | [], some z, _, hbest => by rw [List.nil_append, pickLane_replace hb (hbest z rfl), pickLane_kept hpost]
  | x :: pre, best, hpre, hbest => by
    have ih := fun best => pickLane_picks hb hpost pre best fun y hy => hpre y (List.mem_cons_of_mem _ hy)
    have hx := hpre x (List.mem_cons_self ..)
    rw [List.cons_append]
    cases hn : f.isNan (x.headD 0) with
    | true => rw [pickLane_skip _ hn, ih best hbest]
    | false =>
      have hsome := ih (some x) fun y hy => Option.some.inj hy ▸ hx hn
      cases best with
      | none => rw [pickLane_start hn, hsome]
      | some z =>
        by_cases hz : beats f isMax (x.headD 0) (z.headD 0)
        · rw [pickLane_replace hn hz, hsome]
        · rw [pickLane_keep hn hz, ih (some z) hbest]

theorem pickLane_nan : ∀ {xs : List (List Nat)}, (∀ x ∈ xs, f.isNan (x.headD 0) = true) → pickLane f isMax xs none = none
  | [], _ => rfl
  | x :: xs, h => by
    rw [pickLane_skip _ (h x (List.mem_cons_self ..)), pickLane_nan fun y hy => h y (List.mem_cons_of_mem _ hy)]

end

theorem range_split {l m : Nat} (h : m < l) : List.range l = List.range m ++ m :: (List.range (l - m - 1)).map (m + 1 + ·) := by
  conv_lhs => rw [show l = m + (l - m - 1 + 1) by omega, List.range_add, List.range_succ_eq_map, List.map_cons, List.map_map]
  simp [Function.comp_def, Nat.add_assoc, Nat.add_comm 1]

section
variable {f : Fmt} {isMax : Bool} {n l : Nat} {x : Nat → List Nat}

/-- The maximum or minimum of lanes is the jet of the first lane that none beats. -/
theorem reduceMax_picks {m : Nat} (hm : m < l) (hn : f.isNan ((x m).headD 0) = false)
    (h : ∀ j, j < l → f.isNan ((x j).headD 0) = false → ¬beats f isMax ((x j).headD 0) ((x m).headD 0) ∧
      (j < m → beats f isMax ((x m).headD 0) ((x j).headD 0))) : reduceMax f n isMax ((List.range l).map x) = (x m, 0) := by
  have hpick : pickLane f isMax ((List.range l).map x) none = some (x m) := by
    rw [range_split hm, List.map_append, List.map_cons, List.map_map]
    refine pickLane_picks hn (fun y hy hyn => ?_) _ none (fun y hy hyn => ?_) fun _ hy => nomatch hy
    · obtain ⟨i, hi, rfl⟩ := List.mem_map.mp hy
      have := List.mem_range.mp hi
      exact (h (m + 1 + i) (by omega) hyn).1
    · obtain ⟨i, hi, rfl⟩ := List.mem_map.mp hy
      have := List.mem_range.mp hi
      exact (h _ (by omega) hyn).2 this
  rw [reduceMax, hpick]

theorem reduceMax_nan (h : ∀ j, j < l → f.isNan ((x j).headD 0) = true) : reduceMax f n isMax ((List.range l).map x) =
    (List.replicate (n + 1) f.nan, (List.range l).foldl (fun u j => u ||| if f.isSnan ((x j).headD 0) = true then 16 else 0) 0) := by
  have hpick : pickLane f isMax ((List.range l).map x) none = none := pickLane_nan fun y hy => by
    obtain ⟨j, hj, rfl⟩ := List.mem_map.mp hy
    exact h j (List.mem_range.mp hj)
  rw [reduceMax, hpick, orFold_ite]
  simp only [List.any_map, List.any_eq_true, Function.comp_apply]
  rfl

end

end Sys2Proof.Machine
end

section
/-! SUPPORT. The floating-point words of the A and B slots over lanes (R182 to R184, R189, R192): what each one lands. -/

namespace Sys2Proof.Machine

open Sys2Proof.Claims

/-! ## Words that form a jet a lane -/

/-- The jet that a word of one source forms of a lane's jet. -/
def AbOp.jet1 (f : Fmt) (n : Nat) : AbOp → Option (List Nat → JetR)
  | .sqrt => some (jetSqrt f n)
  | .rsqrt => some (jetRsqrt f n)
  | .rcp => some (jetRcp f n)
  | .exp => some (jetExp f n)
  | .log => some (jetLog f n)
  | .tanh => some (jetTanh f n)
  | .sigm => some (jetSigm f n)
  | .sin => some (jetTrig f n false)
  | .cos => some (jetTrig f n true)
  | _ => none

/-- The jet that a word of two sources forms of the jets of a lane: its destination's, which a fused word reads, and its sources'. -/
def AbOp.jet2 (f : Fmt) (n : Nat) : AbOp → Option (List Nat → List Nat → List Nat → JetR)
  | .add => some fun _ => jetAdd f n false
  | .sub => some fun _ => jetAdd f n true
  | .mul => some fun _ => jetMul f n
  | .div => some fun _ => jetDiv f n
  | .fma => some fun z x y => jetFma f n false x y z
  | .fnma => some fun z x y => jetFma f n true x y z
  | .min => some fun _ => jetMinMax f n false
  | .max => some fun _ => jetMinMax f n true
  | _ => none

/-- The planes and flags of lanes' jets. -/
def laneResult (n : Nat) (rs : List JetR) : List (List Nat) × Nat := (lanesOf (n + 1) (joinLanes rs).1, (joinLanes rs).2)

section
variable {op : AbOp} {f : Fmt} {n l : Nat} {d a b : Opnd} {x y z : List (List Nat)}

theorem abResult_jet1 {g : List Nat → JetR} (hf : a.cls.fmt = some f) (hg : op.jet1 f n = some g) :
    abResult op n ⟨d, a, b⟩ z x y = laneResult n ((lanesOf a.cls.lanes x).map g) := by
  unfold abResult
  simp only [hf, Option.getD_some]
  unfold AbOp.jet1 at hg
  split at hg <;> cases hg <;> rfl

theorem abResult_jet2 {g : List Nat → List Nat → List Nat → JetR} (hf : a.cls.fmt = some f) (hg : op.jet2 f n = some g)
    (hx : PlanesOf n a.cls.lanes x) (hy : PlanesOf n a.cls.lanes y) (hz : PlanesOf n a.cls.lanes z) :
    abResult op n ⟨d, a, b⟩ z x y =
      laneResult n ((List.range a.cls.lanes).map fun j => g (laneAt z j) (laneAt x j) (laneAt y j)) := by
  have hzip (h : List Nat → List Nat → JetR) : List.zipWith h (lanesOf a.cls.lanes x) (lanesOf a.cls.lanes y) =
      (List.range a.cls.lanes).map fun j => h (laneAt x j) (laneAt y j) := by
    rw [lanesOf_eq hx.2, lanesOf_eq hy.2, List.zipWith_map, List.zipWith_self]
  have hfused (neg : Bool) : List.zipWith (fun (p : List Nat × List Nat) z => jetFma f n neg p.1 p.2 z)
      (List.zip (lanesOf a.cls.lanes x) (lanesOf a.cls.lanes y)) (lanesOf a.cls.lanes z) =
      (List.range a.cls.lanes).map fun j => jetFma f n neg (laneAt x j) (laneAt y j) (laneAt z j) := by
    rw [lanesOf_eq hx.2, lanesOf_eq hy.2, lanesOf_eq hz.2, List.zip, List.zipWith_map, List.zipWith_self, List.zipWith_map,
      List.zipWith_self]
  unfold abResult
  simp only [hf, Option.getD_some, hzip, hfused]
  unfold AbOp.jet2 at hg
  split at hg <;> cases hg <;> rfl

theorem laneResult_eq {r : Nat → JetR} {bits : Nat → Nat → Nat} {F : Nat → Nat}
    (h : ∀ j, j < l → r j = ((List.range (n + 1)).map fun k => bits k j, F j)) : laneResult n ((List.range l).map r) =
      ((List.range (n + 1)).map fun k => (List.range l).map (bits k), (List.range l).foldl (fun u j => u ||| F j) 0) := by
  rw [List.map_congr_left fun j hj => h j (List.mem_range.mp hj), laneResult, joinLanes, List.map_map, List.foldl_map]
  exact congrArg (Prod.mk · _) (lanesOf_jets bits)

end

/-! ## What a legal word lands -/

section
variable {s : State} {sb : Bool} {d a : BitVec 8} {second : Option (BitVec 8)} {od oa ob : Opnd} {f : Fmt} {i : Instr} {op : AbOp}

/-- The result of a legal word of one of the slots: its planes, lane by lane, and its flags. -/
def LandsLanes (s : State) (sb : Bool) (d a : BitVec 8) (second : Option (BitVec 8)) (od oa ob : Opnd) (op : AbOp) (i : Instr)
    (bits : Nat → Nat → Nat) (flags : Nat) : Prop :=
  LaneOperands s ⟨op, sb, d, a, second⟩ od oa ob → exec i s = .next (issues s s.me (if sb then 3 else 2) (s.me.snapOrder + 1)
    [(op.latency s.me.snapOrder, .bytes od.off (planeBytes od.cls.width
      ((List.range (s.me.snapOrder + 1)).map fun k => (List.range oa.cls.lanes).map (bits k))), .no, flags)])

theorem landsLanes_of {bits : Nat → Nat → Nat} {flags : Nat} (hi : abWord i = some ⟨op, sb, d, a, second⟩) (hj : ∀ k, op ≠ .jset k)
    (h : LaneOperands s ⟨op, sb, d, a, second⟩ od oa ob →
      abResult op s.me.snapOrder ⟨od, oa, ob⟩ (s.me.readPlanes od) (s.me.readPlanes oa) (s.me.readPlanes ob) =
        ((List.range (s.me.snapOrder + 1)).map fun k => (List.range oa.cls.lanes).map (bits k), flags)) :
    LandsLanes s sb d a second od oa ob op i bits flags := fun hl => by
  rw [exec_abWord hi hl, abLand_whole ⟨od, oa, ob⟩ hj]
  dsimp only
  rw [h hl]

theorem planes_first (hl : LaneOperands s ⟨op, sb, d, a, second⟩ od oa ob) (hf : oa.cls.fmt = some f) :
    PlanesOf s.me.snapOrder oa.cls.lanes (s.me.readPlanes oa) := readPlanes_planes hf (source_shape hl.first hf)

theorem planes_second (hl : LaneOperands s ⟨op, sb, d, a, second⟩ od oa ob) (hf : oa.cls.fmt = some f) (hb : ob.cls.fmt = some f) :
    PlanesOf s.me.snapOrder oa.cls.lanes (s.me.readPlanes ob) :=
  lanes_of_fmt hf hb ▸ readPlanes_planes hb (source_shape hl.second hb)

theorem planes_dest (hl : LaneOperands s ⟨op, sb, d, a, second⟩ od oa ob) (hf : oa.cls.fmt = some f) (hd : od.cls.fmt = some f) :
    PlanesOf s.me.snapOrder oa.cls.lanes (s.me.readPlanes od) :=
  lanes_of_fmt hf hd ▸ readPlanes_planes hd (codeName_shape hl.dest hd)

/-- The operands of a word of one floating-point class (R178). -/
theorem fmts_of_classOk (hl : LaneOperands s ⟨op, sb, d, a, second⟩ od oa ob) (hf : oa.cls.fmt = some f)
    (hc : op.classOk ⟨od, oa, ob⟩ = (sameFmt od.cls oa.cls && sameFmt oa.cls ob.cls)) :
    od.cls.fmt = some f ∧ ob.cls.fmt = some f := by
  have h := hc.symm.trans hl.classes
  rw [Bool.and_eq_true] at h
  exact ⟨(sameFmt_fmt h.1).trans hf, (sameFmt_fmt h.2).symm.trans hf⟩

theorem lands_jet1 {g : List Nat → JetR} {bits : Nat → Nat → Nat} {F : Nat → Nat} (hf : oa.cls.fmt = some f)
    (hi : abWord i = some ⟨op, sb, d, a, second⟩) (hg : op.jet1 f s.me.snapOrder = some g)
    (h : ∀ j, g (laneAt (s.me.readPlanes oa) j) = ((List.range (s.me.snapOrder + 1)).map fun k => bits k j, F j)) :
    LandsLanes s sb d a second od oa ob op i bits ((List.range oa.cls.lanes).foldl (fun u j => u ||| F j) 0) := by
  refine landsLanes_of hi (fun k hk => by rw [hk] at hg; cases hg) fun hl => ?_
  rw [abResult_jet1 hf hg, lanesOf_eq (planes_first hl hf).2, List.map_map]
  exact laneResult_eq fun j _ => h j

theorem lands_jet2 {g : List Nat → List Nat → List Nat → JetR} {bits : Nat → Nat → Nat} {F : Nat → Nat} (hf : oa.cls.fmt = some f)
    (hi : abWord i = some ⟨op, sb, d, a, second⟩) (hg : op.jet2 f s.me.snapOrder = some g)
    (h : PlanesOf s.me.snapOrder oa.cls.lanes (s.me.readPlanes oa) → PlanesOf s.me.snapOrder oa.cls.lanes (s.me.readPlanes ob) →
      ∀ j, g (laneAt (s.me.readPlanes od) j) (laneAt (s.me.readPlanes oa) j) (laneAt (s.me.readPlanes ob) j) =
        ((List.range (s.me.snapOrder + 1)).map fun k => bits k j, F j)) :
    LandsLanes s sb d a second od oa ob op i bits ((List.range oa.cls.lanes).foldl (fun u j => u ||| F j) 0) := by
  refine landsLanes_of hi (fun k hk => by rw [hk] at hg; cases hg) fun hl => ?_
  have hc : op.classOk ⟨od, oa, ob⟩ = (sameFmt od.cls oa.cls && sameFmt oa.cls ob.cls) := by
    unfold AbOp.jet2 at hg
    split at hg <;> cases hg <;> rfl
  obtain ⟨hfd, hfb⟩ := fmts_of_classOk hl hf hc
  have hx := planes_first hl hf
  have hy := planes_second hl hf hfb
  rw [abResult_jet2 hf hg hx hy (planes_dest hl hf hfd)]
  exact laneResult_eq fun j _ => h hx hy j

/-! ## Jets of each kind -/

theorem landsLanes_flags {bits : Nat → Nat → Nat} {x y : Nat} (h : LandsLanes s sb d a second od oa ob op i bits x) (hxy : x = y) :
    LandsLanes s sb d a second od oa ob op i bits y := hxy ▸ h

theorem lands_jet1_of {g : List Nat → JetR} {r : Nat → Nat → Rnd} (hf : oa.cls.fmt = some f)
    (hi : abWord i = some ⟨op, sb, d, a, second⟩) (hg : op.jet1 f s.me.snapOrder = some g)
    (h : ∀ j, g (laneAt (s.me.readPlanes oa) j) = jetOf s.me.snapOrder (r j)) :
    LandsLanes s sb d a second od oa ob op i (fun k j => (r j k).bits)
      (joined (s.me.snapOrder + 1) oa.cls.lanes fun k j => rowFlags k (r j k).flags) :=
  landsLanes_flags (lands_jet1 hf hi hg h) (joined_lanes _ _ _)

theorem lands_pair {g : List Nat → JetR} {r u : Nat → Nat → Rnd} (hf : oa.cls.fmt = some f)
    (hi : abWord i = some ⟨op, sb, d, a, second⟩) (hg : op.jet1 f s.me.snapOrder = some g)
    (h : ∀ j, g (laneAt (s.me.readPlanes oa) j) = pairJet s.me.snapOrder (r j) (u j)) :
    LandsLanes s sb d a second od oa ob op i (fun k j => (r j k).bits)
      (joined (s.me.snapOrder + 1) oa.cls.lanes fun k j => pairFlags s.me.snapOrder (r j) (u j) k) :=
  landsLanes_flags (lands_jet1 hf hi hg h) (joined_lanes _ _ _)

theorem lands_jet2_of {g : List Nat → List Nat → List Nat → JetR} {r : Nat → Nat → Rnd} (hf : oa.cls.fmt = some f)
    (hi : abWord i = some ⟨op, sb, d, a, second⟩) (hg : op.jet2 f s.me.snapOrder = some g)
    (h : ∀ j, g (laneAt (s.me.readPlanes od) j) (laneAt (s.me.readPlanes oa) j) (laneAt (s.me.readPlanes ob) j) =
      jetOf s.me.snapOrder (r j)) :
    LandsLanes s sb d a second od oa ob op i (fun k j => (r j k).bits)
      (joined (s.me.snapOrder + 1) oa.cls.lanes fun k j => rowFlags k (r j k).flags) :=
  landsLanes_flags (lands_jet2 hf hi hg fun _ _ => h) (joined_lanes _ _ _)

/-- A word lands a jet whose coefficient 0 is `first` and whose coefficient k `next` forms from those before it. -/
def LandsGrown (s : State) (sb : Bool) (d a : BitVec 8) (second : Option (BitVec 8)) (od oa ob : Opnd) (f : Fmt) (op : AbOp) (i : Instr)
    (first : Nat → Rnd) (next : Nat → (Nat → Fp) → Nat → Rnd) : Prop :=
  ∃ r : Nat → Nat → Rnd, (∀ j, r j 0 = first j ∧ ∀ k, 0 < k → r j k = next j (fun i => f.decode (r j i).bits) k) ∧
    LandsLanes s sb d a second od oa ob op i (fun k j => (r j k).bits)
      (joined (s.me.snapOrder + 1) oa.cls.lanes fun k j => rowFlags k (r j k).flags)

section
variable {first : Nat → Rnd} {next : Nat → (Nat → Fp) → Nat → Rnd}

theorem grown_spec (hnext : ∀ j, Below (next j)) (j : Nat) : jetRnd (grown f (first j) (next j)) 0 = first j ∧
    ∀ k, 0 < k → jetRnd (grown f (first j) (next j)) k =
      next j (fun i => f.decode (jetRnd (grown f (first j) (next j)) i).bits) k :=
  ⟨jetRnd_grown_zero f _ _, fun _ hk => jetRnd_grown (hnext j) hk⟩

theorem lands_grown1 {g : List Nat → JetR} (hf : oa.cls.fmt = some f) (hi : abWord i = some ⟨op, sb, d, a, second⟩)
    (hg : op.jet1 f s.me.snapOrder = some g) (hnext : ∀ j, Below (next j))
    (h : ∀ j, g (laneAt (s.me.readPlanes oa) j) = jet s.me.snapOrder (grown f (first j) (next j))) :
    LandsGrown s sb d a second od oa ob f op i first next :=
  ⟨fun j => jetRnd (grown f (first j) (next j)), grown_spec hnext, lands_jet1_of hf hi hg fun j => (h j).trans (jet_eq _ _)⟩

theorem lands_grown2 {g : List Nat → List Nat → List Nat → JetR} (hf : oa.cls.fmt = some f)
    (hi : abWord i = some ⟨op, sb, d, a, second⟩) (hg : op.jet2 f s.me.snapOrder = some g) (hnext : ∀ j, Below (next j))
    (h : ∀ j, g (laneAt (s.me.readPlanes od) j) (laneAt (s.me.readPlanes oa) j) (laneAt (s.me.readPlanes ob) j) =
      jet s.me.snapOrder (grown f (first j) (next j))) :
    LandsGrown s sb d a second od oa ob f op i first next :=
  ⟨fun j => jetRnd (grown f (first j) (next j)), grown_spec hnext, lands_jet2_of hf hi hg fun j => (h j).trans (jet_eq _ _)⟩

end

/-- A word lands a jet formed with an auxiliary one (R70). -/
theorem lands_partnered {g : List Nat → JetR} {base : Fp → Rnd} {q : (Nat → Fp) → Nat → Rnd} (hf : oa.cls.fmt = some f)
    (hi : abWord i = some ⟨op, sb, d, a, second⟩) (hg : op.jet1 f s.me.snapOrder = some g)
    (hq : ∀ k C C', (∀ i, i ≤ k → C i = C' i) → q C k = q C' k)
    (h : ∀ x, let p := partnered f (base (co f x 0)) false (co f x)
      g x = pairJet s.me.snapOrder (pairFst f p q) (pairSnd f p q)) :
    let A := fun (j k : Nat) => f.decode (((s.me.readPlanes oa).getD k []).getD j 0)
    ∃ r u : Nat → Nat → Rnd, (∀ j k,
      r j k = (if k = 0 then base (A j 0) else rsumDiv f (terms 1 k fun i => prod [.int i, A j i, f.decode (u j (k - i)).bits]) k) ∧
      u j k = q (fun i => f.decode (r j i).bits) k) ∧
      LandsLanes s sb d a second od oa ob op i (fun k j => (r j k).bits)
        (joined (s.me.snapOrder + 1) oa.cls.lanes fun k j => pairFlags s.me.snapOrder (r j) (u j) k) := by
  intro A
  have hA (j : Nat) : co f (laneAt (s.me.readPlanes oa) j) = A j := funext (co_laneAt f _ j)
  exact ⟨fun j => pairFst f (partnered f (base (A j 0)) false (A j)) q, fun j => pairSnd f (partnered f (base (A j 0)) false (A j)) q,
    fun j k => ⟨pairFst_eq f (partnered_below f _ _ _) k, pairSnd_eq f hq k⟩, lands_pair hf hi hg fun j => hA j ▸ h _⟩

/-- The sine and the cosine land the jets of one pair. -/
theorem lands_trig {i' : Instr} (hf : oa.cls.fmt = some f) (hi : abWord i = some ⟨.sin, sb, d, a, second⟩)
    (hi' : abWord i' = some ⟨.cos, sb, d, a, second⟩) :
    let A := fun (j k : Nat) => f.decode (((s.me.readPlanes oa).getD k []).getD j 0)
    let lands := fun (op : AbOp) (i : Instr) (r u : Nat → Nat → Rnd) =>
      LandsLanes s sb d a second od oa ob op i (fun k j => (r j k).bits)
        (joined (s.me.snapOrder + 1) oa.cls.lanes fun k j => pairFlags s.me.snapOrder (r j) (u j) k)
    ∃ r u : Nat → Nat → Rnd, (∀ j k,
      r j k = (if k = 0 then fpTrig f false (A j 0)
        else rsumDiv f (terms 1 k fun i => prod [.int i, A j i, f.decode (u j (k - i)).bits]) k) ∧
      u j k = (if k = 0 then fpTrig f true (A j 0)
        else rsumDiv f (terms 1 k fun i => prod [.int (-(i : Int)), A j i, f.decode (r j (k - i)).bits]) k)) ∧
      lands .sin i r u ∧ lands .cos i' u r := by
  intro A lands
  have hA (j : Nat) : co f (laneAt (s.me.readPlanes oa) j) = A j := funext (co_laneAt f _ j)
  let p := fun (cosine : Bool) (j : Nat) => partnered f (fpTrig f cosine (A j 0)) cosine (A j)
  have hp (cosine : Bool) (j : Nat) := partnered_below f (fpTrig f cosine (A j 0)) cosine (A j)
  have hswap (j : Nat) : pairFst f (p true j) (p false j) = pairSnd f (p false j) (p true j) ∧
      pairSnd f (p true j) (p false j) = pairFst f (p false j) (p true j) :=
    ⟨funext fun k => (pair_swap (hp false j) (hp true j) k).1, funext fun k => (pair_swap (hp false j) (hp true j) k).2⟩
  refine ⟨fun j => pairFst f (p false j) (p true j), fun j => pairSnd f (p false j) (p true j),
    fun j k => ⟨pairFst_eq f (hp false j) k, pairSnd_eq f (fun k C C' h => hp true j k C C' fun i hi => h i hi.le) k⟩,
    lands_pair hf hi rfl fun j => ?_, lands_pair hf hi' rfl fun j => ?_⟩
  · exact jetTrig_eq (by rw [hA]) (by rw [hA]; rfl)
  · rw [← (hswap j).1, ← (hswap j).2]
    exact jetTrig_eq (by rw [hA]) (by rw [hA]; rfl)

/-! ## Compares (R184) -/

theorem Fmt.isNan_of_isSnan {x : Nat} (h : f.isSnan x = true) : f.isNan x = true := by
  unfold Fmt.isSnan at h
  unfold Fmt.isNan
  cases hx : f.decode x <;> rw [hx] at h
  · rfl
  all_goals exact absurd h Bool.noConfusion

theorem plane0_eq {n l : Nat} {x : List (List Nat)} (h : PlanesOf n l x) : x.headD [] = (List.range l).map ((x.getD 0 []).getD · 0) := by
  rw [← plane_eq h (Nat.succ_pos n)]
  cases x <;> rfl

/-- A plane 0 over planes of zeros. -/
theorem plane0_zeros (n l : Nat) (g : Nat → Nat) : (List.range l).map g :: List.replicate n (List.replicate l 0) =
    (List.range (n + 1)).map fun k => (List.range l).map fun j => if k = 0 then g j else 0 := by
  rw [List.range_succ_eq_map, List.map_cons, List.map_map]
  refine congrArg₂ List.cons rfl ?_
  rw [← List.length_range (n := n), ← List.map_const', List.length_range, ← List.length_range (n := l), ← List.map_const']
  simp [Function.comp_def]

theorem lands_compare {p : Nat → Nat → Prop} [∀ u v, Decidable (p u v)] {quiet : Bool} (hf : oa.cls.fmt = some f)
    (hi : abWord i = some ⟨op, sb, d, a, second⟩) (hop : op = .cmpeq ∨ op = .cmplt ∨ op = .cmple)
    (h : ∀ w u v, ((cmpOp op f w u v).1 = true ↔ f.isNan u = false ∧ f.isNan v = false ∧ p u v) ∧
      (cmpOp op f w u v).2 = if f.isSnan u = true ∨ f.isSnan v = true ∨ (quiet = true ∧ (f.isNan u = true ∨ f.isNan v = true)) then 16
        else 0) :
    let at' := fun (o : Opnd) (j : Nat) => ((s.me.readPlanes o).getD 0 []).getD j 0
    LandsLanes s sb d a second od oa ob op i
      (fun k j => if k = 0 ∧ f.isNan (at' oa j) = false ∧ f.isNan (at' ob j) = false ∧ p (at' oa j) (at' ob j)
        then 2 ^ od.cls.width - 1 else 0)
      (joined 1 oa.cls.lanes fun _ j => if f.isSnan (at' oa j) = true ∨ f.isSnan (at' ob j) = true ∨
        (quiet = true ∧ (f.isNan (at' oa j) = true ∨ f.isNan (at' ob j) = true)) then 16 else 0) := by
  refine landsLanes_of hi (fun k hk => by rw [hk] at hop; simp at hop) fun hl => ?_
  obtain ⟨hfd, hfb⟩ := fmts_of_classOk hl hf (by rcases hop with rfl | rfl | rfl <;> rfl)
  have hres : abResult op s.me.snapOrder ⟨od, oa, ob⟩ (s.me.readPlanes od) (s.me.readPlanes oa) (s.me.readPlanes ob) =
      let r := List.zipWith (cmpOp op f od.cls.width) ((s.me.readPlanes oa).headD []) ((s.me.readPlanes ob).headD [])
      (r.map (fun p => if p.1 then 2 ^ od.cls.width - 1 else 0) :: List.replicate s.me.snapOrder (List.replicate od.cls.lanes 0),
        r.foldl (fun x p => x ||| p.2) 0) := by
    unfold abResult
    simp only [hf, Option.getD_some]
    rcases hop with rfl | rfl | rfl <;> rfl
  rw [hres, plane0_eq (planes_first hl hf), plane0_eq (planes_second hl hf hfb), lanes_of_fmt hf hfd, List.zipWith_map, List.zipWith_self]
  simp only [List.map_map, List.foldl_map]
  refine congrArg₂ Prod.mk ((plane0_zeros _ _ _).trans (List.map_congr_left fun k _ => List.map_congr_left fun j _ => ?_)) ?_
  · simp only [Function.comp_apply, (h _ _ _).1, ite_and]
  · simp only [(h _ _ _).2]
    rfl

theorem cmpeq_spec (f : Fmt) (w u v : Nat) :
    ((cmpOp .cmpeq f w u v).1 = true ↔ f.isNan u = false ∧ f.isNan v = false ∧ fpKey f false u = fpKey f false v) ∧
      (cmpOp .cmpeq f w u v).2 = if f.isSnan u = true ∨ f.isSnan v = true ∨ (false = true ∧ (f.isNan u = true ∨ f.isNan v = true))
        then 16 else 0 := by
  constructor
  · simp [cmpOp, and_assoc]
  · simp only [cmpOp, Bool.or_eq_true, Bool.false_eq_true, false_and, or_false]
    rfl

/-- A compare by order sets nv for every NaN, so for every signalling one too. -/
theorem ordered_spec (f : Fmt) (u v : Nat) (p : Prop) [Decidable p] :
    let r := if (f.isNan u || f.isNan v) = true then (false, rowFlags 0 fNv) else (decide p, 0)
    (r.1 = true ↔ f.isNan u = false ∧ f.isNan v = false ∧ p) ∧
      r.2 = if f.isSnan u = true ∨ f.isSnan v = true ∨ (true = true ∧ (f.isNan u = true ∨ f.isNan v = true)) then 16 else 0 := by
  intro r
  have hquiet : (f.isSnan u = true ∨ f.isSnan v = true ∨ (true = true ∧ (f.isNan u = true ∨ f.isNan v = true))) ↔
      (f.isNan u || f.isNan v) = true := by
    rw [Bool.or_eq_true]
    constructor
    · rintro (h | h | ⟨-, h⟩)
      · exact .inl (Fmt.isNan_of_isSnan h)
      · exact .inr (Fmt.isNan_of_isSnan h)
      · exact h
    · exact fun h => .inr (.inr ⟨rfl, h⟩)
  rw [if_congr hquiet rfl rfl]
  by_cases hn : (f.isNan u || f.isNan v) = true
  · rw [show r = (false, rowFlags 0 fNv) from if_pos hn, if_pos hn]
    exact ⟨⟨fun h => absurd h Bool.noConfusion, fun ⟨hu, hv, _⟩ => by simp [hu, hv] at hn⟩, rfl⟩
  · rw [show r = (decide p, 0) from if_neg hn, if_neg hn]
    rw [Bool.not_eq_true, Bool.or_eq_false_iff] at hn
    exact ⟨by simp [hn], rfl⟩

/-! ## The lesser or greater of two (R70) -/

/-- The jet that plane 0 chooses, and nv where both are NaN and one signals (log 66). -/
theorem jetMinMax_eq (f : Fmt) (n : Nat) (isMax : Bool) (x y : List Nat) (p q : Nat → Nat)
    (hx : x = (List.range (n + 1)).map p) (hy : y = (List.range (n + 1)).map q) [Decidable (beats f isMax (q 0) (p 0))] :
    jetMinMax f n isMax x y = ((List.range (n + 1)).map fun k =>
      if f.isNan (p 0) = true ∧ f.isNan (q 0) = true then f.nan else if f.isNan (p 0) = true then q k
      else if f.isNan (q 0) = true then p k else if beats f isMax (q 0) (p 0) then q k else p k,
      if f.isNan (p 0) = true ∧ f.isNan (q 0) = true ∧ (f.isSnan (p 0) = true ∨ f.isSnan (q 0) = true) then 16 else 0) := by
  have hp0 : x.headD 0 = p 0 := by rw [hx, List.range_succ_eq_map]; rfl
  have hq0 : y.headD 0 = q 0 := by rw [hy, List.range_succ_eq_map]; rfl
  have hchoice : (if isMax then (if fpKey f true (p 0) < fpKey f true (q 0) then (y, 0) else (x, 0))
      else (if fpKey f true (q 0) < fpKey f true (p 0) then (y, 0) else (x, 0)) : JetR) =
      if beats f isMax (q 0) (p 0) then (y, 0) else (x, 0) := by
    cases isMax <;> simp [beats]
  simp only [jetMinMax, hp0, hq0, hchoice]
  cases hp : f.isNan (p 0) <;> cases hq : f.isNan (q 0) <;>
    simp only [Bool.false_eq_true, and_true, true_and, false_and, and_false, ↓reduceIte, Bool.or_eq_true]
  · split <;> simp only [hx, hy]
  · exact congrArg (Prod.mk · 0) hx
  · exact congrArg (Prod.mk · 0) hy
  · rw [List.map_const', List.length_range]
    rfl

theorem lands_picks {isMax : Bool} {picks : Nat → Nat → Prop} [∀ u v, Decidable (picks u v)] (hf : oa.cls.fmt = some f)
    (hi : abWord i = some ⟨op, sb, d, a, second⟩) (hg : op.jet2 f s.me.snapOrder = some fun _ => jetMinMax f s.me.snapOrder isMax)
    (hpicks : ∀ u v, picks u v ↔ beats f isMax v u) :
    let x := fun (k j : Nat) => ((s.me.readPlanes oa).getD k []).getD j 0
    let y := fun (k j : Nat) => ((s.me.readPlanes ob).getD k []).getD j 0
    LandsLanes s sb d a second od oa ob op i
      (fun k j => if f.isNan (x 0 j) = true ∧ f.isNan (y 0 j) = true then f.nan else if f.isNan (x 0 j) = true then y k j
        else if f.isNan (y 0 j) = true then x k j else if picks (x 0 j) (y 0 j) then y k j else x k j)
      (joined 1 oa.cls.lanes fun _ j => if f.isNan (x 0 j) = true ∧ f.isNan (y 0 j) = true ∧
        (f.isSnan (x 0 j) = true ∨ f.isSnan (y 0 j) = true) then 16 else 0) := by
  refine lands_jet2 hf hi hg fun hx hy j => ?_
  let _ : Decidable (beats f isMax (((s.me.readPlanes ob).getD 0 []).getD j 0) (((s.me.readPlanes oa).getD 0 []).getD j 0)) :=
    decidable_of_iff _ (hpicks _ _)
  rw [jetMinMax_eq f _ isMax _ _ _ _ (laneAt_eq hx j) (laneAt_eq hy j)]
  simp only [hpicks]

/-! ## Reductions (R72, R189) -/

theorem abResult_reduce {n : Nat} {x y z : List (List Nat)} (hf : oa.cls.fmt = some f) (hop : op = .rmax ∨ op = .rmin) :
    abResult op n ⟨od, oa, ob⟩ z x y =
      let r := reduceMax f n (op == .rmax) (lanesOf oa.cls.lanes x)
      (r.1.map (List.replicate oa.cls.lanes), r.2) := by
  unfold abResult
  simp only [hf, Option.getD_some]
  rcases hop with rfl | rfl <;> rfl

theorem lands_reduce {better : Nat → Nat → Prop} (hf : oa.cls.fmt = some f) (hi : abWord i = some ⟨op, sb, d, a, second⟩)
    (hop : op = .rmax ∨ op = .rmin) (hbetter : ∀ u v, beats f (op == .rmax) u v ↔ better u v) :
    let at' := fun (k j : Nat) => ((s.me.readPlanes oa).getD k []).getD j 0
    let lands := LandsLanes s sb d a second od oa ob op i
    (∀ m, m < oa.cls.lanes → f.isNan (at' 0 m) = false →
      (∀ j, j < oa.cls.lanes → f.isNan (at' 0 j) = false → ¬better (at' 0 j) (at' 0 m) ∧ (j < m → better (at' 0 m) (at' 0 j))) →
      lands (fun k _ => at' k m) 0) ∧
    ((∀ j, j < oa.cls.lanes → f.isNan (at' 0 j) = true) →
      lands (fun _ _ => f.nan) (joined 1 oa.cls.lanes fun _ j => if f.isSnan (at' 0 j) = true then 16 else 0)) := by
  have hj : ∀ k, op ≠ .jset k := fun k hk => by rw [hk] at hop; simp at hop
  simp only [← hbetter]
  constructor
  · intro m hm hn h
    refine landsLanes_of hi hj fun hl => ?_
    have hx := planes_first hl hf
    rw [abResult_reduce hf hop, lanesOf_eq hx.2, reduceMax_picks hm (by rwa [laneAt_headD]) (by simpa only [laneAt_headD] using h),
      laneAt_eq hx]
    simp [Function.comp_def, List.map_const']
  · intro h
    refine landsLanes_of hi hj fun hl => ?_
    rw [abResult_reduce hf hop, lanesOf_eq (planes_first hl hf).2, reduceMax_nan (by simpa only [laneAt_headD] using h)]
    simp only [laneAt_headD, joined_one, List.map_replicate, List.map_const', List.length_range]

theorem lands_rsum (hf : oa.cls.fmt = some f) (hi : abWord i = some ⟨.rsum, sb, d, a, second⟩) :
    let r := fun k => rsum f ((List.range oa.cls.lanes).map fun j => prod [f.decode (((s.me.readPlanes oa).getD k []).getD j 0)])
    LandsLanes s sb d a second od oa ob .rsum i (fun k _ => (r k).bits)
      (joined (s.me.snapOrder + 1) 1 fun k _ => rowFlags k (r k).flags) := by
  refine landsLanes_of hi (fun k hk => nomatch hk) fun hl => ?_
  have hx := planes_first hl hf
  have hsums : (s.me.readPlanes oa).map (reduceSum f) = (List.range (s.me.snapOrder + 1)).map fun k =>
      rsum f ((List.range oa.cls.lanes).map fun j => prod [f.decode (((s.me.readPlanes oa).getD k []).getD j 0)]) := by
    conv_lhs => rw [eq_map_getD [] (s.me.readPlanes oa), hx.1, List.map_map]
    refine List.map_congr_left fun k hk => ?_
    rw [Function.comp_apply, reduceSum]
    conv_lhs => rw [plane_eq hx (List.mem_range.mp hk), List.map_map]
    rfl
  have hres : abResult .rsum s.me.snapOrder ⟨od, oa, ob⟩ (s.me.readPlanes od) (s.me.readPlanes oa) (s.me.readPlanes ob) =
      let r := (s.me.readPlanes oa).map (reduceSum f)
      (r.map (fun x => List.replicate oa.cls.lanes x.bits), r.zipIdx.foldl (fun x p => x ||| rowFlags p.2 p.1.flags) 0) := by
    simp only [abResult, hf, Option.getD_some]
  rw [hres, hsums]
  simp only [map_range_zipIdx, List.map_map, List.foldl_map, Function.comp_def, List.map_const', List.length_range]
  rfl

/-! ## JEXT.F (R71, R192) -/

theorem fact_eq : ∀ n, fact n = n.factorial
  | 0 => rfl
  | n + 1 => congrArg ((n + 1) * ·) (fact_eq n)

theorem lands_jext {m : Nat} (hf : oa.cls.fmt = some f) (hi : abWord i = some ⟨.jext true m, sb, d, a, second⟩) :
    let r := fun j => rsum f [prod [.int m.factorial, f.decode (((s.me.readPlanes oa).getD m []).getD j 0)]]
    LandsLanes s sb d a second od oa ob (.jext true m) i (fun k j => if k = 0 then (r j).bits else 0)
      (joined 1 oa.cls.lanes fun _ j => (r j).flags) := by
  refine landsLanes_of hi (fun k hk => nomatch hk) fun hl => ?_
  have hfd : od.cls.fmt = some f := (sameFmt_fmt hl.classes).trans hf
  have hm : m < s.me.snapOrder + 1 := Nat.lt_succ_of_le (of_decide_eq_true hl.own)
  have hres : abResult (.jext true m) s.me.snapOrder ⟨od, oa, ob⟩ (s.me.readPlanes od) (s.me.readPlanes oa) (s.me.readPlanes ob) =
      let r := ((s.me.readPlanes oa).getD m []).map (factCoeff f m)
      (r.map (·.bits) :: List.replicate s.me.snapOrder (List.replicate od.cls.lanes 0),
        r.foldl (fun x e => x ||| rowFlags 0 e.flags) 0) := by
    simp only [abResult, hf, Option.getD_some, ↓reduceIte]
  rw [plane_eq (planes_first hl hf) hm] at hres
  rw [hres, lanes_of_fmt hf hfd]
  simp only [List.map_map, List.foldl_map, Function.comp_def, factCoeff, fact_eq, plane0_zeros, joined_one, rowFlags, Nat.mul_zero,
    Nat.pow_zero, Nat.mul_one]

end

end Sys2Proof.Machine
end

section
/-! CLAIM. The floating-point lane operations (O39). -/

open Sys2Proof.Machine Sys2Proof.Claims in
/-- Settles O39: a lane's jet by what forms its coefficients in order, alone or beside a partner, and the lanes' jets turned back into
planes; the other words by plane 0. -/
theorem floatLanes : Obligations.FloatLanes := by
  intro c sb d a b od oa ob f s hf n l x y z slot at' A B D lands jets two grows coupled key picks compares reduces
  have hgrows {op i second first next} (h : LandsGrown s sb d a second od oa ob f op i first next) :
    grows op i second (op.latency n) first next := h
  have hpicks {op i isMax} (p : Nat → Nat → Prop) [∀ u v, Decidable (p u v)] (hl : op.latency n = 2 + n)
      (hi : abWord i = some ⟨op, sb, d, a, some b⟩) (hg : op.jet2 f n = some fun _ => jetMinMax f n isMax)
      (hp : ∀ u v, p u v ↔ beats f isMax v u) : picks op i p := fun h => hl ▸ lands_picks hf hi hg hp h
  have hcompares {op i quiet} (p : Nat → Nat → Prop) [∀ u v, Decidable (p u v)] (hl : op.latency n = 2 + n)
      (hi : abWord i = some ⟨op, sb, d, a, some b⟩) (hop : op = .cmpeq ∨ op = .cmplt ∨ op = .cmple)
      (hp : ∀ w u v, ((cmpOp op f w u v).1 = true ↔ f.isNan u = false ∧ f.isNan v = false ∧ p u v) ∧
        (cmpOp op f w u v).2 = if f.isSnan u = true ∨ f.isSnan v = true ∨ (quiet = true ∧ (f.isNan u = true ∨ f.isNan v = true)) then 16
          else 0) : compares op i p quiet := fun h => hl ▸ lands_compare hf hi hop hp h
  clear_value grows picks compares
  refine ⟨?_, ?_, ?_, ?_, ?_, ?_, ?_, ?_, ?_, ?_, ?_, ?_, ?_, ?_, ?_, ?_, ?_, ?_, ?_, ?_, ?_, ?_, ?_⟩
  · exact lands_jet2_of hf rfl rfl fun j => by simp only [jetAdd, co_laneAt]; exact jet_eq _ n
  · exact lands_jet2_of hf rfl rfl fun j => by simp only [jetAdd, co_laneAt]; exact jet_eq _ n
  · exact lands_jet2_of hf rfl rfl fun j => by simp only [jetMul, co_laneAt]; exact jet_eq _ n
  · exact lands_jet2_of hf rfl rfl fun j => by simp only [jetFma, co_laneAt]; exact jet_eq _ n
  · exact lands_jet2_of hf rfl rfl fun j => by simp only [jetFma, co_laneAt]; exact jet_eq _ n
  · refine hgrows (lands_grown2 hf rfl rfl (fun j k C C' hk h => ?_) fun j => ?_)
    · rw [terms_congr fun i h1 h2 => by rw [h (k - i) (by omega)]]
    · simp only [jetDiv, co_laneAt]
      rfl
  · refine hgrows (lands_grown1 hf rfl rfl (fun j k C C' hk h => ?_) fun j => ?_)
    · rw [terms_congr fun i h1 h2 => by rw [h (k - i) (by omega)]]
    · simp only [jetRcp, co_laneAt]
      rfl
  · refine hgrows (lands_grown1 hf rfl rfl (fun j k C C' hk h => ?_) fun j => ?_)
    · rw [terms_congr fun i h1 h2 => by rw [h i (by omega), h (k - i) (by omega)], h 0 hk]
    · simp only [jetSqrt, co_laneAt]
      rfl
  · refine hgrows (lands_grown1 hf rfl rfl (fun j k C C' hk h => ?_) fun j => ?_)
    · rw [terms_congr fun i h1 h2 => by rw [h (k - i) (by omega)]]
    · simp only [jetRsqrt, co_laneAt]
      rfl
  · refine hgrows (lands_grown1 hf rfl rfl (fun j k C C' hk h => ?_) fun j => ?_)
    · rw [terms_congr fun i h1 h2 => by rw [h (k - i) (by omega)]]
    · simp only [jetExp, co_laneAt]
      rfl
  · refine hgrows (lands_grown1 hf rfl rfl (fun j k C C' hk h => ?_) fun j => ?_)
    · rw [terms_congr fun i h1 h2 => by rw [h i (by omega)]]
    · simp only [jetLog, co_laneAt]
      rfl
  · exact lands_partnered hf rfl rfl (tanhAux_upTo f) (jetTanh_eq f n)
  · exact lands_partnered hf rfl rfl (sigmAux_upTo f) (jetSigm_eq f n)
  · exact lands_trig hf rfl rfl
  · exact hpicks _ rfl rfl rfl fun u v => Iff.rfl
  · exact hpicks _ rfl rfl rfl fun u v => Iff.rfl
  · exact lands_reduce hf rfl (.inl rfl) fun u v => Iff.rfl
  · exact lands_reduce hf rfl (.inr rfl) fun u v => Iff.rfl
  · exact hcompares _ rfl rfl (.inl rfl) (cmpeq_spec f)
  · exact hcompares _ rfl rfl (.inr (.inl rfl)) fun _ u v => ordered_spec f u v _
  · exact hcompares _ rfl rfl (.inr (.inr rfl)) fun _ u v => ordered_spec f u v _
  · exact lands_rsum hf rfl
  · exact fun m => lands_jext hf rfl
end

section
/-! CLAIM. The words of the M slot (O41). The counterexample is a view register that holds an accumulator view of width 0. -/

namespace Sys2Proof.Machine

/-- How many bytes each result under way on the current core is to write to the register space. -/
def bytesUnderWay (o : Out) : List Nat :=
  match o with
  | .next s => s.me.landing.map fun l => match l.v with | .bytes _ v => v.length | _ => 0
  | _ => []

/-- An accumulator view of one name whose W / 8 is 0: `SETV` takes any word, and only the issue of a loop command checks R32. -/
def accViewWidth0 : Word64 := BitVec.ofNat 64 (3 * 2 ^ 61 + 2 ^ 43)

/-- A vector view of one name at byte 0x4000. -/
def vecView : Word64 := BitVec.ofNat 64 (2 ^ 61 + 2 ^ 43 + 0x4000)

/-- A running core 0 with those two views. -/
def accWidth0 : State :=
  { State.reset with cores := [(0, { Core.reset with run := .running, views := #v[accViewWidth0, vecView, 0, 0, 0, 0, 0, 0] })] }

/-- The plane of an accumulator of width 0 has no columns, so its conversion lands no byte. -/
theorem accCvt_lands_nothing : bytesUnderWay (exec (.accCvtF32 false 0 0) accWidth0) = [0] := by decide +kernel

end Sys2Proof.Machine

open Sys2Proof.Machine in
/-- Refutes O41: with an accumulator view of W = 0, which R32 refuses but the statement admits, a plane of the accumulator has no
columns, and ACC.CVT.F32 lands none of the 64 lanes (256 bytes) that the statement gives it. -/
theorem not_matrixWords : ¬ Obligations.MatrixWords := by
  intro h
  obtain ⟨-, -, -, -, -, -, -, hcvt, -⟩ := h false 0 0 0 0 0 0 0 ⟨0, 0, 1, .acc 0⟩ ⟨0x4000, 256, 1, .vec⟩ accWidth0
  obtain ⟨hlands, -⟩ := hcvt (by decide +kernel) (by decide +kernel)
  have hbytes := congrArg bytesUnderWay hlands
  rw [accCvt_lands_nothing] at hbytes
  revert hbytes
  decide +kernel
end

section
/-! SUPPORT. Plain stores and the sync words that commands in flight may still arrive at (R95): which words those are, and what a
store that meets one leaves. -/

namespace Sys2Proof.Machine

open Sys2Proof.Claims

/-! ## Bytes of a number -/

theorem toBytes_getD : ∀ {n k : Nat} (v : Nat), k < n → (toBytes n v).getD k 0 = BitVec.ofNat 8 (v / 2 ^ (8 * k))
  | n + 1, 0, v, _ => by simp [toBytes]
  | n + 1, k + 1, v, h => by
    rw [toBytes, List.getD_cons_succ, toBytes_getD _ (Nat.lt_of_succ_lt_succ h), Nat.div_div_eq_div_mul, show 256 = 2 ^ 8 from rfl,
      ← pow_add, show 8 + 8 * k = 8 * (k + 1) by omega]

/-! ## The words awaited -/

/-- What a table lists after a write it listed before, or it is the entry written. -/
theorem mem_tabSet_entry {α : Type} [DecidableEq α] (d : α) : ∀ {t : Tab α} {k : Nat} {x : α} {p : Nat × α},
    p ∈ tabSet d t k x → p ∈ t ∨ p = (k, x)
  | [], k, x, p, h => by
    rw [tabSet] at h
    split at h
    · exact .inl h
    · exact .inr (List.mem_singleton.mp h)
  | (j, v) :: t, k, x, p, h => by
    rw [tabSet] at h
    split_ifs at h
    · exact .inl h
    · exact (List.mem_cons.mp h).symm
    · exact .inl (List.mem_cons_of_mem _ (mem_tabDrop h))
    · exact (List.mem_cons.mp h).symm.imp (List.mem_cons_of_mem _) id
    · rcases List.mem_cons.mp h with rfl | h
      · exact .inl List.mem_cons_self
      · exact (mem_tabSet_entry d h).imp (List.mem_cons_of_mem _) id

/-- What a table gives it lists under that number, or it is the default. -/
theorem tabGet_listed {α : Type} (d : α) : ∀ (t : Tab α) (k : Nat), (k, tabGet d t k) ∈ t ∨ tabGet d t k = d
  | [], _ => .inr rfl
  | (j, v) :: t, k => by
    rw [tabGet]
    split_ifs with h1 h2
    · exact .inr rfl
    · exact .inl (h2 ▸ List.mem_cons_self)
    · exact (tabGet_listed d t k).imp (List.mem_cons_of_mem _) id

theorem mem_awaitedWords {s : State} {c : CoreId} {w : Nat} : w ∈ s.awaitedWords c ↔ w + 16 ≤ 0x40000 ∧ ∃ p ∈ s.cores,
    ∃ u ∈ p.2.liveTags, u.2.t = true ∧ u.2.phase ≠ .finished ∧ u.2.targetCore (BitVec.ofNat 8 p.1) = c ∧ u.2.target.toNat = w := by
  simp only [State.awaitedWords, List.mem_dedup, List.mem_filter, List.mem_flatMap, List.mem_filterMap, decide_eq_true_eq,
    Option.ite_none_right_eq_some, Option.some.injEq, Bool.and_eq_true, bne_iff_ne, beq_iff_eq, and_assoc]
  exact and_comm

/-- A change of a core that leaves its tags alone awaits no word that was not awaited. -/
theorem awaitedWords_setCore {s : State} {k c : CoreId} {x : Core} (h : x.tags = (s.core k).tags) {w : Nat}
    (hw : w ∈ (s.setCore k x).awaitedWords c) : w ∈ s.awaitedWords c := by
  obtain ⟨hin, p, hp, hu⟩ := mem_awaitedWords.mp hw
  refine mem_awaitedWords.mpr ⟨hin, ?_⟩
  rcases mem_tabSet_entry _ hp with hp | rfl
  · exact ⟨p, hp, hu⟩
  · have hlive : x.liveTags = (s.core k).liveTags := by rw [Core.liveTags, h, Core.liveTags]
    rw [hlive] at hu
    rcases tabGet_listed Core.reset s.cores k.toNat with hl | hl
    · exact ⟨_, hl, hu⟩
    · obtain ⟨u, hu, -⟩ := hu
      rw [State.core, hl] at hu
      exact absurd hu List.not_mem_nil

theorem unawaited_setCore {s : State} {k c : CoreId} {x : Core} {a n : Nat} (hu : unawaited s c a n) (h : x.tags = (s.core k).tags) :
    unawaited (s.setCore k x) c a n := fun w hw => hu w (awaitedWords_setCore h hw)

/-! ## What a store that meets an awaited word leaves -/

section
variable {s : State} {k : CoreId} {a n : Nat}

/-- A store that meets no awaited word has no further effect. -/
theorem State.spoil_unawaited (h : unawaited s k a n) : s.spoil k a n = s := by
  have hnone : (s.awaitedWords k).filter (fun w => overlaps (w, 16) (a, n)) = [] := by
    refine List.filter_eq_nil_iff.mpr fun w hw => ?_
    have := h w hw
    simp only [overlaps, Bool.and_eq_true, decide_eq_true_eq]
    omega
  rw [State.spoil, hnone]

/-- Storage beyond plain scratch holds no sync word (R94). -/
theorem unawaited_beyond (h : 0x40000 ≤ a) : unawaited s k a n := fun _ hw =>
  .inl ((mem_awaitedWords.mp hw).1.trans h)

/-- A store of `n` bytes of a core's scratch that awaited words may spoil: what differs of the state is the core's scratch and dirty
map and the counter of free values, and of its scratch only bytes that awaited words of `s` hold. -/
structure Spoiled (s t : State) (k : CoreId) : Prop where
  card : { t with cores := s.cores, seq := s.seq } = s
  others : ∀ j, j ≠ k → t.core j = s.core j
  core : { t.core k with scratch := (s.core k).scratch, dirty := (s.core k).dirty } = s.core k
  bytes : ∀ y, unawaited s k y 1 → memGet (t.core k).scratch y = memGet (s.core k).scratch y

theorem Spoiled.refl (s : State) (k : CoreId) : Spoiled s s k := ⟨rfl, fun _ _ => rfl, rfl, fun _ _ => rfl⟩

/-- A further write of an awaited word. -/
theorem Spoiled.write {t : State} {w : Nat} {v : List Byte} (h : Spoiled s t k) (hw : w ∈ s.awaitedWords k) (hv : v.length = 16) :
    Spoiled s (t.modCore k fun x => x.writeScratch w v) k where
  card := h.card
  others j hj := (State.core_modCore_ne t _ hj).trans (h.others j hj)
  core := by rw [State.core_modCore]; exact h.core
  bytes y hy := by
    rw [State.core_modCore]
    refine (memGet_memWrite_out _ _ _ _ ?_).trans (h.bytes y hy)
    have := hy w hw
    omega

theorem State.spoil_spoiled (s : State) (k : CoreId) (a n : Nat) : Spoiled s (s.spoil k a n) k := by
  have hawaited : ∀ w ∈ (s.awaitedWords k).filter fun w => overlaps (w, 16) (a, n), w ∈ s.awaitedWords k :=
    fun w hw => (List.mem_filter.mp hw).1
  unfold State.spoil
  generalize (s.awaitedWords k).filter (fun w => overlaps (w, 16) (a, n)) = ws at hawaited ⊢
  split
  · exact Spoiled.refl s k
  · have hfold := List.foldlRecOn (motive := fun t => Spoiled s t k) ws (fun (t : State) w => t.modCore k fun x =>
      x.writeScratch w ((List.range 16).map fun i => Config.freeByte s.seq (w + i))) (Spoiled.refl s k)
      fun t ht w hw => ht.write (hawaited w hw) (by simp)
    exact ⟨hfold.card, hfold.others, hfold.core, hfold.bytes⟩

end

end Sys2Proof.Machine
end

section
/-! SUPPORT. Loads and stores of the control stream (R135, R136): where they go, and what they do there. -/

namespace Sys2Proof.Machine

open Sys2Proof.Claims

section
variable {c : Core} {a n : Nat}

/-- An access of plain storage that is aligned reaches its address (R135, R38). -/
theorem Core.lsAddr_plainStorage {amo : Bool} (hn : 0 < n) (hm : a % n = 0) (h : plainStorage c a n) :
    c.lsAddr (a : Int) n amo = .at a := by
  rcases h with hp | ⟨hlo, hhi, hmode, hpending⟩
  · exact Core.lsAddr_plain c a n amo hn hp hm
  · have hrange : ¬((a : Int) < 0 ∨ (2 : Int) ^ 20 < (a : Int) + (n : Int)) := by omega
    have hregion : region a = .window (BitVec.ofNat 5 ((a - 0x40000) / 0x3000)) := by
      rw [region, if_neg (by omega), if_pos (by omega)]
    simp only [Core.lsAddr, hrange, if_false, Int.toNat_natCast, hm, ne_eq, not_true_eq_false, hregion, hpending, hmode,
      Bool.false_eq_true]

theorem plainStorage_below (hn : 0 < n) (h : plainStorage c a n) : a < 0xA0000 := by
  rcases h with h | ⟨-, h, -⟩ <;> omega

theorem region_storage (h : a < 0xA0000) : region a ≠ .control := by
  rw [region]
  split
  · exact nofun
  · exact nofun

theorem Core.lsRead_storage (id : CoreId) (h : a < 0xA0000) : c.lsRead id a n = memNat c.scratch a n := by
  unfold Core.lsRead
  split
  · exact absurd ‹_› (region_storage h)
  · rfl

theorem Core.lsWrite_storage (v : Nat) (h : a < 0xA0000) : c.lsWrite a n v = c.writeScratch a (toBytes n v) := by
  unfold Core.lsWrite
  split
  · exact absurd ‹_› (region_storage h)
  · rfl

end

section
variable {s : State} {b : BitVec 5} {w : BitVec 2} {i : Imm 12} {a : Nat}

/-- A load that reaches an address writes what it reads there. -/
theorem load_at (sx : Bool) (g : BitVec 5) (again : Instr) (h : s.me.lsAddr (s.me.ea b i) (2 ^ w.toNat) false = .at a) :
    load s sx g b w i again = .next (woken s g
      (let v := s.me.lsRead s.cur a (2 ^ w.toNat)
       if sx then BitVec.ofInt 64 (sext (8 * 2 ^ w.toNat) v) else BitVec.ofNat 64 v) (immWords i)) := by
  simp only [load, h]
  rfl

/-- A store that reaches an address writes there, and may meet a sync word. -/
theorem execSt_at (g : BitVec 5) (h : s.me.lsAddr (s.me.ea b i) (2 ^ w.toNat) false = .at a) :
    exec (.st g b w i) s = .next ((s.setMe ((s.me.awake.lsWrite a (2 ^ w.toNat) (s.me.gr g).toNat).adv (immWords i))).spoil s.cur a
      (2 ^ w.toNat)) := by
  show execSt g b w i s = _
  simp only [execSt, h]

end

end Sys2Proof.Machine
end

section
/-! CLAIM. Loads and stores of plain scratch (O8). -/

open Sys2Proof.Machine Sys2Proof.Claims in
/-- Settles O8: an access of plain storage reaches its address; a store writes its bytes there, and an awaited sync word that it meets
takes free bytes beside (`State.spoil_spoiled`). -/
theorem scratchLoadsAndStores : Obligations.ScratchLoadsAndStores := by
  have hreach {b : BitVec 5} {w : BitVec 2} {i : Sys2Proof.Imm 12} {a : Nat} {s : State} (he : (s.me.gr b).toInt + (imm12 i).toInt = a)
      (hm : a % 2 ^ w.toNat = 0) (hp : plainStorage s.me a (2 ^ w.toNat)) :
      s.me.lsAddr (s.me.ea b i) (2 ^ w.toNat) false = .at a := by
    rw [Core.ea, he]
    exact Core.lsAddr_plainStorage (by positivity) hm hp
  refine ⟨fun g b w i a s he hm hp => ?_, fun g b w i a s he hm hp => ?_⟩ <;>
    have hat := hreach he hm hp <;> have hlow := plainStorage_below (by positivity) hp
  · intro v
    have hv : s.me.lsRead s.cur a (2 ^ w.toNat) = v := Core.lsRead_storage s.cur hlow
    refine ⟨(load_at false g _ hat).trans ?_, (load_at true g _ hat).trans ?_⟩ <;> rw [hv] <;> rfl
  · have hexec := execSt_at g hat
    rw [Core.lsWrite_storage _ hlow] at hexec
    let x := ((s.me.awake.writeScratch a (Sys2Proof.toBytes (2 ^ w.toNat) (s.me.gr g).toNat)).adv (immWords i))
    have hspoil := State.spoil_spoiled (s.setMe x) s.cur a (2 ^ w.toNat)
    have hawait {y n} (h : unawaited s s.cur y n) : unawaited (s.setMe x) s.cur y n := unawaited_setCore h rfl
    have hx : (s.setMe x).core s.cur = x := State.me_setMe s x
    have hcur : ((s.setMe x).spoil s.cur a (2 ^ w.toNat)).me = ((s.setMe x).spoil s.cur a (2 ^ w.toNat)).core s.cur := by
      rw [State.me, (State.spoil_frame _ _ _ _).2.2.2.2.2]
      rfl
    obtain ⟨hcard, hothers, hcore, hbytes⟩ := hspoil
    rw [hx] at hcore
    rw [← hcur] at hcore hbytes
    rw [hx] at hbytes
    have hin (y) (hy : unawaited s s.cur y 1) := hbytes y (hawait hy)
    have hlen : (Sys2Proof.toBytes (2 ^ w.toNat) (s.me.gr g).toNat).length = 2 ^ w.toNat := toBytes_length _ _
    refine ⟨_, hexec, ?_, fun hu => ?_, fun k hk => ?_, ?_, fun k hk hu => ?_, fun y hy hu => ?_, fun hu y hy => ?_, ?_⟩
    · exact congrArg (fun u : State => { u with cores := s.cores, seq := s.seq }) hcard
    · rw [State.spoil_unawaited (hawait hu)]
      rfl
    · rw [hothers k hk, State.core_setMe_ne s x hk]
    · exact congrArg Core.pc hcore
    · rw [hin _ hu]
      exact (memGet_memWrite_in _ _ _ _ (hlen.symm ▸ hk)).trans (toBytes_getD _ hk)
    · rw [hin _ hu]
      exact memGet_memWrite_out _ _ _ _ (hlen.symm ▸ hy)
    · rw [State.spoil_unawaited (hawait hu), State.me_setMe]
      exact memGet_memWrite_out _ _ _ _ (hlen.symm ▸ hy)
    · exact congrArg (fun u : Core => { u with
        scratch := s.me.scratch, dirty := s.me.dirty, wait := s.me.wait, pc := s.me.pc, pcFrom := s.me.pcFrom }) hcore
end

section
/-! SUPPORT. The control page (R76, R136): where an access of it goes, and what its words are. -/

namespace Sys2Proof.Machine

open Sys2Proof.Claims

/-! ## Accesses of the page -/

/-- An address of the control page. -/
def pageAt (o : Nat) : Nat := 0xF0000 + o

/-- An offset of the page at which an access of 4 or of 8 bytes may be made. -/
def inPage (o n : Nat) : Prop := (n = 4 ∨ n = 8) ∧ o % n = 0 ∧ o + n ≤ 0x1000

section
variable {c : Core} {o n : Nat}

theorem region_page (h : o < 0x1000) : region (pageAt o) = .control := by
  rw [region, pageAt, if_neg (by omega), if_neg (by omega), if_pos (by omega)]

/-- An aligned access of 4 or 8 bytes reaches the page (R136). -/
theorem Core.lsAddr_page (h : inPage o n) : c.lsAddr (pageAt o : Int) n false = .at (pageAt o) := by
  obtain ⟨hn, hm, hend⟩ := h
  have hrange : ¬((pageAt o : Int) < 0 ∨ (2 : Int) ^ 20 < (pageAt o : Int) + (n : Int)) := by simp only [pageAt]; omega
  have halign : pageAt o % n = 0 := by rcases hn with rfl | rfl <;> simp only [pageAt] <;> omega
  have hwide : (false || decide (n < 4)) = false := by rw [Bool.false_or, decide_eq_false_iff_not]; omega
  simp only [Core.lsAddr, hrange, if_false, Int.toNat_natCast, halign, ne_eq, not_true_eq_false,
    region_page (o := o) (by omega), hwide, Bool.false_eq_true]

theorem Core.lsRead_page (id : CoreId) (h : o < 0x1000) : c.lsRead id (pageAt o) n =
    c.pageWord id o + (if n = 8 then c.pageWord id (o + 4) * 2 ^ 32 else 0) := by
  have ho : pageAt o - 0xF0000 = o := Nat.add_sub_cancel_left _ _
  rw [Core.lsRead, region_page h]
  simp only [ho]

theorem Core.lsWrite_page (v : Nat) (h : o < 0x1000) : c.lsWrite (pageAt o) n v = c.pageStore o n v := by
  have ho : pageAt o - 0xF0000 = o := Nat.add_sub_cancel_left _ _
  rw [Core.lsWrite, region_page h]
  simp only [ho]

end

section
variable {s : State} {b : BitVec 5} {w : BitVec 2} {o : Nat}

/-- An access with no offset goes to its base register. -/
theorem Core.ea_page (hb : (s.me.gr b).toNat = pageAt o) (ho : o < 0x1000) : s.me.ea b ⟨0, .none⟩ = (pageAt o : Int) := by
  have hint : (s.me.gr b).toInt = (pageAt o : Int) := by
    rw [BitVec.toInt_eq_toNat_of_lt (by rw [hb, pageAt]; omega), hb]
  have himm : (imm12 ⟨0, .none⟩).toInt = 0 := by decide
  rw [Core.ea, hint, himm, add_zero]

theorem lsAddr_register (hb : (s.me.gr b).toNat = pageAt o) (h : inPage o (2 ^ w.toNat)) :
    s.me.lsAddr (s.me.ea b ⟨0, .none⟩) (2 ^ w.toNat) false = .at (pageAt o) := by
  obtain ⟨hn, -, hend⟩ := id h
  rw [Core.ea_page hb (by omega), Core.lsAddr_page h]

/-- A load of the page (R136). -/
theorem exec_ld_page (g : BitVec 5) (hb : (s.me.gr b).toNat = pageAt o) (h : inPage o (2 ^ w.toNat)) :
    exec (.ld g b w ⟨0, .none⟩) s = .next (woken s g (BitVec.ofNat 64
      (s.me.pageWord s.cur o + (if 2 ^ w.toNat = 8 then s.me.pageWord s.cur (o + 4) * 2 ^ 32 else 0))) 1) := by
  have ho : o < 0x1000 := by obtain ⟨hn, -, hend⟩ := id h; omega
  refine (load_at false g _ (lsAddr_register hb h)).trans ?_
  rw [Core.lsRead_page s.cur ho]
  rfl

/-- A store to the page: no sync word lies there (R94, R136). -/
theorem exec_st_page (g : BitVec 5) (hb : (s.me.gr b).toNat = pageAt o) (h : inPage o (2 ^ w.toNat)) :
    exec (.st g b w ⟨0, .none⟩) s = .next (s.setMe ((s.me.awake.pageStore o (2 ^ w.toNat) (s.me.gr g).toNat).adv 1)) := by
  have ho : o < 0x1000 := by obtain ⟨hn, -, hend⟩ := id h; omega
  rw [execSt_at g (lsAddr_register hb h), Core.lsWrite_page _ ho, State.spoil_unawaited (unawaited_beyond (by rw [pageAt]; omega))]
  rfl

end

/-! ## Its words -/

section
variable (c : Core) (id : CoreId)

theorem Core.pageWord_id : c.pageWord id 0 = id.toNat := rfl

theorem Core.pageWord_status {k : Nat} (h : k < 32) : c.pageWord id (0x100 + 4 * k) = (c.bank (BitVec.ofNat 5 k)).status := by
  have hk : (0x100 + 4 * k - 0x100) / 4 = k := by omega
  rw [Core.pageWord, if_neg (by omega), if_pos (by omega), hk]

theorem Core.pageWord_mask (k : Fin 16) : c.pageWord id (0x200 + 8 * k) = (c.accOvf[k]).toNat % 2 ^ 32 := by
  have hk : (0x200 + 8 * k.val - 0x200) / 8 % 16 = k := by omega
  rw [Core.pageWord, if_neg (by omega), if_neg (by omega), if_pos (by omega)]
  simp only [hk]
  rw [if_neg (by omega), bits, fld, Nat.pow_zero, Nat.div_one]
  rfl

theorem Core.pageWord_mask_high (k : Fin 16) : c.pageWord id (0x204 + 8 * k) = (c.accOvf[k]).toNat / 2 ^ 32 := by
  have hk : (0x204 + 8 * k.val - 0x200) / 8 % 16 = k := by omega
  rw [Core.pageWord, if_neg (by omega), if_neg (by omega), if_pos (by omega)]
  simp only [hk]
  rw [if_pos (by omega), bits, fld]
  exact Nat.mod_eq_of_lt (by have := (c.accOvf[k]).isLt; simp only [Fin.getElem_fin] at this; omega)

theorem Core.pageWord_other {o : Nat} (h0 : o ≠ 0) (h : o < 0x100 ∨ (0x180 ≤ o ∧ o < 0x200) ∨ 0x280 ≤ o) : c.pageWord id o = 0 := by
  rw [Core.pageWord, if_neg h0, if_neg (by omega), if_neg (by omega)]

/-- A store to a mask clears the bits that are 1 in what it stores (R136). -/
theorem Core.pageStore_mask (k : Fin 16) {o n v m : Nat} (h : o = 0x200 + 8 * k ∨ o = 0x204 + 8 * k)
    (hm : (if n = 8 then v else if (o - 0x200) / 4 % 2 = 1 then v % 2 ^ 32 * 2 ^ 32 else v % 2 ^ 32) = m) :
    c.pageStore o n v = { c with accOvf := c.accOvf.set k (c.accOvf[k] &&& ~~~(BitVec.ofNat 64 m)) } := by
  have hk : (o - 0x200) / 8 % 16 = k := by omega
  rw [Core.pageStore, if_pos (by omega)]
  simp only [hm, hk]
  rfl

theorem Core.pageStore_other {o n v : Nat} (h : ¬(0x200 ≤ o ∧ o < 0x280)) : c.pageStore o n v = c := if_neg h

end

end Sys2Proof.Machine
end

section
/-! CLAIM. Loads and stores of the control page (O9). -/

open Sys2Proof.Machine in
/-- Settles O9: an access of the page reaches it, and each of its words is what R76 gives. -/
theorem controlPage : Obligations.ControlPage := by
  refine ⟨fun g b s => ?_, fun g b s => ?_⟩
  · intro ld4 ld8
    have hld4 {o v : Nat} (ho : o % 4 = 0) (hend : o < 0x1000) (hv : s.me.pageWord s.cur o = v) : ld4 o v := fun hb => by
      rw [← hv]
      exact exec_ld_page (w := 2) g hb ⟨.inl rfl, ho, show o + 4 ≤ 0x1000 by omega⟩
    have hld8 {o v : Nat} (ho : o % 8 = 0) (hend : o < 0x1000)
        (hv : s.me.pageWord s.cur o + s.me.pageWord s.cur (o + 4) * 2 ^ 32 = v) : ld8 o v := fun hb => by
      rw [← hv]
      exact exec_ld_page (w := 3) g hb ⟨.inr rfl, ho, show o + 8 ≤ 0x1000 by omega⟩
    refine ⟨hld4 rfl (by decide) rfl, hld8 rfl (by decide) ?_, fun k => hld4 (by omega) (by omega) ?_,
      fun k => hld8 (by omega) (by omega) ?_, fun k => ⟨hld8 (by omega) (by omega) ?_, hld4 (by omega) (by omega) ?_,
        hld4 (by omega) (by omega) ?_⟩, fun o ho hend h0 h => hld4 ho hend (Core.pageWord_other _ _ h0 h)⟩
    · rw [Core.pageWord_id, Core.pageWord_other _ _ (by decide) (.inl (by decide)), Nat.zero_mul, Nat.add_zero]
    · have hk : (BitVec.ofNat 5 k.val).toNat = k := by rw [BitVec.toNat_ofNat]; omega
      rw [Core.pageWord_status _ _ k.isLt, Core.bank]
      simp only [hk]
      rfl
    · rw [show 0x100 + 8 * k.val = 0x100 + 4 * (2 * k) by omega, show 0x100 + 4 * (2 * k.val) + 4 = 0x100 + 4 * (2 * k + 1) by omega,
        Core.pageWord_status _ _ (by omega), Core.pageWord_status _ _ (by omega), Nat.mul_comm (2 ^ 32)]
    · rw [show 0x200 + 8 * k.val + 4 = 0x204 + 8 * k by omega, Core.pageWord_mask, Core.pageWord_mask_high]
      omega
    · exact Core.pageWord_mask _ _ k
    · exact Core.pageWord_mask_high _ _ k
  · intro v
    have hst4 {o : Nat} (ho : o % 4 = 0) (hend : o < 0x1000) (hb : (s.me.gr b).toNat = pageAt o) :
        exec (.st g b 2 ⟨0, .none⟩) s = .next (s.setMe ((s.me.awake.pageStore o 4 v.toNat).adv 1)) :=
      exec_st_page (w := 2) g hb ⟨.inl rfl, ho, show o + 4 ≤ 0x1000 by omega⟩
    have hst8 {o : Nat} (ho : o % 8 = 0) (hend : o < 0x1000) (hb : (s.me.gr b).toNat = pageAt o) :
        exec (.st g b 3 ⟨0, .none⟩) s = .next (s.setMe ((s.me.awake.pageStore o 8 v.toNat).adv 1)) :=
      exec_st_page (w := 3) g hb ⟨.inr rfl, ho, show o + 8 ≤ 0x1000 by omega⟩
    have hlow : BitVec.ofNat 64 (v.toNat % 2 ^ 32) = v &&& 0xFFFFFFFF := by
      refine BitVec.eq_of_toNat_eq ?_
      rw [BitVec.toNat_ofNat, BitVec.toNat_and, Nat.mod_eq_of_lt (by omega)]
      exact (Nat.and_two_pow_sub_one_eq_mod v.toNat 32).symm
    have hhigh : BitVec.ofNat 64 (v.toNat % 2 ^ 32 * 2 ^ 32) = v <<< 32 := by
      refine BitVec.eq_of_toNat_eq ?_
      rw [BitVec.toNat_ofNat, BitVec.toNat_shiftLeft, Nat.shiftLeft_eq]
      omega
    refine ⟨fun k hb => ⟨?_, ?_⟩, fun k hb => ?_, fun o ho hb => ⟨fun h4 => ?_, fun h8 => ?_⟩⟩
    · rw [hst8 (o := 0x200 + 8 * k) (by omega) (by omega) (by rw [hb, pageAt]; omega),
        Core.pageStore_mask _ k (.inl rfl) (if_pos rfl), BitVec.ofNat_toNat, BitVec.setWidth_eq]
      rfl
    · rw [hst4 (o := 0x200 + 8 * k) (by omega) (by omega) (by rw [hb, pageAt]; omega),
        Core.pageStore_mask _ k (.inl rfl) ((if_neg (by decide)).trans (if_neg (by omega))), hlow]
      rfl
    · rw [hst4 (o := 0x204 + 8 * k) (by omega) (by omega) (by rw [hb, pageAt]; omega),
        Core.pageStore_mask _ k (.inr rfl) ((if_neg (by decide)).trans (if_pos (by omega))), hhigh]
      rfl
    · rw [hst4 h4 (by omega) hb, Core.pageStore_other _ (by omega)]
    · rw [hst8 h8 (by omega) hb, Core.pageStore_other _ (by omega)]
end

section
/-! SUPPORT. Fences (R86 to R88, R140): when the condition of one holds, what a core in one does, and which writes a DRAIN.DURABLE makes
durable. -/

namespace Sys2Proof.Machine

open Sys2Proof.Claims

/-! ## What a fence waits for -/

theorem Core.mem_liveTags {c : Core} {p : Nat × Tag} : p ∈ c.liveTags ↔ (p.1, some p.2) ∈ c.tags := by
  simp only [Core.liveTags, List.mem_filterMap, Option.map_eq_some_iff]
  constructor
  · rintro ⟨⟨n, o⟩, h, t, rfl, rfl⟩
    exact h
  · exact fun h => ⟨_, h, p.2, rfl, rfl⟩

theorem Core.vsQuiet_iff {c : Core} : c.vsQuiet = true ↔ c.loopRun = none ∧ c.landing = [] ∧ ∀ l, Cmd.loop l ∉ c.cmdq := by
  rw [Core.vsQuiet, Bool.and_eq_true, Bool.and_eq_true, Option.isNone_iff_eq_none, List.isEmpty_iff, and_assoc, List.all_eq_true]
  refine and_congr_right' (and_congr_right' ⟨fun h l hl => absurd (h _ hl) nofun, fun h x hx => ?_⟩)
  cases x with
  | loop l => exact absurd hx (h l)
  | mode _ _ _ _ _ => rfl

/-- The condition of a fence (R86 to R88, R140). -/
theorem Core.fenceMet_iff {c : Core} {mask : Nat} {drain : Bool} : c.fenceMet mask drain = true ↔ fenceOver c mask drain := by
  have hvs : (mask / 2 % 2 == 0 || c.vsQuiet) = true ↔
      (mask / 2 % 2 = 1 → c.loopRun = none ∧ c.landing = [] ∧ ∀ l, Cmd.loop l ∉ c.cmdq) := by
    rw [Bool.or_eq_true, beq_iff_eq, Core.vsQuiet_iff, or_iff_not_imp_left, ← ne_eq, Nat.mod_two_ne_zero]
  have htags : (c.liveTags.all fun p => !p.2.pending || Nat.land p.2.paths mask == 0) = true ↔
      ∀ n t, (n, some t) ∈ c.tags → t.phase = .finished ∨ Nat.land t.paths mask = 0 := by
    simp only [List.all_eq_true, Core.mem_liveTags, Prod.forall, Tag.pending, Bool.or_eq_true, Bool.not_eq_true', bne_eq_false_iff_eq,
      beq_iff_eq]
  have hdrain : (!drain || (c.aq.isEmpty && c.elems.isEmpty)) = true ↔ (drain = true → c.aq = [] ∧ c.elems = []) := by
    rw [Bool.or_eq_true, Bool.and_eq_true, List.isEmpty_iff, List.isEmpty_iff, Bool.not_eq_true', ← Bool.not_eq_true,
      ← imp_iff_not_or]
  rw [Core.fenceMet, Bool.and_eq_true, Bool.and_eq_true, hvs, htags, hdrain, and_assoc]
  rfl

/-! ## A core in a fence -/

section
variable {s : State} {k : CoreId} {mask : BitVec 6} {drain : Bool} {scope : BitVec 3}

/-- FENCE and XFENCE (R86, R87, R140). -/
theorem fenced_fence : fenced s s.cur mask false scope (fence s mask.toNat false scope) := by
  refine ⟨fun h => ?_, fun h => ?_⟩ <;> rw [← Core.fenceMet_iff] at h
  · exact if_pos h
  · refine (if_neg h).trans ?_
    rw [BitVec.ofNat_toNat, BitVec.setWidth_eq]
    rfl

theorem drainDurable_eq : drainDurable s k drain scope =
    if drain = true ∧ scope = 7 then s.makeDurable (Unsaved.by k none) else s := by
  have hcond : (drain && scope.toNat == scopeDurable) = true ↔ drain = true ∧ scope = 7 := by
    rw [Bool.and_eq_true, beq_iff_eq, scopeDurable, ← BitVec.toNat_inj]
    rfl
  rw [drainDurable]
  exact if_congr hcond rfl rfl

theorem Core.flushDue_iff {c : Core} : c.flushDue drain scope = true ↔ drain = true ∧ 6 ≤ scope.toNat ∧ 0 < c.hostWrites := by
  rw [Core.flushDue, Bool.and_eq_true, Bool.and_eq_true, decide_eq_true_eq, decide_eq_true_eq, scopeHost, and_assoc]

/-- A core in a fence with no scattered host write to see performed (R140). -/
theorem fenced_fenceTry (h : ¬(s.core k).flushDue drain scope = true) :
    fenced s k mask drain scope (.next (fenceTry s k mask drain scope)) := by
  refine ⟨fun hover => ?_, fun hover => ?_⟩ <;> rw [← Core.fenceMet_iff] at hover
  · simp only [fenceTry, hover, h, drainDurable_eq, Bool.not_true, Bool.false_eq_true, if_false]
  · simp only [fenceTry, Bool.eq_false_iff.mpr hover, Bool.not_false, if_true]

/-- A drain that awaits no read yet sends one (R292). -/
theorem flushRead_sends (hnone : ∀ r ∈ s.ports.reads, ∀ n, r.who ≠ .drain k n) :
    flushRead s k = hostRead s (s.core k).task.ctx (s.core k).hostPage.1 (s.core k).hostPage.2 0 (.drain k (s.core k).hostWrites) := by
  rw [flushRead]
  refine if_neg ?_
  rw [Bool.not_eq_true, List.any_eq_false]
  intro r hr
  have hne := hnone r hr
  cases hw : r.who with
  | drain k' n => exact fun e => hne n (by rw [hw, beq_iff_eq.mp e])
  | _ => exact nofun

/-- A drain whose other conditions hold sends the read that covers the scattered host writes, and waits (R88, R292). -/
theorem fenceTry_flush (hover : fenceOver (s.core k) mask.toNat drain) (h : (s.core k).flushDue drain scope = true)
    (hnone : ∀ r ∈ s.ports.reads, ∀ n, r.who ≠ .drain k n) :
    let c := s.core k
    fenceTry s k mask drain scope = hostRead (s.setCore k { c with wait := .fence mask drain scope }) c.task.ctx c.hostPage.1 c.hostPage.2
      0 (.drain k c.hostWrites) := by
  intro c
  simp only [fenceTry, Core.fenceMet_iff.mpr hover, h, Bool.not_true, Bool.false_eq_true, if_false, if_true]
  rw [flushRead_sends (by exact hnone), State.core_setCore]

/-- A waiting fence of a core whose control stream goes on is tried again (R140). -/
theorem exec_fenceReturn (hw : (s.core k).wait = .fence mask drain scope) (hr : (s.core k).run = .running)
    (hm : (s.core k).missCp = false) : exec (.fenceReturn k) s = .next (fenceTry s k mask drain scope) := by
  show execFenceReturn k s = _
  simp only [execFenceReturn, hw, Core.cpRuns_of hr hm, if_true]

end

/-! ## Durable writes (R88, R102) -/

theorem mem_dropDurable {f : Unsaved → Bool} : ∀ {l : List Unsaved} {seen : List Nat} {u : Unsaved}, u ∈ dropDurable f seen l →
    u ∈ l ∧ f u = false
  | v :: l, seen, u, h => by
    rw [dropDurable] at h
    have hrec {seen} (h : u ∈ dropDurable f seen l) : u ∈ v :: l ∧ f u = false :=
      (mem_dropDurable h).imp_left (List.mem_cons_of_mem _)
    split_ifs at h with hv hs
    · exact hrec h
    · exact hrec h
    · rcases List.mem_cons.mp h with rfl | h
      · exact ⟨List.mem_cons_self, Bool.eq_false_iff.mpr hv⟩
      · exact hrec h

/-- A write stays that is not one that performs, nor older than one of its byte. -/
theorem mem_dropDurable_of {f : Unsaved → Bool} {u : Unsaved} : ∀ {l : List Unsaved} {seen : List Nat}, u ∈ l → u.addr ∉ seen →
    (∀ v ∈ l, v.addr = u.addr → f v = false) → u ∈ dropDurable f seen l
  | v :: l, seen, hu, hs, hf => by
    have htail {seen} (hl : u ∈ l) (hs : u.addr ∉ seen) : u ∈ dropDurable f seen l :=
      mem_dropDurable_of hl hs fun w hw => hf w (List.mem_cons_of_mem _ hw)
    rw [dropDurable]
    split_ifs with hv hseen
    · have hne : v.addr ≠ u.addr := fun e => Bool.false_ne_true ((hf v List.mem_cons_self e).symm.trans hv)
      have hl : u ∈ l := (List.mem_cons.mp hu).resolve_left fun e => hne (e ▸ rfl)
      exact htail hl fun h => (List.mem_cons.mp h).elim (fun e => hne e.symm) hs
    · have hl : u ∈ l := (List.mem_cons.mp hu).resolve_left fun e => hs (e ▸ List.contains_iff_mem.mp hseen)
      exact htail hl hs
    · rcases List.mem_cons.mp hu with rfl | hl
      · exact List.mem_cons_self
      · exact List.mem_cons_of_mem _ (htail hl hs)

theorem Unsaved.by_eq_false {k : CoreId} {u : Unsaved} : Unsaved.by k none u = false ↔ ∀ i, u.who ≠ .task k i := by
  unfold Unsaved.by
  cases u.who with
  | task j i =>
    change (j == k) = false ↔ _
    rw [beq_eq_false_iff_ne]
    exact ⟨fun hne i' e => hne (Writer.task.inj e).1, fun hne e => hne i (e ▸ rfl)⟩
  | saved _ _ => exact iff_of_true rfl nofun
  | other => exact iff_of_true rfl nofun

theorem State.makeDurable_unsaved {s : State} (f : Unsaved → Bool) (h : s.fleet.slpState ≠ 1) :
    (s.makeDurable f).unsaved = dropDurable f [] s.unsaved := by
  rw [State.makeDurable, if_neg h]

end Sys2Proof.Machine
end

section
/-! CLAIM. Fences and drains (O12). -/

open Sys2Proof.Machine Sys2Proof.Claims in
/-- Settles O12: FENCE and XFENCE try their condition once, DRAIN and the return of a waiting fence by `fenceTry`; a DRAIN.DURABLE drops
its task's writes from those that may be lost. -/
theorem fencesReturn : Obligations.FencesReturn := by
  refine ⟨fun sc f t s k mask drain => ⟨fenced_fence (mask := 63), fenced_fence, fun h => ?_, fun hw hr hm h => ?_⟩,
    fun sc s hover hsc hwrites hnone => ?_, fun s k hslp => ⟨fun u hu => ?_, fun u hu hout => ?_⟩⟩
  · exact fenced_fenceTry fun hdue => by
      obtain ⟨-, hsc, hwrites⟩ := Core.flushDue_iff.mp hdue
      rw [State.core_cur] at hwrites
      omega
  · rw [exec_fenceReturn hw hr hm]
    exact fenced_fenceTry fun hdue => by
      obtain ⟨hd, hsc, hwrites⟩ := Core.flushDue_iff.mp hdue
      rcases h with h | h | h
      · exact Bool.false_ne_true (h.symm.trans hd)
      · omega
      · omega
  · have hflush := fenceTry_flush (s := s) (k := s.cur) (mask := 63) hover (Core.flushDue_iff.mpr ⟨rfl, hsc, hwrites⟩) hnone
    refine ⟨_, congrArg Host.Outcome.next hflush, ?_, rfl, rfl, rfl⟩
    exact State.core_setCore s s.cur _
  · rw [State.makeDurable_unsaved _ hslp] at hu
    exact (mem_dropDurable hu).imp_right Unsaved.by_eq_false.mp
  · rw [State.makeDurable_unsaved _ hslp]
    exact mem_dropDurable_of hu List.not_mem_nil fun v hv e => Unsaved.by_eq_false.mpr (hout v hv e)
end

section
/-! SUPPORT. Gathers and scatters (R229 to R231): the element that the engine serves next, and the service of one whose base lies in
plain scratch. -/

namespace Sys2Proof.Machine

open Sys2Proof.Claims

/-! ## Queues -/

theorem memRead_memWrite_of_length (m : Mem) (a : Nat) {v : List Byte} {n : Nat} (h : v.length = n) :
    memRead (memWrite m a v) a n = v := by
  rw [← h, memRead_memWrite_same]

theorem Qcw.esz_pos (w : Qcw) : 0 < w.esz := Nat.two_pow_pos _

@[simp] theorem Core.q_setQ (c : Core) (n : BitVec 3) (w : Qcw) : (c.setQ n w).q n = w := Vector.getElem_set_self _

/-- One element appended at the tail of a queue (R96). -/
theorem Core.append_one {c : Core} {n : BitVec 3} {v : List Byte} (hv : v.length = (c.q n).esz) :
    let w := c.q n
    c.append n 1 v = (c.writeScratch (w.base + w.tail * w.esz) v).setQ n (w.put (w.occ + 1) ((w.tail + 1) % w.depth) w.head) := by
  have hne : v ≠ [] := List.ne_nil_of_length_pos (hv ▸ (c.q n).esz_pos)
  simp only [Core.append, if_neg hne, List.take_of_length_le hv.le]

/-! ## The element to serve -/

section
variable {s : State} {k : CoreId} {q : BitVec 3} {e : AqEntry} {r : Remap} {b : Nat}

/-- A running core's first entry of a queue is served, where no acquiring ATOM before it is under way (R90, R230). -/
theorem Core.nextElem_first {c : Core} (hfind : c.aq.find? (fun f => f.qw == q) = some e) (hremap : c.remap[q.toNat] = some r)
    (helems : c.elems = []) (hfaults : c.gatherFaults = []) (hrun : c.run = .running)
    (hacq : ∀ m u, (m, some u) ∈ c.tags → u.phase = .finished ∨ e.stamp ≤ u.order ∨ (u.what.ord ≠ 1 ∧ u.what.ord ≠ 3)) :
    c.nextElem q (r.word.getLsbD 61) = some (e, r) := by
  have hall : (c.liveTags.all fun p => !(p.2.pending && p.2.what.acquires && decide (p.2.order < e.stamp))) = true := by
    rw [List.all_eq_true]
    intro p hp
    rcases hacq _ _ (Core.mem_liveTags.mp hp) with h | h | ⟨h1, h3⟩
    · simp [Tag.pending, h]
    · simp [h]
    · simp [CopyOp.acquires, h1, h3]
  have hserve : c.mayServe e = true := by
    rw [Core.mayServe, hall, hrun]
    simp
  simp [Core.nextElem, helems, hfaults, hfind, hremap, bit_eq_getLsbD, hserve]

/-- The service of an element in the core's own plain scratch, with no remap: its access is the element at once. -/
theorem serveElem_plain {scatter : Bool} {go : State → AqEntry → End → List Piece → List Trans → Nat → State}
    (hnext : (s.core k).nextElem q scatter = some (e, r)) (hbase : endOf k r.base = .scratch k b) (hmap : r.word.toNat / 2 ^ 62 = 0)
    (hin : b + e.index.toNat * ((s.core k).q q).esz + ((s.core k).q q).esz ≤ 0x40000) :
    serveElem s k q scatter go =
      go s e (.scratch k (b + e.index.toNat * ((s.core k).q q).esz)) [] [] ((s.core k).q q).esz := by
  have hremap : (s.core k).remapOf r.word e.index.toNat = some e.index.toNat := by
    have hkind : bits r.word 63 62 = 0 := by rw [bits, fld, hmap, Nat.zero_mod]
    simp only [Core.remapOf, hkind]
  have hend : elemEnd k r e.index.toNat ((s.core k).q q).esz =
      .ok (.scratch k (b + e.index.toNat * ((s.core k).q q).esz)) := by
    simp only [elemEnd, hbase]
  have hcheck := scratchCheck_plain (s := s) (k := k) (Qcw.esz_pos _) hin (.inl rfl)
  simp only [serveElem, hnext, hremap, hend, elemCheck, hcheck, acquire, List.foldl_nil, List.map_nil, Bool.false_eq_true, if_false]

theorem Core.dropElem_first {c : Core} (hfind : c.aq.find? (fun f => f.qw == q) = some e) :
    c.dropElem q = { c with aq := c.aq.erase e } := by
  simp only [Core.dropElem, hfind]

/-- A gathered element all of whose bytes are there is appended where there is room (R96, R230). -/
theorem settleElem_gathered (v : List Byte) (helems : (s.core k).elems = []) (hroom : ((s.core k).q q).room ≠ 0) :
    settleElem s k q ⟨e, false, [], [(0, v)]⟩ = s.modCore k fun c => { c with elems := [] }.append q 1 v := by
  have hv : joinPieces [(0, v)] = v := by simp [joinPieces]
  simp only [settleElem, State.modCore, helems, hroom, hv, List.filter_nil, List.isEmpty_nil, Bool.not_true, Bool.false_eq_true, if_false]

end

/-! ## GATHER_ELEMENT and SCATTER_ELEMENT -/

section
variable {s : State} {k : CoreId} {q : BitVec 3} {e : AqEntry} {r : Remap} {b : Nat}
variable (hfind : (s.core k).aq.find? (fun f => f.qw == q) = some e) (helems : (s.core k).elems = [])
  (hnext : (s.core k).nextElem q (r.word.getLsbD 61) = some (e, r)) (hbase : endOf k r.base = .scratch k b)
  (hmap : r.word.toNat / 2 ^ 62 = 0) (hin : b + e.index.toNat * ((s.core k).q q).esz + ((s.core k).q q).esz ≤ 0x40000)
include hfind helems hnext hbase hmap hin

/-- A gathered element stands at the tail of its queue (R96, R230). -/
theorem exec_gather_plain (hdir : r.word.getLsbD 61 = false) (hroom : ((s.core k).q q).occ < ((s.core k).q q).depth) :
    let c := s.core k
    let w := c.q q
    ∃ u, exec (.gatherElement k q) s = .next u ∧ u.dram = s.dram ∧ u.core k = ({ c with aq := c.aq.erase e, elems := [] }.writeScratch
      (w.base + w.tail * w.esz) (memRead c.scratch (b + e.index.toNat * w.esz) w.esz)).setQ q
        (w.put (w.occ + 1) ((w.tail + 1) % w.depth) w.head) := by
  intro c w
  rw [hdir] at hnext
  have hroom' : ((s.core k).q q).room ≠ 0 := by rw [Qcw.room]; omega
  have hdrop : (s.modCore k (·.dropElem q)).core k = { c with aq := c.aq.erase e } := by
    rw [State.core_modCore, Core.dropElem_first hfind]
  have hgo : exec (.gatherElement k q) s = .next (settleElem (s.modCore k (·.dropElem q)) k q
      ⟨e, false, [], [(0, memRead c.scratch (b + e.index.toNat * w.esz) w.esz)]⟩) := by
    show execGatherElement k q s = _
    simp only [execGatherElement, hroom', if_false, helems, List.find?_nil]
    rw [serveElem_plain hnext hbase hmap hin]
    rfl
  rw [settleElem_gathered _ (by rw [hdrop]; exact helems) (by rw [hdrop]; exact hroom')] at hgo
  refine ⟨_, hgo, rfl, ?_⟩
  rw [State.core_modCore, hdrop]
  exact Core.append_one (memRead_length _ _ _)

omit hfind helems in
/-- A scattered element leaves the head of its queue and is stored, as a plain store is (R95, R96, R230). -/
theorem exec_scatter_plain (hdir : r.word.getLsbD 61 = true) (hocc : 0 < ((s.core k).q q).occ) :
    let c := s.core k
    let w := c.q q
    let x := b + e.index.toNat * w.esz
    let taken := s.modCore k fun c => (c.dropElem q).setQ q (w.put (w.occ - 1) w.tail ((w.head + 1) % w.depth))
    exec (.scatterElement k q) s =
      .next ((taken.modCore k fun y => y.writeScratch x (memRead c.scratch (w.base + w.head * w.esz) w.esz)).spoil k x w.esz) := by
  intro c w x taken
  rw [hdir] at hnext
  show execScatterElement k q s = _
  simp only [execScatterElement, hocc.ne', if_false]
  rw [serveElem_plain hnext hbase hmap hin]
  rfl

end

end Sys2Proof.Machine
end

section
/-! CLAIM. Gathers and scatters (O35). -/

open Sys2Proof.Machine Sys2Proof.Claims in
/-- Settles O35: an element in the core's own plain scratch is served at once, into its queue or from it. -/
theorem gathersAndScatters : Obligations.GathersAndScatters := by
  intro k q e r b s c w x hfind hremap helems hfaults hrun hacq hbase hmap hin _ _ _ _
  have hnext := Core.nextElem_first hfind hremap helems hfaults hrun hacq
  refine ⟨fun hdir hroom => ?_, fun hdir hocc => ?_⟩
  · obtain ⟨u, hu, hdram, hcore⟩ := exec_gather_plain hfind helems hnext hbase hmap hin hdir hroom
    have hlen := memRead_length c.scratch x w.esz
    have hscratch : (u.core k).scratch = memWrite c.scratch (w.base + w.tail * w.esz) (memRead c.scratch x w.esz) := by
      rw [hcore]
      rfl
    refine ⟨u, hu, by rw [hcore]; rfl, by rw [hcore, Core.q_setQ], ?_, fun y hy => ?_, hdram⟩
    · rw [hscratch]
      exact memRead_memWrite_of_length _ _ hlen
    · rw [hscratch]
      exact memGet_memWrite_out _ _ _ _ (by rw [hlen]; rw [Nat.add_mul] at hy; omega)
  · let taken := s.modCore k fun c => (c.dropElem q).setQ q (w.put (w.occ - 1) w.tail ((w.head + 1) % w.depth))
    let v := memRead c.scratch (w.base + w.head * w.esz) w.esz
    let stored := taken.modCore k fun y => y.writeScratch x v
    have hexec : exec (.scatterElement k q) s = .next (stored.spoil k x w.esz) :=
      exec_scatter_plain hnext hbase hmap hin hdir hocc
    have hstored : stored.core k =
        ({ c with aq := c.aq.erase e }.setQ q (w.put (w.occ - 1) w.tail ((w.head + 1) % w.depth))).writeScratch x v := by
      rw [State.core_modCore, State.core_modCore, Core.dropElem_first hfind]
    obtain ⟨-, -, hcore, -⟩ := State.spoil_spoiled stored k x w.esz
    rw [hstored] at hcore
    refine ⟨_, hexec, congrArg Core.aq hcore, ?_, fun hu => ?_, State.spoil_dram _ _ _ _⟩
    · exact (congrArg (fun d : Core => d.q q) hcore).trans (Core.q_setQ _ _ _)
    · have htags : ((c.dropElem q).setQ q (w.put (w.occ - 1) w.tail ((w.head + 1) % w.depth))).tags = c.tags := by
        rw [Core.dropElem_first hfind]
        rfl
      have hstays : unawaited stored k x w.esz := unawaited_setCore (unawaited_setCore hu htags) rfl
      have hlen : v.length = w.esz := memRead_length _ _ _
      rw [State.spoil_unawaited hstays, hstored]
      refine ⟨?_, fun y hy => memGet_memWrite_out _ _ _ _ (hlen.symm ▸ hy)⟩
      exact memRead_memWrite_of_length _ _ hlen
end

section
/-! SUPPORT. What the host writes of base camp (R283, R286, R288, R290): the MSI-X table's pending bits, a context's configuration, its
tail, and an aperture. -/

namespace Sys2Proof.Machine

open Sys2Proof.Claims

/-! ## MSI-X (R283) -/

section
variable {s : State} {vec : Nat}

/-- A byte's bit 0 is that of any number that begins with it. -/
theorem memNat_odd_iff (m : Mem) (a n : Nat) : (memNat m a (n + 1) % 2 == 1) = (memGet m a).getLsbD 0 := by
  have hparity : memNat m a (n + 1) % 2 = (memGet m a).toNat % 2 := by
    rw [memNat, memRead, ofBytes]
    omega
  rw [hparity, ← bit_eq_getLsbD, bit, Nat.pow_zero, Nat.div_one]

theorem State.msixMasked_eq : s.msixMasked vec = (memGet s.ports.msix (16 * vec + 12)).getLsbD 0 := memNat_odd_iff _ _ _

/-- A masked vector becomes pending: one bit more of the table. -/
theorem State.msix_masked (h : (memGet s.ports.msix (16 * vec + 12)).getLsbD 0 = true) :
    ∃ t, s.msix vec = t ∧ t.ports.out = s.ports.out ∧ t.cores = s.cores ∧ t.dram = s.dram ∧
      ∀ a b, b < 8 → (memGet t.ports.msix a).getLsbD b =
        ((memGet s.ports.msix a).getLsbD b || decide (a = 0x800 + vec / 8 ∧ b = vec % 8)) := by
  refine ⟨s.msixPend vec true, if_pos (State.msixMasked_eq.trans h), rfl, rfl, rfl, fun a b hb => ?_⟩
  change (memGet (memSet s.ports.msix (0x800 + vec / 8) _) a).getLsbD b = _
  by_cases ha : a = 0x800 + vec / 8
  · subst ha
    rw [memGet_memSet_same, if_pos rfl, BitVec.getLsbD_or, BitVec.getLsbD_ofNat, Nat.testBit_two_pow]
    simp [hb, eq_comm, msixPending]
  · rw [memGet_memSet_ne _ _ ha]
    simp [ha]

theorem State.msix_unmasked (h : ¬(memGet s.ports.msix (16 * vec + 12)).getLsbD 0 = true) :
    s.msix vec = s.send (.msix vec (memNat s.ports.msix (16 * vec) 8) (memNat s.ports.msix (16 * vec + 8) 4)) :=
  if_neg (by rwa [State.msixMasked_eq])

end

/-! ## ctx.cfg (R286, R358) -/

/-- Whether a write of ctx.cfg is one that R286, R287 and R358 allow: an enabling one, one that disables a dead context, and one that
disables another. -/
def State.cfgAllowed (s : State) (n : CtxId) (v : Word64) : Prop :=
  let x := s.ctx n
  let other := v.toNat % 2 ^ 20 ≠ x.cfg.toNat % 2 ^ 20 ∨ v.getLsbD 61 ≠ x.cfg.getLsbD 61
  let slots := 2 ^ (x.sqCfg.toNat % 2 ^ 5)
  (v.getLsbD 63 = true → (x.cfg.getLsbD 63 = true → ¬other) ∧
    (v.getLsbD 61 = true → s.pasidTaken n (v.toNat % 2 ^ 20) = false) ∧ 4 ≤ slots ∧ slots ≤ 65536) ∧
  (v.getLsbD 63 = false → x.dead = true → x.drain = false) ∧
  (v.getLsbD 63 = false → x.dead = false → x.cfg.getLsbD 63 = true → ¬other ∧ s.ctxHolds n = false)

section
variable {s : State} {n : CtxId} {v : Word64}

theorem State.cfgRefused_iff : s.cfgRefused n v = true ↔ ¬s.cfgAllowed n v := by
  have hslots : (decide (bits (s.ctx n).sqCfg 4 0 < 2) || decide (16 < bits (s.ctx n).sqCfg 4 0)) = true ↔
      ¬(4 ≤ 2 ^ ((s.ctx n).sqCfg.toNat % 2 ^ 5) ∧ 2 ^ ((s.ctx n).sqCfg.toNat % 2 ^ 5) ≤ 65536) := by
    have hbits : bits (s.ctx n).sqCfg 4 0 = (s.ctx n).sqCfg.toNat % 2 ^ 5 := by rw [bits, fld, Nat.pow_zero, Nat.div_one]
    rw [hbits, show 4 = 2 ^ 2 from rfl, show 65536 = 2 ^ 16 from rfl, Nat.pow_le_pow_iff_right (by decide),
      Nat.pow_le_pow_iff_right (by decide), Bool.or_eq_true, decide_eq_true_eq, decide_eq_true_eq]
    omega
  have hother : (bits v 19 0 != bits (s.ctx n).cfg 19 0 || bit v 61 != (s.ctx n).pv) = true ↔
      (v.toNat % 2 ^ 20 ≠ (s.ctx n).cfg.toNat % 2 ^ 20 ∨ v.getLsbD 61 ≠ (s.ctx n).cfg.getLsbD 61) := by
    simp only [bits, fld, Nat.pow_zero, Nat.div_one, Bool.or_eq_true, bne_iff_ne, Ctx.pv, bit_eq_getLsbD]
  have hpasid : bits v 19 0 = v.toNat % 2 ^ 20 := by rw [bits, fld, Nat.pow_zero, Nat.div_one]
  have hen : (s.ctx n).en = (s.ctx n).cfg.getLsbD 63 := bit_eq_getLsbD _ _
  unfold State.cfgRefused State.cfgAllowed
  dsimp only
  rw [Bool.or_assoc _ (decide _), bit_eq_getLsbD v 63, hpasid, hen]
  rw [hpasid] at hother
  generalize (v.toNat % 2 ^ 20 ≠ (s.ctx n).cfg.toNat % 2 ^ 20 ∨ v.getLsbD 61 ≠ (s.ctx n).cfg.getLsbD 61) = other at hother ⊢
  generalize (4 ≤ 2 ^ ((s.ctx n).sqCfg.toNat % 2 ^ 5) ∧ 2 ^ ((s.ctx n).sqCfg.toNat % 2 ^ 5) ≤ 65536) = room at hslots ⊢
  cases hv : v.getLsbD 63
  · rw [if_neg Bool.false_ne_true]
    cases hd : (s.ctx n).dead
    · rw [if_neg Bool.false_ne_true, Bool.and_eq_true, Bool.or_eq_true, hother, ← Bool.not_eq_false (s.ctxHolds n)]
      simp only [reduceCtorEq, false_imp_iff, true_imp_iff, true_and, Classical.not_imp, not_and_or, not_not]
    · rw [if_pos rfl, ← Bool.not_eq_false (s.ctx n).drain]
      simp only [reduceCtorEq, false_imp_iff, true_imp_iff, imp_true_iff, true_and, and_true]
  · rw [if_pos rfl, Bool.or_eq_true, Bool.or_eq_true, Bool.and_eq_true, Bool.and_eq_true, hother, hslots, bit_eq_getLsbD,
      ← Bool.not_eq_false (s.pasidTaken _ _)]
    simp only [reduceCtorEq, false_imp_iff, true_imp_iff, and_true, Classical.not_imp, not_and_or, not_not, or_assoc]

/-- An allowed write of ctx.cfg (R286, R358). -/
theorem ctxCfgWrite_allowed (hr : s.fw.ready.getLsbD 14 = true) (h : s.cfgAllowed n v) :
    ctxCfgWrite s n v = s.setCtx n { s.ctx n with
      cfg := v &&& 0xE0000000000FFFFF, dead := (s.ctx n).dead && v.getLsbD 63
      why := if (s.ctx n).dead = true ∧ v.getLsbD 63 = false then 0 else (s.ctx n).why } := by
  have hrefused : (!s.ready readySch || s.cfgRefused n v) = false := by
    rw [State.ready_eq, show readySch = 14 from rfl, hr, Bool.not_true, Bool.false_or, Bool.eq_false_iff]
    exact fun e => State.cfgRefused_iff.mp e h
  have hmask : ctxCfgMask = 0xE0000000000FFFFF := by decide
  have hdead : ((s.ctx n).dead && !((s.ctx n).dead && !v.getLsbD 63)) = ((s.ctx n).dead && v.getLsbD 63) := by
    rw [Bool.not_and, Bool.not_not, Bool.and_or_distrib_left, Bool.and_not_self, Bool.false_or]
  have halive : ((s.ctx n).dead && !v.getLsbD 63) = true ↔ (s.ctx n).dead = true ∧ v.getLsbD 63 = false := by
    rw [Bool.and_eq_true, Bool.not_eq_true']
  simp only [ctxCfgWrite, hrefused, Bool.false_eq_true, if_false, hmask, bit_eq_getLsbD, hdead, halive]

theorem ctxCfgWrite_refused (h : ¬s.fw.ready.getLsbD 14 = true ∨ ¬s.cfgAllowed n v) :
    ctxCfgWrite s n v = refuseWrite s blkHost (some n) (ctxOff n 0) v.toNat := by
  have hrefused : (!s.ready readySch || s.cfgRefused n v) = true := by
    rw [Bool.or_eq_true, State.ready_eq, Bool.not_eq_true', Bool.eq_false_iff, State.cfgRefused_iff]
    exact h
  rw [ctxCfgWrite, hrefused, if_pos rfl]

/-! ## sq.tail (R288, R367, R369) -/

/-- Whether a write of sq.tail takes effect, or stops the queue (R288, R358, R360, R376). -/
def State.tailTakes (s : State) (n : CtxId) : Prop :=
  s.fw.ready.getLsbD 14 = true ∧ (s.ctx n).cfg.getLsbD 63 = true ∧ (s.ctx n).sqStop = false ∧ (s.ctx n).dead = false ∧ s.healthState ≠ 2

theorem State.tailRefused_iff :
    (!s.ready readySch || !(s.ctx n).en || (s.ctx n).sqStop || (s.ctx n).dead || s.healthState == 2) = true ↔ ¬s.tailTakes n := by
  rw [State.tailTakes, State.ready_eq, Ctx.en, bit_eq_getLsbD, ← Bool.not_eq_true (s.ctx n).sqStop, ← Bool.not_eq_true (s.ctx n).dead]
  simp only [Bool.or_eq_true, Bool.not_eq_true', beq_iff_eq, not_and_or, not_not, or_assoc, ← Bool.not_eq_true]
  rfl

theorem Ctx.sqSlots_eq (x : Ctx) : x.sqSlots = 2 ^ (x.sqCfg.toNat % 2 ^ 5) := by
  rw [Ctx.sqSlots, bits, fld, Nat.pow_zero, Nat.div_one]

section
variable {w : BitVec 32}

theorem sqTailWrite_refused (h : ¬s.tailTakes n) :
    sqTailWrite s n w = refuseWrite s blkHost (some n) (ctxOff n 0x18) w.toNat := if_pos (State.tailRefused_iff.mpr h)

variable (h : s.tailTakes n)
include h

theorem sqTailWrite_back (hw : 2 ^ 31 ≤ (w - (s.ctx n).sqTail).toNat) : sqTailWrite s n w = stopQueue s n 2 :=
  (if_neg fun e => State.tailRefused_iff.mp e h).trans (if_pos hw)

theorem sqTailWrite_past (hw : (w - (s.ctx n).sqTail).toNat < 2 ^ 31)
    (hp : 2 ^ ((s.ctx n).sqCfg.toNat % 2 ^ 5) < (w - (s.ctx n).sqHead).toNat) : sqTailWrite s n w = stopQueue s n 1 :=
  (if_neg fun e => State.tailRefused_iff.mp e h).trans ((if_neg (by omega)).trans (if_pos ((Ctx.sqSlots_eq _).symm ▸ hp)))

theorem sqTailWrite_takes (hw : (w - (s.ctx n).sqTail).toNat < 2 ^ 31)
    (hp : (w - (s.ctx n).sqHead).toNat ≤ 2 ^ ((s.ctx n).sqCfg.toNat % 2 ^ 5)) :
    sqTailWrite s n w = tailWakes (s.setCtx n { s.ctx n with sqTail := w }) :=
  (if_neg fun e => State.tailRefused_iff.mp e h).trans ((if_neg (by omega)).trans (if_neg ((Ctx.sqSlots_eq _).symm ▸ hp.not_gt)))

end

theorem mayLose_of_same {t : State} (hd : t.dram = s.dram) (hp : t.poison = s.poison) : mayLose s t :=
  ⟨fun a => .inl (congrArg (memGet · a) hd), fun _ hm => .inl (hp ▸ hm)⟩

theorem mayLose_wake (s : State) : mayLose s (wake s) := mayLose_of_same rfl rfl

theorem mayLose_refl (s : State) : mayLose s s := mayLose_of_same rfl rfl

/-- A tail that takes effect aborts an entry to bivouac, which may lose writes, or wakes the card (R102, R367, R369). -/
theorem tailWakes_leaves (s : State) : (tailWakes s).ctxs = s.ctxs ∧ (tailWakes s).cores = s.cores ∧
    (s.fleet.slpState ≠ 1 → (tailWakes s).dram = s.dram) ∧ mayLose s (tailWakes s) ∧
    (tailWakes s).fleet.slpState = (if s.fleet.slpState = 1 then 0 else if s.fleet.slpState = 2 then 3 else s.fleet.slpState) := by
  rw [tailWakes]
  split_ifs with h1 h2
  · exact ⟨rfl, rfl, fun h => absurd h1 h, mayLose_loseWrites { s with fleet := { s.fleet with slpState := 0, slpCode := 1 } }, rfl⟩
  · exact ⟨rfl, rfl, fun _ => rfl, mayLose_wake s, rfl⟩
  · exact ⟨rfl, rfl, fun _ => rfl, mayLose_refl s, rfl⟩

/-! ## Apertures (R290) -/

/-- Whether a write of an aperture's register takes effect (R290, R360). -/
def State.apertureTakes (s : State) (reg : BitVec 2) (v : Word64) : Prop :=
  s.fw.ready.getLsbD 1 = true ∧ (reg = 0 → v.getLsbD 63 = true → (s.ctx (BitVec.ofNat 6 (v.toNat / 2 ^ 48))).cfg.getLsbD 63 = true)

/-- A field of six bits, cut to six bits again. -/
theorem ofNat_bits {m : Nat} (w : BitVec m) (hi lo : Nat) :
    BitVec.ofNat (hi + 1 - lo) (bits w hi lo) = BitVec.ofNat (hi + 1 - lo) (w.toNat / 2 ^ lo) := by
  refine BitVec.eq_of_toNat_eq ?_
  rw [BitVec.toNat_ofNat, BitVec.toNat_ofNat, bits, fld, Nat.mod_mod]

theorem State.apertureRefused_iff {reg : BitVec 2} : (!s.ready readyFw || (reg == 0 && bit v 63 &&
    !(s.ctx (BitVec.ofNat 6 (bits v 53 48))).en)) = true ↔ ¬s.apertureTakes reg v := by
  rw [State.apertureTakes, State.ready_eq, Ctx.en, bit_eq_getLsbD, bit_eq_getLsbD, ofNat_bits v 53 48]
  simp only [Bool.or_eq_true, Bool.and_eq_true, Bool.not_eq_true', beq_iff_eq, not_and_or, Classical.not_imp, and_assoc,
    ← Bool.not_eq_true]
  rfl

theorem apertureWrite_refused {ap : BitVec 3} {reg : BitVec 2} (h : ¬s.apertureTakes reg v) :
    loggedOnly s (.next (apertureWrite s ap reg v)) := by
  rw [apertureWrite, if_pos (State.apertureRefused_iff.mpr h)]
  exact refuseWrite_loggedOnly _ _ _ _ _

theorem apertureWrite_takes {ap : BitVec 3} {reg : BitVec 2} (h : s.apertureTakes reg v) : apertureWrite s ap reg v =
    let a := s.ports.apertures[ap.toNat].put reg (v &&& apertureMask reg)
    { s with ports := { s.ports with apertures := s.ports.apertures.set ap.toNat a } } :=
  if_neg fun e => State.apertureRefused_iff.mp e h

/-- A register of an aperture takes the bits of a write that it holds, and the others stand (R290). -/
theorem Aperture.put_masked (a : Aperture) (reg : BitVec 2) (v : Word64) :
    let b := a.put reg (v &&& apertureMask reg)
    b.cfg = (if reg = 0 then v &&& 0xE03FFF0000000000 else a.cfg) ∧ b.win = (if reg = 1 then v &&& 0x0000007FFFE00000 else a.win) ∧
    b.len = (if reg = 2 then v &&& 0x0000007FFFE00000 else a.len) ∧ b.va = (if reg = 3 then v &&& 0x01FFFFFFFFE00000 else a.va) := by
  have hreg : reg = 0 ∨ reg = 1 ∨ reg = 2 ∨ reg = 3 := by revert reg; decide
  rcases hreg with rfl | rfl | rfl | rfl <;> exact ⟨rfl, rfl, rfl, rfl⟩

end

end Sys2Proof.Machine
end

section
/-! SUPPORT. Inbound accesses (R291): what base camp's use of a leaf leaves alone, and one equation for each way that a request ends. -/

namespace Sys2Proof.Machine

open Sys2Proof.Claims

/-! ## A leaf that base camp uses -/

section
variable (s : State) (n : CtxId) (va : Nat) (f : Found) (w : Bool)

/-- Of the state that the accesses of the host show, a leaf's a and d change device memory alone (R323). -/
theorem State.walked_leaves : (s.walked f w).ports = s.ports ∧ (s.walked f w).ctxs = s.ctxs ∧ (s.walked f w).sched = s.sched ∧
    (s.walked f w).dram = if f.ea = heldAt then s.dram else (s.touch f w).dram := by
  unfold State.walked
  split_ifs
  · exact ⟨rfl, rfl, rfl, rfl⟩
  · unfold State.touch
    dsimp only
    split_ifs <;> exact ⟨rfl, rfl, rfl, rfl⟩

/-- Base camp's TLB is neither of the ports nor of the contexts (R329). -/
theorem State.campUse_leaves : (s.campUse n va f w).ports = s.ports ∧ (s.campUse n va f w).ctxs = s.ctxs ∧
    (s.campUse n va f w).sched = s.sched ∧ (s.campUse n va f w).dram = if f.ea = heldAt then s.dram else (s.touch f w).dram := by
  obtain ⟨hports, hctxs, hsched, hdram⟩ := s.walked_leaves f w
  unfold State.campUse
  dsimp only
  split
  · exact ⟨hports, hctxs, hsched, hdram⟩
  · split_ifs <;> exact ⟨hports, hctxs, hsched, hdram.trans (by simp [*])⟩

end

theorem unwatched_campUse {s : State} {n m : CtxId} {va : Nat} {f : Found} {w : Bool} (h : unwatched s n) :
    unwatched (s.campUse m va f w) n := by
  obtain ⟨_, hctxs, _⟩ := s.campUse_leaves m va f w
  simpa only [unwatched, State.ctx, hctxs] using h

/-! ## Device memory of one page -/

section
variable {s : State} {n : CtxId} {va len : Nat} {f : Found} {w : Bool} (h : s.devPieces n va len w = some [(f, va, len)])
include h

/-- An extent of one piece: its one page has the leaf. -/
theorem State.devPieces_one : canonical va len = true ∧ pagesOf va len = [(va, len)] ∧ s.campLeaf n va = some f := by
  unfold State.devPieces at h
  by_cases hc : canonical va len = true
  · rw [hc, Bool.not_true, if_neg Bool.false_ne_true] at h
    match hp : pagesOf va len with
    | [] => simp [hp] at h
    | [p] =>
      rw [hp] at h
      simp only [List.mapM_cons, List.mapM_nil, Option.pure_def, Option.bind_eq_bind, Option.bind_eq_some_iff] at h
      obtain ⟨x, hx, ys, hys, e⟩ := h
      cases hys
      simp only [Option.some.injEq, List.cons.injEq, and_true] at e
      subst e
      split at hx
      · next g hg =>
        split_ifs at hx
        all_goals
          simp only [Option.some.injEq, Prod.mk.injEq] at hx
          obtain ⟨rfl, rfl, rfl⟩ := hx
          exact ⟨hc, rfl, hg⟩
      · cases hx
    | p :: q :: l =>
      rw [hp] at h
      simp only [List.mapM_cons, Option.pure_def, Option.bind_eq_bind, Option.bind_eq_some_iff] at h
      obtain ⟨_, _, _, ⟨_, _, _, _, e⟩, e'⟩ := h
      cases e
      cases e'
  · rw [Bool.not_eq_true] at hc
    rw [hc, Bool.not_false, if_pos rfl] at h
    cases h

theorem State.walkMarks_one (w' : Bool) : s.walkMarks n va len w' = s.campUse n va f w' := by
  obtain ⟨hc, hp, hf⟩ := State.devPieces_one h
  rw [State.walkMarks, if_pos hc, hp, List.foldl_cons, List.foldl_nil, if_neg Bool.false_ne_true, hf]

end

section
variable {s : State} {n : CtxId} {va : Nat} {f : Found}

theorem hxRead_one {len : Nat} (h : s.devPieces n va len false = some [(f, va, len)]) (hw : unwatched s n) :
    hxRead s n va len = some (memRead s.dram (f.pa va) len, s.campUse n va f false) := by
  have hread : s.ctxRead n va len = some (memRead s.dram (f.pa va) len, s.campUse n va f false) := by
    rw [State.ctxRead, h]
    rfl
  rw [hxRead, hread]
  dsimp only
  rw [raceAccess_unwatched (unwatched_campUse hw)]

theorem State.ctxWrite_one {data : List Byte} (h : s.devPieces n va data.length true = some [(f, va, data.length)]) :
    s.ctxWrite n va data = some ((s.campUse n va f true).writePhys (f.pa va) data) := by
  rw [State.ctxWrite, h]
  dsimp only [List.foldl_cons, List.foldl_nil]
  rw [List.take_length]

end

/-! ## Accesses that fail -/

theorem readFails_unserved (s : State) (n : Option CtxId) (off : Nat) : unserved s (.next (readFails s n off)) [.completerAbort] := by
  obtain ⟨rest, e⟩ := (s.send .completerAbort).logEntry_out (Config.freeNat (s.send .completerAbort).seq 1 % 4) blkHost n off 0
  exact ⟨_, rest, rfl, e, by simp [readFails, State.logFree]; rfl⟩

theorem writeFails_unserved (s : State) (n : Option CtxId) (off : Nat) : unserved s (.next (writeFails s n off)) [] := by
  obtain ⟨rest, e⟩ := s.logEntry_out (Config.freeNat s.seq 1 % 4) blkHost n off 0
  exact ⟨_, rest, rfl, by rw [List.append_nil]; exact e, by simp [writeFails, State.logFree]⟩

/-! ## Apertures and what they reach -/

theorem Aperture.ctx_eq (a : Aperture) : a.ctx = BitVec.ofNat 6 (a.cfg.toNat / 2 ^ 48) := ofNat_bits a.cfg 53 48

theorem Aperture.core_eq (a : Aperture) : a.core = BitVec.ofNat 8 (a.cfg.toNat / 2 ^ 40) := ofNat_bits a.cfg 47 40

theorem Aperture.va_eq (a : Aperture) : bits a.va 56 21 = a.va.toNat / 2 ^ 21 % 2 ^ 36 := rfl

theorem State.scratchReach_iff {s : State} {a : Aperture} {o len : Nat} : s.scratchReach a o len = true ↔
    o + len ≤ 0x40000 ∧ (s.core a.core).run ≠ .idle ∧ (s.core a.core).run ≠ .dead ∧ (s.core a.core).task.ctx = a.ctx := by
  simp only [State.scratchReach, Core.runsFor, Bool.and_eq_true, decide_eq_true_eq, bne_iff_ne, beq_iff_eq, and_assoc]

set_option linter.auxLemma false in
/-- What an inbound access makes of its pieces: `State.inboundPa` with the translation given. The kernel compares the two as written
only when it unfolds both in one step, so this one has the same matcher, and names `State.devPieces` to stand as high; a matcher of its
own would have the kernel evaluate the translation of an unknown address. -/
def onePiecePa (pieces : Option (List (Found × Nat × Nat))) : Option Nat :=
  let _ := State.devPieces
  State.inboundPa.match_1 (fun _ => Option Nat) pieces (fun f va _ => some (f.pa va)) fun _ => none

section
variable {s : State} {a : Aperture} {o va len : Nat} {w : Bool} (hva : bits a.va 56 21 * 2 ^ 21 + o = va)
include hva

theorem State.inboundPa_eq : s.inboundPa a o len w = onePiecePa (s.devPieces a.ctx va len w) := by
  rw [← hva]
  rfl

theorem State.inboundPa_none (h : s.devPieces a.ctx va len w = none) : s.inboundPa a o len w = none := by
  rw [State.inboundPa_eq hva, h]
  rfl

theorem State.inboundPa_one {f : Found} (h : s.devPieces a.ctx va len w = some [(f, va, len)]) :
    s.inboundPa a o len w = some (f.pa va) := by
  rw [State.inboundPa_eq hva, h]
  rfl

end

/-! ## Requests -/

section
variable {s : State} {off len : Nat} {data : List Byte}

theorem onePage_iff : onePage off len = true ↔ 0 < len ∧ off % 4096 + len ≤ 4096 := by
  simp only [onePage, Bool.and_eq_true, decide_eq_true_eq]

theorem inboundRead_nowhere (h : s.fleet.slpState = 2 ∨ s.apertureAt off = none) : inboundRead s off len = readFails s none off := by
  rw [inboundRead]
  split_ifs with hs
  · rfl
  · rw [h.resolve_left hs]

theorem inboundWrite_nowhere (h : s.fleet.slpState = 2 ∨ s.apertureAt off = none) :
    inboundWrite s off data = writeFails s none off := by
  rw [inboundWrite]
  split_ifs with hs
  · rfl
  · rw [h.resolve_left hs]

section
variable {a : Aperture} {o : Nat} (hs : s.fleet.slpState ≠ 2) (ha : s.apertureAt off = some (a, o))
include hs ha

theorem inboundRead_dead (hd : (s.ctx a.ctx).dead = true) :
    inboundRead s off len = s.send (.readDone (List.replicate len 0) false) := by
  rw [inboundRead, if_neg hs, ha]
  exact if_pos hd

theorem inboundWrite_dead (hd : (s.ctx a.ctx).dead = true) : inboundWrite s off data = s := by
  rw [inboundWrite, if_neg hs, ha]
  exact if_pos hd

variable (hd : (s.ctx a.ctx).dead = false)
include hd

theorem inboundRead_scratch (hk : a.cfg.getLsbD 62 = true) : inboundRead s off len =
    if s.scratchReach a o len then s.send (.readDone (memRead (s.core a.core).scratch o len) false)
    else readFails s (some a.ctx) off := by
  rw [inboundRead, if_neg hs, ha]
  exact (if_neg (Bool.not_eq_true _ ▸ hd)).trans (if_pos ((bit_eq_getLsbD _ _).trans hk))

section
variable {va : Nat} (hva : bits a.va 56 21 * 2 ^ 21 + o = va) (hk : a.cfg.getLsbD 62 = false)
include hva hk

/-- An access through a kind 0 aperture comes to its translation (R291). -/
theorem inboundRead_device : inboundRead s off len =
    match s.inboundPa a o len false with
    | none => readFails (s.walkMarks a.ctx va len false) (some a.ctx) off
    | some pa =>
      if s.poisoned pa len then
        let s := s.walkMarks a.ctx va len false
        { s.send (.readDone ((List.range len).map (Config.freeByte s.seq)) true) with seq := s.seq + 1 }
      else match hxRead s a.ctx va len with
        | some (b, s) => s.send (.readDone b false)
        | none => readFails s (some a.ctx) off := by
  rw [inboundRead, if_neg hs, ha]
  generalize State.inboundPa = reach, hxRead = read
  dsimp -zeta only
  rw [hva]
  refine (if_neg (Bool.not_eq_true _ ▸ hd)).trans ((if_neg ?_).trans ?_)
  · rw [bit_eq_getLsbD, hk]
    exact Bool.false_ne_true
  · cases reach s a o len false <;> rfl

theorem inboundRead_unmapped (hp : s.devPieces a.ctx va len false = none) :
    inboundRead s off len = readFails (s.walkMarks a.ctx va len false) (some a.ctx) off := by
  rw [inboundRead_device hs ha hd hva hk, State.inboundPa_none hva hp]

section
variable {f : Found} (hp : s.devPieces a.ctx va len false = some [(f, va, len)])
include hp

theorem inboundRead_poisoned (hq : s.poisoned (f.pa va) len = true) : inboundRead s off len =
    let t := s.campUse a.ctx va f false
    { t.send (.readDone ((List.range len).map (Config.freeByte t.seq)) true) with seq := t.seq + 1 } := by
  rw [inboundRead_device hs ha hd hva hk, State.inboundPa_one hva hp, ← State.walkMarks_one hp]
  exact if_pos hq

theorem inboundRead_served (hu : unwatched s a.ctx) (hq : s.poisoned (f.pa va) len = false) :
    inboundRead s off len = (s.campUse a.ctx va f false).send (.readDone (memRead s.dram (f.pa va) len) false) := by
  rw [inboundRead_device hs ha hd hva hk, State.inboundPa_one hva hp, hxRead_one hp hu]
  exact if_neg (Bool.not_eq_true _ ▸ hq)

end
end

theorem inboundWrite_readOnly (hw : a.cfg.getLsbD 61 = false) : inboundWrite s off data = writeFails s (some a.ctx) off := by
  rw [inboundWrite, if_neg hs, ha]
  refine (if_neg (Bool.not_eq_true _ ▸ hd)).trans (if_pos ?_)
  rw [bit_eq_getLsbD, hw, Bool.not_false]

variable (hw : a.cfg.getLsbD 61 = true)
include hw

theorem inboundWrite_scratch (hk : a.cfg.getLsbD 62 = true) : inboundWrite s off data =
    if s.scratchReach a o data.length then s.modCore a.core fun c => c.writeScratch o data
    else writeFails s (some a.ctx) off := by
  rw [inboundWrite, if_neg hs, ha]
  refine (if_neg (Bool.not_eq_true _ ▸ hd)).trans ((if_neg ?_).trans (if_pos ((bit_eq_getLsbD _ _).trans hk)))
  rw [bit_eq_getLsbD, hw, Bool.not_true]
  exact Bool.false_ne_true

variable {va : Nat} (hva : bits a.va 56 21 * 2 ^ 21 + o = va) (hk : a.cfg.getLsbD 62 = false)
include hva hk

theorem inboundWrite_device : inboundWrite s off data =
    match s.inboundPa a o data.length true with
    | none => writeFails (s.walkMarks a.ctx va data.length true) (some a.ctx) off
    | some _ =>
      match (raceAccess s a.ctx (.hx false) va data.length true 0 false).1.ctxWrite a.ctx va data with
      | some t => t
      | none => writeFails (raceAccess s a.ctx (.hx false) va data.length true 0 false).1 (some a.ctx) off := by
  rw [inboundWrite, if_neg hs, ha]
  generalize State.inboundPa = reach, State.ctxWrite = write, raceAccess = race
  dsimp -zeta only
  rw [hva]
  refine (if_neg (Bool.not_eq_true _ ▸ hd)).trans ((if_neg ?_).trans ((if_neg ?_).trans ?_))
  · rw [bit_eq_getLsbD, hw, Bool.not_true]
    exact Bool.false_ne_true
  · rw [bit_eq_getLsbD, hk]
    exact Bool.false_ne_true
  · cases reach s a o data.length true <;> rfl

theorem inboundWrite_unmapped (hp : s.devPieces a.ctx va data.length true = none) :
    inboundWrite s off data = writeFails (s.walkMarks a.ctx va data.length true) (some a.ctx) off := by
  rw [inboundWrite_device hs ha hd hw hva hk, State.inboundPa_none hva hp]

theorem inboundWrite_served {f : Found} (hp : s.devPieces a.ctx va data.length true = some [(f, va, data.length)])
    (hu : unwatched s a.ctx) : inboundWrite s off data = (s.campUse a.ctx va f true).writePhys (f.pa va) data := by
  rw [inboundWrite_device hs ha hd hw hva hk, State.inboundPa_one hva hp, raceAccess_unwatched hu, State.ctxWrite_one hp]

end
end

end Sys2Proof.Machine
end

section
/-! CLAIM. HostRequests: what the host writes of base camp, and the accesses that it makes in the apertures of BAR2. -/

open Sys2Proof.Machine Sys2Proof.Claims

namespace Sys2Proof.Machine

section
variable {s : State} {off : BitVec 39} {len : Nat} {data : List Byte}

theorem exec_inboundRead (h : 0 < len) (hp : off.toNat % 4096 + len ≤ 4096) :
    exec (.inboundRead off len) s = .next (inboundRead s off.toNat len) := congrArg _ (if_pos (onePage_iff.mpr ⟨h, hp⟩))

theorem exec_inboundWrite (h : 0 < data.length) (hp : off.toNat % 4096 + data.length ≤ 4096) :
    exec (.inboundWrite off data) s = .next (inboundWrite s off.toNat data) := congrArg _ (if_pos (onePage_iff.mpr ⟨h, hp⟩))

theorem not_onePage {n : Nat} (h : n = 0 ∨ 4096 < off.toNat % 4096 + n) : ¬onePage off.toNat n = true := by
  rw [onePage_iff]
  omega

variable {a : Aperture} {o va : Nat} {n : CtxId} {k : CoreId} {c : Core} (hs : s.fleet.slpState ≠ 2)
  (ha : s.apertureAt off.toNat = some (a, o)) (hn : a.ctx = n) (hk : a.core = k) (hc : s.core k = c)
  (hva : bits a.va 56 21 * 2 ^ 21 + o = va)
include hs ha hn hk hc hva

/-- A read of BAR2 that an aperture takes (R291): of a dead context, of scratch, and of device memory. -/
theorem exec_inboundRead_aperture (hlen : 0 < len) (hpage : off.toNat % 4096 + len ≤ 4096) :
    let reach := o + len ≤ 0x40000 ∧ c.run ≠ .idle ∧ c.run ≠ .dead ∧ c.task.ctx = n
    ((s.ctx n).dead = true → exec (.inboundRead off len) s = .next (s.send (.readDone (List.replicate len 0) false))) ∧
    ((s.ctx n).dead = false → a.cfg.getLsbD 62 = true → reach →
      exec (.inboundRead off len) s = .next (s.send (.readDone (memRead c.scratch o len) false))) ∧
    ((s.ctx n).dead = false → a.cfg.getLsbD 62 = true → ¬reach →
      unserved s (exec (.inboundRead off len) s) [.completerAbort]) ∧
    ((s.ctx n).dead = false → a.cfg.getLsbD 62 = false → s.devPieces n va len false = none →
      unserved (s.walkMarks n va len false) (exec (.inboundRead off len) s) [.completerAbort]) ∧
    (∀ f, (s.ctx n).dead = false → a.cfg.getLsbD 62 = false → s.devPieces n va len false = some [(f, va, len)] →
      (unwatched s n → s.poisoned (f.pa va) len = false →
        ∃ t, exec (.inboundRead off len) s = .next t ∧
          t.ports.out = s.ports.out ++ [.readDone (memRead s.dram (f.pa va) len) false] ∧ t.cores = s.cores ∧
          t.ctxs = s.ctxs ∧ t.sched = s.sched ∧ t.dram = if f.ea = heldAt then s.dram else (s.touch f false).dram) ∧
      (s.poisoned (f.pa va) len = true → ∃ t b, exec (.inboundRead off len) s = .next t ∧
        t.ports.out = s.ports.out ++ [.readDone b true] ∧ t.cores = s.cores ∧
        t.dram = if f.ea = heldAt then s.dram else (s.touch f false).dram)) := by
  subst hn hk hc
  rw [exec_inboundRead hlen hpage]
  refine ⟨fun hd => ?_, fun hd hkind hreach => ?_, fun hd hkind hreach => ?_, fun hd hkind hp => ?_, fun f hd hkind hp => ⟨?_, ?_⟩⟩
  · rw [inboundRead_dead hs ha hd]
  · rw [inboundRead_scratch hs ha hd hkind, if_pos (State.scratchReach_iff.mpr hreach)]
  · rw [inboundRead_scratch hs ha hd hkind, if_neg (hreach ∘ State.scratchReach_iff.mp)]
    exact readFails_unserved _ _ _
  · rw [inboundRead_unmapped hs ha hd hva hkind hp]
    exact readFails_unserved _ _ _
  · intro hu hq
    obtain ⟨hports, hctxs, hsched, hdram⟩ := s.campUse_leaves a.ctx va f false
    exact ⟨_, congrArg _ (inboundRead_served hs ha hd hva hkind hp hu hq), congrArg (·.out ++ _) hports, State.campUse_cores _ _ _ _ _,
      hctxs, hsched, hdram⟩
  · intro hq
    obtain ⟨hports, _, _, hdram⟩ := s.campUse_leaves a.ctx va f false
    exact ⟨_, _, congrArg _ (inboundRead_poisoned hs ha hd hva hkind hp hq), congrArg (·.out ++ _) hports,
      State.campUse_cores _ _ _ _ _, hdram⟩

/-- A write of BAR2 that an aperture takes (R291). -/
theorem exec_inboundWrite_aperture (hlen : 0 < data.length) (hpage : off.toNat % 4096 + data.length ≤ 4096) :
    let reach := o + data.length ≤ 0x40000 ∧ c.run ≠ .idle ∧ c.run ≠ .dead ∧ c.task.ctx = n
    ((s.ctx n).dead = true → exec (.inboundWrite off data) s = .next s) ∧
    ((s.ctx n).dead = false → a.cfg.getLsbD 61 = false → unserved s (exec (.inboundWrite off data) s) []) ∧
    ((s.ctx n).dead = false → a.cfg.getLsbD 61 = true → a.cfg.getLsbD 62 = true → reach →
      ∃ t, exec (.inboundWrite off data) s = .next t ∧ (t.core k).scratch = memWrite c.scratch o data ∧
        (t.core k).regs = c.regs ∧ (∀ j, j ≠ k → t.core j = s.core j) ∧ t.dram = s.dram) ∧
    ((s.ctx n).dead = false → a.cfg.getLsbD 61 = true → a.cfg.getLsbD 62 = true → ¬reach →
      unserved s (exec (.inboundWrite off data) s) []) ∧
    ((s.ctx n).dead = false → a.cfg.getLsbD 61 = true → a.cfg.getLsbD 62 = false → s.devPieces n va data.length true = none →
      unserved (s.walkMarks n va data.length true) (exec (.inboundWrite off data) s) []) ∧
    (∀ f, (s.ctx n).dead = false → a.cfg.getLsbD 61 = true → a.cfg.getLsbD 62 = false → unwatched s n →
      s.devPieces n va data.length true = some [(f, va, data.length)] →
      ∃ t, exec (.inboundWrite off data) s = .next t ∧ t.ports.out = s.ports.out ∧ t.cores = s.cores ∧ t.ctxs = s.ctxs ∧
        t.sched = s.sched ∧
        t.dram = memWrite (if f.ea = heldAt then s.dram else (s.touch f true).dram) (f.pa va) data) := by
  subst hn hk hc
  rw [exec_inboundWrite hlen hpage]
  refine ⟨fun hd => ?_, fun hd hw => ?_, fun hd hw hkind hreach => ?_, fun hd hw hkind hreach => ?_, fun hd hw hkind hp => ?_,
    fun f hd hw hkind hu hp => ?_⟩
  · rw [inboundWrite_dead hs ha hd]
  · rw [inboundWrite_readOnly hs ha hd hw]
    exact writeFails_unserved _ _ _
  · rw [inboundWrite_scratch hs ha hd hw hkind, if_pos (State.scratchReach_iff.mpr hreach)]
    refine ⟨_, rfl, ?_, ?_, fun j hj => State.core_modCore_ne s _ hj, rfl⟩
    · rw [State.core_modCore, Core.writeScratch]
    · rw [State.core_modCore, Core.writeScratch_regs]
  · rw [inboundWrite_scratch hs ha hd hw hkind, if_neg (hreach ∘ State.scratchReach_iff.mp)]
    exact writeFails_unserved _ _ _
  · rw [inboundWrite_unmapped hs ha hd hw hva hkind hp]
    exact writeFails_unserved _ _ _
  · obtain ⟨hports, hctxs, hsched, hdram⟩ := s.campUse_leaves a.ctx va f true
    exact ⟨_, congrArg _ (inboundWrite_served hs ha hd hw hva hkind hp hu), congrArg (·.out) hports, State.campUse_cores _ _ _ _ _,
      hctxs, hsched, congrArg (memWrite · (f.pa va) data) hdram⟩

end

end Sys2Proof.Machine

/-- Settles O50: a register of base camp takes a write that its rules allow and logs any other, by the equation of each; an access of
BAR2 ends by its aperture's kind, the context's life and what the translation of its one page finds. -/
theorem hostRequests : Obligations.HostRequests := by
  unfold Obligations.HostRequests
  intro n v w ap reg off len data s x sched other slots
  refine ⟨fun vec _ => ⟨State.msix_masked, State.msix_unmasked⟩, fun hr h => congrArg _ (ctxCfgWrite_allowed hr h), fun h => ?_,
    ⟨fun h => ?_, fun h hback => congrArg _ (sqTailWrite_back h hback), fun h hfwd hpast => congrArg _ (sqTailWrite_past h hfwd hpast),
      fun h hfwd hroom => ?_⟩,
    ⟨apertureWrite_refused, fun h => ?_⟩, rfl, fun hlen hpage => ⟨fun h => ?_, fun a o hs ha => ?_⟩,
    fun h => congrArg _ (if_neg (not_onePage h)), fun hlen hpage => ⟨fun h => ?_, fun a o hs ha => ?_⟩,
    fun h => congrArg _ (if_neg (not_onePage h))⟩
  case refine_1 =>
    change loggedOnly s (.next (ctxCfgWrite s n v))
    rw [ctxCfgWrite_refused h]
    exact refuseWrite_loggedOnly _ _ _ _ _
  case refine_2 =>
    change loggedOnly s (.next (sqTailWrite s n w))
    rw [sqTailWrite_refused h]
    exact refuseWrite_loggedOnly _ _ _ _ _
  case refine_3 =>
    obtain ⟨hctxs, hcores, hdram, hlose, hstate⟩ := tailWakes_leaves (s.setCtx n { x with sqTail := w })
    exact ⟨_, congrArg Host.Outcome.next (sqTailWrite_takes h hfwd hroom),
      (State.ctx_of_ctxs hctxs n).trans (State.ctx_setCtx s n { x with sqTail := w }), hcores, hdram, hlose, hstate⟩
  case refine_4 => exact ⟨_, _, congrArg Host.Outcome.next (apertureWrite_takes h), rfl, Aperture.put_masked _ _ _⟩
  case refine_5 =>
    rw [exec_inboundRead hlen hpage, inboundRead_nowhere h]
    exact readFails_unserved _ _ _
  case refine_6 => exact exec_inboundRead_aperture hs ha a.ctx_eq a.core_eq rfl (by rw [a.va_eq]) hlen hpage
  case refine_7 =>
    rw [exec_inboundWrite hlen hpage, inboundWrite_nowhere h]
    exact writeFails_unserved _ _ _
  case refine_8 => exact exec_inboundWrite_aperture hs ha a.ctx_eq a.core_eq rfl (by rw [a.va_eq]) hlen hpage

end

section
/-! CLAIM. Copies (O32). The counterexample is a finished copy whose tag number names, in base camp's ring, a notice that has yet to be
written. -/

namespace Sys2Proof.Machine

/-- A copy of 8 bytes of core 0's plain scratch, from address 0 to address 64, that has finished. -/
def finishedCopy : Tag where
  pc := 0
  op := 0
  cmd := 0
  dest := BitVec.ofNat 64 (2 ^ 61 + 64)
  src := BitVec.ofNat 64 (2 ^ 61)
  t := false
  target := 0
  va := none
  status := 0
  pkey := 0
  what := .cpy 8
  phase := .finished
  todo := []
  sent := []
  got := []
  held := []
  moved := 8
  owed := 0
  trans := []
  blkSrc := 0
  blkOut := 0
  blkIdx := 0
  blkLen := none
  blkHead := 0
  noticed := false
  order := 0

/-- That copy under tag 0 of core 0, while a notice of core 0's tag 0 is on its way to the fault ring (R344, R345). -/
def noticeUnderWay : State :=
  { State.reset with
    cores := [(0, { Core.reset with run := .running, tags := [(0, some finishedCopy)] })]
    sched := { Sched.reset with
      ringOut := [⟨0, (Core.reset.tagRecord causeBlock 0 finishedCopy).bytes 0 Task.reset, 0, 0, none⟩] } }

/-- Whether tag 0 of core 0 is in use. -/
def tagInUse (o : Out) : Bool :=
  match o with
  | .next s => ((s.core 0).tag 0).isSome
  | _ => false

/-- COPY_COMPLETE keeps a tag while the ring holds a notice of its number. -/
theorem copyComplete_keeps_tag : tagInUse (exec (.copyComplete 0 0) noticeUnderWay) = true := by decide +kernel

end Sys2Proof.Machine

open Sys2Proof.Machine Sys2Proof.Claims in
/-- Refutes O32: the clause that the tag of a finished command frees leaves out R344's wait. Where a notice of the same core and tag
number is still on its way to the fault ring, COPY_COMPLETE keeps the tag, although the command itself has no block fault to report. -/
theorem not_copiesMove : ¬ Obligations.CopiesMove := by
  intro h
  obtain ⟨hown, -⟩ := h
  have hquiet : quietTag finishedCopy := ⟨rfl, rfl, rfl, rfl, rfl⟩
  obtain ⟨-, -, -, hfrees⟩ := hown 0 0 finishedCopy 0 64 8 noticeUnderWay (by decide +kernel) rfl (by decide) (by decide +kernel)
    (by decide +kernel) (by decide) (by decide) hquiet
  have hkept := copyComplete_keeps_tag
  rw [hfrees rfl (by decide +kernel)] at hkept
  revert hkept
  decide +kernel
end
